-- ==== Sys2Proof/Word.lean ====
section
/-! DEFINITION. Sys2Proof/Word.lean: the word types of the model (R8: bit 0 is the least significant bit). -/

namespace Sys2Proof

/-- A byte. -/
abbrev Byte := BitVec 8
/-- A 16-bit field. -/
abbrev W16 := BitVec 16
/-- A 32-bit field. -/
abbrev W32 := BitVec 32
/-- A 64-bit field. -/
abbrev W64 := BitVec 64
/-- An IPv6 address, most significant byte first in the number. -/
abbrev Ip6 := BitVec 128

end Sys2Proof
end

