-- ==== Sys2Proof/Syntax.lean ====
section
/-! DEFINITION. Sys2Proof/Syntax.lean: the commands of the block. One constructor of `Instr` per row of the opcode
table, in the table's order, with the operands the row's rule gives it. What the outside world or the physical
silicon decides (a training outcome, the bytes of a packet, a host buffer's content) is an operand. -/

namespace Sys2Proof

/-- The way a mailbox command arrives (R107, R116): a BAR0 ring, or the management network. -/
inductive Path where
  | ring (n : Fin 8)
  | net
  deriving DecidableEq, Repr

/-- The header of a command entry (Table 04-6) as the device fetched it, with the exchange id of Table 16-6 on the
management network. `reserved` says that a reserved field or bit outside `PARAM` is nonzero (R11, R104); `bufFault`
says that the host refuses the device's access to the buffer (R119), and `cplFault` that its writes of the command's
completions fail in the host (R111). -/
structure Hdr where
  path     : Path
  xid      : BitVec 32
  tag      : BitVec 16
  fence    : Bool
  noIntr   : Bool
  sector   : BitVec 8
  bufAddr  : BitVec 64
  bufLen   : BitVec 32
  param    : List Byte
  reserved : Bool
  bufFault : Bool
  cplFault : Bool
  deriving DecidableEq, Repr

/-- How a boot stage's hardware action ends (R58). -/
inductive StageResult where
  | ok
  | fail
  deriving DecidableEq, Repr

/-- The Ethernet mode a fabric port came up in (Table 14-1). -/
inductive PortMode where
  | cr4
  | kr4
  | gaui4
  deriving DecidableEq, Repr

/-- The duplicated records of the journal memories (R23). -/
inductive RecKind where
  | boot
  | saved (n : Fin 4)
  | memCfg
  | fence
  | healthCfg
  | healthState
  | warmDir
  deriving DecidableEq, Repr

/-- Where an interruption cut the write of a duplicated record (R23): in the copy of `JRN_A`, between the two copies, or in the copy
of `JRN_B`. -/
inductive Cut where
  | inA
  | between
  | inB
  deriving DecidableEq, Repr

/-- What the journal memories do from the start of a boot on: the copies whose access times out at the `JOURNAL` stage (R60), and
how many record writes to each memory pass their read-back verification before one fails (none: every one passes; R64). -/
structure JrnFaults where
  deadA : Bool
  deadB : Bool
  lifeA : Option Nat
  lifeB : Option Nat
  deriving DecidableEq, Repr

/-- A configuration access of the host (R34): a read of the CXL DVSEC range registers that report the host window (R296), the taking
of the response that waits in the CXL DOE mailbox (R90, R91), or another. -/
inductive CfgReg where
  | doeRead
  | rangeSizeHigh
  | rangeSizeLow
  | other
  deriving DecidableEq, Repr

/-- What SEC finds in a boot-memory slot whose bytes are those of manufacture, which the spec does not give: the result
of Table 03-3 but for the SVN and key-revocation comparisons, which the model makes, and the fields later rules read.
`header` is SHA-256 of 32 zero bytes and the header bytes 0x000 to 0x47F: measurement register 2 once extended (Table 03-4);
`body` is the SHA-256 of the body; `sections` are the types and bytes of its sections. -/
structure ImageReport where
  verifies : Bool
  keySlot  : Fin 4
  svn      : Nat
  version  : BitVec 32
  header   : BitVec 256
  body     : BitVec 256
  sections : List (Nat × List (BitVec 8))
  deriving DecidableEq, Repr

/-- Why a tier move fails (R325). -/
inductive MoveCause where
  | memUncorr
  | flashUnreadable
  | hostAccess
  | noSpace
  | degraded
  deriving DecidableEq, Repr

/-- The algorithms an SPDM requester offers (R90, Table 03-5). -/
structure SpdmAlgs where
  dmtf      : Bool
  pss3072   : Bool
  sha256    : Bool
  deriving DecidableEq, Repr

/-- The fields of a 128-bit facet instruction beside its opcode byte (Table 05-6). -/
structure Ins where
  fl  : BitVec 8
  d   : BitVec 8
  a   : BitVec 8
  b   : BitVec 8
  c   : BitVec 8
  x   : BitVec 16
  imm : BitVec 64
  deriving DecidableEq, Repr

/-- What the SECDED code finds on the facet stores that a command reads (R128): corrected counts, and the place of an
uncorrectable error. `imem` is the fetched instruction, `spm` the scratchpad, `arr` the accumulator file, the VE tile
buffers and the weight registers. -/
structure Ecc where
  imemCorr : Bool
  imemBad  : Bool
  spmCorr  : Nat
  spmBad   : Option Nat
  arrCorr  : Nat
  arrBad   : Option Nat
  deriving DecidableEq, Repr

/-- Every store reads clean. -/
abbrev Ecc.clean : Ecc := ⟨false, false, 0, none, 0, none⟩

/-- The queues of a facet that a queued instruction starts from (Table 05-5); the matrix unit has two pipes. -/
inductive FacetUnit where
  | mmaLoad
  | mmaRun
  | acc
  | ve
  | dma
  | tok
  deriving DecidableEq, Repr

/-- An error that a memory sector shows: symbol `sym` of sector number `sector` (DPA / 32) differs by `value`; a stuck
fault lies on the location and returns at every read (R289, R293). -/
structure SymErr where
  sector : Nat
  sym    : Fin 36
  value  : Byte
  stuck  : Bool
  deriving DecidableEq, Repr

/-- A network interface of the module: fabric port or management port (Table 01-6). -/
inductive Via where
  | fabric (p : Fin 8)
  | mgmt (p : Fin 2)
  deriving DecidableEq, Repr

/-- The Chord header of a packet (Table 14-2), with the interface it came in on and the sender's address. `malformed`
covers the checks of R382 on the bytes alone: unknown `VERSION` or `TYPE`, a reserved bit, a wrong `LEN`. -/
structure ChordHdr where
  via       : Via
  src       : BitVec 128
  malformed : Bool
  ce        : Bool
  retx      : Bool
  ceEcho    : Bool
  final     : Bool
  epoch     : BitVec 16
  job       : BitVec 32
  step      : BitVec 64
  coll      : BitVec 32
  seq       : BitVec 32
  srcRank   : BitVec 16
  dstRank   : BitVec 16
  ports     : BitVec 8
  offset    : BitVec 64
  ack       : BitVec 32
  deriving DecidableEq, Repr

/-- A vote or confirm record (Table 13-9); `commit` is the confirm record's bit; `crcOk` says its `CRC` matches. -/
structure VoteRec where
  nonfinite    : Bool
  staged       : Bool
  forced       : Bool
  commit       : Bool
  epoch        : BitVec 16
  job          : BitVec 32
  step         : BitVec 64
  generation   : BitVec 64
  rank         : BitVec 16
  members      : BitVec 16
  replicaGroup : BitVec 16
  microBatches : BitVec 16
  digest       : BitVec 64
  forceCause   : BitVec 32
  tDetectUs    : BitVec 16
  crcOk        : Bool
  deriving DecidableEq, Repr

/-- An abort token (Table 14-10). -/
structure AbortTok where
  voteState    : BitVec 8
  cause        : BitVec 8
  originRank   : BitVec 16
  detectedRank : BitVec 16
  deriving DecidableEq, Repr

/-- A HEARTBEAT payload (Table 14-10). -/
structure Heartbeat where
  armedStep : BitVec 64
  layoutCrc : BitVec 32
  state     : BitVec 8
  tDetectUs : BitVec 16
  deriving DecidableEq, Repr

/-- A copy descriptor of a mirror region (Table 15-2). -/
structure CopyDesc where
  generation : BitVec 64
  step       : BitVec 64
  codedBytes : BitVec 64
  complete   : Bool
  crcOk      : Bool
  deriving DecidableEq, Repr

/-- A management CMD segment but for its `LAST` flag and its bytes (Table 16-6): the port it comes in on, its sender, and the fields
of its header. -/
structure MgmtMsg where
  port   : Fin 2
  src    : BitVec 128
  xid    : BitVec 32
  offset : BitVec 32
  total  : BitVec 32
  deriving DecidableEq, Repr

/-- An ANNOUNCE payload (R464). -/
structure Announcement where
  job      : BitVec 32
  rank     : BitVec 16
  portsUp  : BitVec 8
  flags    : BitVec 8
  serial   : BitVec 64
  score    : BitVec 16
  conf     : BitVec 16
  mgmtAddr : List (BitVec 128)
  fabAddr  : List (BitVec 128)
  deriving DecidableEq, Repr

/-- An operation on the JTAG test access port (R92). -/
inductive TapOp where
  | idcode
  | bypass
  | apex (addr : BitVec 64)
  deriving DecidableEq, Repr

/-- The commands of the block: one constructor per row of the opcode table. The rows without operands stand last, so that Lean's
evaluator can run every command. -/
inductive Instr where
  /-- `SELF_REFRESH_ENTRY_DONE` (R53). A Prism completes self-refresh entry during a warm reset and sets its SR_DONE bit. -/
  | selfRefreshEntryDone (n : Fin 4)
  /-- `MGMT_STAGE_END` (R59). A management port training stage ends OK, fails or is skipped. -/
  | mgmtStageEnd (p : Fin 2) (r : StageResult)
  /-- `IMAGE_STAGE_END` (R80). SEC finishes verifying the active or alternative image, or recovery mode is entered. -/
  | imageStageEnd (active other : ImageReport) (identA identB : Bool)
  /-- `VARLUX_STAGE_END` (R58). Varlux start and the Apex SRAM test end; a failure increments the IMAGE count and causes a warm reset with source 0x07. -/
  | varluxStageEnd (r : StageResult)
  /-- `CLOCKS_STAGE_END` (R56). The remaining PLLs lock, a Prism PLL failure fences its Prism, and a Lattice or Vertex PLL failure ends the boot below the floor. -/
  | clocksStageEnd (prismPllFail : BitVec 4) (lvPll : StageResult)
  /-- `D2D_STAGE_END` (R56). Die-to-die link training ends, with modules removed or Prisms fenced as R19 and R20 require. -/
  | d2dStageEnd (working : List Nat)
  /-- `MEM_STAGE_END` (R308). A Prism's MEM stage ends after self-refresh exit, initialisation with saved parameters or full training. -/
  | memStageEnd (n : Fin 4) (r : StageResult) (failedPairs : BitVec 8) (stream : Option (List (BitVec 8)) := none)
  /-- `LATTICE_STAGE_END` (R453). The facet self-test, or its alternative, ends and columns are fenced from the fence map. -/
  | latticeStageEnd (r : StageResult) (failedColumns : BitVec 12) (stream : Option (List (BitVec 8)) := none)
  /-- `FLASH_STAGE_END` (R335). The flash translation layer is mounted, or the stage is skipped and the flash tier is absent for the boot. -/
  | flashStageEnd (r : StageResult) (stream : Option (List (BitVec 8)) := none)
  /-- `FABRIC_STAGE_END` (R376). A fabric port finishes training in CR4, KR4 or 800GAUI-4, or fails and is fenced for the boot. -/
  | fabricStageEnd (p : Fin 8) (r : StageResult) (mode : PortMode) (stream : Option (List (BitVec 8)) := none)
  /-- `READY_STAGE` (R61). READY checks the service floor, applies the GPIO functions, publishes DEVICE_INFO, sets BAR0 ready and releases FAULT. -/
  | readyStage (r : StageResult)
  /-- `AON_WDT_CTRL_WRITE` (R49). A write to AON_WDT_CTRL sets the period (restarting it), EN, BOOT or clears EXPIRED1. -/
  | aonWdtCtrlWrite (v : BitVec 32)
  /-- `AON_WDT_KICK` (R49). Writing 0x0000_C35A restarts the watchdog period and clears EXPIRED1. -/
  | aonWdtKick (v : BitVec 32)
  /-- `D2D_FLIT_CHECK_FAIL` (R19). A received flit fails its check and is replayed from the sender's retry buffer, and the replay is counted. -/
  | d2dFlitCheckFail (link : Fin 9) (module : Fin 4 := 0)
  /-- `D2D_MODULE_REMOVE` (R19). A UCIe module exceeds 1,024 replays in 1 ms and is removed from its link; a link with no module left goes down under R20. -/
  | d2dModuleRemove (link : Fin 9) (module : Fin 4 := 0)
  /-- `SMB_READ_BYTE` (R28). An SMBus Read Byte returns a byte register, or the low byte of a word register. -/
  | smbReadByte (off : BitVec 8)
  /-- `SMB_READ_WORD` (R28). An SMBus Read Word returns a word register, a byte register zero-extended, or 0x0000. -/
  | smbReadWord (off : BitVec 8)
  /-- `SMB_WRITE_BYTE` (R29). An SMBus Write Byte clears SB_ALERT bits W1C and is ignored at any other offset. -/
  | smbWriteByte (off v : BitVec 8)
  /-- `SMB_ALERT_RESPONSE` (R28). A read of the Alert Response Address answers under arbitration, and a target that wins releases ALERT#. -/
  | smbAlertResponse (won : Bool)
  /-- `CXL_MEM_READ` (R303). A host CXL.mem read through the HDM window returns data, returns poison, or returns poison for an absent granule. -/
  | cxlMemRead (off : BitVec 64)
  /-- `CXL_MEM_WRITE` (R292). A host whole-sector CXL.mem write, or one carrying data poison, writes the window. -/
  | cxlMemWrite (off : BitVec 64) (data : List Byte) (poison : Bool)
  /-- `CXL_MEM_NARROW_WRITE` (R294). A host partial write is discarded in mode 0, or merged by read-modify-write in mode 1. -/
  | cxlMemNarrowWrite (off : BitVec 64) (data : List Byte) (enables : BitVec 64) (poison : Bool := false)
  /-- `BACK_INVALIDATE_RESPONSE` (R298). The host answers a BISnpInv or BISnpData, so the device engine access to the window line proceeds. -/
  | backInvalidateResponse (line : BitVec 64)
  /-- `REGISTER_WRITE` (R10). A write to a BAR0 or device register without behaviour of its own (RW, W1C, RO or RSV) takes effect under its access code. An offset below 1 MiB is one of BAR0 (R97); one from 0xF000_0000_0000 on lies in the device register window (R49, R70). -/
  | registerWrite (off : BitVec 48) (size : Nat) (v : BitVec 64)
  /-- `RING_CTRL_WRITE` (R111). A write of RING_CTRL enables a ring after checking the sizes and OPEN, or clears EN to stop fetching and clear ERR. -/
  | ringCtrlWrite (n : Fin 8) (v : BitVec 32)
  /-- `RING_SQ_TAIL` (R101). The submission doorbell sets TAIL; an out-of-range value raises ring error 0b011. -/
  | ringSqTail (n : Fin 8) (v : BitVec 32)
  /-- `RING_CQ_HEAD` (R110). The completion doorbell releases consumed slots, and waiting completions are written. -/
  | ringCqHead (n : Fin 8) (v : BitVec 32)
  /-- `MBX_EVENT_EN_WRITE` (R103). A write of MBX_EVENT_EN sends an event interrupt if it turns the masked events from zero to nonzero. -/
  | mbxEventEnWrite (v : BitVec 32)
  /-- `TEL_PTIME_LO_READ` (R102). A 32-bit read of TEL_PTIME_LO latches the high half into TEL_PTIME_HI. -/
  | telPtimeLoRead (wide : Bool)
  /-- `TELEMETRY_UPDATE` (R102). Every 10 ms Varlux updates the telemetry shadow, bracketed by odd and even TEL_SEQ. -/
  | telemetryUpdate (powerW : BitVec 16)
  /-- `COMMAND_FETCH` (R107). The device fetches the next entry round-robin over the enabled rings and the management network and starts it in ring order. -/
  | commandFetch (n : Fin 8) (entry : List Byte) (bufFault cplFault : Bool) (readFail : Bool := false)
  /-- `MBX_OPEN` (R115). Negotiates the interface version and sets OPEN. -/
  | mbxOpen (h : Hdr) (major minMinor maxMinor : BitVec 8)
  /-- `DEVICE_INFO` (R124). Writes the DEVICE_INFO record describing one moment. -/
  | deviceInfo (h : Hdr)
  /-- `DEVICE_RESET` (R121). Completes with OK and schedules a cold or warm module reset after t_RESET_ISSUE. -/
  | deviceReset (h : Hdr) (kind : BitVec 8)
  /-- `GPIO_CONFIG` (R30). Assigns or releases a GPIO pin function, stores it in the boot journal and drives the pin once at the floor. -/
  | gpioConfig (h : Hdr) (pin func : BitVec 8)
  /-- `BOOT_JOURNAL_READ` (R65). Returns both journal copies and the selected copy. -/
  | bootJournalRead (h : Hdr)
  /-- `BOOT_JOURNAL_CLEAR` (R65). Sets every FAILS to zero from the next boot on. -/
  | bootJournalClear (h : Hdr)
  /-- `FW_INSTALL` (R83). Writes one image chunk into the slot that is not running, and on the last chunk verifies it by Table 03-3. -/
  | fwInstall (h : Hdr) (offset : BitVec 32) (flags slot : BitVec 8) (chunk : List Byte)
  /-- `FW_ACTIVATE` (R84). Sets ACTIVE_IMAGE to the verified other slot and zeroes the IMAGE failure count. -/
  | fwActivate (h : Hdr) (slot : BitVec 8)
  /-- `FW_SVN_COMMIT` (R85). Burns the fuse SVN up to the running image's SVN. `cut` n: a module
  reset interrupts the burn after n bits (R71). -/
  | fwSvnCommit (h : Hdr) (flags : BitVec 8) (cut : Option Nat)
  /-- `DEBUG_UNLOCK` (R93). Verifies a signed token, opens full JTAG access for the boot and extends measurement register 4. -/
  | debugUnlock (h : Hdr) (token : List Byte)
  /-- `FUSE_BURN` (R72). Verifies a signed token and advances the lifecycle or revokes a firmware key slot. `cut` n:
  a module reset interrupts the burn after n steps. -/
  | fuseBurn (h : Hdr) (token : List Byte) (cut : Option Nat)
  /-- `HEALTH_READ` (R472). Writes the 4 KiB health record. -/
  | healthRead (h : Hdr)
  /-- `HEALTH_CONFIG` (R448). Sets the threshold, hysteresis, dwell and expulsion budget and stores them. -/
  | healthConfig (h : Hdr) (threshold hysteresis : BitVec 16) (dwell : BitVec 32) (budget : BitVec 16) (window : BitVec 32)
  /-- `UNIT_FENCE` (R451). Fences a unit persistently now, or marks its persistent fences to be lifted at the next boot. -/
  | unitFence (h : Hdr) (unit index action : BitVec 8)
  /-- `REHEARSAL_CONFIG` (R469). Enables or disables fault rehearsal and sets its period and injection mask. -/
  | rehearsalConfig (h : Hdr) (flags : BitVec 8) (period : BitVec 32) (mask : BitVec 64)
  /-- `DIAG_RUN` (R470). Runs one diagnostic test of Table 16-8 on a unit. -/
  | diagRun (h : Hdr) (testId : BitVec 16) (unit index : BitVec 8) (result duration : BitVec 32)
  /-- `MEM_REGION_MODE` (R295). Sets the narrow-write mode of a range of granules and stores it. -/
  | memRegionMode (h : Hdr) (first count : BitVec 32) (mode : BitVec 8)
  /-- `MEM_ERROR_READ` (R306). Returns the error counts, the free remap entries and the error log. -/
  | memErrorRead (h : Hdr)
  /-- `MEM_HDM_WINDOW` (R296). Stores the host-managed memory window for the next boot. -/
  | memHdmWindow (h : Hdr) (first size : BitVec 32)
  /-- `FABRIC_CONFIG` (R379). Sets a fabric port's IPv6 address and the module's t_DETECT. -/
  | fabricConfig (h : Hdr) (port : BitVec 8) (tDetect : BitVec 32) (addr : BitVec 128)
  /-- `PORT_STATUS` (R380). Returns a fabric port's state and counters. -/
  | portStatus (h : Hdr) (port : BitVec 8)
  /-- `COLLECTIVE_ABORT` (R404). Aborts the job's armed step with cause 0x02. -/
  | collectiveAbort (h : Hdr) (job : BitVec 32)
  /-- `SECTOR_CREATE` (R256). Creates a sector with its columns, a zero-filled quota and a fabric weight. -/
  | sectorCreate (h : Hdr) (columns : BitVec 16) (quota : BitVec 32) (weight : BitVec 16) (flags : BitVec 8)
  /-- `SECTOR_DESTROY` (R259). Returns a sector's columns and granules to free. -/
  | sectorDestroy (h : Hdr)
  /-- `ARC_LOAD` (R266). Checks an Arc image, clears the facets, loads the sections and scale state and keeps an Arc copy. -/
  | arcLoad (h : Hdr) (image : List Byte)
  /-- `ARC_START` (R269). Writes the context block and starts the Arc's facets, with or without cadence. -/
  | arcStart (h : Hdr) (cadence : BitVec 32)
  /-- `ARC_STOP` (R260). Stops issue on every facet of the sector and stops ticks. -/
  | arcStop (h : Hdr)
  /-- `PARK` (R274). Parks a job, deferring while a step is armed, releases its columns and returns its generation and digest. -/
  | park (h : Hdr) (job : BitVec 32)
  /-- `PARK_RESUME` (R274). A deferred PARK resumes once the step settles and any snapshot ends, and stops the Arc and releases the columns. -/
  | parkResume (job : BitVec 32)
  /-- `UNPARK` (R276). Moves a parked job and its quota into a sector and loads its Arc copy and scale state. -/
  | unpark (h : Hdr) (job : BitVec 32)
  /-- `OBJ_CREATE` (R316). Creates a zeroed object in a tier from the job's quota or host pool. -/
  | objCreate (h : Hdr) (id size : BitVec 64) (tier : BitVec 8) (job : BitVec 32)
  /-- `OBJ_DESTROY` (R326). Ends an object and frees its extents and backing. -/
  | objDestroy (h : Hdr) (id : BitVec 64)
  /-- `OBJ_PROMOTE` (R317). Moves an object to a higher tier, or pins and reports its location. -/
  | objPromote (h : Hdr) (id : BitVec 64) (tier flags : BitVec 8)
  /-- `OBJ_EVICT` (R323). Moves an object to a lower tier, or defers while it is pinned or queued. -/
  | objEvict (h : Hdr) (id : BitVec 64) (tier : BitVec 8)
  /-- `OBJ_PIN` (R322). Adds a user pin. -/
  | objPin (h : Hdr) (id : BitVec 64)
  /-- `OBJ_UNPIN` (R322). Drops a user pin. -/
  | objUnpin (h : Hdr) (id : BitVec 64)
  /-- `EVICTION_DEQUEUE` (R323). When the pin count drops to zero or a move ends, the oldest queued eviction completes or starts its move. -/
  | evictionDequeue (id : BitVec 64)
  /-- `MOVE_SWITCH` (R321). A tier move finishes and switches the object's residence, completing the command or writing status. -/
  | moveSwitch (id : BitVec 64)
  /-- `MOVE_FAIL` (R325). A tier move fails and the object stays in its source, becomes DAMAGED or ends. -/
  | moveFail (id : BitVec 64) (cause : MoveCause)
  /-- `PREFETCH_SCHEDULE` (R328). Installs a job's prefetch schedule and host pool and evaluates position 0. -/
  | prefetchSchedule (h : Hdr) (job : BitVec 32) (buf : List Byte)
  /-- `JOB_OPEN` (R370). Opens a job in a sector with seed and rule, or adopts a preserved job. -/
  | jobOpen (h : Hdr) (job : BitVec 32) (seed : BitVec 64) (rule : BitVec 8)
  /-- `JOB_CLOSE` (R370). Ends a job, its record, its rule and its objects. -/
  | jobClose (h : Hdr) (job : BitVec 32)
  /-- `LAYOUT_INSTALL` (R410). Installs the next layout epoch, forcing an abort if asked, draining, and filling incoming shards. -/
  | layoutInstall (h : Hdr) (job : BitVec 32) (epoch : BitVec 16) (flags : BitVec 8) (buf : List Byte)
  /-- `LAYOUT_DRAIN_DONE` (R410). The old epoch's reduction counters reach zero, and a forced install continues to its buffer check and reshard requests. -/
  | layoutDrainDone (job : BitVec 32)
  /-- `SHARD_COMMIT` (R371). Installs a slot image as the committed data of a shard and derives its working copy. -/
  | shardCommit (h : Hdr) (job shard : BitVec 32) (gen src : BitVec 64)
  /-- `SHARD_READ` (R372). Copies the committed slot image into an object. -/
  | shardRead (h : Hdr) (job shard : BitVec 32) (dest : BitVec 64)
  /-- `STEP_ARM` (R359). Arms a step: copies the parameter record, takes the armed scale copy and sets FCSR_STEP. -/
  | stepArm (h : Hdr) (job : BitVec 32) (step : BitVec 64) (micro epoch : BitVec 16)
  /-- `STEP_STATUS` (R367). Reports the job's last decided step, generation, epoch, state and outcome. -/
  | stepStatus (h : Hdr) (job : BitVec 32)
  /-- `RULE_LOAD` (R373). Loads microcoded fold operations and extends measurement register 5. -/
  | ruleLoad (h : Hdr) (job : BitVec 32) (buf : List Byte)
  /-- `MIRROR_BIND` (R416). Binds the job's shards to mirror partners and takes the initial snapshot. -/
  | mirrorBind (h : Hdr) (job : BitVec 32) (degree : BitVec 8) (everyN : BitVec 16) (partner0 partner1 : BitVec 128)
  /-- `MIRROR_UNBIND` (R420). Ends the binding and frees the hosted regions and flash copies for the job. -/
  | mirrorUnbind (h : Hdr) (job : BitVec 32)
  /-- `RESTORE` (R432). Brings every owned shard to one generation from its local slot, partner LPDDR6 or partner flash. -/
  | restore (h : Hdr) (job : BitVec 32) (partner : BitVec 128) (gen : BitVec 64)
  /-- `MIRROR_QUERY` (R435). Queries the partners and reports the local and reachable generations. -/
  | mirrorQuery (h : Hdr) (job : BitVec 32)
  /-- `SPDM_NEGOTIATE_ALGORITHMS` (R90). An SPDM NEGOTIATE_ALGORITHMS accepts only RSASSA-PSS 3072 with SHA-256. -/
  | spdmNegotiateAlgorithms (a : SpdmAlgs) (req : List (BitVec 8) := [])
  /-- `SPDM_GET_CERTIFICATE` (R90). An SPDM GET_CERTIFICATE returns a portion of the slot 0 certificate chain. -/
  | spdmGetCertificate (slot : BitVec 8) (offset length : BitVec 16)
  /-- `SPDM_CHALLENGE` (R90). An SPDM CHALLENGE is answered with a response signed by the identity key. -/
  | spdmChallenge (slot summary : BitVec 8) (nonce : BitVec 256)
  /-- `SPDM_GET_MEASUREMENTS` (R90). An SPDM GET_MEASUREMENTS returns the measurement registers, signed or unsigned. -/
  | spdmGetMeasurements (index slot : BitVec 8) (signed : Bool) (nonce : BitVec 256 := 0)
  /-- `SPDM_UNSUPPORTED_REQUEST` (R90). Any other SPDM request is answered with ERROR UnsupportedRequest. -/
  | spdmUnsupportedRequest (code : BitVec 8)
  /-- `NOP` (R143). Facet instruction that does nothing. -/
  | nop (f : Fin 96) (i : Ins) (e : Ecc)
  /-- `HALT` (R148). Waits until every unit and tag is empty, writes FCSR_HALT and makes the facet HALTED. -/
  | halt (f : Fin 96) (i : Ins) (e : Ecc)
  /-- `LI` (R144). Loads a 64-bit immediate into a scalar register. -/
  | li (f : Fin 96) (i : Ins) (e : Ecc)
  /-- `SALU_ADD` (R144). SALU function 0x0: sum modulo 2^64. -/
  | saluAdd (f : Fin 96) (i : Ins) (e : Ecc)
  /-- `SALU_SUB` (R144). SALU function 0x1: difference modulo 2^64. -/
  | saluSub (f : Fin 96) (i : Ins) (e : Ecc)
  /-- `SALU_AND` (R144). SALU function 0x2: bitwise AND. -/
  | saluAnd (f : Fin 96) (i : Ins) (e : Ecc)
  /-- `SALU_OR` (R144). SALU function 0x3: bitwise OR. -/
  | saluOr (f : Fin 96) (i : Ins) (e : Ecc)
  /-- `SALU_XOR` (R144). SALU function 0x4: bitwise XOR. -/
  | saluXor (f : Fin 96) (i : Ins) (e : Ecc)
  /-- `SALU_SHL` (R144). SALU function 0x5: shift left. -/
  | saluShl (f : Fin 96) (i : Ins) (e : Ecc)
  /-- `SALU_SHR` (R144). SALU function 0x6: logical shift right. -/
  | saluShr (f : Fin 96) (i : Ins) (e : Ecc)
  /-- `SALU_SRA` (R144). SALU function 0x7: arithmetic shift right. -/
  | saluSra (f : Fin 96) (i : Ins) (e : Ecc)
  /-- `SALU_MUL` (R144). SALU function 0x8: low 64 bits of the product. -/
  | saluMul (f : Fin 96) (i : Ins) (e : Ecc)
  /-- `SALU_MULHU` (R144). SALU function 0x9: high 64 bits of the unsigned product. -/
  | saluMulhu (f : Fin 96) (i : Ins) (e : Ecc)
  /-- `SALU_MINU` (R144). SALU function 0xA: unsigned minimum. -/
  | saluMinu (f : Fin 96) (i : Ins) (e : Ecc)
  /-- `SALU_MAXU` (R144). SALU function 0xB: unsigned maximum. -/
  | saluMaxu (f : Fin 96) (i : Ins) (e : Ecc)
  /-- `SALU_SLTU` (R144). SALU function 0xC: unsigned less-than test. -/
  | saluSltu (f : Fin 96) (i : Ins) (e : Ecc)
  /-- `SALU_SLT` (R144). SALU function 0xD: signed less-than test. -/
  | saluSlt (f : Fin 96) (i : Ins) (e : Ecc)
  /-- `SALU_SEQ` (R144). SALU function 0xE: equality test. -/
  | saluSeq (f : Fin 96) (i : Ins) (e : Ecc)
  /-- `SLD` (R145). Loads 8 bytes from the scratchpad into a scalar register. -/
  | sld (f : Fin 96) (i : Ins) (e : Ecc)
  /-- `SST` (R145). Stores a scalar register to the scratchpad. -/
  | sst (f : Fin 96) (i : Ins) (e : Ecc)
  /-- `BR` (R146). Branches when its condition holds. -/
  | br (f : Fin 96) (i : Ins) (e : Ecc)
  /-- `LOOP` (R146). Pushes a loop of sA iterations onto the loop stack. -/
  | loop (f : Fin 96) (i : Ins) (e : Ecc)
  /-- `WAIT` (R147). Stalls issue until the selected units and DMA tags are done. -/
  | wait (f : Fin 96) (i : Ins) (e : Ecc)
  /-- `CSRR` (R136). Reads a facet control register into a scalar register. -/
  | csrr (f : Fin 96) (i : Ins) (e : Ecc)
  /-- `TDSETA` (R149). Writes bits [63:0] of a tile descriptor. -/
  | tdseta (f : Fin 96) (i : Ins) (e : Ecc)
  /-- `TDSETM` (R149). Writes bits [127:64] of a tile descriptor. -/
  | tdsetm (f : Fin 96) (i : Ins) (e : Ecc)
  /-- `TDADD` (R149). Adds scalars to a descriptor's BASE and SCALE_BASE. -/
  | tdadd (f : Fin 96) (i : Ins) (e : Ecc)
  /-- `MMA_LDW` (R150). Loads a weight tile into the shadow weight registers. -/
  | mmaLdw (f : Fin 96) (i : Ins) (e : Ecc)
  /-- `MMA_RUN` (R151). Streams a tile through the array against the active weights into an accumulator tile. -/
  | mmaRun (f : Fin 96) (i : Ins) (e : Ecc)
  /-- `ACC_ZERO` (R153). Sets an accumulator tile to +0. -/
  | accZero (f : Fin 96) (i : Ins) (e : Ecc)
  /-- `ACC_CFG` (R153). Sets an accumulator tile's tensor id. -/
  | accCfg (f : Fin 96) (i : Ins) (e : Ecc)
  /-- `ACC_DRAIN` (R196). Converts an accumulator tile into a scratchpad tile, updating scale and statistics. -/
  | accDrain (f : Fin 96) (i : Ins) (e : Ecc)
  /-- `ACC_LOAD` (R155). Writes an FP32 or BF16 tile into an accumulator tile. -/
  | accLoad (f : Fin 96) (i : Ins) (e : Ecc)
  /-- `VE_LD` (R156). Converts a scratchpad tile to FP32 into a VE tile buffer. -/
  | veLd (f : Fin 96) (i : Ins) (e : Ecc)
  /-- `VE_ST` (R156). Converts a VE tile buffer to a tile's format and stores it. -/
  | veSt (f : Fin 96) (i : Ins) (e : Ecc)
  /-- `VE_MOV` (R244). VE function 0x01: copy. -/
  | veMov (f : Fin 96) (i : Ins) (e : Ecc)
  /-- `VE_ADD` (R244). VE function 0x02: A + B. -/
  | veAdd (f : Fin 96) (i : Ins) (e : Ecc)
  /-- `VE_SUB` (R244). VE function 0x03: A − B. -/
  | veSub (f : Fin 96) (i : Ins) (e : Ecc)
  /-- `VE_MUL` (R244). VE function 0x04: A × B. -/
  | veMul (f : Fin 96) (i : Ins) (e : Ecc)
  /-- `VE_FMA` (R244). VE function 0x05: A × B + C with one rounding. -/
  | veFma (f : Fin 96) (i : Ins) (e : Ecc)
  /-- `VE_FNMA` (R244). VE function 0x06: C − A × B with one rounding. -/
  | veFnma (f : Fin 96) (i : Ins) (e : Ecc)
  /-- `VE_MAX` (R244). VE function 0x07: maximum. -/
  | veMax (f : Fin 96) (i : Ins) (e : Ecc)
  /-- `VE_MIN` (R244). VE function 0x08: minimum. -/
  | veMin (f : Fin 96) (i : Ins) (e : Ecc)
  /-- `VE_ABS` (R244). VE function 0x09: absolute value. -/
  | veAbs (f : Fin 96) (i : Ins) (e : Ecc)
  /-- `VE_NEG` (R244). VE function 0x0A: negation. -/
  | veNeg (f : Fin 96) (i : Ins) (e : Ecc)
  /-- `VE_ADDK` (R244). VE function 0x0B: A + K. -/
  | veAddk (f : Fin 96) (i : Ins) (e : Ecc)
  /-- `VE_MULK` (R244). VE function 0x0C: A × K. -/
  | veMulk (f : Fin 96) (i : Ins) (e : Ecc)
  /-- `VE_FMAK` (R244). VE function 0x0D: A × B + K. -/
  | veFmak (f : Fin 96) (i : Ins) (e : Ecc)
  /-- `VE_CLAMP` (R244). VE function 0x0E: clamp between B and C. -/
  | veClamp (f : Fin 96) (i : Ins) (e : Ecc)
  /-- `VE_CMPGT` (R244). VE function 0x10: greater-than mask. -/
  | veCmpgt (f : Fin 96) (i : Ins) (e : Ecc)
  /-- `VE_CMPGE` (R244). VE function 0x11: greater-or-equal mask. -/
  | veCmpge (f : Fin 96) (i : Ins) (e : Ecc)
  /-- `VE_CMPEQ` (R244). VE function 0x12: equality mask. -/
  | veCmpeq (f : Fin 96) (i : Ins) (e : Ecc)
  /-- `VE_SEL` (R244). VE function 0x13: select B or C by A. -/
  | veSel (f : Fin 96) (i : Ins) (e : Ecc)
  /-- `VE_FLOOR` (R244). VE function 0x18: floor. -/
  | veFloor (f : Fin 96) (i : Ins) (e : Ecc)
  /-- `VE_RNDI` (R244). VE function 0x19: round to an integer, ties to even. -/
  | veRndi (f : Fin 96) (i : Ins) (e : Ecc)
  /-- `VE_GETEXP` (R244). VE function 0x1A: unbiased exponent. -/
  | veGetexp (f : Fin 96) (i : Ins) (e : Ecc)
  /-- `VE_GETMANT` (R244). VE function 0x1B: mantissa in [1, 2). -/
  | veGetmant (f : Fin 96) (i : Ins) (e : Ecc)
  /-- `VE_LDEXP` (R244). VE function 0x1C: A × 2^n. -/
  | veLdexp (f : Fin 96) (i : Ins) (e : Ecc)
  /-- `VE_CVTBF` (R244). VE function 0x1D: round to BF16 and widen back. -/
  | veCvtbf (f : Fin 96) (i : Ins) (e : Ecc)
  /-- `VE_RMAX` (R245). VE function 0x20: row maximum broadcast across the row. -/
  | veRmax (f : Fin 96) (i : Ins) (e : Ecc)
  /-- `VE_RSUM` (R245). VE function 0x21: row sum by a fixed pairwise tree. -/
  | veRsum (f : Fin 96) (i : Ins) (e : Ecc)
  /-- `VE_CSUM` (R245). VE function 0x22: column sum in row order. -/
  | veCsum (f : Fin 96) (i : Ins) (e : Ecc)
  /-- `VE_BCAST0` (R244). VE function 0x23: broadcast row 0 to every row. -/
  | veBcast0 (f : Fin 96) (i : Ins) (e : Ecc)
  /-- `VE_RCP` (R249). VE function 0x28: reciprocal by the fixed sequence. -/
  | veRcp (f : Fin 96) (i : Ins) (e : Ecc)
  /-- `VE_RSQRT` (R250). VE function 0x29: reciprocal square root by the fixed sequence. -/
  | veRsqrt (f : Fin 96) (i : Ins) (e : Ecc)
  /-- `VE_EXP` (R251). VE function 0x2A: exponential by the fixed sequence. -/
  | veExp (f : Fin 96) (i : Ins) (e : Ecc)
  /-- `VE_RAND` (R247). VE function 0x30: uniform Philox draws. -/
  | veRand (f : Fin 96) (i : Ins) (e : Ecc)
  /-- `DMA_RD` (R159). Copies tile rows, and optionally scales, from LPDDR6 into the scratchpad. -/
  | dmaRd (f : Fin 96) (i : Ins) (e : Ecc)
  /-- `DMA_WR` (R159). Copies tile rows, and optionally scales, from the scratchpad to LPDDR6. -/
  | dmaWr (f : Fin 96) (i : Ins) (e : Ecc)
  /-- `DMA_LIN_READ` (R160). DMA.LIN with DIR 0 copies bytes from a DPA into the scratchpad. -/
  | dmaLinRead (f : Fin 96) (i : Ins) (e : Ecc)
  /-- `DMA_LIN_WRITE` (R160). DMA.LIN with DIR 1 copies bytes from the scratchpad to a DPA. -/
  | dmaLinWrite (f : Fin 96) (i : Ins) (e : Ecc)
  /-- `DMA_XFR` (R161). Copies bytes into another facet's scratchpad within the sector. -/
  | dmaXfr (f : Fin 96) (i : Ins) (e : Ecc)
  /-- `DMA_CHD` (R391). Hands an FP32 tile to the Chord engine as a collective contribution. -/
  | dmaChd (f : Fin 96) (i : Ins) (e : Ecc)
  /-- `DMA_DSP` (R406). Hands tile rows to the Dispatch engine for an expert dispatch or combine. -/
  | dmaDsp (f : Fin 96) (i : Ins) (e : Ecc)
  /-- `DMA_STAT` (R164). Reads and clears a tag's sticky status and returns its outstanding count. -/
  | dmaStat (f : Fin 96) (i : Ins) (e : Ecc)
  /-- `TOK_SEND` (R165). Sends a token after its release tags complete; a token across a sector boundary is dropped. -/
  | tokSend (f : Fin 96) (i : Ins) (e : Ecc)
  /-- `TOK_RECV` (R166). Waits for a token on a channel and moves the oldest into a scalar register. -/
  | tokRecv (f : Fin 96) (i : Ins) (e : Ecc)
  /-- `TOK_POLL` (R166). Returns the number of tokens waiting on a channel. -/
  | tokPoll (f : Fin 96) (i : Ins) (e : Ecc)
  /-- `STAT_CLR` (R168). Zeroes a statistics slot. -/
  | statClr (f : Fin 96) (i : Ins) (e : Ecc)
  /-- `STAT_EMIT` (R233). Writes a slot's tensor-statistics record to the scratchpad and optionally clears it. -/
  | statEmit (f : Fin 96) (i : Ins) (e : Ecc)
  /-- `UNIT_START` (R169). A queued instruction starts in its unit once the previous one has finished and its interlocks hold. -/
  | unitStart (f : Fin 96) (u : FacetUnit) (e : Ecc)
  /-- `ROW_RETIRE` (R191). A streamed row's last element is written and the row retires, lowering pending counts. -/
  | rowRetire (f : Fin 96) (e : Ecc)
  /-- `DMA_OP_COMPLETE` (R163). A facet DMA operation completes with OK, E_MEM_UNCORR or E_ABORTED and updates its tag. -/
  | dmaOpComplete (f : Fin 96) (k : Nat) (e : Ecc)
  /-- `TOKEN_ARRIVAL` (R167). A token arrives at a facet receive channel. -/
  | tokenArrival (src dst : Fin 96) (ch : Fin 16)
  /-- `FACET_FAULT_STOP` (R175). Varlux stops the sector's other facets, records the error and fails any armed step locally. -/
  | facetFaultStop (f : Fin 96)
  /-- `FRAME_TICK` (R269). At each cadence due time a tick token is sent, or missed, and the frame status record is written. -/
  | frameTick (sec : Fin 4)
  /-- `SCRUB_BLOCK` (R302). Patrol scrub reads the next 4 KiB block of a Prism. -/
  | scrubBlock (n : Fin 4) (errs : List SymErr)
  /-- `PROGRESS_WRITE` (R330). A whole write of the progress sector makes the prefetch stream take and drop holds and start gathers. -/
  | progressWrite (job : BitVec 32)
  /-- `FTL_WEAR_LEVEL` (R333). The spread of erase counts exceeds 300 and the block with the lowest count is moved. -/
  | ftlWearLevel (block : Nat)
  /-- `FTL_READ_DISTURB` (R333). A block reaches 50,000 reads and is rewritten. -/
  | ftlReadDisturb (block : Nat)
  /-- `FTL_RETENTION_SCAN` (R333). Each programmed block is read every 168 h and rewritten when its errors are high. -/
  | ftlRetentionScan (block : Nat) (high : Bool)
  /-- `CHORD_DATA` (R344). A DATA packet of a contribution arrives and is decoded and accumulated in rank order in the fold buffer. -/
  | chordData (p : ChordHdr) (payload : List Byte)
  /-- `CREDIT` (R395). An owner's CREDIT for a range lets the contributor send that contribution. -/
  | credit (p : ChordHdr) (count : BitVec 32)
  /-- `RANGE_UPDATE` (R353). A complete range whose slot may be written is updated by the job's rule and stored by SR to BF16. -/
  | rangeUpdate (job shard : BitVec 32) (range : Nat) (hostFault : Bool)
  /-- `VOTE_CAST` (R361). At the vote moment, or at a local failure, the member sends its vote record on both networks. -/
  | voteCast (job : BitVec 32)
  /-- `VOTE` (R363). A vote record arrives; the member decides when it holds all records, or at once when SKIP is certain. -/
  | vote (p : ChordHdr) (v : VoteRec)
  /-- `CONFIRM` (R364). A confirm record arrives; holding every rank's confirm settles COMMIT. -/
  | confirm (p : ChordHdr) (v : VoteRec)
  /-- `WORKING_COPY_DERIVED` (R358). Working-copy derivation ends and the final STEP_ARM or SHARD_COMMIT completion is written. -/
  | workingCopyDerived (job : BitVec 32)
  /-- `RESOLVE_TIMEOUT` (R366). t_RESOLVE passes in RESOLVING without an UNDECIDED token and the member settles COMMIT. -/
  | resolveTimeout (job : BitVec 32)
  /-- `ABORT` (R402). An abort token arrives and the step aborts, with the member's settle decided by its vote state. -/
  | abort (p : ChordHdr) (t : AbortTok)
  /-- `PEER_SILENCE_DETECT` (R401). No packet from a peer for t_DETECT while a step is armed, and the member detects it and aborts. -/
  | peerSilenceDetect (job : BitVec 32) (peer : BitVec 16)
  /-- `HEARTBEAT_SEND` (R400). Every t_DETECT/4 without other traffic the member sends a HEARTBEAT to a peer. -/
  | heartbeatSend (job : BitVec 32) (peer : BitVec 16)
  /-- `HEARTBEAT` (R401). A HEARTBEAT arrives; a differing CRC or t_DETECT, or an aborted state, is a detection. -/
  | heartbeat (p : ChordHdr) (b : Heartbeat)
  /-- `ACK` (R383). An ACK arrives, releasing sequenced packets and adjusting the window. -/
  | ack (p : ChordHdr) (map : BitVec 64)
  /-- `RETRANSMIT_TIMEOUT` (R383). A sequenced packet is unacknowledged after t_RTO and is resent with RETX set. -/
  | retransmitTimeout (job : BitVec 32) (peer : BitVec 16) (seq : BitVec 32)
  /-- `GATHER_REQ` (R398). A GATHER_REQ arrives, and the owner or relay serves it once the step is armed. -/
  | gatherReq (p : ChordHdr) (shard : BitVec 32)
  /-- `GATHER_DATA` (R398). Gathered working-copy bytes arrive, and the gather status is written resident when all have arrived. -/
  | gatherData (p : ChordHdr) (payload : List Byte)
  /-- `DISPATCH` (R408). An expert row arrives and is written to its slot, or a combine row to its take index. -/
  | dispatch (p : ChordHdr) (payload : List Byte)
  /-- `DISPATCH_END` (R408). A source's DISPATCH_END arrives with counts and advances SOURCES_DONE. -/
  | dispatchEnd (p : ChordHdr) (counts : List Nat)
  /-- `RESHARD_REQ` (R412). A RESHARD_REQ arrives and is served from the installed or previous layout, or answered with ABORT. -/
  | reshardReq (p : ChordHdr) (shard : BitVec 32) (gen : BitVec 64)
  /-- `RESHARD_DATA` (R411). Slot-image bytes of an incoming shard arrive, and the epoch installs when all shards are committed. -/
  | reshardData (p : ChordHdr) (payload : List Byte)
  /-- `MIRROR_BIND_REQ` (R418). A partner receives BIND_REQ, takes or reuses a region and answers BIND_ACK. -/
  | mirrorBindReq (p : ChordHdr) (bytes : BitVec 64) (entries : BitVec 32) (everyN : BitVec 16)
  /-- `MIRROR_BIND_ACK` (R416). A source receives BIND_ACK and continues or refuses the bind. -/
  | mirrorBindAck (p : ChordHdr) (status : BitVec 16) (gib : BitVec 32)
  /-- `SNAPSHOT_BEGIN` (R423). After a snapshot generation commits, or a running snapshot ends, the snapshot starts and sends BEGIN. -/
  | snapshotBegin (job : BitVec 32)
  /-- `MIRROR_BEGIN` (R428). A partner receives BEGIN and writes the target descriptor incomplete. -/
  | mirrorBegin (p : ChordHdr) (buffer : Fin 2) (d : CopyDesc)
  /-- `MIRROR_DATA` (R428). A partner receives area bytes and stores them as received. -/
  | mirrorData (p : ChordHdr) (buffer : Fin 2) (payload : List Byte)
  /-- `MIRROR_END` (R428). A partner receives END, writes the complete descriptor and sends DONE. -/
  | mirrorEnd (p : ChordHdr) (buffer : Fin 2) (d : CopyDesc)
  /-- `MIRROR_DONE` (R428). A source receives DONE, the acknowledgement that ends the wait of R355. -/
  | mirrorDone (p : ChordHdr) (gen : BitVec 64)
  /-- `MIRROR_FETCH_REQ` (R426). A copy host receives FETCH_REQ and streams a complete copy. -/
  | mirrorFetchReq (p : ChordHdr) (gen : BitVec 64)
  /-- `MIRROR_FETCH_DATA` (R433). A restorer receives copy bytes and decodes them into slots. -/
  | mirrorFetchData (p : ChordHdr) (payload : List Byte)
  /-- `MIRROR_FETCH_END` (R434). A restorer receives FETCH_END and finishes the shards or falls back to the next source. -/
  | mirrorFetchEnd (p : ChordHdr) (status : BitVec 16) (d : CopyDesc)
  /-- `MIRROR_UNBIND_OP` (R420). A partner receives UNBIND and frees the region and flash copy of that source rank. -/
  | mirrorUnbindOp (p : ChordHdr)
  /-- `MIRROR_QUERY_OP` (R425). A copy host receives QUERY and answers QUERY_REPLY. -/
  | mirrorQueryOp (p : ChordHdr)
  /-- `MIRROR_QUERY_REPLY` (R435). A QUERY_REPLY arrives and contributes to MIRROR_QUERY's result. -/
  | mirrorQueryReply (p : ChordHdr) (region flash : BitVec 64)
  /-- `FLASH_COPY_PERSIST` (R430). A partner starts persisting the newest complete copy it hosts to its flash. -/
  | flashCopyPersist (job : BitVec 32) (rank : BitVec 16)
  /-- `FLASH_COPY_SWITCH` (R430). Persistence ends and the new flash copy switches in by FTL journal. -/
  | flashCopySwitch (job : BitVec 32) (rank : BitVec 16)
  /-- `PORT_LINK_LOSS` (R376). A running fabric port loses its link and retrains. -/
  | portLinkLoss (p : Fin 8)
  /-- `PORT_RETRAIN_TIMEOUT` (R376). A retraining fabric port is not up within 2 s and is fenced. -/
  | portRetrainTimeout (p : Fin 8)
  /-- `PAUSE_FRAME` (R377). A PAUSE or PFC frame arrives and is discarded and counted. -/
  | pauseFrame (p : Fin 8)
  /-- `NEIGHBOR_SOLICITATION` (R378). A Neighbor Solicitation for the port's address is answered with an Advertisement. -/
  | neighborSolicitation (p : Via) (target src : BitVec 128)
  /-- `ROUTER_ADVERTISEMENT` (R378). A Router Advertisement teaches the plane's default router. -/
  | routerAdvertisement (p : Via) (routerMac : BitVec 48) (prefix64 : BitVec 64)
  /-- `ICMPV6_ECHO` (R378). An Echo Request is answered with an Echo Reply. -/
  | icmpv6Echo (p : Via) (src : BitVec 128) (body : List Byte)
  /-- `MGMT_CMD` (R463). A management CMD segment arrives and is acknowledged; the last segment joins the acceptance order. -/
  | mgmtCmd (m : MgmtMsg) (last : Bool) (data : List Byte)
  /-- `MGMT_ACK` (R463). A management ACK arrives for a CPL segment. -/
  | mgmtAck (xid offset : BitVec 32)
  /-- `MGMT_RETRANSMIT` (R463). A CPL segment is unacknowledged after t_MGMT_RTO and is resent, up to eight times. -/
  | mgmtRetransmit (xid offset : BitVec 32)
  /-- `ANNOUNCE_SEND` (R464). Every t_ANNOUNCE the module sends ANNOUNCE to each job group. -/
  | announceSend (job : BitVec 32)
  /-- `ANNOUNCE` (R464). An ANNOUNCE arrives and refreshes the map from fabric to management addresses. -/
  | announce (a : Announcement)
  /-- `ANNOUNCE_ENTRY_EXPIRY` (R464). An announced entry not refreshed within 5 × t_ANNOUNCE is dropped. -/
  | announceEntryExpiry (job : BitVec 32) (rank : BitVec 16) (serial : BitVec 64)
  /-- `MGMT_PORT_DOWN` (R466). A management port without link for t_MGMT_DOWN counts as down. -/
  | mgmtPortDown (p : Fin 2)
  /-- `MGMT_PORT_UP` (R466). A management port's link returns. -/
  | mgmtPortUp (p : Fin 2)
  /-- `REHEARSAL_INJECTION` (R467). At the due time the scheduler picks and starts one enabled injection. -/
  | rehearsalInjection (bit : Fin 9) (target : BitVec 16)
  /-- `REHEARSAL_INJECTION_END` (R468). An injection ends, is logged as passed, failed or skipped, and the next due time is drawn. -/
  | rehearsalInjectionEnd (passed : Bool)
  /-- `FABRIC_PORT_RETRAINED` (R376). A fabric port that lost its link while running finishes retraining within 2 s, comes up again and returns to Chord use. -/
  | fabricPortRetrained (p : Fin 8)
  /-- `SILENCE_OUTSIDE_ARMED_STEP` (R428). A mirror partner, a restore source, a reshard source or a bind partner stays silent for t_DETECT with no step armed, so the snapshot drops it, the restore falls back, the install aborts, the bind fails or MIRROR_QUERY completes. -/
  | silenceOutsideArmedStep (job : BitVec 32) (peer : BitVec 16)
  /-- `TEMP_MAX_UPDATE` (R487). At least every 10 ms the on-die sensors are read into SB_TEMP.TEMP_MAX. -/
  | tempMaxUpdate (t : BitVec 8)
  /-- `JTAG_TAP_ACCESS` (R92). A JTAG test access port operation: IDCODE or BYPASS in production before unlock, or full access to Apex after DEBUG_UNLOCK or in the manufacture and RMA lifecycles. -/
  | jtagTapAccess (op : TapOp)
  /-- `STREAM_WINDOW_GROWTH` (R385). After each t_RTO without an ACK carrying CE_ECHO, a stream's window grows by 64 KiB, up to 4 MiB. -/
  | streamWindowGrowth (job : BitVec 32) (peer : BitVec 16)
  /-- `PWR_EN_ASSERTED` (R479). PWR_EN rises with the input above the rising undervoltage threshold, and the converters start. -/
  | pwrEnAsserted
  /-- `PGOOD_RISE` (R44). All rails reach regulation and PGOOD rises; this is a power-on trigger that zeroes the powered-time counter and resets the AON and SMBus registers. -/
  | pgoodRise
  /-- `PWR_EN_DEASSERTED` (R479). PWR_EN falls, the module departs in an orderly way and the converters stop after t_PGOOD_OFF. -/
  | pwrEnDeasserted
  /-- `INPUT_UNDERVOLTAGE` (R479). The 48 V input falls below the falling threshold, PGOOD falls within t_UV_OFF and nothing is sent. -/
  | inputUndervoltage
  /-- `INPUT_OVERVOLTAGE` (R479). The input rises above the overvoltage threshold, and the converters stop and latch off without an orderly departure. -/
  | inputOvervoltage
  /-- `THERMAL_TRIP` (R487). A sensor reaches T_TRIP: THERM_TRIP is released, STATE becomes 0b101 and the converters stop and latch off. -/
  | thermalTrip
  /-- `THERM_WARN` (R487). The hottest sensor crosses T_WARN, which sets SB_ALERT.THERM_WARN and MBX_EVENT.THERM_WARN and counts class 0x19. -/
  | thermWarn
  /-- `REFCLK_LOSS` (R485). REFCLK stops or leaves its limits, the domains fed from REF stop and no token is sent. -/
  | refclkLoss
  /-- `PERST_ASSERTED` (R50). The host asserts PERST#, which triggers a warm module reset with source 0x02 and a departure. -/
  | perstAsserted
  /-- `SR_ENTRY_TIMEOUT` (R53). t_SR_ENTRY max expires and every die is held in reset; a Prism without SR_DONE is reset without self-refresh. -/
  | srEntryTimeout
  /-- `BOOT_START` (R55). The boot begins at the later of t_RESET_MIN after the trigger and the deassertion of PERST#, subject to R481 and R485. `torn` is the record
  write that the interruption before this boot cut (R23). -/
  | bootStart (f : JrnFaults) (torn : Option (RecKind × Cut))
  /-- `WDT_FIRST_EXPIRY` (R54). A watchdog period passes without a kick while BOOT is 0, which sets EXPIRED1 and raises a non-maskable interrupt to Apex. -/
  | wdtFirstExpiry
  /-- `WDT_SECOND_EXPIRY` (R54). A further period passes without a kick and causes a warm reset with source 0x05. -/
  | wdtSecondExpiry
  /-- `WDT_BOOT_EXPIRY` (R54). The watchdog expires in single-stage mode because a boot stage overran, which causes a warm reset with source 0x06. -/
  | wdtBootExpiry
  /-- `AON_PTIME_LO_READ` (R49). A read of AON_PTIME_LO returns powered time [31:0] and latches [63:32] into AON_PTIME_HI. -/
  | aonPtimeLoRead
  /-- `POWERED_TIME_TICK` (R44). The powered-time counter advances by one every 25 OSC_AON cycles. -/
  | poweredTimeTick
  /-- `APEX_FATAL_ERROR` (R50). An uncorrectable Apex SRAM error or a nested exception causes a warm reset with source 0x08. -/
  | apexFatalError
  /-- `JTAG_RESET_REQUEST` (R92). A JTAG reset request causes a cold reset with source 0x09 where the debug policy allows it, and is otherwise ignored. -/
  | jtagResetRequest
  /-- `SEC_SECURITY_EVENT` (R69). A glitch, a fuse-row mismatch or an uncorrectable SEC SRAM error causes a cold reset with source 0x0A. -/
  | secSecurityEvent
  /-- `ENTROPY_HEALTH_FAIL` (R68). An entropy health test fails: SEC restarts the source, and after three consecutive failures declares entropy unavailable. -/
  | entropyHealthFail (startups : List (List (BitVec 8)) := [])
  /-- `DRBG_RESEED` (R67). After 2^16 requests the HMAC_DRBG reseeds from the conditioned entropy source. -/
  | drbgReseed
  /-- `SMB_TIMEOUT` (R486). SMB_CLK held low for t_SMB_TIMEOUT makes the target release the bus and reset its interface. -/
  | smbTimeout
  /-- `HOST_LINK_UP` (R34). The host port finishes training and reaches L0. -/
  | hostLinkUp
  /-- `CXL_CONFIG_REQUEST` (R34). A configuration request is answered with retry status until t_CFG_READY, and normally after that. -/
  | cxlConfigRequest (r : CfgReg := .other)
  /-- `FUNCTION_LEVEL_RESET` (R113). A CXL FLR resets the host-port registers and OPEN and quiesces host access within t_HOST_QUIESCE. -/
  | functionLevelReset
  /-- `HOT_RESET` (R34). A hot reset affects only the host port and mailbox registers, and then the port retrains. -/
  | hotReset
  /-- `HOST_LINK_DOWN` (R34). The host link goes down, resets the host-port state as R113 requires, and then retrains. -/
  | hostLinkDown
  /-- `DEVICE_RESET_TRIGGER` (R121). t_RESET_ISSUE after the DEVICE_RESET completion, the module reset with source 0x03 or 0x04 is triggered. -/
  | deviceResetTrigger
  /-- `SPDM_GET_VERSION` (R90). An SPDM GET_VERSION returns version 1.2 and resets the negotiated state. -/
  | spdmGetVersion
  /-- `SPDM_GET_CAPABILITIES` (R90). An SPDM GET_CAPABILITIES returns the supported capabilities. -/
  | spdmGetCapabilities (req : List (BitVec 8) := [])
  /-- `SPDM_GET_DIGESTS` (R90). An SPDM GET_DIGESTS returns the digest of certificate slot 0. -/
  | spdmGetDigests
  /-- `SCORE_UPDATE` (R445). Every t_SCORE Varlux recomputes and publishes the health score and confidence and evaluates proposals. -/
  | scoreUpdate
  /-- `HEALTH_SECOND` (R447). Each powered second advances OBS_S, BELOW_S and ABOVE_S and sets or clears REPLACE_REQ. -/
  | healthSecond
  /-- `EVIDENCE_BUCKET_CHANGE` (R444). After 3,600 s the oldest evidence bucket is cleared and becomes current. -/
  | evidenceBucketChange
  /-- `BUDGET_WINDOW_EXPIRY` (R457). WINDOW_ELAPSED_S reaches BUDGET_WINDOW_S and the expulsion ledger returns to zero. -/
  | budgetWindowExpiry
  /-- `EXPULSION_EFFECT` (R458). A granted expulsion takes effect once no step is armed: FAULT is asserted and commands are restricted. -/
  | expulsionEffect
  /-- `INPUT_ABOVE_RISING_THRESHOLD` (R479). With PWR_EN high, the 48 V input rises above the rising undervoltage threshold and the converters start again. -/
  | inputAboveRisingThreshold
  /-- `THERM_WARN_REARM` (R487). The hottest sensor falls below 95 °C after a warning, which rearms the next T_WARN crossing to warn again. -/
  | thermWarnRearm
  deriving DecidableEq, Repr

end Sys2Proof
end

