-- ==== Sys2Proof/Decode.lean ====
section
/-! DEFINITION. Sys2Proof/Decode.lean: the commands that words of the opcode table spell (none: no row of the table gives a
bit), and the 128-bit words of the facet instructions (R140 to R144, R156, R244). -/

namespace Sys2Proof

/-- The command that a word of the opcode table spells: no row of the table gives bits, so no word spells one. -/
def decodeTableWord (_nbits _w : Nat) : Option Instr := none

/-! ### The words of IMEM (Table 05-6) -/

/-- The 128-bit word of an instruction with opcode `op`. -/
def joinIns (op : Byte) (i : Ins) : BitVec 128 :=
  i.imm ++ i.x ++ i.c ++ i.b ++ i.a ++ i.d ++ i.fl ++ op

/-- Opcode of a word. -/
def wordOp (w : BitVec 128) : Byte := w.extractLsb' 0 8

/-- The fields of a word beside its opcode. -/
def wordIns (w : BitVec 128) : Ins :=
  ⟨w.extractLsb' 8 8, w.extractLsb' 16 8, w.extractLsb' 24 8, w.extractLsb' 32 8, w.extractLsb' 40 8,
   w.extractLsb' 48 16, w.extractLsb' 64 64⟩

/-- Opcodes of Table 05-8. -/
def opcodeList : List Byte :=
  [0x00, 0x01, 0x02, 0x03, 0x04, 0x05, 0x06, 0x07, 0x08, 0x09, 0x0A, 0x0B, 0x0C, 0x10, 0x11] ++
  [0x20, 0x21, 0x22, 0x23, 0x30, 0x31, 0x32, 0x40, 0x41, 0x42, 0x43, 0x44, 0x45, 0x46, 0x50, 0x51, 0x52, 0x60, 0x61]

/-- VE function codes of Table 09-1. -/
def veFnList : List Byte :=
  [0x01, 0x02, 0x03, 0x04, 0x05, 0x06, 0x07, 0x08, 0x09, 0x0A, 0x0B, 0x0C, 0x0D, 0x0E, 0x10, 0x11, 0x12, 0x13] ++
  [0x18, 0x19, 0x1A, 0x1B, 0x1C, 0x1D, 0x20, 0x21, 0x22, 0x23, 0x28, 0x29, 0x2A, 0x30]

/-- The word has an undefined opcode or function (R142, R144, R156). -/
def wordUndefined (w : BitVec 128) : Bool :=
  let op := wordOp w
  let x := (wordIns w).x
  !opcodeList.contains op || (op == 0x03 && x.extractLsb' 0 4 == 0xF) || (op == 0x32 && !veFnList.contains (x.extractLsb' 0 8))

/-! ### Decoding and encoding -/

/-- The `SALU` row of a function code (R144). -/
def saluRow (f : Fin 96) (i : Ins) (e : Ecc) (code : Nat) : Option Instr :=
  match code with
  | 0x00 => some (.saluAdd f i e)
  | 0x01 => some (.saluSub f i e)
  | 0x02 => some (.saluAnd f i e)
  | 0x03 => some (.saluOr f i e)
  | 0x04 => some (.saluXor f i e)
  | 0x05 => some (.saluShl f i e)
  | 0x06 => some (.saluShr f i e)
  | 0x07 => some (.saluSra f i e)
  | 0x08 => some (.saluMul f i e)
  | 0x09 => some (.saluMulhu f i e)
  | 0x0A => some (.saluMinu f i e)
  | 0x0B => some (.saluMaxu f i e)
  | 0x0C => some (.saluSltu f i e)
  | 0x0D => some (.saluSlt f i e)
  | 0x0E => some (.saluSeq f i e)
  | _ => none

/-- The `VE.OP` row of a function code (R244, Table 09-1). -/
def veRow (f : Fin 96) (i : Ins) (e : Ecc) (code : Nat) : Option Instr :=
  match code with
  | 0x01 => some (.veMov f i e)
  | 0x02 => some (.veAdd f i e)
  | 0x03 => some (.veSub f i e)
  | 0x04 => some (.veMul f i e)
  | 0x05 => some (.veFma f i e)
  | 0x06 => some (.veFnma f i e)
  | 0x07 => some (.veMax f i e)
  | 0x08 => some (.veMin f i e)
  | 0x09 => some (.veAbs f i e)
  | 0x0A => some (.veNeg f i e)
  | 0x0B => some (.veAddk f i e)
  | 0x0C => some (.veMulk f i e)
  | 0x0D => some (.veFmak f i e)
  | 0x0E => some (.veClamp f i e)
  | 0x10 => some (.veCmpgt f i e)
  | 0x11 => some (.veCmpge f i e)
  | 0x12 => some (.veCmpeq f i e)
  | 0x13 => some (.veSel f i e)
  | 0x18 => some (.veFloor f i e)
  | 0x19 => some (.veRndi f i e)
  | 0x1A => some (.veGetexp f i e)
  | 0x1B => some (.veGetmant f i e)
  | 0x1C => some (.veLdexp f i e)
  | 0x1D => some (.veCvtbf f i e)
  | 0x20 => some (.veRmax f i e)
  | 0x21 => some (.veRsum f i e)
  | 0x22 => some (.veCsum f i e)
  | 0x23 => some (.veBcast0 f i e)
  | 0x28 => some (.veRcp f i e)
  | 0x29 => some (.veRsqrt f i e)
  | 0x2A => some (.veExp f i e)
  | 0x30 => some (.veRand f i e)
  | _ => none

/-- The row of an opcode (Table 05-8); `SALU`, `VE.OP` and `DMA.LIN` have a row for each function or direction. -/
def opRow (f : Fin 96) (i : Ins) (e : Ecc) (op : Nat) : Option Instr :=
  match op with
  | 0x00 => some (.nop f i e)
  | 0x01 => some (.halt f i e)
  | 0x02 => some (.li f i e)
  | 0x04 => some (.sld f i e)
  | 0x05 => some (.sst f i e)
  | 0x06 => some (.br f i e)
  | 0x07 => some (.loop f i e)
  | 0x08 => some (.wait f i e)
  | 0x09 => some (.csrr f i e)
  | 0x0A => some (.tdseta f i e)
  | 0x0B => some (.tdsetm f i e)
  | 0x0C => some (.tdadd f i e)
  | 0x10 => some (.mmaLdw f i e)
  | 0x11 => some (.mmaRun f i e)
  | 0x20 => some (.accZero f i e)
  | 0x21 => some (.accCfg f i e)
  | 0x22 => some (.accDrain f i e)
  | 0x23 => some (.accLoad f i e)
  | 0x30 => some (.veLd f i e)
  | 0x31 => some (.veSt f i e)
  | 0x40 => some (.dmaRd f i e)
  | 0x41 => some (.dmaWr f i e)
  | 0x43 => some (.dmaXfr f i e)
  | 0x44 => some (.dmaChd f i e)
  | 0x45 => some (.dmaDsp f i e)
  | 0x46 => some (.dmaStat f i e)
  | 0x50 => some (.tokSend f i e)
  | 0x51 => some (.tokRecv f i e)
  | 0x52 => some (.tokPoll f i e)
  | 0x60 => some (.statClr f i e)
  | 0x61 => some (.statEmit f i e)
  | 0x03 => saluRow f i e (i.x.toNat % 16)
  | 0x32 => veRow f i e (i.x.toNat % 256)
  | 0x42 => if i.fl.getLsbD 0 then some (.dmaLinWrite f i e) else some (.dmaLinRead f i e)
  | _ => none

/-- The command of facet f that the 128-bit word at its PC spells; none where the word is undefined (R142). -/
def decodeFacet (f : Fin 96) (e : Ecc) (w : BitVec 128) : Option Instr := opRow f (wordIns w) e (wordOp w).toNat

/-- The 128-bit word of a facet instruction; none for every other command. -/
def encodeFacet (c : Instr) : Option (BitVec 128) :=
  match c with
  | .nop _ i _ => some (joinIns 0x00 i)
  | .halt _ i _ => some (joinIns 0x01 i)
  | .li _ i _ => some (joinIns 0x02 i)
  | .saluAdd _ i _ => some (joinIns 0x03 i)
  | .saluSub _ i _ => some (joinIns 0x03 i)
  | .saluAnd _ i _ => some (joinIns 0x03 i)
  | .saluOr _ i _ => some (joinIns 0x03 i)
  | .saluXor _ i _ => some (joinIns 0x03 i)
  | .saluShl _ i _ => some (joinIns 0x03 i)
  | .saluShr _ i _ => some (joinIns 0x03 i)
  | .saluSra _ i _ => some (joinIns 0x03 i)
  | .saluMul _ i _ => some (joinIns 0x03 i)
  | .saluMulhu _ i _ => some (joinIns 0x03 i)
  | .saluMinu _ i _ => some (joinIns 0x03 i)
  | .saluMaxu _ i _ => some (joinIns 0x03 i)
  | .saluSltu _ i _ => some (joinIns 0x03 i)
  | .saluSlt _ i _ => some (joinIns 0x03 i)
  | .saluSeq _ i _ => some (joinIns 0x03 i)
  | .sld _ i _ => some (joinIns 0x04 i)
  | .sst _ i _ => some (joinIns 0x05 i)
  | .br _ i _ => some (joinIns 0x06 i)
  | .loop _ i _ => some (joinIns 0x07 i)
  | .wait _ i _ => some (joinIns 0x08 i)
  | .csrr _ i _ => some (joinIns 0x09 i)
  | .tdseta _ i _ => some (joinIns 0x0A i)
  | .tdsetm _ i _ => some (joinIns 0x0B i)
  | .tdadd _ i _ => some (joinIns 0x0C i)
  | .mmaLdw _ i _ => some (joinIns 0x10 i)
  | .mmaRun _ i _ => some (joinIns 0x11 i)
  | .accZero _ i _ => some (joinIns 0x20 i)
  | .accCfg _ i _ => some (joinIns 0x21 i)
  | .accDrain _ i _ => some (joinIns 0x22 i)
  | .accLoad _ i _ => some (joinIns 0x23 i)
  | .veLd _ i _ => some (joinIns 0x30 i)
  | .veSt _ i _ => some (joinIns 0x31 i)
  | .veMov _ i _ => some (joinIns 0x32 i)
  | .veAdd _ i _ => some (joinIns 0x32 i)
  | .veSub _ i _ => some (joinIns 0x32 i)
  | .veMul _ i _ => some (joinIns 0x32 i)
  | .veFma _ i _ => some (joinIns 0x32 i)
  | .veFnma _ i _ => some (joinIns 0x32 i)
  | .veMax _ i _ => some (joinIns 0x32 i)
  | .veMin _ i _ => some (joinIns 0x32 i)
  | .veAbs _ i _ => some (joinIns 0x32 i)
  | .veNeg _ i _ => some (joinIns 0x32 i)
  | .veAddk _ i _ => some (joinIns 0x32 i)
  | .veMulk _ i _ => some (joinIns 0x32 i)
  | .veFmak _ i _ => some (joinIns 0x32 i)
  | .veClamp _ i _ => some (joinIns 0x32 i)
  | .veCmpgt _ i _ => some (joinIns 0x32 i)
  | .veCmpge _ i _ => some (joinIns 0x32 i)
  | .veCmpeq _ i _ => some (joinIns 0x32 i)
  | .veSel _ i _ => some (joinIns 0x32 i)
  | .veFloor _ i _ => some (joinIns 0x32 i)
  | .veRndi _ i _ => some (joinIns 0x32 i)
  | .veGetexp _ i _ => some (joinIns 0x32 i)
  | .veGetmant _ i _ => some (joinIns 0x32 i)
  | .veLdexp _ i _ => some (joinIns 0x32 i)
  | .veCvtbf _ i _ => some (joinIns 0x32 i)
  | .veRmax _ i _ => some (joinIns 0x32 i)
  | .veRsum _ i _ => some (joinIns 0x32 i)
  | .veCsum _ i _ => some (joinIns 0x32 i)
  | .veBcast0 _ i _ => some (joinIns 0x32 i)
  | .veRcp _ i _ => some (joinIns 0x32 i)
  | .veRsqrt _ i _ => some (joinIns 0x32 i)
  | .veExp _ i _ => some (joinIns 0x32 i)
  | .veRand _ i _ => some (joinIns 0x32 i)
  | .dmaRd _ i _ => some (joinIns 0x40 i)
  | .dmaWr _ i _ => some (joinIns 0x41 i)
  | .dmaLinRead _ i _ => some (joinIns 0x42 i)
  | .dmaLinWrite _ i _ => some (joinIns 0x42 i)
  | .dmaXfr _ i _ => some (joinIns 0x43 i)
  | .dmaChd _ i _ => some (joinIns 0x44 i)
  | .dmaDsp _ i _ => some (joinIns 0x45 i)
  | .dmaStat _ i _ => some (joinIns 0x46 i)
  | .tokSend _ i _ => some (joinIns 0x50 i)
  | .tokRecv _ i _ => some (joinIns 0x51 i)
  | .tokPoll _ i _ => some (joinIns 0x52 i)
  | .statClr _ i _ => some (joinIns 0x60 i)
  | .statEmit _ i _ => some (joinIns 0x61 i)
  | _ => none

end Sys2Proof
end

