-- ==== Sys2Proof/Machine/Bits.lean ====
section
/-! DEFINITION. Sys2Proof/Machine/Bits.lean: little-endian bytes (R9), sparse stores in one canonical form, CRC-32
(Table 02-8), SHA-256 and RSASSA-PSS verification (R79). -/

namespace Sys2Proof.Machine

/-! ### Bytes -/

/-- The `n` low bytes of `v`, least significant first (R9). -/
def leBytes : (n : Nat) → (v : Nat) → List Byte
  | 0, _ => []
  | n + 1, v => BitVec.ofNat 8 v :: leBytes n (v / 256)

/-- The number that little-endian bytes spell. -/
def leNat : List Byte → Nat
  | [] => 0
  | b :: bs => b.toNat + 256 * leNat bs

/-- The number that bytes spell, most significant first (network order, R9). -/
def beNat (bs : List Byte) : Nat := leNat bs.reverse

/-- The `n` low bytes of `v`, most significant first. -/
def beBytes (n v : Nat) : List Byte := (leBytes n v).reverse

/-- `n` zero bytes. -/
def zeros (n : Nat) : List Byte := List.replicate n 0

/-- `n` bytes of a buffer from offset `o`, zero beyond its end. -/
def slice (bs : List Byte) (o n : Nat) : List Byte :=
  let x := (bs.drop o).take n
  x ++ zeros (n - x.length)

/-- The little-endian field of `n` bytes at offset `o` of a buffer. -/
def field (bs : List Byte) (o n : Nat) : Nat := leNat (slice bs o n)

/-- Zero-pad a byte list to `n` bytes. -/
def padTo (n : Nat) (bs : List Byte) : List Byte := bs ++ zeros (n - bs.length)

/-- A record of `n` bytes that holds the given pieces at their offsets, zero elsewhere; later pieces win. -/
def layout (n : Nat) (parts : List (Nat × List Byte)) : List Byte :=
  parts.foldl (fun acc p => acc.take p.1 ++ (p.2 ++ acc.drop (p.1 + p.2.length))) (zeros n) |>.take n

/-- Round `n` up to a multiple of `k`. -/
def roundUp (n k : Nat) : Nat := (n + k - 1) / k * k

/-- 1 for true. -/
def bit (b : Bool) : Nat := if b then 1 else 0

/-! ### Sparse stores: keys strictly rising, no default value -/

/-- The value at key `k`, `d` when unlisted. -/
def sget {α : Type} (d : α) : List (Nat × α) → Nat → α
  | [], _ => d
  | (k', v) :: m, k => if k' = k then v else sget d m k

/-- Remove key `k`. -/
def serase {α : Type} (m : List (Nat × α)) (k : Nat) : List (Nat × α) := m.filter fun c => c.1 ≠ k

/-- Insert a listed value in key order, replacing the one at its key. -/
def sins {α : Type} : List (Nat × α) → Nat → α → List (Nat × α)
  | [], k, v => [(k, v)]
  | (k', v') :: m, k, v =>
    if k < k' then (k, v) :: (k', v') :: m
    else if k = k' then (k, v) :: m
    else (k', v') :: sins m k v

/-- Write `v` at key `k`; the default value is not listed. -/
def sset {α : Type} [DecidableEq α] (d : α) (m : List (Nat × α)) (k : Nat) (v : α) : List (Nat × α) :=
  if v = d then serase m k else sins m k v

/-- Every key strictly above the one before it, and no listed default. -/
def scanon {α : Type} [DecidableEq α] (d : α) : List (Nat × α) → Bool
  | [] => true
  | [c] => c.2 ≠ d
  | c :: c' :: m => c.2 ≠ d && c.1 < c'.1 && scanon d (c' :: m)

/-- Remove the keys from `a` on, `n` of them: they read as the default. -/
def sclear {α : Type} (m : List (Nat × α)) (a n : Nat) : List (Nat × α) := m.filter fun c => c.1 < a || a + n ≤ c.1

/-- The listed cells from `a` on, `n` keys, rebased to `b`. -/
def scut {α : Type} (m : List (Nat × α)) (a n b : Nat) : List (Nat × α) :=
  (m.filter fun c => a ≤ c.1 && c.1 < a + n).map fun c => (c.1 - a + b, c.2)

/-- A store with the range of `n` keys from `a` on replaced by the cells `cs`. -/
def splice {α : Type} (m : List (Nat × α)) (a n : Nat) (cs : List (Nat × α)) : List (Nat × α) :=
  m.filter (fun c => decide (c.1 < a)) ++ (cs ++ m.filter fun c => decide (a + n ≤ c.1))

/-- A store with the range of `n` keys at `b` replaced by the cells of `src` at `a`. -/
def scopy {α : Type} (dst : List (Nat × α)) (b : Nat) (src : List (Nat × α)) (a n : Nat) : List (Nat × α) :=
  splice dst b n (scut src a n b)

/-- Write a byte of memory. -/
abbrev mset (m : List Host.Cell) (a : Nat) (v : Byte) : List Host.Cell := sset 0 m a v

/-- Read a byte of memory; an unlisted byte reads 0. -/
abbrev mget (m : List Host.Cell) (a : Nat) : Byte := sget 0 m a

/-- The cells of bytes from address `a` on: the nonzero ones. -/
def cellsAt (a : Nat) (bs : List Byte) : List Host.Cell :=
  (bs.zipIdx a).filterMap fun p => if p.1 = 0 then none else some (p.2, p.1)

/-- Write bytes from address `a` on. -/
def mwrite (m : List Host.Cell) (a : Nat) (bs : List Byte) : List Host.Cell := splice m a bs.length (cellsAt a bs)

/-- Read `n` bytes from address `a` on. -/
def mread (m : List Host.Cell) (a : Nat) : Nat → List Byte
  | 0 => []
  | n + 1 => mget m a :: mread m (a + 1) n

/-- The canonical form of a byte store (Memory.wf of this block's addressed stores). -/
def memWf (m : List Host.Cell) : Bool := scanon 0 m

/-- Replace element `n` of a list by its image. -/
def updAt {α : Type} (l : List α) (n : Nat) (f : α → α) : List α :=
  l.mapIdx fun i x => if i = n then f x else x

/-- Replace the elements that satisfy `p` by their image. -/
def updIf {α : Type} (l : List α) (p : α → Bool) (f : α → α) : List α := l.map fun x => if p x then f x else x

/-- Bits of a mask that are set. -/
def popCount {w : Nat} (v : BitVec w) : Nat := (List.range w).foldl (fun n i => n + bit (v.getLsbD i)) 0

/-- Set or clear bit `i`. -/
def setBit {w : Nat} (v : BitVec w) (i : Nat) (b : Bool) : BitVec w :=
  if b then v ||| BitVec.ofNat w (1 <<< i) else v &&& ~~~ BitVec.ofNat w (1 <<< i)

/-- A vector given by its elements. -/
def vgen {α : Type} {n : Nat} (f : Fin n → α) : Vector α n := ⟨⟨List.ofFn f⟩, by simp⟩

/-- A vector with the element at `i` replaced by its image. -/
def vupd {α : Type} {n : Nat} (v : Vector α n) (i : Fin n) (f : α → α) : Vector α n := v.set i.val (f v[i]) i.isLt

/-- A vector with every element replaced by its image. -/
def vmap {α : Type} {n : Nat} (v : Vector α n) (f : Fin n → α → α) : Vector α n := vgen fun i => f i v[i]

/-- Every element of a vector as a list. -/
def vlist {α : Type} {n : Nat} (v : Vector α n) : List α := List.ofFn fun i => v[i]

/-- The indices of a vector of `n` elements. -/
def fins (n : Nat) : List (Fin n) := List.ofFn id

/-- The first element of a list that satisfies `p`. -/
def listFind {α : Type} (l : List α) (p : α → Bool) : Option α := l.find? p

/-- The value of an option, or a default. -/
def optGet {α : Type} (d : α) : Option α → α
  | some x => x
  | none => d

/-- The number `n` as an element of `Fin (k + 1)`, taken modulo `k + 1`. -/
def finOf {k : Nat} (n : Nat) : Fin (k + 1) := ⟨n % (k + 1), Nat.mod_lt _ (Nat.succ_pos _)⟩

/-- An outcome whose step completes. -/
abbrev ok {σ φ ρ : Type} (s : σ) : Host.Outcome σ φ ρ := .next s

/-! ### CRC-32 with the polynomial and bit order of the IEEE 802.3 frame check sequence -/

/-- Eight steps of the reflected CRC shift register. -/
def crcByte (c : W32) (b : Byte) : W32 :=
  (List.range 8).foldl (fun r _ => if r.getLsbD 0 then (r >>> 1) ^^^ 0xEDB88320 else r >>> 1) (c ^^^ b.zeroExtend 32)

/-- CRC-32 of a byte string (Table 02-8). -/
def crc32 (bs : List Byte) : W32 := ~~~ (bs.foldl crcByte 0xFFFFFFFF)

/-! ### SHA-256 -/

/-- Round constants of SHA-256. -/
def shaK : List W32 :=
  [0x428a2f98,0x71374491,0xb5c0fbcf,0xe9b5dba5,0x3956c25b,0x59f111f1,0x923f82a4,0xab1c5ed5] ++
  [0xd807aa98,0x12835b01,0x243185be,0x550c7dc3,0x72be5d74,0x80deb1fe,0x9bdc06a7,0xc19bf174] ++
  [0xe49b69c1,0xefbe4786,0x0fc19dc6,0x240ca1cc,0x2de92c6f,0x4a7484aa,0x5cb0a9dc,0x76f988da] ++
  [0x983e5152,0xa831c66d,0xb00327c8,0xbf597fc7,0xc6e00bf3,0xd5a79147,0x06ca6351,0x14292967] ++
  [0x27b70a85,0x2e1b2138,0x4d2c6dfc,0x53380d13,0x650a7354,0x766a0abb,0x81c2c92e,0x92722c85] ++
  [0xa2bfe8a1,0xa81a664b,0xc24b8b70,0xc76c51a3,0xd192e819,0xd6990624,0xf40e3585,0x106aa070] ++
  [0x19a4c116,0x1e376c08,0x2748774c,0x34b0bcb5,0x391c0cb3,0x4ed8aa4a,0x5b9cca4f,0x682e6ff3] ++
  [0x748f82ee,0x78a5636f,0x84c87814,0x8cc70208,0x90befffa,0xa4506ceb,0xbef9a3f7,0xc67178f2]

/-- Working variables a to h of SHA-256. -/
structure Sha where
  a : W32
  b : W32
  c : W32
  d : W32
  e : W32
  f : W32
  g : W32
  h : W32
  deriving DecidableEq, Repr

/-- Initial hash value. -/
def shaInit : Sha := ⟨0x6a09e667, 0xbb67ae85, 0x3c6ef372, 0xa54ff53a, 0x510e527f, 0x9b05688c, 0x1f83d9ab, 0x5be0cd19⟩

/-- The 16 words of a block, most significant byte first. -/
def shaWords : Nat → List Byte → List W32
  | 0, _ => []
  | n + 1, bs => BitVec.ofNat 32 (beNat (bs.take 4)) :: shaWords n (bs.drop 4)

/-- The message schedule, newest word first. -/
def shaSched : Nat → List W32 → List W32
  | 0, w => w
  | n + 1, w =>
    let g := fun (i : Nat) => w.getD i 0
    let s0 := (g 14).rotateRight 7 ^^^ (g 14).rotateRight 18 ^^^ (g 14) >>> 3
    let s1 := (g 1).rotateRight 17 ^^^ (g 1).rotateRight 19 ^^^ (g 1) >>> 10
    shaSched n ((g 15 + s0 + g 6 + s1) :: w)

/-- One round. -/
def shaRound (s : Sha) (kw : W32 × W32) : Sha :=
  let S1 := s.e.rotateRight 6 ^^^ s.e.rotateRight 11 ^^^ s.e.rotateRight 25
  let ch := (s.e &&& s.f) ^^^ (~~~ s.e &&& s.g)
  let t1 := s.h + S1 + ch + kw.1 + kw.2
  let S0 := s.a.rotateRight 2 ^^^ s.a.rotateRight 13 ^^^ s.a.rotateRight 22
  let mj := (s.a &&& s.b) ^^^ (s.a &&& s.c) ^^^ (s.b &&& s.c)
  ⟨t1 + S0 + mj, s.a, s.b, s.c, s.d + t1, s.e, s.f, s.g⟩

/-- One block. -/
def shaBlock (s : Sha) (bs : List Byte) : Sha :=
  let w := (shaSched 48 (shaWords 16 bs).reverse).reverse
  let r := (shaK.zip w).foldl shaRound s
  ⟨s.a + r.a, s.b + r.b, s.c + r.c, s.d + r.d, s.e + r.e, s.f + r.f, s.g + r.g, s.h + r.h⟩

/-- The blocks of a padded message. -/
def shaBlocks : Nat → Sha → List Byte → Sha
  | 0, s, _ => s
  | n + 1, s, bs => shaBlocks n (shaBlock s (bs.take 64)) (bs.drop 64)

/-- SHA-256 of a byte string, as 32 bytes in digest order. -/
def sha256 (m : List Byte) : List Byte :=
  let n := roundUp (m.length + 9) 64
  let p := m ++ [0x80] ++ zeros (n - m.length - 9) ++ beBytes 8 (8 * m.length)
  let s := shaBlocks (n / 64) shaInit p
  [s.a, s.b, s.c, s.d, s.e, s.f, s.g, s.h].flatMap fun w => beBytes 4 w.toNat

/-- SHA-256 as a number, most significant byte first. -/
def sha256N (m : List Byte) : BitVec 256 := BitVec.ofNat 256 (beNat (sha256 m))

/-! ### RSASSA-PSS verification, RSA-3072, SHA-256, MGF1 with SHA-256, 32-byte salt, trailer 0xBC (R79) -/

/-- b ^ e mod n by squaring; `fuel` bits of the exponent. -/
def powMod (n : Nat) : (fuel b e : Nat) → Nat
  | 0, _, _ => 1 % n
  | f + 1, b, e =>
    let h := powMod n f (b * b % n) (e / 2)
    if e % 2 = 1 then b * h % n else h

/-- MGF1 with SHA-256, `k` hash blocks. -/
def mgf1 (seed : List Byte) : Nat → List Byte
  | 0 => []
  | k + 1 => mgf1 seed k ++ sha256 (seed ++ beBytes 4 k)

/-- EMSA-PSS-VERIFY of RFC 8017 section 9.1.2 for an encoded message of 384 bytes and 3,071 bits. -/
def pssCheck (msg em : List Byte) : Bool :=
  let mHash := sha256 msg
  let masked := em.take 351
  let h := (em.drop 351).take 32
  let dbMask := (mgf1 h 11).take 351
  let db := (List.zipWith (fun x y => x ^^^ y) masked dbMask)
  let db := (db.headD 0 &&& 0x7F) :: db.tail
  em.length = 384 && em.getLastD 0 = 0xBC && (masked.headD 0).getLsbD 7 = false &&
    db.take 318 = zeros 318 && db.getD 318 0 = 0x01 &&
    sha256 (zeros 8 ++ mHash ++ db.drop 319) = h

/-- RSASSA-PSS-VERIFY: modulus and signature as octet strings, most significant first (R78). -/
def pssVerify (modulus : List Byte) (e : Nat) (msg sig : List Byte) : Bool :=
  let n := beNat modulus
  let s := beNat sig
  n ≠ 0 && s < n && sig.length = 384 && pssCheck msg (beBytes 384 (powMod n 32 s e))

end Sys2Proof.Machine
end

