-- ==== Sys2Proof/Machine/Entry.lean ====
section
/-! DEFINITION. Sys2Proof/Machine/Entry.lean: the 64-byte command entry (R104, Table 04-6) and where each command's request lies in
its `PARAM` (R120, Tables 04-9 to 04-12). -/

namespace Sys2Proof.Machine

/-- The opcode and the header of a 64-byte entry (Table 04-6): a bit of `FLAGS` above `NO_INTR` and the bytes at 0x06 and 0x14 are
reserved. -/
def parseEntry (path : Path) (xid : W32) (bufFault cplFault : Bool) (e : List Byte) : W16 × Hdr :=
  (BitVec.ofNat 16 (field e 0x00 2),
   { path := path, xid := xid, tag := BitVec.ofNat 16 (field e 0x04 2), fence := field e 0x02 1 % 2 = 1,
     noIntr := field e 0x02 1 / 2 % 2 = 1, sector := BitVec.ofNat 8 (field e 0x03 1), bufAddr := BitVec.ofNat 64 (field e 0x08 8),
     bufLen := BitVec.ofNat 32 (field e 0x10 4), param := slice e 0x18 40,
     reserved := field e 0x02 1 / 4 != 0 || field e 0x06 2 != 0 || field e 0x14 4 != 0, bufFault := bufFault, cplFault := cplFault })

/-- The Request column of a command: entry offset and width of each field of its `PARAM` (Tables 04-9 to 04-12). -/
def requestOf (op : W16) : List (Nat × Nat) :=
  match op.toNat with
  | 0x0001 => [(0x18, 1), (0x19, 1), (0x1A, 1)]
  | 0x0003 => [(0x18, 1)]
  | 0x0004 => [(0x18, 1), (0x19, 1)]
  | 0x0103 => [(0x18, 4), (0x1C, 1), (0x1D, 1)]
  | 0x0104 => [(0x18, 1)]
  | 0x0105 => [(0x18, 1)]
  | 0x0202 => [(0x18, 2), (0x1A, 2), (0x1C, 4), (0x20, 2), (0x24, 4)]
  | 0x0203 => [(0x18, 1), (0x19, 1), (0x1A, 1)]
  | 0x0204 => [(0x18, 1), (0x1C, 4), (0x20, 8)]
  | 0x0205 => [(0x18, 2), (0x1A, 1), (0x1B, 1)]
  | 0x0301 => [(0x18, 4), (0x1C, 4), (0x20, 1)]
  | 0x0303 => [(0x18, 4), (0x1C, 4)]
  | 0x0401 => [(0x18, 2), (0x1C, 4), (0x20, 2), (0x22, 1)]
  | 0x0404 => [(0x18, 4)]
  | 0x0406 => [(0x18, 4)]
  | 0x0407 => [(0x18, 4)]
  | 0x0501 => [(0x18, 4), (0x20, 8), (0x28, 1)]
  | 0x0502 => [(0x18, 4)]
  | 0x0503 => [(0x18, 4), (0x1C, 2), (0x1E, 1)]
  | 0x0504 => [(0x18, 4), (0x1C, 4), (0x20, 8), (0x28, 8)]
  | 0x0505 => [(0x18, 4), (0x1C, 4), (0x20, 8)]
  | 0x0506 => [(0x18, 4), (0x20, 8), (0x28, 2), (0x2A, 2)]
  | 0x0507 => [(0x18, 4)]
  | 0x0508 => [(0x18, 4)]
  | 0x0601 => [(0x18, 4), (0x1C, 1), (0x1E, 2), (0x20, 16), (0x30, 16)]
  | 0x0602 => [(0x18, 4)]
  | 0x0603 => [(0x18, 4), (0x20, 16), (0x30, 8)]
  | 0x0604 => [(0x18, 4)]
  | 0x0701 => [(0x18, 8), (0x20, 8), (0x28, 1), (0x2C, 4)]
  | 0x0702 => [(0x18, 8)]
  | 0x0703 => [(0x18, 8), (0x20, 1), (0x21, 1)]
  | 0x0704 => [(0x18, 8), (0x20, 1)]
  | 0x0705 => [(0x18, 8)]
  | 0x0706 => [(0x18, 8)]
  | 0x0707 => [(0x18, 4)]
  | 0x0801 => [(0x18, 1), (0x1C, 4), (0x20, 16)]
  | 0x0802 => [(0x18, 1)]
  | 0x0803 => [(0x18, 4)]
  | _ => []

/-- A byte of `PARAM` that the command does not define is nonzero: it is reserved (R104). -/
def paramReserved (op : W16) (param : List Byte) : Bool :=
  (List.range 40).any fun i => param.getD i 0 != 0 && !(requestOf op).any fun f => decide (f.1 ≤ 0x18 + i ∧ 0x18 + i < f.1 + f.2)

/-- The request of a command as `PARAM` holds it (R120): little-endian fields, addresses in network order. -/
def requestBytes (c : Instr) : Option (Hdr × W16 × List (List Byte)) :=
  match c with
  | .mbxOpen h a b d => some (h, 0x0001, [[a], [b], [d]])
  | .deviceReset h k => some (h, 0x0003, [[k]])
  | .gpioConfig h p f => some (h, 0x0004, [[p], [f]])
  | .fwInstall h o f b _ => some (h, 0x0103, [leBytes 4 o.toNat, [f], [b]])
  | .fwActivate h b => some (h, 0x0104, [[b]])
  | .fwSvnCommit h f _ => some (h, 0x0105, [[f]])
  | .healthConfig h t y d b w => some (h, 0x0202, [leBytes 2 t.toNat, leBytes 2 y.toNat, leBytes 4 d.toNat, leBytes 2 b.toNat, leBytes 4 w.toNat])
  | .unitFence h u i a => some (h, 0x0203, [[u], [i], [a]])
  | .rehearsalConfig h f p m => some (h, 0x0204, [[f], leBytes 4 p.toNat, leBytes 8 m.toNat])
  | .diagRun h t u i _ _ => some (h, 0x0205, [leBytes 2 t.toNat, [u], [i]])
  | .memRegionMode h f n m => some (h, 0x0301, [leBytes 4 f.toNat, leBytes 4 n.toNat, [m]])
  | .memHdmWindow h f n => some (h, 0x0303, [leBytes 4 f.toNat, leBytes 4 n.toNat])
  | .sectorCreate h c q w f => some (h, 0x0401, [leBytes 2 c.toNat, leBytes 4 q.toNat, leBytes 2 w.toNat, [f]])
  | .arcStart h c => some (h, 0x0404, [leBytes 4 c.toNat])
  | .park h j => some (h, 0x0406, [leBytes 4 j.toNat])
  | .unpark h j => some (h, 0x0407, [leBytes 4 j.toNat])
  | .jobOpen h j s r => some (h, 0x0501, [leBytes 4 j.toNat, leBytes 8 s.toNat, [r]])
  | .jobClose h j => some (h, 0x0502, [leBytes 4 j.toNat])
  | .layoutInstall h j e f _ => some (h, 0x0503, [leBytes 4 j.toNat, leBytes 2 e.toNat, [f]])
  | .shardCommit h j d g o => some (h, 0x0504, [leBytes 4 j.toNat, leBytes 4 d.toNat, leBytes 8 g.toNat, leBytes 8 o.toNat])
  | .shardRead h j d o => some (h, 0x0505, [leBytes 4 j.toNat, leBytes 4 d.toNat, leBytes 8 o.toNat])
  | .stepArm h j s m e => some (h, 0x0506, [leBytes 4 j.toNat, leBytes 8 s.toNat, leBytes 2 m.toNat, leBytes 2 e.toNat])
  | .stepStatus h j => some (h, 0x0507, [leBytes 4 j.toNat])
  | .ruleLoad h j _ => some (h, 0x0508, [leBytes 4 j.toNat])
  | .mirrorBind h j d n p q => some (h, 0x0601, [leBytes 4 j.toNat, [d], leBytes 2 n.toNat, beBytes 16 p.toNat, beBytes 16 q.toNat])
  | .mirrorUnbind h j => some (h, 0x0602, [leBytes 4 j.toNat])
  | .restore h j p g => some (h, 0x0603, [leBytes 4 j.toNat, beBytes 16 p.toNat, leBytes 8 g.toNat])
  | .mirrorQuery h j => some (h, 0x0604, [leBytes 4 j.toNat])
  | .objCreate h o n t j => some (h, 0x0701, [leBytes 8 o.toNat, leBytes 8 n.toNat, [t], leBytes 4 j.toNat])
  | .objDestroy h o => some (h, 0x0702, [leBytes 8 o.toNat])
  | .objPromote h o t f => some (h, 0x0703, [leBytes 8 o.toNat, [t], [f]])
  | .objEvict h o t => some (h, 0x0704, [leBytes 8 o.toNat, [t]])
  | .objPin h o => some (h, 0x0705, [leBytes 8 o.toNat])
  | .objUnpin h o => some (h, 0x0706, [leBytes 8 o.toNat])
  | .prefetchSchedule h j _ => some (h, 0x0707, [leBytes 4 j.toNat])
  | .fabricConfig h p t a => some (h, 0x0801, [[p], leBytes 4 t.toNat, beBytes 16 a.toNat])
  | .portStatus h p => some (h, 0x0802, [[p]])
  | .collectiveAbort h j => some (h, 0x0803, [leBytes 4 j.toNat])
  | _ => none

/-- A mailbox command's operands are those of its entry's `PARAM` (R104, R120). -/
def entryAgrees (c : Instr) : Bool :=
  match requestBytes c with
  | some (h, op, fs) => ((requestOf op).zip fs).all fun p => slice h.param (p.1.1 - 0x18) p.1.2 == p.2
  | none => true

end Sys2Proof.Machine
end

