-- ==== Sys2Proof/Config.lean ====
section
/-! DEFINITION. Sys2Proof/Config.lean: what the spec leaves open or the silicon fixes. Every constant here is opaque: no
proof can see a value. Log entries 3 (free values) and 4 (device constants) name each. -/

namespace Sys2Proof

/-- The k-th free value the machine consumes (`State.freeIx` counts): random bits of SEC (R67), values the spec leaves
undefined. Unconstrained. Mark: DESIGN CHOICE (log 3). safe. -/
opaque Config.freeNat : Nat → Nat

/-- The RSA-3072 private operation of the device identity key on an encoded message (R73, R79): the key is secret. DESIGN CHOICE
(log 4). safe. -/
opaque Config.identityRsa : List Byte → List Byte

/-- Raw sample blocks of the noise source that the k-th seeding of the DRBG conditions (R67). Unconstrained. DESIGN CHOICE
(log 3). safe. -/
opaque Config.noise : Nat → List (List Byte)

/-- By how much the cutoffs of the repetition-count and the adaptive-proportion test (R67) exceed 2, the least that NIST SP 800-90B
can derive: it derives them from the source's assessed entropy, which the spec does not give. DESIGN CHOICE (log 4). safe. -/
opaque Config.repAbove : Nat
opaque Config.aptAbove : Nat

/-- Whether the noise source's samples are of one bit, which the spec does not say. DESIGN CHOICE (log 4). safe. -/
opaque Config.binarySource : Bool

/-- The cutoffs, and the window of the adaptive-proportion test: NIST SP 800-90B fixes 1,024 samples for a binary source and 512
for any other. PRESUMED (log 112). -/
def Config.repCutoff : Nat := Config.repAbove + 2
def Config.aptCutoff : Nat := Config.aptAbove + 2
def Config.aptWindow : Nat := if Config.binarySource then 1024 else 512

/-- What the spec leaves open of a certificate of R74, each as a DER value: serial number, subject name (of the two CAs), the
two dates of its validity (the device's notAfter is fixed), its public key information and its extensions. -/
structure CertOpen where
  serial     : List (BitVec 8)
  subject    : List (BitVec 8)
  notBefore  : List (BitVec 8)
  notAfter   : List (BitVec 8)
  key        : List (BitVec 8)
  extensions : List (BitVec 8)
  deriving DecidableEq, Repr, Inhabited

/-- The open parts of the root CA's, the Manufacturing CA's and the device certificate (R74). DESIGN CHOICE (log 4). safe. -/
opaque Config.certOpen : Fin 3 → CertOpen

/-- RSASSA-PSS signature of the root CA (false) or the Manufacturing CA (true) over a certificate's body (R74, R79), made at
manufacture. DESIGN CHOICE (log 4). safe. -/
opaque Config.caSign : Bool → List Byte → List Byte

/-- A byte of an image slot as at manufacture (R77): slot B or A, and the offset. DESIGN CHOICE (log 4). safe. -/
opaque Config.factoryByte : Bool → Nat → Byte

/-- SHA-256 of the boot ROM, constant (Table 03-4 index 1). DESIGN CHOICE (log 4). safe. -/
opaque Config.bootRomHash : BitVec 256

/-- The public key of firmware key slot n as SEC holds it, header bytes 0x140 to 0x2C3 (R78, R93), where no image that the
model holds as bytes carries it. DESIGN CHOICE (log 4). safe. -/
opaque Config.factoryKey : Nat → List Byte

/-- PHY_PARAMS of Prism n as the full training of a boot count found them, in the Prism PHY's own format (R307).
DESIGN CHOICE (log 4). safe. -/
opaque Config.phyParams : Nat → Nat → List Byte

/-- An element of a contribution that its member did not hand exactly once: the step, the rank and the element (R392 leaves it to
software, R344 gives it no value). DESIGN CHOICE (log 35). safe. -/
opaque Config.unhanded : BitVec 64 → Nat → Nat → BitVec 32

/-- The JTAG IDCODE (R92), whose value the spec does not give. DESIGN CHOICE (log 4). safe. -/
opaque Config.idcode : BitVec 32

/-- The MAC address of management port p, fixed at manufacture (R25). DESIGN CHOICE (log 4). safe. -/
opaque Config.mgmtMac : Fin 2 → BitVec 48

end Sys2Proof
end

