-- ==== Sys2Proof/Machine/State.lean ====
section
/-! DEFINITION. Sys2Proof/Machine/State.lean: everything the spec gives the module, as plain data, and the state right
after the power-on reset's trigger (PGOOD has just risen, the boot has not started). Each field's docstring names the
rule and the reset value. Sparse stores are lists of (key, value) with keys strictly rising and no default value. -/

namespace Sys2Proof.Machine

/-! ### Pins, power and the always-on island -/

/-- Level and filter state of the outward signals and the converters. -/
structure Pins where
  /-- PWR_EN level (01 R26, 17 R479). Reset: true (PGOOD has risen). -/
  pwrEn : Bool := true
  /-- The 48 V input lies above the thresholds that keep the converters on (17 R479). Reset: true. -/
  inputGood : Bool := true
  /-- The converters are latched off after an overvoltage stop or a thermal trip (17 R479). Reset: false. -/
  latchedOff : Bool := false
  /-- The converters run (17 R479). Reset: true. -/
  converters : Bool := true
  /-- PGOOD (01 R26). Reset: true. -/
  pgood : Bool := true
  /-- Level of PRSNT#, which the module ties to ground (01 R26, R32). Reset: low. -/
  prsnt : Bool := false
  /-- PERST# is asserted (01 R26). Reset: true; the carrier holds it for t_PVPERL (17 R480). DESIGN CHOICE (log 5). -/
  perst : Bool := true
  /-- REFCLK meets Table 17-9 (17 R485). Reset: true. DESIGN CHOICE (log 5). -/
  refclk : Bool := true
  /-- THERM_TRIP reads high: released (01 R26, R32 In reset). Reset: true. -/
  thermTrip : Bool := true
  /-- FAULT reads high: asserted (01 R26, R32, 16 R459). Reset: true. -/
  fault : Bool := true
  /-- SPARE_RDY# is asserted (16 R460). Reset: false. -/
  spareRdy : Bool := false
  /-- ALERT# is asserted (01 R29). Reset: false. -/
  alert : Bool := false
  /-- Function driven on GPIO0 and GPIO1, 0 released (01 R30). Reset: 0, 0. -/
  gpio : Vector (BitVec 4) 2 := Vector.replicate 2 0
  /-- Fabric, management and host transmitters are in electrical idle (01 R32, R35). Reset: true. -/
  txIdle : Bool := true
  /-- SMB_ADDR[1:0] strap (01 R26, R28). Reset: 0. DESIGN CHOICE (log 5). -/
  smbAddr : BitVec 2 := 0
  deriving DecidableEq, Repr

/-- The AON block (02 Table 02-3). -/
structure Aon where
  /-- Powered-time counter in microseconds (02 R44). Reset: 0. -/
  ptime : W64 := 0
  /-- AON_PTIME_HI as latched (02 R49). Reset: 0. -/
  ptimeHi : W32 := 0
  /-- AON_RESET_CAUSE.KIND (02 R49): 0 power-on, 1 cold, 2 warm. Reset: 0. -/
  kind : BitVec 2 := 0
  /-- AON_RESET_CAUSE.SOURCE (02 R49, R50). Reset: 0x01. -/
  source : Byte := 0x01
  /-- AON_SR_STATUS.SR_DONE (02 R49). Reset: 0. -/
  srDone : BitVec 4 := 0
  /-- AON_WDT_CTRL.PERIOD_MS (02 R49). Reset: 0x03E8. -/
  periodMs : W16 := 0x03E8
  /-- AON_WDT_CTRL.EN (02 R49). Reset: 0. -/
  wdtEn : Bool := false
  /-- AON_WDT_CTRL.EXPIRED1 (02 R49). Reset: 0. -/
  expired1 : Bool := false
  /-- AON_WDT_CTRL.BOOT (02 R49). Reset: 0. -/
  wdtBoot : Bool := false
  /-- Powered time at which the current watchdog period began (02 R54); in a module reset, that of its trigger (02 R55). Reset: 0. -/
  wdtStart : W64 := 0
  /-- The non-maskable interrupt to Apex is raised (02 R54). Reset: false. -/
  nmi : Bool := false
  deriving DecidableEq, Repr

/-- The SMBus registers (01 Table 01-8). -/
structure Smb where
  /-- SB_STATE.STATE (01 R29). Reset: 0b001. -/
  state : BitVec 3 := 0b001
  /-- SB_STATE.DEGRADED (01 R29). Reset: 0. -/
  degraded : Bool := false
  /-- SB_STATE.REPLACE_REQ (01 R29). Reset: 0. -/
  replaceReq : Bool := false
  /-- SB_STATE.SPARE_READY (01 R29). Reset: 0. -/
  spareReady : Bool := false
  /-- SB_TEMP.TEMP_MAX (01 R29, 17 R487). Reset: 0xFF. -/
  tempMax : Byte := 0xFF
  /-- SB_ALERT[3:0] (01 R29): THERM_WARN, FAULT_CHANGE, STATE_CHANGE, REPLACE_CHANGE. Reset: 0. -/
  alert : BitVec 4 := 0
  /-- SB_HEALTH.SCORE (01 R29). Reset: 0. -/
  score : BitVec 10 := 0
  /-- SB_HEALTH.VALID (01 R29). Reset: 0. -/
  valid : Bool := false
  /-- A thermal warning has been given and the sensor has not fallen below 95 degrees since (17 R487). Reset: false. -/
  warned : Bool := false
  deriving DecidableEq, Repr

/-! ### Boot and journal memories -/

/-- The life of the module between resets (01 R32, 02 R50, R61). -/
inductive Phase where
  | unpowered
  | inReset
  /-- `REFCLK` is lost: every domain fed from REF has stopped (17 R485). -/
  | stopped
  | booting
  | recovery
  | ready
  | belowFloor
  deriving DecidableEq, Repr

/-- STATUS of a stage entry (02 Table 02-9). -/
inductive StageStatus where
  | none
  | started
  | ok
  | okAlt
  | failed
  | skipped
  deriving DecidableEq, Repr

/-- A stage entry of the boot journal (02 Table 02-9). -/
structure StageEntry where
  status : StageStatus := .none
  fails  : Byte := 0
  timeUs : W32 := 0
  deriving DecidableEq, Repr

/-- The boot journal record (02 Table 02-8), but for MAGIC, FORMAT and CRC, which its serialisation adds. -/
structure BootRec where
  /-- SEQ (02 R62). Reset: 1. DESIGN CHOICE (log 6). -/
  seq : W64 := 1
  /-- BOOT_COUNT (02 R47). Reset: 1, the least the spec allows at manufacture (02 R489). DESIGN CHOICE (log 6). -/
  bootCount : W32 := 1
  /-- FLAGS[0] BC_RESTARTED (02 R64). Reset: 0 (02 R489). -/
  bcRestarted : Bool := false
  /-- FLAGS[1] ACTIVE_IMAGE: false A, true B (02 R62). Reset: A (02 R489). -/
  activeB : Bool := false
  /-- FLAGS[2] JRN_A_BAD (02 R64). Reset: 0. -/
  aBad : Bool := false
  /-- FLAGS[3] JRN_B_BAD (02 R64). Reset: 0. -/
  bBad : Bool := false
  /-- BOOT_PTIME (02 R62). Reset: 0. -/
  bootPtime : W64 := 0
  /-- LAST_CAUSE (02 R62). Reset: 0. DESIGN CHOICE (log 6). -/
  lastCause : W32 := 0
  /-- GPIO_FUNC (02 R62, 01 R30). Reset: 0 (02 R489). -/
  gpioFunc : Byte := 0
  /-- STAGE[0..21] (02 R62). Reset: every entry NONE with FAILS 0 (02 R489). -/
  stage : Vector StageEntry 22 := Vector.replicate 22 {}
  deriving DecidableEq, Repr

/-- A remap entry (11 Table 11-2). -/
structure RemapEntry where
  sector  : BitVec 30
  channel : BitVec 4
  cause   : Bool
  boot    : W16
  deriving DecidableEq, Repr

/-- The saved-parameter record of a Prism (11 Table 11-5); PHY_PARAMS is not interpreted by software (11 R307). -/
structure SavedParams where
  seq         : W64 := 1
  channels    : W16 := 0xFFFF
  trainedBoot : W32 := 1
  remap       : List RemapEntry := []
  /-- PHY_PARAMS: the PHY's own format, not interpreted by software (R307). Reset: `Config.phyParams`,
  which is free. DESIGN CHOICE (log 4). -/
  phy         : List Byte := []
  deriving DecidableEq, Repr

/-- The memory configuration record (11 Table 11-6). -/
structure MemConfig where
  seq      : W64 := 0
  hdmFirst : W32 := 0
  hdmSize  : W32 := 0
  /-- Granules in narrow-write mode 1, rising. -/
  mode1    : List Nat := []
  deriving DecidableEq, Repr

/-- The fence map (16 Table 16-5). -/
structure FenceMap where
  seq         : W64 := 0
  columns     : BitVec 12 := 0
  selftest    : BitVec 12 := 0
  pairs       : W32 := 0
  pending     : W32 := 0
  prisms      : BitVec 4 := 0
  fabric      : Byte := 0
  mgmt        : BitVec 2 := 0
  liftColumns : BitVec 12 := 0
  liftPairs   : W32 := 0
  liftPrisms  : BitVec 4 := 0
  liftFabric  : Byte := 0
  liftMgmt    : BitVec 2 := 0
  deriving DecidableEq, Repr

/-- The health configuration record (16 Table 16-3) with its defaults. -/
structure HealthConfig where
  seq        : W64 := 0
  threshold  : Nat := 600
  hysteresis : Nat := 100
  dwellS     : Nat := 3600
  budget     : Nat := 0
  rehEnable  : Bool := false
  windowS    : Nat := 86400
  periodS    : Nat := 86400
  mask       : BitVec 9 := 0
  deriving DecidableEq, Repr

/-- The health state record (16 Table 16-2). `counts` is sparse by 12 * bucket + class - 0x10. -/
structure HealthState where
  seq        : W64 := 0
  obsS       : Nat := 0
  belowS     : Nat := 0
  aboveS     : Nat := 0
  replaceReq : Bool := false
  budgetUsed : Nat := 0
  windowEl   : Nat := 0
  refusals   : Nat := 0
  bucket     : Nat := 0
  bucketEl   : Nat := 0
  counts     : List (Nat × Nat) := []
  deriving DecidableEq, Repr

/-- One entry of the warm-restart directory (15 R438). -/
structure DirEntry where
  job    : W32
  sector : Nat
  dpa    : Nat
  deriving DecidableEq, Repr

/-- The warm-restart directory (15 R438): four slots. -/
structure WarmDir where
  seq     : W64 := 0
  entries : Vector (Option DirEntry) 4 := Vector.replicate 4 none
  deriving DecidableEq, Repr

/-- A duplicated record: its copy in JRN_A and in JRN_B, absent where the copy is not valid (01 R23, 02 R63). -/
structure Dup (α : Type) where
  a : Option α
  b : Option α
  deriving DecidableEq, Repr

/-- Which copy the JOURNAL stage selected (04 Table 04-9, BOOT_JOURNAL_READ). -/
inductive Selected where
  | a
  | b
  | fresh
  deriving DecidableEq, Repr

/-- A Prism's saved-parameter record as it leaves manufacture (02 R489), in both journal memories. -/
def madeSaved (n : Nat) : Dup SavedParams :=
  let r : SavedParams := { phy := Config.phyParams n 1 }
  ⟨some r, some r⟩

/-- The journal memories and the working copies of their records in Apex SRAM. -/
structure Journal where
  /-- Boot journal copies (02 R62). Reset: both valid (02 R489). -/
  bootDup : Dup BootRec := ⟨some {}, some {}⟩
  /-- The record in force (02 R63). Reset: the manufactured record. -/
  boot : BootRec := {}
  /-- Selected copy (02 R65). Reset: A. -/
  selected : Selected := .a
  /-- Saved-parameter records of the Prisms (11 R307). Reset: valid, every channel in service (02 R489). -/
  savedDup : Vector (Dup SavedParams) 4 := #v[madeSaved 0, madeSaved 1, madeSaved 2, madeSaved 3]
  /-- Memory configuration record copies (11 R311). Reset: none valid (02 R489). -/
  memDup : Dup MemConfig := ⟨none, none⟩
  /-- Memory configuration in force (11 R311). Reset: fresh. -/
  mem : MemConfig := {}
  /-- Fence map copies (16 R452). Reset: none valid (02 R489). -/
  fenceDup : Dup FenceMap := ⟨none, none⟩
  /-- Fence map in force (16 R452). Reset: fresh. -/
  fence : FenceMap := {}
  /-- Health configuration copies (16 R448). Reset: none valid (02 R489). -/
  hcfgDup : Dup HealthConfig := ⟨none, none⟩
  /-- Health configuration in force (16 R448). Reset: defaults. -/
  hcfg : HealthConfig := {}
  /-- Health state copies (16 R446). Reset: none valid (02 R489). -/
  hstDup : Dup HealthState := ⟨none, none⟩
  /-- Health state in Apex SRAM (16 R446). Reset: fresh. -/
  hst : HealthState := {}
  /-- Warm-restart directory copies (15 R438). Reset: none valid (02 R489). -/
  dirDup : Dup WarmDir := ⟨none, none⟩
  /-- Warm-restart directory in force (15 R438). Reset: empty. -/
  dir : WarmDir := {}
  /-- Records found without a valid copy this boot (16 R472 FLAGS[8:5]): state, map, config, memory. Reset: all fresh. -/
  fresh : BitVec 4 := 0xF
  /-- Record writes to JRN_A and to JRN_B that pass their read-back verification before one fails; none: every one (02 R64).
  The model's own (log 20). Reset: none. -/
  lifeA : Option Nat := none
  lifeB : Option Nat := none
  /-- BOOT_JOURNAL_CLEAR was accepted: every FAILS reads zero from the next boot on (02 R65). Reset: false. -/
  clearFails : Bool := false
  deriving DecidableEq, Repr

/-! ### SEC -/

/-- Content of a boot-memory image slot (03 R77): as at manufacture; with its header sector erased, and so far written by
FW_INSTALL; or with a header written. The bytes at offsets below `known` are `bytes`, and those from there on are as at manufacture. -/
inductive SlotContent where
  | factory
  | erased (known : Nat) (bytes : List Host.Cell)
  | written (known : Nat) (bytes : List Host.Cell)
  deriving DecidableEq, Repr

/-- The fuse array (03 R70, R71) but for the key-wrapping fuses, which have no shadow. The SVN thermometer is burnt from its lowest
bit on, so the count of its set bits says which they are. -/
structure Fuses where
  lifecycle  : BitVec 3 := 0b011
  keyRevoked : BitVec 4 := 0
  svn        : Nat := 0
  serial     : W64 := 0
  keyHash    : Vector (BitVec 256) 4 := Vector.replicate 4 0
  deriving DecidableEq, Repr

/-- The working state of the HMAC_DRBG with SHA-256 (03 R67): Key and V, 32 bytes each. -/
structure Drbg where
  key : List Byte
  v   : List Byte
  deriving DecidableEq, Repr

/-- The image that passed verification in this boot (03 R82). -/
structure Running where
  slotB   : Bool
  keySlot : Nat
  svn     : Nat
  version : W32
  deriving DecidableEq, Repr

/-- An FW_INSTALL sequence in progress (04 R122). -/
structure FwSeq where
  onNet    : Bool
  slotB    : Bool
  received : Nat
  /-- Bytes of the header area held back until the last chunk (03 R83). -/
  header   : List Host.Cell
  deriving DecidableEq, Repr

/-- The security controller and the boot memories. -/
structure Sec where
  /-- The fuse array (03 R70, R71). Reset: as its shadow below. DESIGN CHOICE (log 7). -/
  fuses : Fuses := {}
  /-- SEC_FUSE_LC.LIFECYCLE, the shadow of the array (03 R70). Reset: 0b011 production. DESIGN CHOICE (log 7). -/
  lifecycle : BitVec 3 := 0b011
  /-- SEC_FUSE_LC.KEY_REVOKED (03 R70). Reset: 0. DESIGN CHOICE (log 7). -/
  keyRevoked : BitVec 4 := 0
  /-- The SVN thermometer's count (03 R70). Reset: 0. DESIGN CHOICE (log 7). -/
  fuseSvn : Nat := 0
  /-- Fused serial number (03 R70). Reset: 0. DESIGN CHOICE (log 7). -/
  serial : W64 := 0
  /-- SEC_FUSE_KEYHASHn as the number of the digest, most significant byte first (03 R70). Reset: 0. DESIGN CHOICE (log 7). -/
  keyHash : Vector (BitVec 256) 4 := Vector.replicate 4 0
  /-- Key-wrapping fuses are burnt, so that the manufactured key is gone (03 R72). Reset: false. DESIGN CHOICE (log 7). -/
  wrapBurnt : Bool := false
  /-- Image slots of BOOT_A and BOOT_B (03 R77). Reset: as at manufacture. -/
  slotA : SlotContent := .factory
  slotB : SlotContent := .factory
  /-- The slot passed Table 03-3 since its last write (03 R84). Reset: false. -/
  passedA : Bool := false
  passedB : Bool := false
  /-- SVN of the slots as last verified or reported, for FW_SVN_COMMIT's comparison (03 R85). Reset: 0. -/
  svnA : Nat := 0
  svnB : Nat := 0
  /-- Running image (03 R82). Reset: none. -/
  running : Option Running := none
  /-- Measurement registers 1 to 5 as numbers, most significant byte of the digest first (03 R88). Reset: zero. -/
  meas : Vector (BitVec 256) 5 := Vector.replicate 5 0
  /-- Consecutive entropy health-test failures (03 R68). Reset: 0. -/
  entFails : Nat := 0
  /-- Entropy unavailable until the next module reset (03 R68). Reset: false. -/
  entDown : Bool := false
  /-- Working state of the DRBG; none before it is seeded in this boot (03 R67). Reset: none. -/
  drbg : Option Drbg := none
  /-- Seedings of the DRBG over the module's life: the index of the next raw samples (Config.noise). The model's own. Reset: 0.
  DESIGN CHOICE (log 3). -/
  seedIx : Nat := 0
  /-- DRBG requests since the last reseed (03 R67). Reset: 0. -/
  drbgReqs : Nat := 0
  /-- Device identity unavailable for this boot (03 R76). Reset: false. -/
  identDown : Bool := false
  /-- Debug unlocked for this boot (03 R93). Reset: false. -/
  unlocked : Bool := false
  /-- FW_INSTALL sequence (04 R122). Reset: none. -/
  fw : Option FwSeq := none
  /-- FW_SVN_COMMIT or FUSE_BURN is burning, and a reset interrupts it before its completion (03 R71, R72, R86):
  true for FW_SVN_COMMIT. Reset: none. -/
  burning : Option Bool := none
  /-- SPDM negotiated state (03 R91): 0 none, 1 version, 2 capabilities, 3 algorithms. Reset: 0. -/
  spdm : Nat := 0
  /-- Transcripts of the SPDM connection (03 R90): the messages of the negotiation, those of digests and certificates, and those
  of measurements not yet signed. Reset: empty. -/
  talkA : List Byte := []
  talkB : List Byte := []
  talkL : List Byte := []
  /-- A response waits in the CXL DOE mailbox for the requester (03 R91). Reset: false. -/
  doeWaits : Bool := false
  /-- SHA-256 of each section of the running image by its type, as recorded when it was verified (03 R80). Reset: none. -/
  sections : List (Nat × BitVec 256) := []
  /-- Sections 0x01 and 0x06 as SEC wrote them to Apex SRAM (03 R80). Reset: none. -/
  apex : List (Nat × List Byte) := []
  /-- Stage entries whose destination is held in reset since its section did not match (03 R81). Reset: none. -/
  held : List (Fin 22) := []
  deriving DecidableEq, Repr

/-! ### Host port and mailbox -/

/-- The host link (01 R34). -/
inductive LinkState where
  | detect
  | l0
  deriving DecidableEq, Repr

/-- A command whose final completion is still to come (04 R109). -/
structure Waiting where
  h       : Hdr
  opcode  : W16
  /-- The command has started (04 R108). -/
  started : Bool
  /-- A host-port event came after the fetch: its completions are discarded (04 R113). -/
  discard : Bool
  /-- The device completed it at its fetch, and nothing runs it (04 R109, R115). -/
  dead    : Bool
  /-- Its place in the acceptance order (04 R107). -/
  place   : Nat
  deriving DecidableEq, Repr

/-- A completion that waits for a free slot (04 R110); `owner` says that the command ran, rather than being completed at its fetch,
and `fault` that its write fails in the host (04 R111). -/
structure CplEnt where
  tag    : W16
  status : W16
  final  : Bool
  result : List Byte
  noIntr : Bool
  owner  : Bool
  fault  : Bool
  deriving DecidableEq, Repr

/-- One ring pair (04 Table 04-3). -/
structure Ring where
  /-- RING_SQ_BASE_LO.ADDR and RING_SQ_BASE_HI as one 64-bit base (04 R100). Reset: 0. -/
  sqBase : W64 := 0
  /-- RING_CQ_BASE_LO.ADDR and RING_CQ_BASE_HI as one 64-bit base (04 R100). Reset: 0. -/
  cqBase : W64 := 0
  /-- RING_SIZE.SQ_LOG2 (04 R100). Reset: 4. -/
  sqLog2 : BitVec 4 := 4
  /-- RING_SIZE.CQ_LOG2 (04 R100). Reset: 4. -/
  cqLog2 : BitVec 4 := 4
  /-- RING_CTRL.EN (04 R100). Reset: 0. -/
  en : Bool := false
  /-- RING_CTRL.INTR_EN (04 R100). Reset: 0. -/
  intrEn : Bool := false
  /-- RING_CTRL.VECTOR (04 R100). Reset: 0. -/
  vector : BitVec 4 := 0
  /-- RING_STATUS.ERR (04 R111). Reset: 0. -/
  err : BitVec 3 := 0
  /-- RING_STATUS.SQ_HEAD (04 R100). Reset: 0. -/
  sqHead : Nat := 0
  /-- RING_SQ_TAIL as last accepted (04 R101). Reset: 0. -/
  tail : Nat := 0
  /-- RING_CQ_HEAD as last accepted (04 R110). Reset: 0. -/
  cqHead : Nat := 0
  /-- Index of the next completion slot the device writes (04 R106). Reset: 0. -/
  cqTail : Nat := 0
  /-- PHASE of the current pass (04 R106). Reset: true. -/
  phase : Bool := true
  /-- Unconsumed completions (04 R110). Reset: 0. -/
  unconsumed : Nat := 0
  /-- Completions that wait for a free slot, oldest first (04 R110). Reset: none. -/
  waiting : List CplEnt := []
  /-- Outstanding tags (04 R109): fetched, final completion not yet written, in fetch order. Reset: none. -/
  outstanding : List Waiting := []
  deriving DecidableEq, Repr

/-- An MSI-X table entry (04 R97). -/
structure MsixEntry where
  addrLo : W32 := 0
  addrHi : W32 := 0
  data   : W32 := 0
  ctrl   : W32 := 1
  deriving DecidableEq, Repr

/-- Host port, BAR0 registers, rings and telemetry. -/
structure Mbx where
  /-- Host link state (01 R34). Reset: Detect. -/
  link : LinkState := .detect
  /-- t_CFG_READY has passed: configuration requests complete without retry status (01 R34, R36). Reset: false. -/
  cfgReady : Bool := false
  /-- Memory_Active (01 R32, 11 R296). Reset: false. -/
  memActive : Bool := false
  /-- Memory_Active_Timeout in seconds (01 R32). Reset: 16. -/
  memTimeoutS : Nat := 16
  /-- MBX_FW_VER (04 R99). Reset: 0. -/
  fwVer : W32 := 0
  /-- MBX_STATUS.STATE (04 R99). Reset: 0b010; it takes SB_STATE.STATE from the start of the boot on. -/
  state : BitVec 3 := 0b010
  /-- MBX_STATUS.ACCEPT (04 R99). Reset: 0. -/
  accept : Bool := false
  /-- MBX_STATUS.READY (04 R99). Reset: 0. -/
  ready : Bool := false
  /-- MBX_STATUS.OPEN (04 R99). Reset: 0. -/
  isOpen : Bool := false
  /-- Negotiated minor version (04 R115). Reset: 0. -/
  minor : Byte := 0
  /-- MBX_EVENT (04 R99). Reset: 0. -/
  event : BitVec 7 := 0
  /-- MBX_EVENT_EN (04 R99). Reset: 0. -/
  eventEn : BitVec 7 := 0
  /-- MBX_EVENT_VEC (04 R99). Reset: 0. -/
  eventVec : BitVec 4 := 0
  /-- Ring pairs 0 to 7 (04 R100). Reset: Table 04-3. -/
  rings : Vector Ring 8 := Vector.replicate 8 {}
  /-- Ring that the round-robin looks at first (04 R107). Reset: 0. -/
  rr : Fin 8 := 0
  /-- Commands of the management network without a final completion (04 R109, 16 R463). Reset: none. -/
  netOut : List Waiting := []
  /-- MSI-X table (04 R97, R103); masked entries as PCI Express defines. Reset: PRESUMED masked, zero (log 8). -/
  msix : Vector MsixEntry 16 := Vector.replicate 16 {}
  /-- MSI-X pending-bit array (04 R97). Reset: 0. -/
  pba : W16 := 0
  /-- TEL_PTIME_HI as latched (04 R102). Reset: 0. -/
  telPtimeHi : W32 := 0
  /-- TEL_SEQ (04 R102). Reset: 0. -/
  telSeq : W32 := 0
  /-- TEL_HEALTH.SCORE (04 R102). Reset: 0. -/
  telScore : BitVec 10 := 0
  /-- TEL_HEALTH.CONFIDENCE (04 R102). Reset: 0. -/
  telConf : BitVec 10 := 0
  /-- TEL_HEALTH.VALID (04 R102). Reset: 0. -/
  telValid : Bool := false
  /-- TEL_THERMAL.TEMP_MAX (04 R102). Reset: 0xFF. -/
  telTemp : Byte := 0xFF
  /-- TEL_THERMAL.POWER_W (04 R102, 17 R478). Reset: 0. -/
  telPower : W16 := 0
  /-- TEL_STEP_Sn (04 R102). Reset: all ones. -/
  telStep : Vector W64 4 := Vector.replicate 4 0xFFFFFFFFFFFFFFFF
  /-- TEL_ABORTS.COUNT (04 R102). Reset: 0. -/
  telAborts : W32 := 0
  /-- TEL_SKIPS.COUNT (04 R102). Reset: 0. -/
  telSkips : W32 := 0
  /-- Aborted collectives and skipped steps of this boot as Varlux counts them, shown at the next update (04 R102). Reset: 0. -/
  aborts : W32 := 0
  skips : W32 := 0
  /-- DEVICE_RESET waiting for t_RESET_ISSUE (04 R121): kind, 0 cold, 1 warm. Reset: none. -/
  resetPending : Option Bool := none
  /-- The `DEVICE_RESET` whose completion must be written before the trigger (04 R121). Reset: none. -/
  resetCmd : Option Hdr := none
  /-- Commands accepted since the mailbox was reset: the next place in the acceptance order (04 R107). Reset: 0. -/
  accepted : Nat := 0
  deriving DecidableEq, Repr

/-! ### Die-to-die links and LPDDR6 memory -/

/-- Die-to-die links in DEVICE_INFO order: Lattice-PRM0..3, Lattice-Vertex, Vertex-PRM0..3 (04 Table 04-13). -/
structure D2d where
  /-- Working modules of each link (01 R16, R19). Reset: every module works; training has not run. DESIGN CHOICE (log 5). -/
  working : Vector Nat 9 := ⟨#[4, 4, 4, 4, 4, 2, 2, 2, 2], rfl⟩
  /-- Replays counted in this boot (01 R19, counter 0). Reset: 0. -/
  replays : Nat := 0
  /-- Powered times of the replays of each working module, by link and place among the link's working modules, within the 1 ms
  before its latest one (01 R19). Reset: none. -/
  recent : List (Fin 9 × Fin 4 × W64) := []
  deriving DecidableEq, Repr

/-- A record of the memory error log (11 Table 11-4). -/
structure LogRec where
  ptime     : W64
  bootCount : W32
  kind      : Byte
  prism     : Byte
  channel   : Byte
  requester : Byte
  dpa       : W64
  sector    : W32
  symbol    : Byte
  deriving DecidableEq, Repr

/-- LPDDR6 of the four Prisms. -/
structure MemSys where
  /-- Data bytes by DPA, sparse, unlisted reads 0 (11 R281, R308). Reset: nothing listed (02 R51). -/
  cells : List Host.Cell := []
  /-- Symbol errors on sectors (11 R289): the error word of each listed (sector, symbol), with its stuck part. Reset: none. -/
  errs : List SymErr := []
  /-- Prism n's LPDDR6 is trained (11 R310). Reset: 0. -/
  trained : BitVec 4 := 0
  /-- Prism n holds contents kept by self-refresh since the last warm reset's trigger. Reset: 0. -/
  inSr : BitVec 4 := 0
  /-- PRISMS_PRESERVED (11 R308). Reset: 0. -/
  preserved : BitVec 4 := 0
  /-- Channel pairs in each Prism's channel set (11 R282, R283). Reset: all. -/
  pairs : W32 := 0xFFFFFFFF
  /-- Remap stores (11 R299). Reset: empty (power-on). -/
  remap : Vector (List RemapEntry) 4 := Vector.replicate 4 []
  /-- Active host window (11 R296): first granule and size. Reset: 0, 0. -/
  hdmFirst : Nat := 0
  hdmSize : Nat := 0
  /-- HDM-DB snoop filter: window lines the host may hold, oldest first (11 R298). Reset: empty. -/
  snoop : List Nat := []
  /-- Back-invalidate snoops sent and not yet answered (11 R298): BISnpInv or not, and the line. Reset: none. -/
  bisnp : List (Bool × Nat) := []
  /-- Lines whose BISnpData the host has answered and whose read is still to be done (11 R298). Reset: none. -/
  snooped : List Nat := []
  /-- Error log, oldest first (11 R305). Reset: empty. -/
  log : List LogRec := []
  /-- Records displaced since the boot began (11 R306). Reset: 0. -/
  displaced : Nat := 0
  /-- Corrected reads since the boot began (11 R305). Reset: 0. -/
  corrected : Nat := 0
  /-- Reads first classified uncorrectable since the boot began (11 R305). Reset: 0. -/
  uncorrectable : Nat := 0
  /-- Powered second and corrected records logged in it, per Prism (11 R305). Reset: (0, 0). -/
  rate : Vector (Nat × Nat) 4 := Vector.replicate 4 (0, 0)
  /-- Patrol scrub position, Prism-local block (11 R302). Reset: 0. -/
  scrub : Vector Nat 4 := Vector.replicate 4 0
  /-- First-classified-uncorrectable reads per pair in the window, and remap-exhausted events per pair (16 R450),
  sparse by pair, each list of buckets. Reset: none. -/
  pairUnc : List (Nat × Nat) := []
  pairExh : List (Nat × Nat) := []
  deriving DecidableEq, Repr

/-! ### Objects and flash -/

/-- An eviction queue entry (12 R323). -/
structure EvEntry where
  target : Nat
  /-- The deferred OBJ_EVICT, or none for a schedule eviction. -/
  cmd : Option Hdr
  /-- Its place in the acceptance order (04 R107). -/
  place : Nat
  deriving DecidableEq, Repr

/-- A tier move in progress (12 R321). -/
structure Move where
  src     : Nat
  dst     : Nat
  destLoc : Nat
  /-- The command that the move answers; none for the prefetch schedule. -/
  cmd     : Option Hdr
  /-- Its DEFERRED completion has been written (12 R323). -/
  deferred : Bool
  /-- The promotion added a user pin (12 R323). -/
  pin : Bool
  /-- Place of the eviction in the acceptance order (04 R107). -/
  place : Nat
  deriving DecidableEq, Repr

/-- An object (12 R314). -/
structure Obj where
  id      : W64
  job     : W32
  size    : Nat
  /-- Residence: 0 LPDDR6, 1 host memory, 2 flash (12 R313). -/
  tier    : Nat
  /-- Location in LPDDR6 (DPA) or host memory (0x4000_0000_0000 + address); 0 in flash (12 R317). -/
  loc     : Nat
  /-- Flash content by byte offset, sparse: durable content of a flash object, or the backing of one in LPDDR6 (12 R321). -/
  flash   : List Host.Cell
  /-- The object has flash extents: a flash object, or a backed object in LPDDR6. -/
  backed  : Bool
  /-- Dirty 2 MiB extents of a backed object (12 R321). -/
  dirty   : List Nat
  userPins : Nat
  holds    : Nat
  queue    : List EvEntry
  move     : Option Move
  /-- Promotions that wait for the move to end: command (none for the prefetch schedule's), target, pin (12 R323). -/
  promos   : List (Option Hdr × Nat × Bool)
  damaged  : Bool
  /-- A kept flash object without an open job (12 R320). -/
  kept     : Bool
  deriving DecidableEq, Repr

/-- A flash copy of a mirror region (15 R430). -/
structure FlashCopy where
  job    : W32
  rank   : W16
  desc   : CopyDesc
  /-- Its length, and its bytes from offset 0: header, directory, buffer. -/
  size   : Nat
  bytes  : List Host.Cell
  deriving DecidableEq, Repr

/-- A flash block as the FTL counts it (12 R333): erases, pages read since its last program, whether it holds data, and
whether it has worn out (12 R334). -/
structure FlashBlock where
  erases     : Nat
  reads      : Nat
  programmed : Bool
  retired    : Bool
  deriving DecidableEq, Repr

/-- Whose extents the FTL maps: an object's, or those of a mirror copy of a job and rank (12 R332, R334). -/
inductive FtlOwner where
  | obj (id : W64)
  | copy (job : W32) (rank : W16)
  deriving DecidableEq, Repr

/-- An entry of the FTL's map: the block that holds an extent (12 R332). -/
structure FtlEnt where
  owner : FtlOwner
  ext   : Nat
  block : Nat
  deriving DecidableEq, Repr

/-- The flash tier. -/
structure Flash where
  /-- The tier is mounted in this boot (12 R335). Reset: false. -/
  present : Bool := false
  /-- The tier is read-only (12 R334). Reset: false. -/
  readOnly : Bool := false
  /-- Blocks the FTL has used, sparse (12 R333). Reset: none. DESIGN CHOICE (log 6). -/
  blocks : List (Nat × FlashBlock) := []
  /-- The FTL's map of extents to blocks, as its journal records committed it (12 R332). Reset: empty. DESIGN CHOICE (log 6). -/
  map : List FtlEnt := []
  /-- The directory of flash objects in flash: OBJ_ID, JOB_ID, SIZE (12 R332). Reset: empty. DESIGN CHOICE (log 6). -/
  dir : List (W64 × W32 × Nat) := []
  /-- Journal records that the FTL has written (12 R332). Reset: 0. DESIGN CHOICE (log 6). -/
  records : Nat := 0
  /-- Flash bytes written over the module's life (12 R334, counter 11). Reset: 0. DESIGN CHOICE (log 6). -/
  bytesWritten : Nat := 0
  /-- Flash copies this module hosts (15 R430). Reset: none. -/
  copies : List FlashCopy := []
  /-- Persistence in progress: job, source rank, buffer, descriptor (15 R430). Reset: none. -/
  persisting : List (W32 × W16 × Nat × CopyDesc) := []
  deriving DecidableEq, Repr

/-! ### Facets -/

/-- The facet state machine (05 Table 05-13). -/
inductive FacetState where
  | idle
  | running
  | halted
  | faulted
  deriving DecidableEq, Repr

/-- An active loop (05 R146). -/
structure LoopEnt where
  start : BitVec 13
  last  : BitVec 13
  left  : W64
  deriving DecidableEq, Repr

/-- An accumulator tile (05 R127, 06 R191, 08 R228): element 128 * i + j, sparse, unlisted +0. -/
structure AccTile where
  data     : List (Nat × W32) := []
  tensorId : BitVec 24 := 0
  runs     : W32 := 0
  issued   : Nat := 0
  retired  : Nat := 0
  /-- The contents are unspecified since an uncorrectable error (06 R197). -/
  unspec   : Bool := false
  deriving DecidableEq, Repr

/-- A VE tile buffer with its extent (09 R240). -/
structure VeBuf where
  data : List (Nat × W32) := []
  rows : Nat := 128
  cols : Nat := 128
  deriving DecidableEq, Repr

/-- A weight tile in the array (05 R150): codes and scale bytes as loaded. -/
structure WTile where
  fmt    : BitVec 4
  rows   : Nat
  cols   : Nat
  /-- Element (k, j) at 128 * k + j, sparse. -/
  codes  : List (Nat × W32)
  /-- Scale of column j, group g at 4 * j + g, sparse. -/
  scales : List (Nat × Byte)
  deriving DecidableEq, Repr

/-- Format and extents of a weight tile, as the sequencer judges them in program order (05 R151). -/
structure WInfo where
  fmt  : BitVec 4
  rows : Nat
  cols : Nat
  deriving DecidableEq, Repr

/-- A scale-table entry (08 Table 08-1). -/
structure ScaleEntry where
  scale    : Byte := 0x7F
  headroom : BitVec 3 := 1
  fixed    : Bool := false
  corr     : BitVec 5 := 0
  hptr     : BitVec 4 := 0
  satStep  : Bool := false
  nfStep   : Bool := false
  ovf      : W16 := 0
  hist     : Vector Byte 16 := Vector.replicate 16 0
  deriving DecidableEq, Repr

/-- A tensor-statistics record (08 Table 08-6). -/
structure StatRec where
  tensorId  : BitVec 24 := 0
  mixed     : Bool := false
  valid     : Bool := false
  fmt       : BitVec 4 := 0
  scaleMin  : Byte := 0
  scaleMax  : Byte := 0
  tiles     : W32 := 0
  amax      : W32 := 0
  elements  : W64 := 0
  zeros     : W32 := 0
  flushed   : W32 := 0
  saturated : W32 := 0
  nan       : W32 := 0
  inf       : W32 := 0
  hist      : Vector W32 48 := Vector.replicate 48 0
  deriving DecidableEq, Repr

/-- A VE.OP operand: a tile buffer, or a scalar's low word in every lane (09 R243). -/
inductive VeSrc where
  | buf (v : Fin 4)
  | scal (x : W32)
  deriving DecidableEq, Repr

/-- The instruction in a unit queue, with the operands captured at issue (05 R135, R138). -/
inductive QOp where
  | ldw (td : BitVec 128)
  | run (a : Fin 8) (td : BitVec 128) (add sr swap p2 : Bool) (runs : W32)
  | accZero (a : Fin 8)
  | accCfg (a : Fin 8) (id : BitVec 24)
  | accDrain (td : BitVec 128) (a : Fin 8) (clear : Bool)
  | accLoad (a : Fin 8) (td : BitVec 128)
  | veLd (v : Fin 4) (td : BitVec 128)
  | veSt (td : BitVec 128) (v : Fin 4)
  | veOp (fn : Byte) (d a : Fin 4) (b c : VeSrc) (k : W32)
  | dmaRows (write : Bool) (td : BitVec 128) (dpa stride : W64) (scales : Option W64)
  | dmaLin (write : Bool) (addr dpa len : W64)
  | dmaXfr (local_ : W64) (dst : Fin 96) (remote : W64) (len : Nat)
  | dmaChd (td : BitVec 128) (coll : W32) (offset : W64) (step : W64)
  | dmaDsp (td : BitVec 128) (ids : W64) (disp : W64) (step : W64)
  | tokSend (dst : W64) (payload : W64) (ch : Fin 16)
  deriving DecidableEq, Repr

/-- A queued instruction: its program-order number, pc, recorded issued count of an ACC instruction (06 R191), and the
DMA operations a token waits for, with its release mask (05 R165). -/
structure QEnt where
  op    : QOp
  seq   : Nat
  pc    : BitVec 13
  tag   : Fin 8 := 0
  mark  : Nat := 0
  after : List Nat := []
  mask  : Byte := 0
  deriving DecidableEq, Repr

/-- A run that has started and still has rows to retire (06 R186, R191): the weights of its rows and the next row. -/
structure RunSt where
  a    : Fin 8
  td   : BitVec 128
  add  : Bool
  sr   : Bool
  p2   : Bool
  runs : W32
  w    : WTile
  row  : Nat
  pc   : BitVec 13
  seq  : Nat := 0
  deriving DecidableEq, Repr

/-- A DMA tag (05 R157). -/
structure DmaTag where
  outstanding : Nat := 0
  sticky      : W16 := 0
  deriving DecidableEq, Repr

/-- Who wrote the scratchpad: a unit, a DMA operation under a tag, the sequencer, or a `DMA.XFR` of another facet with its
tag and program-order number there (05 R170). -/
inductive SpmWriter where
  | acc
  | ve
  | dma (tag : Fin 8)
  | seq
  | remote (src : Fin 96) (tag : Fin 8) (op : Nat)
  deriving DecidableEq, Repr

/-- A write to the scratchpad that unsynchronised reads may see or miss, chunk by chunk (05 R170). -/
structure SpmRace where
  /-- The writer. -/
  by_ : SpmWriter
  /-- Instructions from this program-order number on see the write: a `WAIT` or a token separates them from it. -/
  upto : Option Nat
  /-- For a remote write: the channel of the token released after it, and the tokens to take up to that one (R165). -/
  token : Option (Fin 16 × Nat)
  /-- The spans written: address and length. -/
  spans : List (Nat × Nat)
  /-- The scratchpad before the write. -/
  old : List Host.Cell
  deriving DecidableEq, Repr

/-- One facet (05 Table 05-1, Table 05-4). -/
structure Facet where
  /-- State (05 R174). Reset: IDLE. -/
  st : FacetState := .idle
  /-- Program counter, up to 4,096 (05 R130). Reset: 0. -/
  pc : BitVec 13 := 0
  /-- IMEM by instruction index, sparse, unlisted 0 (05 R127). Reset: empty. -/
  imem : List (Nat × BitVec 128) := []
  /-- Scalar registers s0-s31 (05 R127). Reset: 0 (03 R95). -/
  s : Vector W64 32 := Vector.replicate 32 0
  /-- Tile descriptors t0-t15 (05 R131). Reset: 0. -/
  t : Vector (BitVec 128) 16 := Vector.replicate 16 0
  /-- Scratchpad bytes, sparse, unlisted 0 (05 R127, 10 R263). Reset: empty. -/
  spm : List Host.Cell := []
  /-- Accumulator tiles a0-a7 (05 R127). Reset: +0. -/
  acc : Vector AccTile 8 := Vector.replicate 8 {}
  /-- VE tile buffers v0-v3 (05 R127, 09 R240). Reset: +0, extent 128 x 128. -/
  ve : Vector VeBuf 4 := Vector.replicate 4 {}
  /-- Active weight registers (05 R150). Reset: none. -/
  active : Option WTile := none
  /-- Shadow weight registers; none: free (05 R150). Reset: free. -/
  shadow : Option WTile := none
  /-- The unconsumed MMA.LDW's tile (06 R184). Reset: none. -/
  unconsumed : Option WInfo := none
  /-- The tile active in program order (05 R151). Reset: none. -/
  issued : Option WInfo := none
  /-- Scale table, sparse by entry number, unlisted at reset value (08 R219). Reset: empty. -/
  scale : List (Nat × ScaleEntry) := []
  /-- Statistics slots 0-15 (08 R231). Reset: zero. -/
  stats : Vector StatRec 16 := Vector.replicate 16 {}
  /-- DMA tags 0-7 (05 R157). Reset: nothing outstanding, OK. -/
  tags : Vector DmaTag 8 := Vector.replicate 8 {}
  /-- Token receive channels 0-15, oldest first (05 R127). Reset: empty. -/
  chans : Vector (List W64) 16 := Vector.replicate 16 []
  /-- Loop stack, innermost first (05 R146). Reset: empty. -/
  loops : List LoopEnt := []
  /-- Unit queues (05 R137). Reset: empty. -/
  mmaQ : List QEnt := []
  accQ : List QEnt := []
  veQ : List QEnt := []
  dmaQ : List QEnt := []
  tokQ : List QEnt := []
  /-- The `MMA.LDW` that its pipe holds and has not started (06 R185). Reset: none. -/
  ldPipe : Option QEnt := none
  /-- The `MMA.RUN` that its pipe holds and has not started (06 R185). Reset: none. -/
  runPipe : Option QEnt := none
  /-- Started runs, oldest first (06 R191). Reset: none. -/
  running : List RunSt := []
  /-- DMA operations in flight, at most four (05 R139). Reset: none. -/
  flight : List QEnt := []
  /-- Program-order number of the next instruction. Reset: 0. The model's own. -/
  seqNo : Nat := 0
  /-- Scratchpad writes that a read may miss (05 R170). Reset: none. The model's own. -/
  races : List SpmRace := []
  /-- FCSR_CYCLE as last read: cycles since ARC_START (05 R136, R171). Reset: 0. -/
  cycle : W64 := 0
  /-- Varlux has recorded this facet's fault (05 R175). Reset: false. -/
  reported : Bool := false
  /-- FCSR_SECTOR: the sector, when VALID (05 R136). Reset: none. -/
  sector : Option (Fin 4) := none
  /-- FCSR_STEP (05 R136). Reset: 0. -/
  step : W64 := 0
  /-- FCSR_SEED (05 R136). Reset: 0. -/
  seed : W64 := 0
  /-- FCSR_ERR (05 R136). Reset: 0. -/
  err : W64 := 0
  /-- FCSR_HALT.CODE (05 R136). Reset: 0. -/
  halt : W16 := 0
  /-- FCSR_ECC.SPM (05 R136). Reset: 0. -/
  eccSpm : W32 := 0
  /-- FCSR_ECC.ARRAY (05 R136). Reset: 0. -/
  eccArr : W32 := 0
  /-- FCSR_TOK_DROP.COUNT (05 R136). Reset: 0. -/
  tokDrop : W32 := 0
  /-- The facet takes part in its Arc: it has an IMEM section (10 R263). Reset: false. -/
  part : Bool := false
  deriving DecidableEq, Repr

/-- A token in the mesh network (05 R165). -/
structure MeshTok where
  src     : Fin 96
  dst     : Fin 96
  ch      : Fin 16
  payload : W64
  /-- Its release mask and program-order number: the DMA operations it was released after (05 R165). -/
  mask    : Byte := 0
  seq     : Nat := 0
  deriving DecidableEq, Repr

/-! ### Sectors, jobs and steps -/

/-- The sector state machine (10 Table 10-2). -/
inductive SectorState where
  | none
  | empty
  | loaded
  | running
  | faulted
  | parked
  deriving DecidableEq, Repr

/-- The header of the Arc loaded in a sector, as later rules read it (10 R262, R264). -/
structure ArcInfo where
  logicalCols : Nat
  ingress     : Nat
  minCadence  : Nat
  sourceJob   : W32
  statusDpa   : W64
  deriving DecidableEq, Repr

/-- One sector (10 R255). -/
structure Sector where
  /-- State (10 R260). Reset: NONE. -/
  st : SectorState := .none
  /-- Columns held (10 R255). Reset: none. -/
  columns : BitVec 12 := 0
  /-- FABRIC_WEIGHT (10 R256). Reset: 0. -/
  weight : W16 := 0
  /-- The evaluation sector (10 R267). Reset: false. -/
  eval : Bool := false
  /-- Loaded Arc (10 R262). Reset: none. -/
  arc : Option ArcInfo := none
  /-- CADENCE_US of the running Arc (10 R269). Reset: 0. -/
  cadence : W32 := 0
  /-- T0 (10 R269). Reset: 0. -/
  t0 : W64 := 0
  /-- Number of the next tick (10 R269). Reset: 0. -/
  tick : W64 := 0
  /-- TICKS_SENT and TICKS_MISSED (10 R270). Reset: 0. -/
  sent : W64 := 0
  missed : W64 := 0
  deriving DecidableEq, Repr

/-- Who holds a 1 GiB granule (10 R255); a granule not listed is free. -/
inductive Owner where
  | sector (s : Fin 4)
  | device
  /-- Held for a preserved job (15 R439). -/
  | preserved (job : W32)
  /-- A mirror region of a job and source rank (15 R418). -/
  | region (job : W32) (rank : W16)
  deriving DecidableEq, Repr

/-- A member entry of the layout (14 Table 14-5). -/
structure Member where
  node    : W16
  localIx : Nat
  mask    : Byte
  group   : W16
  addr    : List Ip6
  deriving DecidableEq, Repr

/-- A shard entry of the layout (14 Table 14-6). -/
structure ShardEnt where
  id         : W32
  tensor     : BitVec 24
  prism      : Nat
  layer      : W32
  owner      : W16
  group      : Nat
  fmt        : BitVec 4
  saxis      : Bool
  first      : Nat
  count      : Nat
  rowLen     : Nat
  rangeElems : Nat
  normIndex  : Nat
  cFirst     : Nat
  cCount     : Nat
  cStride    : Nat
  shardObj   : W64
  momentObj  : W64
  workObj    : W64
  deriving DecidableEq, Repr

/-- A gather entry (14 Table 14-7). -/
structure GatherEnt where
  tensor   : BitVec 24
  position : Nat
  obj      : W64
  deriving DecidableEq, Repr

/-- A dispatch entry (14 Table 14-8). -/
structure DispEnt where
  id        : Nat
  combine   : Bool
  experts   : Nat
  perRank   : Nat
  rankBase  : Nat
  stride    : Nat
  capacity  : Nat
  rowSlot   : Nat
  pair      : Nat
  recvObj   : W64
  routeObj  : W64
  deriving DecidableEq, Repr

/-- A layout (14 Table 14-4), with its CRC (14 R390). -/
structure Layout where
  rank      : W16
  adopt     : W16
  members   : List Member
  shards    : List ShardEnt
  colls     : List (W32 × BitVec 24)
  gathers   : List GatherEnt
  disps     : List DispEnt
  paramDpa  : Nat
  normDpa   : Nat
  gatherDpa : Nat
  crc       : W32
  /-- The buffer as installed. -/
  raw       : List Byte
  deriving DecidableEq, Repr

/-- The job commit sector (13 Table 13-4). -/
structure CommitSector where
  epoch     : W16 := 0
  valid     : Bool := false
  gen       : W64 := 0xFFFFFFFFFFFFFFFF
  step      : W64 := 0
  bootCount : W32 := 0
  deriving DecidableEq, Repr

/-- The step state machine of a member (13 Table 13-10). -/
inductive StepState where
  | idle
  | armed
  | voted
  | decided
  | resolving
  deriving DecidableEq, Repr

/-- The per-shard state within an armed step (13 Table 13-8). -/
inductive ShardState where
  | committed
  | accumulating
  | staged
  | failed (cause : Nat)
  deriving DecidableEq, Repr

/-- A contribution of one rank to one fold range as received, coded elements by index (13 R344). -/
structure Contrib where
  rank  : Nat
  /-- FP32 of each received element, by element index, rising. -/
  elems : List (Nat × W32)
  /-- Elements received, and those that came more than once (14 R392). -/
  count : Nat
  twice : List Nat
  /-- As many elements as the range has have been received. -/
  done  : Bool
  deriving DecidableEq, Repr

/-- A fold range in the fold buffer (13 R343). -/
structure FoldRange where
  shard    : W32
  index    : Nat
  contribs : List Contrib
  /-- Ranks to which a CREDIT has been given (14 R395). -/
  credited : List Nat
  updated  : Bool
  deriving DecidableEq, Repr

/-- A shard's staging within an armed step (13 R353, R360). -/
structure ShardRun where
  id        : W32
  st        : ShardState
  /-- The target slot's record has been written invalid (13 R353). -/
  begun     : Bool
  /-- Digest of the staged slot so far, and of the committed slot as read (13 R356, R357). -/
  newDigest : W64
  oldDigest : W64
  nonfinite : Bool
  /-- Norm accumulators for kinds 0, 1, 2: examined, non-finite, SUMSQ (08 R236). -/
  norms     : Vector (Nat × Nat × Nat) 3
  deriving DecidableEq, Repr

/-- A coded group: its first element index, its scale, and its 32 elements (14 R393). -/
structure CodedGroup where
  first : Nat
  scale : Byte
  codes : List Byte
  deriving DecidableEq, Repr

/-- A coded contribution of this module staged in Vertex SRAM and not yet sent (14 R396). -/
structure OutContrib where
  shard    : W32
  range    : Nat
  /-- Groups staged and not handed to the transport, by element index, rising. -/
  groups   : List CodedGroup
  /-- Elements handed in the step (14 R392). -/
  count    : Nat
  credit   : Bool
  /-- The whole contribution has been handed to the transport. -/
  sent     : Bool
  deriving DecidableEq, Repr

/-- A dispatch or combine in the step (14 R406 to R409). -/
structure DispRun where
  id       : Nat
  /-- Rows taken, rows that overflowed, and rows taken for each expert, at the source. -/
  taken    : Nat := 0
  overflow : Nat := 0
  perExp   : List (Nat × Nat) := []
  /-- `END` has been taken. -/
  ended    : Bool := false
  /-- Rows received from each source, sparse by rank. -/
  rowsIn   : List (Nat × Nat) := []
  /-- DISPATCH_END packets whose rows have not all arrived: source, counts, and the packet's SEQ when it came by the fabric. -/
  ends     : List (Nat × List Nat × Option W32) := []
  /-- `SOURCES_DONE`. -/
  sources  : Nat := 0
  deriving DecidableEq, Repr

/-- An armed step (13 R359). -/
structure StepRun where
  st        : StepState
  step      : W64
  micro     : W16
  gen       : W64
  cmd       : Option Hdr
  params    : List W32
  shards    : List ShardRun
  ranges    : List FoldRange
  outs      : List OutContrib
  votes     : List VoteRec
  confirms  : List VoteRec
  ownVote   : Option VoteRec
  /-- First local failure's FORCE_CAUSE (13 R361); 0 none. -/
  force     : Nat
  /-- Gather entries started and not yet resident or failed (14 R398). -/
  gathers   : List Nat
  /-- Gather entries begun in the step (14 R397). -/
  begun     : List Nat
  /-- Shards asked of another member in this step, and bytes of each that have arrived, sparse by shard (14 R397). -/
  asked     : List W32
  got       : List (Nat × Nat)
  disps     : List DispRun
  deriving DecidableEq, Repr

/-- The job record's scale-state record (08 R225): tag and entries by (facet, entry). -/
structure ScaleRec where
  tag     : W64
  entries : List (Nat × ScaleEntry)
  deriving DecidableEq, Repr

/-- A sequenced packet that awaits acknowledgement (14 R383). -/
structure SentPkt where
  seq     : W32
  kind    : BitVec 4
  hdr     : ChordHdr
  payload : List Byte
  /-- It has been transmitted; otherwise it waits for the window (14 R385). -/
  sent    : Bool
  /-- The fabric port it was transmitted on last (14 R383). -/
  port    : Option (Fin 8)
  deriving DecidableEq, Repr

/-- A stream with one peer (14 R383, R385). -/
structure Stream where
  peer    : W16
  /-- The stream of the management network, apart from the fabric's (16 R465). -/
  onMgmt  : Bool
  next    : W32 := 1
  sent    : List SentPkt := []
  /-- Every seq up to this one has been received; further ones in the list. -/
  recvLow : W32 := 0
  recv    : List W32 := []
  window  : Nat := 0x100000
  /-- The peer's ports (14 R384); none: never heard. -/
  ports   : Option Byte := none
  /-- Packets sent on common ports so far: the next takes the port whose turn it is (14 R384). -/
  turn    : Nat := 0
  /-- Powered time of the last ABORT that answered a packet of the peer (14 R402, R414). -/
  answered : Option W64 := none
  deriving DecidableEq, Repr

/-- A partner of a mirror binding (15 R416). -/
structure Partner where
  addr : Ip6
  rank : W16
  /-- The buffer of the newest generation that it has acknowledged to this binding (15 R427). -/
  last : Option (Fin 2) := none
  deriving DecidableEq, Repr

/-- A mirror binding (15 R416). -/
structure Binding where
  degree   : Nat
  everyN   : Nat
  partners : List Partner
  regionGib : Nat
  deriving DecidableEq, Repr

/-- A snapshot in progress (15 R423). -/
structure Snapshot where
  gen     : W64
  /-- Buffer written at each partner that has not acknowledged, with END already sent or not. -/
  waiting : List (W16 × Fin 2 × Bool)
  desc    : CopyDesc
  deriving DecidableEq, Repr

/-- A command of the job that waits for packets, a step or a snapshot (04 R109, R123, 15 R429). -/
inductive Pend where
  /-- `PARK` waits for the step and the snapshot (10 R274). -/
  | park (h : Hdr) (deferred : Bool)
  /-- A forced `LAYOUT_INSTALL` waits for its drain (14 R410). -/
  | install (h : Hdr) (epoch : W16) (buf : List Byte)
  /-- `LAYOUT_INSTALL` fetches incoming shards: old shards still to ask for by owner, those asked with the bytes still to
  come, and the slot images that arrived (14 R411). -/
  | fill (h : Hdr) (lay : Layout) (epoch : W16) (todo : List (W16 × W32)) (cur : List (W16 × W32 × Nat))
      (got : List (W32 × List Host.Cell))
  /-- `MIRROR_BIND` waits for BIND_ACK: partners with their address, rank and GiB held once acknowledged (15 R416). -/
  | bind (h : Hdr) (everyN : Nat) (partners : List (Ip6 × W16 × Option Nat)) (gib : Nat)
  /-- `MIRROR_BIND` waits for its initial snapshot (15 R416). -/
  | bindSnap (h : Hdr) (gib : Nat)
  /-- `RESTORE` and `MIRROR_UNBIND` wait for the snapshot (15 R429). -/
  | restoreWait (h : Hdr) (addr : Ip6) (gen : W64)
  | unbindWait (h : Hdr)
  /-- `RESTORE` asks its partners what they hold: those still to answer, and the offers (15 R432). -/
  | restoreAsk (h : Hdr) (partners : List W16) (waiting : List (W16 × Bool)) (offers : List (W16 × Bool × W64))
  /-- `RESTORE` fetches generation `gen` from a partner's LPDDR6 or flash: sources left, descriptor, buffer bytes and
  their count, bytes moved before, and the generation the job held committed before the command (15 R433). -/
  | restoreFetch (h : Hdr) (explicit : Bool) (gen : W64) (peer : W16) (flash : Bool) (left : List (W16 × Bool × W64))
      (desc : Option CopyDesc) (got : List Host.Cell) (have_ moved : Nat) (before : W64)
  deriving DecidableEq, Repr

/-- `MIRROR_QUERY` in progress (15 R435): partners still to answer on the fabric and on the management network, the newest
generation offered, and its source. -/
structure QueryRun where
  h       : Hdr
  waiting : List (W16 × Bool)
  best    : W64
  src     : Nat
  deriving DecidableEq, Repr

/-- The command whose completion waits for working copies (13 R358, R364, R371). -/
structure DeriveCmd where
  h      : Hdr
  /-- The shard of a `SHARD_COMMIT`; none for the settle of a step. -/
  shard  : Option W32
  result : List Byte
  deriving DecidableEq, Repr

/-- An installed prefetch schedule entry with its status (12 Table 12-3, Table 12-4). -/
structure SchedEnt where
  obj       : W64
  position  : Nat
  release   : Nat
  evict     : Bool
  evictTier : Nat
  held      : Bool
  step      : W64
  state     : Nat
  code      : W16
  late      : W32
  deriving DecidableEq, Repr

/-- An installed prefetch schedule (12 R327). -/
structure Sched where
  lookahead : Nat
  positions : Nat
  progress  : Nat
  status    : Nat
  entries   : List SchedEnt
  /-- Whole writes of the progress sector that the stream has not evaluated, oldest first (12 R329). -/
  writes    : List (W64 × Nat)
  deriving DecidableEq, Repr

/-- A packet of a step that is not armed here yet, accepted and kept until it is (14 R383). -/
inductive HeldPkt where
  | data (p : ChordHdr) (payload : List Byte)
  | gather (p : ChordHdr) (payload : List Byte)
  | row (p : ChordHdr) (payload : List Byte)
  | rowsEnd (p : ChordHdr) (counts : List Nat)
  deriving DecidableEq, Repr

/-- The life of a job on the module (10 R275, 15 R439). -/
inductive JobPhase where
  | opened
  | parked
  | preserved
  deriving DecidableEq, Repr

/-- The Arc copy of a job (10 R266): its granules, its length in bytes, and the logical columns of its image. The bytes
themselves are in LPDDR6. -/
structure ArcCopy where
  granules : List Nat
  len      : Nat
  cols     : Nat
  deriving DecidableEq, Repr

/-- A job on the module. -/
structure Job where
  id        : W32
  phase     : JobPhase := .opened
  sector    : Fin 4
  seed      : W64
  rule      : Nat
  /-- Parking: PARK was fetched and is not complete (10 R274). -/
  parking   : Bool := false
  /-- DPA of the job record (15 R437). -/
  recDpa    : Nat
  commit    : CommitSector := {}
  /-- Armed sector of the job record: step, generation, epoch (15 Table 15-6). -/
  armedRec  : W64 × W64 × W16 := (0, 0, 0)
  epoch     : W16 := 0
  layout    : Option Layout := none
  prev      : Option Layout := none
  /-- Highest step armed since JOB_OPEN (13 R359). -/
  lastArmed : W64 := 0
  lastStep  : W64 := 0
  lastOut   : Nat := 0
  /-- Whether a local step failure caused each of the last eight settled or aborted steps (16 R456). -/
  recent    : List Bool := []
  run       : Option StepRun := none
  /-- Vote and confirm records and abort tokens (step, `ORIGIN_RANK`) kept for later steps (13 R362, 14 R402). -/
  early     : List VoteRec := []
  earlyC    : List VoteRec := []
  earlyAb   : List (W64 × W16) := []
  /-- Shards whose working copy is still to be derived, with the command that waits (13 R358, R364). -/
  derive    : List W32 := []
  deriveCmd : Option DeriveCmd := none
  /-- Shards not committed though the commit sector is valid (15 R434, R440). -/
  uncommitted : List W32 := []
  ruleOps   : Option (List W64) := none
  scaleRec  : Option ScaleRec := none
  armedScale : Option (List (Nat × ScaleEntry)) := none
  /-- Columns of the sector when the armed copy was taken (08 R225). -/
  armedCols : BitVec 12 := 0
  arcCopy   : Option ArcCopy := none
  hostPool  : Nat × Nat := (0, 0)
  sched     : Option Sched := none
  streams   : List Stream := []
  /-- Streams of the epoch one above the installed one, which reshard packets use before it is installed (14 R411, R412). -/
  nextStreams : List Stream := []
  /-- Credits for steps not yet armed: step, collective, first element index, count (14 R395). -/
  earlyCr   : List (W64 × W32 × Nat × Nat) := []
  /-- Packets of steps not yet armed (14 R383). -/
  held      : List HeldPkt := []
  /-- Powered time of the last ABORT that answered a peer of an earlier epoch: epoch and rank there (14 R414). -/
  staleAns  : List (W16 × W16 × W64) := []
  binding   : Option Binding := none
  snap      : Option Snapshot := none
  /-- Snapshot generations that wait to begin, oldest first (15 R423). -/
  snapNext  : List W64 := []
  pend      : Option Pend := none
  query     : Option QueryRun := none
  /-- GATHER_REQs that wait for their step to arm: peer, step, shard (14 R398). -/
  gatherReqs : List (W16 × W64 × W32) := []
  lastAbort : Option (W64 × AbortTok) := none
  deriving DecidableEq, Repr

/-! ### Fabric, mirror regions, management network -/

/-- A fabric port (14 R375). -/
structure FabPort where
  /-- PORT_STATUS state 0 to 4 (14 R380). Reset: 1 down. -/
  st : Nat := 1
  /-- IPv6 address (14 R379). Reset: none (zero). -/
  addr : Ip6 := 0
  /-- Mode of the running port (14 R376). Reset: none. -/
  mode : Option PortMode := none
  /-- Link-layer address of the plane's default router (14 R378). Reset: none. -/
  router : Option (BitVec 48) := none
  /-- Stale-epoch packets dropped (14 R380). Reset: 0. -/
  stale : W32 := 0
  /-- Frames received (14 R380). Reset: 0. -/
  frames : W64 := 0
  /-- Withdrawn from Chord use by a rehearsal (16 R467). Reset: false. -/
  withdrawn : Bool := false
  deriving DecidableEq, Repr

/-- The fabric side of the module. -/
structure Fabric where
  /-- Ports 0 to 7. Reset: down without an address. -/
  ports : Vector FabPort 8 := Vector.replicate 8 {}
  /-- T_DETECT_US (14 R379). Reset: 200. -/
  tDetect : Nat := 200
  /-- Streams of exchanges with a copy host whose job is not open, at either end: the other address, this module's address,
  the job (15 R426). Reset: none. -/
  hostStreams : List (Ip6 × Ip6 × W32 × Stream) := []
  deriving DecidableEq, Repr

/-- A hosted mirror region (15 R421): its bytes lie in the granules it owns, ascending; its descriptors and its directory are
read there. -/
structure Region where
  job      : W32
  rank     : W16
  epoch    : W16
  gib      : Nat
  entries  : Nat
  /-- D and B (15 R418). -/
  dirBytes : Nat
  bufBytes : Nat
  /-- The target buffer of the snapshot that the source has begun and not ended (15 R427, R428). -/
  target   : Option (Fin 2) := none
  deriving DecidableEq, Repr

/-- A management port (16 R461). -/
structure MgmtPort where
  /-- Trained and its link present. Reset: false. -/
  up : Bool := false
  /-- Counts as down under class 0x05 (16 R466). Reset: false. -/
  down : Bool := false
  /-- Global prefixes learnt from Router Advertisements (16 R461). Reset: none. -/
  prefixes : List W64 := []
  /-- Silent for a MGMT_FAILOVER injection (16 R467). Reset: false. -/
  silent : Bool := false
  deriving DecidableEq, Repr

/-- An exchange in progress (16 R463): requester, segments received, completions not yet acknowledged. -/
structure Exchange where
  xid    : W32
  src    : Ip6
  opcode : W16
  h      : Hdr
  next   : Nat
  data   : List Byte
  joined : Bool
  /-- CPL segments sent and unacknowledged: offset, retransmissions, bytes; and `TOTAL` of the latest CPL. -/
  unacked : List (Nat × Nat × List Byte)
  total  : Nat
  deriving DecidableEq, Repr

/-- The management network. -/
structure Mgmt where
  ports : Vector MgmtPort 2 := Vector.replicate 2 {}
  /-- Exchanges, at most eight (16 R463). Reset: none. -/
  exchanges : List Exchange := []
  /-- Announced members (16 R464). Reset: none. -/
  known : List Announcement := []
  deriving DecidableEq, Repr

/-! ### Health -/

/-- An event of the health record (16 Table 16-10). -/
structure HealthEvent where
  ptime : W64
  kind  : Byte
  unit  : Byte
  index : W16
  info  : W32
  deriving DecidableEq, Repr

/-- A rehearsal log entry (16 Table 16-10). -/
structure RehRec where
  start   : W64
  bit     : Nat
  outcome : Nat
  target  : W16
  durMs   : W32
  deriving DecidableEq, Repr

/-- Health state of the running boot, beside the journalled records. -/
structure Health where
  /-- Published score and confidence (16 R445). Reset: none published. -/
  score : Nat := 0
  conf : Nat := 0
  published : Bool := false
  /-- Fenced units in force: columns, pairs, Prisms, fabric ports, management ports (16 R449). Reset: none. -/
  columns : BitVec 12 := 0
  pairs : W32 := 0
  prisms : BitVec 4 := 0
  fabric : Byte := 0
  mgmt : BitVec 2 := 0
  /-- Expelled (16 R458). Reset: false. -/
  expelled : Bool := false
  /-- An expulsion is granted and waits for the settle of armed steps (16 R458). Reset: false. -/
  granted : Bool := false
  /-- Proposal standing, and refused (16 R457). Reset: false. -/
  standing : Bool := false
  refusedStanding : Bool := false
  /-- Events, oldest first, at most 64 (16 R472). Reset: none. -/
  events : List HealthEvent := []
  /-- Rehearsal log, oldest first, at most 32 (16 R472). Reset: none. -/
  rehLog : List RehRec := []
  /-- Counters of Table 16-11, sparse (16 R472). Reset: 0. -/
  counters : List (Nat × Nat) := []
  /-- Events of each rate class since the boot began, sparse by class - 0x10 (16 R472). Reset: 0. -/
  bootEvents : List (Nat × Nat) := []
  /-- Facet errors of class 0x14 per column in the window: (column, bucket) pairs (16 R450). Reset: none. -/
  colEvents : List (Nat × Nat) := []
  /-- Injection in progress: bit, target, start (16 R467). Reset: none. -/
  injection : Option (Nat × W16 × W64) := none
  deriving DecidableEq, Repr

/-! ### What the module sends -/

/-- An emission: what a party outside can see leave the module. -/
inductive Emit where
  /-- An SMBus target's answer; none is no acknowledgement. -/
  | smb (v : Option W16)
  /-- The SMBus target acknowledges a Write Byte, or does not (01 R28). -/
  | smbAck (ack : Bool)
  | read (v : W64)
  | completion (ring : Fin 8) (addr : W64) (bytes : List Byte)
  | hostWrite (addr : W64) (bytes : List Byte)
  | msix (vector : BitVec 4)
  /-- A CPL segment on a management port: its offset and total, `RETX`, and its payload (16 R462). -/
  | cpl (port : Fin 2) (xid : W32) (offset total : Nat) (retx : Bool) (payload : List Byte)
  | mgmtAck (port : Fin 2) (xid offset : W32)
  /-- A configuration request's completion: retry status, or success with the register's value where the model holds it. -/
  | config (retry : Bool) (v : Option W32)
  | cxlData (bytes : List Byte) (poison : Bool)
  | cxlDone
  | bisnp (inv : Bool) (line : Nat)
  /-- A Chord packet; on a fabric port, the link-layer address of the default router it goes to, where one is known (14 R378). -/
  | chord (via : Via) (mac : Option (BitVec 48)) (dst : Ip6) (kind : BitVec 4) (hdr : ChordHdr) (payload : List Byte)
  | icmp (via : Via) (dst : Ip6) (kind : Byte) (body : List Byte)
  | announce (port : Fin 2) (a : Announcement)
  | uart (bootCount : W32) (ptime : W64) (entry : Nat) (status : StageStatus)
  | uartReset (bootCount : W32) (ptime : W64) (source : Byte)
  | spdm (bytes : List Byte)
  | tap (v : W32)
  deriving DecidableEq, Repr

/-- Why the machine stops with a fault. -/
inductive Fault where
  /-- Raised by JTAG_TAP_ACCESS for an Apex debug operation once full access is open: the spec opens the access and does
  not say what an operation does inside Apex (03 R92, R93). safe. -/
  | apexDebug
  deriving DecidableEq, Repr

/-- Why a command has no meaning in the model. -/
inductive Refusal where
  /-- Raised by Dispatch for a row without a meaning. safe. -/
  | notModelled (mnemonic : String)
  deriving DecidableEq, Repr

/-- The state of the module. -/
structure State where
  /-- Commands that wait, first in first out (the block's queue). Reset: empty. -/
  pending : List Instr := []
  /-- What the module has sent, oldest first. The model's own. Reset: empty. -/
  out : List Emit := []
  /-- Index of the next free value (Config.freeNat). The model's own. Reset: 0. DESIGN CHOICE (log 3). -/
  freeIx : Nat := 0
  /-- Phase between resets (01 R32). Reset: in reset. -/
  phase : Phase := .inReset
  /-- A warm reset's self-refresh entry is still running, Prism n in bit n (02 R53). Reset: 0. -/
  srEntry : BitVec 4 := 0
  pins : Pins := {}
  aon : Aon := {}
  smb : Smb := {}
  jrn : Journal := {}
  sec : Sec := {}
  mbx : Mbx := {}
  d2d : D2d := {}
  mem : MemSys := {}
  /-- Host memory bytes of host-tier objects by location, sparse (12 R317). Reset: nothing listed. -/
  hostMem : List Host.Cell := []
  /-- Objects on the module (12 R314). Reset: none. -/
  objs : List Obj := []
  flash : Flash := {}
  /-- The 96 facets (05 R126). Reset: Table 05-4. -/
  facets : Vector Facet 96 := Vector.replicate 96 {}
  /-- Tokens in the mesh network, oldest first (05 R167). Reset: none. -/
  mesh : List MeshTok := []
  /-- The four sectors (10 R255). Reset: NONE. -/
  sectors : Vector Sector 4 := Vector.replicate 4 {}
  /-- Granule ownership, sparse by granule; not listed: free (03 R94, 10 R255). Reset: none. -/
  owners : List (Nat × Owner) := []
  /-- Jobs open, parked or preserved. Reset: none. -/
  jobs : List Job := []
  fabric : Fabric := {}
  /-- Hosted mirror regions (15 R418). Reset: none. -/
  regions : List Region := []
  mgmt : Mgmt := {}
  health : Health := {}
  deriving DecidableEq, Repr

/-- The machine right after the power-on reset's trigger (02 R50, R51), as a module in the field after manufacture
(02 R489). -/
def State.reset : State := {}

end Sys2Proof.Machine
end

