-- ==== Sys2Proof/Machine/Flags.lean ====
section
/-! DEFINITION. Sys2Proof/Machine/Flags.lean: the status, event and interrupt flags of the module: MSI-X (R103),
`MBX_EVENT` (R99), `SB_ALERT` (R29), `SB_STATE` (R29), `FAULT` (R459), `SPARE_RDY#` (R460) and the GPIO pins (R30). -/

namespace Sys2Proof.Machine

/-- Append what the module sends. -/
def emit (e : Emit) (s : State) : State := { s with out := s.out ++ [e] }

/-- Append several emissions, in order. -/
def emits (es : List Emit) (s : State) : State := { s with out := s.out ++ es }

/-- The next free value, with the counter advanced (log 3). -/
def freeVal (s : State) : Nat × State := (Config.freeNat s.freeIx, { s with freeIx := s.freeIx + 1 })

/-! ### Interrupts -/

/-- Send an MSI-X message; a masked vector is left pending (R103; masking as PCI Express defines it, log 8). -/
def sendMsix (v : BitVec 4) (s : State) : State :=
  if (s.mbx.msix[v.toFin]).ctrl.getLsbD 0 then { s with mbx.pba := setBit s.mbx.pba v.toNat true }
  else emit (.msix v) s

/-- Bits of `MBX_EVENT` (Table 04-2). -/
def evState : Nat := 0
def evHealth : Nat := 1
def evFence : Nat := 2
def evReplace : Nat := 3
def evTherm : Nat := 4
def evAbort : Nat := 5
def evMemError : Nat := 6

/-- Give `MBX_EVENT` and `MBX_EVENT_EN` new values; an interrupt is sent each time their AND changes from zero to
nonzero (R103). -/
def setEvents (ev en : BitVec 7) (s : State) : State :=
  let before := s.mbx.event &&& s.mbx.eventEn
  let t := { s with mbx.event := ev, mbx.eventEn := en }
  if before = 0 ∧ ev &&& en ≠ 0 then sendMsix s.mbx.eventVec t else t

/-- Set bit `k` of `MBX_EVENT` (R99). -/
def raiseEvent (k : Nat) (s : State) : State := setEvents (setBit s.mbx.event k true) s.mbx.eventEn s

/-! ### Sideband -/

/-- Bits of `SB_ALERT` (Table 01-8). -/
def alTherm : Nat := 0
def alFault : Nat := 1
def alState : Nat := 2
def alReplace : Nat := 3

/-- Set bit `k` of `SB_ALERT`; a change from 0 to 1 asserts `ALERT#` (R29). -/
def raiseAlert (k : Nat) (s : State) : State :=
  if s.smb.alert.getLsbD k then s
  else { s with smb.alert := setBit s.smb.alert k true, pins.alert := true }

/-- Clear the bits of `SB_ALERT` written 1; `ALERT#` is released once every bit is clear (R29). -/
def clearAlert (m : BitVec 4) (s : State) : State :=
  let a := s.smb.alert &&& ~~~ m
  { s with smb.alert := a, pins.alert := s.pins.alert && a != 0 }

/-- `SB_STATE.STATE` and its copy `MBX_STATUS.STATE` take a value; a change of the one sets the alert, a change of the other
the event (R29, R99): `MBX_STATUS.STATE` leaves a module reset at 0b010, so the start of a boot does not change it. -/
def setSbState (v : BitVec 3) (s : State) : State :=
  let t := if s.smb.state = v then s else raiseAlert alState { s with smb.state := v }
  if s.mbx.state = v then t else raiseEvent evState { t with mbx.state := v }

/-- The condition under which `FAULT` is asserted (R459). -/
def faultCond (s : State) : Bool :=
  match s.phase with
  | .ready => s.health.expelled || s.smb.state == 0b101
  | _ => true

/-- The condition under which `SPARE_RDY#` is asserted (R460). `FAULT` and `SPARE_RDY#` are never asserted together
(R471). -/
def spareCond (s : State) : Bool :=
  s.smb.state == 0b011 && !s.health.expelled && !s.jrn.hst.replaceReq &&
  (vlist s.sectors).all (fun x => x.st == .none) && s.jobs.isEmpty &&
  (fins 8).any (fun p => decide (3 ≤ (s.fabric.ports[p]).st) && !(s.health.fabric.getLsbD p.val)) && !faultCond s

/-- `FAULT` takes a level; a change sets `SB_ALERT.FAULT_CHANGE` (R29). -/
def setFault (b : Bool) (s : State) : State :=
  if s.pins.fault = b then s else raiseAlert alFault { s with pins.fault := b }

/-- `FAULT`, `SPARE_RDY#` and `SB_STATE.SPARE_READY` follow their conditions (R459, R460). -/
def settleSideband (s : State) : State :=
  let t := setFault (faultCond s) s
  { t with pins.spareRdy := spareCond t, smb.spareReady := spareCond t }

/-- The level of a GPIO pin by its function (R30): released reads high. -/
def gpioLevel (s : State) (f : BitVec 4) : Bool :=
  match f.toNat with
  | 1 => s.pins.fault
  | 2 => !s.pins.spareRdy
  | 3 => !(s.smb.alert.getLsbD alTherm)
  | _ => true

/-- `REPLACE_REQ` takes a value; each change sets the alert and the event (R447). -/
def setReplaceReq (b : Bool) (s : State) : State :=
  if s.jrn.hst.replaceReq = b then { s with smb.replaceReq := b }
  else raiseEvent evReplace (raiseAlert alReplace { s with smb.replaceReq := b, jrn.hst.replaceReq := b })

/-- `DEGRADED`: at least one unit is fenced (R29). -/
def degraded (s : State) : Bool :=
  s.health.columns != 0 || s.health.pairs != 0 || s.health.prisms != 0 || s.health.fabric != 0 || s.health.mgmt != 0

/-- The device is below the service floor (R61, R455). -/
def belowFloor (s : State) : Bool := s.phase == .belowFloor || s.phase == .recovery

/-- Varlux or the boot ROM answers commands: the boot has ended. -/
def answering (s : State) : Bool := s.phase == .ready || s.phase == .belowFloor

end Sys2Proof.Machine
end

