-- ==== Sys2Proof/Machine/Ops.lean ====
section
/-! DEFINITION. Sys2Proof/Machine/Ops.lean: the operations every family shares: the journal records (R63, R307), the
health evidence, events and counters (R443, R472), and LPDDR6 (R284 to R305). -/

namespace Sys2Proof.Machine

/-- Powered time (R44). A read in another domain has no lag here, which R46 allows (log 87). DESIGN CHOICE. -/
abbrev now (s : State) : W64 := s.aon.ptime

/-- Change one facet. -/
def modFacet (f : Fin 96) (g : Facet → Facet) (s : State) : State := { s with facets := vupd s.facets f g }

/-- Change one sector. -/
def modSector (n : Fin 4) (g : Sector → Sector) (s : State) : State := { s with sectors := vupd s.sectors n g }

/-- Change one ring pair. -/
def modRing (n : Fin 8) (g : Ring → Ring) (s : State) : State := { s with mbx.rings := vupd s.mbx.rings n g }

/-- Change one fabric port. -/
def modPort (p : Fin 8) (g : FabPort → FabPort) (s : State) : State := { s with fabric.ports := vupd s.fabric.ports p g }

/-- Change the job with an id. -/
def modJob (j : W32) (g : Job → Job) (s : State) : State := { s with jobs := updIf s.jobs (fun x => x.id == j) g }

/-- Change the armed step of a job. -/
def modRun (j : W32) (g : StepRun → StepRun) (s : State) : State := modJob j (fun x => { x with run := x.run.map g }) s

/-- The job with an id. -/
def jobOf (j : W32) (s : State) : Option Job := s.jobs.find? fun x => x.id == j

/-- Change the object with an id. -/
def modObj (o : W64) (g : Obj → Obj) (s : State) : State := { s with objs := updIf s.objs (fun x => x.id == o) g }

/-- The object with an id. -/
def objOf (o : W64) (s : State) : Option Obj := s.objs.find? fun x => x.id == o

/-! ### Journal records -/

/-- A copy of a duplicated record after a write of it: a copy marked bad is not written again, and one whose write fails its
read-back verification is not valid (R64). -/
def copyWrite {α : Type} (bad : Bool) (life : Option Nat) (v : α) (c : Option α) : Option α :=
  if bad then c else if life = some 0 then none else some v

/-- Write a duplicated record: `JRN_A` first, then `JRN_B` (R23, R64). -/
def dupWrite {α : Type} (j : Journal) (v : α) (d : Dup α) : Dup α :=
  ⟨copyWrite j.boot.aBad j.lifeA v d.a, copyWrite j.boot.bBad j.lifeB v d.b⟩

/-- After a record write: a memory whose write failed is marked bad in `FLAGS`, and the boot journal takes the mark (R64). -/
def settleBad (j : Journal) : Journal :=
  let a := j.boot.aBad || j.lifeA == some 0
  let b := j.boot.bBad || j.lifeB == some 0
  let j := { j with lifeA := j.lifeA.map (· - 1), lifeB := j.lifeB.map (· - 1) }
  if a = j.boot.aBad ∧ b = j.boot.bBad then j
  else
    let r := { j.boot with aBad := a, bBad := b, seq := j.boot.seq + 1 }
    { j with boot := r, bootDup := ⟨if a then j.bootDup.a else some r, if b then j.bootDup.b else some r⟩ }

/-- Select a copy: the larger sequence number wins, and the first copy on a tie (R63). -/
def dupPick {α : Type} (seq : α → W64) (d : Dup α) : Option (Selected × α) :=
  match d.a, d.b with
  | some x, some y => if seq x < seq y then some (.b, y) else some (.a, x)
  | some x, none => some (.a, x)
  | none, some y => some (.b, y)
  | none, none => none

/-- Change the boot journal and write it (R63). -/
def writeBoot (g : BootRec → BootRec) (s : State) : State :=
  let r := g s.jrn.boot
  let r := { r with seq := r.seq + 1 }
  { s with jrn := settleBad { s.jrn with boot := r, bootDup := dupWrite s.jrn r s.jrn.bootDup } }

/-- Change the fence map and write it (R452). -/
def writeFence (g : FenceMap → FenceMap) (s : State) : State :=
  let r := g s.jrn.fence
  let r := { r with seq := r.seq + 1 }
  { s with jrn := settleBad { s.jrn with fence := r, fenceDup := dupWrite s.jrn r s.jrn.fenceDup } }

/-- Change the health configuration record and write it (R448). -/
def writeHcfg (g : HealthConfig → HealthConfig) (s : State) : State :=
  let r := g s.jrn.hcfg
  let r := { r with seq := r.seq + 1 }
  { s with jrn := settleBad { s.jrn with hcfg := r, hcfgDup := dupWrite s.jrn r s.jrn.hcfgDup } }

/-- Write the health state record as it stands in Apex SRAM (R446). -/
def writeHst (s : State) : State :=
  let r := { s.jrn.hst with seq := s.jrn.hst.seq + 1 }
  { s with jrn := settleBad { s.jrn with hst := r, hstDup := dupWrite s.jrn r s.jrn.hstDup } }

/-- Change the memory configuration record and write it (R311). -/
def writeMemCfg (g : MemConfig → MemConfig) (s : State) : State :=
  let r := g s.jrn.mem
  let r := { r with seq := r.seq + 1 }
  { s with jrn := settleBad { s.jrn with mem := r, memDup := dupWrite s.jrn r s.jrn.memDup } }

/-- Change the warm-restart directory and write it (R438). -/
def writeDir (g : WarmDir → WarmDir) (s : State) : State :=
  let r := g s.jrn.dir
  let r := { r with seq := r.seq + 1 }
  { s with jrn := settleBad { s.jrn with dir := r, dirDup := dupWrite s.jrn r s.jrn.dirDup } }

/-- The saved parameters of a Prism in force (R307): the selected copy, absent where neither is valid (R309). -/
def savedOf (s : State) (n : Fin 4) : Option SavedParams := (dupPick (·.seq) s.jrn.savedDup[n]).map (·.2)

/-- Change a Prism's saved-parameter record and write it (R307). -/
def writeSaved (n : Fin 4) (g : SavedParams → SavedParams) (s : State) : State :=
  let r := g (optGet { seq := 0 } (savedOf s n))
  let r := { r with seq := r.seq + 1 }
  { s with jrn := settleBad { s.jrn with savedDup := vupd s.jrn.savedDup n (dupWrite s.jrn r) } }

/-! ### Evidence, counters, health events -/

/-- Add `n` events of rate class `c` to the current bucket and to the count of this boot (R443, R444). -/
def evidence (c n : Nat) (s : State) : State :=
  let k := 12 * s.jrn.hst.bucket + (c - 0x10)
  { s with jrn.hst.counts := sset 0 s.jrn.hst.counts k (sget 0 s.jrn.hst.counts k + n),
           health.bootEvents := sset 0 s.health.bootEvents (c - 0x10) (sget 0 s.health.bootEvents (c - 0x10) + n) }

/-- Add to a counter of Table 16-11. -/
def counter (i n : Nat) (s : State) : State :=
  { s with health.counters := sset 0 s.health.counters i (sget 0 s.health.counters i + n) }

/-- Log a health event, displacing the oldest of 64 (R472). -/
def logHealth (kind : Byte) (unit : Nat) (index : Nat) (info : Nat) (s : State) : State :=
  let e : HealthEvent := ⟨now s, kind, BitVec.ofNat 8 unit, BitVec.ofNat 16 index, BitVec.ofNat 32 info⟩
  { s with health.events := (s.health.events ++ [e]).drop (s.health.events.length + 1 - 64) }

/-- Log a rehearsal, displacing the oldest of 32 (R472). -/
def logReh (r : RehRec) (s : State) : State :=
  { s with health.rehLog := (s.health.rehLog ++ [r]).drop (s.health.rehLog.length + 1 - 32) }

/-! ### The DPA map -/

/-- Size of LPDDR6 in the DPA space: 1,152 granules of 1 GiB (R284). -/
def memEnd : Nat := 0x12000000000

/-- The 1 GiB granule of a DPA (R284). -/
def granule (dpa : Nat) : Nat := dpa / 2 ^ 30

/-- Prism of a granule (R284). -/
def prismOf (g : Nat) : Fin 4 := finOf g

/-- Pair `k` of the module is in the channel set (R282, R283). -/
def pairIn (s : State) (k : Nat) : Bool := s.mem.pairs.getLsbD k

/-- Prism-local channels in service, ascending (R282). -/
def inService (s : State) (n : Fin 4) : List Nat :=
  (List.range 16).filter fun i => pairIn s (8 * n.val + i / 2)

/-- Count of channels in service of a Prism (R282). -/
def chanCount (s : State) (n : Fin 4) : Nat := (inService s n).length

/-- A Prism is fenced or its LPDDR6 untrained (R284). -/
def prismOut (s : State) (n : Fin 4) : Bool := s.health.prisms.getLsbD n.val || !(s.mem.trained.getLsbD n.val)

/-- A granule is absent (R284). -/
def absent (s : State) (g : Nat) : Bool :=
  1152 ≤ g || prismOut s (prismOf g) || 18 * chanCount s (prismOf g) ≤ g / 4

/-- Channel (0 to 63) and channel-local sector index of a DPA (R285). -/
def mapDpa (s : State) (dpa : Nat) : Nat × Nat :=
  let g := granule dpa
  let n := prismOf g
  let c := chanCount s n
  let b := (g / 4 * 2 ^ 30 + dpa % 2 ^ 30) / 4096
  let q := b / c
  let h := (q % 16) ^^^ (q / 16 % 16) ^^^ (q / 256 % 16) ^^^ (q / 4096 % 16) ^^^ (q / 65536 % 16) ^^^ (q / 1048576 % 8)
  let slot := (b % c + h) % c
  (16 * n.val + (inService s n).getD slot 0, q * 128 + dpa / 32 % 128)

/-! ### The sector code: RS(36, 32) over GF(256) with 0x11D (R287) -/

/-- Multiplication by α = 0x02. -/
def gfX (a : Byte) : Byte := if a.getLsbD 7 then (a <<< 1) ^^^ 0x1D else a <<< 1

/-- Product in the field; `n` bits of the second factor remain. -/
def gfMulN : Nat → Byte → Byte → Byte
  | 0, _, _ => 0
  | n + 1, a, b => (if b.getLsbD 0 then a else 0) ^^^ gfMulN n (gfX a) (b >>> 1)

/-- Product in the field. -/
def gfMul (a b : Byte) : Byte := gfMulN 8 a b

/-- α to a power. -/
def gfPow : Nat → Byte
  | 0 => 1
  | n + 1 => gfX (gfPow n)

/-- Value of a polynomial at x, highest coefficient first. -/
def gfEval (x : Byte) (cs : List Byte) : Byte := cs.foldl (fun a c => gfMul a x ^^^ c) 0

/-- Check symbols p3 to p0 of 32 data bytes: the remainder of D(x)·x⁴ by g(x) (R287). -/
def checkBytes (d : List Byte) : List Byte :=
  let g1 : Byte := 1 ^^^ 2 ^^^ 4 ^^^ 8
  let roots : List Byte := [1, 2, 4, 8]
  let e2 := (roots.flatMap fun a => roots.filterMap fun b => if a < b then some (gfMul a b) else none).foldl (· ^^^ ·) 0
  let e3 := gfMul (gfMul 1 2) 4 ^^^ gfMul (gfMul 1 2) 8 ^^^ gfMul (gfMul 1 4) 8 ^^^ gfMul (gfMul 2 4) 8
  let e4 := gfMul (gfMul 1 2) (gfMul 4 8)
  d.foldl (fun r b =>
    let f := r.headD 0 ^^^ b
    let t := r.tail ++ [0]
    List.zipWith (fun x c => x ^^^ gfMul f c) t [g1, e2, e3, e4]) [0, 0, 0, 0]

/-- The four syndromes of a received word of 36 symbols (R289). -/
def syndromes (c : List Byte) : List Byte := [gfEval 1 c, gfEval 2 c, gfEval 4 c, gfEval 8 c]

/-- The class of a read (R289). -/
inductive ReadClass where
  | clean
  | poison
  | corrected (sym : Nat) (value : Byte)
  | uncorrectable
  deriving DecidableEq, Repr

/-- The syndromes follow the ratio β (R289). -/
def ratioOk (sy : List Byte) (b : Byte) : Bool :=
  match sy with
  | [s0, s1, s2, s3] => s1 == gfMul s0 b && s2 == gfMul s1 b && s3 == gfMul s2 b
  | _ => false

/-- Classification of a received word (R289), in the table's order. -/
def classify (c : List Byte) : ReadClass :=
  let sy := syndromes c
  if sy = [0, 0, 0, 0] then .clean
  else if sy = [0x00, 0xF2, 0x0B, 0xE4] then .poison
  else if sy.headD 0 = 0xA5 ∧ (ratioOk sy 1 ∨ ratioOk sy 2) ∧ (c.take 32).all (· == 0) then .poison
  else
    match (List.range 36).find? (fun p => sy.headD 0 ≠ 0 && ratioOk sy (gfPow p)) with
    | some p => .corrected (35 - p) (sy.headD 0)
    | none => .uncorrectable

/-! ### Sectors with errors -/

/-- Error value on symbol `i` of sector number `k`; with `onlyStuck`, the part that lies on the location. -/
def symErr (errs : List SymErr) (k : Nat) (i : Nat) (onlyStuck : Bool) : Byte :=
  (errs.filter fun e => e.sector = k && e.sym.val = i && (!onlyStuck || e.stuck)).foldl (fun a e => a ^^^ e.value) 0

/-- The received word of sector number `k`: its code word with the errors on it. -/
def received (m : MemSys) (k : Nat) (onlyStuck : Bool := false) : List Byte :=
  let d := mread m.cells (32 * k) 32
  (d ++ checkBytes d).mapIdx fun i b => b ^^^ symErr m.errs k i onlyStuck

/-- Put 32 data bytes whole on sector number `k`: only errors that lie on the location stay (R292). -/
def putSector (m : MemSys) (k : Nat) (d : List Byte) : MemSys :=
  { m with cells := mwrite m.cells (32 * k) d, errs := m.errs.filter fun e => e.sector ≠ k || e.stuck }

/-- The marks of a poisoned sector (R290). -/
def poisonMarks (k : Nat) : List SymErr := [⟨k, 34, 0xA5, false⟩, ⟨k, 35, 0xA5, false⟩]

/-- Write the poisoned sector of R290. -/
def putPoison (m : MemSys) (k : Nat) : MemSys :=
  let m := putSector m k (zeros 32)
  { m with errs := m.errs ++ poisonMarks k }

/-- Codes of the requesters (Table 11-4). -/
def rqFacet : Byte := 0
def rqHost : Byte := 1
def rqFold : Byte := 2
def rqSnap : Byte := 3
def rqChord : Byte := 4
def rqDisp : Byte := 5
def rqMove : Byte := 6
def rqVarlux : Byte := 7
def rqScrub : Byte := 8

/-- Write an error-log record; any kind but corrected sets `MBX_EVENT.MEM_ERROR`; corrected records are limited to 16
per Prism and second (R99, R305). -/
def logMem (kind : Byte) (req : Byte) (dpa : Nat) (hasSector : Bool) (sym : Nat) (s : State) : State :=
  let n := prismOf (granule dpa)
  let (ch, sec) := if hasSector then mapDpa s dpa else (0xFF, 0)
  let r : LogRec := ⟨now s, s.jrn.boot.bootCount, kind, BitVec.ofNat 8 n.val, BitVec.ofNat 8 ch, req,
    BitVec.ofNat 64 dpa, BitVec.ofNat 32 sec, BitVec.ofNat 8 sym⟩
  let second := (now s).toNat / 1000000
  let rate := s.mem.rate[n]
  let used := if rate.1 = second then rate.2 else 0
  if kind = 0x01 ∧ 16 ≤ used then s
  else
    let gone := s.mem.log.length + 1 - 1024
    let t := { s with mem.log := (s.mem.log ++ [r]).drop gone, mem.displaced := s.mem.displaced + gone }
    if kind = 0x01 then { t with mem.rate := vupd t.mem.rate n fun _ => (second, used + 1) } else raiseEvent evMemError t

/-- Mark a channel pair for a pending fence (R450). -/
def pendPair (k : Nat) (s : State) : State :=
  if s.jrn.fence.pending.getLsbD k then s
  else logHealth 0x03 k 0 0 (writeFence (fun m => { m with pending := setBit m.pending k true }) s)

/-- Count a first classified uncorrectable read on a pair; four within the window mark it (R450). -/
def pairUncorr (k : Nat) (s : State) : State :=
  let t := { s with mem.pairUnc := s.mem.pairUnc ++ [(k, s.jrn.hst.bucket)] }
  if 4 ≤ (t.mem.pairUnc.filter fun e => e.1 = k).length then pendPair k t else t

/-- Count a remap-exhausted event on a pair; sixteen within the window mark it (R450). -/
def pairExhaust (k : Nat) (s : State) : State :=
  let t := { s with mem.pairExh := s.mem.pairExh ++ [(k, s.jrn.hst.bucket)] }
  if 16 ≤ (t.mem.pairExh.filter fun e => e.1 = k).length then pendPair k t else t

/-- Remap sector number `k` (R300), or log its event when the store is exhausted (R301). A remapped sector is served from
its spare, so the errors that lie on the location no longer show. -/
def remapSector (k : Nat) (cause : Bool) (req : Byte) (s : State) : State :=
  let dpa := 32 * k
  let n := prismOf (granule dpa)
  let (ch, sec) := mapDpa s dpa
  if 16 ≤ (s.mem.remap[n]).length then
    pairExhaust (ch / 2) (logMem 0x06 req dpa true 0xFF s)
  else
    let e : RemapEntry := ⟨BitVec.ofNat 30 sec, BitVec.ofNat 4 ch, cause, s.jrn.boot.bootCount.truncate 16⟩
    let t := { s with mem.remap := vupd s.mem.remap n (· ++ [e]),
                      mem.errs := s.mem.errs.filter fun x => x.sector ≠ k || !x.stuck }
    logMem 0x05 req dpa true 0xFF (writeSaved n (fun r => { r with remap := t.mem.remap[n] }) t)

/-- A read of sector number `k` by a requester: its data when it is clean or corrected, and what the controller does
after it (R289, R293, R300, R303, R305). -/
def readSector (req : Byte) (k : Nat) (s : State) : State × Option (List Byte) :=
  let dpa := 32 * k
  let w := received s.mem k
  match classify w with
  | .clean => (s, some (w.take 32))
  | .poison => (logMem 0x03 req dpa true 0xFF s, none)
  | .corrected sym v =>
    let d := (w.mapIdx fun i b => if i = sym then b ^^^ v else b).take 32
    let t := evidence 0x10 1 { s with mem := { putSector s.mem k d with corrected := s.mem.corrected + 1 } }
    let t := logMem 0x01 req dpa true sym t
    let t := if syndromes (received t.mem k) = [0, 0, 0, 0] then t else remapSector k false req t
    (t, some d)
  | .uncorrectable =>
    let t := evidence 0x11 1 { s with mem := { putPoison s.mem k with uncorrectable := s.mem.uncorrectable + 1 } }
    let t := logMem 0x02 req dpa true 0xFF t
    let t := pairUncorr ((mapDpa s dpa).1 / 2) t
    let t := if classify (received t.mem k) = .poison then t else remapSector k true req t
    (t, none)

/-- The sectors of a DPA range that carry an error, each once, ascending. -/
def errSectors (m : MemSys) (a n : Nat) : List Nat :=
  let ks := (m.errs.map (·.sector)).filter fun k => a / 32 ≤ k && k < (a + n + 31) / 32
  ks.foldl (fun acc k => (acc.filter (· < k)) ++ [k] ++ acc.filter (k < ·)) []

/-- The granules of a DPA range. -/
def granulesOf (a n : Nat) : List Nat :=
  if n = 0 then [] else (List.range (granule (a + n - 1) - granule a + 1)).map (· + granule a)

/-- Some granule of a DPA range is absent. -/
def rangeAbsent (s : State) (a n : Nat) : Bool := (granulesOf a n).any (absent s)

/-- A window line lies in a DPA range (R296). -/
def lineIn (s : State) (a n l : Nat) : Bool :=
  a < s.mem.hdmFirst * 2 ^ 30 + 64 * l + 64 && s.mem.hdmFirst * 2 ^ 30 + 64 * l < a + n

/-- The window lines of a range that the host may hold and that an access has still to snoop (R298): for a read, those whose
BISnpData is not under way and not answered for a transfer that waits. -/
def toSnoop (inv : Bool) (a n : Nat) (s : State) : List Nat :=
  s.mem.snoop.filter fun l => lineIn s a n l && (inv || !(s.mem.snooped.contains l || s.mem.bisnp.contains (false, l)))

/-- Back-invalidate the window lines of a range that the host may hold before a device engine writes it (BISnpInv) or
reads it (BISnpData) (R298). -/
def snoopOut (inv : Bool) (a n : Nat) (s : State) : State :=
  let ls := toSnoop inv a n s
  emits (ls.map (Emit.bisnp inv)) { s with
    mem.snoop := if inv then s.mem.snoop.filter (fun l => !ls.contains l) else s.mem.snoop,
    mem.bisnp := s.mem.bisnp ++ ls.map (Prod.mk inv) }

/-- An access waits for the answer to a snoop of one of its lines (R298). -/
def snoopWaits (a n : Nat) (s : State) : Bool := s.mem.bisnp.any fun p => lineIn s a n p.2

/-- A requester reads a DPA range: the sector numbers whose read was uncorrectable. A sector without an error reads
clean, so only sectors that carry an error take part. An absent granule makes every sector of it uncorrectable, which the
second component reports. -/
def readRange (req : Byte) (a n : Nat) (s : State) : State × List Nat :=
  (errSectors s.mem a n).foldl (fun (p : State × List Nat) k =>
    match readSector req k p.1 with
    | (t, some _) => (t, p.2)
    | (t, none) => (t, p.2 ++ [k])) (if req = rqHost then s else snoopOut false a n s, [])

/-- A read of a DPA range that must succeed whole: its cells rebased to 0, or none (R303). -/
def readCells (req : Byte) (a n : Nat) (s : State) : State × Option (List Host.Cell) :=
  if rangeAbsent s a n then (s, none)
  else
    match readRange req a n s with
    | (t, []) => (t, some (scut t.mem.cells a n 0))
    | (t, _) => (t, none)

/-- A read of a DPA range that must succeed whole, as bytes. -/
def readBytes (req : Byte) (a n : Nat) (s : State) : State × Option (List Byte) :=
  match readCells req a n s with
  | (t, some _) => (t, some (mread t.mem.cells a n))
  | (t, none) => (t, none)

/-- Errors that remain on a range after whole writes: those that lie on the location (R292). -/
def clearErrs (errs : List SymErr) (a n : Nat) : List SymErr :=
  errs.filter fun e => e.sector < a / 32 || (a + n + 31) / 32 ≤ e.sector || e.stuck

/-- The 2 MiB extents of an object that a DPA range touches. -/
def extentsHit (o : Obj) (a n : Nat) : List Nat :=
  (List.range ((o.size + 2097151) / 2097152)).filter fun k =>
    decide (a < o.loc + 2097152 * (k + 1) ∧ o.loc + 2097152 * k < a + n)

/-- An accepted write sets the dirty bits of backed objects (R321). -/
def noteDirty (a n : Nat) (s : State) : State :=
  { s with objs := s.objs.map fun o =>
      if o.tier = 0 ∧ o.backed then { o with dirty := o.dirty ++ (extentsHit o a n).filter fun k => !o.dirty.contains k } else o }

/-- A whole write of a progress sector goes to its job's prefetch stream (R329). -/
def noteProgress (a n : Nat) (s : State) : State :=
  { s with jobs := s.jobs.map fun j => { j with sched := j.sched.map fun x =>
      if a ≤ x.progress ∧ x.progress + 12 ≤ a + n then
        { x with writes := x.writes ++ [(BitVec.ofNat 64 (leNat (mread s.mem.cells x.progress 8)),
                                         leNat (mread s.mem.cells (x.progress + 8) 4))] }
      else x } }

/-- What the Prism does at an accepted write (R321, R329): the dirty bits of backed objects, and the writes of progress
sectors. -/
def noteWrite (a n : Nat) (s : State) : State := noteProgress a n (noteDirty a n s)

/-- A device engine writes cells over a DPA range of whole sectors (R292); an absent granule takes no write. -/
def writeCells (a n : Nat) (src : List Host.Cell) (s : State) : State :=
  if rangeAbsent s a n then s
  else
    let s := snoopOut true a n s
    noteWrite a n { s with mem.cells := scopy s.mem.cells a src 0 n, mem.errs := clearErrs s.mem.errs a n }

/-- A device engine writes bytes over a DPA range of whole sectors (R292). -/
def writeBytes (a : Nat) (bs : List Byte) (s : State) : State :=
  if rangeAbsent s a bs.length then s
  else
    let s := snoopOut true a bs.length s
    noteWrite a bs.length { s with mem.cells := mwrite s.mem.cells a bs, mem.errs := clearErrs s.mem.errs a bs.length }

/-- A DPA range reads zero afterwards (whole writes of zeros). -/
def zeroRange (a n : Nat) (s : State) : State :=
  let s := snoopOut true a n s
  noteWrite a n { s with mem.cells := sclear s.mem.cells a n, mem.errs := clearErrs s.mem.errs a n }

/-- Keep only what lies in granules that satisfy `p`: data and errors. -/
def keepGranules (p : Nat → Bool) (m : MemSys) : MemSys :=
  { m with cells := m.cells.filter (fun c => p (granule c.1)), errs := m.errs.filter fun e => p (granule (32 * e.sector)) }

/-! ### Quotas -/

/-- Owner of a granule; none: free (R255). -/
def ownerOf (s : State) (g : Nat) : Option Owner := (s.owners.find? fun o => o.1 = g).map (·.2)

/-- Give a granule to an owner. -/
def setOwner (g : Nat) (o : Owner) (s : State) : State := { s with owners := sins s.owners g o }

/-- Free every granule whose owner satisfies `p`. -/
def freeOwners (p : Owner → Bool) (s : State) : State := { s with owners := s.owners.filter fun o => !p o.2 }

/-- The granules that are free: present and without an owner (R255). -/
def freeGranules (s : State) : List Nat :=
  (List.range 1152).filter fun g => !absent s g && (ownerOf s g).isNone

end Sys2Proof.Machine
end

