-- ==== Sys2Proof/Machine/Mailbox.lean ====
section
/-! DEFINITION. Sys2Proof/Machine/Mailbox.lean: how a command is carried, ordered and answered (R101, R104 to R119), and
the BAR0 registers as they read (R97 to R103). -/

namespace Sys2Proof.Machine

/-! ### Status codes (Table 04-8) -/

def stOk : W16 := 0x0000
def stDeferred : W16 := 0x0001
def stArg : W16 := 0x0101
def stState : W16 := 0x0102
def stBusy : W16 := 0x0103
def stNoSpace : W16 := 0x0104
def stOpcode : W16 := 0x0105
def stMemUncorr : W16 := 0x0201
def stNarrow : W16 := 0x0202
def stHostAccess : W16 := 0x0203
def stAborted : W16 := 0x0301
def stEpoch : W16 := 0x0302
def stSkipped : W16 := 0x0401
def stNotCommitted : W16 := 0x0402
def stNoCopy : W16 := 0x0501
def stAuth : W16 := 0x0601
def stRollback : W16 := 0x0602
def stDegraded : W16 := 0x0701
def stBelowFloor : W16 := 0x0702

/-! ### Completions -/

/-- The 32 bytes of a completion entry (Table 04-7). -/
def cplBytes (tag status : W16) (sqHead sqId : Nat) (phase final : Bool) (result : List Byte) : List Byte :=
  leBytes 2 tag.toNat ++ leBytes 2 status.toNat ++ leBytes 2 sqHead ++ leBytes 1 sqId ++
    leBytes 1 (bit phase + 2 * bit final) ++ slice result 0 24

/-- `RING_STATUS.RUNNING` (R100). -/
def ringRunning (r : Ring) : Bool := r.en || r.outstanding.any fun w => !w.discard

/-- Number of slots of the completion ring. -/
def cqSlots (r : Ring) : Nat := 2 ^ r.cqLog2.toNat

/-- Remove the oldest outstanding command with a tag that is not discarded: one that ran, or one completed at its fetch. -/
def dropTag (owner : Bool) (tag : W16) : List Waiting → List Waiting
  | [] => []
  | w :: ws => if w.h.tag = tag ∧ w.discard = false ∧ w.started ∧ w.dead = !owner then ws else w :: dropTag owner tag ws

/-- A ring error (R111): `ERR` is set and `EN` cleared. -/
def ringError (n : Fin 8) (code : BitVec 3) (s : State) : State := modRing n (fun r => { r with err := code, en := false }) s

/-- A completion whose write fails in the host is a ring error, and is discarded (R111): its command has ended, and the slot is
the next one still (log 18). -/
def failSlot (n : Fin 8) (c : CplEnt) (s : State) : State :=
  ringError n 0b100 (modRing n (fun r => { r with
    outstanding := if c.final then dropTag c.owner c.tag r.outstanding else r.outstanding }) s)

/-- Write one completion into the next slot of a completion ring, then its interrupt (R103, R106). -/
def writeSlot (n : Fin 8) (c : CplEnt) (s : State) : State :=
  if c.fault then failSlot n c s else
  let r := s.mbx.rings[n]
  let addr := r.cqBase + BitVec.ofNat 64 (32 * r.cqTail)
  let t := emit (.completion n addr (cplBytes c.tag c.status r.sqHead n.val r.phase c.final c.result)) s
  let wrap := r.cqTail + 1 = cqSlots r
  let t := modRing n (fun r => { r with
    cqTail := if wrap then 0 else r.cqTail + 1,
    phase := if wrap then !r.phase else r.phase,
    unconsumed := r.unconsumed + 1,
    outstanding := if c.final then dropTag c.owner c.tag r.outstanding else r.outstanding }) t
  if r.intrEn && !c.noIntr then sendMsix r.vector t else t

/-- Write completions that wait while a slot is free, oldest first; `fuel` bounds the count (R110). -/
def flushRing : Nat → Fin 8 → State → State
  | 0, _, s => s
  | fuel + 1, n, s =>
    match s.mbx.rings[n].waiting with
    | [] => s
    | c :: cs =>
      if s.mbx.rings[n].unconsumed < cqSlots s.mbx.rings[n] then
        flushRing fuel n (writeSlot n c (modRing n (fun r => { r with waiting := cs }) s))
      else s

/-- Give a completion to a ring: it is written at once when a slot is free (R110). -/
def pushCpl (n : Fin 8) (c : CplEnt) (s : State) : State :=
  let t := modRing n (fun r => { r with waiting := r.waiting ++ [c] }) s
  flushRing (t.mbx.rings[n].waiting.length) n t

/-- The CPL segments of a completion (Table 16-6): buffer offset and payload. -/
def cplSegs (cpl buf : List Byte) : List (Nat × Nat × List Byte) :=
  let k := max 1 ((buf.length + 1023) / 1024)
  (List.range k).map fun i => (1024 * i, 0, cpl ++ (buf.drop (1024 * i)).take 1024)

/-- A management port can send. -/
def mgmtUp (s : State) (p : Fin 2) : Bool :=
  (s.mgmt.ports[p]).up && !(s.mgmt.ports[p]).silent && !(s.health.mgmt.getLsbD p.val) && !s.pins.txIdle

/-- Send CPL segments on every management port that is up (R466). -/
def emitCpl (xid : W32) (total : Nat) (segs : List (Nat × Nat × List Byte)) (s : State) : State :=
  emits (((fins 2).filter (mgmtUp s)).flatMap fun p => segs.map fun g => Emit.cpl p xid g.1 total (g.2.1 != 0) g.2.2) s

/-- Answer on the management network (R463). A CPL's `SQ_HEAD`, `SQ_ID` and `PHASE` name no ring: free values (log 3). -/
def sendCpl (h : Hdr) (status : W16) (final : Bool) (result buf : List Byte) (s : State) : State :=
  let (x, s) := freeVal s
  let b := cplBytes h.tag status (x % 65536) (x / 65536 % 256) (x / 16777216 % 2 = 1) final result
  let t := emitCpl h.xid buf.length (cplSegs b buf) s
  { t with mgmt.exchanges := updIf t.mgmt.exchanges (fun e => e.h == h) fun e =>
             { e with unacked := e.unacked ++ cplSegs b buf, total := buf.length },
           mbx.netOut := if final then t.mbx.netOut.filter (fun w => w.h != h) else t.mbx.netOut }

/-- The command's completions are discarded: it was fetched before a host-port event (R113). -/
def discarded (h : Hdr) (rs : List Waiting) : Bool :=
  match rs.find? fun w => w.h == h with
  | some w => w.discard
  | none => true

/-- Forget a discarded command. -/
def dropDiscarded (h : Hdr) (rs : List Waiting) : List Waiting :=
  match rs.findIdx? (fun w => w.h == h && w.discard) with
  | some i => rs.eraseIdx i
  | none => rs

/-- Write a completion of a command: DEFERRED when `final` is false (R109). The out buffer is written first. -/
def answer (h : Hdr) (status : W16) (final : Bool) (result buf : List Byte) (s : State) : State :=
  match h.path with
  | .net => sendCpl h status final result buf s
  | .ring n =>
    if discarded h s.mbx.rings[n].outstanding then
      if final then modRing n (fun r => { r with outstanding := dropDiscarded h r.outstanding }) s else s
    else
      let t := if buf.isEmpty then s else emit (.hostWrite h.bufAddr buf) s
      pushCpl n ⟨h.tag, status, final, result, h.noIntr, true, h.cplFault⟩ t

/-- The final completion of a command. -/
abbrev complete (h : Hdr) (status : W16) (result : List Byte) (s : State) : State := answer h status true result [] s

/-- The DEFERRED completion of a command. -/
abbrev defer (h : Hdr) (result : List Byte) (s : State) : State := answer h stDeferred false result [] s

/-! ### Starting a command -/

/-- How a command uses its buffer (R105): not at all, read by the device, or written with at least so many bytes. -/
inductive BufUse where
  | none
  | input
  | output (least : Nat)
  deriving DecidableEq, Repr

/-- A row of the catalogue (Tables 04-9 to 04-12): opcode, class O, paths, use of `SECTOR` and of the buffer. -/
structure Cat where
  op     : W16
  oper   : Bool
  net    : Bool
  recov  : Bool
  sector : Bool
  buf    : BufUse
  deriving DecidableEq, Repr

/-- Class O command on path B. -/
abbrev Cat.o (op : W16) (sector : Bool := false) (buf : BufUse := .none) : Cat := ⟨op, true, false, false, sector, buf⟩

/-- Class M or D command on paths B and N. -/
abbrev Cat.m (op : W16) (buf : BufUse := .none) : Cat := ⟨op, false, true, false, false, buf⟩

/-- Class M command on paths B, N and R. -/
abbrev Cat.r (op : W16) (buf : BufUse := .none) : Cat := ⟨op, false, true, true, false, buf⟩

def catMbxOpen : Cat := ⟨0x0001, false, false, false, false, .none⟩
def catDeviceInfo : Cat := .m 0x0002 (.output 128)
def catDeviceReset : Cat := .m 0x0003
def catGpioConfig : Cat := .m 0x0004
def catBootJournalRead : Cat := .r 0x0101 (.output 512)
def catBootJournalClear : Cat := .r 0x0102
def catFwInstall : Cat := .r 0x0103 .input
def catFwActivate : Cat := .r 0x0104
def catFwSvnCommit : Cat := .m 0x0105
def catDebugUnlock : Cat := .m 0x0106 .input
def catFuseBurn : Cat := .m 0x0107 .input
def catHealthRead : Cat := .m 0x0201 (.output 4096)
def catHealthConfig : Cat := .m 0x0202
def catUnitFence : Cat := .m 0x0203
def catRehearsalConfig : Cat := .m 0x0204
def catDiagRun : Cat := .m 0x0205
def catMemRegionMode : Cat := .o 0x0301
def catMemErrorRead : Cat := .m 0x0302 (.output 32)
def catMemHdmWindow : Cat := .o 0x0303
def catSectorCreate : Cat := .o 0x0401 true
def catSectorDestroy : Cat := .o 0x0402 true
def catArcLoad : Cat := .o 0x0403 true .input
def catArcStart : Cat := .o 0x0404 true
def catArcStop : Cat := .o 0x0405 true
def catPark : Cat := .o 0x0406
def catUnpark : Cat := .o 0x0407 true
def catJobOpen : Cat := .o 0x0501 true
def catJobClose : Cat := .o 0x0502
def catLayoutInstall : Cat := .o 0x0503 false .input
def catShardCommit : Cat := .o 0x0504
def catShardRead : Cat := .o 0x0505
def catStepArm : Cat := .o 0x0506
def catStepStatus : Cat := .o 0x0507
def catRuleLoad : Cat := .o 0x0508 false .input
def catMirrorBind : Cat := .o 0x0601
def catMirrorUnbind : Cat := .o 0x0602
def catRestore : Cat := .o 0x0603
def catMirrorQuery : Cat := .o 0x0604
def catObjCreate : Cat := .o 0x0701
def catObjDestroy : Cat := .o 0x0702
def catObjPromote : Cat := .o 0x0703
def catObjEvict : Cat := .o 0x0704
def catObjPin : Cat := .o 0x0705
def catObjUnpin : Cat := .o 0x0706
def catPrefetchSchedule : Cat := .o 0x0707 false .input
def catFabricConfig : Cat := .o 0x0801
def catPortStatus : Cat := .m 0x0802
def catCollectiveAbort : Cat := .o 0x0803

/-- The command catalogue (R120). -/
def catalogue : List Cat :=
  [catMbxOpen, catDeviceInfo, catDeviceReset, catGpioConfig, catBootJournalRead, catBootJournalClear, catFwInstall] ++
  [catFwActivate, catFwSvnCommit, catDebugUnlock, catFuseBurn, catHealthRead, catHealthConfig, catUnitFence] ++
  [catRehearsalConfig, catDiagRun, catMemRegionMode, catMemErrorRead, catMemHdmWindow, catSectorCreate] ++
  [catSectorDestroy, catArcLoad, catArcStart, catArcStop, catPark, catUnpark, catJobOpen, catJobClose] ++
  [catLayoutInstall, catShardCommit, catShardRead, catStepArm, catStepStatus, catRuleLoad, catMirrorBind] ++
  [catMirrorUnbind, catRestore, catMirrorQuery, catObjCreate, catObjDestroy, catObjPromote, catObjEvict] ++
  [catObjPin, catObjUnpin, catPrefetchSchedule, catFabricConfig, catPortStatus, catCollectiveAbort]

/-- The path that a command of the management network is on while the boot ROM is in recovery mode (R116). -/
def pathOk (c : Cat) (h : Hdr) (s : State) : Bool :=
  match h.path with
  | .ring _ => s.phase != .recovery
  | .net => if s.phase = .recovery then c.recov else c.net

/-- The command arrived on a ring before `MBX_OPEN` completed, and is not one that R115 then accepts. -/
def notOpen (c : Cat) (h : Hdr) (s : State) : Bool :=
  h.path != .net && !s.mbx.isOpen && c.op != 0x0001 && c.op != 0x0002

/-- The header's buffer and sector fields and the reserved bytes of `PARAM` against the catalogue row (R104, R105): the management
network ignores `BUF_ADDR`. -/
def hdrArg (c : Cat) (h : Hdr) : Bool :=
  h.reserved || paramReserved c.op h.param || (!c.sector && h.sector != 0) || (c.sector && decide (4 ≤ h.sector.toNat)) ||
  (match c.buf with
   | .none => (h.path != .net && h.bufAddr != 0) || h.bufLen != 0
   | .input => h.path != .net && h.bufAddr.toNat % 64 != 0
   | .output least => (h.path != .net && h.bufAddr.toNat % 64 != 0) || decide (h.bufLen.toNat < least))

/-- The boot ROM runs, which answers only the journal and firmware-installation commands (R61, R87): Varlux has not started in
this boot (log 9). -/
def beforeVarlux (c : Cat) (s : State) : Bool :=
  s.phase == .booting && !c.recov && (s.jrn.boot.stage[(4 : Fin 22)]).status != .ok

/-- The common checks of a command: the status it completes with before its own rules, if any (R115, R116, R119). The
order among them is DEDUCED (log 9). -/
def commonStatus (c : Cat) (h : Hdr) (s : State) : Option W16 :=
  if !pathOk c h s then some stOpcode
  else if notOpen c h s then some stState
  else if belowFloor s && c.oper then some stBelowFloor
  else if beforeVarlux c s then some stState
  else if hdrArg c h then some stArg
  else if h.bufFault && c.buf != .none && h.path != .net then some stHostAccess
  else none

/-- The commands of the ring, or of the management network, from which `h` came. -/
def queueOf (h : Hdr) (s : State) : List Waiting :=
  match h.path with
  | .ring n => s.mbx.rings[n].outstanding
  | .net => s.mbx.netOut

/-- A list of outstanding commands in fetch order lets `h` with `op` start now: it has not started, every earlier one
has, and before a fenced one none is left, among those on its side of a host-port event (R108, R113). -/
def mayStart (op : W16) (h : Hdr) (ws : List Waiting) : Bool :=
  match ws.find? (fun w => !w.started) with
  | some w => w.h == h && w.opcode == op && (!h.fence || h.path == .net || (ws.filter fun x => x.discard == w.discard).head? == some w)
  | none => false

/-- The place of a command in the acceptance order (R107); one that is no longer listed precedes none. -/
def placeOf (h : Hdr) (s : State) : Nat :=
  match (queueOf h s).find? fun w => w.h == h with
  | some w => w.place
  | none => s.mbx.accepted

/-- Mark the first command that has not started. -/
def markStart : List Waiting → List Waiting
  | [] => []
  | w :: ws => if w.started then w :: markStart ws else { w with started := true } :: ws

/-- The command starts. -/
def startCmd (h : Hdr) (s : State) : State :=
  match h.path with
  | .ring n => modRing n (fun r => { r with outstanding := markStart r.outstanding }) s
  | .net => { s with mbx.netOut := markStart s.mbx.netOut }

/-- The command is the next to start on its path, and Varlux or the boot ROM answers commands (R107, R108). -/
def cmdReady (c : Cat) (h : Hdr) (s : State) : Bool :=
  (answering s || (s.phase == .recovery && h.path == .net) || (s.phase == .booting && h.path == .net)) &&
  mayStart c.op h (queueOf h s)

/-- Run a command: the common checks, then its own effect. A row whose command is not the next to start leaves the state
unchanged (log 2). -/
def runCmd (c : Cat) (h : Hdr) (body : State → State) (s : State) : State :=
  if cmdReady c h s then
    let t := startCmd h s
    match commonStatus c h t with
    | some st => complete h st [] t
    | none => body t
  else s

/-- The bytes of an in buffer, `BUF_LEN` of them (R105). -/
def bufBytes (h : Hdr) (bs : List Byte) : List Byte := if bs.length = h.bufLen.toNat then bs else slice bs 0 h.bufLen.toNat

/-! ### Registers as they read -/

/-- `MBX_STATUS` (Table 04-2). `DEGRADED` and `REPLACE_REQ` read as `SB_STATE` has them, so a value that `SB_STATE` keeps through a warm
or cold reset (R51) shows here too, where the table's reset column says 0. DESIGN CHOICE (log 99). -/
def mbxStatus (s : State) : W32 :=
  BitVec.ofNat 32 (s.mbx.state.toNat + 8 * bit s.mbx.accept + 16 * bit s.mbx.ready + 32 * bit s.mbx.isOpen +
    64 * bit s.smb.degraded + 128 * bit s.smb.replaceReq)

/-- `AON_RESET_CAUSE` (Table 02-3). -/
def resetCause (s : State) : W32 := BitVec.ofNat 32 (s.aon.kind.toNat + 256 * s.aon.source.toNat)

/-- A register of ring pair n at offset `o` of its block (Table 04-3). -/
def ringRead (r : Ring) (o : Nat) : W32 :=
  match o with
  | 0x00 => r.sqBase.truncate 32
  | 0x04 => (r.sqBase >>> 32).truncate 32
  | 0x08 => r.cqBase.truncate 32
  | 0x0C => (r.cqBase >>> 32).truncate 32
  | 0x10 => BitVec.ofNat 32 (r.sqLog2.toNat + 16 * r.cqLog2.toNat)
  | 0x14 => BitVec.ofNat 32 (bit r.en + 2 * bit r.intrEn + 16 * r.vector.toNat)
  | 0x18 => BitVec.ofNat 32 (bit (ringRunning r) + 2 * r.err.toNat + 16 * r.sqHead)
  | _ => 0

/-- The telemetry shadow at offset `o` (Table 04-5); `TEL_PTIME_LO` without its latch. -/
def telRead (s : State) (o : Nat) : W32 :=
  if 0x20 ≤ o ∧ o < 0x40 then
    let v := s.mbx.telStep[(finOf ((o - 0x20) / 8) : Fin 4)]
    if o % 8 = 0 then v.truncate 32 else (v >>> 32).truncate 32
  else
    match o with
    | 0x00 => (now s).truncate 32
    | 0x04 => s.mbx.telPtimeHi
    | 0x08 => if s.phase = .unpowered ∨ s.phase = .inReset then 0 else s.jrn.boot.bootCount
    | 0x0C => s.mbx.telSeq
    | 0x10 => BitVec.ofNat 32 (s.mbx.telScore.toNat + 65536 * s.mbx.telConf.toNat + 2147483648 * bit s.mbx.telValid)
    | 0x14 => BitVec.ofNat 32 (s.mbx.telTemp.toNat + 65536 * s.mbx.telPower.toNat)
    | 0x40 => s.mbx.telAborts
    | 0x44 => s.mbx.telSkips
    | _ => 0

/-- A 32-bit read of BAR0 at an aligned offset (R97 to R103), but for the latch of `TEL_PTIME_LO`. -/
def bar0Read (s : State) (o : Nat) : W32 :=
  if 0x100 ≤ o ∧ o < 0x200 then ringRead s.mbx.rings[(finOf ((o - 0x100) / 0x20) : Fin 8)] (o % 0x20)
  else if 0x2000 ≤ o ∧ o < 0x2100 then
    let e := s.mbx.msix[(finOf ((o - 0x2000) / 16) : Fin 16)]
    match o % 16 with
    | 0 => e.addrLo
    | 4 => e.addrHi
    | 8 => e.data
    | _ => e.ctrl
  else if o = 0x3000 then s.mbx.pba.zeroExtend 32
  else if 0x10000 ≤ o ∧ o < 0x10100 then telRead s (o - 0x10000)
  else
    match o with
    | 0x00 => 0x000003B0
    | 0x04 => 0x00010000
    | 0x08 => s.mbx.fwVer
    | 0x0C => mbxStatus s
    | 0x10 => s.mbx.event.zeroExtend 32
    | 0x14 => s.mbx.eventEn.zeroExtend 32
    | 0x18 => s.mbx.eventVec.zeroExtend 32
    | 0x1C => resetCause s
    | _ => 0

/-- What a host read of BAR0 of a size returns (R98): a naturally aligned 32-bit read its word, an aligned 64-bit read of the
telemetry shadow or of the MSI-X table two words, and any other read the 32-bit word that contains it. A 64-bit read of `TEL_PTIME`
returns all 64 bits of powered time (R102). -/
def hostRead (o size : Nat) (s : State) : W64 :=
  if size = 8 ∧ o % 8 = 0 ∧ ((0x10000 ≤ o ∧ o < 0x10100) ∨ (0x2000 ≤ o ∧ o < 0x2100)) then
    if o = 0x10000 then now s else bar0Read s (o + 4) ++ bar0Read s o
  else (bar0Read s (o / 4 * 4)).zeroExtend 64

end Sys2Proof.Machine
end

