-- ==== Sys2Proof/Machine/Fp.lean ====
section
/-! DEFINITION. Sys2Proof/Machine/Fp.lean: number formats and roundings (07 R199-R218), the counter-based generator
(08 R227) and FP32 lane arithmetic (09 R242). A finite value is an exact integer m times 2^e. -/

namespace Sys2Proof.Machine

/-! ### Formats -/

/-- Floating-point parameters of an encoding (Table 07-1): mantissa width, bias, largest finite exponent field. -/
structure FpFmt where
  m    : Nat
  bias : Int
  emax : Nat
  /-- Largest mantissa at `emax`. -/
  mtop : Nat
  /-- Width of the encoding in bits. -/
  w    : Nat
  deriving DecidableEq, Repr

def fmtE4M3 : FpFmt := ⟨3, 7, 15, 6, 8⟩
def fmtE5M2 : FpFmt := ⟨2, 15, 30, 3, 8⟩
def fmtE2M3 : FpFmt := ⟨3, 1, 3, 7, 6⟩
def fmtE3M2 : FpFmt := ⟨2, 3, 7, 3, 6⟩
def fmtE2M1 : FpFmt := ⟨1, 1, 3, 1, 4⟩
def fmtBF16 : FpFmt := ⟨7, 127, 254, 127, 16⟩
def fmtFP32 : FpFmt := ⟨23, 127, 254, 0x7FFFFF, 32⟩

/-- The meaning of an encoding after the input flush (R201): NaN, an infinity, or a finite m * 2^e. -/
inductive Val where
  | nan
  | inf (neg : Bool)
  | fin (m : Int) (e : Int)
  deriving DecidableEq, Repr

/-- The value +0. -/
abbrev Val.zero : Val := .fin 0 0

/-- Is the value a finite zero. -/
def Val.isZero : Val → Bool
  | .fin m _ => m = 0
  | _ => false

/-- Decode an encoding of a floating-point format (Table 07-1), subnormals and -0 reading as +0. -/
def FpFmt.dec (f : FpFmt) (c : Nat) : Val :=
  let mm := c % 2 ^ f.m
  let ee := c / 2 ^ f.m % 2 ^ (f.w - 1 - f.m)
  let neg := c / 2 ^ (f.w - 1) % 2 = 1
  if ee = 0 then .fin 0 0
  else if f.emax < ee then (if mm = 0 then .inf neg else .nan)
  else if ee = f.emax ∧ f.mtop < mm then .nan
  else .fin (if neg then -((2 ^ f.m + mm : Nat) : Int) else ((2 ^ f.m + mm : Nat) : Int)) ((ee : Int) - f.bias - f.m)

/-- Decode FP32. -/
def fp32 (c : W32) : Val := fmtFP32.dec c.toNat

/-- Decode BF16. -/
def bf16 (c : W16) : Val := fmtBF16.dec c.toNat

/-- Decode an MXINT8 element (R199): i * 2^-6. -/
def int8 (c : Byte) : Val := .fin c.toInt (-6)

/-- Decode an element code of `FORMAT` (Table 05-3), without its scale; BF16 and FP32 included. -/
def decElem (fmt : BitVec 4) (c : Nat) : Val :=
  match fmt with
  | 0x0 => fmtE4M3.dec c
  | 0x1 => fmtE5M2.dec c
  | 0x2 => fmtE2M3.dec c
  | 0x3 => fmtE3M2.dec c
  | 0x4 => fmtE2M1.dec c
  | 0x5 => int8 (BitVec.ofNat 8 c)
  | 0x6 => fmtBF16.dec c
  | _ => fmtFP32.dec c

/-- Element width in bits (Table 05-3). -/
def elemBits (fmt : BitVec 4) : Nat :=
  match fmt with
  | 0x0 | 0x1 | 0x5 => 8
  | 0x2 | 0x3 => 6
  | 0x4 => 4
  | 0x6 => 16
  | _ => 32

/-- The format is scaled (Table 05-3). -/
def isScaled (fmt : BitVec 4) : Bool := fmt.toNat ≤ 5

/-- The `FORMAT` code is not reserved (Table 05-3). -/
def fmtKnown (fmt : BitVec 4) : Bool := fmt.toNat ≤ 7

/-- The format exponent F (Table 08-2). -/
def fmtExp (fmt : BitVec 4) : Int :=
  match fmt with
  | 0x0 => 8
  | 0x1 => 15
  | 0x2 => 2
  | 0x3 => 4
  | 0x4 => 2
  | _ => 0

/-! ### Rounding -/

/-- How a result is rounded: TRUNC (R208), RNE (R210), SR with a word (R211). -/
inductive Rnd where
  | trunc
  | rne
  | sr (u : W32)
  deriving DecidableEq, Repr

/-- Round the magnitude n * 2^e to a multiple q of 2^t, answering q. -/
def roundAt (r : Rnd) (n : Nat) (e t : Int) : Nat :=
  if t ≤ e then n * 2 ^ (e - t).toNat
  else
    let k := (t - e).toNat
    let q := n / 2 ^ k
    let rem := n % 2 ^ k
    match r with
    | .trunc => q
    | .rne => if 2 * rem > 2 ^ k ∨ (2 * rem = 2 ^ k ∧ q % 2 = 1) then q + 1 else q
    | .sr u => if u.toNat ≥ rem * 2 ^ 32 / 2 ^ k then q else q + 1

/-- What a finite overflow becomes (Table 07-5, R208, R213). -/
inductive Ovf where
  | inf
  | largest
  deriving DecidableEq, Repr

/-- Encode sign, exponent field and mantissa. -/
def FpFmt.pack (f : FpFmt) (neg : Bool) (ee mm : Nat) : Nat :=
  bit neg * 2 ^ (f.w - 1) + ee * 2 ^ f.m + mm

/-- The encoding of ±infinity; E4M3 has none and the formats without one use their largest normal (Table 07-5). -/
def FpFmt.infCode (f : FpFmt) (neg : Bool) : Nat :=
  if f = fmtE4M3 then 0x7F
  else if f = fmtE2M3 ∨ f = fmtE3M2 ∨ f = fmtE2M1 then f.pack neg f.emax f.mtop
  else f.pack neg (f.emax + 1) 0

/-- The canonical NaN (R202); formats without a NaN take +0 (Table 07-5). -/
def FpFmt.nanCode (f : FpFmt) : Nat :=
  if f = fmtFP32 then 0x7FC00000
  else if f = fmtBF16 then 0x7FC0
  else if f = fmtE4M3 ∨ f = fmtE5M2 then 0x7F
  else 0

/-- Round the exact m * 2^e to the format with unbounded exponent, then flush (R201) and overflow. The second
component says that the magnitude exceeded the largest normal. -/
def FpFmt.round (f : FpFmt) (r : Rnd) (o : Ovf) (m : Int) (e : Int) : Nat × Bool :=
  if m = 0 then (0, false)
  else
    let n := m.natAbs
    let neg := m < 0
    let t : Int := e + (Nat.log2 n : Int) - f.m
    let q := roundAt r n e t
    let (q, t) := if q = 2 ^ (f.m + 1) then (2 ^ f.m, t + 1) else (q, t)
    let ee : Int := t + f.m + f.bias
    if ee < 1 then (0, false)
    else
      let ee := ee.toNat
      if f.emax < ee ∨ (ee = f.emax ∧ f.mtop < q - 2 ^ f.m) then
        (match o with
         | .inf => f.infCode neg
         | .largest => f.pack neg f.emax f.mtop, true)
      else (f.pack neg ee (q - 2 ^ f.m), false)

/-- Round to FP32: overflow to the largest normal for TRUNC (R208), to infinity otherwise (R213, R242). -/
def toFp32 (r : Rnd) (v : Val) : W32 :=
  match v with
  | .nan => 0x7FC00000
  | .inf neg => BitVec.ofNat 32 (fmtFP32.infCode neg)
  | .fin m e => BitVec.ofNat 32 (fmtFP32.round r (if r = .trunc then .largest else .inf) m e).1

/-- FP32 to BF16 (Table 07-5). -/
def toBf16 (r : Rnd) (v : Val) : W16 :=
  match v with
  | .nan => 0x7FC0
  | .inf neg => BitVec.ofNat 16 (fmtBF16.infCode neg)
  | .fin m e => BitVec.ofNat 16 (fmtBF16.round r .inf m e).1

/-- The exact sum of two values, special values as IEEE 754 (R208). -/
def Val.add : Val → Val → Val
  | .nan, _ => .nan
  | _, .nan => .nan
  | .inf a, .inf b => if a = b then .inf a else .nan
  | .inf a, _ => .inf a
  | _, .inf b => .inf b
  | .fin m e, .fin m' e' =>
    if m = 0 then .fin m' e' else if m' = 0 then .fin m e
    else
      let t := min e e'
      .fin (m * 2 ^ (e - t).toNat + m' * 2 ^ (e' - t).toNat) t

/-- The exact product, ±Inf times 0 giving NaN (R242). -/
def Val.mul : Val → Val → Val
  | .nan, _ => .nan
  | _, .nan => .nan
  | .inf a, .inf b => .inf (a != b)
  | .inf a, .fin m _ => if m = 0 then .nan else .inf (a != decide (m < 0))
  | .fin m _, .inf b => if m = 0 then .nan else .inf (b != decide (m < 0))
  | .fin m e, .fin m' e' => .fin (m * m') (e + e')

/-- Negation; zero stays +0. -/
def Val.neg : Val → Val
  | .nan => .nan
  | .inf a => .inf (!a)
  | .fin m e => .fin (-m) e

/-- Magnitude. -/
def Val.abs : Val → Val
  | .nan => .nan
  | .inf _ => .inf false
  | .fin m e => .fin (m.natAbs : Int) e

/-- x < y for values that are not NaN; false with a NaN. -/
def Val.lt : Val → Val → Bool
  | .nan, _ => false
  | _, .nan => false
  | .inf a, .inf b => a && !b
  | .inf a, .fin _ _ => a
  | .fin _ _, .inf b => !b
  | .fin m e, .fin m' e' =>
    let t := min e e'
    decide (m * 2 ^ (e - t).toNat < m' * 2 ^ (e' - t).toNat)

/-- x = y as numbers; false with a NaN. -/
def Val.eqv (x y : Val) : Bool :=
  match x, y with
  | .nan, _ => false
  | _, .nan => false
  | _, _ => !(x.lt y) && !(y.lt x)

/-- Multiply by 2^k. -/
def Val.scale (k : Int) : Val → Val
  | .fin m e => .fin m (e + k)
  | v => v

/-- Is the value NaN or infinite. -/
def Val.special : Val → Bool
  | .fin _ _ => false
  | _ => true

/-! ### FP32 operations, each rounded once with RNE (R242, R346) -/

def fadd (a b : W32) : W32 := toFp32 .rne ((fp32 a).add (fp32 b))
def fsub (a b : W32) : W32 := toFp32 .rne ((fp32 a).add (fp32 b).neg)
def fmul (a b : W32) : W32 := toFp32 .rne ((fp32 a).mul (fp32 b))
def ffma (a b c : W32) : W32 := toFp32 .rne (((fp32 a).mul (fp32 b)).add (fp32 c))
def ffnma (a b c : W32) : W32 := toFp32 .rne ((fp32 c).add ((fp32 a).mul (fp32 b)).neg)

/-- Canonical copy of an FP32 value: flush and canonical NaN (Table 07-5, FP32 to FP32). -/
def fcanon (a : W32) : W32 := toFp32 .rne (fp32 a)

def fmax (a b : W32) : W32 :=
  match fp32 a, fp32 b with
  | .nan, _ => 0x7FC00000
  | _, .nan => 0x7FC00000
  | x, y => if x.lt y then fcanon b else fcanon a

def fmin (a b : W32) : W32 :=
  match fp32 a, fp32 b with
  | .nan, _ => 0x7FC00000
  | _, .nan => 0x7FC00000
  | x, y => if y.lt x then fcanon b else fcanon a

def fabs (a : W32) : W32 := toFp32 .rne (fp32 a).abs
def fneg (a : W32) : W32 := toFp32 .rne (fp32 a).neg

/-- The FP32 mask 1.0 or +0. -/
def fmask (b : Bool) : W32 := if b then 0x3F800000 else 0

/-- Integer square root, structural: bits `fuel - 1` down to 0 of the root. -/
def isqrt (n : Nat) : (fuel root : Nat) → Nat
  | 0, r => r
  | k + 1, r => if (r + 2 ^ k) * (r + 2 ^ k) ≤ n then isqrt n k (r + 2 ^ k) else isqrt n k r

/-- The integer square root of n. -/
def natSqrt (n : Nat) : Nat := isqrt n (Nat.log2 n / 2 + 1) 0

/-- Correctly rounded division (R346): a quotient of 2^60 relative precision with a sticky bit decides every tie. -/
def fdiv (a b : W32) : W32 :=
  match fp32 a, fp32 b with
  | .nan, _ => 0x7FC00000
  | _, .nan => 0x7FC00000
  | .inf _, .inf _ => 0x7FC00000
  | .inf x, .fin m _ => BitVec.ofNat 32 (fmtFP32.infCode (x != decide (m < 0)))
  | .fin _ _, .inf _ => 0
  | .fin m e, .fin m' e' =>
    if m' = 0 then (if m = 0 then 0x7FC00000 else BitVec.ofNat 32 (fmtFP32.infCode (decide (m < 0))))
    else if m = 0 then 0
    else
      let n := m.natAbs * 2 ^ 60
      let q := n / m'.natAbs * 2 + bit (n % m'.natAbs ≠ 0)
      let s : Int := if decide (m < 0) = decide (m' < 0) then 1 else -1
      toFp32 .rne (.fin (s * q) (e - e' - 61))

/-- Correctly rounded square root (R346); NaN below zero. -/
def fsqrt (a : W32) : W32 :=
  match fp32 a with
  | .nan => 0x7FC00000
  | .inf neg => if neg then 0x7FC00000 else 0x7F800000
  | .fin m e =>
    if m = 0 then 0 else if m < 0 then 0x7FC00000
    else
      let k : Int := if e % 2 = 0 then 60 else 61
      let n := m.natAbs * 2 ^ k.toNat
      let q := natSqrt n
      toFp32 .rne (.fin ((2 * q + bit (q * q ≠ n) : Nat) : Int) ((e - k) / 2 - 1))

/-! ### Conversions (Table 07-5) -/

/-- Convert an FP32 source to an element code of `fmt` under scale byte X; the flag says a saturation counted. -/
def toElem (fmt : BitVec 4) (X : Byte) (x : W32) : Nat × Bool :=
  let v := fp32 x
  let fp := fun (f : FpFmt) =>
    match v.scale (127 - X.toNat) with
    | .nan => (f.nanCode, false)
    | .inf neg => (f.infCode neg, false)
    | .fin m e => f.round .rne .largest m e
  match fmt with
  | 0x0 => fp fmtE4M3
  | 0x1 => fp fmtE5M2
  | 0x2 => fp fmtE2M3
  | 0x3 => fp fmtE3M2
  | 0x4 => fp fmtE2M1
  | 0x5 =>
    match v.scale (127 - X.toNat) with
    | .nan => (0, false)
    | .inf neg => (if neg then 0x81 else 0x7F, false)
    | .fin m e =>
      let q := roundAt .rne m.natAbs e (-6)
      if q > 127 then (if m < 0 then 0x81 else 0x7F, true)
      else ((BitVec.ofInt 8 (if m < 0 then -(q : Int) else q)).toNat, false)
  | 0x6 => ((toBf16 .rne v).toNat, false)
  | _ => ((toFp32 .rne v).toNat, false)

/-- The value of an element of a scaled format under scale byte X (R200); BF16 and FP32 take no scale. -/
def elemVal (fmt : BitVec 4) (X : Byte) (c : Nat) : Val :=
  if isScaled fmt then (if X = 0xFF then .nan else (decElem fmt c).scale (X.toNat - 127)) else decElem fmt c

/-- Convert an element to FP32 (VE.LD, ACC.LOAD; Table 07-5). -/
def elemToFp32 (fmt : BitVec 4) (X : Byte) (c : Nat) : W32 := toFp32 .rne (elemVal fmt X c)

/-- Expansion of an MXFP4 weight to E4M3 (Table 07-2). -/
def expandFp4 (c : Nat) : Nat :=
  let mag := [0x00, 0x00, 0x38, 0x3C, 0x40, 0x44, 0x48, 0x4C].getD (c % 8) 0
  if mag = 0 then 0 else mag + 128 * (c / 8 % 2)

/-! ### Philox-4x32-10 (R227) -/

/-- One round of Philox on counter words and key. -/
def philoxRound (c : W32 × W32 × W32 × W32) (k0 k1 : W32) : W32 × W32 × W32 × W32 :=
  let p0 := c.1.toNat * 0xD2511F53
  let p1 := c.2.2.1.toNat * 0xCD9E8D57
  (BitVec.ofNat 32 (p1 / 2 ^ 32) ^^^ c.2.1 ^^^ k0, BitVec.ofNat 32 p1,
    BitVec.ofNat 32 (p0 / 2 ^ 32) ^^^ c.2.2.2 ^^^ k1, BitVec.ofNat 32 p0)

/-- `n` rounds with the key increments of R227. -/
def philoxRounds : Nat → W32 × W32 × W32 × W32 → W32 → W32 → W32 × W32 × W32 × W32
  | 0, c, _, _ => c
  | n + 1, c, k0, k1 => philoxRounds n (philoxRound c k0 k1) (k0 + 0x9E3779B9) (k1 + 0xBB67AE85)

/-- The random word of element position `e` at a use site (R227): seed, tensor id, purpose, step. -/
def rword (seed : W64) (tensor : BitVec 24) (purpose : Byte) (step : W64) (e : Nat) : W32 :=
  let q := e / 4
  let c := (BitVec.ofNat 32 q, BitVec.ofNat 32 (q / 2 ^ 32), step.truncate 32,
    BitVec.ofNat 32 (tensor.toNat * 256 + purpose.toNat))
  let x := philoxRounds 10 c (seed.truncate 32) ((seed >>> 32).truncate 32)
  match e % 4 with
  | 0 => x.1
  | 1 => x.2.1
  | 2 => x.2.2.1
  | _ => x.2.2.2

/-- A uniform value in [0, 1) from a word (R247, Table 13-6): floor(u / 2^8) * 2^-24. -/
def uniform (u : W32) : W32 := toFp32 .rne (.fin ((u.toNat / 256 : Nat) : Int) (-24))

/-! ### The matrix array's sums (06 R179, 07 R205-R217) -/

/-- Segment sum of 32 operand pairs (R205, R206): codes are decoded values, scales are bytes; 127 for BF16. -/
def segmentSum (ps : List (Val × Val)) (xa xw : Byte) : Val :=
  let prods := ps.map fun p => p.1.mul p.2
  if xa = 0xFF ∨ xw = 0xFF ∨ prods.any (fun v => v = .nan) then .nan
  else if prods.any (fun v => v = .inf true) then
    (if prods.any (fun v => v = .inf false) then .nan else .inf true)
  else if prods.any (fun v => v = .inf false) then .inf false
  else
    let fins := prods.filterMap fun v => match v with
      | .fin m e => if m = 0 then none else some (m, e)
      | _ => none
    match fins with
    | [] => .fin 0 0
    | (m, e) :: r =>
      let top := r.foldl (fun t p => max t (p.2 + (Nat.log2 p.1.natAbs : Int))) (e + (Nat.log2 m.natAbs : Int))
      let acc := fins.foldl (fun s p =>
        let q := (roundAt .trunc p.1.natAbs p.2 (top - 29) : Int)
        s + (if p.1 < 0 then -q else q)) (0 : Int)
      fp32 (toFp32 .trunc (.fin acc (top - 29 + xa.toNat + xw.toNat - 254)))

/-- The travelling sum over segments (R179). -/
def travel (segs : List Val) : W32 :=
  segs.foldl (fun t s => toFp32 .trunc ((fp32 t).add s)) 0

/-- The block sum of Plexis P2 emulation (R217): 16 blocks of 8 exact products, one RNE each. -/
def p2Sum (blocks : List (List (Val × Val))) : W32 :=
  blocks.foldl (fun t b => toFp32 .rne ((fp32 t).add (b.foldl (fun s p => s.add (p.1.mul p.2)) .zero))) 0

/-- acc_add (R213). -/
def accAdd (r : Rnd) (x t : W32) : W32 := toFp32 r ((fp32 x).add (fp32 t))

/-! ### Vector functions with sequences (09 R244-R251) -/

/-- Exponent as an exact FP32 integer (GETEXP). -/
def fgetexp (a : W32) : W32 :=
  match fp32 a with
  | .nan => 0x7FC00000
  | .inf _ => 0x7F800000
  | .fin m _ => if m = 0 then 0xFF800000 else toFp32 .rne (.fin ((a.toNat / 2 ^ 23 % 256 : Nat) - 127) 0)

/-- Unbiased exponent of a finite nonzero FP32. -/
def expOf (a : W32) : Int := ((a.toNat / 2 ^ 23 % 256 : Nat) : Int) - 127

/-- Mantissa in [1, 2) (GETMANT). -/
def fgetmant (a : W32) : W32 :=
  match fp32 a with
  | .fin m _ => if m = 0 then 0 else BitVec.ofNat 32 (127 * 2 ^ 23 + a.toNat % 2 ^ 23)
  | _ => 0x7FC00000

/-- Round an exact value to an integer. -/
def roundInt (r : Rnd) (m : Int) (e : Int) : Int :=
  let q := (roundAt r m.natAbs e 0 : Int)
  if m < 0 then -q else q

/-- RNDI. -/
def frndi (a : W32) : W32 :=
  match fp32 a with
  | .fin m e => toFp32 .rne (.fin (roundInt .rne m e) 0)
  | v => toFp32 .rne v

/-- FLOOR. -/
def ffloor (a : W32) : W32 :=
  match fp32 a with
  | .fin m e =>
    let t := roundInt .trunc m e
    let exact := (m.natAbs * 2 ^ (max e 0).toNat) % 2 ^ (max (-e) 0).toNat = 0
    toFp32 .rne (.fin (if m < 0 ∧ ¬ exact then t - 1 else t) 0)
  | v => toFp32 .rne v

/-- Multiply by 2^n with one rounding. -/
def fldexpI (a : W32) (n : Int) : W32 := toFp32 .rne ((fp32 a).scale n)

/-- LDEXP: n is RNDI(B) clamped to -512..512; a NaN in B gives NaN; an infinite B clamps. -/
def fldexp (a b : W32) : W32 :=
  match fp32 b with
  | .nan => 0x7FC00000
  | .inf neg => fldexpI a (if neg then -512 else 512)
  | .fin m e => fldexpI a (max (-512) (min 512 (roundInt .rne m e)))

/-- Nearest integer of n / d for positive numbers; no tie occurs where it is used. -/
def nearest (n d : Nat) : Nat := (2 * n + d) / (2 * d)

/-- seed_rcp (R249): round(1024 / c_i) / 1024 with c_i = (257 + 2 i) / 256. -/
def seedRcp (m : W32) : W32 :=
  let i := m.toNat / 2 ^ 16 % 128
  toFp32 .rne (.fin (nearest (1024 * 256) (257 + 2 * i) : Nat) (-10))

/-- seed_rsqrt (R250): round(1024 / sqrt c_j) / 1024 with c_j = (129 + 2 j') / 128 * 2^odd. The largest r whose
(2 r - 1)^2 c_j does not exceed 2048^2 is the nearest integer. -/
def seedRsqrt (odd : Bool) (g : W32) : W32 :=
  let j := g.toNat / 2 ^ 17 % 64
  let c := (129 + 2 * j) * (if odd then 2 else 1)
  let h := natSqrt (2048 * 2048 * 128 / c)
  toFp32 .rne (.fin (((h + 1) / 2 : Nat) : Int) (-10))

/-- RCP (R249). -/
def frcp (x : W32) : W32 :=
  match fp32 x with
  | .nan => 0x7FC00000
  | .inf _ => 0
  | .fin v _ =>
    if v = 0 then 0x7F800000
    else
      let k := expOf x
      let m := fgetmant x
      let r := seedRcp m
      let e := ffnma m r 0x3F800000
      let r := ffma r e r
      let e := ffnma m r 0x3F800000
      let r := ffma r e r
      let y := fp32 r
      toFp32 .rne ((if v < 0 then y.neg else y).scale (-k))

/-- RSQRT (R250). -/
def frsqrt (x : W32) : W32 :=
  match fp32 x with
  | .nan => 0x7FC00000
  | .inf neg => if neg then 0x7FC00000 else 0
  | .fin v _ =>
    if v = 0 then 0x7F800000 else if v < 0 then 0x7FC00000
    else
      let k := expOf x
      let g := fgetmant x
      let odd := k % 2 ≠ 0
      let m := if odd then fldexpI g 1 else g
      let k := if odd then k - 1 else k
      let y := seedRsqrt odd g
      let it := fun (y : W32) =>
        let t := fmul y y
        let e := ffnma m t 0x3F800000
        ffma (fldexpI y (-1)) e y
      fldexpI (it (it y)) (-(k / 2))

/-- EXP (R251, Table 09-2). -/
def fexp (x : W32) : W32 :=
  match fp32 x with
  | .nan => 0x7FC00000
  | v =>
    if !(v.lt (fp32 0x42B20000)) then 0x7F800000
    else if !((fp32 0xC2B00000).lt v) then 0
    else
      let t := fmul x 0x3FB8AA3B
      let n := frndi t
      let r := ffnma n 0x3F317200 x
      let r := ffnma n 0x35BFBE8E r
      let p := [0x3AB60B61, 0x3C088889, 0x3D2AAAAB, 0x3E2AAAAB, 0x3F000000, 0x3F800000, 0x3F800000].foldl
        (fun p (c : W32) => ffma p r c) 0x39500D01
      fldexp p n

/-- The biased FP32 exponent field of a finite nonzero value, 0 otherwise. -/
def bexp (x : W32) : Nat :=
  match fp32 x with
  | .fin m _ => if m = 0 then 0 else x.toNat / 2 ^ 23 % 256
  | _ => 0

end Sys2Proof.Machine
end

