-- ==== Sys2Proof/Machine/Operands.lean ====
section
/-! DEFINITION. Sys2Proof/Machine/Operands.lean: every operand form of the facet instructions: operand bytes (R141), the
use of each field (Table 05-8), tile descriptors (R131 to R135), and the elements of tiles in the scratchpad. -/

namespace Sys2Proof.Machine

/-! ### Facet error codes (Table 05-12) -/

def feOpcode : Byte := 0x01
def feOperand : Byte := 0x02
def feFormat : Byte := 0x03
def feLoop : Byte := 0x04
def feDpa : Byte := 0x05
def feSector : Byte := 0x06
def feGranule : Byte := 0x07
def feImemEcc : Byte := 0x08
def feSpmEcc : Byte := 0x09
def feArrayEcc : Byte := 0x0A

/-! ### Fields of an instruction -/

/-- What Table 05-8 allows in an operand byte. -/
inductive Opd where
  | no
  | s
  | t
  | a
  | v
  | vs
  deriving DecidableEq, Repr

/-- The use of each field by one instruction (Table 05-8): operand files, and the bits that are not reserved. -/
structure Use where
  fl  : Byte := 0
  d   : Opd := .no
  a   : Opd := .no
  b   : Opd := .no
  c   : Opd := .no
  x   : W16 := 0
  imm : W64 := 0
  deriving DecidableEq, Repr

/-- Register file of an operand byte. -/
def opFile (o : Byte) : Nat := o.toNat / 32
/-- Register index of an operand byte. -/
def opIdx (o : Byte) : Nat := o.toNat % 32

/-- The operand byte names a file that its use allows (R141). -/
def fileOk (u : Opd) (o : Byte) : Bool :=
  match u with
  | .no => o == 0
  | .s => opFile o == 0
  | .t => opFile o == 1
  | .a => opFile o == 2
  | .v => opFile o == 3
  | .vs => opFile o == 3 || opFile o == 0

/-- The index lies within its file (R141). -/
def idxOk (o : Byte) : Bool :=
  match opFile o with
  | 1 => opIdx o < 16
  | 2 => opIdx o < 8
  | 3 => opIdx o < 4
  | _ => true

/-- The encoding checks of R141 and R142: reserved bits and files raise FE_OPCODE, an index beyond its file FE_OPERAND. -/
def useError (u : Use) (i : Ins) : Option Byte :=
  if i.fl &&& ~~~ u.fl ≠ 0 ∨ i.x &&& ~~~ u.x ≠ 0 ∨ i.imm &&& ~~~ u.imm ≠ 0 then some feOpcode
  else if !(fileOk u.d i.d && fileOk u.a i.a && fileOk u.b i.b && fileOk u.c i.c) then some feOpcode
  else if !(idxOk i.d && idxOk i.a && idxOk i.b && idxOk i.c) then some feOperand
  else none

/-- Scalar register an operand byte names. -/
def sReg (f : Facet) (o : Byte) : W64 := f.s[(finOf (opIdx o) : Fin 32)]
/-- Tile descriptor an operand byte names. -/
def tReg (f : Facet) (o : Byte) : BitVec 128 := f.t[(finOf (opIdx o) : Fin 16)]
/-- Accumulator tile number of an operand byte. -/
def aIdx (o : Byte) : Fin 8 := finOf (opIdx o)
/-- VE buffer number of an operand byte. -/
def vIdx (o : Byte) : Fin 4 := finOf (opIdx o)

/-- Write a scalar register. -/
def setS (f : Facet) (o : Byte) (v : W64) : Facet := { f with s := vupd f.s (finOf (opIdx o)) fun _ => v }

/-- The bits of a descriptor that are not reserved (Table 05-2). -/
def tdMask : BitVec 128 := ~~~ (BitVec.ofNat 128 (7 * 2 ^ 69 + 7 * 2 ^ 117))

/-- Write a tile descriptor; reserved bits ignore what is written (Table 00-3). -/
def setT (f : Facet) (o : Byte) (v : BitVec 128) : Facet := { f with t := vupd f.t (finOf (opIdx o)) fun _ => v &&& tdMask }

/-! ### Tile descriptors (Table 05-2) -/

/-- Bits [hi:lo] of a descriptor as a number. -/
def tdBits (td : BitVec 128) (lo n : Nat) : Nat := td.toNat / 2 ^ lo % 2 ^ n

def tdBase (td : BitVec 128) : Nat := tdBits td 0 24
def tdScaleBase (td : BitVec 128) : Nat := tdBits td 24 24
def tdStride (td : BitVec 128) : Nat := tdBits td 48 16
def tdFmt (td : BitVec 128) : BitVec 4 := BitVec.ofNat 4 (tdBits td 64 4)
def tdSaxis (td : BitVec 128) : Bool := tdBits td 68 1 = 1
def tdRows (td : BitVec 128) : Nat := tdBits td 72 8 + 1
def tdCols (td : BitVec 128) : Nat := tdBits td 80 8 + 1
def tdTensor (td : BitVec 128) : BitVec 24 := BitVec.ofNat 24 (tdBits td 88 24)
def tdStatSlot (td : BitVec 128) : Fin 16 := finOf (tdBits td 112 4)
def tdStatEn (td : BitVec 128) : Bool := tdBits td 116 1 = 1
def tdScaleSlot (td : BitVec 128) : Nat := tdBits td 120 8

/-- Padded row length in bytes (R133). -/
def tdPadded (td : BitVec 128) : Nat := roundUp (tdCols td * elemBits (tdFmt td)) 256 / 8

/-- Bytes of the scale block: four per row, or per column with `SAXIS` 1 (R134). -/
def tdScaleLen (td : BitVec 128) : Nat := 4 * (if tdSaxis td then tdCols td else tdRows td)

/-- Size of the scratchpad. -/
def spmEnd : Nat := 0x300000

/-- The checks of a descriptor when an instruction uses it (R132, R135). -/
def tdError (td : BitVec 128) : Option Byte :=
  if !fmtKnown (tdFmt td) then some feFormat
  else if 128 < tdRows td ∨ 128 < tdCols td then some feOperand
  else if tdBase td % 64 ≠ 0 ∨ tdStride td % 32 ≠ 0 ∨ tdStride td < tdPadded td then some feOperand
  else if spmEnd < tdBase td + (tdRows td - 1) * tdStride td + tdPadded td then some feOperand
  else if isScaled (tdFmt td) ∧ (tdScaleBase td % 64 ≠ 0 ∨ spmEnd < tdScaleBase td + tdScaleLen td) then some feOperand
  else none

/-- Bits [lo + w - 1 : lo] of a little-endian byte string that starts at scratchpad address `a` (R133). -/
def spmBits (m : List Host.Cell) (a lo w : Nat) : Nat :=
  leNat (mread m (a + lo / 8) ((lo % 8 + w + 7) / 8)) / 2 ^ (lo % 8) % 2 ^ w

/-- Code of element (i, j) of a tile (R133). -/
def tileCode (m : List Host.Cell) (td : BitVec 128) (i j : Nat) : Nat :=
  spmBits m (tdBase td + i * tdStride td) (j * elemBits (tdFmt td)) (elemBits (tdFmt td))

/-- Scale byte of group g of row or column i (R134). -/
def tileScale (m : List Host.Cell) (td : BitVec 128) (i g : Nat) : Byte := mget m (tdScaleBase td + 4 * i + g)

/-- Scale byte that applies to element (i, j); 127 for a format without scales. -/
def elemScale (m : List Host.Cell) (td : BitVec 128) (i j : Nat) : Byte :=
  if !isScaled (tdFmt td) then 127
  else if tdSaxis td then tileScale m td j (i / 32) else tileScale m td i (j / 32)

/-- The bytes of one row whose element codes are given, in order; padding bits are zero. -/
def packRow (w : Nat) (codes : List Nat) : List Byte :=
  leBytes ((codes.length * w + 7) / 8) ((codes.foldr (fun c (p : Nat) => c % 2 ^ w + 2 ^ w * p)) 0)

/-- Write one row of element codes of a tile: the bits beyond the last column in its last byte keep their content. -/
def putRow (m : List Host.Cell) (td : BitVec 128) (i : Nat) (codes : List Nat) : List Host.Cell :=
  let w := elemBits (tdFmt td)
  let a := tdBase td + i * tdStride td
  let bits := codes.length * w
  let bytes := packRow w codes
  let bytes := if bits % 8 = 0 then bytes else
    bytes.dropLast ++ [BitVec.ofNat 8 ((bytes.getLastD 0).toNat + (mget m (a + bits / 8)).toNat / 2 ^ (bits % 8) * 2 ^ (bits % 8))]
  mwrite m a bytes

/-- Write one scale byte into every byte of a tile's scale block (R196). -/
def putScales (m : List Host.Cell) (td : BitVec 128) (x : Byte) : List Host.Cell :=
  mwrite m (tdScaleBase td) (List.replicate (tdScaleLen td) x)

/-- FP32 values of a tile, by index 128 * i + j, zero values not listed. -/
def tileFp32 (m : List Host.Cell) (td : BitVec 128) : List (Nat × W32) :=
  (List.range (tdRows td)).flatMap fun i => (List.range (tdCols td)).filterMap fun j =>
    let v := elemToFp32 (tdFmt td) (elemScale m td i j) (tileCode m td i j)
    if v = 0 then none else some (128 * i + j, v)

/-- FP32 bits of an FP32 or BF16 tile, BF16 widened exactly, bits unchanged (R155, R195). -/
def tileBits (m : List Host.Cell) (td : BitVec 128) (i j : Nat) : W32 :=
  if tdFmt td = 0x6 then BitVec.ofNat 32 (tileCode m td i j * 65536) else BitVec.ofNat 32 (tileCode m td i j)

/-! ### Scratchpad spans and DPAs (R157) -/

/-- A scratchpad span is aligned and lies below 0x30_0000. -/
def spanOk (a n : Nat) : Bool := a % 32 == 0 && n % 32 == 0 && decide (a + n ≤ spmEnd)

/-- FE_DPA's detail: DPA[47:30] (Table 05-4). -/
def dpaDetail (dpa : Nat) : Nat := dpa / 2 ^ 30 % 2 ^ 18

/-- The check of a list of DPA ranges: the first that leaves LPDDR6. -/
def dpaError (rs : List (Nat × Nat)) : Option Nat := (rs.find? fun r => memEnd < r.1 + r.2).map fun r => dpaDetail r.1

/-- The granules that hold working copies of the source job of an evaluation sector's Arc (R267). -/
def evalGranules (s : State) (k : Fin 4) : List Nat :=
  let x := s.sectors[k]
  match x.eval, x.arc with
  | true, some a =>
    match s.jobs.find? (fun j => j.id == a.sourceJob) with
    | some j =>
      match j.layout with
      | some l => (l.shards.filter fun sh => sh.owner == l.rank).flatMap fun sh =>
          match s.objs.find? (fun o => o.id == sh.workObj) with
          | some o => if o.tier = 0 then granulesOf o.loc o.size else []
          | none => []
      | none => []
    | none => []
  | _, _ => []

/-- The sector-boundary check of a facet's DMA (R94, R158, R267): every granule of the range is held by the facet's sector
and is not absent; a read may also reach the working copies of an evaluation sector's source job. -/
def grantOk (s : State) (f : Facet) (write : Bool) (a n : Nat) : Bool :=
  (granulesOf a n).all fun g => !absent s g &&
    match f.sector with
    | some k => ownerOf s g == some (.sector k) || (!write && (evalGranules s k).contains g)
    | none => false

end Sys2Proof.Machine
end

