-- ==== Sys2Proof/Machine/FacetOps.lean ====
section
/-! DEFINITION. Sys2Proof/Machine/FacetOps.lean: issue (R130, R137, R142, R146), facet errors (R173), queues (Table 05-5),
and the fences of columns that facet errors cause (R450). -/

namespace Sys2Proof.Machine

/-- Column of a facet (R126). -/
def facetCol (f : Fin 96) : Nat := f.val / 8

/-- Facets of a mask of columns. -/
def facetsOf (cols : BitVec 12) : List (Fin 96) := (fins 96).filter fun f => cols.getLsbD (facetCol f)

/-! ### Errors -/

/-- Rows of a run that is discarded count as retired (R192). -/
def discardRow (acc : Vector AccTile 8) (q : QEnt) : Vector AccTile 8 :=
  match q.op with
  | .run a td .. => vupd acc a fun t => { t with retired := t.retired + tdRows td }
  | _ => acc

/-- Matrix instructions that have not started, oldest first: those their pipes hold, then the shared queue (R185). -/
def mmaWaiting (f : Facet) : List QEnt := f.ldPipe.toList ++ f.runPipe.toList ++ f.mmaQ

/-- Discard every instruction still in a queue, and those a matrix pipe holds without having started them (R173, R174). -/
def discardQueues (f : Facet) : Facet :=
  { f with acc := (mmaWaiting f).foldl discardRow f.acc,
           tags := f.dmaQ.foldl (fun t q => vupd t q.tag fun g => { g with outstanding := g.outstanding - 1 }) f.tags,
           ldPipe := none, runPipe := none, mmaQ := [], accQ := [], veQ := [], dmaQ := [], tokQ := [] }

/-- `FCSR_ERR` (Table 05-4). -/
def errWord (code : Byte) (precise : Bool) (pc detail : Nat) : W64 :=
  BitVec.ofNat 64 (code.toNat + 256 * bit precise + 65536 * (pc % 4096) + 4294967296 * detail)

/-- Stop issue, finish started instructions, discard queued ones: a running facet becomes IDLE (Table 05-13). -/
def stopFacet (f : Facet) : Facet := if f.st = .running then { discardQueues f with st := .idle } else f

/-- A facet cleared when its column leaves its sector, or is given to one (R95, R174). -/
def clearFacet (_ : Facet) : Facet := {}

/-- Stop every facet of a sector. -/
def stopSectorFacets (n : Fin 4) (s : State) : State :=
  (facetsOf s.sectors[n].columns).foldl (fun t f => modFacet f stopFacet t) s

/-- Raise a facet error (R173); a second error of a facet already FAULTED keeps the first. An event of class 0x14 for the
stores' errors; the second of a column within the window fences it at once and persistently (R443, R450). -/
def facetError (f : Fin 96) (code : Byte) (precise : Bool) (pc detail : Nat) (s : State) : State :=
  if s.facets[f].st ≠ .running then s
  else
    let t := modFacet f (fun x => { discardQueues x with st := .faulted, err := errWord code precise pc detail }) s
    if code = feImemEcc ∨ code = feSpmEcc ∨ code = feArrayEcc then
      let t := evidence 0x14 1 t
      { t with health.colEvents := t.health.colEvents ++ [(facetCol f, t.jrn.hst.bucket)] }
    else t

/-- Corrected errors that a read of a facet's stores meets (R128). -/
def eccCorrected (f : Fin 96) (spm arr : Nat) (s : State) : State :=
  if spm + arr = 0 then s
  else evidence 0x13 (spm + arr) (modFacet f (fun x => { x with eccSpm := x.eccSpm + BitVec.ofNat 32 spm,
                                                                eccArr := x.eccArr + BitVec.ofNat 32 arr }) s)

/-! ### Issue -/

/-- The loop stack and the PC after the instruction at `pc` has issued (R146). -/
def loopNext (pc : BitVec 13) : List LoopEnt → BitVec 13 × List LoopEnt
  | [] => (pc + 1, [])
  | l :: ls =>
    if pc = l.last then
      if 1 < l.left.toNat then (l.start, { l with left := l.left - 1 } :: ls) else loopNext pc ls
    else (pc + 1, l :: ls)

/-- Go on to the next instruction (R146). -/
def advance (f : Facet) : Facet :=
  let (p, ls) := loopNext f.pc f.loops
  { f with pc := p, loops := ls, seqNo := f.seqNo + 1 }

/-- The word at the PC. -/
def fetchWord (f : Facet) : BitVec 128 := sget 0 f.imem f.pc.toNat

/-- The facet can issue this word now: it runs and its IMEM holds it at the PC, read without an uncorrectable error. -/
def fetches (f : Facet) (op : Byte) (i : Ins) (e : Ecc) : Bool :=
  f.st == .running && decide (f.pc.toNat < 4096) && !e.imemBad && fetchWord f == joinIns op i

/-- The result of an issue: the new state of the facet, a stall, or an error with its detail. -/
inductive Issue where
  | done (f : Facet)
  | stall
  | error (code : Byte) (detail : Nat)
  deriving DecidableEq, Repr

/-- Issue the instruction at the PC (R130, R137): a fetch past the end raises FE_OPERAND, an uncorrectable fetch
FE_IMEM_ECC, an undefined word FE_OPCODE. A word that is not the command's leaves the state unchanged (log 2). The
encoding checks come before the instruction's own `body` (R142). -/
def issue (f : Fin 96) (op : Byte) (i : Ins) (e : Ecc) (u : Use) (row : Bool) (body : State → Facet → Issue)
    (s : State) : State :=
  let x := s.facets[f]
  if x.st ≠ .running then s
  else if 4096 ≤ x.pc.toNat then facetError f feOperand true x.pc.toNat 0 s
  else if e.imemBad then facetError f feImemEcc true x.pc.toNat x.pc.toNat s
  else if wordUndefined (fetchWord x) then facetError f feOpcode true x.pc.toNat 0 (eccCorrected f (bit e.imemCorr) 0 s)
  else if fetchWord x ≠ joinIns op i ∨ !row then s
  else
    match useError u i with
    | some c => facetError f c true x.pc.toNat 0 (eccCorrected f (bit e.imemCorr) 0 s)
    | none =>
      match body s x with
      | .stall => s
      | .error c d => facetError f c true x.pc.toNat d (eccCorrected f (bit e.imemCorr) 0 s)
      | .done y => eccCorrected f (bit e.imemCorr + (if op = 0x04 then e.spmCorr else 0)) 0 (modFacet f (fun _ => y) s)

/-! ### Queues and completion of units -/

/-- Depth of the queues (Table 05-5). -/
def qDepth (u : FacetUnit) : Nat := match u with
  | .dma => 16
  | _ => 8

/-- The shared queue hands its oldest instruction to the pipe of its kind once that pipe has finished its previous one
(R139, R185). The run pipe has finished a run when the run's rows have retired (log 101). -/
def feedMma (f : Facet) : Facet :=
  match f.mmaQ with
  | [] => f
  | q :: r =>
    match q.op with
    | .ldw _ => if f.ldPipe.isNone then { f with ldPipe := some q, mmaQ := r } else f
    | _ => if f.runPipe.isNone && f.running.isEmpty then { f with runPipe := some q, mmaQ := r } else f

/-- Hand over as many instructions as the two pipes take. -/
def feedPipes (f : Facet) : Facet := feedMma (feedMma f)

/-- Enter an instruction into the queue of its unit, unless it is full (R137). -/
def enqueue (u : FacetUnit) (f : Facet) (q : QEnt) : Issue :=
  let put := fun (l : List QEnt) => l ++ [{ q with seq := f.seqNo, pc := f.pc }]
  match u with
  | .mmaLoad | .mmaRun =>
    if qDepth u ≤ f.mmaQ.length then .stall else .done (advance (feedPipes { f with mmaQ := put f.mmaQ }))
  | .acc => if qDepth u ≤ f.accQ.length then .stall else .done (advance { f with accQ := put f.accQ })
  | .ve => if qDepth u ≤ f.veQ.length then .stall else .done (advance { f with veQ := put f.veQ })
  | .dma =>
    if qDepth u ≤ f.dmaQ.length then .stall
    else .done (advance { f with dmaQ := put f.dmaQ,
                                 tags := vupd f.tags q.tag fun t => { t with outstanding := t.outstanding + 1 } })
  | .tok => if qDepth u ≤ f.tokQ.length then .stall else .done (advance { f with tokQ := put f.tokQ })

/-- A token of the facet waits in the mesh network for a full channel, which stalls its TOK unit (R165). -/
def tokBlocked (s : State) (f : Fin 96) : Bool :=
  s.mesh.any fun m => m.src == f && decide (4 ≤ (s.facets[m.dst].chans[m.ch]).length)

/-- Units of the `WAIT` mask have finished every earlier instruction, and no selected tag is outstanding (R147). -/
def unitsDone (s : State) (fi : Fin 96) (f : Facet) (mask : BitVec 5) (tags : Byte) : Bool :=
  (!mask.getLsbD 0 || ((mmaWaiting f).isEmpty && f.running.isEmpty)) && (!mask.getLsbD 1 || f.accQ.isEmpty) &&
  (!mask.getLsbD 2 || f.veQ.isEmpty) && (!mask.getLsbD 4 || (f.tokQ.isEmpty && !tokBlocked s fi)) &&
  (fins 8).all fun k => !(mask.getLsbD 3 || tags.getLsbD k.val) || (f.tags[k]).outstanding == 0

/-! ### Scratchpad accesses that nothing orders (R170) -/

/-- Who reads the scratchpad: the matrix, accumulator or vector unit, a DMA operation, or the sequencer. -/
inductive SpmReader where
  | mma
  | acc
  | ve
  | dma
  | seq
  deriving DecidableEq, Repr

/-- A writer and a reader that the facet does not order: of different units, two DMA operations, or the sequencer and a
unit (R170). -/
def unordered (w : SpmWriter) (r : SpmReader) : Bool :=
  match w, r with
  | .acc, .acc | .ve, .ve | .seq, .seq => false
  | _, _ => true

/-- The write may be missed by the reader's instruction of program-order number `seq` (R170). -/
def raceSeen (r : SpmReader) (seq : Nat) (x : SpmRace) : Bool :=
  unordered x.by_ r && match x.upto with
    | some u => decide (seq < u)
    | none => true

/-- Chunks of 32 bytes that a span touches. -/
def chunksOf (a n : Nat) : List Nat := (List.range ((a % 32 + n + 31) / 32)).map fun k => a / 32 + k

/-- The scratchpad with some chunks of a race's spans as they were before the write: each chunk by a free value (log 3). -/
def raceChunks (base : Nat) (x : SpmRace) (m : List Host.Cell) : List Host.Cell :=
  x.spans.foldl (fun m p => (chunksOf p.1 p.2).foldl (fun m c =>
    if Config.freeNat (base + c) % 2 = 1 then scopy m (max (32 * c) p.1) x.old (max (32 * c) p.1)
      (min (32 * c + 32) (p.1 + p.2) - max (32 * c) p.1) else m) m) m

/-- The races that an instruction meets. -/
def racesFor (f : Facet) (r : SpmReader) (seq : Nat) : List SpmRace := f.races.filter (raceSeen r seq)

/-- The scratchpad as an instruction of the reader finds it (R170). -/
def spmView (s : State) (f : Facet) (r : SpmReader) (seq : Nat) : List Host.Cell :=
  ((racesFor f r seq).foldl (fun (p : List Host.Cell × Nat) x => (raceChunks (s.freeIx + p.2 * 2 ^ 17) x p.1, p.2 + 1)) (f.spm, 0)).1

/-- The free values that the view of an instruction has taken. -/
def viewSpent (fi : Fin 96) (r : SpmReader) (seq : Nat) (s t : State) : State :=
  { t with freeIx := t.freeIx + 2 ^ 17 * (racesFor s.facets[fi] r seq).length }

/-- Instructions of a facet that have issued and not finished. -/
def unfinished (f : Facet) : List Nat :=
  (mmaWaiting f ++ f.accQ ++ f.veQ ++ f.dmaQ ++ f.flight).map (·.seq) ++ f.running.map (·.seq)

/-- Drop the races that no unfinished instruction can meet. -/
def pruneRaces (f : Facet) : Facet :=
  { f with races := f.races.filter fun x => match x.upto with
      | some u => (unfinished f).any fun n => n < u
      | none => true }

/-- Record a write to the scratchpad; `upto` is set for the sequencer's own, which later instructions see. -/
def noteRace (w : SpmWriter) (upto : Option Nat) (spans : List (Nat × Nat)) (old : List Host.Cell) (f : Facet) : Facet :=
  pruneRaces { f with races := f.races ++ [⟨w, upto, none, spans, old⟩] }

/-- A `WAIT` covers the writes of its units and tags: the instructions after it see them (R170). -/
def waitRaces (mask : BitVec 5) (tags : Byte) (f : Facet) : Facet :=
  let covered := fun (w : SpmWriter) => match w with
    | .acc => mask.getLsbD 1
    | .ve => mask.getLsbD 2
    | .dma k => mask.getLsbD 3 || tags.getLsbD k.val
    | _ => false
  pruneRaces { f with races := updIf f.races (fun x => x.upto.isNone && covered x.by_) fun x => { x with upto := some f.seqNo } }

/-- A token released after remote writes has reached the facet as the last of its channel (R165, R167). -/
def tokenRaces (src : Fin 96) (mask : Byte) (seq : Nat) (ch : Fin 16) (f : Facet) : Facet :=
  { f with races := updIf f.races (fun x => x.token.isNone && match x.by_ with
      | .remote a tag op => a == src && mask.getLsbD tag.val && decide (op < seq)
      | _ => false) fun x => { x with token := some (ch, (f.chans[ch]).length) } }

/-- `TOK.RECV` takes the oldest token of a channel: the instructions after it see the remote writes it released (R165). -/
def recvRaces (ch : Fin 16) (f : Facet) : Facet :=
  pruneRaces { f with races := f.races.map fun x => match x.token with
    | some (c, n) => if c = ch then (if n ≤ 1 then { x with token := none, upto := some f.seqNo } else { x with token := some (c, n - 1) })
      else x
    | none => x }

/-- The spans that a tile occupies in the scratchpad, its scale block included. -/
def tileSpans (td : BitVec 128) : List (Nat × Nat) :=
  (List.range (tdRows td)).map (fun i => (tdBase td + i * tdStride td, tdPadded td)) ++
  (if isScaled (tdFmt td) then [(tdScaleBase td, tdScaleLen td)] else [])

/-- An instruction of the ACC or VE queue that uses a scale-table entry or a statistics slot (R169 item 5). -/
def drainTd (q : QEnt) : Option (BitVec 128) :=
  match q.op with
  | .accDrain td .. => some td
  | .veSt td _ => some td
  | _ => none

/-- Two drains use the same scale-table entry or statistics slot. -/
def drainClash (x y : BitVec 128) : Bool :=
  (isScaled (tdFmt x) && isScaled (tdFmt y) && tdScaleSlot x == tdScaleSlot y) ||
  (tdStatEn x && tdStatEn y && tdStatSlot x == tdStatSlot y)

end Sys2Proof.Machine
end

