-- ==== Sys2Proof/Machine/FacetUnits.lean ====
section
/-! DEFINITION. Sys2Proof/Machine/FacetUnits.lean: the matrix, accumulator, vector, DMA and token instructions as they issue
(R149 to R166), and what their units do when they start (R139, R169, R188, R196, R221, R232, R244). -/

namespace Sys2Proof.Machine

/-! ### Matrix instructions at issue -/

/-- Pairings of Table 05-9: weights, streamed tile, `P2`. -/
def pairingOk (w a : BitVec 4) (p2 : Bool) : Bool :=
  let fp8 := fun (f : BitVec 4) => decide (f.toNat ≤ 3)
  if p2 then w == 0x6 && a == 0x6
  else (fp8 w && fp8 a) || (w == 0x5 && a == 0x5) || (w == 0x4 && a == 0x4) || (w == 0x4 && fp8 a) || (w == 0x6 && a == 0x6)

/-- Format and extents of a weight tile. -/
def wInfo (td : BitVec 128) : WInfo := ⟨tdFmt td, tdRows td, tdCols td⟩

/-- `MMA.LDW` (R150, R184). -/
def execMmaLdw (f : Fin 96) (i : Ins) (e : Ecc) (s : State) : Host.Outcome State Fault Refusal :=
  .next (issue f 0x10 i e { a := .t } true (fun _ x =>
    let td := tReg x i.a
    match tdError td with
    | some c => .error c 0
    | none =>
      if isScaled (tdFmt td) && !tdSaxis td then .error feFormat 0
      else if x.unconsumed.isSome then .error feOperand 0
      else enqueue .mmaLoad { x with unconsumed := if x.mmaQ.length < 8 then some (wInfo td) else none } { op := .ldw td, seq := 0, pc := 0 }) s)

/-- The weights a run will use in program order (R151): none where the rule raises FE_OPERAND. -/
def runWeights (x : Facet) (swap : Bool) : Option WInfo := if swap then x.unconsumed else x.issued

/-- The checks of `MMA.RUN` (R151, R152, R184). -/
def runError (x : Facet) (td : BitVec 128) (swap p2 : Bool) : Option Byte :=
  match tdError td with
  | some c => some c
  | none =>
    match runWeights x swap with
    | none => some feOperand
    | some w =>
      if isScaled (tdFmt td) && tdSaxis td then some feFormat
      else if tdCols td ≠ w.rows then some feOperand
      else if !pairingOk w.fmt (tdFmt td) p2 then some feFormat
      else none

/-- `MMA.RUN` (R151): the rows count as issued, and `RUNS` of the tile advances (R191, R228). -/
def execMmaRun (f : Fin 96) (i : Ins) (e : Ecc) (s : State) : Host.Outcome State Fault Refusal :=
  .next (issue f 0x11 i e { fl := 0xF, d := .a, a := .t } true (fun _ x =>
    let td := tReg x i.a
    let swap := i.fl.getLsbD 2
    let p2 := i.fl.getLsbD 3
    match runError x td swap p2 with
    | some c => .error c 0
    | none =>
      if 8 ≤ x.mmaQ.length then .stall
      else
        let a := aIdx i.d
        let y := { x with issued := if swap then x.unconsumed else x.issued,
                          unconsumed := if swap then none else x.unconsumed,
                          acc := vupd x.acc a fun t => { t with issued := t.issued + tdRows td, runs := t.runs + 1 } }
        enqueue .mmaRun y { op := .run a td (i.fl.getLsbD 0) (i.fl.getLsbD 1) swap p2 (x.acc[a]).runs, seq := 0, pc := 0 }) s)

/-! ### Accumulator instructions at issue -/

/-- `ACC.ZERO` (R153). -/
def execAccZero (f : Fin 96) (i : Ins) (e : Ecc) (s : State) : Host.Outcome State Fault Refusal :=
  .next (issue f 0x20 i e { d := .a } true (fun _ x =>
    enqueue .acc x { op := .accZero (aIdx i.d), seq := 0, pc := 0, mark := (x.acc[aIdx i.d]).issued }) s)

/-- `ACC.CFG` (R153); `RUNS` counts the runs that issue after it (R228). -/
def execAccCfg (f : Fin 96) (i : Ins) (e : Ecc) (s : State) : Host.Outcome State Fault Refusal :=
  .next (issue f 0x21 i e { d := .a, imm := 0xFFFFFF } true (fun _ x =>
    if 8 ≤ x.accQ.length then .stall
    else enqueue .acc { x with acc := vupd x.acc (aIdx i.d) fun t => { t with runs := 0 } }
      { op := .accCfg (aIdx i.d) (i.imm.extractLsb' 0 24), seq := 0, pc := 0, mark := (x.acc[aIdx i.d]).issued }) s)

/-- `ACC.DRAIN` (R154). -/
def execAccDrain (f : Fin 96) (i : Ins) (e : Ecc) (s : State) : Host.Outcome State Fault Refusal :=
  .next (issue f 0x22 i e { fl := 1, d := .t, a := .a } true (fun _ x =>
    match tdError (tReg x i.d) with
    | some c => .error c 0
    | none => enqueue .acc x { op := .accDrain (tReg x i.d) (aIdx i.a) (i.fl.getLsbD 0), seq := 0, pc := 0,
                               mark := (x.acc[aIdx i.a]).issued }) s)

/-- `ACC.LOAD` (R155): FP32 or BF16 only. -/
def execAccLoad (f : Fin 96) (i : Ins) (e : Ecc) (s : State) : Host.Outcome State Fault Refusal :=
  .next (issue f 0x23 i e { d := .a, a := .t } true (fun _ x =>
    match tdError (tReg x i.a) with
    | some c => .error c 0
    | none =>
      if isScaled (tdFmt (tReg x i.a)) then .error feFormat 0
      else enqueue .acc x { op := .accLoad (aIdx i.d) (tReg x i.a), seq := 0, pc := 0, mark := (x.acc[aIdx i.d]).issued }) s)

/-! ### Vector instructions at issue -/

/-- `VE.LD` (R156). -/
def execVeLd (f : Fin 96) (i : Ins) (e : Ecc) (s : State) : Host.Outcome State Fault Refusal :=
  .next (issue f 0x30 i e { d := .v, a := .t } true (fun _ x =>
    match tdError (tReg x i.a) with
    | some c => .error c 0
    | none => enqueue .ve x { op := .veLd (vIdx i.d) (tReg x i.a), seq := 0, pc := 0 }) s)

/-- `VE.ST` (R156). -/
def execVeSt (f : Fin 96) (i : Ins) (e : Ecc) (s : State) : Host.Outcome State Fault Refusal :=
  .next (issue f 0x31 i e { d := .t, a := .v } true (fun _ x =>
    match tdError (tReg x i.d) with
    | some c => .error c 0
    | none => enqueue .ve x { op := .veSt (tReg x i.d) (vIdx i.a), seq := 0, pc := 0 }) s)

/-- Operands a VE function reads beside A (Table 09-1): B, C, K. -/
structure VeUse where
  b : Bool
  c : Bool
  k : Bool
  deriving DecidableEq, Repr

/-- Use of the fields by a `VE.OP` (Table 05-8, R243). -/
def useVe (u : VeUse) : Use :=
  { d := .v, a := .v, b := if u.b then .vs else .no, c := if u.c then .vs else .no, x := 0xFF,
    imm := if u.k then 0xFFFFFFFF else 0 }

/-- A source operand as captured at issue (R138, R243). -/
def veSrc (x : Facet) (o : Byte) : VeSrc := if opFile o = 3 then .buf (vIdx o) else .scal ((sReg x o).truncate 32)

/-- The common form of the `VE.OP` functions at issue. -/
def issueVe (fn : Byte) (u : VeUse) (f : Fin 96) (i : Ins) (e : Ecc) (s : State) : State :=
  issue f 0x32 i e (useVe u) (i.x.extractLsb' 0 8 == fn) (fun _ x =>
    enqueue .ve x { op := .veOp fn (vIdx i.d) (vIdx i.a) (veSrc x i.b) (veSrc x i.c) (i.imm.truncate 32), seq := 0, pc := 0 }) s

/-- A scalar operand of RAND: the count n, an FP32 integer from 0 to 2^24 - 1 (R247). -/
def randCount (v : W32) : Option Nat :=
  match fp32 v with
  | .fin m e =>
    if m < 0 then none
    else if (m.natAbs * 2 ^ e.toNat) % 2 ^ (-e).toNat ≠ 0 then none
    else
      let n := m.natAbs * 2 ^ e.toNat / 2 ^ (-e).toNat
      if n < 2 ^ 24 then some n else none
  | _ => none

/-- `VE_MOV` (R244): VE function 0x01. -/
def execVeMov (f : Fin 96) (i : Ins) (e : Ecc) (s : State) : Host.Outcome State Fault Refusal :=
  .next (issueVe 0x01 ⟨false, false, false⟩ f i e s)

/-- `VE_ADD` (R244): VE function 0x02. -/
def execVeAdd (f : Fin 96) (i : Ins) (e : Ecc) (s : State) : Host.Outcome State Fault Refusal :=
  .next (issueVe 0x02 ⟨true, false, false⟩ f i e s)

/-- `VE_SUB` (R244): VE function 0x03. -/
def execVeSub (f : Fin 96) (i : Ins) (e : Ecc) (s : State) : Host.Outcome State Fault Refusal :=
  .next (issueVe 0x03 ⟨true, false, false⟩ f i e s)

/-- `VE_MUL` (R244): VE function 0x04. -/
def execVeMul (f : Fin 96) (i : Ins) (e : Ecc) (s : State) : Host.Outcome State Fault Refusal :=
  .next (issueVe 0x04 ⟨true, false, false⟩ f i e s)

/-- `VE_FMA` (R244): VE function 0x05. -/
def execVeFma (f : Fin 96) (i : Ins) (e : Ecc) (s : State) : Host.Outcome State Fault Refusal :=
  .next (issueVe 0x05 ⟨true, true, false⟩ f i e s)

/-- `VE_FNMA` (R244): VE function 0x06. -/
def execVeFnma (f : Fin 96) (i : Ins) (e : Ecc) (s : State) : Host.Outcome State Fault Refusal :=
  .next (issueVe 0x06 ⟨true, true, false⟩ f i e s)

/-- `VE_MAX` (R244): VE function 0x07. -/
def execVeMax (f : Fin 96) (i : Ins) (e : Ecc) (s : State) : Host.Outcome State Fault Refusal :=
  .next (issueVe 0x07 ⟨true, false, false⟩ f i e s)

/-- `VE_MIN` (R244): VE function 0x08. -/
def execVeMin (f : Fin 96) (i : Ins) (e : Ecc) (s : State) : Host.Outcome State Fault Refusal :=
  .next (issueVe 0x08 ⟨true, false, false⟩ f i e s)

/-- `VE_ABS` (R244): VE function 0x09. -/
def execVeAbs (f : Fin 96) (i : Ins) (e : Ecc) (s : State) : Host.Outcome State Fault Refusal :=
  .next (issueVe 0x09 ⟨false, false, false⟩ f i e s)

/-- `VE_NEG` (R244): VE function 0x0A. -/
def execVeNeg (f : Fin 96) (i : Ins) (e : Ecc) (s : State) : Host.Outcome State Fault Refusal :=
  .next (issueVe 0x0A ⟨false, false, false⟩ f i e s)

/-- `VE_ADDK` (R244): VE function 0x0B. -/
def execVeAddk (f : Fin 96) (i : Ins) (e : Ecc) (s : State) : Host.Outcome State Fault Refusal :=
  .next (issueVe 0x0B ⟨false, false, true⟩ f i e s)

/-- `VE_MULK` (R244): VE function 0x0C. -/
def execVeMulk (f : Fin 96) (i : Ins) (e : Ecc) (s : State) : Host.Outcome State Fault Refusal :=
  .next (issueVe 0x0C ⟨false, false, true⟩ f i e s)

/-- `VE_FMAK` (R244): VE function 0x0D. -/
def execVeFmak (f : Fin 96) (i : Ins) (e : Ecc) (s : State) : Host.Outcome State Fault Refusal :=
  .next (issueVe 0x0D ⟨true, false, true⟩ f i e s)

/-- `VE_CLAMP` (R244): VE function 0x0E. -/
def execVeClamp (f : Fin 96) (i : Ins) (e : Ecc) (s : State) : Host.Outcome State Fault Refusal :=
  .next (issueVe 0x0E ⟨true, true, false⟩ f i e s)

/-- `VE_CMPGT` (R244): VE function 0x10. -/
def execVeCmpgt (f : Fin 96) (i : Ins) (e : Ecc) (s : State) : Host.Outcome State Fault Refusal :=
  .next (issueVe 0x10 ⟨true, false, false⟩ f i e s)

/-- `VE_CMPGE` (R244): VE function 0x11. -/
def execVeCmpge (f : Fin 96) (i : Ins) (e : Ecc) (s : State) : Host.Outcome State Fault Refusal :=
  .next (issueVe 0x11 ⟨true, false, false⟩ f i e s)

/-- `VE_CMPEQ` (R244): VE function 0x12. -/
def execVeCmpeq (f : Fin 96) (i : Ins) (e : Ecc) (s : State) : Host.Outcome State Fault Refusal :=
  .next (issueVe 0x12 ⟨true, false, false⟩ f i e s)

/-- `VE_SEL` (R244): VE function 0x13. -/
def execVeSel (f : Fin 96) (i : Ins) (e : Ecc) (s : State) : Host.Outcome State Fault Refusal :=
  .next (issueVe 0x13 ⟨true, true, false⟩ f i e s)

/-- `VE_FLOOR` (R244): VE function 0x18. -/
def execVeFloor (f : Fin 96) (i : Ins) (e : Ecc) (s : State) : Host.Outcome State Fault Refusal :=
  .next (issueVe 0x18 ⟨false, false, false⟩ f i e s)

/-- `VE_RNDI` (R244): VE function 0x19. -/
def execVeRndi (f : Fin 96) (i : Ins) (e : Ecc) (s : State) : Host.Outcome State Fault Refusal :=
  .next (issueVe 0x19 ⟨false, false, false⟩ f i e s)

/-- `VE_GETEXP` (R244): VE function 0x1A. -/
def execVeGetexp (f : Fin 96) (i : Ins) (e : Ecc) (s : State) : Host.Outcome State Fault Refusal :=
  .next (issueVe 0x1A ⟨false, false, false⟩ f i e s)

/-- `VE_GETMANT` (R244): VE function 0x1B. -/
def execVeGetmant (f : Fin 96) (i : Ins) (e : Ecc) (s : State) : Host.Outcome State Fault Refusal :=
  .next (issueVe 0x1B ⟨false, false, false⟩ f i e s)

/-- `VE_LDEXP` (R244): VE function 0x1C. -/
def execVeLdexp (f : Fin 96) (i : Ins) (e : Ecc) (s : State) : Host.Outcome State Fault Refusal :=
  .next (issueVe 0x1C ⟨true, false, false⟩ f i e s)

/-- `VE_CVTBF` (R244): VE function 0x1D. -/
def execVeCvtbf (f : Fin 96) (i : Ins) (e : Ecc) (s : State) : Host.Outcome State Fault Refusal :=
  .next (issueVe 0x1D ⟨false, false, false⟩ f i e s)

/-- `VE_RMAX` (R245): VE function 0x20. -/
def execVeRmax (f : Fin 96) (i : Ins) (e : Ecc) (s : State) : Host.Outcome State Fault Refusal :=
  .next (issueVe 0x20 ⟨false, false, false⟩ f i e s)

/-- `VE_RSUM` (R245): VE function 0x21. -/
def execVeRsum (f : Fin 96) (i : Ins) (e : Ecc) (s : State) : Host.Outcome State Fault Refusal :=
  .next (issueVe 0x21 ⟨false, false, false⟩ f i e s)

/-- `VE_CSUM` (R245): VE function 0x22. -/
def execVeCsum (f : Fin 96) (i : Ins) (e : Ecc) (s : State) : Host.Outcome State Fault Refusal :=
  .next (issueVe 0x22 ⟨false, false, false⟩ f i e s)

/-- `VE_BCAST0` (R244): VE function 0x23. -/
def execVeBcast0 (f : Fin 96) (i : Ins) (e : Ecc) (s : State) : Host.Outcome State Fault Refusal :=
  .next (issueVe 0x23 ⟨false, false, false⟩ f i e s)

/-- `VE_RCP` (R249): VE function 0x28. -/
def execVeRcp (f : Fin 96) (i : Ins) (e : Ecc) (s : State) : Host.Outcome State Fault Refusal :=
  .next (issueVe 0x28 ⟨false, false, false⟩ f i e s)

/-- `VE_RSQRT` (R250): VE function 0x29. -/
def execVeRsqrt (f : Fin 96) (i : Ins) (e : Ecc) (s : State) : Host.Outcome State Fault Refusal :=
  .next (issueVe 0x29 ⟨false, false, false⟩ f i e s)

/-- `VE_EXP` (R251): VE function 0x2A. -/
def execVeExp (f : Fin 96) (i : Ins) (e : Ecc) (s : State) : Host.Outcome State Fault Refusal :=
  .next (issueVe 0x2A ⟨false, false, false⟩ f i e s)

/-- `VE_RAND` (R247): B must name a scalar that holds an integer from 0 to 2^24 - 1, and K[31] must be 0. -/
def execVeRand (f : Fin 96) (i : Ins) (e : Ecc) (s : State) : Host.Outcome State Fault Refusal :=
  .next (issue f 0x32 i e (useVe ⟨true, false, true⟩) (i.x.extractLsb' 0 8 == 0x30) (fun _ x =>
    if i.imm.getLsbD 31 then .error feOpcode 0
    else if opFile i.b ≠ 0 ∨ (randCount ((sReg x i.b).truncate 32)).isNone then .error feOperand 0
    else enqueue .ve x { op := .veOp 0x30 (vIdx i.d) (vIdx i.a) (veSrc x i.b) (.scal 0) (i.imm.truncate 32), seq := 0, pc := 0 }) s)

/-! ### DMA and token instructions at issue -/

/-- Tag of a DMA instruction (R157). -/
def dmaTag (i : Ins) : Fin 8 := finOf (i.x.extractLsb' 0 3).toNat

/-- The DPA ranges of a tile move: its rows, and its scale block when `SCALES` is set (R159). -/
def rowRanges (td : BitVec 128) (dpa stride : Nat) (scales : Option Nat) : List (Nat × Nat) :=
  (List.range (tdRows td)).map (fun i => (dpa + i * stride, tdPadded td)) ++
  match scales with
  | some a => [(a, roundUp (tdScaleLen td) 32)]
  | none => []

/-- The common form of `DMA.RD` and `DMA.WR` (R157, R159): the tile's descriptor byte is `o`. -/
def issueRows (write : Bool) (o : Byte) (x : Facet) (i : Ins) : Issue :=
  let td := tReg x o
  let dpa := (sReg x i.b).toNat
  let stride := (sReg x i.c).toNat
  let sc := if i.fl.getLsbD 0 then some (x.s[(finOf (i.x.extractLsb' 8 5).toNat : Fin 32)]) else none
  match tdError td with
  | some c => .error c 0
  | none =>
    if dpa % 32 ≠ 0 ∨ stride % 32 ≠ 0 then .error feOperand 0
    else if (match sc with
        | some a => a.toNat % 32 ≠ 0 || !spanOk (tdScaleBase td) (roundUp (tdScaleLen td) 32)
        | none => false) then .error feOperand 0
    else match dpaError (rowRanges td dpa stride (sc.map (·.toNat))) with
      | some d => .error feDpa d
      | none => enqueue .dma x { op := .dmaRows write td (sReg x i.b) (sReg x i.c) sc, seq := 0, pc := 0, tag := dmaTag i }

/-- `DMA.RD` (R159). -/
def execDmaRd (f : Fin 96) (i : Ins) (e : Ecc) (s : State) : Host.Outcome State Fault Refusal :=
  .next (issue f 0x40 i e { fl := 1, d := .t, b := .s, c := .s, x := 0x1F07 } true (fun _ x => issueRows false i.d x i) s)

/-- `DMA.WR` (R159). -/
def execDmaWr (f : Fin 96) (i : Ins) (e : Ecc) (s : State) : Host.Outcome State Fault Refusal :=
  .next (issue f 0x41 i e { fl := 1, a := .t, b := .s, c := .s, x := 0x1F07 } true (fun _ x => issueRows true i.a x i) s)

/-- The common form of `DMA.LIN` (R157, R160). -/
def issueLin (write : Bool) (x : Facet) (i : Ins) : Issue :=
  let a := (sReg x i.a).toNat
  let dpa := (sReg x i.b).toNat
  let n := (sReg x i.c).toNat
  if !spanOk a n ∨ dpa % 32 ≠ 0 then .error feOperand 0
  else match dpaError [(dpa, n)] with
    | some d => .error feDpa d
    | none => enqueue .dma x { op := .dmaLin write (sReg x i.a) (sReg x i.b) (sReg x i.c), seq := 0, pc := 0, tag := dmaTag i }

/-- `DMA.LIN` with `DIR` 0 (R160). -/
def execDmaLinRead (f : Fin 96) (i : Ins) (e : Ecc) (s : State) : Host.Outcome State Fault Refusal :=
  .next (issue f 0x42 i e { fl := 1, a := .s, b := .s, c := .s, x := 7 } (!i.fl.getLsbD 0) (fun _ x => issueLin false x i) s)

/-- `DMA.LIN` with `DIR` 1 (R160). -/
def execDmaLinWrite (f : Fin 96) (i : Ins) (e : Ecc) (s : State) : Host.Outcome State Fault Refusal :=
  .next (issue f 0x42 i e { fl := 1, a := .s, b := .s, c := .s, x := 7 } (i.fl.getLsbD 0) (fun _ x => issueLin true x i) s)

/-- `DMA.XFR` (R161): a facet above 95 raises FE_OPERAND, one outside the sector FE_SECTOR. -/
def execDmaXfr (f : Fin 96) (i : Ins) (e : Ecc) (s : State) : Host.Outcome State Fault Refusal :=
  .next (issue f 0x43 i e { a := .s, b := .s, c := .s, x := 7, imm := 0x3FFFFF } true (fun s x =>
    let n := i.imm.toNat
    let k := (sReg x i.b).toNat
    if !spanOk (sReg x i.a).toNat n ∨ !spanOk (sReg x i.c).toNat n then .error feOperand 0
    else if h : k < 96 then
      if x.sector.isNone ∨ (s.facets[k]).sector ≠ x.sector then .error feSector 0
      else enqueue .dma x { op := .dmaXfr (sReg x i.a) ⟨k, h⟩ (sReg x i.c) n, seq := 0, pc := 0, tag := dmaTag i }
    else .error feOperand 0) s)

/-- `DMA.CHD` (R162, R391): an FP32 tile of 128 columns at an element offset that is a multiple of 32; the step of the contribution is `FCSR_STEP` at issue (R391). -/
def execDmaChd (f : Fin 96) (i : Ins) (e : Ecc) (s : State) : Host.Outcome State Fault Refusal :=
  .next (issue f 0x44 i e { a := .t, b := .s, c := .s, x := 7 } true (fun _ x =>
    match tdError (tReg x i.a) with
    | some c => .error c 0
    | none =>
      if tdFmt (tReg x i.a) ≠ 0x7 then .error feFormat 0
      else if tdCols (tReg x i.a) ≠ 128 ∨ (sReg x i.c).toNat % 32 ≠ 0 then .error feOperand 0
      else enqueue .dma x { op := .dmaChd (tReg x i.a) ((sReg x i.b).truncate 32) (sReg x i.c) x.step, seq := 0, pc := 0, tag := dmaTag i }) s)

/-- Bytes of one row's word in the array of a `DMA.DSP`: a u16 expert id, or a u32 slot for a combine of the layout of the
sector's job (R162, R406). -/
def dspWord (s : State) (x : Facet) (sel : W64) : Nat :=
  match x.sector.bind fun k => s.jobs.find? fun j => j.phase == .opened && j.sector == k with
  | some j => (match j.layout.bind fun l => l.disps.find? fun d => d.id == sel.toNat % 2 ^ 15 with
    | some d => if d.combine then 4 else 2
    | none => 2)
  | none => 2

/-- `DMA.DSP` (R162, R406): one expert id or slot per row at sB. -/
def execDmaDsp (f : Fin 96) (i : Ins) (e : Ecc) (s : State) : Host.Outcome State Fault Refusal :=
  .next (issue f 0x45 i e { a := .t, b := .s, c := .s, x := 7 } true (fun s x =>
    let td := tReg x i.a
    match tdError td with
    | some c => .error c 0
    | none =>
      if (sReg x i.b).toNat % 32 ≠ 0 ∨ spmEnd < (sReg x i.b).toNat + dspWord s x (sReg x i.c) * tdRows td then .error feOperand 0
      else enqueue .dma x { op := .dmaDsp td (sReg x i.b) (sReg x i.c) x.step, seq := 0, pc := 0, tag := dmaTag i }) s)

/-- `TOK.SEND` (R165): it waits for the DMA operations issued earlier under the tags of its release mask. -/
def execTokSend (f : Fin 96) (i : Ins) (e : Ecc) (s : State) : Host.Outcome State Fault Refusal :=
  .next (issue f 0x50 i e { a := .s, b := .s, x := 0xFF0F } true (fun _ x =>
    if 95 < (sReg x i.a).toNat then .error feOperand 0
    else
      let mask := i.x.extractLsb' 8 8
      let wait := ((x.flight ++ x.dmaQ).filter fun q => mask.getLsbD q.tag.val).map (·.seq)
      enqueue .tok x { op := .tokSend (sReg x i.a) (sReg x i.b) (finOf (i.x.extractLsb' 0 4).toNat), seq := 0, pc := 0,
                       after := wait, mask := mask }) s)

/-! ### Weight tiles and rows -/

/-- The weight tile that `MMA.LDW` loads (R150): codes and scales, `SAXIS` 1. MXFP4 weights enter the shadow as the E4M3
encodings of Table 07-2 (R204). -/
def loadWeights (m : List Host.Cell) (td : BitVec 128) : WTile :=
  { fmt := tdFmt td, rows := tdRows td, cols := tdCols td,
    codes := (List.range (tdRows td)).flatMap fun k => (List.range (tdCols td)).filterMap fun j =>
      let c := if tdFmt td = 0x4 then expandFp4 (tileCode m td k j) else tileCode m td k j
      if c = 0 then none else some (128 * k + j, BitVec.ofNat 32 c),
    scales := if isScaled (tdFmt td) then
        (List.range (tdCols td)).flatMap fun j => (List.range 4).filterMap fun g =>
          let x := tileScale m td j g
          if x = 0 then none else some (4 * j + g, x)
      else [] }

/-- A weight as the array reads it from the weight registers: MXFP4 weights are there as E4M3 (R204). -/
def decWeight (w : WTile) (k j : Nat) : Val :=
  decElem (if w.fmt = 0x4 then 0x0 else w.fmt) (sget 0 w.codes (128 * k + j)).toNat

/-- Operand pairs of row i and column j for reduction indices `k0` to `k1 - 1` (R178). -/
def pairs (m : List Host.Cell) (td : BitVec 128) (w : WTile) (i j k0 k1 : Nat) : List (Val × Val) :=
  (List.range (k1 - k0)).map fun d =>
    let k := k0 + d
    (decElem (tdFmt td) (tileCode m td i k), decWeight w k j)

/-- `array_sum` (R179, R180, R217): segments beyond K contribute +0 and are not read. -/
def arraySum (m : List Host.Cell) (td : BitVec 128) (w : WTile) (p2 : Bool) (i j : Nat) : W32 :=
  if p2 then
    p2Sum ((List.range 16).map fun b => pairs m td w i j (min (8 * b) w.rows) (min (8 * b + 8) w.rows))
  else
    travel ((List.range 4).map fun g =>
      if w.rows ≤ 32 * g then .fin 0 0
      else
        segmentSum (pairs m td w i j (32 * g) (min (32 * g + 32) w.rows))
          (if isScaled (tdFmt td) then tileScale m td i g else 127)
          (if isScaled w.fmt then sget 0 w.scales (4 * j + g) else 127))

/-- One element of a run that reads the scratchpad `m` (R151, R188): overwritten, or added with RNE or SR (R213, R227). -/
def runElem (f : Facet) (m : List Host.Cell) (r : RunSt) (i j : Nat) : W32 :=
  let p := arraySum m r.td r.w r.p2 i j
  if r.add then
    let t := f.acc[r.a]
    let u := rword f.seed t.tensorId 0x01 f.step (r.runs.toNat * 2 ^ 14 + 128 * i + j)
    accAdd (if r.sr then .sr u else .rne) (sget 0 t.data (128 * i + j)) p
  else p

/-- Write a row of a run into its accumulator tile and retire it (R191). -/
def runRow (f : Facet) (m : List Host.Cell) (r : RunSt) (i : Nat) : Facet :=
  let vals := (List.range r.w.cols).map fun j => (128 * i + j, runElem f m r i j)
  { f with acc := vupd f.acc r.a fun t =>
      { t with data := vals.foldl (fun d v => sset 0 d v.1 v.2) t.data, retired := t.retired + 1 } }

/-! ### Drains, statistics and the scale table -/

/-- One element as a drain converts it: FP32 source, code written, saturated. -/
structure DElem where
  src : W32
  code : Nat
  sat : Bool
  deriving DecidableEq, Repr

/-- The source is NaN. -/
def isNan (x : W32) : Bool := fp32 x == .nan
/-- The source is an infinity. -/
def isInf (x : W32) : Bool := fp32 x == .inf true || fp32 x == .inf false
/-- The source reads as zero (R201). -/
def isZero (x : W32) : Bool := (fp32 x).isZero
/-- The source is finite and nonzero. -/
def isFinNz (x : W32) : Bool := !isNan x && !isInf x && !isZero x

/-- Biased FP32 exponent field. -/
def expField (x : W32) : Nat := x.toNat / 2 ^ 23 % 256

/-- Largest finite magnitude among the sources; +0 when none is finite and nonzero (R221). -/
def maxMag (es : List DElem) : W32 :=
  es.foldl (fun a d => if isFinNz d.src ∧ a.toNat < (d.src &&& 0x7FFFFFFF).toNat then d.src &&& 0x7FFFFFFF else a) 0

/-- The update of a scale-table entry after a drain (R221). -/
def scaleUpdate (fmt : BitVec 4) (es : List DElem) (t : ScaleEntry) : ScaleEntry :=
  let ex := expField (maxMag es)
  let sat := es.any (·.sat)
  let t := { t with hist := vupd t.hist t.hptr.toFin fun _ => BitVec.ofNat 8 ex, hptr := t.hptr + 1 }
  let t := if sat then { t with corr := 16, ovf := if t.ovf = 0xFFFF then t.ovf else t.ovf + 1, satStep := true }
    else if t.corr ≠ 0 then { t with corr := t.corr - 1 } else t
  let t := if es.any (fun d => isNan d.src || isInf d.src) then { t with nfStep := true } else t
  if t.fixed then t
  else
    let m := (vlist t.hist).foldl (fun a b => max a b.toNat) 0
    if m = 0 then t
    else
      let v : Int := (m : Int) - fmtExp fmt + t.headroom.toNat + bit (t.corr ≠ 0)
      { t with scale := BitVec.ofNat 8 (max 0 (min 254 v)).toNat }

/-- Histogram bin of a finite nonzero source under scale X (R232). -/
def histBin (x : W32) (scale : Byte) : Nat := (max 0 (min 47 ((expField x : Int) - scale.toNat + 31))).toNat

/-- Saturating 32-bit addition (R233). -/
def satAdd (a : W32) (n : Nat) : W32 := BitVec.ofNat 32 (min 0xFFFFFFFF (a.toNat + n))

/-- The statistics that a drain gathers into a slot (R231 to R233). -/
def statGather (td : BitVec 128) (scale : Byte) (es : List DElem) (r : StatRec) : StatRec :=
  let cnt := fun (p : DElem → Bool) => (es.filter p).length
  let bins := (es.filter fun d => isFinNz d.src).map fun d => histBin d.src scale
  { tensorId := if r.valid then r.tensorId else tdTensor td,
    mixed := r.mixed || (r.valid && r.tensorId != tdTensor td),
    valid := true, fmt := tdFmt td,
    scaleMin := if r.valid && r.scaleMin.ult scale then r.scaleMin else scale,
    scaleMax := if r.valid && scale.ult r.scaleMax then r.scaleMax else scale,
    tiles := satAdd r.tiles 1,
    amax := if r.amax.ult (maxMag es) then maxMag es else r.amax,
    elements := r.elements + BitVec.ofNat 64 es.length,
    zeros := satAdd r.zeros (cnt fun d => isZero d.src),
    flushed := satAdd r.flushed (cnt fun d => isFinNz d.src && d.code == 0),
    saturated := satAdd r.saturated (cnt (·.sat)),
    nan := satAdd r.nan (cnt fun d => isNan d.src),
    inf := satAdd r.inf (cnt fun d => isInf d.src),
    hist := vmap r.hist fun b h => satAdd h (bins.filter fun k => k = b.val).length }

/-- Write a tile from its FP32 sources (R154, R196): the scale of the entry, the conversion, the scale bytes, then the
entry's update and the statistics. `raw` keeps FP32 bits unchanged. -/
def drainTile (td : BitVec 128) (raw : Bool) (src : Nat → Nat → W32) (f : Facet) : Facet :=
  let fmt := tdFmt td
  let ent := sget {} f.scale (tdScaleSlot td)
  let X : Byte := if isScaled fmt then ent.scale else 127
  let rows := (List.range (tdRows td)).map fun i => (List.range (tdCols td)).map fun j =>
    let x := src i j
    if fmt = 0x7 ∧ raw then ⟨x, x.toNat, false⟩
    else
      let c := toElem fmt X x
      (⟨x, c.1, c.2 && isScaled fmt⟩ : DElem)
  let spm := (rows.foldl (fun (p : List Host.Cell × Nat) r => (putRow p.1 td p.2 (r.map (·.code)), p.2 + 1)) (f.spm, 0)).1
  let spm := if isScaled fmt then putScales spm td X else spm
  let es := rows.flatten
  { f with spm := spm,
           scale := if isScaled fmt then sset {} f.scale (tdScaleSlot td) (scaleUpdate fmt es ent) else f.scale,
           stats := if tdStatEn td then vupd f.stats (tdStatSlot td) (statGather td X es) else f.stats }

/-! ### Vector functions -/

/-- Value of a VE source at element (i, j) (R243). -/
def veVal (f : Facet) (v : VeSrc) (i j : Nat) : W32 :=
  match v with
  | .buf b => sget 0 (f.ve[b]).data (128 * i + j)
  | .scal x => x

/-- A buffer from its elements. -/
def veBuild (rows cols : Nat) (g : Nat → Nat → W32) : VeBuf :=
  { rows := rows, cols := cols,
    data := (List.range rows).flatMap fun i => (List.range cols).filterMap fun j =>
      let v := g i j
      if v = 0 then none else some (128 * i + j, v) }

/-- The elementwise functions of Table 09-1. -/
def veLane (fn : Byte) (a b c k : W32) : W32 :=
  match fn.toNat with
  | 0x01 => fcanon a
  | 0x02 => fadd a b
  | 0x03 => fsub a b
  | 0x04 => fmul a b
  | 0x05 => ffma a b c
  | 0x06 => ffnma a b c
  | 0x07 => fmax a b
  | 0x08 => fmin a b
  | 0x09 => fabs a
  | 0x0A => fneg a
  | 0x0B => fadd a k
  | 0x0C => fmul a k
  | 0x0D => ffma a b k
  | 0x0E => fmin (fmax a b) c
  | 0x10 => fmask ((fp32 b).lt (fp32 a))
  | 0x11 => fmask ((fp32 b).lt (fp32 a) || (fp32 a).eqv (fp32 b))
  | 0x12 => fmask ((fp32 a).eqv (fp32 b))
  | 0x13 => if (fp32 a).isZero then fcanon c else fcanon b
  | 0x18 => ffloor a
  | 0x19 => frndi a
  | 0x1A => fgetexp a
  | 0x1B => fgetmant a
  | 0x1C => fldexp a b
  | 0x1D => BitVec.ofNat 32 ((toBf16 .rne (fp32 a)).toNat * 65536)
  | 0x28 => frcp a
  | 0x29 => frsqrt a
  | _ => fexp a

/-- One level of the pairwise tree of RSUM (R245). -/
def pairUp : List W32 → List W32
  | a :: b :: r => fadd a b :: pairUp r
  | l => l

/-- RSUM over 128 lanes; seven levels (R245). -/
def rsum : Nat → List W32 → W32
  | 0, l => l.headD 0
  | n + 1, l => rsum n (pairUp l)

/-- `VE.OP` on a facet's buffers (R240, R243 to R247). -/
def veApply (f : Facet) (fn : Byte) (d a : Fin 4) (b c : VeSrc) (k : W32) : Facet :=
  let src := f.ve[a]
  let va := fun i j => sget 0 src.data (128 * i + j)
  let out :=
    match fn.toNat with
    | 0x20 => veBuild src.rows src.cols fun i _ => (List.range src.cols).foldl (fun m j => fmax m (va i j)) (va i 0)
    | 0x21 => veBuild src.rows src.cols fun i _ =>
        rsum 7 ((List.range 128).map fun j => if j < src.cols then va i j else 0)
    | 0x22 => veBuild 1 src.cols fun _ j => (List.range src.rows).foldl (fun t i => fadd t (va i j)) 0
    | 0x23 => veBuild 128 src.cols fun _ j => va 0 j
    | 0x30 =>
      let n := optGet 0 (randCount (veVal f b 0 0))
      veBuild src.rows src.cols fun i j =>
        uniform (rword f.seed (k.extractLsb' 0 24) (0x80 + (k.extractLsb' 24 7).zeroExtend 8) f.step (n * 2 ^ 14 + 128 * i + j))
    | _ => veBuild src.rows src.cols fun i j => veLane fn (va i j) (veVal f b i j) (veVal f c i j) k
  { f with ve := vupd f.ve d fun _ => out }

/-! ### Starting a unit -/

/-- A scratchpad word that a unit read with an uncorrectable error gives a free value (log 3). -/
def scramble (s : State) (f : Facet) (k : Nat) : Facet :=
  { f with spm := mwrite f.spm (8 * (k % 0x60000)) (leBytes 8 (Config.freeNat s.freeIx)) }

/-- The two FP32 elements of a VE buffer's bad word become free values (log 3). -/
def scrambleVe (s : State) (k : Nat) (b : VeBuf) : VeBuf :=
  let put := fun (d : List (Nat × W32)) (o : Nat) =>
    sset 0 d ((2 * k + o) % 16384) (BitVec.ofNat 32 (Config.freeNat (s.freeIx + 1 + o)))
  { b with data := put (put b.data 0) 1 }

/-- What the stores' errors do to what a unit reads (R128, R197): the counts, a free value for the scratchpad word or the
elements of the VE buffer `v`, and unspecified contents for the accumulator tile `a`. -/
def eccMark (fi : Fin 96) (e : Ecc) (a : Option (Fin 8)) (v : Option (Fin 4)) (s : State) : State :=
  let t := eccCorrected fi e.spmCorr e.arrCorr s
  if e.spmBad.isNone && e.arrBad.isNone then t
  else
    { modFacet fi (fun f =>
        let f := match e.spmBad with
          | some k => scramble s f k
          | none => f
        match e.arrBad, a, v with
        | some _, some i, _ => { f with acc := vupd f.acc i fun x => { x with unspec := true } }
        | some k, none, some i => { f with ve := vupd f.ve i (scrambleVe s k) }
        | _, _, _ => f) t with freeIx := s.freeIx + 3 }

/-- The facet error that an uncorrectable store error raises, imprecisely (Table 05-12). -/
def eccFault (fi : Fin 96) (e : Ecc) (pc : Nat) (s : State) : State :=
  match e.spmBad, e.arrBad with
  | some k, _ => facetError fi feSpmEcc false pc k s
  | none, some k => facetError fi feArrayEcc false pc k s
  | none, none => s

/-- A unit's operation with the errors of the stores it reads: what they do first, the operation, then the error. -/
def withEcc (fi : Fin 96) (e : Ecc) (pc : Nat) (a : Option (Fin 8)) (v : Option (Fin 4)) (op : State → Facet → Facet)
    (s : State) : State :=
  let t := eccMark fi e a v s
  eccFault fi e pc (modFacet fi (op t) t)

/-- Accumulator element as an ACC instruction reads it: a free value while the contents are unspecified (R197, log 3). -/
def accRead (s : State) (t : AccTile) (i j : Nat) : W32 :=
  if t.unspec then BitVec.ofNat 32 (Config.freeNat (s.freeIx + 128 * i + j)) else sget 0 t.data (128 * i + j)

/-- Earlier `ACC.DRAIN` and `VE.ST` of the other unit that use the same entry or slot (R169 item 5). -/
def drainHeld (q : QEnt) (other : List QEnt) : Bool :=
  match drainTd q with
  | some td => other.any fun o => o.seq < q.seq && match drainTd o with
      | some u => drainClash td u
      | none => false
  | none => false

/-- An earlier ACC instruction names the tile (R169 item 2). -/
def accNames (a : Fin 8) (seq : Nat) (q : QEnt) : Bool :=
  decide (q.seq < seq) && match q.op with
    | .accZero b | .accCfg b _ | .accLoad b _ | .accDrain _ b _ => b == a
    | _ => false

/-- The load pipe starts the `MMA.LDW` it holds once the shadow is free (R169 item 4, R185). -/
def startLoad (fi : Fin 96) (e : Ecc) (s : State) : State :=
  let f := s.facets[fi]
  match f.ldPipe, f.shadow with
  | some q, none =>
    match q.op with
    | .ldw td =>
      viewSpent fi .mma q.seq s (withEcc fi e q.pc.toNat none none (fun t f =>
        feedPipes { f with shadow := some (loadWeights (spmView t f .mma q.seq) td), ldPipe := none }) s)
    | _ => s
  | _, _ => s

/-- The run pipe starts the `MMA.RUN` it holds: with `SWAP` once the shadow is full, and after every earlier ACC instruction
naming the tile has finished (R151, R169, R185). -/
def startRun (fi : Fin 96) (s : State) : State :=
  let f := s.facets[fi]
  match f.runPipe with
  | some q =>
    match q.op with
    | .run a td add sr swap p2 runs =>
      if f.accQ.any (accNames a q.seq) then s
      else
        match (if swap then f.shadow else f.active) with
        | none => s
        | some w =>
          modFacet fi (fun f => feedPipes { f with
            active := some w, shadow := if swap then none else f.shadow,
            running := f.running ++ [⟨a, td, add, sr, p2, runs, w, 0, q.pc, q.seq⟩],
            runPipe := none }) s
    | _ => s
  | none => s

/-- The ACC unit performs its oldest instruction once its pending count is zero (R169 items 3 and 5, R191). -/
def startAcc (fi : Fin 96) (e : Ecc) (s : State) : State :=
  let f := s.facets[fi]
  match f.accQ with
  | [] => s
  | q :: r =>
    let ready := fun (a : Fin 8) => decide (q.mark ≤ (f.acc[a]).retired)
    let acc := fun (a : Fin 8) (g : AccTile → AccTile) =>
      modFacet fi (fun f => { f with accQ := r, acc := vupd f.acc a g }) s
    match q.op with
    | .accZero a => if ready a then acc a (fun t => { t with data := [], unspec := false }) else s
    | .accCfg a id => if ready a then acc a (fun t => { t with tensorId := id }) else s
    | .accLoad a td =>
      if ready a then
        viewSpent fi .acc q.seq s (withEcc fi e q.pc.toNat none none (fun t f =>
          let m := spmView t f .acc q.seq
          { f with accQ := r, acc := vupd f.acc a fun t =>
            { t with unspec := false,
                     data := (List.range (tdRows td)).foldl (fun d i => (List.range (tdCols td)).foldl
                       (fun d j => sset 0 d (128 * i + j) (elemToFp32 (tdFmt td) 127 (tileCode m td i j))) d) t.data } }) s)
      else s
    | .accDrain td a clear =>
      if ready a && !drainHeld q f.veQ then
        let t := withEcc fi e q.pc.toNat (some a) none (fun s f =>
          let g := noteRace .acc none (tileSpans td) f.spm (drainTile td true (accRead s f.acc[a]) { f with accQ := r })
          if clear then { g with acc := vupd g.acc a fun t => { t with data := [] } } else g) s
        if ((t.facets[fi]).acc[a]).unspec then { t with freeIx := t.freeIx + 2 ^ 14 } else t
      else s
    | _ => s

/-- The VE performs its oldest instruction (R139, R169 item 5). -/
def startVe (fi : Fin 96) (e : Ecc) (s : State) : State :=
  let f := s.facets[fi]
  match f.veQ with
  | [] => s
  | q :: r =>
    let pop := fun (v : Option (Fin 4)) (g : Facet → Facet) =>
      withEcc fi e q.pc.toNat none v (fun _ f => g { f with veQ := r }) s
    match q.op with
    | .veLd v td => viewSpent fi .ve q.seq s (withEcc fi e q.pc.toNat none none (fun t f =>
        { f with veQ := r, ve := vupd f.ve v fun _ => ⟨tileFp32 (spmView t f .ve q.seq) td, tdRows td, tdCols td⟩ }) s)
    | .veSt td v =>
      if drainHeld q f.accQ then s
      else pop (some v) fun f => noteRace .ve none (tileSpans td) f.spm
        (drainTile td false (fun i j => sget 0 (f.ve[v]).data (128 * i + j)) f)
    | .veOp fn d a b c k => pop (some a) fun f => veApply f fn d a b c k
    | _ => s

/-- The DMA unit starts its oldest operation; at most four are in flight (R139). -/
def startDma (fi : Fin 96) (s : State) : State :=
  let f := s.facets[fi]
  match f.dmaQ with
  | [] => s
  | q :: r => if 4 ≤ f.flight.length then s else modFacet fi (fun f => { f with dmaQ := r, flight := f.flight ++ [q] }) s

/-- Channel 15 of the ingress facet of a sector's Arc, which takes ticks only (R270). -/
def tickIngress (s : State) (k : Fin 4) (dst : Fin 96) (ch : Fin 16) : Bool :=
  let x := s.sectors[k]
  ch == 15 &&
    match x.arc with
    | some a =>
      a.ingress != 0xFF &&
      let cols := (List.range 12).filter fun c => x.columns.getLsbD c
      dst.val == 8 * cols.getD (a.ingress / 8) 0 + a.ingress % 8
    | none => false

/-- The TOK unit sends its oldest token once its released operations have completed (R165): into the mesh network, or
dropped and counted at a sector boundary (R94). -/
def startTok (fi : Fin 96) (s : State) : State :=
  let f := s.facets[fi]
  match f.tokQ with
  | [] => s
  | q :: r =>
    match q.op with
    | .tokSend dst payload ch =>
      if (f.flight ++ f.dmaQ).any (fun x => q.after.contains x.seq) || tokBlocked s fi then s
      else
        let d : Fin 96 := finOf dst.toNat
        let t := modFacet fi (fun f => { f with tokQ := r }) s
        let crosses := match f.sector with
          | some k => (s.facets[d]).sector != some k || tickIngress s k d ch
          | none => true
        if crosses then counter 1 1 (modFacet fi (fun f => { f with tokDrop := f.tokDrop + 1 }) t)
        else { t with mesh := t.mesh ++ [⟨fi, d, ch, payload, q.mask, q.seq⟩] }
    | _ => s

/-- `UNIT_START` (R139, R169): the oldest instruction of the unit starts, and but for runs and DMA is performed. -/
def execUnitStart (f : Fin 96) (u : FacetUnit) (e : Ecc) (s : State) : Host.Outcome State Fault Refusal :=
  .next (match u with
    | .mmaLoad => startLoad f e s
    | .mmaRun => startRun f s
    | .acc => startAcc f e s
    | .ve => startVe f e s
    | .dma => startDma f s
    | .tok => startTok f s)

/-- Rows that retire together: two of an MXFP4 pair, otherwise one (R182, R191). -/
def retireCount (r : RunSt) : Nat := if r.w.fmt = 0x4 ∧ tdFmt r.td = 0x4 ∧ r.row + 1 < tdRows r.td then 2 else 1

/-- `ROW_RETIRE` (R191): the next row, or pair of rows, of the oldest started run is written and retires. -/
def execRowRetire (f : Fin 96) (e : Ecc) (s : State) : Host.Outcome State Fault Refusal :=
  .next (match (s.facets[f]).running with
    | [] => s
    | r :: rs =>
      let n := retireCount r
      viewSpent f .mma r.seq s (withEcc f e r.pc.toNat (some r.a) none (fun t x =>
        let m := spmView t x .mma r.seq
        let y := if n = 2 then runRow (runRow x m r r.row) m r (r.row + 1) else runRow x m r r.row
        feedPipes { y with running := if r.row + n < tdRows r.td then { r with row := r.row + n } :: rs else rs }) s))

/-- `TOKEN_ARRIVAL` (R167): the oldest token from one facet to a channel of another arrives, if the channel has room. -/
def execTokenArrival (src dst : Fin 96) (ch : Fin 16) (s : State) : Host.Outcome State Fault Refusal :=
  .next (match s.mesh.findIdx? (fun m => m.src == src && m.dst == dst && m.ch == ch) with
    | none => s
    | some k =>
      if 4 ≤ ((s.facets[dst]).chans[ch]).length then s
      else
        match s.mesh[k]? with
        | some m => modFacet dst (fun f => tokenRaces src m.mask m.seq ch { f with chans := vupd f.chans ch fun l => l ++ [m.payload] })
            { s with mesh := s.mesh.eraseIdx k }
        | none => s)

end Sys2Proof.Machine
end

