-- ==== Sys2Proof/Machine/FoldOps.lean ====
section
/-! DEFINITION. Sys2Proof/Machine/FoldOps.lean: shards, slots and records (R338 to R342), the update rules (R346 to R351),
digests (R356), norm records (R235 to R238), working copies (R358, R490), and the job record (R341, R437). -/

namespace Sys2Proof.Machine

/-! ### Slots (R339) -/

/-- Length padded to 4 KiB. -/
def pad4k (n : Nat) : Nat := roundUp n 4096

/-- The rule keeps a second moment per element. -/
def hasM2 (rule : Nat) : Bool := rule == 1 || rule == 3

/-- Rows of a shard under the factored rule. -/
def shardRows (sh : ShardEnt) : Nat := if sh.rowLen = 0 then 0 else (sh.count + sh.rowLen - 1) / sh.rowLen

/-- Bytes of the row statistics. -/
def rowStatLen (sh : ShardEnt) : Nat := 2 * shardRows sh

/-- Bytes of the column statistics. -/
def colStatLen (sh : ShardEnt) : Nat := 2 * ((shardRows sh + 127) / 128) * sh.rowLen

/-- Bytes of a slot's weights, padded. -/
def wLen (sh : ShardEnt) : Nat := pad4k (2 * sh.count)

/-- Bytes of a slot's moment arrays, padded. -/
def mLen (rule : Nat) (sh : ShardEnt) : Nat :=
  wLen sh + (if hasM2 rule then wLen sh else 0) + (if rule = 2 then pad4k (rowStatLen sh) + pad4k (colStatLen sh) else 0)

/-- Length of a slot image (R339). -/
def imageLen (rule : Nat) (sh : ShardEnt) : Nat := 4096 + wLen sh + mLen rule sh

/-- Length a shard object needs. -/
def shardObjLen (rule : Nat) (sh : ShardEnt) : Nat :=
  4096 + 2 * (wLen sh + if sh.momentObj = 0 then mLen rule sh else 0)

/-- Location of an object that rests in LPDDR6. -/
def objDpa (s : State) (o : W64) : Option Nat :=
  match objOf o s with
  | some x => if x.tier = 0 then some x.loc else none
  | none => none

/-- Location of an object that rests in LPDDR6 or host memory. -/
def objLoc (s : State) (o : W64) : Option Nat :=
  match objOf o s with
  | some x => if x.tier ≤ 1 then some x.loc else none
  | none => none

/-- First host location (R317). -/
def hostBase : Nat := 0x400000000000

/-- Where slot `b` of a shard keeps its weights and its moments: two locations. -/
def slotAt (s : State) (rule : Nat) (sh : ShardEnt) (b : Nat) : Option (Nat × Nat) :=
  match objDpa s sh.shardObj with
  | none => none
  | some d =>
    if sh.momentObj = 0 then
      let w := d + 4096 + b * (wLen sh + mLen rule sh)
      some (w, w + wLen sh)
    else
      match objLoc s sh.momentObj with
      | some m => some (d + 4096 + b * wLen sh, m + b * mLen rule sh)
      | none => none

/-- Slot of a generation (R341). -/
def slotOf (g : W64) : Nat := g.toNat % 2

/-- A requester reads a location; host memory reads as its bytes. None: an uncorrectable read or an absent granule. -/
def readLoc (req : Byte) (loc n : Nat) (s : State) : State × Option (List Host.Cell) :=
  if hostBase ≤ loc then (s, some (scut s.hostMem (loc - hostBase) n 0)) else readCells req loc n s

/-- A device engine writes cells at a location. -/
def writeLoc (loc n : Nat) (src : List Host.Cell) (s : State) : State :=
  if hostBase ≤ loc then { s with hostMem := scopy s.hostMem (loc - hostBase) src 0 n } else writeCells loc n src s

/-- The 16-bit values of a run of cells. -/
def vals16 (m : List Host.Cell) (n : Nat) : List W16 :=
  (List.range n).map fun i => (mget m (2 * i + 1)) ++ (mget m (2 * i))

/-- Cells of a list of 16-bit values, from offset 0. -/
def cells16 (vs : List W16) : List Host.Cell :=
  ((vs.mapIdx fun i v => [(2 * i, v.extractLsb' 0 8), (2 * i + 1, v.extractLsb' 8 8)]).flatten).filter fun c => c.2 ≠ 0

/-- Cells of bytes, from offset 0. -/
def cellsOf (bs : List Byte) : List Host.Cell := (bs.mapIdx fun i b => (i, b)).filter fun c => c.2 ≠ 0

/-! ### Commit records (R340) and the job commit sector (R341) -/

/-- A commit record (Table 13-3). -/
structure CommitRec where
  gen    : W64
  digest : W64
  step   : W64
  epoch  : W16
  rule   : Nat
  valid  : Bool
  deriving DecidableEq, Repr

/-- Bytes with their CRC-32 after them. -/
def withCrc (bs : List Byte) : List Byte := bs ++ leBytes 4 (crc32 bs).toNat

/-- The 32 bytes of a commit record. -/
def recBytes (r : CommitRec) : List Byte :=
  withCrc (leBytes 8 r.gen.toNat ++ leBytes 8 r.digest.toNat ++ leBytes 8 r.step.toNat ++ leBytes 2 r.epoch.toNat ++
    leBytes 1 r.rule ++ leBytes 1 (bit r.valid))

/-- The record that 32 bytes spell, if it is valid (R340). -/
def recParse (bs : List Byte) : Option CommitRec :=
  if field bs 0x1C 4 = (crc32 (bs.take 0x1C)).toNat ∧ field bs 0x1B 1 % 2 = 1 then
    some ⟨BitVec.ofNat 64 (field bs 0 8), BitVec.ofNat 64 (field bs 8 8), BitVec.ofNat 64 (field bs 0x10 8),
      BitVec.ofNat 16 (field bs 0x18 2), field bs 0x1A 1, true⟩
  else none

/-- What reading a commit record gives: the sector cannot be read, its record is not valid, or the record. -/
inductive RecRead where
  | unreadable
  | invalid
  | found (r : CommitRec)
  deriving DecidableEq, Repr

/-- A record as an option: none where it is unreadable or not valid. -/
def RecRead.opt : RecRead → Option CommitRec
  | .found r => some r
  | _ => none

/-- Read the record of slot `b` of a shard, for a requester (R303, R340). -/
def readRec (req : Byte) (sh : ShardEnt) (b : Nat) (s : State) : State × RecRead :=
  match objDpa s sh.shardObj with
  | none => (s, .invalid)
  | some d =>
    match readBytes req (d + 32 * b) 32 s with
    | (t, none) => (t, .unreadable)
    | (t, some bs) => (t, match recParse bs with
        | some r => .found r
        | none => .invalid)

/-- Write the record of slot `b` of a shard. -/
def putRec (sh : ShardEnt) (b : Nat) (r : CommitRec) (s : State) : State :=
  match objDpa s sh.shardObj with
  | some d => writeBytes (d + 32 * b) (recBytes r) s
  | none => s

/-- Write the header fields of a shard object beside its records (Table 13-2). -/
def putShardHeader (rule : Nat) (sh : ShardEnt) (s : State) : State :=
  match objDpa s sh.shardObj with
  | some d => writeBytes (d + 0x40)
      (layout 64 [(0, leBytes 4 sh.id.toNat), (4, leBytes 1 rule), (5, leBytes 1 (bit (sh.momentObj ≠ 0))),
        (8, leBytes 8 sh.first), (0x10, leBytes 8 sh.count)]) s
  | none => s

/-- Bytes of the job commit sector (Table 13-4). -/
def commitBytes (job : W32) (c : CommitSector) : List Byte :=
  withCrc (leBytes 4 job.toNat ++ leBytes 2 c.epoch.toNat ++ leBytes 1 (bit c.valid) ++ [0] ++ leBytes 8 c.gen.toNat ++
    leBytes 8 c.step.toNat ++ leBytes 4 c.bootCount.toNat)

/-- Write the job commit sector: in the job's state and, whole, at offset 0 of its record (R341, Table 15-6). -/
def writeCommit (job : W32) (c : CommitSector) (s : State) : State :=
  match jobOf job s with
  | some j => writeBytes j.recDpa (commitBytes job c) (modJob job (fun x => { x with commit := c }) s)
  | none => s

/-- The committed generation as commands report it (R341). -/
def genOf (j : Job) : W64 := if j.commit.valid then j.commit.gen else 0xFFFFFFFFFFFFFFFF

/-- Shards that the installed layout gives to this member. -/
def ownShards (lay : Layout) : List ShardEnt := lay.shards.filter fun sh => sh.owner == lay.rank

/-- The shards of the job on this module (R338). -/
def jobShards (j : Job) : List ShardEnt :=
  match j.layout with
  | some l => ownShards l
  | none => []

/-- Read whether a shard is committed (R341): a record that cannot be read is lost (R303). -/
def readCommitted (req : Byte) (j : Job) (sh : ShardEnt) (s : State) : State × Bool :=
  if !j.commit.valid || j.uncommitted.contains sh.id then (s, false)
  else
    match readRec req sh (slotOf j.commit.gen) s with
    | (t, .found r) => (t, r.gen == j.commit.gen)
    | (t, _) => (t, false)

/-- Read whether every shard of a list is committed: it stops at the first that is not. -/
def allCommitted (req : Byte) (j : Job) (shs : List ShardEnt) (s : State) : State × Bool :=
  shs.foldl (fun (p : State × Bool) sh => if p.2 then readCommitted req j sh p.1 else p) (s, true)

/-! ### Digests (R356) -/

/-- The mixing function. -/
def fmix (z : W64) : W64 :=
  let z := (z ^^^ (z >>> 30)) * 0xbf58476d1ce4e5b9
  let z := (z ^^^ (z >>> 27)) * 0x94d049bb133111eb
  z ^^^ (z >>> 31)

/-- One term of a digest. -/
def dterm (t : BitVec 24) (i : Nat) (d : W64) : W64 :=
  fmix (((t.zeroExtend 64) <<< 40 ||| BitVec.ofNat 64 i) ^^^ fmix d)

/-- Digest of elements from index `e0` on: weight, first moment, second moment (zero without one). -/
def elemDigest (t : BitVec 24) (e0 : Nat) (ws ms vs : List W16) : W64 :=
  ((ws.zip (ms.zip vs)).mapIdx fun i x =>
    dterm t (e0 + i) ((0 : W16) ++ x.2.2 ++ x.2.1 ++ x.1)).foldl (· + ·) 0

/-- Digest of statistics from index `i0` on: kind 1 rows, kind 2 columns. -/
def statDigest (t : BitVec 24) (kind : Nat) (i0 : Nat) (xs : List W16) : W64 :=
  (xs.mapIdx fun i x => dterm t (i0 + i) (x.zeroExtend 64 ||| (BitVec.ofNat 64 kind) <<< 48)).foldl (· + ·) 0

/-- The arrays of `n` elements from offset `o` of a slot, with the statistics of the rows they span. -/
structure SlotPart where
  w  : List W16
  m  : List W16
  v  : List W16
  rs : List W16
  cs : List W16
  deriving DecidableEq, Repr

/-- First row and row count of a range of elements. -/
def rowSpan (sh : ShardEnt) (o n : Nat) : Nat × Nat :=
  if sh.rowLen = 0 then (0, 0) else (o / sh.rowLen, (n + sh.rowLen - 1) / sh.rowLen)

/-- First statistic index and count of the column statistics of a range of whole blocks. -/
def colSpan (sh : ShardEnt) (o n : Nat) : Nat × Nat :=
  let (r0, k) := rowSpan sh o n
  (r0 / 128 * sh.rowLen, (k + 127) / 128 * sh.rowLen)

/-- Offset of the row statistics in the moments. -/
def rsOff (sh : ShardEnt) : Nat := wLen sh
/-- Offset of the column statistics in the moments. -/
def csOff (sh : ShardEnt) : Nat := wLen sh + pad4k (rowStatLen sh)

/-- Read part of a slot. The error is 1 for an uncorrectable read, 4 for a lost Prism (Table 13-9). -/
def readPart (req : Byte) (rule : Nat) (sh : ShardEnt) (b o n : Nat) (s : State) : State × Except Nat SlotPart :=
  match slotAt s rule sh b with
  | none => (s, .error 4)
  | some (wa, ma) =>
    let rd := fun (loc k : Nat) (p : State × Except Nat (List (List W16))) =>
      match p.2 with
      | .error c => (p.1, Except.error c)
      | .ok acc =>
        if k = 0 then (p.1, .ok (acc ++ [[]]))
        else if loc < hostBase ∧ rangeAbsent p.1 loc (2 * k) then (p.1, .error 4)
        else match readLoc req loc (2 * k) p.1 with
          | (t, some c) => (t, .ok (acc ++ [vals16 c k]))
          | (t, none) => (t, .error 1)
    let (r0, rk) := rowSpan sh o n
    let (c0, ck) := colSpan sh o n
    let f := rule = 2
    let p := rd (wa + 2 * o) n (s, .ok [])
    let p := rd (ma + 2 * o) n p
    let p := rd (ma + wLen sh + 2 * o) (if hasM2 rule then n else 0) p
    let p := rd (ma + rsOff sh + 2 * r0) (if f then rk else 0) p
    let p := rd (ma + csOff sh + 2 * c0) (if f then ck else 0) p
    match p with
    | (t, .ok [w, m, v, rs, cs]) => (t, .ok ⟨w, m, v, rs, cs⟩)
    | (t, .ok _) => (t, .error 1)
    | (t, .error c) => (t, .error c)

/-- Write whole sectors that hold a piece of `n` bytes, other bytes of the first and the last sector kept (R292): none where
one of these cannot be read. -/
def mergeLoc (req : Byte) (loc n : Nat) (src : List Host.Cell) (s : State) : State × Bool :=
  let a := loc / 32 * 32
  let z := roundUp (loc + n) 32
  if n = 0 then (s, true)
  else if loc = a ∧ loc + n = z then (writeLoc loc n src s, true)
  else
    match readLoc req a 32 s with
    | (t, none) => (t, false)
    | (t, some h) =>
      match readLoc req (z - 32) 32 t with
      | (t, none) => (t, false)
      | (t, some l) =>
        (writeLoc a (z - a) (scopy (scopy (scopy [] 0 h 0 32) (z - a - 32) l 0 32) (loc - a) src 0 n) t, true)

/-- Cells of an array piece, rounded up to whole sectors: what follows it there is the array's padding (R339). -/
def putVals (loc : Nat) (vs : List W16) (s : State) : State :=
  if vs.isEmpty then s else writeLoc loc (roundUp (2 * vs.length) 32) (cells16 vs) s

/-- Write part of a slot: moments and statistics first, then the weights (R353). The column statistics of neighbouring blocks
share sectors, and false says that such a sector cannot be read. -/
def writePart (rule : Nat) (sh : ShardEnt) (b o : Nat) (p : SlotPart) (s : State) : State × Bool :=
  match slotAt s rule sh b with
  | none => (s, true)
  | some (wa, ma) =>
    let (r0, _) := rowSpan sh o p.w.length
    let (c0, _) := colSpan sh o p.w.length
    let t := putVals (ma + 2 * o) p.m s
    let t := putVals (ma + wLen sh + 2 * o) p.v t
    let t := putVals (ma + rsOff sh + 2 * r0) p.rs t
    match mergeLoc rqFold (ma + csOff sh + 2 * c0) (2 * p.cs.length) (cells16 p.cs) t with
    | (t, ok1) => (putVals (wa + 2 * o) p.w t, ok1)

/-- Digest of part of a slot. -/
def partDigest (rule : Nat) (sh : ShardEnt) (o : Nat) (p : SlotPart) : W64 :=
  let v := if hasM2 rule then p.v else p.w.map fun _ => 0
  elemDigest sh.tensor (sh.first + o) p.w p.m v +
  (if rule = 2 then
    statDigest sh.tensor 1 ((sh.first + o) / sh.rowLen) p.rs +
    statDigest sh.tensor 2 ((sh.first + o) / sh.rowLen / 128 * sh.rowLen) p.cs
  else 0)

/-- Digest of a whole slot as it is read (R357). -/
def slotDigest (req : Byte) (rule : Nat) (sh : ShardEnt) (b : Nat) (s : State) : State × Option W64 :=
  match readPart req rule sh b 0 sh.count s with
  | (t, .ok p) => (t, some (partDigest rule sh 0 p))
  | (t, .error _) => (t, none)

/-- The slot's digest matches its record (R357). -/
def slotVerifies (req : Byte) (rule : Nat) (sh : ShardEnt) (b : Nat) (s : State) : State × Bool :=
  match readRec req sh b s with
  | (s, .found r) =>
    (match slotDigest req rule sh b s with
     | (t, some d) => (t, d == r.digest)
     | (t, none) => (t, false))
  | (s, _) => (s, false)

/-- The slot image of slot `b`, as cells from offset 0 (R339): the record as given, then the arrays. -/
def slotImage (req : Byte) (rule : Nat) (sh : ShardEnt) (b : Nat) (r : CommitRec) (s : State) :
    State × Option (List Host.Cell) :=
  match slotAt s rule sh b with
  | none => (s, none)
  | some (wa, ma) =>
    match readLoc req wa (wLen sh) s with
    | (t, none) => (t, none)
    | (t, some w) =>
      match readLoc req ma (mLen rule sh) t with
      | (t, none) => (t, none)
      | (t, some m) =>
        (t, some (scopy (scopy (cellsOf (recBytes r)) 4096 w 0 (wLen sh)) (4096 + wLen sh) m 0 (mLen rule sh)))

/-- Write the arrays of a slot image into slot `b`. -/
def putImage (rule : Nat) (sh : ShardEnt) (b : Nat) (img : List Host.Cell) (s : State) : State :=
  match slotAt s rule sh b with
  | none => s
  | some (wa, ma) =>
    writeLoc wa (wLen sh) (scut img 4096 (wLen sh) 0)
      (writeLoc ma (mLen rule sh) (scut img (4096 + wLen sh) (mLen rule sh) 0) s)

/-! ### Update rules -/

/-- FP32 of a stored BF16 value, bits widened. -/
def widen (w : W16) : W32 := w ++ (0 : W16)

/-- New weight, first and second moment of an element, before the store. -/
structure Upd where
  w : W32
  m : W32
  v : W32
  deriving DecidableEq, Repr

/-- Coefficient Ci of a group (Table 13-5). -/
def coef (ps : List W32) (grp i : Nat) : W32 := ps.getD (16 * grp + i) 0

/-- SGD with momentum (R348). -/
def ruleSgd (c : Nat → W32) (w m g : W32) : Upd :=
  let x := fmul (c 7) g
  let m1 := ffma (c 1) m x
  ⟨ffnma (c 0) (fadd m1 (fmul (c 6) w)) w, m1, 0⟩

/-- The AdamW-type rule (R348). -/
def ruleAdamW (c : Nat → W32) (w m v g : W32) : Upd :=
  let x := fmul (c 7) g
  let m1 := ffma (c 1) m (fmul (c 2) x)
  let v1 := ffma (c 3) v (fmul (c 4) (fmul x x))
  let u := fdiv m1 (fadd (fsqrt v1) (c 5))
  ⟨ffnma (c 0) (fadd u (fmul (c 6) w)) w, m1, v1⟩

/-- One fold operation on the registers (Table 13-6); `draw` gives the word of a purpose. -/
def foldOp (draw : Byte → W32) (f : List W32) (op : W64) : List W32 :=
  let fd := fun (k : Nat) => op.toNat / 2 ^ k % 256
  let x := f.getD (fd 16) 0
  let y := f.getD (fd 24) 0
  let z := f.getD (fd 32) 0
  let r := match fd 0 with
    | 0x01 => fadd x y
    | 0x02 => fsub x y
    | 0x03 => fmul x y
    | 0x04 => ffma x y z
    | 0x05 => ffnma x y z
    | 0x06 => fdiv x y
    | 0x07 => fsqrt x
    | 0x08 => fmax x y
    | 0x09 => fmin x y
    | 0x0A => fabs x
    | 0x0B => if (fp32 x).isZero then z else y
    | 0x0C => fmask ((fp32 y).lt (fp32 x))
    | _ => uniform (draw (BitVec.ofNat 8 (8 + fd 16)))
  updAt f (fd 8) fun _ => r

/-- A fold operation is one of Table 13-6 with its reserved bits zero (R350, R373). -/
def foldOpOk (op : W64) : Bool :=
  let fd := fun (k : Nat) => op.toNat / 2 ^ k % 256
  decide (1 ≤ fd 0 ∧ fd 0 ≤ 0x0D ∧ op.toNat / 2 ^ 40 = 0 ∧ fd 8 < 32 ∧ fd 24 < 32 ∧ fd 32 < 32) &&
    (if fd 0 = 0x0D then decide (fd 16 < 8) else decide (fd 16 < 32))

/-- The microcoded rule (R350). -/
def ruleMicro (ops : List W64) (c : Nat → W32) (draw : Byte → W32) (w m v g : W32) : Upd :=
  let f := ops.foldl (foldOp draw) ([w, m, v, g] ++ (List.range 16).map c ++ List.replicate 12 0)
  ⟨f.getD 0 0, f.getD 1 0, f.getD 2 0⟩

/-- The factored rule over a range of whole blocks (R349): the new values and the new statistics. -/
def ruleFactored (c : Nat → W32) (rl : Nat) (ws ms rs cs gs : List W32) : List Upd × List W32 × List W32 :=
  let x := gs.map fun g => fmul (c 7) g
  let xi := fun (i : Nat) => x.getD i 0
  let rows := (x.length + rl - 1) / rl
  let blocks := (rows + 127) / 128
  let nb := fun (b : Nat) => min 128 (rows - 128 * b)
  let num := fun (n : Nat) => toFp32 .rne (.fin (n : Int) 0)
  let sum := fun (l : List W32) => match l with
    | [] => (0 : W32)
    | h :: t => t.foldl fadd h
  let cols := fun (r : Nat) => min rl (x.length - r * rl)
  let rs1 := (List.range rows).map fun r =>
    ffma (c 3) (rs.getD r 0) (fmul (c 4) (fdiv (sum ((List.range (cols r)).map fun k => fmul (xi (r * rl + k)) (xi (r * rl + k)))) (num rl)))
  let cs1 := (List.range blocks).flatMap fun b => (List.range rl).map fun k =>
    ffma (c 3) (cs.getD (b * rl + k) 0) (fmul (c 4)
      (fdiv (sum ((List.range (nb b)).map fun i => fmul (xi ((128 * b + i) * rl + k)) (xi ((128 * b + i) * rl + k)))) (num (nb b))))
  let rbar := fun (b : Nat) => fdiv (sum ((List.range (nb b)).map fun i => rs1.getD (128 * b + i) 0)) (num (nb b))
  let bars := (List.range blocks).map rbar
  let ups := (List.range x.length).map fun i =>
    let r := i / rl
    let b := r / 128
    let rb := bars.getD b 0
    let vh := if (fp32 rb).isZero then 0 else fdiv (fmul (rs1.getD r 0) (cs1.getD (b * rl + i % rl) 0)) rb
    let m1 := ffma (c 1) (ms.getD i 0) (fmul (c 2) (xi i))
    let u := fdiv m1 (fadd (fsqrt vh) (c 5))
    (⟨ffnma (c 0) (fadd u (fmul (c 6) (ws.getD i 0))) (ws.getD i 0), m1, 0⟩ : Upd)
  (ups, rs1, cs1)

/-- Store by SR to BF16 (R351). -/
def storeBf16 (seed : W64) (t : BitVec 24) (purpose : Byte) (step : W64) (pos : Nat) (x : W32) : W16 :=
  toBf16 (.sr (rword seed t purpose step pos)) (fp32 x)

/-- A stored BF16 value is NaN or infinite. -/
def badBf16 (x : W16) : Bool := (bf16 x).special

/-- The update of a range (R348 to R351): the staged part, and whether the range is non-finite. -/
def updateRange (j : Job) (ps : List W32) (step : W64) (sh : ShardEnt) (o : Nat) (p : SlotPart) (gs : List W32) :
    SlotPart × Bool :=
  let c := coef ps sh.group
  let e0 := sh.first + o
  let ws := p.w.map widen
  let ms := p.m.map widen
  let vs := p.v.map widen
  let at2 := fun (l : List W32) (i : Nat) => l.getD i 0
  let (ups, rs1, cs1) :=
    if j.rule = 2 then ruleFactored c sh.rowLen ws ms (p.rs.map widen) (p.cs.map widen) gs
    else
      ((List.range ws.length).map (fun i =>
        match j.rule with
        | 0 => ruleSgd c (at2 ws i) (at2 ms i) (at2 gs i)
        | 1 => ruleAdamW c (at2 ws i) (at2 ms i) (at2 vs i) (at2 gs i)
        | _ => ruleMicro (optGet [] j.ruleOps) c (fun q => rword j.seed sh.tensor q step (e0 + i)) (at2 ws i) (at2 ms i)
            (at2 vs i) (at2 gs i)), [], [])
  let st := storeBf16 j.seed sh.tensor
  let out : SlotPart :=
    { w := ups.mapIdx fun i u => st 0x04 step (e0 + i) u.w,
      m := ups.mapIdx fun i u => st 0x05 step (e0 + i) u.m,
      v := if hasM2 j.rule then ups.mapIdx fun i u => st 0x06 step (e0 + i) u.v else [],
      rs := rs1.mapIdx fun i x => st 0x06 step (2 ^ 40 + e0 / sh.rowLen + i) x,
      cs := cs1.mapIdx fun i x => st 0x06 step (2 ^ 41 + e0 / sh.rowLen / 128 * sh.rowLen + i) x }
  (out, gs.any (fun g => (fp32 g).special) || (out.w ++ out.m ++ out.v ++ out.rs ++ out.cs).any badBf16)

/-! ### Norm records (R235 to R238) -/

/-- Add a value to a norm accumulator: values examined, non-finite ones, sum of squares in units of 2^-298. -/
def normAdd (a : Nat × Nat × Nat) (x : W32) : Nat × Nat × Nat :=
  match fp32 x with
  | .nan | .inf _ => (a.1 + 1, a.2.1 + 1, a.2.2)
  | .fin m e => (a.1 + 1, a.2.1, a.2.2 + m.natAbs ^ 2 * 2 ^ (2 * e + 298).toNat)

/-- `NORM` (R237). -/
def normRoot (nonfinite sumsq : Nat) : W32 :=
  if nonfinite ≠ 0 then 0x7FC00000
  else if sumsq = 0 then 0
  else
    let n := sumsq * 2 ^ 128
    let r := natSqrt n
    toFp32 .rne (.fin ((2 * r + bit (r * r ≠ n) : Nat) : Int) (-214))

/-- A norm record (Table 08-7). -/
def normBytes (layer : W32) (kind : Nat) (epoch : W16) (gen : W64) (a : Nat × Nat × Nat) : List Byte :=
  layout 128 [(0, leBytes 4 layer.toNat), (4, leBytes 1 kind), (5, leBytes 1 (bit (a.2.1 ≠ 0))), (6, leBytes 2 epoch.toNat),
    (8, leBytes 8 gen.toNat), (0x10, leBytes 8 a.1), (0x18, leBytes 8 a.2.1), (0x20, leBytes 80 a.2.2),
    (0x70, leBytes 4 (normRoot a.2.1 a.2.2).toNat)]

/-- Add a range to the three accumulators of a shard: staged weights, reduced gradients, updates (R235). -/
def normsAdd (ns : Vector (Nat × Nat × Nat) 3) (wNew wOld : List W16) (gs : List W32) : Vector (Nat × Nat × Nat) 3 :=
  let ups := (wNew.zip wOld).map fun p => fsub (widen p.1) (widen p.2)
  vmap ns fun k a => ((match k with
    | 0 => wNew.map widen
    | 1 => gs
    | 2 => ups)).foldl normAdd a

/-! ### Working copies (R358, R388, R490) -/

/-- Padded row length of a working tile. -/
def tileRowLen (fmt : BitVec 4) : Nat := roundUp (128 * elemBits fmt) 256 / 8

/-- Bytes of one working tile: 128 rows and the scale block. -/
def tileLen (fmt : BitVec 4) : Nat := 128 * tileRowLen fmt + 512

/-- Length of a working object (R388). -/
def workLen (sh : ShardEnt) : Nat := (sh.count + 16383) / 16384 * tileLen sh.fmt

/-- Biased exponent of a finite nonzero BF16 weight; 0 otherwise. -/
def wExp (w : W16) : Nat := let e := w.toNat / 128 % 256; if e = 255 then 0 else e

/-- Scale of a group of weights (R358). -/
def groupScale (fmt : BitVec 4) (ws : List W16) : Byte :=
  let em := ws.foldl (fun a w => max a (wExp w)) 0
  if em = 0 then 0 else BitVec.ofNat 8 (max 0 (min 254 ((em : Int) - fmtExp fmt))).toNat

/-- Group number within a tile of element (i, j), and its place in the scale block. -/
def groupAt (saxis : Bool) (i j : Nat) : Nat := if saxis then 4 * j + i / 32 else 4 * i + j / 32

/-- The weights of a group of a tile, by its place in the scale block. -/
def groupElems (saxis : Bool) (w : Nat → W16) (g : Nat) : List W16 :=
  (List.range 32).map fun k => if saxis then w (128 * (32 * (g % 4) + k) + g / 4) else w (128 * (g / 4) + 32 * (g % 4) + k)

/-- The bytes of one working tile from its weights, elements beyond the shard +0. -/
def tileBytes (fmt : BitVec 4) (saxis : Bool) (w : Nat → W16) : List Byte :=
  let scales := (List.range 512).map fun g => groupScale fmt (groupElems saxis w g)
  let row := fun (i : Nat) => padTo (tileRowLen fmt) (packRow (elemBits fmt) ((List.range 128).map fun j =>
    (toElem fmt (scales.getD (groupAt saxis i j) 0) (widen (w (128 * i + j)))).1))
  (List.range 128).flatMap row ++ scales

/-- Sectors of a working tile, from its first byte, that hold an element of the groups with a bad element. -/
def badTileSectors (fmt : BitVec 4) (saxis : Bool) (badElem : Nat → Bool) : List Nat :=
  let groups := (List.range 512).map fun g => (List.range 32).any fun k =>
    badElem (if saxis then 128 * (32 * (g % 4) + k) + g / 4 else 128 * (g / 4) + 32 * (g % 4) + k)
  ((List.range 16384).filter fun e => groups.getD (groupAt saxis (e / 128) (e % 128)) false).flatMap (fun e =>
    let b0 := (e / 128) * tileRowLen fmt * 8 + e % 128 * elemBits fmt
    [b0 / 256, (b0 + elemBits fmt - 1) / 256]) |>.eraseDups

/-- Derive the working copy of a shard from slot `b`; true when a weight could not be read (R490). -/
def deriveShard (rule : Nat) (sh : ShardEnt) (b : Nat) (s : State) : State × Bool :=
  match slotAt s rule sh b, objDpa s sh.workObj with
  | some (wa, _), some wo =>
    let (t, bad) := readRange rqFold wa (2 * sh.count) s
    let lost := rangeAbsent s wa (2 * sh.count)
    let cells := t.mem.cells
    let tiles := (List.range ((sh.count + 16383) / 16384)).foldl (fun (t : State) k =>
      let w := fun (e : Nat) => if 16384 * k + e < sh.count then
        (mget cells (wa + 2 * (16384 * k + e) + 1)) ++ (mget cells (wa + 2 * (16384 * k + e))) else 0
      let base := wo + k * tileLen sh.fmt
      let t := writeBytes base (tileBytes sh.fmt sh.saxis w) t
      let isBad := fun (e : Nat) => decide (16384 * k + e < sh.count) && (lost || bad.contains ((wa + 2 * (16384 * k + e)) / 32))
      if bad.isEmpty && !lost then t
      else { t with mem := (badTileSectors sh.fmt sh.saxis isBad).foldl (fun m q => putPoison m (base / 32 + q)) t.mem }) t
    (tiles, !bad.isEmpty || lost)
  | _, _ => (s, true)

/-! ### Scale state (R225) -/

/-- Logical facet of a facet in a sector of columns `cols` (R264). -/
def logicalOf (cols : BitVec 12) (f : Fin 96) : Nat :=
  8 * ((List.range (f.val / 8)).filter fun c => cols.getLsbD c).length + f.val % 8

/-- The scale entries of the facets of a sector by 256 * logical facet + entry. -/
def takeScales (s : State) (cols : BitVec 12) : List (Nat × ScaleEntry) :=
  ((fins 96).filter fun f => cols.getLsbD (f.val / 8)).flatMap fun f =>
    (s.facets[f]).scale.map fun e => (256 * logicalOf cols f + e.1, e.2)

/-- Give the facets of a sector the entries of a record. -/
def giveScales (cols : BitVec 12) (es : List (Nat × ScaleEntry)) (s : State) : State :=
  { s with facets := vmap s.facets fun f x => if cols.getLsbD (f.val / 8) then
      { x with scale := scut es (256 * logicalOf cols f) 256 0 } else x }

/-- Give the facets of columns `cols` their own entries of a record taken of columns `had` (R225). -/
def giveScalesOf (had cols : BitVec 12) (es : List (Nat × ScaleEntry)) (s : State) : State :=
  { s with facets := vmap s.facets fun f x => if (had &&& cols).getLsbD (f.val / 8) then
      { x with scale := scut es (256 * logicalOf had f) 256 0 } else x }

/-- The scale entries of the facets of columns `cols`, by their place in a record of columns `had`. -/
def takeScalesOf (had cols : BitVec 12) (s : State) : List (Nat × ScaleEntry) :=
  ((fins 96).filter fun f => (had &&& cols).getLsbD (f.val / 8)).flatMap fun f =>
    (s.facets[f]).scale.map fun e => (256 * logicalOf had f + e.1, e.2)

/-- Change the listed scale entries of a sector's facets. -/
def mapScales (cols : BitVec 12) (g : ScaleEntry → ScaleEntry) (s : State) : State :=
  { s with facets := vmap s.facets fun f x => if cols.getLsbD (f.val / 8) then
      { x with scale := x.scale.foldl (fun m e => sset {} m e.1 (g e.2)) [] } else x }

/-- `CORR` 16 in every dynamic entry of a sector's facets (R433, R440). -/
def corrAll (cols : BitVec 12) (s : State) : State :=
  { s with facets := vmap s.facets fun f x => if cols.getLsbD (f.val / 8) then
      { x with scale := (List.range 256).foldl (fun m n =>
          let e := sget {} x.scale n
          sset {} m n (if e.fixed then e else { e with corr := 16 })) [] } else x }

/-- The 32 bytes of a scale-table entry (Table 08-1). -/
def scaleBytes (e : ScaleEntry) : List Byte :=
  leBytes 4 (e.scale.toNat + 256 * e.headroom.toNat + 2048 * bit e.fixed + 4096 * e.corr.toNat + 2 ^ 17 * e.hptr.toNat +
    2 ^ 21 * bit e.satStep + 2 ^ 22 * bit e.nfStep) ++ leBytes 2 e.ovf.toNat ++ [0, 0] ++ vlist e.hist ++ zeros 8

/-- The scale-table entry that 32 bytes spell. -/
def scaleParse (bs : List Byte) : ScaleEntry :=
  let v := field bs 0 4
  { scale := BitVec.ofNat 8 v, headroom := BitVec.ofNat 3 (v / 256), fixed := v / 2048 % 2 = 1,
    corr := BitVec.ofNat 5 (v / 4096), hptr := BitVec.ofNat 4 (v / 2 ^ 17), satStep := v / 2 ^ 21 % 2 = 1,
    nfStep := v / 2 ^ 22 % 2 = 1, ovf := BitVec.ofNat 16 (field bs 4 2), hist := vgen fun i => bs.getD (8 + i.val) 0 }

/-- The scale-state record of 96 facets of 256 entries, as bytes (R424, Table 15-9). -/
def scaleRecBytes (es : List (Nat × ScaleEntry)) : List Byte :=
  (List.range 24576).flatMap fun k => scaleBytes (sget {} es k)

/-- The entries that a scale-state record's bytes spell. -/
def scaleRecParse (m : List Host.Cell) : List (Nat × ScaleEntry) :=
  (List.range 24576).filterMap fun k =>
    let e := scaleParse (mread m (32 * k) 32)
    if e = {} then none else some (k, e)

/-! ### The job record (Table 15-6) -/

/-- Entry of a job in the warm-restart directory. -/
def dirIndex (job : W32) (s : State) : Option (Fin 4) :=
  (fins 4).find? fun i => match s.jrn.dir.entries[i] with
    | some e => e.job == job
    | none => false

/-- Granules in the quota of a sector as 144 bytes. -/
def granuleMap (s : State) (k : Fin 4) : List Byte :=
  leBytes 144 ((s.owners.filter fun o => o.2 == .sector k).foldl (fun a o => a + 2 ^ o.1) 0)

/-- The object table of a job: 32 bytes per LPDDR6 or host object, then its CRC. -/
def objTable (s : State) (job : W32) : List Byte :=
  withCrc ((s.objs.filter fun o => o.job == job && decide (o.tier ≤ 1)).flatMap fun o =>
    leBytes 8 o.id.toNat ++ leBytes 8 o.loc ++ leBytes 8 o.size ++ zeros 8)

/-- Write bytes of a job record, padded to whole sectors. -/
def writeRec (dpa : Nat) (bs : List Byte) (s : State) : State := writeBytes dpa (padTo (roundUp bs.length 32) bs) s

/-- Write the parts of a job's record other than its commit, armed and scale-state parts (R437). -/
def writeJobRecord (job : W32) (s : State) : State :=
  match jobOf job s with
  | none => s
  | some j =>
    let lay := match j.layout with
      | some l => withCrc l.raw
      | none => []
    let rule := match j.ruleOps with
      | some ops => withCrc (ops.flatMap fun o => leBytes 8 o.toNat)
      | none => []
    let objs := objTable s job
    let hdr := leBytes 8 j.seed.toNat ++ leBytes 1 j.rule ++ zeros 7 ++ granuleMap s j.sector ++ leBytes 8 j.hostPool.1 ++
      leBytes 8 j.hostPool.2 ++ leBytes 4 (lay.length - 4) ++ leBytes 4 (objs.length - 4) ++ leBytes 4 (rule.length - 4)
    let t := writeBytes (j.recDpa + 0x40) (withCrc hdr) s
    let t := writeRec (j.recDpa + 0x101000) lay t
    let t := writeRec (j.recDpa + 0x2101000) objs t
    writeRec (j.recDpa + 0x2902000) rule t

/-- Write the armed sector of a job's record (Table 15-6). -/
def writeArmed (job : W32) (step gen : W64) (epoch : W16) (s : State) : State :=
  match jobOf job s with
  | none => s
  | some j => writeBytes (j.recDpa + 0x20)
      (withCrc (leBytes 8 step.toNat ++ leBytes 8 gen.toNat ++ leBytes 2 epoch.toNat ++ zeros 10))
      (modJob job (fun x => { x with armedRec := (step, gen, epoch) }) s)

/-- Write a job's scale-state record, in its state and in LPDDR6 (R225). -/
def writeScaleRec (job : W32) (tag : W64) (es : List (Nat × ScaleEntry)) (s : State) : State :=
  match jobOf job s with
  | none => s
  | some j => writeBytes (j.recDpa + 0x1000) (scaleRecBytes es) (modJob job (fun x => { x with scaleRec := some ⟨tag, es⟩ }) s)

end Sys2Proof.Machine
end

