-- ==== Sys2Proof/Machine/ChordOps.lean ====
section
/-! DEFINITION. Sys2Proof/Machine/ChordOps.lean: the Chord transport (R381 to R386), the management network's copy of it
(R465), and the layout (R387 to R390). -/

namespace Sys2Proof.Machine

/-! ### Packet types (Table 14-3) and causes (Table 14-10) -/

def ptData : BitVec 4 := 0x1
def ptAck : BitVec 4 := 0x2
def ptCredit : BitVec 4 := 0x3
def ptVote : BitVec 4 := 0x4
def ptAbort : BitVec 4 := 0x5
def ptHeartbeat : BitVec 4 := 0x6
def ptGatherReq : BitVec 4 := 0x7
def ptGatherData : BitVec 4 := 0x8
def ptDispatch : BitVec 4 := 0x9
def ptDispatchEnd : BitVec 4 := 0xA
def ptReshardReq : BitVec 4 := 0xB
def ptReshardData : BitVec 4 := 0xC
def ptMirror : BitVec 4 := 0xD

def cauSilence : Byte := 0x01
def cauCommand : Byte := 0x02
def cauInstall : Byte := 0x03
def cauLocal : Byte := 0x04
def cauDepart : Byte := 0x05
def cauStale : Byte := 0x06
def cauStall : Byte := 0x07
def cauNoPort : Byte := 0x08
def cauRelayed : Byte := 0x09
def cauMismatch : Byte := 0x0A
def cauUncorr : Byte := 0x0B

/-! ### The layout (Tables 14-4 to 14-8) -/

/-- Split a byte list into `n` pieces of `k` bytes. -/
def pieces (k : Nat) : (n : Nat) → List Byte → List (List Byte)
  | 0, _ => []
  | n + 1, bs => bs.take k :: pieces k n (bs.drop k)

/-- All listed bytes are zero. -/
def allZero (bs : List Byte) : Bool := bs.all (· == 0)

/-- A member entry (Table 14-5). -/
def parseMember (b : List Byte) : Option Member :=
  if field b 2 1 ≤ 7 ∧ allZero (slice b 6 10) then
    some { node := BitVec.ofNat 16 (field b 0 2), localIx := field b 2 1, mask := BitVec.ofNat 8 (field b 3 1),
           group := BitVec.ofNat 16 (field b 4 2),
           addr := (pieces 16 8 (b.drop 0x10)).map fun a => BitVec.ofNat 128 (beNat a) }
  else none

/-- A shard entry (Table 14-6). -/
def parseShard (b : List Byte) : Option ShardEnt :=
  let tp := field b 4 4
  let wf := field b 0xF 1
  if tp / 2 ^ 26 = 0 ∧ field b 0xE 1 ≤ 15 ∧ wf % 16 ≤ 5 ∧ wf / 32 = 0 ∧ allZero (slice b 0x32 6) ∧ allZero (slice b 0x50 16) ∧
      1 ≤ field b 0x18 8 ∧ field b 0x18 8 ≤ 2 ^ 32 ∧ field b 0x20 4 ≤ 32768 ∧ 1 ≤ field b 0x24 4 ∧ field b 0x24 4 ≤ 2 ^ 22 then
    some { id := BitVec.ofNat 32 (field b 0 4), tensor := BitVec.ofNat 24 tp, prism := tp / 2 ^ 24 % 4,
           layer := BitVec.ofNat 32 (field b 8 4), owner := BitVec.ofNat 16 (field b 0xC 2), group := field b 0xE 1,
           fmt := BitVec.ofNat 4 wf, saxis := wf / 16 % 2 = 1, first := field b 0x10 8, count := field b 0x18 8,
           rowLen := field b 0x20 4, rangeElems := field b 0x24 4, normIndex := field b 0x28 4, cFirst := field b 0x2C 2,
           cCount := field b 0x2E 2, cStride := field b 0x30 2, shardObj := BitVec.ofNat 64 (field b 0x38 8),
           momentObj := BitVec.ofNat 64 (field b 0x40 8), workObj := BitVec.ofNat 64 (field b 0x48 8) }
  else none

/-- A collective entry (Table 14-7). -/
def parseColl (b : List Byte) : Option (W32 × BitVec 24) :=
  if field b 0 4 ≠ 0 ∧ field b 4 4 < 2 ^ 24 then some (BitVec.ofNat 32 (field b 0 4), BitVec.ofNat 24 (field b 4 4)) else none

/-- A gather entry (Table 14-7). -/
def parseGather (b : List Byte) : Option GatherEnt :=
  if field b 0 4 < 2 ^ 24 ∧ field b 6 2 = 0 ∧ allZero (slice b 0x10 16) then
    some ⟨BitVec.ofNat 24 (field b 0 4), field b 4 2, BitVec.ofNat 64 (field b 8 8)⟩
  else none

/-- A dispatch entry (Table 14-8, R405), for a job of `members` members. -/
def parseDisp (members : Nat) (b : List Byte) : Option DispEnt :=
  let ex := field b 4 2
  let per := field b 6 2
  let rb := field b 8 2
  let st := field b 0xA 2
  if 1 ≤ field b 0 2 ∧ field b 0 2 ≤ 32767 ∧ field b 2 1 ≤ 1 ∧ field b 3 1 = 0 ∧ 1 ≤ ex ∧ ex ≤ 4096 ∧ 1 ≤ per ∧ per ≤ ex ∧
      ex % per = 0 ∧ 1 ≤ st ∧ st ≤ members ∧ rb + (ex / per - 1) * st < members ∧ 1 ≤ field b 0xC 2 ∧ field b 0xC 2 ≤ 4096 ∧
      field b 0xE 2 % 32 = 0 ∧ 32 ≤ field b 0xE 2 ∧ field b 0xE 2 ≤ 544 ∧ (field b 2 1 = 1 ∨ field b 0x10 2 = 0) ∧
      allZero (slice b 0x12 6) ∧ allZero (slice b 0x28 8) ∧ (field b 2 1 = 0 ∨ field b 0x20 8 = 0) then
    some { id := field b 0 2, combine := field b 2 1 = 1, experts := ex, perRank := per, rankBase := rb, stride := st,
           capacity := field b 0xC 2, rowSlot := field b 0xE 2, pair := field b 0x10 2,
           recvObj := BitVec.ofNat 64 (field b 0x18 8), routeObj := BitVec.ofNat 64 (field b 0x20 8) }
  else none

/-- The value of every option, or none. -/
def allSome {α : Type} : List (Option α) → Option (List α)
  | [] => some []
  | some x :: r => (allSome r).map (x :: ·)
  | none :: _ => none

/-- No value twice. -/
def distinct {α : Type} [BEq α] : List α → Bool
  | [] => true
  | x :: r => !r.contains x && distinct r

/-- A combine repeats the expert fields of the dispatch it reverses (Table 14-8). -/
def pairsOk (ds : List DispEnt) : Bool :=
  ds.all fun d => !d.combine || ds.any fun e => !e.combine && e.id == d.pair && e.experts == d.experts &&
    e.perRank == d.perRank && e.rankBase == d.rankBase && e.stride == d.stride && e.capacity == d.capacity

/-- The buffer of `LAYOUT_INSTALL` as its tables give it (R387, R390): none where it breaks them. -/
def parseLayout (b : List Byte) : Option Layout :=
  let m := field b 8 2
  let sc := field b 0xC 4
  let cc := field b 0x10 4
  let gc := field b 0x14 2
  let dc := field b 0x16 2
  let o1 := 0x40 + 144 * m
  let o2 := o1 + 96 * sc
  let o3 := o2 + 8 * cc
  let o4 := o3 + 32 * gc
  if field b 0 4 ≠ 0x50334C59 ∨ field b 4 2 ≠ 1 ∨ m = 0 ∨ 4096 < m ∨ m ≤ field b 6 2 ∨ sc = 0 ∨ 262144 < sc ∨ cc = 0 ∨
      65536 < cc ∨ 4096 < gc ∨ 64 < dc ∨ field b 0x28 8 % 32 ≠ 0 ∨ !allZero (slice b 0x30 16) ∨ b.length ≠ o4 + 48 * dc then none
  else
    match allSome ((pieces 144 m (b.drop 0x40)).map parseMember), allSome ((pieces 96 sc (b.drop o1)).map parseShard),
        allSome ((pieces 8 cc (b.drop o2)).map parseColl), allSome ((pieces 32 gc (b.drop o3)).map parseGather),
        allSome ((pieces 48 dc (b.drop o4)).map (parseDisp m)) with
    | some ms, some shs, some cs, some gs, some ds =>
      if distinct (cs.map (·.1)) && distinct (shs.map (·.id)) && distinct (ds.map (·.id)) && pairsOk ds &&
          shs.all (fun sh => decide (1 ≤ sh.cCount ∧ sh.cCount ≤ m ∧ 1 ≤ sh.cStride ∧ sh.cStride ≤ m)) &&
          distinct (ms.map fun x => (x.node, x.localIx)) &&
          ms.all (fun x => (List.range x.localIx).all fun k => ms.any fun y => y.node == x.node && y.localIx == k) then
        some { rank := BitVec.ofNat 16 (field b 6 2), adopt := BitVec.ofNat 16 (field b 0xA 2), members := ms, shards := shs,
               colls := cs, gathers := gs, disps := ds, paramDpa := field b 0x18 8, normDpa := field b 0x20 8,
               gatherDpa := field b 0x28 8, crc := crc32 (b.take 6 ++ [0, 0] ++ b.drop 8), raw := b }
      else none
    | _, _, _, _, _ => none

/-- Contributor ranks of a shard, ascending (Table 14-6). -/
def contributors (sh : ShardEnt) : List Nat := (List.range sh.cCount).map fun k => sh.cFirst + k * sh.cStride

/-- Fold ranges of a shard (R343). -/
def rangeCount (sh : ShardEnt) : Nat := (sh.count + sh.rangeElems - 1) / sh.rangeElems

/-- Length of range `i` of a shard. -/
def rangeLen (sh : ShardEnt) (i : Nat) : Nat := min sh.rangeElems (sh.count - i * sh.rangeElems)

/-- Insert by first element index. -/
def insShard (x : ShardEnt) : List ShardEnt → List ShardEnt
  | [] => [x]
  | y :: r => if x.first ≤ y.first then x :: y :: r else y :: insShard x r

/-- Shards of a tensor in element order. -/
def tensorShards (lay : Layout) (t : BitVec 24) : List ShardEnt :=
  (lay.shards.filter fun sh => sh.tensor == t).foldr insShard []

/-- The range order of the layout: collective, shard and range (R390). -/
def rangeOrder (lay : Layout) : List (W32 × ShardEnt × Nat) :=
  lay.colls.flatMap fun c => (tensorShards lay c.2).flatMap fun sh => (List.range (rangeCount sh)).map fun i => (c.1, sh, i)

/-- `CONTRIB_OUT` (R390). -/
def contribOut (lay : Layout) : Nat :=
  ((rangeOrder lay).filter fun r => (contributors r.2.1).contains lay.rank.toNat).length

/-- The collective of a tensor. -/
def collOf (lay : Layout) (t : BitVec 24) : W32 :=
  match lay.colls.find? fun c => c.2 == t with
  | some c => c.1
  | none => 0

/-- The entry of a member. -/
def memberOf (lay : Layout) (r : W16) : Option Member := lay.members[r.toNat]?

/-- Ranks of the other members. -/
def peers (lay : Layout) : List W16 := ((List.range lay.members.length).map (BitVec.ofNat 16)).filter (· != lay.rank)

/-! ### Addresses and ports -/

/-- A fabric port that is up with an address and in Chord use (R380, R384). -/
def portUp (s : State) (p : Fin 8) : Bool :=
  (s.fabric.ports[p]).st == 4 && !(s.fabric.ports[p]).withdrawn && !(s.health.fabric.getLsbD p.val) && !s.pins.txIdle

/-- `PORTS` (Table 14-2). -/
def upMask (s : State) : Byte := (fins 8).foldl (fun m p => setBit m p.val (portUp s p)) 0

/-- The modified EUI-64 interface identifier of a management port (R461). -/
def eui64 (p : Fin 2) : BitVec 64 :=
  let m := Config.mgmtMac p
  (m.extractLsb' 24 24 ^^^ 0x020000) ++ (0xFFFE : W16) ++ m.extractLsb' 0 24

/-- The address a management port sends from: global once a prefix is learnt, otherwise link-local (R461). -/
def mgmtAddr (s : State) (p : Fin 2) : Ip6 :=
  match (s.mgmt.ports[p]).prefixes with
  | x :: _ => x ++ eui64 p
  | [] => (0xFE80000000000000 : W64) ++ eui64 p

/-- Announced management addresses of a rank of a job (R464, R465): those that announce the rank, and those of a copy host
whose fabric addresses the layout gives to the rank (R426). -/
def announced (s : State) (job : W32) (rank : W16) : List Ip6 :=
  let mine : List Ip6 := match ((jobOf job s).bind (·.layout)).bind (memberOf · rank) with
    | some m => m.addr.filter (· != 0)
    | none => []
  ((s.mgmt.known.filter fun a => a.job == job &&
    (a.rank == rank || (a.rank == 0xFFFF && a.fabAddr.any fun x => mine.contains x))).flatMap (·.mgmtAddr)).filter (· != 0)

/-- The stream with a peer. -/
def streamOf (j : Job) (peer : W16) (onMgmt : Bool) : Stream :=
  match j.streams.find? fun x => x.peer == peer && x.onMgmt == onMgmt with
  | some x => x
  | none => { peer := peer, onMgmt := onMgmt }

/-- Change a stream of a job, which begins when it is first used. -/
def modStream (job : W32) (peer : W16) (onMgmt : Bool) (g : Stream → Stream) (s : State) : State :=
  modJob job (fun j =>
    let x := g (streamOf j peer onMgmt)
    if j.streams.any fun y => y.peer == peer && y.onMgmt == onMgmt then
      { j with streams := updIf j.streams (fun y => y.peer == peer && y.onMgmt == onMgmt) fun _ => x }
    else { j with streams := j.streams ++ [x] }) s

/-- The common ports with a peer (R384): until the peer has been heard, every port whose address the layout gives. -/
def commonPorts (s : State) (j : Job) (peer : W16) : List (Fin 8) :=
  match j.layout.bind (memberOf · peer) with
  | none => []
  | some m => (fins 8).filter fun p => portUp s p && m.mask.getLsbD p.val &&
      match (streamOf j peer false).ports with
      | some q => q.getLsbD p.val
      | none => true

/-! ### Sending -/

/-- The header of a packet to a member, but for the port it takes. -/
def chordHdr (s : State) (j : Job) (peer : W16) (onMgmt : Bool) (step : W64) (coll : W32) (offset : Nat) (final : Bool) :
    ChordHdr :=
  { via := .fabric 0, src := 0, malformed := false, ce := false, retx := false, ceEcho := false, final := final,
    epoch := j.epoch, job := j.id, step := step, coll := coll, seq := 0,
    srcRank := match j.layout with
      | some l => l.rank
      | none => 0xFFFF,
    dstRank := peer, ports := upMask s, offset := BitVec.ofNat 64 offset, ack := (streamOf j peer onMgmt).recvLow + 1 }

/-- Put a Chord packet on an interface: from a fabric port it goes to the link-layer address of the plane's default router, and
without one it cannot go (R378). -/
def emitChord (v : Via) (dst : Ip6) (kind : BitVec 4) (h : ChordHdr) (payload : List Byte) (s : State) : State :=
  match v with
  | .mgmt _ => emit (.chord v none dst kind h payload) s
  | .fabric p =>
    match (s.fabric.ports[p]).router with
    | some mac => emit (.chord v (some mac) dst kind h payload) s
    | none => s

/-- The common port that the next packet to a member takes: in turn, and another than `avoid` where one exists (R383, R384). -/
def nextPort (s : State) (j : Job) (peer : W16) (avoid : Option (Fin 8)) : Option (Fin 8) :=
  let ps := commonPorts s j peer
  let others := ps.filter fun p => some p != avoid
  let ps := if others.isEmpty then ps else others
  ps[(streamOf j peer false).turn % ps.length]?

/-- Send a packet to a member on a fabric port. -/
def sendVia (j : Job) (peer : W16) (p : Fin 8) (kind : BitVec 4) (h : ChordHdr) (payload : List Byte) (s : State) : State :=
  match j.layout.bind (memberOf · peer) with
  | some m => emitChord (.fabric p) (m.addr.getD p.val 0) kind
      { h with ports := upMask s, ack := (streamOf j peer false).recvLow + 1, via := .fabric p, src := (s.fabric.ports[p]).addr } payload s
  | none => s

/-- Send a packet to a member on a common port, taken in turn, or on every management port that is up. -/
def sendOn (j : Job) (peer : W16) (onMgmt : Bool) (avoid : Option (Fin 8)) (kind : BitVec 4) (h : ChordHdr) (payload : List Byte)
    (s : State) : State :=
  if onMgmt then
    let h := { h with ports := upMask s, ack := (streamOf j peer onMgmt).recvLow + 1 }
    emits (((fins 2).filter (mgmtUp s)).flatMap fun p => (announced s j.id peer).map fun a =>
      .chord (.mgmt p) none a kind { h with via := .mgmt p, src := mgmtAddr s p } payload) s
  else
    match nextPort s j peer avoid with
    | some p => modStream j.id peer false (fun x => { x with turn := x.turn + 1 }) (sendVia j peer p kind h payload s)
    | none => s

/-- Send an unsequenced packet. -/
def sendPlain (job : W32) (peer : W16) (onMgmt : Bool) (kind : BitVec 4) (step : W64) (coll : W32) (offset : Nat)
    (payload : List Byte) (s : State) : State :=
  match jobOf job s with
  | none => s
  | some j => sendOn j peer onMgmt none kind (chordHdr s j peer onMgmt step coll offset false) payload s

/-- Send an unsequenced packet on every common port (R402). -/
def sendAll (job : W32) (peer : W16) (kind : BitVec 4) (step : W64) (payload : List Byte) (s : State) : State :=
  match jobOf job s with
  | none => s
  | some j => (commonPorts s j peer).foldl (fun t p => sendVia j peer p kind (chordHdr s j peer false step 0 0 false) payload t) s

/-- Unacknowledged bytes in flight on a stream (R385). -/
def inFlight (x : Stream) : Nat := ((x.sent.filter (·.sent)).map fun p => p.payload.length).foldl (· + ·) 0

/-- Transmit what waits, oldest first, while the window holds it; `fuel` bounds the count. -/
def pumpStream : Nat → W32 → W16 → Bool → State → State
  | 0, _, _, _, s => s
  | fuel + 1, job, peer, onMgmt, s =>
    match jobOf job s with
    | none => s
    | some j =>
      let x := streamOf j peer onMgmt
      match x.sent.find? (fun p => !p.sent) with
      | none => s
      | some p =>
        if inFlight x ≠ 0 ∧ x.window < inFlight x + p.payload.length then s
        else
          let t := sendOn j peer onMgmt none p.kind { p.hdr with seq := p.seq } p.payload s
          let port := if onMgmt then none else nextPort s j peer none
          pumpStream fuel job peer onMgmt (modStream job peer onMgmt (fun x =>
            { x with sent := updIf x.sent (fun q => q.seq == p.seq) fun q => { q with sent := true, port := port } }) t)

/-- Send a sequenced packet (R383): it takes the next `SEQ` of its stream and waits there for its acknowledgement. -/
def sendSeq (job : W32) (peer : W16) (onMgmt : Bool) (kind : BitVec 4) (step : W64) (coll : W32) (offset : Nat)
    (final : Bool) (payload : List Byte) (s : State) : State :=
  match jobOf job s with
  | none => s
  | some j =>
    let h := chordHdr s j peer onMgmt step coll offset final
    let t := modStream job peer onMgmt (fun x =>
      { x with next := x.next + 1, sent := x.sent ++ [⟨x.next, kind, { h with seq := x.next }, payload, false, none⟩] }) s
    pumpStream ((streamOf j peer onMgmt).sent.length + 1) job peer onMgmt t

/-- Cut bytes into payloads of at most 8,448 bytes (1,184 on the management network, R465), with their offsets. -/
def chunks (size : Nat) (bs : List Byte) : List (Nat × List Byte × Bool) :=
  let n := max 1 ((bs.length + size - 1) / size)
  (List.range n).map fun k => (size * k, (bs.drop (size * k)).take size, k + 1 == n)

/-- Largest payload of a packet (Table 14-2, R465). -/
def payloadMax (onMgmt : Bool) : Nat := if onMgmt then 1184 else 8448

/-- Send bytes from an offset on as sequenced packets, the last with `FINAL`. -/
def sendBytes (job : W32) (peer : W16) (onMgmt : Bool) (kind : BitVec 4) (step : W64) (coll : W32) (offset : Nat)
    (bs : List Byte) (s : State) : State :=
  (chunks (payloadMax onMgmt) bs).foldl (fun t c => sendSeq job peer onMgmt kind step coll (offset + c.1) c.2.2 c.2.1 t) s

/-! ### Receiving -/

/-- `a` comes before `b` modulo 2^32. -/
def seqLt (a b : W32) : Bool := (b - a).toNat != 0 && decide ((b - a).toNat < 2 ^ 31)

/-- Raise the low mark over received numbers. -/
def raiseLow : Nat → W32 → List W32 → W32 × List W32
  | 0, low, r => (low, r)
  | n + 1, low, r => if r.contains (low + 1) then raiseLow n (low + 1) (r.filter (· != low + 1)) else (low, r)

/-- Accept a sequence number once (R383): false for a duplicate. -/
def acceptSeq (x : Stream) (q : W32) : Stream × Bool :=
  if !seqLt x.recvLow q || x.recv.contains q then (x, false)
  else
    let r := raiseLow (x.recv.length + 1) x.recvLow (x.recv ++ [q])
    ({ x with recvLow := r.1, recv := r.2 }, true)

/-- Release acknowledged packets (R383): those below `ack`, and those of the map. -/
def releaseSent (x : Stream) (ack : W32) (map : W64) : Stream :=
  { x with sent := x.sent.filter fun p => !(seqLt p.seq ack ||
      (seqLt ack p.seq && decide ((p.seq - ack - 1).toNat < 64) && map.getLsbD (p.seq - ack - 1).toNat)) }

/-- Take in an acknowledgement, and transmit what the window then holds. -/
def takeAck (job : W32) (peer : W16) (onMgmt : Bool) (ack : W32) (map : W64) (echo : Bool) (s : State) : State :=
  let t := modStream job peer onMgmt (fun x =>
    let y := releaseSent x ack map
    if echo then { y with window := max 0x10000 (y.window / 2) } else y) s
  match jobOf job t with
  | none => t
  | some j => pumpStream (streamOf j peer onMgmt).sent.length job peer onMgmt t

/-- The ACK packet that answers a sequenced packet (Table 14-3). -/
def sendAck (job : W32) (peer : W16) (onMgmt echo : Bool) (s : State) : State :=
  match jobOf job s with
  | none => s
  | some j =>
    let x := streamOf j peer onMgmt
    let map := (List.range 64).foldl (fun m k => m + if x.recv.contains (x.recvLow + 2 + BitVec.ofNat 32 k) then 2 ^ k else 0) 0
    sendOn j peer onMgmt none ptAck { chordHdr s j peer onMgmt 0 0 0 false with ceEcho := echo } (beBytes 8 map) s

/-- The payload of an abort token (Table 14-10). -/
def tokenBytes (t : AbortTok) : List Byte :=
  [t.voteState, t.cause] ++ beBytes 2 t.originRank.toNat ++ beBytes 2 t.detectedRank.toNat ++ zeros 10

/-- Answer a packet of a peer with ABORT, at most once per t_DETECT / 4 (R402, R412, R414). -/
def answerAbort (job : W32) (peer : W16) (onMgmt : Bool) (step : W64) (tok : AbortTok) (s : State) : State :=
  match jobOf job s with
  | none => s
  | some j =>
    let due := match (streamOf j peer onMgmt).answered with
      | some a => decide (a.toNat + s.fabric.tDetect / 4 ≤ (now s).toNat)
      | none => true
    if due then
      sendPlain job peer onMgmt ptAbort step 0 0 (tokenBytes tok)
        (modStream job peer onMgmt (fun x => { x with answered := some (now s) }) s)
    else s

/-- The interface is the management network. -/
def viaMgmt (v : Via) : Bool := match v with
  | .mgmt _ => true
  | .fabric _ => false

/-- Answer a packet of an earlier epoch with ABORT, cause 0x06, the way it came and by the ranks of that epoch, at most once per
t_DETECT / 4 per peer (R414). -/
def answerStale (p : ChordHdr) (tok : AbortTok) (s : State) : State :=
  match jobOf p.job s with
  | none => s
  | some j =>
    let mine := fun (x : W16 × W16 × W64) => x.1 == p.epoch && x.2.1 == p.srcRank
    let due := match j.staleAns.find? mine with
      | some a => decide (a.2.2.toNat + s.fabric.tDetect / 4 ≤ (now s).toNat)
      | none => true
    if due then
      let t := modJob p.job (fun x => { x with staleAns := x.staleAns.filter (fun y => !mine y) ++ [(p.epoch, p.srcRank, now s)] }) s
      emitChord p.via p.src ptAbort { chordHdr s j p.srcRank (viaMgmt p.via) p.step 0 0 false with
        via := p.via, src := match p.via with
          | .fabric q => (s.fabric.ports[q]).addr
          | .mgmt q => mgmtAddr s q,
        srcRank := p.dstRank } (tokenBytes tok) t
    else s

/-- A token of this member for no step of its own. -/
def ownToken (j : Job) (cause : Byte) : AbortTok :=
  ⟨0, cause, match j.layout with
    | some l => l.rank
    | none => 0xFFFF, 0xFFFF⟩

/-- The token that answers a packet of a step that this member has left (R398): the vote state says how it ended here. -/
def leftToken (j : Job) (step : W64) : AbortTok :=
  { ownToken j cauStale with voteState := if j.lastStep ≠ step then 0 else match j.lastOut with
      | 0 => 1
      | 1 => 2
      | _ => 0 }

/-- Count a frame of a fabric port (R380). -/
def countFrame (v : Via) (s : State) : State :=
  match v with
  | .fabric p => modPort p (fun x => { x with frames := x.frames + 1 }) s
  | .mgmt _ => s

/-- Count a stale-epoch packet (R380, R382). -/
def countStale (v : Via) (s : State) : State :=
  match v with
  | .fabric p => counter 5 1 (modPort p (fun x => { x with stale := x.stale + 1 }) s)
  | .mgmt _ => counter 5 1 s

/-- The interface can receive: its link is up and the module runs. -/
def viaUp (s : State) (v : Via) : Bool :=
  match v with
  | .fabric p => (s.fabric.ports[p]).st == 4 && answering s
  | .mgmt p => (s.mgmt.ports[p]).up && answering s

/-- A frame of a fabric port holds more than 9,000 bytes of IPv6 packet (R378). -/
def oversized (v : Via) (bytes : Nat) : Bool :=
  match v with
  | .fabric _ => decide (9000 < bytes)
  | .mgmt _ => false

/-- A Chord packet of `n` payload bytes: one too long for the port is dropped and counted (R378). -/
def sized (p : ChordHdr) (n : Nat) (g : State → State) (s : State) : State :=
  if !viaUp s p.via then s
  else if oversized p.via (96 + n) then counter 6 1 (countFrame p.via s)
  else g s

/-- What the transport makes of a packet: dropped (with what the drop does), or taken by a job. -/
inductive Recv where
  | drop (s : State)
  | take (j : Job) (s : State)
  deriving DecidableEq, Repr

/-- Packet types to which R414 answers with ABORT when they carry an earlier epoch. -/
def answeredKind (k : BitVec 4) : Bool :=
  k == ptData || k == ptVote || k == ptGatherReq || k == ptGatherData || k == ptDispatch || k == ptDispatchEnd

/-- Run `g` on the streams of the epoch one above the installed one (R411, R412). -/
def onNext (job : W32) (g : State → State) (s : State) : State :=
  let turn := fun (up : Bool) (j : Job) => { j with
    streams := j.nextStreams, nextStreams := j.streams, epoch := if up then j.epoch + 1 else j.epoch - 1 }
  modJob job (turn false) (g (modJob job (turn true) s))

/-- Run `g` with the layout that the job held before the installed one (R412). -/
def onPrev (job : W32) (g : State → State) (s : State) : State :=
  let turn := fun (j : Job) => { j with layout := j.prev, prev := j.layout }
  modJob job turn (g (modJob job turn s))

/-- The checks that every Chord packet passes, the acknowledgement it carries, and the stream it belongs to (R382 to R384,
R414). `seqd`: the type is sequenced; `epochOk` says which epochs it may carry; `early` says that it comes too soon to be
taken: it is then not acknowledged, and the sender sends it again. Packets of the epoch one above the installed one run on
the streams of that epoch. A job that is parked takes MIRROR packets and their acknowledgements (R275). After the checks of
R382, a packet whose `SRC_RANK` names no other member has no stream here and is dropped too (log 107). -/
def receive (p : ChordHdr) (kind : BitVec 4) (seqd : Bool) (epochOk early : Job → Bool) (s : State) : Recv :=
  if !viaUp s p.via then .drop s
  else
    let s := countFrame p.via s
    match jobOf p.job s with
    | none => .drop (counter 4 1 s)
    | some j =>
      let opened := j.phase == .opened || (j.phase == .parked && (kind == ptMirror || kind == ptAck))
      let mine := fun (l : Option Layout) => match l with
        | some l => l.rank == p.dstRank
        | none => false
      let known := fun (l : Option Layout) => match l with
        | some l => decide (p.srcRank.toNat < l.members.length) && p.srcRank != l.rank
        | none => false
      let before := kind == ptReshardReq && p.epoch == j.epoch && mine j.prev
      if p.malformed || !opened || !(mine j.layout || before) then .drop (counter 4 1 s)
      else
        let mg := viaMgmt p.via
        let here := p.epoch == j.epoch
        let next := p.epoch == j.epoch + 1 && (kind == ptReshardReq || kind == ptReshardData || kind == ptAck)
        if seqd && !epochOk j then
          let s := countStale p.via s
          if answeredKind kind && decide (0 < (j.epoch - p.epoch).toNat ∧ (j.epoch - p.epoch).toNat < 2 ^ 15) then
            .drop (answerStale p (ownToken j cauStale) s)
          else .drop s
        else if !(known j.layout || (before && known j.prev) || (kind == ptAbort && !here)) then .drop (counter 4 1 s)
        else
          let run := fun (g : State → State) (t : State) => if here then g t else if next then onNext p.job g t else t
          let s := run (fun t => takeAck p.job p.srcRank mg p.ack 0 false
            (modStream p.job p.srcRank mg (fun x => if mg then x else { x with ports := some p.ports }) t)) s
          if early j then .drop s
          else if seqd then
            match jobOf p.job s with
            | none => .drop s
            | some j' =>
              let r := acceptSeq (streamOf (if here then j' else { j' with streams := j'.nextStreams }) p.srcRank mg) p.seq
              let s := run (fun t => sendAck p.job p.srcRank mg p.ce (modStream p.job p.srcRank mg (fun _ => r.1) t)) s
              if r.2 then .take j' s else .drop s
          else .take j s

/-- The installed epoch only. -/
def epochIs (p : ChordHdr) (j : Job) : Bool := p.epoch == j.epoch

/-- Nothing is too soon. -/
def noWait (_ : Job) : Bool := false

/-- The packet's step lies ahead of every step armed here. -/
def stepAhead (p : ChordHdr) (j : Job) : Bool := decide (j.lastArmed < p.step)

/-- A packet of the step that this member aborted last is answered with its token (R402). -/
def lateForAborted (j : Job) (p : ChordHdr) (s : State) : Option State :=
  match j.lastAbort with
  | some (st, tok) =>
    if st = p.step ∧ !(j.run.any fun r => r.step == st && r.st != .resolving) then some (answerAbort p.job p.srcRank (viaMgmt p.via) st tok s) else none
  | none => none

end Sys2Proof.Machine
end

