-- ==== Sys2Proof/Machine/StepOps.lean ====
section
/-! DEFINITION. Sys2Proof/Machine/StepOps.lean: the step of a job: contributions, credits and the fold buffer (R343 to
R345, R391 to R396), staging (R353 to R357), votes, settles and aborts (R359 to R368, R402), and the scale state (R225). -/

namespace Sys2Proof.Machine

/-! ### Proposals of self-expulsion (R456, R457) -/

/-- The condition of R456. -/
def proposes (s : State) : Bool :=
  (s.health.published && decide (s.health.score ≤ 200 ∧ 500 ≤ s.health.conf)) ||
  s.jobs.any fun j => decide (3 ≤ (j.recent.filter id).length)

/-- Evaluate the standing proposal against the ledger (R457). Expulsion does not apply below the floor (R455). -/
def evalProposal (s : State) : State :=
  if s.phase ≠ .ready ∨ s.health.expelled ∨ s.health.granted then s
  else if !proposes s then { s with health.standing := false, health.refusedStanding := false }
  else if s.jrn.hst.budgetUsed < s.jrn.hcfg.budget then
    writeHst { s with health.standing := true, health.granted := true, health.refusedStanding := false,
                      jrn.hst.budgetUsed := s.jrn.hst.budgetUsed + 1 }
  else if s.health.refusedStanding then s
  else
    raiseEvent evHealth (logHealth 0x06 0 0 0 (writeHst { s with health.standing := true, health.refusedStanding := true,
                                                                 jrn.hst.refusals := s.jrn.hst.refusals + 1 }))

/-! ### Sector of a job -/

/-- Columns of a job's sector. -/
def jobCols (s : State) (j : Job) : BitVec 12 := (s.sectors[j.sector]).columns

/-- Facets of a job's sector take a step number (R359, R364). -/
def setFcsrStep (cols : BitVec 12) (v : W64) (s : State) : State :=
  { s with facets := vmap s.facets fun f x => if cols.getLsbD (facetCol f) then { x with step := v } else x }

/-- The step of a job is armed and has neither settled nor aborted. -/
def stepOf (j : Job) : Option StepRun :=
  match j.run with
  | some r => if r.st = .idle then none else some r
  | none => none

/-- A step of the job is armed, or its settle is not complete (R364, R367). -/
def armed (j : Job) : Bool :=
  j.run.isSome || match j.deriveCmd with
    | some d => d.shard.isNone
    | none => false

/-- Change the staging of one shard. -/
def modShard (job : W32) (sh : W32) (g : ShardRun → ShardRun) (s : State) : State :=
  modRun job (fun r => { r with shards := updIf r.shards (fun x => x.id == sh) g }) s

/-- The staging of one shard. -/
def shardRun (r : StepRun) (sh : W32) : Option ShardRun := r.shards.find? fun x => x.id == sh

/-! ### Contributions -/

/-- Biased exponent of a finite nonzero FP32 value; 0 otherwise. -/
def fexpOf (x : W32) : Nat := let e := x.toNat / 2 ^ 23 % 256; if e = 255 then 0 else e

/-- `code_group` (R393): the scale byte and the coded elements of 32 consecutive elements from index `e0`. -/
def codeGroup (seed : W64) (tensor : BitVec 24) (step : W64) (rank e0 : Nat) (xs : List W32) : Byte × List Byte :=
  let em := xs.foldl (fun a x => max a (fexpOf x)) 0
  let X : Byte := BitVec.ofNat 8 (max 0 (min 254 ((em : Int) - 14))).toNat
  (X, xs.mapIdx fun k x =>
    match (fp32 x).scale (127 - (X.toNat : Int)) with
    | .nan => 0x7F
    | .inf neg => if neg then 0xFC else 0x7C
    | .fin m e => BitVec.ofNat 8 (fmtE5M2.round (.sr (rword seed tensor 0x02 step (rank * 2 ^ 40 + e0 + k))) .largest m e).1)

/-- FP32 of a coded element (Table 07-5). -/
def codedFp32 (x : W16) : W32 := elemToFp32 0x1 (x.extractLsb' 8 8) (x.extractLsb' 0 8).toNat

/-- Change a fold range, which begins when it is first used. -/
def modRange (job : W32) (sh : W32) (ix : Nat) (g : FoldRange → FoldRange) (s : State) : State :=
  modRun job (fun r =>
    if r.ranges.any fun x => x.shard == sh && x.index == ix then
      { r with ranges := updIf r.ranges (fun x => x.shard == sh && x.index == ix) g }
    else { r with ranges := r.ranges ++ [g ⟨sh, ix, [], [], false⟩] }) s

/-- A fold range. -/
def rangeOf (r : StepRun) (sh : W32) (ix : Nat) : FoldRange :=
  match r.ranges.find? fun x => x.shard == sh && x.index == ix with
  | some x => x
  | none => ⟨sh, ix, [], [], false⟩

/-- The contribution of a rank to a range has been received whole. -/
def contribDone (fr : FoldRange) (rank : Nat) : Bool := fr.contribs.any fun c => c.rank == rank && c.done

/-- Add decoded elements of a rank's contribution to a range of `len` elements (R344). -/
def addContrib (job : W32) (sh : W32) (ix len rank : Nat) (els : List (Nat × W32)) (s : State) : State :=
  modRange job sh ix (fun fr =>
    let old : Contrib := optGet ⟨rank, [], 0, [], false⟩ (fr.contribs.find? fun c => c.rank == rank)
    let (m, tw) := els.foldl (fun (p : List (Nat × W32) × List Nat) e =>
      (sins p.1 e.1 e.2, if p.1.any fun x => x.1 == e.1 then p.2 ++ [e.1] else p.2)) (old.elems, old.twice)
    let n := old.count + els.length
    { fr with contribs := fr.contribs.filter (fun x => x.rank != rank) ++ [⟨rank, m, n, tw, n == len⟩] }) s

/-- The element that a rank contributes: it has no stated value unless it was handed exactly once (R392, log 35). -/
def contribElem (step : W64) (fr : FoldRange) (rank e : Nat) : W32 :=
  match fr.contribs.find? fun x => x.rank == rank with
  | some x => if (x.elems.any fun y => y.1 == e) && !x.twice.contains e then sget 0 x.elems e else Config.unhanded step rank e
  | none => Config.unhanded step rank e

/-- The reduced gradient of a complete range (R344). -/
def reduceRange (seed step : W64) (sh : ShardEnt) (ix : Nat) (fr : FoldRange) : List W32 :=
  (List.range (rangeLen sh ix)).map fun k =>
    let e := sh.first + ix * sh.rangeElems + k
    let xs := (contributors sh).map fun c => (c, contribElem step fr c e)
    match xs with
    | [] => 0
    | x :: r => r.foldl (fun a y =>
        toFp32 (.sr (rword seed sh.tensor 0x03 step (y.1 * 2 ^ 40 + e))) ((fp32 a).add (fp32 y.2))) x.2

/-- The range is complete (R345). -/
def rangeComplete (sh : ShardEnt) (fr : FoldRange) : Bool := (contributors sh).all (contribDone fr)

/-- Bytes of each fold buffer that serve accumulation (R345). -/
def foldBytes : Nat := 63 * 2 ^ 20

/-- Bytes of a coded contribution of `n` elements. -/
def codedLen (n : Nat) : Nat := (n + 31) / 32 * 33

/-- Contributors of a range from the first, in rank order, that is not received whole: that one is added as it comes. -/
def stillOpen (sh : ShardEnt) (fr : FoldRange) : List Nat := (contributors sh).dropWhile (contribDone fr)

/-- Bytes of the fold buffer that an open range takes (R344, R345): its FP32 area, and the coded form of every contribution
that is admitted and waits for those of lower ranks. -/
def rangeArea (sh : ShardEnt) (ix : Nat) (fr : FoldRange) : Nat :=
  4 * rangeLen sh ix + codedLen (rangeLen sh ix) *
    (((stillOpen sh fr).drop 1).filter fun c => fr.credited.contains c || contribDone fr c).length

/-- Own ranges of one Prism that are open (R345): in range order while they fit. -/
def openRanges (j : Job) (r : StepRun) (prism : Nat) : List (W32 × ShardEnt × Nat) :=
  match j.layout with
  | none => []
  | some lay =>
    let live := (rangeOrder lay).filter fun x => x.2.1.owner == lay.rank && x.2.1.prism == prism &&
      !(rangeOf r x.2.1.id x.2.2).updated && match shardRun r x.2.1.id with
        | some q => q.st == .accumulating || q.st == .committed
        | none => false
    (live.foldl (fun (p : List (W32 × ShardEnt × Nat) × Nat × Bool) x =>
      let a := p.2.1 + rangeArea x.2.1 x.2.2 (rangeOf r x.2.1.id x.2.2)
      if p.2.2 && decide (a ≤ foldBytes) then (p.1 ++ [x], a, true) else (p.1, p.2.1, false)) ([], 0, true)).1

/-- Change a contribution of this module, which begins when it is first used. -/
def modOut (job : W32) (sh : W32) (ix : Nat) (g : OutContrib → OutContrib) (s : State) : State :=
  modRun job (fun r =>
    if r.outs.any fun o => o.shard == sh && o.range == ix then
      { r with outs := updIf r.outs (fun o => o.shard == sh && o.range == ix) g }
    else { r with outs := r.outs ++ [g ⟨sh, ix, [], 0, false, false⟩] }) s

/-- Admit the contribution of rank `c` to a range of this member (R345, R395): another member's by a CREDIT, its own at once. -/
def admitOwn (job : W32) (lay : Layout) (step : W64) (x : W32 × ShardEnt × Nat) (c : Nat) (s : State) : State :=
  let t := modRange job x.2.1.id x.2.2 (fun fr => { fr with credited := fr.credited ++ [c] }) s
  if c = lay.rank.toNat then modOut job x.2.1.id x.2.2 (fun o => { o with credit := true }) t
  else sendPlain job (BitVec.ofNat 16 c) false ptCredit step x.1 (x.2.1.first + x.2.2 * x.2.1.rangeElems)
    (beBytes 4 (rangeLen x.2.1 x.2.2)) t

/-- Admit the contributions that R345 and R395 require: for every open range its next contributor in rank order, then further
contributors while the fold buffer has room for their coded form. -/
def grantCredits (job : W32) (s : State) : State :=
  match jobOf job s with
  | none => s
  | some j =>
    match stepOf j, j.layout with
    | some r, some lay =>
      (List.range 4).foldl (fun t prism =>
        let opened := openRanges j r prism
        let fr := fun (x : W32 × ShardEnt × Nat) => rangeOf r x.2.1.id x.2.2
        let room := foldBytes - (opened.map fun x => rangeArea x.2.1 x.2.2 (fr x)).foldl (· + ·) 0
        let wants := (opened.flatMap fun x => (stillOpen x.2.1 (fr x)).mapIdx fun k c => (x, c, k == 0)).filter fun w =>
          !contribDone (fr w.1) w.2.1 && !(fr w.1).credited.contains w.2.1
        (wants.foldl (fun (p : State × Nat) w =>
          let n := codedLen (rangeLen w.1.2.1 w.1.2.2)
          if w.2.2 then (admitOwn job lay r.step w.1 w.2.1 p.1, p.2)
          else if n ≤ p.2 then (admitOwn job lay r.step w.1 w.2.1 p.1, p.2 - n)
          else p) (t, room)).1) s
    | _, _ => s

/-- Insert a coded group by its first element index. -/
def insGroup (g : CodedGroup) : List CodedGroup → List CodedGroup
  | [] => [g]
  | x :: r => if g.first < x.first then g :: x :: r else x :: insGroup g r

/-- Cut groups into runs of consecutive groups of at most 256, the first run begun with `cur` (R393). -/
def groupRuns (cur : List CodedGroup) : List CodedGroup → List (List CodedGroup)
  | [] => if cur.isEmpty then [] else [cur]
  | g :: r =>
    match cur.getLast? with
    | none => groupRuns [g] r
    | some l => if cur.length < 256 ∧ l.first + 32 = g.first then groupRuns (cur ++ [g]) r else cur :: groupRuns [g] r

/-- The DATA payloads of groups, each with its first element index (R393). -/
def dataPayloads (gs : List CodedGroup) : List (Nat × List Byte) :=
  (groupRuns [] gs).map fun run => (match run with
    | g :: _ => g.first
    | [] => 0, run.flatMap fun g => g.scale :: g.codes)

/-- The elements of groups below index `e1`. -/
def outElems (e1 : Nat) (gs : List CodedGroup) : List (Nat × W32) :=
  gs.flatMap fun g => (g.codes.mapIdx fun k c => (g.first + k, codedFp32 (g.scale ++ c))).filter fun x => decide (x.1 < e1)

/-- Send what is staged and admitted, in range order (R395, R396): the next range follows once one has been sent whole. The
contribution to an own shard goes to the fold buffer over the Vertex–Prism link (R393). `fuel` bounds the count. -/
def pumpOuts : Nat → W32 → State → State
  | 0, _, s => s
  | fuel + 1, job, s =>
    match jobOf job s with
    | none => s
    | some j =>
      match stepOf j, j.layout with
      | some r, some lay =>
        match (rangeOrder lay).find? fun x => (contributors x.2.1).contains lay.rank.toNat &&
            !(r.outs.any fun o => o.shard == x.2.1.id && o.range == x.2.2 && o.sent) with
        | none => s
        | some x =>
          match r.outs.find? fun o => o.shard == x.2.1.id && o.range == x.2.2 with
          | none => s
          | some o =>
            if !o.credit then s
            else
              let n := rangeLen x.2.1 x.2.2
              let whole := o.count == n
              let t := modOut job o.shard o.range (fun q => { q with sent := whole, groups := [] }) s
              let t :=
                if x.2.1.owner = lay.rank then
                  addContrib job x.2.1.id x.2.2 n lay.rank.toNat
                    (outElems (x.2.1.first + x.2.2 * x.2.1.rangeElems + n) o.groups) t
                else
                  let ps := dataPayloads o.groups
                  (ps.foldl (fun (p : State × Nat) d =>
                    (sendSeq job x.2.1.owner false ptData r.step x.1 d.1 (whole && p.2 + 1 == ps.length) d.2 p.1, p.2 + 1)) (t, 0)).1
              if whole then pumpOuts fuel job t else t
      | _, _ => s

/-- Send what can be sent and let in what fits: what an own contribution adds may make room for more. `fuel` bounds
the rounds. -/
def pumpRounds : Nat → W32 → State → State
  | 0, _, s => s
  | fuel + 1, job, s =>
    match (jobOf job s).bind stepOf with
    | some r =>
      let t := pumpOuts (r.outs.length + 1) job (grantCredits job s)
      (match (jobOf job t).bind stepOf with
       | some q => if (q.outs.filter (·.sent)).length = (r.outs.filter (·.sent)).length then grantCredits job t else pumpRounds fuel job t
       | none => t)
    | none => s

/-- Send what can be sent and let in what fits. -/
def pumpStep (job : W32) (s : State) : State :=
  match (jobOf job s).bind stepOf with
  | some r => pumpRounds (r.outs.length + 2) job s
  | none => s

/-! ### Votes -/

/-- The bytes of a vote or confirm record (Table 13-9). -/
def voteBytes (v : VoteRec) (confirm : Bool) : List Byte :=
  let b := [if confirm then 2 else 1,
      BitVec.ofNat 8 (bit v.nonfinite + 2 * bit v.staged + 4 * bit v.forced + 8 * bit (confirm && v.commit))] ++
    beBytes 2 v.epoch.toNat ++ beBytes 4 v.job.toNat ++ beBytes 8 v.step.toNat ++ beBytes 8 v.generation.toNat ++
    beBytes 2 v.rank.toNat ++ beBytes 2 v.members.toNat ++ beBytes 2 v.replicaGroup.toNat ++ beBytes 2 v.microBatches.toNat ++
    beBytes 8 v.digest.toNat ++ beBytes 4 v.forceCause.toNat ++ beBytes 2 v.tDetectUs.toNat ++ zeros 14
  b ++ beBytes 4 (crc32 b).toNat

/-- Two records differ where `decide` lets no two differ (R363): then SKIP is certain. -/
def clash (x y : VoteRec) : Bool :=
  x.epoch != y.epoch || x.members != y.members || x.microBatches != y.microBatches || x.tDetectUs != y.tDetectUs ||
  (x.generation != 0xFFFFFFFFFFFFFFFF && y.generation != 0xFFFFFFFFFFFFFFFF && x.generation != y.generation) ||
  (x.replicaGroup == y.replicaGroup && x.replicaGroup != 0xFFFF && x.digest != y.digest)

/-- A record that makes SKIP certain by itself (R363). -/
def spoils (x : VoteRec) : Bool := x.forced || x.nonfinite || !x.staged

/-- SKIP is certain from these records (R363). -/
def certainSkip (vs : List VoteRec) : Bool := vs.any spoils || vs.any fun x => vs.any (clash x)

/-- `decide(records)` (R363): true is COMMIT. -/
def decideCommit (vs : List VoteRec) : Bool := !certainSkip vs

/-- Every shard of the member is STAGED. -/
def allStaged (r : StepRun) : Bool := r.shards.all fun x => x.st == .staged

/-- The Chord engine has delivered every contribution of the step (R361): each is sent, and no DATA packet of the step is
unacknowledged. -/
def contribsDelivered (j : Job) (r : StepRun) : Bool :=
  match j.layout with
  | none => true
  | some lay => (r.outs.filter (·.sent)).length == contribOut lay &&
      j.streams.all fun x => x.sent.all fun p => !(p.kind == ptData && p.hdr.step == r.step)

/-- This member's vote record (R361, Table 13-9). -/
def ownRecord (s : State) (j : Job) (r : StepRun) : VoteRec :=
  let staged := allStaged r && r.force == 0
  { nonfinite := r.shards.any (·.nonfinite), staged := staged, forced := r.force != 0, commit := false, epoch := j.epoch,
    job := j.id, step := r.step, generation := r.gen,
    rank := match j.layout with
      | some l => l.rank
      | none => 0,
    members := match j.layout with
      | some l => BitVec.ofNat 16 l.members.length
      | none => 0,
    replicaGroup := match j.layout.bind fun l => memberOf l l.rank with
      | some m => m.group
      | none => 0xFFFF,
    microBatches := r.micro,
    digest := if staged then (r.shards.map (·.newDigest)).foldl (· + ·) 0 else 0,
    forceCause := BitVec.ofNat 32 r.force, tDetectUs := BitVec.ofNat 16 s.fabric.tDetect, crcOk := true }

/-- Send a record to every other member on the fabric and on the management network (R362, R399). -/
def sendRecord (job : W32) (v : VoteRec) (confirm : Bool) (s : State) : State :=
  match (jobOf job s).bind (·.layout) with
  | none => s
  | some lay => (peers lay).foldl (fun t peer =>
      let t := sendSeq job peer false ptVote v.step 0 0 false (voteBytes v confirm) t
      if (announced t job peer).isEmpty then t
      else sendSeq job peer true ptVote v.step 0 0 false (voteBytes v confirm) t) s

/-! ### Settles -/

/-- Result bytes of a final `STEP_ARM` completion (Table 04-12). -/
def armResult (gen step : W64) (flags : Nat) : List Byte := leBytes 8 gen.toNat ++ leBytes 8 step.toNat ++ leBytes 1 flags

/-- The reduced flags (Table 04-12, R365): non-finite seen, all staged, SKIP forced by damaged state. -/
def reducedFlags (r : StepRun) : Nat :=
  bit (r.votes.any (·.nonfinite)) + 2 * bit (!r.votes.isEmpty && r.votes.all (·.staged)) +
  4 * bit (r.votes.any fun v => v.forced && (v.forceCause == 1 || v.forceCause == 5 || v.forceCause == 6))

/-- Restore the armed copy of the scale tables after SKIP or abort (R225 item 4): each facet gets its own entries back. -/
def restoreScales (j : Job) (s : State) : State :=
  match j.armedScale with
  | none => s
  | some es =>
    let cols := jobCols s j
    let flagged := (takeScalesOf j.armedCols cols s).filter fun e => e.2.satStep || e.2.nfStep
    giveScalesOf j.armedCols cols (flagged.foldl (fun m e => sset {} m e.1 { sget {} m e.1 with corr := 16 }) es) s

/-- Drop the step's packets from the streams: they are not sent again (R402). -/
def dropStepPackets (step : W64) (x : Stream) : Stream := { x with sent := x.sent.filter fun p => p.hdr.step != step }

/-- DMA operations of a step that a facet of the job's sector holds complete with E_ABORTED (R402). -/
def abortDma (k : Fin 4) (step : W64) (f : Facet) : Facet :=
  if f.sector ≠ some k then f
  else
  let mine := fun (q : QEnt) => match q.op with
    | .dmaChd _ _ _ st => st == step
    | .dmaDsp _ _ _ st => st == step
    | _ => false
  { f with flight := f.flight.filter fun q => !mine q, dmaQ := f.dmaQ.filter fun q => !mine q,
           tags := ((f.flight ++ f.dmaQ).filter mine).foldl (fun t q => vupd t q.tag fun g =>
             { outstanding := g.outstanding - 1, sticky := if g.sticky = stOk then stAborted else g.sticky }) f.tags }

/-- The status sector of a gather entry (R398, Table 12-4). -/
def gatherStatus (dpa i : Nat) (loc : W64) (step : W64) (state : Nat) (code : W16) (s : State) : State :=
  writeBytes (dpa + 32 * i) (layout 32 [(0, leBytes 8 loc.toNat), (8, leBytes 8 step.toNat), (0x10, leBytes 1 state),
    (0x12, leBytes 2 code.toNat)]) s

/-- Gathers in progress fail with E_ABORTED (R398). -/
def failGathers (job : W32) (s : State) : State :=
  match jobOf job s with
  | none => s
  | some j =>
    match j.run, j.layout with
    | some r, some lay => r.gathers.foldl (fun t i => gatherStatus lay.gatherDpa i 0xFFFFFFFFFFFFFFFF r.step 3 stAborted t) s
    | _, _ => s

/-- The step ends without COMMIT (R365, R366): the commit sector stays, the scale tables are restored, `STEP_ARM` completes
with E_SKIPPED or E_ABORTED. `out` is the last outcome of `STEP_STATUS`. -/
def settleNot (job : W32) (aborted : Bool) (s : State) : State :=
  match jobOf job s with
  | none => s
  | some j =>
    match j.run with
    | none => s
    | some r =>
      let t := if aborted then failGathers job s else s
      let t := restoreScales j t
      let t := setFcsrStep (jobCols t j) 0 t
      let t := if aborted then { t with mbx.aborts := t.mbx.aborts + 1 } else { t with mbx.skips := t.mbx.skips + 1 }
      let t := modJob job (fun x => { x with
        run := none, armedScale := none, lastStep := r.step, lastOut := if aborted then 2 else 1,
        recent := (x.recent ++ [r.force != 0]).drop (x.recent.length + 1 - 8),
        streams := x.streams.map (dropStepPackets' r.step aborted) }) t
      let t := match r.cmd with
        | some h => complete h (if aborted then stAborted else stSkipped) (armResult (genOf j) r.step (reducedFlags r)) t
        | none => t
      evalProposal t
where
  /-- An aborted step's packets are dropped; a skipped step's votes stay until they are acknowledged. -/
  dropStepPackets' (step : W64) (aborted : Bool) (x : Stream) : Stream :=
    if aborted then dropStepPackets step x
    else { x with sent := x.sent.filter fun p => p.hdr.step != step || p.kind == ptVote }

/-- Generation h is a snapshot generation of a binding (R417). -/
def isSnapGen (b : Binding) (h : W64) : Bool := h.toNat % b.everyN == 1 % b.everyN

/-- Settle COMMIT (R364): the job commit sector, `FCSR_STEP` and `TEL_STEP_Sn`; the working copies and the completion
follow. -/
def settleCommit (job : W32) (s : State) : State :=
  match jobOf job s with
  | none => s
  | some j =>
    match j.run with
    | none => s
    | some r =>
      let g := match r.votes.find? fun v => v.generation != 0xFFFFFFFFFFFFFFFF with
        | some v => v.generation
        | none => r.gen
      let t := writeCommit job ⟨j.epoch, true, g + 1, r.step, s.jrn.boot.bootCount⟩ s
      let t := setFcsrStep (jobCols t j) 0 t
      let t := modJob job (fun x => { x with
        run := none, armedScale := none, lastStep := r.step, lastOut := 0, uncommitted := [],
        recent := (x.recent ++ [r.force != 0]).drop (x.recent.length + 1 - 8),
        derive := (jobShards j).map (·.id),
        deriveCmd := r.cmd.map fun h => ⟨h, none, armResult (g + 1) r.step (reducedFlags r)⟩,
        snapNext := match x.binding with
          | some b => if isSnapGen b (g + 1) then x.snapNext ++ [g + 1] else x.snapNext
          | none => [] }) t
      let t := { t with mbx.telSeq := t.mbx.telSeq + 2, mbx.telStep := vupd t.mbx.telStep j.sector fun _ => r.step }
      evalProposal t

/-- A `PARK` of the job waits in DEFERRED (R274). -/
def parkDeferred (j : Job) : Bool :=
  match j.pend with
  | some (.park _ d) => d
  | _ => false

/-- The vote state of a token (R366). -/
def voteState (r : StepRun) : Byte := if r.st = .decided ∨ r.st = .resolving then 1 else 0

/-- Send an abort token of a step to every other member, on every fabric port and every management port (R35, R402). -/
def floodToken (job : W32) (lay : Layout) (step : W64) (tok : AbortTok) (s : State) : State :=
  (peers lay).foldl (fun t peer =>
    sendPlain job peer true ptAbort step 0 0 (tokenBytes tok) (sendAll job peer ptAbort step (tokenBytes tok) t)) s

/-- The step of a job aborts on this member (R366, R402): its token floods, its DMA operations complete with E_ABORTED, its
data is discarded, and it settles by its vote state. -/
def abortStep (job : W32) (cause : Byte) (origin : Option W16) (detected : W16) (s : State) : State :=
  match jobOf job s with
  | none => s
  | some j =>
    match j.run, j.layout with
    | some r, some lay =>
      if r.st = .resolving then s
      else
        let tok : AbortTok := ⟨voteState r, cause, optGet lay.rank origin, detected⟩
        let t := floodToken job lay r.step tok s
        let t := { t with facets := vmap t.facets fun _ f => abortDma j.sector r.step f }
        let t := raiseEvent evAbort t
        let t := if cause = cauLocal then evidence 0x17 1 t else t
        let t := modJob job (fun x => { x with
          lastAbort := some (r.step, tok), streams := x.streams.map (dropStepPackets r.step),
          run := x.run.map fun q => { q with ranges := [], outs := [], disps := [] } }) t
        if voteState r = 1 then modRun job (fun q => { q with st := .resolving }) t
        else settleNot job true t
    | _, _ => s

/-- A confirm set is complete: settle COMMIT (R364, Table 13-10). -/
def afterConfirms (job : W32) (s : State) : State :=
  match jobOf job s with
  | none => s
  | some j =>
    match j.run, j.layout with
    | some r, some lay =>
      if (r.st = .decided ∨ r.st = .resolving) ∧ lay.members.length ≤ r.confirms.length then settleCommit job s else s
    | _, _ => s

/-- Cast this member's vote (R361): the record goes to every member on both networks. A forced vote is a local step failure
(class 0x17, counter 15). -/
def castVote (job : W32) (s : State) : State :=
  match jobOf job s with
  | none => s
  | some j =>
    match j.run with
    | none => s
    | some r =>
      let v := ownRecord s j r
      let t := sendRecord job v false s
      let t := if v.forced then counter 15 1 (evidence 0x17 1 t) else t
      modRun job (fun q => { q with st := .voted, ownVote := some v, votes := q.votes ++ [v] }) t

/-- What the records held make certain (R363, Table 13-10): SKIP at once, or the decision once every record is held. -/
def afterVotes (job : W32) (s : State) : State :=
  match jobOf job s with
  | none => s
  | some j =>
    match j.run, j.layout with
    | some r, some lay =>
      if r.st = .armed ∧ certainSkip r.votes then settleNot job false (castVote job s)
      else if r.st = .voted then
        if certainSkip r.votes then settleNot job false s
        else if lay.members.length ≤ r.votes.length then
          match r.ownVote with
          | some v =>
            let c := { v with commit := true }
            afterConfirms job (modRun job (fun q => { q with st := .decided, confirms := q.confirms ++ [c] }) (sendRecord job c true s))
          | none => s
        else s
      else s
    | _, _ => s

/-- A local failure of the armed step (R361): before the vote it will be forced with the cause of the first failure; after
it, the step aborts with cause 0x04. -/
def localFailure (job : W32) (cause : Nat) (s : State) : State :=
  match jobOf job s with
  | none => s
  | some j =>
    match j.run with
    | none => s
    | some r =>
      let t := modRun job (fun q => { q with force := if q.force = 0 then cause else q.force }) s
      if r.st = .armed then t else abortStep job cauLocal none 0xFFFF t

/-- A shard fails (Table 13-8), which is a local failure of the step. -/
def failShard (job sh : W32) (cause : Nat) (s : State) : State :=
  localFailure job cause (modShard job sh (fun x => { x with st := .failed cause }) s)

/-- Shards whose Prism is lost fail with cause 4 (R310, R360). -/
def failLostShards (s : State) : State :=
  s.jobs.foldl (fun t j =>
    (jobShards j).foldl (fun t sh =>
      match (jobOf j.id t).bind (·.run) with
      | some r =>
        match shardRun r sh.id with
        | some q =>
          if prismOut t (finOf sh.prism) ∧ (q.st = .committed ∨ q.st = .accumulating ∨ q.st = .staged) then failShard j.id sh.id 4 t else t
        | none => t
      | none => t) t) s

/-! ### Staging -/

/-- R355: the slot that the staging of `gen` + 1 writes may be written. A snapshot that waits to begin will read its slot
(R423). -/
def mayStage (j : Job) (gen : W64) : Bool :=
  (j.snapNext.all fun h => h.toNat % 2 != (gen + 1).toNat % 2) &&
  (match j.snap with
   | some x => x.gen.toNat % 2 != (gen + 1).toNat % 2
   | none => true) &&
  (match j.binding with
   | some b =>
     if 1 < b.everyN ∧ isSnapGen b gen then
       !j.snapNext.contains gen && (match j.snap with
         | some x => x.gen != gen
         | none => true)
     else true
   | none => true)

/-- Update one complete range (R353): the target record is first written invalid; an uncorrectable read or a lost Prism
fails the shard; after the last range the digest is compared, and the norm records and the commit record are written. -/
def stageRange (job : W32) (sh : ShardEnt) (ix : Nat) (s : State) : State :=
  match jobOf job s with
  | none => s
  | some j =>
    match j.run, j.layout with
    | some r, some lay =>
      let g := r.gen
      let b0 := slotOf g
      let b1 := slotOf (g + 1)
      let fr := rangeOf r sh.id ix
      let gs := reduceRange j.seed r.step sh ix fr
      let t := match shardRun r sh.id with
        | some q => if q.begun then s else putRec sh b1 ⟨g + 1, 0, r.step, j.epoch, j.rule, false⟩ s
        | none => s
      let o := ix * sh.rangeElems
      match readPart rqFold j.rule sh b0 o (rangeLen sh ix) t with
      | (t, .error c) => failShard job sh.id c t
      | (t, .ok p) =>
        let (p1, bad) := updateRange j r.params r.step sh o p gs
        let (t, ok1) := writePart j.rule sh b1 o p1 t
        if !ok1 then failShard job sh.id 1 t
        else
        let t := modShard job sh.id (fun q => { q with
          begun := true, newDigest := q.newDigest + partDigest j.rule sh o p1, oldDigest := q.oldDigest + partDigest j.rule sh o p,
          nonfinite := q.nonfinite || bad, norms := normsAdd q.norms p1.w p.w gs }) t
        let t := modRange job sh.id ix (fun x => { x with updated := true, contribs := [] }) t
        match ((jobOf job t).bind (·.run)).bind (shardRun · sh.id), (jobOf job t).bind (·.run) with
        | some q, some r' =>
          if (List.range (rangeCount sh)).all fun i => (rangeOf r' sh.id i).updated then
            match readRec rqFold sh b0 t with
            | (t, .unreadable) => failShard job sh.id (if (match objDpa t sh.shardObj with
                | some d => rangeAbsent t d 64
                | none => true : Bool) then 4 else 1) t
            | (t, .invalid) => failShard job sh.id 5 t
            | (t, .found old) =>
            if old.digest ≠ q.oldDigest then failShard job sh.id 5 t
            else
              let t := (List.range 3).foldl (fun t k =>
                let a := lay.normDpa + 128 * (3 * sh.normIndex + k)
                if rangeAbsent t a 128 then logMem 0x07 rqFold a false 0xFF t
                else writeBytes a (normBytes sh.layer k j.epoch (g + 1) (q.norms[(finOf k : Fin 3)])) t) t
              let t := putRec sh b1 ⟨g + 1, q.newDigest, r.step, j.epoch, j.rule, true⟩ t
              modShard job sh.id (fun q => { q with st := .staged }) t
          else t
        | _, _ => t
    | _, _ => s

/-- Every member's vote is due now (R361): all shards staged and all contributions delivered, a local failure, or a record
that makes SKIP certain. -/
def voteDue (j : Job) (r : StepRun) : Bool :=
  r.st == .armed && (r.force != 0 || (allStaged r && contribsDelivered j r) || certainSkip r.votes)

/-! ### Stopping a sector -/

/-- A sector that runs stops as at a facet error and becomes FAULTED (R175, R260, R261). -/
def faultSector (k : Fin 4) (s : State) : State :=
  let x := s.sectors[k]
  if x.st = .running ∨ x.st = .loaded ∨ x.st = .empty ∨ x.st = .faulted then
    modSector k (fun x => { x with st := .faulted, cadence := 0 }) (stopSectorFacets k s)
  else s

end Sys2Proof.Machine
end

