-- ==== Sys2Proof/Machine/DmaEngine.lean ====
section
/-! DEFINITION. Sys2Proof/Machine/DmaEngine.lean: the completion of facet DMA operations (R157 to R163), the Chord engine's
taking of tiles (R391 to R396), the Dispatch engine (R405 to R409), and the stop of a sector after a facet fault (R175). -/

namespace Sys2Proof.Machine

/-! ### Dispatch (R405 to R409) -/

/-- The progress of a dispatch in the step. -/
def dispRun (r : StepRun) (id : Nat) : DispRun :=
  match r.disps.find? fun d => d.id == id with
  | some d => d
  | none => { id := id }

/-- Change the progress of a dispatch, which begins when it is first used. -/
def modDisp (job : W32) (id : Nat) (g : DispRun → DispRun) (s : State) : State :=
  modRun job (fun r =>
    if r.disps.any fun d => d.id == id then { r with disps := updIf r.disps (fun d => d.id == id) g }
    else { r with disps := r.disps ++ [g { id := id }] }) s

/-- Owner rank of an expert (R405). -/
def ownerRank (d : DispEnt) (e : Nat) : Nat := d.rankBase + e / d.perRank * d.stride

/-- Owner ranks of a dispatch. -/
def ownerRanks (d : DispEnt) : List Nat := (List.range (d.experts / d.perRank)).map fun k => d.rankBase + k * d.stride

/-- Offset of slot 0 in a dispatch's receive object (Table 14-9). -/
def recvBase (d : DispEnt) (members : Nat) : Nat := roundUp (64 + 2 * d.perRank * members) 4096

/-- The Dispatch engine writes bytes into an object at an offset: whole sectors, other bytes of theirs kept (R292). A sector
that cannot be read aborts the step (R303). Nothing is written beyond the object's end (log 108). -/
def writeObj (job : W32) (o : W64) (off : Nat) (bs : List Byte) (s : State) : State :=
  match objOf o s with
  | none => s
  | some x =>
    if x.tier ≠ 0 ∨ x.size < off + bs.length then s
    else
      match mergeLoc rqDisp (x.loc + off) bs.length (cellsOf bs) s with
      | (t, true) => t
      | (t, false) => abortStep job cauLocal none 0xFFFF t

/-- Write the header sector of a receive object: `STEP` and `SOURCES_DONE` (Table 14-9). -/
def recvHeader (job : W32) (d : DispEnt) (step : W64) (sources : Nat) (s : State) : State :=
  writeObj job d.recvObj 0 (layout 32 [(0, leBytes 8 step.toNat), (8, leBytes 4 sources)]) s

/-- The rows before an end have all arrived (R408, R409): as many as its counts, or for a combine every packet that its sender
sent before it. -/
def endDue (j : Job) (d : DispEnt) (q : DispRun) (e : Nat × List Nat × Option W32) : Bool :=
  if d.combine then match e.2.2 with
    | some n => !seqLt (streamOf j (BitVec.ofNat 16 e.1) false).recvLow n
    | none => true
  else decide (e.2.1.foldl (· + ·) 0 ≤ sget 0 q.rowsIn e.1)

/-- Ends whose rows have all arrived take effect (R408): the counts, then the header sector. -/
def settleEnds (job : W32) (d : DispEnt) (members : Nat) (step : W64) (s : State) : State :=
  match jobOf job s with
  | none => s
  | some j =>
    match j.run with
    | none => s
    | some r =>
      ((dispRun r d.id).ends.filter (endDue j d (dispRun r d.id))).foldl (fun t e =>
        let t := if d.combine then t else
          (e.2.1.foldl (fun (p : State × Nat) n =>
            (writeObj job d.recvObj (0x40 + 2 * (p.2 * members + e.1)) (leBytes 2 n) p.1, p.2 + 1)) (t, 0)).1
        let t := modDisp job d.id (fun x => { x with sources := x.sources + 1, ends := x.ends.filter (·.1 != e.1) }) t
        match (jobOf job t).bind (·.run) with
        | some r' => recvHeader job d step (dispRun r' d.id).sources t
        | none => t) s

/-- Combines whose owners have ended are judged again: a packet that came late may have been their last. -/
def settleCombines (job : W32) (s : State) : State :=
  match jobOf job s with
  | none => s
  | some j =>
    match stepOf j, j.layout with
    | some r, some lay => (lay.disps.filter fun d => d.combine && !(dispRun r d.id).ends.isEmpty).foldl
        (fun t d => settleEnds job d lay.members.length r.step t) s
    | _, _ => s

/-- A dispatch row reaches its owner: it is written to its slot (R407, R408). -/
def takeRow (job : W32) (d : DispEnt) (members : Nat) (step : W64) (src slot : Nat) (row : List Byte) (s : State) : State :=
  let t := writeObj job d.recvObj (recvBase d members + slot * d.rowSlot) (padTo d.rowSlot row) s
  settleEnds job d members step (modDisp job d.id (fun x => { x with rowsIn := sset 0 x.rowsIn src (sget 0 x.rowsIn src + 1) }) t)

/-- A combine row returns to its source: the take index comes from the route object (R409). An uncorrectable read of the
route object aborts the step (R303). -/
def takeBack (job : W32) (d : DispEnt) (route : W64) (members : Nat) (owner slot : Nat) (row : List Byte) (s : State) :
    State :=
  match objDpa s route with
  | none => s
  | some ro =>
    let x := slot / (d.capacity * members)
    let e := (owner - d.rankBase) / d.stride * d.perRank + x
    match readBytes rqDisp (ro + 0x20 + 4 * (e * d.capacity + slot % d.capacity)) 4 s with
    | (t, none) => abortStep job cauLocal none 0xFFFF t
    | (t, some b) => writeObj job d.recvObj (0x1000 + leNat b * d.rowSlot) (padTo d.rowSlot row) t

/-- The route object of the dispatch that a combine reverses. -/
def routeOf (lay : Layout) (d : DispEnt) : W64 :=
  match lay.disps.find? fun x => x.id == d.pair with
  | some x => x.routeObj
  | none => 0

/-- An end reaches its receiver (R408, R409). -/
def takeEnd (job : W32) (d : DispEnt) (members : Nat) (step : W64) (src : Nat) (counts : List Nat) (seq : Option W32) (s : State) :
    State :=
  settleEnds job d members step (modDisp job d.id (fun x => { x with ends := x.ends ++ [(src, counts, seq)] }) s)

/-- The bytes of row i as it travels (R406): its padded row, then for a scaled tile its four scale bytes in 32 bytes. -/
def rowBytes (m : List Host.Cell) (td : BitVec 128) (i : Nat) : List Byte :=
  mread m (tdBase td + i * tdStride td) (tdPadded td) ++
  (if isScaled (tdFmt td) then padTo 32 (mread m (tdScaleBase td + 4 * i) 4) else [])

/-- Take one row of a dispatch (R407): its route is written, and unless it is not sent or overflows it goes to its owner. -/
def dispatchRow (job : W32) (lay : Layout) (d : DispEnt) (step : W64) (expert : Nat) (row : List Byte) (s : State) : State :=
  match (jobOf job s).bind (·.run) with
  | none => s
  | some r =>
    let q := dispRun r d.id
    let members := lay.members.length
    let n := q.taken
    let route := fun (v : Nat) (t : State) => writeObj job d.routeObj (0x20 + 4 * d.experts * d.capacity + 8 * n) (leBytes 8 v) t
    if expert = 0xFFFF then modDisp job d.id (fun x => { x with taken := n + 1 }) (route (2 ^ 64 - 1) s)
    else
      let k := sget 0 q.perExp expert
      let owner := ownerRank d expert
      let slot := (expert % d.perRank * members + lay.rank.toNat) * d.capacity + k
      if d.capacity ≤ k then
        modDisp job d.id (fun x => { x with taken := n + 1, overflow := x.overflow + 1, perExp := sset 0 x.perExp expert (k + 1) })
          (route (2 ^ 63) s)
      else
        let t := modDisp job d.id (fun x => { x with taken := n + 1, perExp := sset 0 x.perExp expert (k + 1) }) s
        let t := writeObj job d.routeObj (0x20 + 4 * (expert * d.capacity + k)) (leBytes 4 n) (route (owner + 2 ^ 16 * slot) t)
        if owner = lay.rank.toNat then takeRow job d members step owner slot row t
        else sendSeq job (BitVec.ofNat 16 owner) false ptDispatch step (BitVec.ofNat 32 d.id) slot false row t

/-- Take one row of a combine (R409): it goes back to the source that its slot names. -/
def combineRow (job : W32) (lay : Layout) (d : DispEnt) (step : W64) (slot : Nat) (row : List Byte) (s : State) : State :=
  let members := lay.members.length
  let src := slot / d.capacity % members
  let t := modDisp job d.id (fun x => { x with taken := x.taken + 1 }) s
  if src = lay.rank.toNat then takeBack job d (routeOf lay d) members src slot row t
  else sendSeq job (BitVec.ofNat 16 src) false ptDispatch step (BitVec.ofNat 32 d.id) slot false row t

/-- `END` has been taken (R407, R409): the ends go to every owner with its counts, or to every source. An end is the last packet
of its dispatch and carries `FINAL` (Table 14-2). -/
def sendEnds (job : W32) (lay : Layout) (d : DispEnt) (step : W64) (s : State) : State :=
  match (jobOf job s).bind (·.run) with
  | none => s
  | some r =>
    let q := dispRun r d.id
    let members := lay.members.length
    let t := modDisp job d.id (fun x => { x with ended := true }) s
    let counts := fun (o : Nat) => (List.range d.perRank).map fun x =>
      min d.capacity (sget 0 q.perExp ((o - d.rankBase) / d.stride * d.perRank + x))
    let dst := if d.combine then List.range members else ownerRanks d
    dst.foldl (fun t o =>
      let c := if d.combine then [] else counts o
      if o = lay.rank.toNat then takeEnd job d members step o c none t
      else sendSeq job (BitVec.ofNat 16 o) false ptDispatchEnd step (BitVec.ofNat 32 d.id) 0 true
        (c.flatMap fun n => beBytes 2 n) t) t

/-- Write the header of a route object: `STEP`, `ROWS_TAKEN`, `OVERFLOWED` (Table 14-9). -/
def routeHeader (job : W32) (d : DispEnt) (step : W64) (s : State) : State :=
  match (jobOf job s).bind (·.run) with
  | none => s
  | some r =>
    let q := dispRun r d.id
    writeObj job d.routeObj 0 (layout 32 [(0, leBytes 8 step.toNat), (8, leBytes 4 q.taken), (0xC, leBytes 4 q.overflow)]) s

/-! ### What an operation of the Chord or Dispatch engine answers -/

/-- The job that runs in a facet's sector, with its armed step, when the step is the operation's (R391). -/
def engineJob (s : State) (f : Facet) (step : W64) : Option (Job × StepRun × Layout) :=
  match f.sector with
  | none => none
  | some k =>
    match s.jobs.find? fun j => j.phase == .opened && j.sector == k with
    | none => none
    | some j =>
      match stepOf j, j.layout with
      | some r, some l => if r.step = step ∧ r.st ≠ .resolving then some (j, r, l) else none
      | _, _ => none

/-- What the engine does with an operation: it waits, or it completes with a status. -/
inductive Took where
  | wait
  | done (st : W16) (s : State)
  deriving DecidableEq, Repr

/-- An E_ARG of the engines is a local failure with cause 8 (R361). -/
def refuse (job : W32) (s : State) : Took := .done stArg (localFailure job 8 s)

/-- Bytes of Vertex SRAM that stage contributions (R396). -/
def stageBytes : Nat := 48 * 2 ^ 20

/-- DATA packets of a step that wait for the window of their stream. -/
def waitingData (j : Job) (step : W64) : List SentPkt :=
  j.streams.flatMap fun x => x.sent.filter fun p => p.kind == ptData && p.hdr.step == step && !p.sent

/-- Coded bytes staged and not sent (R396). -/
def stagedBytes (j : Job) (r : StepRun) : Nat :=
  (r.outs.map fun o => 33 * o.groups.length).foldl (· + ·) 0 + ((waitingData j r.step).map fun p => p.payload.length).foldl (· + ·) 0

/-- The staging area is full and holds no part of the earliest range not yet sent (R396). -/
def stalled (j : Job) (lay : Layout) (r : StepRun) : Bool :=
  (waitingData j r.step).isEmpty &&
  match (rangeOrder lay).find? fun x => (contributors x.2.1).contains lay.rank.toNat &&
      !(r.outs.any fun o => o.shard == x.2.1.id && o.range == x.2.2 && o.sent) with
  | some x => !(r.outs.any fun o => o.shard == x.2.1.id && o.range == x.2.2 && !o.groups.isEmpty)
  | none => false

/-- The shard, range and place of element `e` of a tensor to which this member contributes. -/
def elemPlace (lay : Layout) (t : BitVec 24) (e : Nat) : Option (ShardEnt × Nat) :=
  match lay.shards.find? fun sh => sh.tensor == t && decide (sh.first ≤ e ∧ e < sh.first + sh.count) with
  | some sh => if (contributors sh).contains lay.rank.toNat then some (sh, (e - sh.first) / sh.rangeElems) else none
  | none => none

/-- Stage one coded group of a contribution: none when the count would exceed the range (R392). -/
def stageGroup (r : StepRun) (sh : ShardEnt) (ix : Nat) (g : CodedGroup) : Option StepRun :=
  let mine := fun (o : OutContrib) => o.shard == sh.id && o.range == ix
  let o : OutContrib := optGet ⟨sh.id, ix, [], 0, false, false⟩ (r.outs.find? mine)
  let n := o.count + g.codes.length
  if rangeLen sh ix < n then none
  else some { r with outs := r.outs.filter (fun x => !mine x) ++ [{ o with groups := insGroup g o.groups, count := n }] }

/-- `DMA.CHD` as the Chord engine takes it (R391 to R393, R396). -/
def takeChd (f : Facet) (td : BitVec 128) (coll : W32) (offset : Nat) (step : W64) (s : State) : Took :=
  if step = 0 then .done stState s
  else
    match engineJob s f step with
    | none => .done stAborted s
    | some (j, r, lay) =>
      match lay.colls.find? fun c => c.1 == coll with
      | none => refuse j.id s
      | some c =>
        let n := 128 * tdRows td
        if (List.range n).any fun k => (elemPlace lay c.2 (offset + k)).isNone then refuse j.id s
        else if stageBytes < stagedBytes j r + codedLen n then
          if stalled j lay r then .done stAborted (abortStep j.id cauStall none 0xFFFF s) else .wait
        else
          let staged := (List.range (4 * tdRows td)).foldl (fun (q : Option StepRun) g =>
            q.bind fun q =>
              let e0 := offset + 32 * g
              let xs := (List.range 32).map fun k => tileBits f.spm td (g / 4) (32 * (g % 4) + k)
              let cg := codeGroup f.seed (tdTensor td) step lay.rank.toNat e0 xs
              match elemPlace lay c.2 e0 with
              | some (sh, ix) => stageGroup q sh ix ⟨e0, cg.1, cg.2⟩
              | none => none) (some r)
          match staged with
          | none => refuse j.id s
          | some r' => .done stOk (pumpStep j.id (modRun j.id (fun _ => r') s))

/-- `DMA.DSP` as the Dispatch engine takes it (R406 to R409). -/
def takeDsp (f : Facet) (td : BitVec 128) (ids disp : Nat) (step : W64) (s : State) : Took :=
  if step = 0 then .done stState s
  else
    match engineJob s f step with
    | none => .done stAborted s
    | some (j, r, lay) =>
      let fin := disp / 2 ^ 31 % 2 = 1
      match lay.disps.find? fun d => d.id == disp % 2 ^ 15 with
      | none => refuse j.id s
      | some d =>
        let rows := List.range (tdRows td)
        let word := fun (i : Nat) => if d.combine then leNat (mread f.spm (ids + 4 * i) 4) else leNat (mread f.spm (ids + 2 * i) 2)
        if disp / 2 ^ 15 % 2 ^ 16 ≠ 0 ∨ d.rowSlot < (rowBytes f.spm td 0).length then refuse j.id s
        else if (dispRun r d.id).ended then .done stState s
        else if !d.combine && rows.any (fun i => word i ≠ 0xFFFF && decide (d.experts ≤ word i)) then refuse j.id s
        else
          let runs := fun (t : State) => match (jobOf j.id t).bind stepOf with
            | some q => q.step == step && q.st != .resolving
            | none => false
          let t := rows.foldl (fun t i =>
            if !runs t then t
            else if d.combine then combineRow j.id lay d step (word i) (rowBytes f.spm td i) t
            else dispatchRow j.id lay d step (word i) (rowBytes f.spm td i) t) s
          let t := if d.combine || !runs t then t else routeHeader j.id d step t
          if !runs t then .done stAborted t else .done stOk (if fin then sendEnds j.id lay d step t else t)

/-! ### Transfers -/

/-- The spans of a row transfer (R159): DPA, scratchpad address, bytes. -/
def rowSpans (td : BitVec 128) (dpa stride : Nat) (sc : Option W64) : List (Nat × Nat × Nat) :=
  ((List.range (tdRows td)).map fun i => (dpa + i * stride, tdBase td + i * tdStride td, tdPadded td)) ++
  (match sc with
   | some a => [(a.toNat, tdScaleBase td, roundUp (tdScaleLen td) 32)]
   | none => [])

/-- Copy from LPDDR6 into a scratchpad: 32-byte chunks whose sector is uncorrectable keep their content (R163). The flag
says that one was. -/
def pull (f : Fin 96) (tag : Fin 8) (spans : List (Nat × Nat × Nat)) (s : State) : State × Bool :=
  let s := modFacet f (fun y => noteRace (.dma tag) none (spans.map fun x => (x.2.1, x.2.2)) y.spm y) s
  spans.foldl (fun (p : State × Bool) x =>
    let (t, bad) := readRange rqFacet x.1 x.2.2 p.1
    let old := (t.facets[f]).spm
    let new := bad.foldl (fun m k => scopy m (x.2.1 + (32 * k - x.1)) old (x.2.1 + (32 * k - x.1)) 32)
      (scopy old x.2.1 t.mem.cells x.1 x.2.2)
    (modFacet f (fun y => { y with spm := new }) t, p.2 || !bad.isEmpty)) (s, false)

/-- Copy from a scratchpad to LPDDR6, in whole sectors, as the operation finds the scratchpad (R170). -/
def push (f : Fin 96) (seq : Nat) (spans : List (Nat × Nat × Nat)) (s : State) : State :=
  let m := spmView s s.facets[f] .dma seq
  viewSpent f .dma seq s (spans.foldl (fun t x => writeCells x.1 x.2.2 (scut m x.2.1 x.2.2 0) t) s)

/-- The operation leaves the flight and its tag takes its status: the first that is not OK stays (R157, R163). -/
def endDma (f : Fin 96) (q : QEnt) (st : W16) (s : State) : State :=
  if !((s.facets[f]).flight.any fun x => x.seq == q.seq) then s
  else modFacet f (fun x => { x with
    flight := x.flight.filter (fun y => y.seq != q.seq),
    tags := vupd x.tags q.tag fun t =>
      { outstanding := t.outstanding - 1, sticky := if t.sticky = stOk then st else t.sticky } }) s

/-- The snoops that a transfer must see answered first: none when no line of its spans is with the host (R298). -/
def snoopSpans (inv : Bool) (spans : List (Nat × Nat × Nat)) (s : State) : State :=
  spans.foldl (fun t x => snoopOut inv x.1 x.2.2 t) s

/-- A transfer waits: a line of its spans is to be snooped, or its snoop is not answered (R298). -/
def mustSnoop (inv : Bool) (spans : List (Nat × Nat × Nat)) (s : State) : Bool :=
  spans.any fun x => snoopWaits x.1 x.2.2 s || !(toSnoop inv x.1 x.2.2 s).isEmpty

/-- A transfer between LPDDR6 and the scratchpad, after the Prisms' granule check (R158): a refused access raises FE_GRANULE
and transfers nothing. Lines that the host may hold are snooped first, and the operation stays in flight until the host has
answered (R298). -/
def transfer (f : Fin 96) (q : QEnt) (write : Bool) (spans : List (Nat × Nat × Nat)) (s : State) : State :=
  match (spans.flatMap fun x => granulesOf x.1 x.2.2).find? fun g => !grantOk s (s.facets[f]) write (g * 2 ^ 30) 32 with
  | some g => facetError f feGranule false q.pc.toNat (dpaDetail (g * 2 ^ 30)) (endDma f q stOk s)
  | none =>
    if mustSnoop write spans s then snoopSpans write spans s
    else if write then endDma f q stOk (push f q.seq spans s)
    else
      let (t, bad) := pull f q.tag spans s
      endDma f q (if bad then stMemUncorr else stOk)
        { t with mem.snooped := t.mem.snooped.filter fun l => !(spans.any fun x => lineIn s x.1 x.2.2 l) }

/-- A transfer with the errors of the scratchpad it reads: a write that does not wait for the host (R298) reads it. -/
def moveEcc (f : Fin 96) (q : QEnt) (write : Bool) (spans : List (Nat × Nat × Nat)) (e : Ecc) (s : State) : State :=
  if write && !mustSnoop write spans s then eccFault f e q.pc.toNat (transfer f q write spans (eccMark f e none none s))
  else transfer f q write spans s

/-- Give the answer of an engine to the operation's tag. -/
def finishTook (f : Fin 96) (q : QEnt) (s : State) : Took → State
  | .wait => s
  | .done st t => endDma f q st t

/-- An operation that an engine takes: it finds the scratchpad as `spmView` gives it (R170). -/
def engineTakes (f : Fin 96) (q : QEnt) (take : Facet → State → Took) (s : State) : State :=
  let x := s.facets[f]
  viewSpent f .dma q.seq s (finishTook f q s (take { x with spm := spmView s x .dma q.seq } s))

/-- An operation in flight performs its transfer, or is taken by its engine, and completes (R163). -/
def completeDma (f : Fin 96) (q : QEnt) (e : Ecc) (s : State) : State :=
  let pc := q.pc.toNat
  match q.op with
  | .dmaRows w td dpa stride sc => moveEcc f q w (rowSpans td dpa.toNat stride.toNat sc) e s
  | .dmaLin w a dpa n => moveEcc f q w [(dpa.toNat, a.toNat, n.toNat)] e s
  | .dmaXfr a dst b n =>
    let t := eccMark f e none none s
    let m := spmView t t.facets[f] .dma q.seq
    let w : SpmWriter := if dst = f then .dma q.tag else .remote f q.tag q.seq
    let t := viewSpent f .dma q.seq t (modFacet dst (fun x =>
      noteRace w none [(b.toNat, n)] x.spm { x with spm := scopy x.spm b.toNat m a.toNat n }) t)
    eccFault f e pc (endDma f q stOk t)
  | .dmaChd td coll off step => eccFault f e pc (engineTakes f q (fun x => takeChd x td coll off.toNat step) (eccMark f e none none s))
  | .dmaDsp td ids disp step => eccFault f e pc (engineTakes f q (fun x => takeDsp x td ids.toNat disp.toNat step) (eccMark f e none none s))
  | _ => s

/-- `DMA_OP_COMPLETE` (R163): the k-th operation in flight performs its transfer, or is taken by its engine, and completes. -/
def execDmaOpComplete (f : Fin 96) (k : Nat) (e : Ecc) (s : State) : Host.Outcome State Fault Refusal :=
  .next (match (s.facets[f]).flight[k]? with
    | none => s
    | some q => completeDma f q e s)

/-- The operations that a stopped facet had started finish before it is cleared (R174), in the order in which they started
(log 102). One that waits for the host to answer a snoop does not finish here. -/
def finishFlights (f : Fin 96) (s : State) : State :=
  (s.facets[f]).flight.foldl (fun t q => completeDma f q Ecc.clean t) s

/-- The started operations of the facets of some columns finish (R174). -/
def finishStarted (cols : BitVec 12) (s : State) : State := (facetsOf cols).foldl (fun t f => finishFlights f t) s

end Sys2Proof.Machine
end

