-- ==== Sys2Proof/Machine/FtlOps.lean ====
section
/-! DEFINITION. Sys2Proof/Machine/FtlOps.lean: the flash translation layer (R332 to R334): the map of extents to blocks, writes
that go to erased blocks and are committed by a journal record, and the relocations of wear, disturbance and retention. -/

namespace Sys2Proof.Machine

/-- Bytes of an extent (R315). -/
def extBytes : Nat := 2097152

/-- Blocks of the flash, each of one extent: the raw capacity of Table 12-5 (log 105). -/
def flashBlocks : Nat := 10 * 10 ^ 12 / extBytes

/-- Rated program and erase cycles of a block (Table 12-5). -/
def ratedCycles : Nat := 3000

/-- Pages that a read of one extent reads, of 4 KiB each (log 105). -/
def extentPages : Nat := 512

/-- A block that nothing has used. -/
def freshBlock : FlashBlock := { erases := 0, reads := 0, programmed := false, retired := false }

/-- A block as the FTL counts it. -/
def flashBlock (s : State) (k : Nat) : FlashBlock := sget freshBlock s.flash.blocks k

/-- Change a block's counts. -/
def modBlock (k : Nat) (g : FlashBlock → FlashBlock) (s : State) : State :=
  { s with flash.blocks := sset freshBlock s.flash.blocks k (g (flashBlock s k)) }

/-- The lowest-numbered block that the FTL has never used, if one is left. -/
def unusedBlock (s : State) : Option Nat :=
  ((List.range (s.flash.blocks.length + 1)).find? fun k => s.flash.blocks.all fun b => b.1 != k).filter fun k => decide (k < flashBlocks)

/-- The erased block with the lowest erase count, the lowest-numbered of equals (R333); none when no spare block is left. -/
def erasedBlock (s : State) : Option Nat :=
  let used := (s.flash.blocks.filter fun b => !b.2.programmed && !b.2.retired).map fun b => (b.2.erases, b.1)
  let all := used ++ ((unusedBlock s).map fun k => (0, k)).toList
  (all.foldl (fun (m : Option (Nat × Nat)) x => match m with
    | some y => if x.1 < y.1 ∨ (x.1 = y.1 ∧ x.2 < y.2) then some x else some y
    | none => some x) none).map (·.2)

/-- Erase a block. Beyond its rated cycles it may wear out, which the spec leaves to the device (log 3). -/
def eraseBlock (k : Nat) (s : State) : State :=
  let n := (flashBlock s k).erases + 1
  let worn := decide (ratedCycles ≤ n) && Config.freeNat s.freeIx % 2 == 1
  modBlock k (fun _ => { erases := n, reads := 0, programmed := false, retired := worn })
    (if ratedCycles ≤ n then { s with freeIx := s.freeIx + 1 } else s)

/-- The flash tier becomes read-only once no spare block is left (R334). -/
def settleReadOnly (s : State) : State := if (erasedBlock s).isNone then { s with flash.readOnly := true } else s

/-- The directory of flash objects, as the FTL keeps it in flash (R332). -/
def flashDir (s : State) : List (W64 × W32 × Nat) := (s.objs.filter (·.backed)).map fun o => (o.id, o.job, o.size)

/-- The journal record that commits what was written: the map, the directory, then the erase of the blocks it frees (R332). -/
def commitFlash (map : List FtlEnt) (freed : List Nat) (s : State) : State :=
  let t := { s with flash := { s.flash with map := map, dir := flashDir s, records := s.flash.records + 1 } }
  settleReadOnly (freed.foldl (fun t k => eraseBlock k t) t)

/-- Program one erased block for an extent; what is written has no record yet (R332). -/
def programExtent (p : State × List FtlEnt) (o : FtlOwner) (ext : Nat) : State × List FtlEnt :=
  match erasedBlock p.1 with
  | some k => (modBlock k (fun b => { b with reads := 0, programmed := true }) p.1, p.2 ++ [⟨o, ext, k⟩])
  | none => p

/-- Write extents: each to an erased block, then the record; the blocks that held them before are erased (R332). -/
def ftlWrite (o : FtlOwner) (exts : List Nat) (s : State) : State :=
  let (t, new) := exts.foldl (fun p e => programExtent p o e) (s, [])
  let old := t.flash.map.filter fun m => m.owner == o && new.any fun n => n.ext == m.ext
  commitFlash ((t.flash.map.filter fun m => !old.contains m) ++ new) (old.map (·.block)) t

/-- What flash held for an owner is dropped, or an owner without data enters or leaves the directory (R332). -/
def ftlDrop (o : FtlOwner) (s : State) : State :=
  commitFlash (s.flash.map.filter fun m => m.owner != o) ((s.flash.map.filter fun m => m.owner == o).map (·.block)) s

/-- Extents of an owner are read: their blocks count the pages (R333). -/
def ftlRead (o : FtlOwner) (s : State) : State :=
  (s.flash.map.filter fun m => m.owner == o).foldl (fun t m =>
    modBlock m.block (fun b => { b with reads := b.reads + extentPages }) t) s

/-- A block's data moves to an erased block, which then holds it in the map (R333): no object changes. -/
def relocate (block : Nat) (s : State) : State :=
  match erasedBlock s with
  | none => s
  | some k =>
    commitFlash (s.flash.map.map fun m => if m.block = block then { m with block := k } else m) [block]
      (modBlock k (fun b => { b with reads := 0, programmed := true }) s)

/-- The spread of erase counts across the blocks (R333): a block that nothing has used counts 0. -/
def eraseSpread (s : State) : Nat :=
  let es := s.flash.blocks.map (·.2.erases)
  let low := if s.flash.blocks.length < flashBlocks then 0 else es.foldl min (es.headD 0)
  es.foldl max 0 - low

/-- The block holds data and no block that holds data has been erased less often (R333). -/
def leastWorn (s : State) (block : Nat) : Bool :=
  (flashBlock s block).programmed &&
    s.flash.blocks.all fun b => !b.2.programmed || decide ((flashBlock s block).erases ≤ b.2.erases)

end Sys2Proof.Machine
end

