-- ==== Sys2Proof/Machine/ObjOps.lean ====
section
/-! DEFINITION. Sys2Proof/Machine/ObjOps.lean: objects in their tiers: allocation (R315, R318), moves (R321 to R325), how
objects end (R320), and the prefetch schedule (R327 to R331). -/

namespace Sys2Proof.Machine

/-! ### Roles of objects in the layout (R342, R387) -/

/-- Objects that a layout names as shard or working objects of this member. -/
def layoutShardObjs (l : Layout) : List W64 := (ownShards l).flatMap fun sh => [sh.shardObj, sh.workObj]

/-- Objects that a layout names as moment objects of this member. -/
def layoutMomentObjs (l : Layout) : List W64 := ((ownShards l).map (·.momentObj)).filter (· != 0)

/-- The layout of the object's job names it in a role of `f`. -/
def namedIn (f : Layout → List W64) (o : Obj) (s : State) : Bool :=
  match (jobOf o.job s).bind (·.layout) with
  | some l => (f l).contains o.id
  | none => false

/-! ### Extents -/

/-- Extents of an object of a size. -/
def extCount (size : Nat) : Nat := (size + extBytes - 1) / extBytes

/-- Bytes that an object occupies. -/
def extLen (size : Nat) : Nat := extCount size * extBytes

/-- The granules of a sector's quota, ascending. -/
def quotaOf (s : State) (k : Fin 4) : List Nat := (s.owners.filter fun o => o.2 == .sector k).map (·.1)

/-- Granules that hold an Arc copy (R266). -/
def arcGranules (s : State) : List Nat := s.jobs.flatMap fun j => match j.arcCopy with
  | some c => c.granules
  | none => []

/-- Bytes of LPDDR6 that an object occupies: whole consecutive granules when it is larger than one (R315). -/
def ddrLen (size : Nat) : Nat := if size ≤ 2 ^ 30 then extLen size else roundUp size (2 ^ 30)

/-- LPDDR6 ranges that objects and moves occupy. -/
def usedLpddr (s : State) : List (Nat × Nat) :=
  s.objs.flatMap fun o =>
    (if o.tier = 0 then [(o.loc, ddrLen o.size)] else []) ++
    (match o.move with
     | some m => if m.dst = 0 then [(m.destLoc, ddrLen o.size)] else []
     | none => [])

/-- Host ranges, by location, that objects and moves occupy. -/
def usedHost (s : State) : List (Nat × Nat) :=
  s.objs.flatMap fun o =>
    (if o.tier = 1 then [(o.loc, extLen o.size)] else []) ++
    (match o.move with
     | some m => if m.dst = 1 then [(m.destLoc, extLen o.size)] else []
     | none => [])

/-- No used range meets [a, a + n). -/
def rangeFree (used : List (Nat × Nat)) (a n : Nat) : Bool := used.all fun u => decide (u.1 + u.2 ≤ a ∨ a + n ≤ u.1)

/-- The lowest range of free extents of a job's quota for an object (R314, R315). -/
def findLpddr (s : State) (k : Fin 4) (id : W64) (size : Nat) : Option Nat :=
  let used := usedLpddr s
  let arcs := arcGranules s
  let place := id.toNat / 2 ^ 60
  let qs := (quotaOf s k).filter fun g => !absent s g && !arcs.contains g && (place = 0 || decide (g % 4 + 8 = place))
  if size ≤ 2 ^ 30 then
    (qs.flatMap fun g => (List.range (513 - extCount size)).map fun e => g * 2 ^ 30 + e * extBytes).find?
      fun a => rangeFree used a (extLen size)
  else
    let n := (size + 2 ^ 30 - 1) / 2 ^ 30
    (qs.find? fun g => (List.range n).all fun i => qs.contains (g + i) && rangeFree used ((g + i) * 2 ^ 30) (2 ^ 30)).map
      (· * 2 ^ 30)

/-- The lowest free range of a job's host pool (R315, R318). -/
def findHost (s : State) (pool : Nat × Nat) (size : Nat) : Option Nat :=
  ((List.range (pool.2 / extBytes + 1 - extCount size)).map fun e => hostBase + pool.1 + e * extBytes).find?
    fun a => rangeFree (usedHost s) a (extLen size)

/-- Usable flash (Table 12-5). -/
def flashUsable : Nat := 8 * 10 ^ 12

/-- Flash bytes that objects, backings and mirror copies occupy. -/
def flashUsed (s : State) : Nat :=
  (s.objs.map fun o => if (o.backed || (match o.move with
    | some m => m.dst == 2
    | none => false)) then extLen o.size else 0).foldl (· + ·) 0 +
  (s.flash.copies.map (·.size)).foldl (· + ·) 0

/-- Flash has room for an object more. -/
def flashRoom (s : State) (size : Nat) : Bool := !s.flash.readOnly && decide (flashUsed s + extLen size ≤ flashUsable)

/-- Count bytes written to flash (R334). -/
def flashWrote (n : Nat) (s : State) : State := { s with flash.bytesWritten := s.flash.bytesWritten + n }

/-- The pin count that commands return (R322). -/
def pinCount (o : Obj) : Nat := o.userPins + o.holds

/-- The location of an object as commands report it (R317). -/
def locOf (o : Obj) : W64 := if o.tier = 2 then 0xFFFFFFFFFFFFFFFF else BitVec.ofNat 64 o.loc

/-- Result of the object commands that return a location and the pin count. -/
def promoteResult (o : Obj) : List Byte := leBytes 8 (locOf o).toNat ++ leBytes 4 (pinCount o)

/-- Result of the object commands that return the pin count. -/
def pinResult (o : Obj) : List Byte := leBytes 4 (pinCount o)

/-- Where a move to tier `u` can go: none without space; flash needs no address, and a read-only flash takes no move (R334). -/
def moveDest (s : State) (o : Obj) (u : Nat) : Option Nat :=
  match jobOf o.job s with
  | none => none
  | some j =>
    match u with
    | 0 => findLpddr s j.sector o.id o.size
    | 1 => findHost s j.hostPool o.size
    | _ => if !s.flash.readOnly && (o.backed || flashRoom s o.size) then some 0 else none

/-! ### Status sectors of the schedule (R331) -/

/-- The 32 bytes of a status sector (Table 12-4). -/
def statusBytes (s : State) (e : SchedEnt) : List Byte :=
  let loc : W64 := match objOf e.obj s with
    | some o => if e.state = 2 then locOf o else 0xFFFFFFFFFFFFFFFF
    | none => 0xFFFFFFFFFFFFFFFF
  layout 32 [(0, leBytes 8 loc.toNat), (8, leBytes 8 e.step.toNat), (0x10, leBytes 1 e.state), (0x12, leBytes 2 e.code.toNat),
    (0x14, leBytes 4 e.late.toNat)]

/-- Change entry `i` of a job's schedule and write its status sector. -/
def setEntry (job : W32) (i : Nat) (g : SchedEnt → SchedEnt) (s : State) : State :=
  let t := modJob job (fun j => { j with sched := j.sched.map fun x => { x with entries := updAt x.entries i g } }) s
  match (jobOf job t).bind (·.sched) with
  | some x =>
    match x.entries[i]? with
    | some e => writeBytes (x.status + 32 * i) (statusBytes t e) t
    | none => t
  | none => t

/-- The entries that hold an object change (R330, R331). -/
def setHolders (id : W64) (g : SchedEnt → SchedEnt) (s : State) : State :=
  s.jobs.foldl (fun t j => match j.sched with
    | some x => (x.entries.foldl (fun (p : State × Nat) e =>
        (if e.held ∧ e.obj = id then setEntry j.id p.2 g p.1 else p.1, p.2 + 1)) (t, 0)).1
    | none => t) s

/-- The entries whose promotion of an object is under way, and has ended: resident once it is in LPDDR6, failed with the
status of their own promotion (R330, R331). A failed entry stays failed until its next hold. -/
def holdersSee (id : W64) (code : W16) (s : State) : State :=
  let g := fun (n : Nat) (c : W16) (e : SchedEnt) => if e.state = 1 then { e with state := n, code := c } else e
  match objOf id s with
  | some o =>
    if code ≠ stOk then setHolders id (g 3 code) s
    else if o.tier = 0 ∧ o.move.isNone then setHolders id (g 2 0) s
    else s
  | none => setHolders id (g 3 code) s

/-! ### The eviction queue -/

/-- An eviction joins the queue in acceptance order (R107, R323). -/
def queueIn (e : EvEntry) : List EvEntry → List EvEntry
  | [] => [e]
  | x :: r => if e.place < x.place then e :: x :: r else x :: queueIn e r

/-! ### Moves -/

/-- Start a move (R321). -/
def startMove (id : W64) (m : Move) (s : State) : State := modObj id (fun o => { o with move := some m }) s

/-- Cancel an eviction that has not switched (Table 12-2): its DEFERRED completion is written unless it has been, and it
returns to the head of the queue. -/
def cancelEviction (o : Obj) (s : State) : State :=
  match o.move with
  | some m =>
    if m.dst ≤ m.src then s
    else
      let t := modObj o.id (fun x => { x with move := none, queue := ⟨m.dst, m.cmd, m.place⟩ :: x.queue }) s
      match m.cmd with
      | some h => if m.deferred then t else defer h (pinResult o) t
      | none => t
  | none => s

/-- Cancel the eviction of an object as it stands. -/
def cancelEvictionOf (id : W64) (s : State) : State :=
  match objOf id s with
  | some o => cancelEviction o s
  | none => s

/-- An eviction is in progress. -/
def evicting (o : Obj) : Bool := match o.move with
  | some m => decide (m.src < m.dst)
  | none => false

/-- A promotion is in progress. -/
def promoting (o : Obj) : Bool := match o.move with
  | some m => decide (m.dst < m.src)
  | none => false

/-- Codes of the classes after which a command has had no effect (R118). -/
def noEffect (st : W16) : Bool := st.toNat / 256 == 1 || st.toNat / 256 == 6 || st.toNat / 256 == 7

/-- Drop the user pin that a failed promotion added (R118, Table 12-2). -/
def dropPin (id : W64) (pin : Bool) (st : W16) (s : State) : State :=
  if pin && noEffect st then modObj id (fun x => { x with userPins := x.userPins - 1 }) s else s

/-- `OBJ_PROMOTE` acts on a resident object (Table 12-2); `pin` says that the command added a user pin. -/
def promoteResident (h : Hdr) (id : W64) (u : Nat) (pin : Bool) (s : State) : State :=
  match objOf id s with
  | none => s
  | some o =>
    if o.tier ≤ u then complete h stOk (promoteResult o) s
    else if o.tier = 2 ∧ !s.flash.present then complete h stDegraded [] (dropPin id pin stDegraded s)
    else
      match moveDest s o u with
      | none => complete h stNoSpace [] (dropPin id pin stNoSpace s)
      | some d => startMove id ⟨o.tier, u, d, some h, false, pin, 0⟩ s

/-- The layout of the object's job names it in a role of R342, which holds it in its residence while a step is armed. -/
def residenceHeld (o : Obj) (s : State) : Bool :=
  match jobOf o.job s with
  | some j => armed j && match j.layout with
    | some l => (layoutShardObjs l ++ layoutMomentObjs l).contains o.id
    | none => false
  | none => false

/-- A schedule promotion acts on a resident object, as `OBJ_PROMOTE` to LPDDR6 would, without a completion (R330): the state,
and the state and code of the entry. -/
def schedPromote (id : W64) (s : State) : State × Nat × W16 :=
  match objOf id s with
  | none => (s, 3, stState)
  | some o =>
    if o.tier = 0 then (s, 2, 0)
    else if residenceHeld o s then (s, 3, stState)
    else if o.tier = 2 ∧ !s.flash.present then (s, 3, stDegraded)
    else
      match moveDest s o 0 with
      | some d => (startMove id ⟨o.tier, 0, d, none, false, false, 0⟩ s, 1, 0)
      | none => (s, 3, stNoSpace)

/-- A promotion that waited for a move acts on the object, or waits for the next move (Table 12-2). -/
def actPromo (id : W64) (s : State) (p : Option Hdr × Nat × Bool) : State :=
  match objOf id s with
  | none => s
  | some x =>
    if x.move.isSome then modObj id (fun y => { y with promos := y.promos ++ [p] }) s
    else match p.1 with
      | some h => if x.damaged then complete h stMemUncorr [] s else promoteResident h id p.2.1 p.2.2 s
      | none =>
        if x.damaged then holdersSee id stMemUncorr s
        else
          let (t, n, c) := schedPromote id s
          setHolders id (fun e => if e.state = 1 then { e with state := n, code := c } else e) t

/-- Free a queue entry with a status. -/
def answerEntry (e : EvEntry) (st : W16) (result : List Byte) (s : State) : State :=
  match e.cmd with
  | some h => complete h st result s
  | none => s

/-- A waiting promotion gets its final completion. -/
def answerPromo (p : Option Hdr × Nat × Bool) (st : W16) (s : State) : State :=
  match p.1 with
  | some h => complete h st [] s
  | none => s

/-- An object ends for a cause (R320, R325): its move, its waiting promotions and its deferred evictions complete with the
status, and entries that hold it fail. -/
def endObject (id : W64) (st : W16) (s : State) : State :=
  match objOf id s with
  | none => s
  | some o =>
    let t := { s with objs := s.objs.filter fun x => x.id != id }
    let t := match o.move with
      | some m => (match m.cmd with
        | some h => complete h st [] t
        | none => t)
      | none => t
    let t := o.promos.foldl (fun t p => answerPromo p st t) t
    let t := o.queue.foldl (fun t e => answerEntry e st [] t) t
    setHolders id (fun e => { e with state := 3, code := st }) t

/-- A backed object in LPDDR6 falls back to its flash content (R320, R325). -/
def fallBack (id : W64) (st : W16) (s : State) : State :=
  match objOf id s with
  | none => s
  | some o =>
    let t := modObj id (fun x => { x with tier := 2, loc := 0, dirty := [], move := none, promos := [] }) s
    let t := match o.move with
      | some m => (match m.cmd with
        | some h => complete h st [] t
        | none => t)
      | none => t
    let t := o.promos.foldl (fun t p => answerPromo p st t) t
    setHolders id (fun e => { e with state := 3, code := st }) t

/-- What a failed move leaves (R325): the command completes with the status, and an object whose flash is unreadable is
DAMAGED; promotions that waited act on it again. -/
def failMove (id : W64) (st : W16) (damage : Bool) (s : State) : State :=
  match objOf id s with
  | none => s
  | some o =>
    match o.move with
    | none => s
    | some m =>
      let t := modObj id (fun x => { x with move := none, promos := [], damaged := x.damaged || damage }) s
      let t := match m.cmd with
        | some h => complete h st [] (dropPin id m.pin st t)
        | none => if m.dst < m.src then holdersSee id st t else t
      o.promos.foldl (actPromo id) t

/-- Objects in LPDDR6 whose granule became absent end or fall back (R325), and moves into an absent granule fail. -/
def endLostObjects (s : State) : State :=
  s.objs.foldl (fun t o =>
    if o.tier = 0 ∧ rangeAbsent t o.loc o.size then
      if o.backed then fallBack o.id stDegraded t else endObject o.id stDegraded t
    else
      match o.move with
      | some m => if m.dst = 0 ∧ rangeAbsent t m.destLoc o.size then failMove o.id stDegraded false t else t
      | none => t) s

/-- Content of an object, as cells from offset 0: none when a sector of it is uncorrectable. -/
def objContent (o : Obj) (s : State) : State × Option (List Host.Cell) :=
  match o.tier with
  | 0 => readCells rqMove o.loc (extLen o.size) s
  | 1 => (s, some (scut s.hostMem (o.loc - hostBase) (extLen o.size) 0))
  | _ => (ftlRead (.obj o.id) s, some o.flash)

/-- The flash content of a backed object once its dirty extents are written to the backing (R321): only those are read. -/
def dirtyContent (o : Obj) (s : State) : State × Option (List Host.Cell) :=
  o.dirty.foldl (fun (p : State × Option (List Host.Cell)) k => match p.2 with
    | none => p
    | some f => match readCells rqMove (o.loc + k * extBytes) extBytes p.1 with
      | (t, some c) => (t, some (scopy f (k * extBytes) c 0 extBytes))
      | (t, none) => (t, none)) (s, some o.flash)

/-- What a move writes at its destination. -/
def moveContent (o : Obj) (m : Move) (s : State) : State × Option (List Host.Cell) :=
  if m.dst = 2 ∧ o.backed then dirtyContent o s else objContent o s

/-- The destination of a move becomes the residence (R321), with what the move wrote there. -/
def settleMove (o : Obj) (m : Move) (c : List Host.Cell) (s : State) : State :=
  let n := extLen o.size
  match m.dst with
  | 0 => modObj o.id (fun x => { x with tier := 0, loc := m.destLoc, dirty := [], move := none, promos := [] }) (writeCells m.destLoc n c s)
  | 1 =>
    let t := modObj o.id (fun x => { x with tier := 1, loc := m.destLoc, flash := [], backed := false, dirty := [], move := none, promos := [] })
      { s with hostMem := scopy s.hostMem (m.destLoc - hostBase) c 0 n }
    if o.backed then ftlDrop (.obj o.id) t else t
  | _ =>
    let exts := if o.backed then o.dirty else List.range (extCount o.size)
    ftlWrite (.obj o.id) exts (flashWrote (exts.length * extBytes) (modObj o.id (fun x => { x with
      tier := 2, loc := 0, backed := true, dirty := [], move := none, promos := [], flash := c }) s))

/-- The switch of a move (R321): the destination becomes the residence, and the source is released. It waits while a step is
armed whose layout holds the object in its residence (R342). -/
def switchMove (id : W64) (s : State) : State :=
  match objOf id s with
  | none => s
  | some o =>
    match o.move with
    | none => s
    | some m =>
      if residenceHeld o s then s
      else
        match moveContent o m s with
        | (t, none) => failMove id stMemUncorr false t
        | (t, some c) =>
          let t := settleMove o m c t
          let t := match objOf id t, m.cmd with
            | some x, some h => complete h stOk (if m.dst < m.src then promoteResult x else pinResult x) t
            | _, _ => t
          o.promos.foldl (actPromo id) (holdersSee id stOk t)

/-- The oldest entry of the eviction queue is taken once nothing pins the object and no move runs (Table 12-2): an entry
whose target is not below completes with OK and the next is taken; otherwise its move starts. An entry of an object that a
layout names meanwhile ends as its `OBJ_EVICT` would, or waits for the armed step (R342). `fuel` bounds the count. -/
def dequeue : Nat → W64 → State → State
  | 0, _, s => s
  | fuel + 1, id, s =>
    match objOf id s with
    | none => s
    | some o =>
      match o.queue with
      | [] => s
      | e :: r =>
        if pinCount o ≠ 0 ∨ o.move.isSome then s
        else
          let t := modObj id (fun x => { x with queue := r }) s
          if namedIn layoutShardObjs o s then dequeue fuel id (answerEntry e stState [] t)
          else if residenceHeld o s then s
          else if e.target ≤ o.tier then dequeue fuel id (answerEntry e stOk (pinResult o) t)
          else if e.target = 2 ∧ !s.flash.present then answerEntry e stDegraded [] t
          else
            match moveDest t o e.target with
            | none => answerEntry e stNoSpace [] t
            | some d => startMove id ⟨o.tier, e.target, d, e.cmd, true, false, e.place⟩ t

/-! ### The prefetch schedule -/

/-- A schedule hold is taken on an object (R322, R330): it counts at once, an eviction in progress is cancelled, and an object
below LPDDR6 is promoted as by `OBJ_PROMOTE`, after a promotion that is under way. The answer is the state and code of the
entry. -/
def takeHold (id : W64) (s : State) : State × Nat × W16 :=
  match objOf id s with
  | none => (s, 3, stState)
  | some o =>
    let t := modObj id (fun x => { x with holds := x.holds + 1 }) s
    if o.damaged then (t, 3, stMemUncorr)
    else if promoting o then (modObj id (fun x => { x with promos := x.promos ++ [(none, 0, false)] }) t, 1, 0)
    else schedPromote id (cancelEvictionOf id t)

/-- The entries of a schedule in order of distance from position p, then of index (R330). -/
def schedOrder (x : Sched) (p : Nat) : List Nat :=
  let d := fun (e : SchedEnt) => (e.position + x.positions - p) % x.positions
  (List.range x.positions).flatMap fun k =>
    (List.range x.entries.length).filter fun i => match x.entries[i]? with
      | some e => d e == k
      | none => false

/-- Evaluate one entry at a progress write (s, p) (R330). -/
def evalEntry (job : W32) (st : W64) (p : Nat) (s : State) (i : Nat) : State :=
  match (jobOf job s).bind (·.sched) with
  | none => s
  | some x =>
    match x.entries[i]? with
    | none => s
    | some e =>
      let n := x.positions
      let r := (e.release + n - e.position) % n
      let u := (p + n - e.position + x.lookahead) % n
      let wanted := decide (u ≤ x.lookahead + r - 1)
      let s := if e.position = p ∧ e.state ≠ 2 then setEntry job i (fun e => { e with late := e.late + 1 }) s else s
      if wanted ∧ !e.held then
        let (t, state, code) := takeHold e.obj s
        setEntry job i (fun e => { e with held := true, step := st, state := state, code := code }) t
      else if !wanted ∧ e.held then
        let t := modObj e.obj (fun o => { o with
          holds := o.holds - 1, queue := if e.evict then queueIn ⟨e.evictTier, none, s.mbx.accepted⟩ o.queue else o.queue }) s
        setEntry job i (fun e => { e with held := false, step := st, state := 0, code := 0 }) t
      else s

/-- A progress write reaches the prefetch stream (R329, R330): a position of P or more is ignored and counted. -/
def evalSchedule (job : W32) (st : W64) (p : Nat) (s : State) : State :=
  match (jobOf job s).bind (·.sched) with
  | none => s
  | some x => if x.positions ≤ p then counter 2 1 s else (schedOrder x p).foldl (evalEntry job st p) s

/-- The holds of a job's schedule are dropped without eviction (R328). -/
def dropHolds (job : W32) (s : State) : State :=
  match (jobOf job s).bind (·.sched) with
  | none => s
  | some x => x.entries.foldl (fun t e => if e.held then modObj e.obj (fun o => { o with holds := o.holds - 1 }) t else t) s

/-- Objects that a layout names in any role. -/
def layoutObjs (l : Layout) : List W64 :=
  layoutShardObjs l ++ layoutMomentObjs l ++ l.gathers.map (·.obj) ++ l.disps.flatMap fun d => [d.recvObj, d.routeObj]

/-- A step of the object's job is armed. -/
def jobArmed (job : W32) (s : State) : Bool := match jobOf job s with
  | some j => armed j
  | none => false

/-- A kept flash object of a job that is not open here accepts only `OBJ_DESTROY` (R320). -/
def keptOnly (o : Obj) (s : State) : Bool := o.kept || match jobOf o.job s with
  | some j => j.phase == .preserved
  | none => true

end Sys2Proof.Machine
end

