-- ==== Sys2Proof/Machine/MirrorOps.lean ====
section
/-! DEFINITION. Sys2Proof/Machine/MirrorOps.lean: the lossless coding (R422), mirror regions (R418, R421), snapshots (R423
to R428), and the restore engine (R432 to R435). -/

namespace Sys2Proof.Machine

/-! ### Operations of MIRROR packets (Table 15-4) -/

def mopBindReq : Nat := 0x01
def mopBindAck : Nat := 0x02
def mopBegin : Nat := 0x03
def mopData : Nat := 0x04
def mopEnd : Nat := 0x05
def mopDone : Nat := 0x06
def mopFetchReq : Nat := 0x07
def mopFetchData : Nat := 0x08
def mopFetchEnd : Nat := 0x09
def mopUnbind : Nat := 0x0A
def mopQuery : Nat := 0x0B
def mopQueryReply : Nat := 0x0C

/-- No generation. -/
def noGen : W64 := 0xFFFFFFFFFFFFFFFF

/-- `COLLECTIVE` of a MIRROR packet: the operation and the buffer (R425). -/
def mirrorColl (op buffer : Nat) : W32 := BitVec.ofNat 32 (op + 256 * buffer)

/-- The 32 bytes of a copy descriptor (Table 15-2). -/
def descBytes (d : CopyDesc) : List Byte :=
  withCrc (leBytes 8 d.generation.toNat ++ leBytes 8 d.step.toNat ++ leBytes 8 d.codedBytes.toNat ++ leBytes 1 (bit d.complete) ++ zeros 3)

/-- The descriptor that 32 bytes spell. -/
def descParse (bs : List Byte) : CopyDesc :=
  ⟨BitVec.ofNat 64 (field bs 0 8), BitVec.ofNat 64 (field bs 8 8), BitVec.ofNat 64 (field bs 0x10 8), field bs 0x18 1 % 2 == 1,
   field bs 0x1C 4 == (crc32 (bs.take 0x1C)).toNat⟩

/-- A descriptor of a complete copy (R421). -/
def descComplete (d : CopyDesc) : Bool := d.complete && d.crcOk

/-- Send a MIRROR packet to a member (R425). -/
def sendMirror (job : W32) (peer : W16) (onMgmt : Bool) (op buffer offset : Nat) (payload : List Byte) (s : State) : State :=
  sendSeq job peer onMgmt ptMirror 0 (mirrorColl op buffer) offset false payload s

/-! ### Exchanges with a copy host whose job is not open (R426) -/

/-- The address of an interface of the module. -/
def viaAddr (s : State) (v : Via) : Ip6 :=
  match v with
  | .fabric p => (s.fabric.ports[p]).addr
  | .mgmt p => mgmtAddr s p

/-- The stream of an exchange: the other address, this module's address, the job. -/
def hostStream (s : State) (a b : Ip6) (job : W32) : Option Stream :=
  (s.fabric.hostStreams.find? fun x => x.1 == a && x.2.1 == b && x.2.2.1 == job).map (·.2.2.2)

/-- Set the stream of an exchange. -/
def setHostStream (a b : Ip6) (job : W32) (x : Stream) (s : State) : State :=
  { s with fabric.hostStreams :=
      s.fabric.hostStreams.filter (fun y => !(y.1 == a && y.2.1 == b && y.2.2.1 == job)) ++ [(a, b, job, x)] }

/-- The header that answers a packet of an exchange: `SRC_RANK` 0xFFFF where the job is not open here, and the request's
`EPOCH`. -/
def hostHdr (s : State) (p : ChordHdr) (x : Stream) (coll : W32) (offset : Nat) : ChordHdr :=
  { via := p.via, src := viaAddr s p.via, malformed := false, ce := false, retx := false, ceEcho := false, final := false,
    epoch := p.epoch, job := p.job, step := 0, coll := coll, seq := 0,
    srcRank := match jobOf p.job s with
      | some j => if j.phase = .opened then match j.layout with
          | some l => l.rank
          | none => 0xFFFF
        else 0xFFFF
      | none => 0xFFFF,
    dstRank := p.srcRank, ports := upMask s, offset := BitVec.ofNat 64 offset, ack := x.recvLow + 1 }

/-- Transmit what waits on the stream of an exchange while the window holds it; `fuel` bounds the count. -/
def pumpHost : Nat → Ip6 → Ip6 → W32 → State → State
  | 0, _, _, _, s => s
  | fuel + 1, a, b, job, s =>
    match hostStream s a b job with
    | none => s
    | some x =>
      match x.sent.find? (fun p => !p.sent) with
      | none => s
      | some p =>
        if inFlight x ≠ 0 ∧ x.window < inFlight x + p.payload.length then s
        else
          pumpHost fuel a b job (setHostStream a b job
            { x with sent := updIf x.sent (fun q => q.seq == p.seq) fun q => { q with sent := true } }
            (emitChord p.hdr.via a p.kind { p.hdr with seq := p.seq } p.payload s))

/-- Send a MIRROR packet in an exchange; its stream begins at `SEQ` 1. -/
def hostSend (v : Via) (a : Ip6) (job : W32) (peer : W16) (h : Stream → ChordHdr) (payload : List Byte) (s : State) : State :=
  let b := viaAddr s v
  let x : Stream := optGet { peer := peer, onMgmt := viaMgmt v } (hostStream s a b job)
  pumpHost (x.sent.length + 1) a b job (setHostStream a b job
    { x with next := x.next + 1, sent := x.sent ++ [⟨x.next, ptMirror, h x, payload, false, none⟩] } s)

/-- A member that has announced itself as a copy host with rank 0xFFFF (R426, R464), and the interface and the address by which
this module reaches it. -/
def copyHostAt (s : State) (j : Job) (peer : W16) (onMgmt : Bool) : Option (Via × Ip6) :=
  match j.layout.bind (memberOf · peer) with
  | none => none
  | some m =>
    let mine := m.addr.filter (· != 0)
    if !(s.mgmt.known.any fun a => a.job == j.id && a.rank == 0xFFFF && a.fabAddr.any fun x => mine.contains x) then none
    else if onMgmt then
      match (fins 2).find? (mgmtUp s), (announced s j.id peer).head? with
      | some p, some a => some (.mgmt p, a)
      | _, _ => none
    else (nextPort s j peer none).map fun p => (.fabric p, m.addr.getD p.val 0)

/-- Send FETCH_REQ, QUERY or UNBIND to a member: on the job's stream, or in an exchange of its own with a copy host where the job
is not open (R426). -/
def sendRequest (job : W32) (peer : W16) (onMgmt : Bool) (op : Nat) (payload : List Byte) (s : State) : State :=
  match jobOf job s with
  | none => s
  | some j =>
    match copyHostAt s j peer onMgmt with
    | none => sendMirror job peer onMgmt op 0 0 payload s
    | some (v, a) => hostSend v a job peer (fun x => { chordHdr s j peer onMgmt 0 (mirrorColl op 0) 0 false with
        via := v, src := viaAddr s v, ack := x.recvLow + 1 }) payload s

/-! ### Coding (R422) -/

/-- Bits that a number needs. -/
def bitLen (n : Nat) : Nat := if n = 0 then 0 else Nat.log2 n + 1

/-- The u16 values of a block of bytes. -/
def words16 : Nat → List Byte → List Nat
  | 0, _ => []
  | n + 1, bs => leNat (bs.take 2) :: words16 n (bs.drop 2)

/-- The coded form of a block of 1,024 bytes. -/
def codeBlock (bs : List Byte) : List Byte :=
  let v := words16 512 bs
  let e := v.map fun x => x / 128 % 256
  let b := e.foldl min 255
  let k := bitLen (e.foldl max 0 - b)
  let packed := ((e.map (· - b)).foldr (fun x acc => x + 2 ^ k * acc) 0)
  leBytes 1 b ++ leBytes 1 k ++ (v.map fun x => BitVec.ofNat 8 (x / 32768 * 128 + x % 128)) ++ leBytes (64 * k) packed

/-- Bytes of a coded block whose first bytes are given. -/
def codedBlockLen (bs : List Byte) : Nat := 514 + 64 * (field bs 1 1 % 16)

/-- The 1,024 bytes of a coded block. -/
def decodeBlock (bs : List Byte) : List Byte :=
  let b := field bs 0 1
  let k := field bs 1 1 % 16
  let packed := leNat (slice bs 514 (64 * k))
  (List.range 512).flatMap fun i =>
    let r := (bs.getD (2 + i) 0).toNat
    leBytes 2 (r / 128 * 32768 + (b + packed / 2 ^ (k * i) % 2 ^ k) % 256 * 128 + r % 128)

/-- The coded form of an image of `n` blocks. -/
def codeImage : Nat → List Byte → List Byte
  | 0, _ => []
  | n + 1, bs => codeBlock (slice bs 0 1024) ++ codeImage n (bs.drop 1024)

/-- The image of `n` coded blocks. -/
def decodeImage : Nat → List Byte → List Byte
  | 0, _ => []
  | n + 1, bs => decodeBlock bs ++ decodeImage n (bs.drop (codedBlockLen bs))

/-! ### Areas and regions (R418, R421) -/

/-- An area of a copy buffer (Table 15-3). -/
structure Area where
  id    : W32
  off   : Nat
  bytes : Nat
  image : Nat
  deriving DecidableEq, Repr

/-- Length of the scale-state record (R424). -/
def scaleImage : Nat := 786432

/-- Bytes of the area of an image. -/
def areaLen (image : Nat) : Nat := roundUp (32 + 1026 * (image / 1024)) 4096

/-- The areas of a rank's copy: its shards in layout order, then the scale-state entry. -/
def areasOf (rule : Nat) (lay : Layout) (rank : W16) : List Area :=
  let ims := ((lay.shards.filter fun sh => sh.owner == rank).map fun sh => (sh.id, imageLen rule sh)) ++ [((0xFFFFFFFF : W32), scaleImage)]
  (ims.foldl (fun (p : List Area × Nat) x => (p.1 ++ [⟨x.1, p.2, areaLen x.2, x.2⟩], p.2 + areaLen x.2)) ([], 0)).1

/-- B: the copy buffer size. -/
def bufferLen (as : List Area) : Nat := roundUp ((as.map (·.bytes)).foldl (· + ·) 0) 4096

/-- D: the bytes before the buffers. -/
def dirLen (entries : Nat) : Nat := 4096 + roundUp (32 * entries) 4096

/-- Bytes of a region. -/
def regionLen (as : List Area) : Nat := dirLen as.length + 2 * bufferLen as

/-- The directory of a copy. -/
def dirBytes (as : List Area) : List Byte :=
  as.flatMap fun a => leBytes 4 a.id.toNat ++ zeros 4 ++ leBytes 8 a.off ++ leBytes 8 a.bytes ++ leBytes 8 a.image

/-- The areas that a directory of `n` entries spells. -/
def dirParse (n : Nat) (bs : List Byte) : List Area :=
  (pieces 32 n bs).map fun e => ⟨BitVec.ofNat 32 (field e 0 4), field e 8 8, field e 0x10 8, field e 0x18 8⟩

/-- The first bytes of a region header, before its descriptors (Table 15-2). -/
def regionHeader (r : Region) : List Byte :=
  leBytes 4 0x50334D52 ++ leBytes 2 1 ++ leBytes 2 r.epoch.toNat ++ leBytes 4 r.job.toNat ++ leBytes 2 r.rank.toNat ++ zeros 2 ++
  leBytes 4 r.entries ++ zeros 4 ++ leBytes 8 r.bufBytes

/-- The hosted region of a job and source rank. -/
def regionOf (job : W32) (rank : W16) (s : State) : Option Region := s.regions.find? fun r => r.job == job && r.rank == rank

/-- The granules of a region, ascending. -/
def regionGranules (r : Region) (s : State) : List Nat :=
  (s.owners.filter fun o => o.2 == .region r.job r.rank).map (·.1)

/-- The pieces of a range of a region: DPA, offset in the range, length. -/
def regionSpans (r : Region) (off n : Nat) (s : State) : List (Nat × Nat × Nat) :=
  let gs := regionGranules r s
  if n = 0 then []
  else
    (List.range ((off + n - 1) / 2 ^ 30 - off / 2 ^ 30 + 1)).map fun k =>
      let i := off / 2 ^ 30 + k
      let lo := max off (i * 2 ^ 30)
      let hi := min (off + n) ((i + 1) * 2 ^ 30)
      ((gs.getD i (memEnd / 2 ^ 30)) * 2 ^ 30 + lo % 2 ^ 30, lo - off, hi - lo)

/-- Write bytes into a region. -/
def regionWrite (r : Region) (off : Nat) (bs : List Byte) (s : State) : State :=
  (regionSpans r off bs.length s).foldl (fun t x => writeBytes x.1 (slice bs x.2.1 x.2.2) t) s

/-- Read a range of a region: its cells from offset 0, or none when a sector of it is uncorrectable. -/
def regionRead (req : Byte) (r : Region) (off n : Nat) (s : State) : State × Option (List Host.Cell) :=
  (regionSpans r off n s).foldl (fun (p : State × Option (List Host.Cell)) x =>
    match p.2 with
    | none => p
    | some acc =>
      match readCells req x.1 x.2.2 p.1 with
      | (t, some c) => (t, some (scopy acc x.2.1 c 0 x.2.2))
      | (t, none) => (t, none)) (s, some [])

/-- Read the descriptor of a buffer of a region: none when its sector cannot be read (R303). -/
def regionDesc (req : Byte) (r : Region) (b : Fin 2) (s : State) : State × Option CopyDesc :=
  match regionRead req r (0x20 + 0x20 * b.val) 32 s with
  | (t, some c) => (t, some (descParse (mread c 0 32)))
  | (t, none) => (t, none)

/-- Write a descriptor of a region. -/
def putDesc (r : Region) (b : Fin 2) (d : CopyDesc) (s : State) : State := regionWrite r (0x20 + 0x20 * b.val) (descBytes d) s

/-- Offset of a buffer in a region. -/
def bufferOff (r : Region) (b : Fin 2) : Nat := r.dirBytes + b.val * r.bufBytes

/-- Read the complete copies of a region (R421). -/
def copiesOf (req : Byte) (r : Region) (s : State) : State × List (Fin 2 × CopyDesc) :=
  (fins 2).foldl (fun (p : State × List (Fin 2 × CopyDesc)) b => match regionDesc req r b p.1 with
    | (t, some d) => (t, if descComplete d then p.2 ++ [(b, d)] else p.2)
    | (t, none) => (t, p.2)) (s, [])

/-- The newest of some copies. -/
def newestOf (cs : List (Fin 2 × CopyDesc)) : Option (Fin 2 × CopyDesc) :=
  cs.foldl (fun acc x => match acc with
    | some y => if y.2.generation < x.2.generation then some x else some y
    | none => some x) none

/-- Read the newest complete copy of a region. -/
def newestCopy (req : Byte) (r : Region) (s : State) : State × Option (Fin 2 × CopyDesc) :=
  match copiesOf req r s with
  | (t, cs) => (t, newestOf cs)

/-- The target buffer of a snapshot (R427): not the one being persisted, else not that of the newest complete copy, else
buffer 0. -/
def targetBuffer (r : Region) (s : State) : State × Fin 2 :=
  match s.flash.persisting.find? fun x => x.1 == r.job && x.2.1 == r.rank with
  | some x => (s, finOf (x.2.2.1 + 1))
  | none =>
    match newestCopy rqSnap r s with
    | (t, some x) => (t, finOf (x.1.val + 1))
    | (t, none) => (t, 0)

/-- End a region: its granules become free, and what was being persisted from it is dropped. -/
def endRegion (job : W32) (rank : W16) (s : State) : State :=
  freeOwners (fun o => o == .region job rank) { s with
    regions := s.regions.filter fun r => !(r.job == job && r.rank == rank),
    flash.persisting := s.flash.persisting.filter fun p => !(p.1 == job && p.2.1 == rank) }

/-- The flash copy of a job and source rank. -/
def flashCopyOf (job : W32) (rank : W16) (s : State) : Option FlashCopy :=
  s.flash.copies.find? fun c => c.job == job && c.rank == rank

/-- Free a flash copy (R431). -/
def freeFlashCopy (job : W32) (rank : W16) (s : State) : State :=
  if (flashCopyOf job rank s).isSome then
    ftlDrop (.copy job rank) { s with flash.copies := s.flash.copies.filter fun c => !(c.job == job && c.rank == rank) }
  else s

/-! ### Restore -/

/-- The rank that a layout gives an address. -/
def rankOfAddr (lay : Layout) (a : Ip6) : Option W16 :=
  ((List.range lay.members.length).find? fun r => match lay.members[r]? with
    | some m => (List.range 8).any fun p => m.mask.getLsbD p && m.addr.getD p 0 == a
    | none => false).map (BitVec.ofNat 16)

/-- Load a job's scale state into the facets of its sector, unless no Arc is loaded there (R225). -/
def loadScales (k : Fin 4) (es : List (Nat × ScaleEntry)) (s : State) : State :=
  if (s.sectors[k]).st = .empty then s else giveScales (s.sectors[k]).columns es s

/-- The health record notes a scale state with an older tag (R433, R440). -/
def noteOldTag (job : W32) (s : State) : State := counter 10 1 (logHealth 0x0B 0 0 job.toNat s)

/-- A command that a job holds ends: nothing of the job waits any more. -/
def clearPend (job : W32) (s : State) : State := modJob job (fun x => { x with pend := none }) s

/-- A local slot of a shard holds a generation (Table 15-5): `before` is the generation committed before the command. -/
def localHolds (j : Job) (before g : W64) (sh : ShardEnt) (s : State) : State × Bool :=
  let b := slotOf g
  if before = noGen then (s, false)
  else
    match readRec rqFold sh b s with
    | (s, .unreadable) => (s, false)
    | (s, .invalid) => (s, false)
    | (s, .found r) =>
      if r.gen = g ∧ (g = before ∨ g + 1 = before ∨ (g = before + 1 ∧ r.step = j.armedRec.1)) then slotVerifies rqFold j.rule sh b s
      else (s, false)

/-- The shards of a job that no local slot holds at a generation. -/
def missingShards (j : Job) (before g : W64) (s : State) : State × List ShardEnt :=
  (jobShards j).foldl (fun (p : State × List ShardEnt) sh =>
    match localHolds j before g sh p.1 with
    | (t, true) => (t, p.2)
    | (t, false) => (t, p.2 ++ [sh])) (s, [])

/-- The scale state that a restore loads (R433 item 2), and its place in the job record: `copy` is the copy's scale-state
entry when a copy supplied a shard. -/
def restoreScaleState (j : Job) (g before : W64) (copy : Option (List (Nat × ScaleEntry))) (s : State) : State :=
  let k := j.sector
  let empty := (s.sectors[k]).st == .empty
  let present := fun (t : State) => if empty then t else writeScaleRec j.id g (takeScales t (jobCols t j)) t
  match copy with
  | some es => writeScaleRec j.id g es (loadScales k es s)
  | none =>
    match j.scaleRec with
    | some r =>
      if r.tag = g then loadScales k r.entries s
      else if g = before then present s
      else present (noteOldTag j.id (if empty then s else corrAll (jobCols s j) s))
    | none =>
      if g = before then present s
      else present (noteOldTag j.id (if empty then s else corrAll (jobCols s j) s))

/-- Every shard holds g′: the job commit sector, the scale state and the working copies, then the completion (R433). -/
def finishRestore (job : W32) (h : Hdr) (g step : W64) (moved : Nat) (before : W64) (copy : Option (List (Nat × ScaleEntry)))
    (s : State) : State :=
  match jobOf job s with
  | none => s
  | some j =>
    let t := writeCommit job ⟨j.epoch, true, g, step, s.jrn.boot.bootCount⟩ s
    let t := restoreScaleState j g before copy t
    let t := (jobShards j).foldl (fun t sh => (deriveShard j.rule sh (slotOf g) t).1) t
    let t := modJob job (fun x => { x with uncommitted := [], pend := none }) t
    complete h stOk (leBytes 8 g.toNat ++ leBytes 8 moved) t

/-- No source is left (R434). -/
def failRestore (job : W32) (h : Hdr) (moved : Nat) (s : State) : State :=
  match jobOf job s with
  | none => s
  | some j => complete h stNoCopy (leBytes 8 (genOf j).toNat ++ leBytes 8 moved) (clearPend job s)

/-- Every shard is in its local slots: a member whose committed generation is intact changes nothing (R432). -/
def restoreLocal (job : W32) (h : Hdr) (g : W64) (moved : Nat) (before : W64) (s : State) : State :=
  match jobOf job s with
  | none => s
  | some j =>
    let (s, intact) := if j.commit.valid ∧ j.commit.gen = g then allCommitted rqFold j (jobShards j) s else (s, false)
    if intact then complete h stOk (leBytes 8 g.toNat ++ leBytes 8 moved) (clearPend job s)
    else
      let (s, step) : State × W64 := match (jobShards j).head? with
        | some sh => (match readRec rqFold sh (slotOf g) s with
          | (t, .found r) => (t, r.step)
          | (t, _) => (t, 0))
        | none => (s, 0)
      finishRestore job h g step moved before none s

/-- The member can be reached for a fetch: on a common port, or on the management network. -/
def reachable (s : State) (j : Job) (peer : W16) (flash : Bool) : Bool :=
  if flash then !(announced s j.id peer).isEmpty else !(commonPorts s j peer).isEmpty

/-- The generations that local slots hold for every shard, newest first, with what the reads did. -/
def localGens (j : Job) (before : W64) (s : State) : State × List W64 :=
  if before = noGen then (s, [])
  else
    [before + 1, before, before - 1].foldl (fun (p : State × List W64) g =>
      match missingShards j before g p.1 with
      | (t, []) => (t, p.2 ++ [g])
      | (t, _) => (t, p.2)) (s, [])

/-- The largest generation of a list, all ones and zero apart. -/
def newestGen (gs : List W64) : Option W64 :=
  gs.foldl (fun acc g => if g = noGen ∨ g = 0 then acc else match acc with
    | some a => if a < g then some g else some a
    | none => some g) none

/-- Take the next source of a restore (R432, R434): local slots first, then the sources left, in order. With an explicit
generation every source is asked for it; otherwise g′ is the newest generation that some source holds for every shard.
`fuel` bounds the sources that cannot be reached. -/
def nextSource : Nat → W32 → Hdr → Bool → W64 → List (W16 × Bool × W64) → Nat → W64 → State → State
  | 0, job, h, _, _, _, moved, _, s => failRestore job h moved s
  | fuel + 1, job, h, explicit, gen, left, moved, before, s =>
    match jobOf job s with
    | none => s
    | some j =>
      let (t, gl) := if explicit then (s, []) else localGens j before s
      let goal := if explicit then some gen else newestGen (gl ++ left.map (·.2.2))
      match goal with
      | none => failRestore job h moved t
      | some g =>
        match missingShards j before g t with
        | (t, []) => restoreLocal job h g moved before t
        | (t, _) =>
          match left.find? fun x => explicit || x.2.2 == g with
          | none => failRestore job h moved t
          | some x =>
            let rest := left.filter (· != x)
            if reachable t j x.1 x.2.1 then
              sendRequest job x.1 x.2.1 mopFetchReq (beBytes 8 g.toNat)
                (modJob job (fun y => { y with
                  pend := some (.restoreFetch h explicit g x.1 x.2.1 rest none [] 0 moved before) }) t)
            else nextSource fuel job h explicit gen rest moved before t

/-- The source in use fails (R434). -/
def failSource (job : W32) (s : State) : State :=
  match (jobOf job s).bind (·.pend) with
  | some (.restoreFetch h explicit gen _ _ left _ _ have_ moved before) =>
    nextSource (left.length + 1) job h explicit gen left (moved + have_) before (clearPend job s)
  | _ => s

/-- The slots that a copy will fill are written invalid, and the job commit sector too when they are the committed ones
(R433). -/
def openSlots (job : W32) (g before : W64) (s : State) : State :=
  match jobOf job s with
  | none => s
  | some j =>
    match missingShards j before g s with
    | (t, bad) =>
      let t := if j.commit.valid ∧ slotOf j.commit.gen = slotOf g then writeCommit job { j.commit with valid := false, gen := noGen } t else t
      bad.foldl (fun t sh => putRec sh (slotOf g) ⟨g, 0, 0, j.epoch, j.rule, false⟩ t) t

/-- The image in an area of a received buffer, with its digest: none where the area's header is not that generation's. -/
def areaImage (got : List Host.Cell) (g : W64) (a : Area) : Option (W64 × List Byte) :=
  let hd := mread got a.off 32
  if field hd 0x1C 4 = (crc32 (hd.take 0x1C)).toNat ∧ field hd 0 8 = g.toNat then
    some (BitVec.ofNat 64 (field hd 8 8), decodeImage (a.image / 1024) (mread got (a.off + 32) (field hd 0x10 8)))
  else none

/-- Fill one shard from a received buffer, and verify it by reading it back (R433). -/
def fillShard (j : Job) (g step : W64) (got : List Host.Cell) (as : List Area) (sh : ShardEnt) (s : State) : State × Bool :=
  match as.find? fun a => a.id == sh.id with
  | none => (s, false)
  | some a =>
    match areaImage got g a with
    | none => (s, false)
    | some (d, img) =>
      let b := slotOf g
      let t := putShardHeader j.rule sh (putImage j.rule sh b (cellsOf img) s)
      slotVerifies rqFold j.rule sh b (putRec sh b ⟨g, d, step, j.epoch, j.rule, true⟩ t)

/-- All bytes of the copy have arrived: they are decoded into the slots of the shards that still miss g′ (R433). -/
def decodeRestore (job : W32) (s : State) : State :=
  match jobOf job s with
  | none => s
  | some j =>
    match j.pend, j.layout with
    | some (.restoreFetch h _ g _ _ _ (some d) got have_ moved before), some lay =>
      if have_ < d.codedBytes.toNat then s
      else
        let as := areasOf j.rule lay lay.rank
        let (t, bad) := missingShards j before g s
        let (t, good) := bad.foldl (fun (p : State × Bool) sh =>
          match fillShard j g d.step got as sh p.1 with
          | (u, ok1) => (u, p.2 && ok1)) (t, true)
        let scales := (as.getLast?.bind (areaImage got g)).map fun x => scaleRecParse (cellsOf x.2)
        if good then finishRestore job h g d.step (moved + have_) before scales t else failSource job t
    | _, _ => s

/-- The sources of a restore in the order of Table 15-5: every partner's LPDDR6, then every partner's flash. -/
def sourceOrder (partners : List W16) (offer : W16 → Bool → W64) : List (W16 × Bool × W64) :=
  partners.map (fun r => (r, false, offer r false)) ++ partners.map fun r => (r, true, offer r true)

/-- The partners have told what they hold: the restore takes its source (R432). -/
def chooseRestore (job : W32) (h : Hdr) (partners : List W16) (offers : List (W16 × Bool × W64)) (s : State) : State :=
  match jobOf job s with
  | none => s
  | some j =>
    let offer := fun (r : W16) (f : Bool) => match offers.find? fun o => o.1 == r && o.2.1 == f with
      | some o => o.2.2
      | none => noGen
    let left := (sourceOrder partners offer).filter fun x => x.2.2 != noGen
    nextSource (left.length + 1) job h false 0 left 0 (genOf j) (clearPend job s)

/-- Send QUERY to partners (R435): on the fabric, or on the management network where no common port remains. The answer
lists those asked. -/
def sendQueries (job : W32) (partners : List W16) (s : State) : State × List (W16 × Bool) :=
  partners.foldl (fun (p : State × List (W16 × Bool)) r =>
    match jobOf job p.1 with
    | none => p
    | some j =>
      if reachable p.1 j r false then (sendRequest job r false mopQuery [] p.1, p.2 ++ [(r, false)])
      else if reachable p.1 j r true then (sendRequest job r true mopQuery [] p.1, p.2 ++ [(r, true)])
      else p) (s, [])

/-- Ranks of the partners that `RESTORE` names. -/
def restorePartners (j : Job) (addr : Ip6) : List W16 :=
  if addr = 0 then
    match j.binding with
    | some b => b.partners.map (·.rank)
    | none => []
  else
    match j.layout.bind (rankOfAddr · addr) with
    | some r => [r]
    | none => []

/-- `RESTORE` starts (R432). -/
def startRestore (job : W32) (h : Hdr) (addr : Ip6) (gen : W64) (s : State) : State :=
  match jobOf job s with
  | none => s
  | some j =>
    let ps := restorePartners j addr
    if gen = 0 then
      match sendQueries job ps s with
      | (t, []) => chooseRestore job h ps [] t
      | (t, w) => modJob job (fun x => { x with pend := some (.restoreAsk h ps w []) }) t
    else
      let left := sourceOrder ps fun _ _ => gen
      nextSource (left.length + 1) job h true gen left 0 (genOf j) (clearPend job s)

/-! ### Unbinding -/

/-- `MIRROR_UNBIND` takes effect (R420): this member's binding ends, and every region and flash copy that this module hosts
for the job is freed. -/
def finishUnbind (job : W32) (h : Hdr) (s : State) : State :=
  let t : State := match (jobOf job s).bind (·.binding) with
    | some b => b.partners.foldl (fun t p => sendRequest job p.rank false mopUnbind [] t)
        (modJob job (fun x => { x with binding := none, snapNext := [], pend := none }) s)
    | none => clearPend job s
  let t : State := (t.regions.filter fun r => r.job == job).foldl (fun t r => endRegion job r.rank t) t
  complete h stOk [] ((t.flash.copies.filter fun c => c.job == job).foldl (fun t c => freeFlashCopy job c.rank t) t)

/-! ### Snapshots -/

/-- A snapshot has ended (R423, R429): what waited for it goes on, unless a further generation waits to be snapped. -/
def afterSnapshot (job : W32) (s : State) : State :=
  match jobOf job s with
  | none => s
  | some j =>
    if j.snap.isSome ∨ !j.snapNext.isEmpty then s
    else
      match j.pend with
      | some (.restoreWait h addr gen) => startRestore job h addr gen s
      | some (.unbindWait h) => finishUnbind job h s
      | _ => s

/-- A snapshot fails or a partner that it waited for is gone (R428): the initial snapshot of `MIRROR_BIND` then fails with
it. -/
def failBindSnap (job : W32) (s : State) : State :=
  match (jobOf job s).bind (·.pend) with
  | some (.bindSnap h _) =>
    complete h stAborted [] (modJob job (fun x => { x with pend := none, binding := none, snap := none, snapNext := [] }) s)
  | _ => s

/-- The snapshot has no partner to wait for: it has ended, and `MIRROR_BIND` completes with its region size (R416). -/
def settleSnapshot (job : W32) (s : State) : State :=
  match jobOf job s with
  | none => s
  | some j =>
    match j.snap with
    | none => s
    | some x =>
      if !x.waiting.isEmpty then s
      else
        let t := modJob job (fun y => { y with snap := none }) s
        match j.pend with
        | some (.bindSnap h gib) => complete h stOk (leBytes 4 gib) (clearPend job t)
        | _ => afterSnapshot job t

/-- The snapshot in progress fails (R428). -/
def failSnapshot (job : W32) (s : State) : State :=
  afterSnapshot job (failBindSnap job (modJob job (fun x => { x with snap := none }) s))

/-- BEGIN and DATA packets of a snapshot. -/
def isCopyData (p : SentPkt) : Bool :=
  p.kind == ptMirror && (p.hdr.coll.toNat % 256 == mopBegin || p.hdr.coll.toNat % 256 == mopData)

/-- END goes to every partner whose DATA packets are all acknowledged (R428 item 3). -/
def snapProgress (job : W32) (s : State) : State :=
  match jobOf job s with
  | none => s
  | some j =>
    match j.snap with
    | none => s
    | some x =>
      x.waiting.foldl (fun t w =>
        if w.2.2 ∨ (streamOf j w.1 false).sent.any isCopyData then t
        else
          sendMirror job w.1 false mopEnd w.2.1.val 0 (descBytes { x.desc with complete := true })
            (modJob job (fun y => { y with snap := y.snap.map fun z =>
              { z with waiting := updIf z.waiting (fun q => q.1 == w.1) fun q => (q.1, q.2.1, true) } }) t)) s

/-- Remove a partner from a binding (R419); the last removal ends it. -/
def removePartner (job : W32) (peer : W16) (s : State) : State :=
  match jobOf job s with
  | none => s
  | some j =>
    match j.binding with
    | none => s
    | some b =>
      if !b.partners.any fun p => p.rank == peer then s
      else
        let left := b.partners.filter fun p => p.rank != peer
        let t := counter 9 1 (logHealth 0x0A 0 peer.toNat job.toNat s)
        let t := modStream job peer false (fun x => { x with sent := x.sent.filter fun p => p.kind != ptMirror }) t
        let t := modJob job (fun x => { x with
          binding := if left.isEmpty then none else some { b with partners := left },
          snapNext := if left.isEmpty then [] else x.snapNext,
          snap := x.snap.map fun y => { y with waiting := y.waiting.filter fun w => w.1 != peer } }) t
        settleSnapshot job (failBindSnap job t)

/-- The scale state that a snapshot takes (R424). -/
def snapScales (j : Job) (s : State) : List (Nat × ScaleEntry) :=
  if (s.sectors[j.sector]).arc.isSome then takeScales s (jobCols s j)
  else match j.scaleRec with
    | some r => r.entries
    | none => []

/-- A coded area: its header and its coded bytes. -/
def codedArea (g digest : W64) (image : List Byte) : List Byte × List Byte :=
  let c := codeImage (image.length / 1024) image
  (withCrc (leBytes 8 g.toNat ++ leBytes 8 digest.toNat ++ leBytes 8 c.length ++ zeros 4), c)

/-- The areas of a snapshot as read (R423, R424): none where a read is uncorrectable. -/
def snapAreas (j : Job) (lay : Layout) (g : W64) (s : State) : State × Option (List (Nat × List Byte × List Byte)) :=
  let as := areasOf j.rule lay lay.rank
  let body := (ownShards lay).foldl (fun (p : State × Option (List (Nat × List Byte × List Byte))) sh =>
    match p.2 with
    | none => p
    | some acc =>
    match readRec rqSnap sh (slotOf g) p.1 with
    | (s, .found r) =>
      (match slotImage rqSnap j.rule sh (slotOf g) r s with
       | (t, some img) =>
         let off := match as.find? fun a => a.id == sh.id with
           | some a => a.off
           | none => 0
         (t, some (acc ++ [(off, codedArea g r.digest (mread img 0 (imageLen j.rule sh)))]))
       | (t, none) => (t, none))
    | (t, _) => (t, none)) (s, some [])
  match body with
  | (t, some acc) =>
    let off := match as.getLast? with
      | some a => a.off
      | none => 0
    (t, some (acc ++ [(off, codedArea g 0 (scaleRecBytes (snapScales j t)))]))
  | (t, none) => (t, none)

/-- Send the areas of a snapshot to a partner (R428): BEGIN, then of each area the coded data before its header. -/
def sendAreas (job : W32) (peer : W16) (b : Fin 2) (d : CopyDesc) (areas : List (Nat × List Byte × List Byte)) (s : State) : State :=
  let t := sendMirror job peer false mopBegin b.val 0 (descBytes { d with complete := false }) s
  areas.foldl (fun t a =>
    let t := (chunks (payloadMax false) a.2.2).foldl (fun t c => sendMirror job peer false mopData b.val (a.1 + 32 + c.1) c.2.1 t) t
    sendMirror job peer false mopData b.val a.1 a.2.1 t) t

/-- The snapshot of the oldest waiting generation begins (R423, R428). The packets name the buffer that does not hold what the
partner acknowledged last; the partner itself chooses its target (R427, log 109). -/
def beginSnapshot (job : W32) (s : State) : State :=
  match jobOf job s with
  | none => s
  | some j =>
    match j.snapNext, j.binding, j.layout with
    | g :: rest, some b, some lay =>
      if j.snap.isSome then s
      else
        let t := modJob job (fun x => { x with snapNext := rest }) s
        match snapAreas j lay g t with
        | (t, none) => failSnapshot job t
        | (t, some areas) =>
          let coded := (areas.map fun a => a.2.1.length + a.2.2.length).foldl (· + ·) 0
          let d : CopyDesc := ⟨g, j.commit.step, BitVec.ofNat 64 coded, true, true⟩
          let ws : List (W16 × Fin 2 × Bool) := b.partners.map fun q => (q.rank, match q.last with
            | some x => finOf (x.val + 1)
            | none => 0, false)
          let t := modJob job (fun x => { x with snap := some ⟨g, ws, d⟩ }) t
          ws.foldl (fun t w => sendAreas job w.1 w.2.1 d areas t) t
    | _, _, _ => s

/-! ### Queries -/

/-- A `MIRROR_QUERY` in progress completes with what it holds (R435). -/
def endQuery (job : W32) (s : State) : State :=
  match jobOf job s with
  | none => s
  | some j =>
    match j.query with
    | none => s
    | some q =>
      let (s, all) := if j.phase = .preserved then (s, true) else allCommitted rqVarlux j (jobShards j) s
      let own : W64 := if all then genOf j else noGen
      let (t, gl) := if j.phase = .preserved then (s, [own]) else localGens j (genOf j) s
      let src := match newestGen gl, newestGen [q.best] with
        | some a, some b => if b ≤ a then 0 else q.src
        | some _, none => 0
        | none, some _ => q.src
        | none, none => 3
      complete q.h stOk (leBytes 8 own.toNat ++ leBytes 8 q.best.toNat ++ leBytes 1 src) (modJob job (fun x => { x with query := none }) t)

/-- A query's partner has answered or is given up. -/
def dropQuery (job : W32) (who : W16 × Bool) (s : State) : State :=
  let t := modJob job (fun x => { x with query := x.query.map fun q => { q with waiting := q.waiting.filter (· != who) } }) s
  match (jobOf job t).bind (·.query) with
  | some q => if q.waiting.isEmpty then endQuery job t else t
  | none => t

/-- A restore that asks its partners loses or has heard one. -/
def dropAsk (job : W32) (who : W16 × Bool) (new : List (W16 × Bool × W64)) (s : State) : State :=
  match (jobOf job s).bind (·.pend) with
  | some (.restoreAsk h ps waiting offers) =>
    if !waiting.contains who then s
    else
      let left := waiting.filter (· != who)
      if left.isEmpty then chooseRestore job h ps (offers ++ new) s
      else modJob job (fun x => { x with pend := some (.restoreAsk h ps left (offers ++ new)) }) s
  | _ => s

/-- A partner that is silent on the fabric is asked on the management network (R435). -/
def askAgain (job : W32) (peer : W16) (s : State) : State :=
  match jobOf job s with
  | none => s
  | some j =>
    let asked := fun (w : List (W16 × Bool)) => w.contains (peer, false)
    let swap := fun (w : List (W16 × Bool)) => updIf w (· == (peer, false)) fun _ => (peer, true)
    let inQuery : Bool := match j.query with
      | some q => asked q.waiting
      | none => false
    let inAsk : Bool := match j.pend with
      | some (.restoreAsk _ _ w _) => asked w
      | _ => false
    if !(inQuery || inAsk) then s
    else if reachable s j peer true then
      sendRequest job peer true mopQuery [] (modJob job (fun x => { x with
        query := x.query.map fun q => { q with waiting := swap q.waiting },
        pend := match x.pend with
          | some (.restoreAsk h ps w o) => some (.restoreAsk h ps (swap w) o)
          | p => p }) s)
    else dropAsk job (peer, false) [] (dropQuery job (peer, false) s)

/-- A peer has been silent for t_DETECT, or no common port with it remains (R401, R416, R419, R428, R434, R435): its part
in the mirror operations of the job ends. It is removed from the binding where the source detects it in an armed step (R401),
or where it fails a snapshot (R419, R428). -/
def peerGone (job : W32) (peer : W16) (detected : Bool) (s : State) : State :=
  let snapping : Bool := match (jobOf job s).bind (·.snap) with
    | some x => x.waiting.any fun w => w.1 == peer
    | none => false
  let t := if detected || snapping then removePartner job peer s else s
  let t := match (jobOf job t).bind (·.pend) with
    | some (.bind h _ ps _) =>
      if ps.any fun p => p.2.1 == peer && p.2.2.isNone then complete h stAborted [] (clearPend job t) else t
    | some (.restoreFetch _ _ _ q _ _ _ _ _ _ _) => if q = peer then failSource job t else t
    | _ => t
  match jobOf job t with
  | none => t
  | some j =>
    let onMgmt : Bool := (match j.query with
      | some q => q.waiting.contains (peer, true)
      | none => false) || match j.pend with
        | some (.restoreAsk _ _ w _) => w.contains (peer, true)
        | _ => false
    if onMgmt then dropAsk job (peer, true) [] (dropQuery job (peer, true) t) else askAgain job peer t

end Sys2Proof.Machine
end

