-- ==== Sys2Proof/Machine/ChordCmd.lean ====
section
/-! DEFINITION. Sys2Proof/Machine/ChordCmd.lean: the Chord packets and timers of a step: contributions and credits (R344,
R395), range updates (R353), votes and confirms (R361 to R366), aborts and detections (R401, R402, R404), heartbeats (R400),
gathers (R397, R398) and expert exchange (R408, R409). -/

namespace Sys2Proof.Machine

/-- An install whose incoming shard cannot be fetched completes, and the member keeps its layout and epoch (R413). -/
def endFill (job : W32) (st : W16) (s : State) : State :=
  match jobOf job s with
  | none => s
  | some j =>
    match j.pend with
    | some (.fill h _ _ _ _ _) =>
      complete h st [] (modJob job (fun x => { x with
        pend := none, nextStreams := x.nextStreams.map fun y => { y with sent := [] } }) s)
    | _ => s

/-- A peer is detected (R384, R401) or silent: its part in mirror operations ends (R419, R428, R434), and an install that
fetches from it ends with E_ABORTED (R413). `detected` says that a step is armed, so that it is a detection of R401. -/
def losePeer (job : W32) (peer : W16) (detected : Bool) (s : State) : State :=
  let t := peerGone job peer detected s
  match (jobOf job t).bind (·.pend) with
  | some (.fill _ _ _ todo cur _) =>
    if todo.any (fun x => x.1 == peer) || cur.any (fun x => x.1 == peer) then endFill job stAborted t else t
  | _ => t

/-- End the injection in progress (R467, R468): its withdrawal ends, it is logged with its outcome (0 passed, 1 failed, 2
skipped), and a failure is evidence of class 0x1B. -/
def endInjection (outcome : Nat) (s : State) : State :=
  match s.health.injection with
  | none => s
  | some (b, t, start) =>
    let u := { s with health.injection := none,
                      mgmt.ports := vmap s.mgmt.ports fun _ x => { x with silent := false },
                      fabric.ports := vmap s.fabric.ports fun _ x => { x with withdrawn := false } }
    let u := logReh ⟨start, b, outcome, t, BitVec.ofNat 32 (((now s).toNat - start.toNat) / 1000)⟩ u
    if outcome = 1 then evidence 0x1B 1 u else u

/-- A FABRIC_PORT_DROP ends at once when a peer falls to one common port (Table 16-9). It is not judged: skipped (log 11). -/
def endDrop (s : State) : State :=
  match s.health.injection with
  | some (1, _, _) =>
    if s.jobs.any fun j => match j.layout with
        | some lay => (peers lay).any fun p => decide ((commonPorts s j p).length ≤ 1)
        | none => false
    then endInjection 2 s else s
  | _ => s

/-- No common port remains with a member: it is detected, and an armed step aborts (R384, R401). -/
def detectNoPort (job : W32) (peer : W16) (s : State) : State :=
  let s := endDrop s
  match jobOf job s with
  | none => s
  | some j =>
    if !(commonPorts s j peer).isEmpty then s
    else losePeer job peer j.run.isSome (abortStep job cauNoPort none peer s)

/-- Every member of every job is judged by its common ports (R401). -/
def detectNoPorts (s : State) : State :=
  s.jobs.foldl (fun t j => match j.layout with
    | some lay => (peers lay).foldl (fun t p => detectNoPort j.id p t) t
    | none => t) s

/-- Receive a packet of a job and act on it. -/
def onPacket (p : ChordHdr) (kind : BitVec 4) (seqd : Bool) (epochOk early : Job → Bool) (body : Job → State → State)
    (s : State) : State :=
  let t := match receive p kind seqd epochOk early s with
    | .drop t => t
    | .take j t => body j t
  let t := snapProgress p.job (settleCombines p.job t)
  if viaMgmt p.via then t else detectNoPort p.job p.srcRank t

/-- Receive a packet that belongs to a step: `body` acts while that step is armed; one of a step not armed here yet is accepted
and kept as `keep` (R383); a packet of the step aborted last is answered with its token (R402). -/
def onStepPacket (p : ChordHdr) (kind : BitVec 4) (keep : HeldPkt) (body : Job → StepRun → Layout → State → State) (s : State) :
    State :=
  onPacket p kind true (epochIs p) noWait (fun j t =>
    if stepAhead p j then modJob j.id (fun x => { x with held := x.held ++ [keep] }) t
    else
    match lateForAborted j p t with
    | some u => u
    | none =>
      match stepOf j, j.layout with
      | some r, some lay => if r.step = p.step ∧ r.st ≠ .resolving then body j r lay t else t
      | _, _ => t) s

/-! ### Contributions -/

/-- The elements that a DATA payload carries, each with its index (R393). -/
def dataElems (first : Nat) (payload : List Byte) : List (Nat × W32) :=
  (List.range (payload.length / 33)).flatMap fun g =>
    let b := slice payload (33 * g) 33
    (b.drop 1).mapIdx fun k c => (first + 32 * g + k, codedFp32 (b.headD 0 ++ c))

/-- What a DATA packet of the armed step does (R344, R393): coded groups of one range and one contribution to a shard of this
member. -/
def dataBody (p : ChordHdr) (payload : List Byte) (j : Job) (r : StepRun) (lay : Layout) (t : State) : State :=
    match lay.colls.find? fun c => c.1 == p.coll with
    | none => t
    | some c =>
      let e := p.offset.toNat
      match (ownShards lay).find? fun sh => sh.tensor == c.2 && decide (sh.first ≤ e ∧ e < sh.first + sh.count) with
      | none => t
      | some sh =>
        let ix := (e - sh.first) / sh.rangeElems
        let lo := sh.first + ix * sh.rangeElems
        let n := rangeLen sh ix
        if !(contributors sh).contains p.srcRank.toNat || contribDone (rangeOf r sh.id ix) p.srcRank.toNat then t
        else
          let els := (dataElems e payload).filter fun x => decide (x.1 < lo + n)
          pumpStep j.id (addContrib j.id sh.id ix n p.srcRank.toNat els t)

/-- `CHORD_DATA` (R344, R393). -/
def execChordData (p : ChordHdr) (payload : List Byte) (s : State) : Host.Outcome State Fault Refusal :=
  .next (sized p payload.length (onStepPacket p ptData (.data p payload) (dataBody p payload)) s)

/-- A credit for a contribution of this member lets it be sent (R395). -/
def takeCredit (job : W32) (lay : Layout) (owner : Option W16) (coll : W32) (first count : Nat) (s : State) : State :=
  match (rangeOrder lay).find? fun x => x.1 == coll && x.2.1.first + x.2.2 * x.2.1.rangeElems == first with
  | none => s
  | some x =>
    let sh := x.2.1
    if optGet sh.owner owner ≠ sh.owner ∨ rangeLen sh x.2.2 ≠ count ∨ !(contributors sh).contains lay.rank.toNat then s
    else
      pumpStep job (modOut job sh.id x.2.2 (fun o => { o with credit := true }) s)

/-- `CREDIT` (R395): kept when its step is not armed here yet. -/
def execCredit (p : ChordHdr) (count : BitVec 32) (s : State) : Host.Outcome State Fault Refusal :=
  .next (onPacket p ptCredit false (fun _ => true) noWait (fun j t =>
    match stepOf j, j.layout with
    | some r, some lay =>
      if r.step = p.step ∧ p.epoch = j.epoch then takeCredit j.id lay (some p.srcRank) p.coll p.offset.toNat count.toNat t
      else if stepAhead p j then
        modJob j.id (fun x => { x with earlyCr := x.earlyCr ++ [(p.step, p.coll, p.offset.toNat, count.toNat)] }) t
      else optGet t (lateForAborted j p t)
    | _, _ =>
      if stepAhead p j then
        modJob j.id (fun x => { x with earlyCr := x.earlyCr ++ [(p.step, p.coll, p.offset.toNat, count.toNat)] }) t
      else optGet t (lateForAborted j p t)) s)

/-- The moments of a shard lie in host memory (R342, R352). -/
def hostMoments (s : State) (sh : ShardEnt) : Bool :=
  match objLoc s sh.momentObj with
  | some m => sh.momentObj != 0 && decide (hostBase ≤ m)
  | none => false

/-- `RANGE_UPDATE` (R352, R353, R355): a complete range of an own shard whose slot may be written is updated. With its moments in
host memory, an access that fails there is a local failure with cause 2. -/
def execRangeUpdate (job shard : BitVec 32) (range : Nat) (hostFault : Bool) (s : State) : Host.Outcome State Fault Refusal :=
  .next (match jobOf job s with
    | none => s
    | some j =>
      match j.run, (jobShards j).find? fun sh => sh.id == shard with
      | some r, some sh =>
        let fr := rangeOf r shard range
        let accumulating : Bool := match shardRun r shard with
          | some q => q.st == .accumulating
          | none => false
        if (r.st = .armed ∨ r.st = .voted) ∧ accumulating ∧ range < rangeCount sh ∧ !fr.updated ∧ rangeComplete sh fr ∧
            (openRanges j r sh.prism).any (fun x => x.2.1.id == shard && x.2.2 == range) ∧ mayStage j r.gen then
          pumpStep job (if hostFault && hostMoments s sh then failShard job sh.id 2 s else stageRange job sh range s)
        else s
      | _, _ => s)

/-! ### Votes -/

/-- `VOTE_CAST` (R361): at the vote moment the record goes to every member on both networks. -/
def execVoteCast (job : BitVec 32) (s : State) : Host.Outcome State Fault Refusal :=
  .next (match jobOf job s with
    | none => s
    | some j =>
      match j.run with
      | some r => if voteDue j r then afterVotes job (castVote job s) else s
      | none => s)

/-- The record of a VOTE packet agrees with the packet (R399, Table 13-9). -/
def voteOk (p : ChordHdr) (v : VoteRec) : Bool :=
  v.crcOk && v.job == p.job && v.step == p.step && v.rank == p.srcRank && v.epoch == p.epoch

/-- A record came first on the management network (counter 13). -/
def countFirst (p : ChordHdr) (s : State) : State := if viaMgmt p.via then counter 13 1 s else s

/-- `VOTE` (R362, R363): the first copy of a record counts, from either path; a record for a later step is kept. -/
def execVote (p : ChordHdr) (v : VoteRec) (s : State) : Host.Outcome State Fault Refusal :=
  .next (onPacket p ptVote true (epochIs p) noWait (fun j t =>
    if !voteOk p v then t
    else if stepAhead p j then
      if j.early.any fun x => x.rank == v.rank && x.step == v.step then t
      else countFirst p (modJob j.id (fun x => { x with early := x.early ++ [v] }) t)
    else
      match lateForAborted j p t with
      | some u => u
      | none =>
        match stepOf j with
        | some r =>
          if r.step ≠ v.step ∨ r.votes.any (fun x => x.rank == v.rank) then t
          else countFirst p (afterVotes j.id (modRun j.id (fun q => { q with votes := q.votes ++ [v] }) t))
        | none => t) s)

/-- `CONFIRM` (R364): holding every rank's confirm settles COMMIT. -/
def execConfirm (p : ChordHdr) (v : VoteRec) (s : State) : Host.Outcome State Fault Refusal :=
  .next (onPacket p ptVote true (epochIs p) noWait (fun j t =>
    if !voteOk p v || !v.commit then t
    else if stepAhead p j then
      if j.earlyC.any fun x => x.rank == v.rank && x.step == v.step then t
      else countFirst p (modJob j.id (fun x => { x with earlyC := x.earlyC ++ [v] }) t)
    else
      let t := optGet t (lateForAborted j p t)
      match stepOf j with
      | some r =>
        if r.step ≠ v.step ∨ r.confirms.any (fun x => x.rank == v.rank) then t
        else countFirst p (afterConfirms j.id (modRun j.id (fun q => { q with confirms := q.confirms ++ [v] }) t))
      | none => t) s)

/-- `WORKING_COPY_DERIVED` (R358, R490): the working copies come from the committed slot; then the completion that waits is
written. An uncorrectable read under `SHARD_COMMIT` leaves the record invalid. -/
def execWorkingCopyDerived (job : BitVec 32) (s : State) : Host.Outcome State Fault Refusal :=
  .next (match jobOf job s with
    | none => s
    | some j =>
      let b := slotOf (genOf j)
      let shs := (jobShards j).filter fun sh => j.derive.contains sh.id
      let (t, bad) := shs.foldl (fun (p : State × Bool) sh =>
        let (u, bad) := deriveShard j.rule sh b p.1
        (u, p.2 || bad)) (s, false)
      let t := modJob job (fun x => { x with derive := [], deriveCmd := none }) t
      match j.deriveCmd with
      | none => t
      | some d =>
        if d.shard.isSome && bad then
          let t := shs.foldl (fun u sh => match readRec rqFold sh b u with
            | (u, .found r) => putRec sh b { r with valid := false } u
            | (u, _) => putRec sh b ⟨genOf j, 0, 0, j.epoch, j.rule, false⟩ u) t
          complete d.h stMemUncorr [] t
        else complete d.h stOk d.result t)

/-- `RESOLVE_TIMEOUT` (R366): t_RESOLVE has passed without an UNDECIDED token. -/
def execResolveTimeout (job : BitVec 32) (s : State) : Host.Outcome State Fault Refusal :=
  .next (match (jobOf job s).bind (·.run) with
    | some r => if r.st = .resolving then settleCommit job s else s
    | none => s)

/-! ### Aborts and detections -/

/-- `ABORT` (R366, R402, R412): a token of the armed step aborts it; a token of a later step is kept; one with `STEP` zero
answers a RESHARD_REQ. -/
def execAbort (p : ChordHdr) (tok : AbortTok) (s : State) : Host.Outcome State Fault Refusal :=
  .next (onPacket p ptAbort false (fun _ => true) noWait (fun j t =>
    if p.step = 0 then
      match j.pend with
      | some (.fill _ _ _ _ cur _) =>
        if cur.any fun c => c.1 == p.srcRank then
          endFill j.id (if tok.cause = cauUncorr then stMemUncorr else if tok.cause = cauStale then stState else stAborted) t
        else t
      | _ => t
    else
      match stepOf j with
      | some r =>
        if r.step = p.step then
          let decided := r.st = .decided ∨ r.st = .resolving
          let t := abortStep j.id cauRelayed (some tok.originRank) 0xFFFF t
          if decided ∧ tok.voteState = 0 then settleNot j.id true t else t
        else if stepAhead p j then modJob j.id (fun x => { x with earlyAb := x.earlyAb ++ [(p.step, tok.originRank)] }) t
        else t
      | none => if stepAhead p j then modJob j.id (fun x => { x with earlyAb := x.earlyAb ++ [(p.step, tok.originRank)] }) t else t) s)

/-- `PEER_SILENCE_DETECT` (R401): no packet of the peer for t_DETECT while a step is armed. -/
def execPeerSilenceDetect (job : BitVec 32) (peer : BitVec 16) (s : State) : Host.Outcome State Fault Refusal :=
  .next (match jobOf job s with
    | none => s
    | some j =>
      match j.layout with
      | some lay =>
        if (peers lay).contains peer ∧ (stepOf j).isSome then losePeer job peer true (abortStep job cauSilence none peer s) else s
      | none => s)

/-- `COLLECTIVE_ABORT`'s own effect (R404). -/
def collectiveAbortBody (h : Hdr) (job : W32) (s : State) : State :=
  match jobOf job s with
  | none => complete h stState [] s
  | some j => if j.phase ≠ .opened then complete h stState [] s else complete h stOk [] (abortStep job cauCommand none 0xFFFF s)

/-- `COLLECTIVE_ABORT` (R404). -/
def execCollectiveAbort (h : Hdr) (job : BitVec 32) (s : State) : Host.Outcome State Fault Refusal :=
  .next (runCmd catCollectiveAbort h (collectiveAbortBody h job) s)

/-- The HEARTBEAT payload (Table 14-10): `ARMED_STEP` and state. -/
def beatState (j : Job) : W64 × Byte :=
  match j.run with
  | some r => (r.step, if r.st = .resolving then 3 else if j.parking then 2 else 1)
  | none =>
    match j.lastAbort with
    | some (st, _) => if st = j.lastArmed then (st, 3) else (0, if j.parking then 2 else 0)
    | none => (0, if j.parking then 2 else 0)

/-- `HEARTBEAT_SEND` (R400). -/
def execHeartbeatSend (job : BitVec 32) (peer : BitVec 16) (s : State) : Host.Outcome State Fault Refusal :=
  .next (match jobOf job s with
    | none => s
    | some j =>
      match j.layout with
      | some lay =>
        if j.phase = .opened ∧ (peers lay).contains peer then
          sendPlain job peer false ptHeartbeat 0 0 0
            (beBytes 8 (beatState j).1.toNat ++ beBytes 4 lay.crc.toNat ++ [(beatState j).2, 0] ++ beBytes 2 s.fabric.tDetect) s
        else s
      | none => s)

/-- `HEARTBEAT` (R401): a differing layout CRC or t_DETECT, or state 3 for the armed step, is a detection. -/
def execHeartbeat (p : ChordHdr) (b : Heartbeat) (s : State) : Host.Outcome State Fault Refusal :=
  .next (onPacket p ptHeartbeat false (fun _ => true) noWait (fun j t =>
    match stepOf j, j.layout with
    | some r, some lay =>
      if r.st = .resolving then t
      else if b.layoutCrc ≠ lay.crc ∨ b.tDetectUs.toNat ≠ s.fabric.tDetect then
        losePeer j.id p.srcRank true (abortStep j.id cauMismatch none p.srcRank t)
      else if b.state = 3 ∧ b.armedStep = r.step then
        losePeer j.id p.srcRank true (abortStep j.id cauRelayed (some p.srcRank) 0xFFFF t)
      else t
    | _, _ => t) s)

/-! ### Gathers -/

/-- Offset of a shard's bytes in a gather object of its tensor (R398). -/
def gatherOffset (lay : Layout) (sh : ShardEnt) : Nat :=
  ((lay.shards.filter fun x => x.tensor == sh.tensor && decide (x.first < sh.first)).map workLen).foldl (· + ·) 0

/-- The gather entry of a tensor, with its index. -/
def gatherOf (lay : Layout) (t : BitVec 24) : Option GatherEnt := lay.gathers.find? fun g => g.tensor == t

/-- The destination objects of a tensor's bytes (R397): that of its first gather entry, from which a relay serves, and those of
the entries begun in the step. -/
def gatherObjs (lay : Layout) (r : StepRun) (t : BitVec 24) : List W64 :=
  let es := (List.range lay.gathers.length).filterMap fun i => (lay.gathers[i]?).map fun g => (i, g)
  let mine := es.filter fun e => e.2.tensor == t
  ((mine.take 1 ++ (mine.drop 1).filter fun e => r.begun.contains e.1).map fun e => e.2.obj).eraseDups

/-- Members of the same node as a member. -/
def nodeRanks (lay : Layout) (m : Member) : List W16 :=
  ((List.range lay.members.length).filter fun k => match lay.members[k]? with
    | some x => x.node == m.node
    | none => false).map (BitVec.ofNat 16)

/-- The member that this member asks for a shard of another member (R397). -/
def askRank (lay : Layout) (owner : W16) : W16 :=
  match memberOf lay lay.rank, memberOf lay owner with
  | some me, some o =>
    if me.node = o.node then owner
    else
      let ix := o.localIx % (nodeRanks lay me).length
      match (nodeRanks lay me).find? fun r => match memberOf lay r with
          | some x => x.localIx == ix
          | none => false with
      | some r => if r = lay.rank then owner else r
      | none => owner
  | _, _ => owner

/-- Ask for a shard once in the step (R397). -/
def askShard (job : W32) (sh : ShardEnt) (s : State) : State :=
  match jobOf job s with
  | none => s
  | some j =>
    match j.run, j.layout with
    | some r, some lay =>
      if r.asked.contains sh.id then s
      else
        sendSeq job (askRank lay sh.owner) false ptGatherReq r.step (sh.tensor.zeroExtend 32) 0 false (beBytes 4 sh.id.toNat)
          (modRun job (fun q => { q with asked := q.asked ++ [sh.id] }) s)
    | _, _ => s

/-- Serve a GATHER_REQ of a peer (R397, R398): from the own working object, or as a relay from the gather object once the
shard is whole there; until then the request waits. An uncorrectable read aborts the step (R303). -/
def serveGather (job : W32) (peer : W16) (shard : W32) (s : State) : State :=
  match jobOf job s with
  | none => s
  | some j =>
    match j.run, j.layout with
    | some r, some lay =>
      match lay.shards.find? fun x => x.id == shard with
      | none => s
      | some sh =>
        let off := gatherOffset lay sh
        let own := sh.owner == lay.rank
        let whole := sget 0 r.got sh.id.toNat == workLen sh
        let src := if own then objDpa s sh.workObj else
          (gatherOf lay sh.tensor).bind fun g => (objDpa s g.obj).map (· + off)
        if own ∨ whole then
          match src with
          | none => s
          | some a =>
            match readBytes rqChord a (workLen sh) s with
            | (t, none) => abortStep job cauLocal none 0xFFFF t
            | (t, some bs) => sendBytes job peer false ptGatherData r.step (sh.tensor.zeroExtend 32) off bs t
        else
          askShard job sh (modJob job (fun x => { x with gatherReqs := x.gatherReqs ++ [(peer, r.step, shard)] }) s)
    | _, _ => s

/-- Gathers in progress whose every shard has arrived report RESIDENT (R398). -/
def finishGathers (job : W32) (s : State) : State :=
  match jobOf job s with
  | none => s
  | some j =>
    match j.run, j.layout with
    | some r, some lay =>
      r.gathers.foldl (fun t i =>
        match lay.gathers[i]? with
        | none => t
        | some g =>
          if (tensorShards lay g.tensor).all fun sh => sget 0 r.got sh.id.toNat == workLen sh then
            gatherStatus lay.gatherDpa i (BitVec.ofNat 64 (optGet 0 (objDpa t g.obj))) r.step 2 0
              (modRun job (fun q => { q with gathers := q.gathers.filter (· != i) }) t)
          else t) s
    | _, _ => s

/-- A shard has arrived whole: requests that wait for it are served, and gathers may finish. -/
def shardGathered (job : W32) (shard : W32) (s : State) : State :=
  match jobOf job s with
  | none => s
  | some j =>
    match j.run with
    | none => s
    | some r =>
      let mine := fun (q : W16 × W64 × W32) => q.2.1 == r.step && q.2.2 == shard
      let t := modJob job (fun x => { x with gatherReqs := x.gatherReqs.filter fun q => !mine q }) s
      finishGathers job ((j.gatherReqs.filter mine).foldl (fun t q => serveGather job q.1 q.2.2 t) t)

/-- What has arrived of a shard for an earlier entry of its tensor serves a later entry too: each shard is asked for once
(R397). -/
def copyGather (job : W32) (lay : Layout) (sh : ShardEnt) (src dst : W64) (s : State) : State :=
  match objDpa s src, objDpa s dst with
  | some a, some b =>
    (match readCells rqChord (a + gatherOffset lay sh) (workLen sh) s with
     | (t, none) => abortStep job cauLocal none 0xFFFF t
     | (t, some c) => writeCells (b + gatherOffset lay sh) (workLen sh) c t)
  | _, _ => s

/-- Gather `i` of the layout starts (R397): its status says so, own shards come over the Vertex–Prism links, and the others
are asked for. -/
def startGather (job : W32) (i : Nat) (s : State) : State :=
  match jobOf job s with
  | none => s
  | some j =>
    match j.run, j.layout with
    | some r, some lay =>
      match lay.gathers[i]? with
      | none => s
      | some g =>
        if r.gathers.contains i then s
        else
          let t := gatherStatus lay.gatherDpa i 0xFFFFFFFFFFFFFFFF r.step 1 0
            (modRun job (fun q => { q with gathers := q.gathers ++ [i], begun := q.begun.filter (· != i) ++ [i] }) s)
          let first := match gatherOf lay g.tensor with
            | some x => x.obj
            | none => g.obj
          finishGathers job ((tensorShards lay g.tensor).foldl (fun t sh =>
            if sh.owner = lay.rank then
              match objDpa t sh.workObj, objDpa t g.obj with
              | some a, some b =>
                match readCells rqChord a (workLen sh) t with
                | (u, none) => abortStep job cauLocal none 0xFFFF u
                | (u, some c) =>
                  modRun job (fun q => { q with got := sset 0 q.got sh.id.toNat (workLen sh) })
                    (writeCells (b + gatherOffset lay sh) (workLen sh) c u)
              | _, _ => t
            else
              let t := if sget 0 r.got sh.id.toNat = 0 ∨ first = g.obj then t else copyGather job lay sh first g.obj t
              askShard job sh t) t)
    | _, _ => s

/-- `GATHER_REQ` (R398): held until its step arms here; a request for a step already left is answered with ABORT, cause
0x06. -/
def execGatherReq (p : ChordHdr) (shard : BitVec 32) (s : State) : Host.Outcome State Fault Refusal :=
  .next (onPacket p ptGatherReq true (epochIs p) noWait (fun j t =>
    if stepAhead p j then modJob j.id (fun x => { x with gatherReqs := x.gatherReqs ++ [(p.srcRank, p.step, shard)] }) t
    else
      match lateForAborted j p t with
      | some u => u
      | none =>
        match stepOf j with
        | some r =>
          if r.step = p.step ∧ r.st ≠ .resolving then serveGather j.id p.srcRank shard t
          else answerAbort j.id p.srcRank (viaMgmt p.via) p.step (leftToken j p.step) t
        | none => answerAbort j.id p.srcRank (viaMgmt p.via) p.step (leftToken j p.step) t) s)

/-- What a GATHER_DATA packet of the armed step does (R398): bytes go to the gather objects of their tensor. -/
def gatherBody (p : ChordHdr) (payload : List Byte) (j : Job) (r : StepRun) (lay : Layout) (t : State) : State :=
  let tensor : BitVec 24 := p.coll.truncate 24
  let o := p.offset.toNat
  match (tensorShards lay tensor).find? fun sh => decide (gatherOffset lay sh ≤ o ∧ o < gatherOffset lay sh + workLen sh) with
  | none => t
  | some sh =>
    let have_ := sget 0 r.got sh.id.toNat + payload.length
    if workLen sh < o - gatherOffset lay sh + payload.length ∨ workLen sh < have_ then t
    else
      let t := (gatherObjs lay r tensor).foldl (fun t g => match objDpa t g with
        | some b => writeBytes (b + o) payload t
        | none => t) t
      let t := modRun j.id (fun q => { q with got := sset 0 q.got sh.id.toNat have_ }) t
      if have_ = workLen sh then shardGathered j.id sh.id t else t

/-- `GATHER_DATA` (R398). -/
def execGatherData (p : ChordHdr) (payload : List Byte) (s : State) : Host.Outcome State Fault Refusal :=
  .next (sized p payload.length (onStepPacket p ptGatherData (.gather p payload) (gatherBody p payload)) s)

/-! ### Expert exchange -/

/-- What a DISPATCH packet of the armed step does (R408, R409): a row goes to its slot, or a combine row to the take index of
its route. -/
def rowBody (p : ChordHdr) (payload : List Byte) (j : Job) (r : StepRun) (lay : Layout) (t : State) : State :=
  match lay.disps.find? fun d => d.id == p.coll.toNat with
  | none => t
  | some d =>
    let n := lay.members.length
    let slot := p.offset.toNat
    if d.rowSlot < payload.length ∨ d.perRank * n * d.capacity ≤ slot then t
    else if d.combine then
      if slot / d.capacity % n = lay.rank.toNat then takeBack j.id d (routeOf lay d) n p.srcRank.toNat slot payload t else t
    else if slot / d.capacity % n = p.srcRank.toNat then takeRow j.id d n r.step p.srcRank.toNat slot payload t
    else t

/-- `DISPATCH` (R408, R409). -/
def execDispatch (p : ChordHdr) (payload : List Byte) (s : State) : Host.Outcome State Fault Refusal :=
  .next (sized p payload.length (onStepPacket p ptDispatch (.row p payload) (rowBody p payload)) s)

/-- What a DISPATCH_END packet of the armed step does (R408): a source's counts, one for each local expert; a combine's carries
none. -/
def rowsEndBody (p : ChordHdr) (counts : List Nat) (j : Job) (r : StepRun) (lay : Layout) (t : State) : State :=
  match lay.disps.find? fun d => d.id == p.coll.toNat with
  | none => t
  | some d =>
    if counts.length = (if d.combine then 0 else d.perRank) then
      takeEnd j.id d lay.members.length r.step p.srcRank.toNat counts (if viaMgmt p.via then none else some p.seq) t
    else t

/-- `DISPATCH_END` (R408). -/
def execDispatchEnd (p : ChordHdr) (counts : List Nat) (s : State) : Host.Outcome State Fault Refusal :=
  .next (onStepPacket p ptDispatchEnd (.rowsEnd p counts) (rowsEndBody p counts) s)

/-- A packet kept for the step that has been armed acts (R383). -/
def takeHeld (job : W32) (s : State) (q : HeldPkt) : State :=
  match jobOf job s with
  | none => s
  | some j =>
    match stepOf j, j.layout with
    | some r, some lay =>
      if r.st = .resolving then s
      else match q with
        | .data p b => dataBody p b j r lay s
        | .gather p b => gatherBody p b j r lay s
        | .row p b => rowBody p b j r lay s
        | .rowsEnd p c => rowsEndBody p c j r lay s
    | _, _ => s

/-- The step of a kept packet. -/
def heldStep : HeldPkt → W64
  | .data p _ => p.step
  | .gather p _ => p.step
  | .row p _ => p.step
  | .rowsEnd p _ => p.step

end Sys2Proof.Machine
end

