-- ==== Sys2Proof/Machine/FenceOps.lean ====
section
/-! DEFINITION. Sys2Proof/Machine/FenceOps.lean: fences (R449 to R451), the service floor (R454, R455), and the stop of a
sector after a facet fault (R175). -/

namespace Sys2Proof.Machine

/-! ### The service floor -/

/-- Channel pairs of a Prism in service: in its channel set and not fenced. -/
def pairsInService (s : State) (n : Nat) : Nat :=
  ((List.range 8).filter fun k => pairIn s (8 * n + k) && !s.health.pairs.getLsbD (8 * n + k)).length

/-- A die-to-die link is up: a working module remains (R20). -/
def d2dUp (s : State) (l : Fin 9) : Bool := (s.d2d.working[l]) != 0

/-- The part of the service floor that units decide (R454). -/
def floorUnits (s : State) : Bool :=
  d2dUp s 4 &&
  (fins 4).any (fun n => !prismOut s n && d2dUp s (finOf n.val) && d2dUp s (finOf (n.val + 5)) && decide (4 ≤ pairsInService s n.val)) &&
  (s.health.columns != 0xFFF) && (s.health.fabric != 0xFF)

/-- The service floor holds (R454), as `READY` checks it: the host port is trained. -/
def floorOk (s : State) : Bool := s.mbx.link == .l0 && floorUnits s

/-- Stop the Arc of every running sector (R455). -/
def stopArcs (s : State) : State :=
  (fins 4).foldl (fun t k =>
    if (t.sectors[k]).st = .running then modSector k (fun x => { x with st := .loaded, cadence := 0 }) (stopSectorFacets k t) else t) s

/-- The running device falls below the floor (R455): every armed step meets a local failure with cause 7, and every Arc
stops. -/
def enterBelowFloor (s : State) : State :=
  let t := setSbState 0b100 { s with phase := .belowFloor }
  let t := logHealth 0x08 0 0 0 t
  let t := t.jobs.foldl (fun t j => if (stepOf j).isSome then localFailure j.id 7 t else t) t
  settleSideband (stopArcs t)

/-- Varlux checks the floor again at a fence (R454, R455): a fence takes the device below it by its units; a host link that
retrains at that moment does not (DEDUCED, log 11). -/
def checkFloor (s : State) : State := if s.phase = .ready ∧ !floorUnits s then enterBelowFloor s else settleSideband s

/-! ### Fences -/

/-- The fence flags of a unit take it in (Table 16-4). -/
def setFenced (unit ix : Nat) (s : State) : State :=
  match unit with
  | 0 => { s with health.columns := setBit s.health.columns ix true }
  | 1 => { s with health.pairs := setBit s.health.pairs ix true, mem.trained := setBit s.mem.trained (ix / 8) false }
  | 2 => { s with health.prisms := setBit s.health.prisms ix true, mem.trained := setBit s.mem.trained ix false }
  | 3 => { s with health.fabric := setBit s.health.fabric ix true }
  | _ => { s with health.mgmt := setBit s.health.mgmt ix true }

/-- A unit is fenced. -/
def isFenced (unit ix : Nat) (s : State) : Bool :=
  match unit with
  | 0 => s.health.columns.getLsbD ix
  | 1 => s.health.pairs.getLsbD ix
  | 2 => s.health.prisms.getLsbD ix
  | 3 => s.health.fabric.getLsbD ix
  | _ => s.health.mgmt.getLsbD ix

/-- The fence map takes a unit in (Table 16-5). -/
def recordFence (unit ix : Nat) (s : State) : State :=
  writeFence (fun m => match unit with
    | 0 => { m with columns := setBit m.columns ix true }
    | 1 => { m with pairs := setBit m.pairs ix true }
    | 2 => { m with prisms := setBit m.prisms ix true }
    | 3 => { m with fabric := setBit m.fabric ix true }
    | _ => { m with mgmt := setBit m.mgmt ix true }) s

/-- The sector that holds a column. -/
def columnSector (s : State) (c : Nat) : Option (Fin 4) := (fins 4).find? fun k => (s.sectors[k]).columns.getLsbD c

/-- A facet fault of a sector is a local failure of its job's armed step (R175, R361). -/
def sectorFailure (k : Fin 4) (s : State) : State :=
  match s.jobs.find? fun j => j.phase == .opened && j.sector == k with
  | some j => if (stepOf j).isSome then localFailure j.id 3 s else s
  | none => s

/-- A column leaves service (R261): its sector stops as at a facet error and loses the column; what its facets had started
finishes, and they are cleared and IDLE (R95, R174). -/
def dropColumn (c : Nat) (s : State) : State :=
  let t := match columnSector s c with
    | some k => sectorFailure k (modSector k (fun x => { x with columns := setBit x.columns c false }) (faultSector k s))
    | none => s
  let t := finishStarted (setBit 0 c true) { t with facets := vmap t.facets fun f x => if facetCol f = c then stopFacet x else x }
  { t with facets := vmap t.facets fun f x => if facetCol f = c then clearFacet x else x }

/-- DMA operations in flight that touch a Prism complete as uncorrectable (R310). -/
def failFlights (n : Nat) (s : State) : State :=
  (fins 96).foldl (fun t f => (t.facets[f]).flight.foldl (fun t q =>
    let hits := fun (spans : List (Nat × Nat × Nat)) => spans.any fun x => (granulesOf x.1 x.2.2).any fun g => g % 4 == n
    match q.op with
    | .dmaRows _ td dpa stride sc => if hits (rowSpans td dpa.toNat stride.toNat sc) then endDma f q stMemUncorr t else t
    | .dmaLin _ _ dpa len => if hits [(dpa.toNat, 0, len.toNat)] then endDma f q stMemUncorr t else t
    | _ => t) t) s

/-- A Prism's LPDDR6 is untrained at once (R310). -/
def losePrism (n : Nat) (s : State) : State :=
  let t := failFlights n { s with mem.trained := setBit s.mem.trained n false }
  endLostObjects (failLostShards t)

/-- A management port loses its link, or its transmitter idles: a MGMT_FAILOVER on the other port ends at once (Table 16-9).
It is not judged: skipped (log 11). -/
def mgmtLost (p : Fin 2) (s : State) : State :=
  let t := { s with mgmt.ports := vupd s.mgmt.ports p fun x => { x with up := false } }
  match t.health.injection with
  | some (0, k, _) => if k.toNat = p.val then t else endInjection 2 t
  | _ => t

/-- Fence a unit while the device runs (Table 16-4, R451). A unit already fenced keeps its fence. -/
def fenceUnit (unit ix : Nat) (s : State) : State :=
  if isFenced unit ix s then s
  else
    let t := setFenced unit ix s
    let t := match unit with
      | 0 => dropColumn ix t
      | 1 => losePrism (ix / 8) t
      | 2 => losePrism ix t
      | 3 => detectNoPorts (modPort (finOf ix) (fun p => { p with st := 0 }) t)
      | _ => mgmtLost (finOf ix) t
    checkFloor (raiseEvent evFence (logHealth 0x01 unit ix 0 { t with smb.degraded := true }))

/-- Units fenced, as `DEVICE_INFO` and `UNIT_FENCE` count them (R451). -/
def fencedCount (s : State) : Nat :=
  popCount s.health.columns +
  ((List.range 32).filter fun k => s.health.pairs.getLsbD k && !s.health.prisms.getLsbD (k / 8)).length +
  popCount s.health.prisms + popCount s.health.fabric + popCount s.health.mgmt

/-- A column whose facets caused two events of class 0x14 in the window is fenced at once and persistently (R450). -/
def judgeColumn (c : Nat) (s : State) : State :=
  if 2 ≤ (s.health.colEvents.filter fun e => e.1 = c).length ∧ !isFenced 0 c s then recordFence 0 c (fenceUnit 0 c s) else s

/-- `FACET_FAULT_STOP` (R175): the other facets of a faulted facet's sector stop, the error is recorded once, and an armed
step of the sector's job meets a local failure. A sector that another fault or an ARC_STOP has already stopped keeps its
state (Table 10-2 lists no facet error there). -/
def execFacetFaultStop (f : Fin 96) (s : State) : Host.Outcome State Fault Refusal :=
  .next (
    let x := s.facets[f]
    match x.sector with
    | some k =>
      if x.st ≠ .faulted ∨ x.reported then s
      else
        let t := modFacet f (fun y => { y with reported := true }) s
        let t := sectorFailure k (if (s.sectors[k]).st = .running then faultSector k t else t)
        judgeColumn (facetCol f) (logHealth 0x09 0 f.val (x.err.toNat % 2 ^ 32) t)
    | none => s)

end Sys2Proof.Machine
end

