-- ==== Sys2Proof/Machine/ObjCmd.lean ====
section
/-! DEFINITION. Sys2Proof/Machine/ObjCmd.lean: the object commands (R316 to R326), the prefetch schedule (R328, R330), the
ends of moves, and the flash translation layer's relocations (R333). -/

namespace Sys2Proof.Machine

/-- The placement of an `OBJ_ID` is valid for a size (R314, R315). -/
def placementOk (id : W64) (size : Nat) : Bool :=
  let p := id.toNat / 2 ^ 60
  p == 0 || (decide (8 ≤ p ∧ p ≤ 11) && decide (size ≤ 2 ^ 30))

/-- The checks of `OBJ_CREATE` in the order of Table 12-1. -/
def createStatus (id : W64) (size tier : Nat) (job : W32) (s : State) : Option W16 :=
  let p := id.toNat / 2 ^ 60
  if size = 0 ∨ 2 ^ 40 < size ∨ 2 < tier ∨ !placementOk id size then some stArg
  else
    match jobOf job s with
    | none => some stState
    | some j =>
      if j.phase ≠ .opened ∨ (objOf id s).isSome then some stState
      else if (tier = 2 ∧ !s.flash.present) ∨ (tier = 0 ∧ 8 ≤ p ∧ prismOut s (finOf (p - 8))) then some stDegraded
      else if 262144 ≤ s.objs.length then some stNoSpace
      else
        match tier with
        | 0 => if (findLpddr s j.sector id size).isNone then some stNoSpace else none
        | 1 => if (findHost s j.hostPool size).isNone then some stNoSpace else none
        | _ => if flashRoom s size then none else some stNoSpace

/-- `OBJ_CREATE`'s own effect: a zeroed object (R316, R317). -/
def objCreateBody (h : Hdr) (id : W64) (size tier : Nat) (job : W32) (s : State) : State :=
  match createStatus id size tier job s, jobOf job s with
  | none, some j =>
    let loc := match tier with
      | 0 => optGet 0 (findLpddr s j.sector id size)
      | 1 => optGet 0 (findHost s j.hostPool size)
      | _ => 0
    let o : Obj := { id := id, job := job, size := size, tier := tier, loc := loc, flash := [], backed := tier == 2, dirty := [],
                     userPins := 0, holds := 0, queue := [], move := none, promos := [], damaged := false, kept := false }
    let t := match tier with
      | 0 => zeroRange loc (extLen size) s
      | 1 => { s with hostMem := sclear s.hostMem (loc - hostBase) (extLen size) }
      | _ => s
    let t := writeJobRecord job { t with objs := t.objs ++ [o] }
    let t := if tier = 2 then ftlDrop (.obj id) t else t
    complete h stOk (leBytes 8 (if tier = 0 then loc else 0)) t
  | some st, _ => complete h st [] s
  | none, none => s

/-- `OBJ_CREATE` (R316). -/
def execObjCreate (h : Hdr) (id size : BitVec 64) (tier : BitVec 8) (job : BitVec 32) (s : State) :
    Host.Outcome State Fault Refusal :=
  .next (runCmd catObjCreate h (objCreateBody h id size.toNat tier.toNat job) s)

/-- `OBJ_DESTROY`'s own effect (R320, R326, R335): an object that holds flash extents needs the flash tier. -/
def objDestroyBody (h : Hdr) (id : W64) (s : State) : State :=
  match objOf id s with
  | none => complete h stState [] s
  | some o =>
    let parked : Bool := match jobOf o.job s with
      | some j => j.phase == .parked
      | none => false
    let named : Bool := match (jobOf o.job s).bind (·.sched) with
      | some x => x.entries.any fun e => e.obj == id
      | none => false
    if parked then complete h stState [] s
    else if pinCount o ≠ 0 ∨ o.move.isSome ∨ !o.queue.isEmpty ∨ named ∨ namedIn layoutObjs o s then complete h stBusy [] s
    else if o.backed ∧ !s.flash.present then complete h stDegraded [] s
    else
      let t := { s with objs := s.objs.filter fun x => x.id != id }
      complete h stOk [] (writeJobRecord o.job (if o.backed then ftlDrop (.obj id) t else t))

/-- `OBJ_DESTROY` (R326). -/
def execObjDestroy (h : Hdr) (id : BitVec 64) (s : State) : Host.Outcome State Fault Refusal :=
  .next (runCmd catObjDestroy h (objDestroyBody h id) s)

/-- `OBJ_PROMOTE`'s own effect (R317, R322, R323, R342). -/
def objPromoteBody (h : Hdr) (id : W64) (tier flags : Nat) (s : State) : State :=
  if 2 < tier ∨ 1 < flags then complete h stArg [] s
  else
    match objOf id s with
    | none => complete h stState [] s
    | some o =>
      let pin := decide (flags % 2 = 1)
      if keptOnly o s then complete h stState [] s
      else if jobArmed o.job s ∧ namedIn (fun l => layoutShardObjs l ++ layoutMomentObjs l) o s then complete h stState [] s
      else if o.damaged then complete h stMemUncorr [] s
      else if pin ∧ 65535 ≤ o.userPins then complete h stState [] s
      else
        let t := if pin then modObj id (fun x => { x with userPins := x.userPins + 1 }) s else s
        if promoting o then modObj id (fun x => { x with promos := x.promos ++ [(some h, tier, pin)] }) t
        else promoteResident h id tier pin (cancelEvictionOf id t)

/-- `OBJ_PROMOTE` (R317). -/
def execObjPromote (h : Hdr) (id : BitVec 64) (tier flags : BitVec 8) (s : State) : Host.Outcome State Fault Refusal :=
  .next (runCmd catObjPromote h (objPromoteBody h id tier.toNat flags.toNat) s)

/-- `OBJ_EVICT`'s own effect (R323, R342). -/
def objEvictBody (h : Hdr) (id : W64) (tier : Nat) (s : State) : State :=
  if 2 < tier then complete h stArg [] s
  else
    match objOf id s with
    | none => complete h stState [] s
    | some o =>
      if keptOnly o s then complete h stState [] s
      else if namedIn layoutShardObjs o s ∨ (jobArmed o.job s ∧ namedIn layoutMomentObjs o s) then complete h stState [] s
      else if o.damaged then complete h stMemUncorr [] s
      else if tier = 2 ∧ !s.flash.present then complete h stDegraded [] s
      else if o.move.isSome then
        defer h (pinResult o) (modObj id (fun x => { x with queue := queueIn ⟨tier, some h, placeOf h s⟩ x.queue }) s)
      else if tier ≤ o.tier then complete h stOk (pinResult o) s
      else if pinCount o ≠ 0 ∨ !o.queue.isEmpty then
        defer h (pinResult o) (modObj id (fun x => { x with queue := queueIn ⟨tier, some h, placeOf h s⟩ x.queue }) s)
      else
        match moveDest s o tier with
        | none => complete h stNoSpace [] s
        | some d => startMove id ⟨o.tier, tier, d, some h, false, false, placeOf h s⟩ s

/-- `OBJ_EVICT` (R323). -/
def execObjEvict (h : Hdr) (id : BitVec 64) (tier : BitVec 8) (s : State) : Host.Outcome State Fault Refusal :=
  .next (runCmd catObjEvict h (objEvictBody h id tier.toNat) s)

/-- `OBJ_PIN`'s own effect (R322, R323): an eviction in progress is cancelled. -/
def objPinBody (h : Hdr) (id : W64) (s : State) : State :=
  match objOf id s with
  | none => complete h stState [] s
  | some o =>
    if keptOnly o s then complete h stState [] s
    else if o.damaged then complete h stMemUncorr [] s
    else if 65535 ≤ o.userPins then complete h stState [] s
    else
      let t := modObj id (fun x => { x with userPins := x.userPins + 1 }) s
      match objOf id t with
      | some x => complete h stOk (pinResult x) (cancelEviction x t)
      | none => t

/-- `OBJ_PIN` (R322). -/
def execObjPin (h : Hdr) (id : BitVec 64) (s : State) : Host.Outcome State Fault Refusal :=
  .next (runCmd catObjPin h (objPinBody h id) s)

/-- `OBJ_UNPIN`'s own effect (R322). -/
def objUnpinBody (h : Hdr) (id : W64) (s : State) : State :=
  match objOf id s with
  | none => complete h stState [] s
  | some o =>
    if keptOnly o s ∨ o.userPins = 0 then complete h stState [] s
    else
      let t := modObj id (fun x => { x with userPins := x.userPins - 1 }) s
      match objOf id t with
      | some x => complete h stOk (pinResult x) t
      | none => t

/-- `OBJ_UNPIN` (R322). -/
def execObjUnpin (h : Hdr) (id : BitVec 64) (s : State) : Host.Outcome State Fault Refusal :=
  .next (runCmd catObjUnpin h (objUnpinBody h id) s)

/-- `EVICTION_DEQUEUE` (R323). -/
def execEvictionDequeue (id : BitVec 64) (s : State) : Host.Outcome State Fault Refusal :=
  .next (match objOf id s with
    | some o => dequeue (o.queue.length + 1) id s
    | none => s)

/-- `MOVE_SWITCH` (R321). -/
def execMoveSwitch (id : BitVec 64) (s : State) : Host.Outcome State Fault Refusal := .next (switchMove id s)

/-- `MOVE_FAIL` (R325): a page declared unreadable counts in class 0x1A. -/
def execMoveFail (id : BitVec 64) (cause : MoveCause) (s : State) : Host.Outcome State Fault Refusal :=
  .next (match objOf id s with
    | none => s
    | some o =>
      if o.move.isNone then s
      else match cause with
        | .memUncorr => if o.tier = 0 then failMove id stMemUncorr false s else s
        | .flashUnreadable => if o.tier = 2 then failMove id stMemUncorr true (evidence 0x1A 1 s) else s
        | .hostAccess => failMove id stHostAccess false s
        | .noSpace => failMove id stNoSpace false s
        | .degraded => failMove id stDegraded false s)

/-- A schedule entry as its 32 bytes give it (Table 12-3): none where they break the table. -/
def parseSchedEntry (positions : Nat) (b : List Byte) : Option SchedEnt :=
  let fl := field b 0xC 1
  let ev := field b 0xD 1
  if field b 8 2 < positions ∧ field b 0xA 2 < positions ∧ fl ≤ 1 ∧ (if fl = 1 then ev = 1 ∨ ev = 2 else ev = 0) ∧
      allZero (slice b 0xE 18) then
    some { obj := BitVec.ofNat 64 (field b 0 8), position := field b 8 2, release := field b 0xA 2, evict := fl = 1,
           evictTier := ev, held := false, step := 0, state := 0, code := 0, late := 0 }
  else none

/-- The schedule's buffer (Table 12-3): the schedule and the host pool of its header. -/
def parseSched (b : List Byte) : Option (Sched × Nat × Nat) :=
  let n := field b 8 4
  let p := field b 0xC 2
  let l := field b 6 2
  if field b 0 4 ≠ 0x50335053 ∨ field b 4 2 ≠ 1 ∨ p = 0 ∨ p ≤ l ∨ 65536 < n ∨ field b 0xE 2 ≠ 0 ∨ field b 0x10 8 % 32 ≠ 0 ∨
      field b 0x18 8 % 32 ≠ 0 ∨ !allZero (slice b 0x30 16) ∨ b.length ≠ 64 + 32 * n ∨ field b 0x20 8 % extBytes ≠ 0 ∨
      field b 0x28 8 % extBytes ≠ 0 ∨ 2 ^ 46 < field b 0x20 8 + field b 0x28 8 then none
  else
    match allSome ((pieces 32 n (b.drop 64)).map (parseSchedEntry p)) with
    | some es => some (⟨l, p, field b 0x10 8, field b 0x18 8, es, []⟩, field b 0x20 8, field b 0x28 8)
    | none => none

/-- A DPA range lies in the quota of a job's sector. -/
def inQuota (s : State) (k : Fin 4) (a n : Nat) : Bool := (granulesOf a n).all fun g => ownerOf s g == some (.sector k)

/-- `PREFETCH_SCHEDULE`'s own effect (R318, R328). -/
def prefetchBody (h : Hdr) (job : W32) (buf : List Byte) (s : State) : State :=
  match jobOf job s with
  | none => complete h stState [] s
  | some j =>
    if j.phase ≠ .opened then complete h stState [] s
    else
      match parseSched buf with
      | none => complete h stArg [] s
      | some (x, base, size) =>
        let mine := fun (id : W64) => match objOf id s with
          | some o => o.job == job && !o.kept
          | none => false
        let n := 32 * x.entries.length
        if !(x.entries.all fun e => mine e.obj && e.release != e.position &&
              decide (x.lookahead + (e.release + x.positions - e.position) % x.positions ≤ x.positions)) ∨
            !distinct (x.entries.map (·.obj)) ∨ !inQuota s j.sector x.progress 32 ∨ !inQuota s j.sector x.status n ∨
            (x.status < x.progress + 32 ∧ x.progress < x.status + n) then complete h stArg [] s
        else if armed j then complete h stState [] s
        else if !s.flash.present && x.entries.any (fun e => e.evictTier == 2) then complete h stDegraded [] s
        else
          let others := ((s.jobs.filter fun y => y.id != job).map fun y => match y.sched with
            | some z => z.entries.length
            | none => 0).foldl (· + ·) 0
          let poolOk := size = 0 || (s.objs.filter fun o => o.job == job && o.tier == 1).all fun o =>
            decide (hostBase + base ≤ o.loc ∧ o.loc + extLen o.size ≤ hostBase + base + size)
          if !poolOk ∨ 262144 < others + x.entries.length then complete h stNoSpace [] s
          else
            let t := modJob job (fun y => { y with sched := some x, hostPool := if size = 0 then y.hostPool else (base, size) }) (dropHolds job s)
            complete h stOk [] (evalSchedule job 0 0 t)

/-- `PREFETCH_SCHEDULE` (R328). -/
def execPrefetchSchedule (h : Hdr) (job : BitVec 32) (buf : List Byte) (s : State) : Host.Outcome State Fault Refusal :=
  .next (runCmd catPrefetchSchedule h (prefetchBody h job (bufBytes h buf)) s)

/-- `FTL_WEAR_LEVEL` (R333): once the spread of erase counts exceeds 300, the data of the block with the lowest count moves. -/
def execFtlWearLevel (block : Nat) (s : State) : Host.Outcome State Fault Refusal :=
  .next (if s.flash.present ∧ 300 < eraseSpread s ∧ leastWorn s block then relocate block s else s)

/-- `FTL_READ_DISTURB` (R333): a block whose pages have been read 50,000 times since its last program is rewritten. -/
def execFtlReadDisturb (block : Nat) (s : State) : Host.Outcome State Fault Refusal :=
  .next (if s.flash.present ∧ (flashBlock s block).programmed ∧ 50000 ≤ (flashBlock s block).reads then relocate block s else s)

/-- `FTL_RETENTION_SCAN` (R333): a programmed block is read, and rewritten when its corrected bits exceed 70 % of the limit. -/
def execFtlRetentionScan (block : Nat) (high : Bool) (s : State) : Host.Outcome State Fault Refusal :=
  .next (if !s.flash.present || !(flashBlock s block).programmed then s
    else if high then relocate block s
    else modBlock block (fun b => { b with reads := b.reads + extentPages }) s)

end Sys2Proof.Machine
end

