-- ==== Sys2Proof/Machine/ArcCmd.lean ====
section
/-! DEFINITION. Sys2Proof/Machine/ArcCmd.lean: sectors (R255 to R261), Arc images (R262 to R266), frame cadence (R269,
R270), and parking (R273 to R276). -/

namespace Sys2Proof.Machine

/-! ### Sectors -/

/-- Number of the sector a command names. -/
def secNo (h : Hdr) : Fin 4 := finOf h.sector.toNat

/-- Columns of a mask, ascending: the column map (R264). -/
def columnList (cols : BitVec 12) : List Nat := (List.range 12).filter fun c => cols.getLsbD c

/-- The job, open or parked, that a sector holds. -/
def sectorJob (s : State) (k : Fin 4) : Option Job := s.jobs.find? fun j => j.phase != .preserved && j.sector == k

/-- The expelled state refuses a command (R458). -/
def expelled (s : State) : Bool := s.health.expelled

/-- The checks of `SECTOR_CREATE` in the order of Table 10-1. -/
def sectorCreateStatus (k : Fin 4) (columns : W16) (quota weight flags : Nat) (s : State) : Option W16 :=
  let cols : BitVec 12 := columns.truncate 12
  if columns.toNat = 0 ∨ 4096 ≤ columns.toNat ∨ weight = 0 ∨ 1000 < weight ∨ 1 < flags then some stArg
  else if (s.sectors[k]).st ≠ .none ∨ expelled s then some stState
  else if cols &&& s.health.columns ≠ 0 then some stDegraded
  else if (vlist s.sectors).any (fun x => x.columns &&& cols != 0 || (flags == 1 && x.st != .none && x.eval)) then some stBusy
  else if (freeGranules s).length < quota then some stNoSpace
  else none

/-- Take granules for a sector, zero-filled first (R257). -/
def takeGranules (k : Fin 4) (gs : List Nat) (s : State) : State :=
  gs.foldl (fun t g => setOwner g (.sector k) (zeroRange (g * 2 ^ 30) (2 ^ 30) t)) s

/-- Clear the facets of a mask of columns and give them to a sector, or to none, once what they had started has finished
(R95, R174). -/
def giveFacets (cols : BitVec 12) (k : Option (Fin 4)) (s : State) : State :=
  let s := finishStarted cols s
  { s with facets := vmap s.facets fun f x => if cols.getLsbD (facetCol f) then { clearFacet x with sector := k } else x }

/-- `SECTOR_CREATE`'s own effect (R256, R257). -/
def sectorCreateBody (h : Hdr) (columns : W16) (quota weight flags : Nat) (s : State) : State :=
  let k := secNo h
  match sectorCreateStatus k columns quota weight flags s with
  | some st => complete h st [] s
  | none =>
    let cols : BitVec 12 := columns.truncate 12
    let t := giveFacets cols (some k) (takeGranules k ((freeGranules s).take quota) s)
    let t := modSector k (fun _ => { st := .empty, columns := cols, weight := BitVec.ofNat 16 weight, eval := flags == 1 }) t
    complete h stOk [] (settleSideband t)

/-- `SECTOR_CREATE` (R256). -/
def execSectorCreate (h : Hdr) (columns : BitVec 16) (quota : BitVec 32) (weight : BitVec 16) (flags : BitVec 8) (s : State) :
    Host.Outcome State Fault Refusal :=
  .next (runCmd catSectorCreate h (sectorCreateBody h columns quota.toNat weight.toNat flags.toNat) s)

/-- A step of the source job of an evaluation sector's Arc is armed. -/
def sourceArmed (x : Sector) (s : State) : Bool :=
  x.eval && match x.arc with
    | some a => jobArmed a.sourceJob s
    | none => false

/-- `SECTOR_DESTROY`'s own effect (R259). -/
def sectorDestroyBody (h : Hdr) (s : State) : State :=
  let k := secNo h
  let x := s.sectors[k]
  if x.st = .none ∨ x.st = .running ∨ x.st = .parked ∨ (sectorJob s k).isSome ∨ sourceArmed x s then complete h stState [] s
  else
    let t := giveFacets x.columns none s
    let t := freeOwners (fun o => o == .sector k) t
    complete h stOk [] (settleSideband (modSector k (fun _ => {}) t))

/-- `SECTOR_DESTROY` (R259). -/
def execSectorDestroy (h : Hdr) (s : State) : Host.Outcome State Fault Refusal :=
  .next (runCmd catSectorDestroy h (sectorDestroyBody h) s)

/-! ### Arc images -/

/-- A section of an Arc image (R263). -/
structure ArcSec where
  ty    : Nat
  facet : Nat
  off   : Nat
  len   : Nat
  dst   : Nat
  deriving DecidableEq, Repr

/-- An Arc image as its tables give it. -/
structure ArcImage where
  info : ArcInfo
  eval : Bool
  secs : List ArcSec
  deriving DecidableEq, Repr

/-- A section's destination range: first unit and units (Table 10-4). -/
def secSpan (x : ArcSec) : Nat × Nat :=
  (x.dst, match x.ty with
    | 1 => x.len / 16
    | 2 => x.len
    | _ => x.len / 32)

/-- A section obeys Table 10-4 and lies in the image. -/
def secOk (b : List Byte) (x : ArcSec) : Bool :=
  decide (x.off + x.len ≤ b.length) &&
  match x.ty with
  | 1 => decide (x.len % 16 = 0 ∧ x.dst + x.len / 16 ≤ 4096)
  | 2 => decide (x.dst + x.len ≤ 0x2FFF00)
  | 3 => decide (x.len % 32 = 0 ∧ x.dst + x.len / 32 ≤ 256) &&
      (pieces 32 (x.len / 32) (slice b x.off x.len)).all fun e => (scaleParse e).scale != 0xFF && decide ((scaleParse e).corr.toNat ≤ 16)
  | _ => false

/-- Two sections of one facet and one type overlap. -/
def secClash (x y : ArcSec) : Bool :=
  x.facet == y.facet && x.ty == y.ty &&
    decide ((secSpan x).1 < (secSpan y).1 + (secSpan y).2 ∧ (secSpan y).1 < (secSpan x).1 + (secSpan x).2)

/-- No two sections of a list overlap. -/
def noClash : List ArcSec → Bool
  | [] => true
  | x :: r => r.all (fun y => !secClash x y) && noClash r

/-- The Arc image of a buffer (Table 10-3, R263): none where it breaks its tables. -/
def parseArc (b : List Byte) : Option ArcImage :=
  let n := field b 0xA 2
  let cols := field b 8 1
  let ingress := field b 9 1
  let status := field b 0x18 8
  let secs := (pieces 16 n (b.drop 0x40)).map fun e => (⟨field e 0 1, field e 1 1, field e 4 4, field e 8 4, field e 0xC 4⟩ : ArcSec)
  if b.length < 64 + 16 * n ∨ field b 0 4 ≠ 0x50334152 ∨ field b 4 2 ≠ 1 ∨ 1 < field b 6 2 ∨ cols = 0 ∨ 12 < cols ∨ n = 0 ∨ 1024 < n ∨
      field b 0xC 4 = 0 ∨ 1000000 < field b 0xC 4 ∨ (field b 6 2 = 0 ∧ field b 0x10 4 ≠ 0) ∨ !allZero (slice b 0x14 4) ∨
      !allZero (slice b 0x20 32) ∨ (status ≠ 2 ^ 64 - 1 ∧ status % 64 ≠ 0) then none
  else if !(pieces 16 n (b.drop 0x40)).all (fun e => field e 2 2 == 0) || !secs.all (fun x => decide (x.facet < 8 * cols) && secOk b x) ||
      !noClash secs || (ingress != 0xFF && !secs.any (fun x => x.ty == 1 && x.facet == ingress)) then none
  else some ⟨⟨cols, ingress, field b 0xC 4, BitVec.ofNat 32 (field b 0x10 4), BitVec.ofNat 64 status⟩, field b 6 2 == 1, secs⟩

/-- A field of scale-table entries as an image gives it: the read-only fields and the flags keep their reset values (R219). -/
def imageScale (e : ScaleEntry) : ScaleEntry :=
  { scale := e.scale, headroom := e.headroom, fixed := e.fixed, corr := e.corr, hist := e.hist }

/-- The Arc context block (Table 10-5). -/
def contextBlock (s : State) (k : Fin 4) (a : ArcInfo) (l : Nat) (cadence : Nat) (started : Bool) : List Byte :=
  let x := s.sectors[k]
  let cols := columnList x.columns
  let job : W32 := if x.eval then a.sourceJob else match sectorJob s k with
    | some j => j.id
    | none => 0
  let gen : W64 := if x.eval && started then match jobOf a.sourceJob s with
      | some j => genOf j
      | none => 0xFFFFFFFFFFFFFFFF
    else 0
  layout 256 [(0, [BitVec.ofNat 8 l, BitVec.ofNat 8 k.val, BitVec.ofNat 8 a.logicalCols, BitVec.ofNat 8 (bit x.eval + 2 * bit (cadence != 0))]),
    (4, leBytes 4 job.toNat), (8, leBytes 8 cadence),
    (0x10, (List.range 12).map fun c => if c < a.logicalCols then BitVec.ofNat 8 (cols.getD c 0xFF) else 0xFF),
    (0x20, leBytes 8 gen.toNat)]

/-- Address of the context block. -/
def contextAddr : Nat := 0x2FFF00

/-- A facet as `ARC_LOAD` leaves it (R263, R265): cleared, its control registers at reset but for the seed and step of the
sector's job, with its sections and its context block. -/
def loadFacet (s : State) (k : Fin 4) (im : ArcImage) (b : List Byte) (f : Fin 96) (x : Facet) : Facet :=
  let l := logicalOf (s.sectors[k]).columns f
  let mine := fun (ty : Nat) => im.secs.filter fun y => y.ty == ty && y.facet == l
  let part := !(mine 1).isEmpty
  let imem := (mine 1).foldl (fun m y =>
    (List.range (y.len / 16)).foldl (fun m i => sset 0 m (y.dst + i) (BitVec.ofNat 128 (field b (y.off + 16 * i) 16))) m) []
  let spm := (mine 2).foldl (fun m y => scopy m y.dst (cellsOf (slice b y.off y.len)) 0 y.len) []
  let scale := (mine 3).foldl (fun m y =>
    (List.range (y.len / 32)).foldl (fun m i => sset {} m (y.dst + i) (imageScale (scaleParse (slice b (y.off + 32 * i) 32)))) m) []
  { clearFacet x with
    sector := some k, part := part, imem := imem, scale := scale, seed := x.seed, step := x.step,
    spm := if part then mwrite spm contextAddr (contextBlock s k im.info l 0 false) else spm }

/-- Seed and step of the job that a sector holds, as its facets read them (R136, R359, R370). -/
def jobControls (k : Fin 4) (s : State) : State :=
  let (seed, step) : W64 × W64 := match s.jobs.find? fun j => j.phase == .opened && j.sector == k with
    | some j => (j.seed, match stepOf j with
      | some r => r.step
      | none => 0)
    | none => (0, 0)
  { s with facets := vmap s.facets fun f x => if (s.sectors[k]).columns.getLsbD (facetCol f) then { x with seed := seed, step := step } else x }

/-- Load a checked image into a sector (R265, R266): every facet, then the scale-state record of its job (R225 item 5). -/
def loadArc (k : Fin 4) (im : ArcImage) (b : List Byte) (s : State) : State :=
  let s := jobControls k s
  let cols := (s.sectors[k]).columns
  let s := finishStarted cols s
  let t := { s with facets := vmap s.facets fun f x => if cols.getLsbD (facetCol f) then loadFacet s k im b f x else x }
  let t := match sectorJob t k with
    | some j => (match j.scaleRec with
      | some r => giveScales cols r.entries t
      | none => t)
    | none => t
  modSector k (fun x => { x with st := .loaded, arc := some im.info, cadence := 0, tick := 0, sent := 0, missed := 0 }) t

/-- Granules of a quota that hold no object and no Arc copy. -/
def quotaFree (s : State) (k : Fin 4) : List Nat :=
  let used := usedLpddr s
  let arcs := arcGranules s
  (quotaOf s k).filter fun g => !absent s g && !arcs.contains g && rangeFree used (g * 2 ^ 30) (2 ^ 30)

/-- Granules of an Arc copy of `n` bytes. -/
def copyGranules (n : Nat) : Nat := (n + 2 ^ 30 - 1) / 2 ^ 30

/-- Write an Arc copy into its granules. -/
def writeArcCopy (gs : List Nat) (b : List Byte) (s : State) : State :=
  (gs.foldl (fun (p : State × Nat) g =>
    let part := slice b (p.2 * 2 ^ 30) (min (2 ^ 30) (b.length - p.2 * 2 ^ 30))
    (writeBytes (g * 2 ^ 30) (padTo (roundUp part.length 32) part) p.1, p.2 + 1)) (s, 0)).1

/-- `ARC_LOAD`'s own effect (R266): the checks in the order E_ARG, E_STATE, E_NO_SPACE. -/
def arcLoadBody (h : Hdr) (b : List Byte) (s : State) : State :=
  let k := secNo h
  let x := s.sectors[k]
  match parseArc b with
  | none => complete h stArg [] s
  | some im =>
    let status := im.info.statusDpa
    let job := sectorJob s k
    let need := match job with
      | some _ => copyGranules b.length
      | none => 0
    let free := quotaFree s k
    if status ≠ 0xFFFFFFFFFFFFFFFF ∧ !inQuota s k status.toNat 64 then complete h stArg [] s
    else if x.st = .none ∨ x.st = .running ∨ x.st = .parked ∨ im.eval ≠ x.eval ∨
        (im.eval && (match jobOf im.info.sourceJob s with
          | some j => j.phase == .preserved
          | none => true)) then complete h stState [] s
    else if popCount x.columns < im.info.logicalCols ∨ free.length < need then complete h stNoSpace [] s
    else
      let gs := free.take need
      let t := match job with
        | some j => modJob j.id (fun y => { y with arcCopy := some ⟨gs, b.length, im.info.logicalCols⟩ }) (writeArcCopy gs b s)
        | none => s
      let used := ((List.range 96).filter fun l => im.secs.any fun y => y.ty == 1 && y.facet == l).length
      let bytes := ((im.secs.filter fun y => y.ty == 2).map (·.len)).foldl (· + ·) 0
      complete h stOk (leBytes 4 used ++ leBytes 4 bytes) (loadArc k im b t)

/-- `ARC_LOAD` (R266). -/
def execArcLoad (h : Hdr) (image : List Byte) (s : State) : Host.Outcome State Fault Refusal :=
  .next (runCmd catArcLoad h (arcLoadBody h (bufBytes h image)) s)

/-- A facet as `ARC_START` starts it (R174, R268): PC 0, cycle count 0, its context block, and no weights taken since (R151,
R184): a weight load that a stop left behind is forgotten (log 100). -/
def startFacet (ctx : List Byte) (y : Facet) : Facet :=
  { y with st := .running, pc := 0, cycle := 0, spm := mwrite y.spm contextAddr ctx,
           active := none, issued := none, shadow := none, unconsumed := none, races := [] }

/-- A facet of the sector is FAULTED, so that a start is refused (R174). -/
def anyFaulted (cols : BitVec 12) (s : State) : Bool := (facetsOf cols).any fun f => (s.facets[f]).st == .faulted

/-- `ARC_START`'s own effect (R260, R268, R269). -/
def arcStartBody (h : Hdr) (c : Nat) (s : State) : State :=
  let k := secNo h
  let x := s.sectors[k]
  match x.arc with
  | none => complete h stState [] s
  | some a =>
    let held := x.eval && match jobOf a.sourceJob s with
      | some j => armed j || parkDeferred j
      | none => false
    if x.st ≠ .loaded ∨ expelled s ∨ held ∨ anyFaulted x.columns s then complete h stState [] s
    else if c ≠ 0 ∧ (a.ingress = 0xFF ∨ c < a.minCadence ∨ 1000000 < c) then complete h stArg [] s
    else
      let start := fun (f : Fin 96) (y : Facet) =>
        if x.columns.getLsbD (facetCol f) && y.part then startFacet (contextBlock s k a (logicalOf x.columns f) c true) y else y
      let t := { s with facets := vmap s.facets start }
      complete h stOk [] (modSector k (fun y => { y with
        st := .running, cadence := BitVec.ofNat 32 c, t0 := now s, tick := 0, sent := 0, missed := 0 }) t)

/-- `ARC_START` (R269). -/
def execArcStart (h : Hdr) (cadence : BitVec 32) (s : State) : Host.Outcome State Fault Refusal :=
  .next (runCmd catArcStart h (arcStartBody h cadence.toNat) s)

/-- Stop a running Arc (R260). -/
def stopArc (k : Fin 4) (s : State) : State :=
  if (s.sectors[k]).st = .running then modSector k (fun x => { x with st := .loaded, cadence := 0 }) (stopSectorFacets k s) else s

/-- `ARC_STOP`'s own effect (R260). -/
def arcStopBody (h : Hdr) (s : State) : State :=
  if (s.sectors[secNo h]).st ≠ .running then complete h stState [] s else complete h stOk [] (stopArc (secNo h) s)

/-- `ARC_STOP` (R260). -/
def execArcStop (h : Hdr) (s : State) : Host.Outcome State Fault Refusal := .next (runCmd catArcStop h (arcStopBody h) s)

/-- The ingress facet of a sector's Arc (R264). -/
def ingressOf (x : Sector) (a : ArcInfo) : Fin 96 := finOf (8 * (columnList x.columns).getD (a.ingress / 8) 0 + a.ingress % 8)

/-- `FRAME_TICK` (R269, R270): the next tick once it is due, sent unless channel 15 still holds an earlier one; then the
frame status record. -/
def execFrameTick (k : Fin 4) (s : State) : Host.Outcome State Fault Refusal :=
  .next (
    let x := s.sectors[k]
    match x.arc with
    | none => s
    | some a =>
      let due := x.t0 + x.tick * x.cadence.zeroExtend 64
      if x.st ≠ .running ∨ x.cadence = 0 ∨ now s < due then s
      else
        let f := ingressOf x a
        let sent := ((s.facets[f]).chans[(15 : Fin 16)]).isEmpty
        let t := if sent then modFacet f (fun y => { y with chans := vupd y.chans 15 fun l => l ++ [x.tick] }) s else s
        let x' := { x with tick := x.tick + 1, sent := if sent then x.sent + 1 else x.sent, missed := if sent then x.missed else x.missed + 1 }
        let t := modSector k (fun _ => x') t
        if a.statusDpa = 0xFFFFFFFFFFFFFFFF then t
        else writeBytes a.statusDpa.toNat (layout 64 [(0, leBytes 8 x'.sent.toNat), (8, leBytes 8 x'.missed.toNat),
          (0x10, leBytes 8 x.tick.toNat), (0x18, leBytes 8 due.toNat), (0x20, leBytes 4 s.jrn.boot.bootCount.toNat)]) t)

/-! ### Parking -/

/-- A command of R123's set is in progress for a job. -/
def jobBusy (j : Job) : Bool := j.pend.isSome || j.parking || match j.deriveCmd with
  | some d => d.shard.isSome
  | none => false

/-- The job digest (R356): the sum of the digests of the committed slots of its shards. A record that cannot be read is lost
(R303), so its shard has no committed slot. -/
def jobDigest (j : Job) (s : State) : State × W64 :=
  if !j.commit.valid then (s, 0)
  else (jobShards j).foldl (fun (p : State × W64) sh => match readRec rqVarlux sh (slotOf (genOf j)) p.1 with
    | (t, .found r) => (t, if r.gen = j.commit.gen then p.2 + r.digest else p.2)
    | (t, _) => (t, p.2)) (s, 0)

/-- Steps 5 to 7 of `PARK` (R274): the facets are cleared and released, and the command completes. -/
def releasePark (job : W32) (h : Hdr) (s : State) : State :=
  match jobOf job s with
  | none => s
  | some j =>
    let x := s.sectors[j.sector]
    let (s, d) := jobDigest j s
    let t := giveFacets x.columns none s
    let t := modSector j.sector (fun x => { st := .parked, weight := x.weight }) t
    let t := modJob job (fun y => { y with phase := .parked, parking := false, pend := none }) t
    complete h stOk (leBytes 8 (genOf j).toNat ++ leBytes 8 d.toNat) (writeDir id t)

/-- Step 4 of `PARK` (R274): the Arc stops, and what its facets had started finishes. An operation that waits for the host to
answer a snoop keeps the job from parking until a later `PARK_RESUME`. -/
def finishPark (job : W32) (h : Hdr) (s : State) : State :=
  match jobOf job s with
  | none => s
  | some j =>
    let cols := (s.sectors[j.sector]).columns
    let t := finishStarted cols (stopArc j.sector s)
    if (facetsOf cols).all fun f => ((t.facets[f]).flight).isEmpty then releasePark job h t else t

/-- `PARK`'s own effect (R274): it waits for the armed step, with a DEFERRED completion, and for a snapshot. -/
def parkBody (h : Hdr) (job : W32) (s : State) : State :=
  match jobOf job s with
  | none => complete h stState [] s
  | some j =>
    if j.phase ≠ .opened then complete h stState [] s
    else if jobBusy j then complete h stBusy [] s
    else
      let t := modJob job (fun y => { y with parking := true, pend := some (.park h (armed j)) }) s
      if armed j then defer h [] t
      else if j.snap.isSome ∨ !j.snapNext.isEmpty then t
      else finishPark job h t

/-- `PARK` (R274). -/
def execPark (h : Hdr) (job : BitVec 32) (s : State) : Host.Outcome State Fault Refusal :=
  .next (runCmd catPark h (parkBody h job) s)

/-- `PARK_RESUME` (R274): the step has settled and no snapshot runs. -/
def execParkResume (job : BitVec 32) (s : State) : Host.Outcome State Fault Refusal :=
  .next (match jobOf job s with
    | none => s
    | some j =>
      match j.pend with
      | some (.park h _) => if armed j ∨ j.snap.isSome ∨ !j.snapNext.isEmpty then s else finishPark job h s
      | _ => s)

/-- Read an Arc copy from its granules (R276): none when a sector of it is uncorrectable. -/
def readArcCopy (c : ArcCopy) (s : State) : State × Option (List Byte) :=
  let r := c.granules.foldl (fun (p : State × Option (List Byte) × Nat) g =>
    let n := min (2 ^ 30) (c.len - p.2.2 * 2 ^ 30)
    match readBytes rqVarlux (g * 2 ^ 30) (roundUp n 32) p.1 with
    | (t, some b) => (t, p.2.1.map (· ++ b.take n), p.2.2 + 1)
    | (t, none) => (t, none, p.2.2 + 1)) (s, some [], 0)
  (r.1, r.2.1)

/-- The Arc of a parked job as its copy in LPDDR6 gives it now (R276): the job has none, it cannot be read, it no longer
spells an image, or the image with its bytes. -/
inductive ArcRead where
  | absent
  | unreadable
  | malformed
  | image (im : ArcImage) (b : List Byte)
  deriving DecidableEq, Repr

/-- Read a job's Arc copy. -/
def readArc (j : Job) (s : State) : State × ArcRead :=
  match j.arcCopy with
  | none => (s, .absent)
  | some c =>
    match readArcCopy c s with
    | (t, none) => (t, .unreadable)
    | (t, some b) => (t, match parseArc b with
      | some im => .image im b
      | none => .malformed)

/-- Read a job's scale-state record (R276): false when a sector of it is uncorrectable; the entries read are the job's. -/
def readScaleRec (j : Job) (s : State) : State × Bool :=
  match j.scaleRec with
  | none => (s, true)
  | some r =>
    match readCells rqVarlux (j.recDpa + 0x1000) 786432 s with
    | (t, some m) => (modJob j.id (fun x => { x with scaleRec := some ⟨r.tag, scaleRecParse m⟩ }) t, true)
    | (t, none) => (t, false)

/-- Steps 3 to 5 of `UNPARK` (R276): the job and its quota move to the sector, its Arc is loaded when it has one, and the
command completes. -/
def finishUnpark (h : Hdr) (job : W32) (im : Option (ArcImage × List Byte)) (s : State) : State :=
  let m := secNo h
  let x := s.sectors[m]
  match jobOf job s with
  | none => complete h stState [] s
  | some j =>
    let old := j.sector
    let t := { s with owners := s.owners.map fun o => if o.2 = .sector old then (o.1, .sector m) else o }
    let t := modSector old (fun _ => {}) t
    let t := jobControls m (modJob job (fun y => { y with phase := .opened, sector := m }) t)
    let t := match im, j.scaleRec with
      | some p, _ => loadArc m p.1 p.2 t
      | none, some r => if x.st = .empty then t else giveScales x.columns r.entries t
      | none, none => t
    complete h stOk (leBytes 8 (genOf j).toNat) (writeDir (fun d => { d with
      entries := vmap d.entries fun _ e => e.map fun y => if y.job = job then { y with sector := m.val } else y }) t)

/-- `UNPARK`'s own effect (R276): the checks, the reads, and the load. A copy whose bytes no longer spell an Arc image fails
as `ARC_LOAD` of it would (log 103). -/
def unparkBody (h : Hdr) (job : W32) (s : State) : State :=
  let m := secNo h
  let x := s.sectors[m]
  match jobOf job s with
  | none => complete h stState [] s
  | some j =>
    let cols := match j.arcCopy with
      | some c => c.cols
      | none => 0
    if j.phase ≠ .parked ∨ expelled s ∨ x.st = .none ∨ x.st = .parked ∨ popCount x.columns < cols then complete h stState [] s
    else if jobBusy j then complete h stBusy [] s
    else if (sectorJob s m).isSome ∨ x.eval ∨ x.st = .running then complete h stBusy [] s
    else
      let (t, arc) := readArc j s
      let (t, ok) := readScaleRec j t
      match arc with
      | .unreadable => complete h stMemUncorr [] t
      | .malformed => complete h (if ok then stArg else stMemUncorr) [] t
      | .absent => if ok then finishUnpark h job none t else complete h stMemUncorr [] t
      | .image im b => if ok then finishUnpark h job (some (im, b)) t else complete h stMemUncorr [] t

/-- `UNPARK` (R276). -/
def execUnpark (h : Hdr) (job : BitVec 32) (s : State) : Host.Outcome State Fault Refusal :=
  .next (runCmd catUnpark h (unparkBody h job) s)

end Sys2Proof.Machine
end

