-- ==== Sys2Proof/Machine/SecOps.lean ====
section
/-! DEFINITION. Sys2Proof/Machine/SecOps.lean: SEC's measurement registers (R88, R89), its fuse shadow (R70), its entropy source and
DRBG (R67, R68), and the certificate chain (R74). -/

namespace Sys2Proof.Machine

/-- The 32 bytes of a digest held as a number. -/
def digestBytes (v : BitVec 256) : List Byte := beBytes 32 v.toNat

/-- Extend measurement register `i` + 1 (R88). -/
def extendMeas (i : Fin 5) (data : List Byte) (s : State) : State :=
  { s with sec.meas := vupd s.sec.meas i fun m => sha256N (digestBytes m ++ data) }

/-! ### Fuses -/

/-- SEC copies the fuse array into the shadow registers (R70). -/
def shadowFuses (x : Sec) : Sec :=
  { x with lifecycle := x.fuses.lifecycle, keyRevoked := x.fuses.keyRevoked, fuseSvn := x.fuses.svn, serial := x.fuses.serial,
           keyHash := x.fuses.keyHash }

/-- A lifecycle that Table 03-1 names; any other is a SEC security event. -/
def lifecycleOk (x : Sec) : Bool := x.lifecycle == 0b001 || x.lifecycle == 0b011 || x.lifecycle == 0b111

/-- A register of the fuse shadow by its offset from 0xF000_0002_0000 (R70): reserved bits and words read zero. -/
def fuseReg (x : Sec) (o : Nat) : W32 :=
  if o = 0x00 then BitVec.ofNat 32 (x.lifecycle.toNat + 16 * x.keyRevoked.toNat)
  else if 0x04 ≤ o ∧ o < 0x14 then BitVec.ofNat 32 ((2 ^ x.fuseSvn - 1) / 2 ^ (8 * (o - 4)))
  else if o = 0x14 then x.serial.truncate 32
  else if o = 0x18 then (x.serial >>> 32).truncate 32
  else if 0x20 ≤ o ∧ o < 0xA0 then
    BitVec.ofNat 32 (leNat (slice (digestBytes x.keyHash[(finOf ((o - 0x20) / 0x20) : Fin 4)]) ((o - 0x20) % 0x20) 4))
  else 0

/-! ### Entropy and the DRBG (R67, R68) -/

/-- The repetition-count test of NIST SP 800-90B passes: no sample comes `cutoff` times in a row. `last` came `n` times so far. -/
def repetitionPasses (cutoff : Nat) (last : Byte) : Nat → List Byte → Bool
  | _, [] => true
  | n, x :: xs => if x = last then decide (n + 1 < cutoff) && repetitionPasses cutoff last (n + 1) xs
    else repetitionPasses cutoff x 1 xs

/-- The adaptive-proportion test of NIST SP 800-90B passes: in each window the first sample comes fewer than `cutoff` times. -/
def proportionPasses (window cutoff : Nat) : Nat → List Byte → Bool
  | 0, _ => true
  | fuel + 1, l =>
    match l with
    | [] => true
    | x :: _ =>
      decide (((l.take window).filter (· == x)).length < cutoff) && proportionPasses window cutoff fuel (l.drop (max 1 window))

/-- A start-up test passes (R68): 1,024 samples, and both health tests of R67. -/
def startupPasses (l : List Byte) : Bool :=
  l.length == 1024 && (match l with
    | [] => true
    | x :: xs => repetitionPasses Config.repCutoff x 1 xs) && proportionPasses Config.aptWindow Config.aptCutoff l.length l

/-- HMAC with SHA-256. -/
def hmac (key msg : List Byte) : List Byte :=
  let k := padTo 64 (if 64 < key.length then sha256 key else key)
  sha256 (k.map (· ^^^ 0x5C) ++ sha256 (k.map (· ^^^ 0x36) ++ msg))

/-- HMAC_DRBG_Update of NIST SP 800-90A. -/
def drbgUpdate (data : List Byte) (d : Drbg) : Drbg :=
  let k := hmac d.key (d.v ++ [0x00] ++ data)
  let v := hmac k d.v
  if data.isEmpty then ⟨k, v⟩
  else
    let k := hmac k (v ++ [0x01] ++ data)
    ⟨k, hmac k v⟩

/-- The conditioned entropy of a seeding: SHA-256 of each raw block (R67). -/
def conditioned (k : Nat) : List Byte := (Config.noise k).flatMap sha256

/-- The DRBG is seeded once the source has passed its start-up test (R67, R68). -/
def seedDrbg (x : Sec) : Sec :=
  { x with drbg := some (drbgUpdate (conditioned x.seedIx) ⟨zeros 32, List.replicate 32 0x01⟩), seedIx := x.seedIx + 1, drbgReqs := 0 }

/-- The DRBG takes new conditioned entropy (R67). -/
def reseedDrbg (x : Sec) : Sec :=
  match x.drbg with
  | some d => { x with drbg := some (drbgUpdate (conditioned x.seedIx) d), seedIx := x.seedIx + 1, drbgReqs := 0 }
  | none => seedDrbg x

/-- The DRBG's output for a request of 32 bytes, and its state afterwards (HMAC_DRBG_Generate). -/
def drbgOutput (d : Drbg) : List Byte × Drbg :=
  let v := hmac d.key d.v
  (v, drbgUpdate [] ⟨d.key, v⟩)

/-- A request of 32 random bytes (R67). -/
def randomBytes (s : State) : List Byte × State :=
  let x := if s.sec.drbg.isSome then s.sec else seedDrbg s.sec
  let d := optGet ⟨zeros 32, zeros 32⟩ x.drbg
  let r := drbgOutput d
  (r.1, { s with sec := { x with drbg := some r.2, drbgReqs := x.drbgReqs + 1 } })

/-! ### The certificate chain (R74) in DER -/

/-- The octets of a DER length. -/
def derLen (n : Nat) : List Byte :=
  if n < 0x80 then leBytes 1 n else if n < 0x100 then 0x81 :: leBytes 1 n else 0x82 :: beBytes 2 n

/-- A DER value of a tag. -/
def der (tag : Byte) (content : List Byte) : List Byte := tag :: derLen content.length ++ content

/-- A DER sequence. -/
def derSeq (parts : List (List Byte)) : List Byte := der 0x30 parts.flatten

/-- The ASCII bytes of a string of digits and capitals. -/
def ascii (x : String) : List Byte := x.toList.map fun c => BitVec.ofNat 8 c.toNat

/-- A 64-bit number in 16 uppercase hexadecimal digits. -/
def hex16 (v : W64) : List Byte :=
  (List.range 16).map fun i =>
    let d := v.toNat / 16 ^ (15 - i) % 16
    BitVec.ofNat 8 (if d < 10 then 0x30 + d else 0x37 + d)

/-- SHA-256's object identifier with its NULL parameters. -/
def sha256Alg : List Byte := derSeq [[0x06, 0x09, 0x60, 0x86, 0x48, 0x01, 0x65, 0x03, 0x04, 0x02, 0x01], [0x05, 0x00]]

/-- RSASSA-PSS with SHA-256, MGF1 with SHA-256 and a salt of 32 bytes; the trailer 0xBC is the default (R79). -/
def pssAlg : List Byte :=
  derSeq [[0x06, 0x09, 0x2A, 0x86, 0x48, 0x86, 0xF7, 0x0D, 0x01, 0x01, 0x0A],
    derSeq [der 0xA0 sha256Alg, der 0xA1 (derSeq [[0x06, 0x09, 0x2A, 0x86, 0x48, 0x86, 0xF7, 0x0D, 0x01, 0x01, 0x08], sha256Alg]),
      der 0xA2 [0x02, 0x01, 0x20]]]

/-- A name attribute: its type below 2.5.4, and its text. -/
def nameAttr (type : Byte) (text : List Byte) : List Byte := der 0x31 (derSeq [[0x06, 0x03, 0x55, 0x04, type], der 0x13 text])

/-- The subject of the device certificate: common name `SZP3-1152`, and the fused serial number (R74). -/
def deviceName (serial : W64) : List Byte := derSeq [nameAttr 0x03 (ascii "SZP3-1152"), nameAttr 0x05 (hex16 serial)]

/-- notAfter of the device certificate (R74). -/
def deviceNotAfter : List Byte := der 0x18 (ascii "99991231235959Z")

/-- A certificate: X.509 v3, signed with RSASSA-PSS by a CA (R74, R79). -/
def certificate (signer : Bool) (issuer notAfter subject : List Byte) (c : CertOpen) : List Byte :=
  let body := derSeq [der 0xA0 [0x02, 0x01, 0x02], c.serial, pssAlg, issuer, derSeq [c.notBefore, notAfter], subject, c.key, c.extensions]
  derSeq [body, pssAlg, der 0x03 (0x00 :: slice (Config.caSign signer body) 0 384)]

/-- The three certificates of R74, root first. -/
def certificates (serial : W64) : List (List Byte) :=
  let root := Config.certOpen 0
  let mfg := Config.certOpen 1
  [certificate false root.subject root.notAfter root.subject root,
   certificate false root.subject mfg.notAfter mfg.subject mfg,
   certificate true mfg.subject deviceNotAfter (deviceName serial) (Config.certOpen 2)]

/-- The chain as SPDM presents it in slot 0 (R74): its length, the digest of the root certificate, and the certificates. -/
def certChain (serial : W64) : List Byte :=
  let cs := certificates serial
  let n := 36 + cs.flatten.length
  leBytes 2 n ++ [0x00, 0x00] ++ sha256 (cs.headD []) ++ cs.flatten

/-! ### Signatures of the identity key -/

/-- EMSA-PSS-ENCODE of RFC 8017 section 9.1.1 for 3,071 bits with a salt of 32 bytes (R79). -/
def pssEncode (msg salt : List Byte) : List Byte :=
  let h := sha256 (zeros 8 ++ sha256 msg ++ salt)
  let db := zeros 318 ++ [0x01] ++ salt
  let masked := List.zipWith (fun x y => x ^^^ y) db ((mgf1 h 11).take 351)
  (masked.headD 0 &&& 0x7F) :: masked.tail ++ h ++ [0xBC]

end Sys2Proof.Machine
end

