-- ==== Sys2Proof/Machine/FwOps.lean ====
section
/-! DEFINITION. Sys2Proof/Machine/FwOps.lean: what SEC does for firmware: image verification (R77 to R80), the configuration
record (R89), signed tokens (R72, R93) and the image slots (R82 to R86). -/

namespace Sys2Proof.Machine

/-! ### Image verification (Table 03-3) -/

/-- Size of an image slot (R77). -/
def slotSize : Nat := 0x3000000

/-- A section entry of an image header (Table 03-2): type, offset, length, reserved. -/
def sectionAt (h : List Byte) (i : Nat) : Nat × Nat × Nat × Nat :=
  (field h (0x40 + 16 * i) 4, field h (0x44 + 16 * i) 4, field h (0x48 + 16 * i) 4, field h (0x4C + 16 * i) 4)

/-- No two sections overlap and no type appears twice (R78). -/
def sectionsApart : List (Nat × Nat × Nat × Nat) → Bool
  | [] => true
  | x :: xs => xs.all (fun y => x.1 != y.1 && (decide (x.2.1 + x.2.2.1 ≤ y.2.1 ∨ y.2.1 + y.2.2.1 ≤ x.2.1))) && sectionsApart xs

/-- The section table lies within the limits of R78. -/
def sectionsOk (h : List Byte) : Bool :=
  let n := field h 0x14 4
  let len := field h 0x10 4
  let xs := (List.range n).map (sectionAt h)
  decide (1 ≤ n ∧ n ≤ 16) &&
  xs.all (fun x => decide (1 ≤ x.1 ∧ x.1 ≤ 6 ∧ x.2.1 + x.2.2.1 ≤ len ∧ x.2.2.2 = 0 ∧ (x.1 = 1 → x.2.2.1 ≤ 0x180000))) &&
  sectionsApart xs && xs.any (fun x => x.1 == 1) && xs.any (fun x => x.1 == 4) &&
  slice h (0x40 + 16 * n) (256 - 16 * n) == zeros (256 - 16 * n)

/-- Check 1 of Table 03-3 (R78). `SVN` above 128 lies outside its field (DEDUCED, log 14). -/
def headerOk (h : List Byte) : Bool :=
  field h 0 4 == 0x50334657 && field h 4 2 == 1 && field h 7 1 == 0 && decide (field h 8 4 ≤ 128) &&
  decide (1 ≤ field h 0x10 4 ∧ field h 0x10 4 ≤ 0x2FFF000) && slice h 0x18 8 == zeros 8 && sectionsOk h &&
  field h 0x2C0 4 == 65537 && slice h 0x2C4 60 == zeros 60

/-- Check 2 of Table 03-3: a key slot that is not revoked, with the public key whose digest is fused for it. -/
def keyOk (x : Sec) (n : Nat) (key : List Byte) : Bool :=
  decide (n < 4) && !x.keyRevoked.getLsbD n && sha256N key == x.keyHash[(finOf n : Fin 4)]

/-- Checks 1 to 4 of Table 03-3, which read the header: the status of the first that fails. -/
def imageHead (x : Sec) (h : List Byte) : Option W16 :=
  if !headerOk h then some stAuth
  else if !keyOk x (field h 6 1) (slice h 0x140 388) then some stAuth
  else if !pssVerify (slice h 0x140 384) 65537 (slice h 0 0x300) (slice h 0x300 384) then some stAuth
  else if field h 8 4 < x.fuseSvn then some stRollback
  else none

/-- Table 03-3 on an image of the given header and body: the status of the first check that fails. -/
def verifyImage (x : Sec) (h body : List Byte) : Option W16 :=
  match imageHead x h with
  | some st => some st
  | none => if sha256 body != slice h 0x20 32 then some stAuth else none

/-! ### Slots -/

/-- Content of a slot; true names slot B. -/
def slotOfSec (x : Sec) (b : Bool) : SlotContent := if b then x.slotB else x.slotA

/-- Change the content of a slot, which then has not passed Table 03-3 since its last write (R84). -/
def setSlot (b : Bool) (c : SlotContent) (x : Sec) : Sec :=
  if b then { x with slotB := c, passedB := false } else { x with slotA := c, passedA := false }

/-- The slot has passed Table 03-3 with an SVN. -/
def passSlot (b : Bool) (svn : Nat) (x : Sec) : Sec :=
  if b then { x with passedB := true, svnB := svn } else { x with passedA := true, svnA := svn }

/-- What is known of a slot's bytes: the offset below which they are the given cells, and the cells. -/
def slotKnown (c : SlotContent) : Nat × List Host.Cell :=
  match c with
  | .factory => (0, [])
  | .erased k m => (k, m)
  | .written k m => (k, m)

/-- Erase a slot's header sector and nothing else: the slot fails check 1 (R83). No SVN can be read from it: 0 (log 14). -/
def eraseSlot (b : Bool) (x : Sec) : Sec :=
  let k := slotKnown (slotOfSec x b)
  let y := setSlot b (.erased k.1 k.2) x
  if b then { y with svnB := 0 } else { y with svnA := 0 }

/-- The slot passed Table 03-3 since its last write (R84). -/
def slotPassed (x : Sec) (b : Bool) : Bool := if b then x.passedB else x.passedA

/-- SVN of a slot's image. -/
def slotSvn (x : Sec) (b : Bool) : Nat := if b then x.svnB else x.svnA

/-- The header area of a slot whose header has been written. -/
def slotHeader (c : List Host.Cell) : List Byte := mread c 0 0x480

/-- `n` bytes of slot `b` from offset `o` on: those below `known` are `c`, the others are of manufacture. -/
def slotBytes (b : Bool) (known : Nat) (c : List Host.Cell) (o n : Nat) : List Byte :=
  let m := min n (known - o)
  mread c o m ++ (List.range (n - m)).map fun i => Config.factoryByte b (o + m + i)

/-- The body of a slot, by its header's length. -/
def slotBody (b : Bool) (known : Nat) (c : List Host.Cell) : List Byte :=
  slotBytes b known c 0x1000 (min (slotSize - 0x1000) (field (slotHeader c) 0x10 4))

/-- The sections of an image by type, in the order of its header (R78). -/
def sectionsOf (h body : List Byte) : List (Nat × List Byte) :=
  (List.range (field h 0x14 4)).map fun i =>
    let x := sectionAt h i
    (x.1, slice body x.2.1 x.2.2.1)

/-- What SEC finds in a slot at the `IMAGE` stage: whether it verifies, with its key slot, SVN, version, measurement register 2
as extended, body digest and sections; and whether it got as far as the body (check 5 of Table 03-3). -/
structure SlotFacts where
  verifies : Bool
  keySlot  : Nat
  svn      : Nat
  version  : W32
  meas2    : BitVec 256
  body     : BitVec 256
  sections : List (Nat × List Byte)
  reached  : Bool
  deriving DecidableEq, Repr

/-- SEC reads a slot (R80): the report stands for the bytes of manufacture, with the comparisons against the fuses made here. -/
def slotFacts (x : Sec) (b : Bool) (r : ImageReport) : SlotFacts :=
  match slotOfSec x b with
  | .factory =>
    let v := r.verifies && !x.keyRevoked.getLsbD r.keySlot.val && decide (x.fuseSvn ≤ r.svn) && decide (r.svn ≤ 128)
    ⟨v, r.keySlot.val, r.svn, r.version, r.header, r.body, r.sections, v⟩
  | .erased _ _ => ⟨false, 0, 0, 0, 0, 0, [], false⟩
  | .written k c =>
    let h := slotHeader c
    let body := slotBody b k c
    ⟨(verifyImage x h body).isNone, field h 6 1, field h 8 4, BitVec.ofNat 32 (field h 0x0C 4),
     sha256N (zeros 32 ++ h), sha256N body, sectionsOf h body, (imageHead x h).isNone⟩

/-! ### Sections (R80, R81) -/

/-- Check 5 reads the body: sections 0x01 and 0x06 go to Apex SRAM as they are hashed (R80). -/
def loadApex (f : SlotFacts) (x : Sec) : Sec :=
  if f.reached then { x with apex := f.sections.filter fun y => y.1 == 1 || y.1 == 6 } else x

/-- SEC records the digest of every section (R80). -/
def recordSections (f : SlotFacts) (x : Sec) : Sec := { x with sections := f.sections.map fun y => (y.1, sha256N y.2) }

/-- A section loaded in a later stage hashes to the recorded value (R81). `stream` is what the boot memory returned for it: none
where the bytes are those that were verified. A section that the image does not have is not loaded. -/
def sectionHolds (type : Nat) (stream : Option (List Byte)) (s : State) : Bool :=
  match stream, s.sec.sections.find? fun x => x.1 == type with
  | some bs, some x => sha256N bs == x.2
  | _, _ => true

/-- What a stage reports whose destination takes a section (R81): failure on a mismatch. -/
def withSection (type : Nat) (stream : Option (List Byte)) (r : StageResult) (s : State) : StageResult :=
  if sectionHolds type stream s then r else .fail

/-- The destination of a section that does not match is held in reset (R81). -/
def holdDest (e : Fin 22) (type : Nat) (stream : Option (List Byte)) (s : State) : State :=
  if sectionHolds type stream s then s else { s with sec.held := s.sec.held ++ [e] }

/-! ### Measurements -/

/-- The configuration record of measurement register 4 (R89). -/
def configRecord (s : State) : List Byte :=
  let running := match s.sec.running with
    | some r => bit r.slotB
    | none => 0
  leBytes 1 s.sec.lifecycle.toNat ++ leBytes 1 s.sec.keyRevoked.toNat ++ leBytes 1 s.sec.fuseSvn ++ leBytes 1 running ++
    leBytes 1 (bit s.jrn.boot.activeB) ++ leBytes 1 (bit s.sec.unlocked) ++ zeros 10

/-! ### Tokens -/

/-- The public key of a firmware key slot: header bytes 0x140 to 0x2C3 of a written image with that slot, else as SEC holds it
(log 4). -/
def keyBytes (x : Sec) (n : Nat) : List Byte :=
  let of := fun (c : SlotContent) => match c with
    | .written _ m => if field (slotHeader m) 6 1 = n then some (slice (slotHeader m) 0x140 388) else none
    | _ => none
  match of x.slotA, of x.slotB with
  | some k, some l => if keyOk x n k then k else l
  | some k, none => k
  | none, some l => l
  | none, none => Config.factoryKey n

/-- A token's serial number, boot count, key slot and signature (R72, R93). The spec gives no status for a wrong magic word: it
counts here as a check that fails. DESIGN CHOICE (log 97). -/
def tokenAuth (magic : Nat) (b : List Byte) (s : State) : Bool :=
  let n := field b 0x10 1
  let k := keyBytes s.sec n
  field b 0 4 == magic && field b 4 8 == s.sec.serial.toNat && field b 0xC 4 == s.jrn.boot.bootCount.toNat &&
    keyOk s.sec n k && pssVerify (slice k 0 384) 65537 (slice b 0 0x80) (slice b 0x80 384)

/-! ### Carrying -/

/-- Bytes of a command's in buffer: on the management network they travel with the exchange (R105, R463). -/
def inBytes (h : Hdr) (bs : List Byte) (s : State) : List Byte :=
  match h.path with
  | .ring _ => bufBytes h bs
  | .net =>
    match s.mgmt.exchanges.find? fun e => e.h == h with
    | some e => bufBytes h e.data
    | none => bufBytes h bs

/-- The slot that no command may write or activate: that of the running image (R83, R84). In recovery mode no image runs
(R87); before an image runs in a boot, both are held. -/
def slotHeld (b : Bool) (s : State) : Bool :=
  match s.sec.running with
  | some r => r.slotB == b
  | none => s.phase != .recovery

end Sys2Proof.Machine
end

