-- ==== Sys2Proof/Machine/HealthOps.lean ====
section
/-! DEFINITION. Sys2Proof/Machine/HealthOps.lean: the health score (R443 to R445), its publication, and the health record
(R472). -/

namespace Sys2Proof.Machine

/-! ### Score and confidence -/

/-- Penalty and least count of a structural class, 0x01 to 0x09 (Table 16-1): units, and penalty of each. -/
def structural (s : State) (c : Nat) : Nat × Nat :=
  let fin4 := List.range 4
  let inUse := fun (n : Nat) => (s.mem.remap[(finOf n : Fin 4)]).length
  match c with
  | 0x01 => (popCount s.health.columns, 40)
  | 0x02 => (((List.range 32).filter fun k => s.health.pairs.getLsbD k && !s.health.prisms.getLsbD (k / 8)).length, 20)
  | 0x03 => (popCount s.health.prisms, 150)
  | 0x04 => (popCount s.health.fabric, 60)
  | 0x05 => (((fins 2).filter fun p => s.health.mgmt.getLsbD p.val || (s.mgmt.ports[p]).down).length, 40)
  | 0x06 => (((List.range 9).map fun l => (if l < 5 then 4 else 2) - s.d2d.working[(finOf l : Fin 9)]).foldl (· + ·) 0, 50)
  | 0x07 => ((fin4.map fun n => inUse n - 8).foldl (· + ·) 0, 4)
  | 0x08 => ((fin4.filter fun n => decide (16 ≤ inUse n)).length, 100)
  | 0x09 => (bit (s.flash.readOnly || decide (26 * 10 ^ 15 * 9 ≤ 10 * s.flash.bytesWritten)), 100)
  | _ => (0, 0)

/-- Divisor, penalty and cap of a rate class, 0x10 to 0x1B (Table 16-1). -/
def ratePenalty (c : Nat) : Nat × Nat × Nat :=
  match c with
  | 0x10 => (1000, 1, 40)
  | 0x11 => (1, 25, 200)
  | 0x12 => (10000, 1, 40)
  | 0x13 => (1000, 1, 30)
  | 0x14 => (1, 40, 160)
  | 0x15 => (1, 10, 80)
  | 0x16 => (10000, 1, 40)
  | 0x17 => (1, 25, 200)
  | 0x18 => (1, 60, 240)
  | 0x19 => (1, 10, 50)
  | 0x1A => (1, 20, 100)
  | _ => (1, 100, 300)

/-- Events of a rate class in the evidence window (R444). -/
def windowCount (s : State) (c : Nat) : Nat :=
  ((List.range 24).map fun b => sget 0 s.jrn.hst.counts (12 * b + (c - 0x10))).foldl (· + ·) 0

/-- The evidence classes in class order. -/
def classes : List Nat := (List.range 9).map (· + 1) ++ (List.range 12).map (· + 0x10)

/-- Penalty and count of a class (Table 16-1). -/
def penalty (s : State) (c : Nat) : Nat × Nat :=
  if c < 0x10 then ((structural s c).1 * (structural s c).2, (structural s c).1)
  else
    let n := windowCount s c
    let r := ratePenalty c
    (min r.2.2 (r.2.1 * (n / r.1)), n)

/-- The health score S (R445). -/
def scoreOf (s : State) : Nat := 1000 - (classes.map fun c => (penalty s c).1).foldl (· + ·) 0

/-- The confidence C (R445): ⌊OBS_S / 86.4⌋ is ⌊10 × OBS_S / 864⌋. -/
def confOf (s : State) : Nat :=
  if ((List.range 9).any fun c => (penalty s (c + 1)).1 != 0) then 1000 else min 1000 (10 * s.jrn.hst.obsS / 864)

/-- Compute and publish S and C (R445); the write of `TEL_HEALTH` is an update that `TEL_SEQ` brackets (R102). A proposal is
evaluated at every change of S (R456). -/
def publishScore (s : State) : State :=
  let sc := scoreOf s
  let c := confOf s
  let t := { s with
    health.score := sc, health.conf := c, health.published := true,
    smb.score := BitVec.ofNat 10 sc, smb.valid := true,
    mbx.telScore := BitVec.ofNat 10 sc, mbx.telConf := BitVec.ofNat 10 c, mbx.telValid := true,
    mbx.telSeq := s.mbx.telSeq + 2 }
  let t := if sc ≠ s.health.score ∨ c ≠ s.health.conf then raiseEvent evHealth t else t
  if sc ≠ s.health.score then evalProposal t else t

/-- `REPLACE_REQ` takes a value: a change is logged and written to the health state record (R446, R447, R472). -/
def changeReplace (b : Bool) (s : State) : State :=
  if s.jrn.hst.replaceReq = b then s
  else settleSideband (writeHst (logHealth (if b then 0x04 else 0x05) 0 0 0 (setReplaceReq b s)))

/-- Varlux runs: its stage has ended OK in this boot (R56). -/
def varluxRuns (s : State) : Bool :=
  answering s || (s.phase == .booting && (s.jrn.boot.stage[(4 : Fin 22)]).status == .ok)

/-! ### The health record -/

/-- `CONDITIONS` (Table 04-13). -/
def conditions (s : State) : Nat :=
  bit s.sec.entDown + 2 * bit s.sec.identDown + 4 * bit s.jrn.boot.aBad + 8 * bit s.jrn.boot.bBad +
  16 * bit s.jrn.boot.bcRestarted + 32 * bit (!s.flash.present) + 64 * bit (belowFloor s) + 128 * bit (degraded s) +
  256 * bit s.smb.replaceReq + 512 * bit s.sec.unlocked

/-- One evidence entry (Table 16-10). A structural class has no events: 0 (DEDUCED, log 11). -/
def evidenceBytes (s : State) (c : Nat) : List Byte :=
  let p := penalty s c
  leBytes 2 c ++ leBytes 2 p.1 ++ leBytes 4 p.2 ++ leBytes 8 (if c < 0x10 then 0 else sget 0 s.health.bootEvents (c - 0x10))

/-- A counter of Table 16-11: 11 and 12 count flash bytes over the module's life. -/
def counterOf (s : State) (i : Nat) : Nat :=
  if i = 11 then s.flash.bytesWritten
  else if i = 12 then s.flash.bytesWritten * 10000 / (26 * 10 ^ 15)
  else sget 0 s.health.counters i

/-- One event (Table 16-10). -/
def eventBytes (e : HealthEvent) : List Byte :=
  leBytes 8 e.ptime.toNat ++ [e.kind, e.unit] ++ leBytes 2 e.index.toNat ++ leBytes 4 e.info.toNat

/-- One rehearsal (Table 16-10). -/
def rehBytes (r : RehRec) : List Byte :=
  leBytes 8 r.start.toNat ++ leBytes 1 r.bit ++ leBytes 1 r.outcome ++ leBytes 2 r.target.toNat ++ leBytes 4 r.durMs.toNat

/-- `FLAGS` of the health record (Table 16-10). -/
def healthFlags (s : State) : Nat :=
  bit s.jrn.hst.replaceReq + 2 * bit s.health.expelled + 4 * bit (belowFloor s) + 8 * bit (degraded s) +
  16 * bit s.health.refusedStanding + 32 * s.jrn.fresh.toNat

/-- `FENCED` (Table 16-10). -/
def fencedWord (s : State) : Nat :=
  s.health.columns.toNat + 2 ^ 12 * s.health.prisms.toNat + 2 ^ 16 * s.health.fabric.toNat + 2 ^ 24 * s.health.mgmt.toNat +
  2 ^ 32 * s.health.pairs.toNat

/-- The health record of Table 16-10. -/
def healthRecord (s : State) : List Byte :=
  let x := s.jrn.hst
  layout 4096 [
    (0x000, leBytes 2 1 ++ leBytes 2 0x1000 ++ leBytes 2 s.health.score ++ leBytes 2 s.health.conf ++
      leBytes 4 (healthFlags s) ++ leBytes 4 s.jrn.boot.bootCount.toNat ++ leBytes 8 (now s).toNat ++
      leBytes 4 x.obsS ++ leBytes 4 x.belowS ++ leBytes 4 x.aboveS ++
      leBytes 2 s.jrn.hcfg.budget ++ leBytes 2 x.budgetUsed ++ leBytes 4 s.jrn.hcfg.windowS ++ leBytes 4 x.windowEl ++
      leBytes 4 x.refusals ++ leBytes 4 (conditions s) ++ leBytes 8 (fencedWord s)),
    (0x100, classes.flatMap (evidenceBytes s)),
    (0x300, (List.range 96).flatMap fun i => leBytes 8 (counterOf s i)),
    (0x600, s.health.events.flatMap eventBytes),
    (0xA00, s.health.rehLog.flatMap rehBytes)]

end Sys2Proof.Machine
end

