-- ==== Sys2Proof/Machine/ResetOps.lean ====
section
/-! DEFINITION. Sys2Proof/Machine/ResetOps.lean: module resets (R50 to R53), the departure (R35), and what a reset or a loss
of power leaves (R24, R51, R114). -/

namespace Sys2Proof.Machine

/-! ### Departure -/

/-- The Chord engine sends an abort token for each collective in progress (R35); a module whose `REFCLK` is lost sends nothing
(R485). -/
def departTokens (s : State) : State :=
  if !answering s || !s.pins.refclk || s.pins.txIdle then s
  else
    s.jobs.foldl (fun t j =>
      match stepOf j, j.layout with
      | some r, some lay =>
        if r.st = .resolving then t else floodToken j.id lay r.step ⟨voteState r, cauDepart, lay.rank, 0xFFFF⟩ t
      | _, _ => t) s

/-! ### What is lost -/

/-- An object at a reset: LPDDR6 and host-memory objects end, and flash content is kept (R24, R51, R320, R321). A backed object
that lay in LPDDR6 returns to its flash content. -/
def objAfterReset (o : Obj) : Option Obj :=
  if o.backed then
    some { o with tier := 2, loc := 0, dirty := [], userPins := 0, holds := 0, queue := [], move := none, promos := [], kept := true }
  else none

/-- A job across a warm reset: its record in LPDDR6 is what is left of it until `READY` examines it (R437, R439). -/
def jobAfterReset (j : Job) : Job :=
  { id := j.id, phase := .preserved, sector := j.sector, seed := j.seed, rule := j.rule, recDpa := j.recDpa, commit := j.commit,
    armedRec := j.armedRec, epoch := j.epoch, layout := j.layout, ruleOps := j.ruleOps, scaleRec := j.scaleRec,
    hostPool := j.hostPool }

/-- The granules of a sector belong, across a warm reset, to the job whose record names them (R439). -/
def ownerAfterReset (js : List Job) (o : Nat × Owner) : Option (Nat × Owner) :=
  match o.2 with
  | .sector k => (js.find? fun j => j.phase != .preserved && j.sector == k).map fun j => (o.1, .preserved j.id)
  | .preserved j => some (o.1, .preserved j)
  | _ => none

/-- LPDDR6 at a reset: a warm reset keeps contents until it is known which Prisms entered self-refresh; any other loses them,
but for faults that lie on the locations (R51, R293). A Prism whose `MEM` stage has not run when a further warm reset begins is not
trained, so it does not enter self-refresh again, and its contents are lost. DEDUCED from the example of chapter 02 (log 91). -/
def memAfterReset (warm : Bool) (m : MemSys) : MemSys :=
  { cells := if warm then m.cells else [], errs := if warm then m.errs else m.errs.filter (·.stuck),
    pairs := m.pairs, remap := if warm then m.remap else Vector.replicate 4 [] }

/-- SEC at a module reset: fuses and boot memories are kept (R51, R66, R88, R91), and the fuse shadow is copied anew (R70). -/
def secAfterReset (x : Sec) : Sec :=
  shadowFuses
    { fuses := x.fuses, seedIx := x.seedIx, wrapBurnt := x.wrapBurnt, slotA := x.slotA, slotB := x.slotB, svnA := x.svnA,
      svnB := x.svnB, passedA := x.passedA, passedB := x.passedB }

/-- The completion of the `DEVICE_RESET` whose trigger is to come has been written, or a host-port event discards it (R113, R121). -/
def resetAnswered (s : State) : Bool :=
  match s.mbx.resetCmd with
  | some h => !(queueOf h s).any fun w => w.h == h && !w.discard
  | none => true

/-- Everything that no module reset keeps is at its reset value (R51, R114). The working modules of the die-to-die links stay as the
last training or removal left them until the next `D2D` stage. DESIGN CHOICE (log 92). A cold `DEVICE_RESET` whose trigger is still
to come arrives during a warm reset (R52, R121). -/
def dropVolatile (warm : Bool) (s : State) : State :=
  { s with
    sec := secAfterReset s.sec, mbx := { resetPending := if warm && resetAnswered s && s.mbx.resetPending == some false then some false else none },
    d2d.replays := 0, d2d.recent := [], mem := memAfterReset warm s.mem,
    objs := s.objs.filterMap objAfterReset,
    flash.present := false, flash.persisting := [],
    facets := Vector.replicate 96 {}, mesh := [], sectors := Vector.replicate 4 {},
    owners := if warm then s.owners.filterMap (ownerAfterReset s.jobs) else [],
    jobs := if warm then s.jobs.map jobAfterReset else [],
    fabric := {}, regions := [], mgmt := {}, health := {} }

/-! ### Module resets -/

/-- Kinds of module reset, by rank (R50). -/
def kindCold : BitVec 2 := 1
def kindWarm : BitVec 2 := 2

/-- The outputs of a module in reset or without power (R32): everything reads released. -/
def releasePins (s : State) : State :=
  { s with pins.thermTrip := true, pins.spareRdy := false, pins.gpio := Vector.replicate 2 0, pins.txIdle := true,
           smb.spareReady := false }

/-- The AON registers at a module reset's trigger (R51, R53). -/
def aonAtReset (kind : BitVec 2) (source : Byte) (a : Aon) : Aon :=
  { ptime := a.ptime, ptimeHi := a.ptimeHi, kind := kind, source := source, wdtStart := a.ptime }

/-- A module reset begins (R50 to R53): the module departs, and on a warm reset the trained Prisms start to enter
self-refresh. -/
def beginReset (kind : BitVec 2) (source : Byte) (s : State) : State :=
  let warm := kind == kindWarm
  let t := departTokens s
  let entering := if warm then s.mem.trained else 0
  let t := releasePins (setFault true (setSbState 0b001 t))
  let t := dropVolatile warm t
  { t with phase := .inReset, aon := aonAtReset kind source t.aon, srEntry := entering }

/-- A module-reset trigger (R52): absorbed by a reset of the same or a higher kind in progress; without power there is
nothing to reset. -/
def triggerReset (kind : BitVec 2) (source : Byte) (s : State) : State :=
  if s.phase = .unpowered then s
  else if s.phase = .inReset ∧ (kind = kindWarm ∨ s.aon.kind ≠ kindWarm) then s
  else beginReset kind source s

/-- A warm reset, which a failed stage, the watchdog, the host and Apex cause (Table 02-4). -/
abbrev warmReset (source : Byte) (s : State) : State := triggerReset kindWarm source s

/-- A cold reset (Table 02-4). -/
abbrev coldReset (source : Byte) (s : State) : State := triggerReset kindCold source s

/-- The converters stop and `PGOOD` falls (R24, R32, R479): nothing is sent. -/
def powerOff (s : State) : State :=
  let t := releasePins (dropVolatile false s)
  { t with phase := .unpowered, srEntry := 0, pins.pgood := false, pins.converters := false, pins.fault := true,
           pins.alert := false }

/-- Contents of the Prisms that are held in reset without self-refresh are lost (R51, R53). -/
def losePrisms (lost : BitVec 4) (s : State) : State :=
  let keep := fun (g : Nat) => !lost.getLsbD (g % 4)
  { s with mem := { keepGranules keep s.mem with errs := s.mem.errs.filter fun e => keep (granule (32 * e.sector)) || e.stuck } }

end Sys2Proof.Machine
end

