-- ==== Sys2Proof/Machine/PowerCmd.lean ====
section
/-! DEFINITION. Sys2Proof/Machine/PowerCmd.lean: power and its supervision (R479 to R487), reset triggers and self-refresh
entry (R50 to R53), the AON block with its watchdog (R44, R49, R54), and the SMBus target (R28, R29). -/

namespace Sys2Proof.Machine

/-! ### Power -/

/-- Apex runs code: from the start of the boot to the next reset, unless its clock is lost (R39, R485). -/
def apexRuns (s : State) : Bool := s.phase != .unpowered && s.phase != .inReset && s.phase != .stopped

/-- Start the converters when nothing holds them off (R479). -/
def startConverters (s : State) : State :=
  if s.pins.pwrEn && s.pins.inputGood && !s.pins.latchedOff then { s with pins.converters := true } else s

/-- `PWR_EN_ASSERTED` (R479). -/
def execPwrEnAsserted (s : State) : Host.Outcome State Fault Refusal :=
  .next (startConverters { s with pins.pwrEn := true })

/-- `INPUT_ABOVE_RISING_THRESHOLD` (R479). -/
def execInputAboveRisingThreshold (s : State) : Host.Outcome State Fault Refusal :=
  .next (startConverters { s with pins.inputGood := true })

/-- `PGOOD_RISE` (R44, R50): the power-on trigger. Powered time is zero, and the AON and SMBus registers take their reset
values. -/
def execPgoodRise (s : State) : Host.Outcome State Fault Refusal :=
  .next (
    if s.pins.pgood ∨ !s.pins.converters then s
    else
      { s with pins.pgood := true, aon := {}, smb := {}, pins.alert := false, phase := .inReset })

/-- `PWR_EN_DEASSERTED` (R35, R479): an orderly departure, and the converters stop; a latched stop ends. -/
def execPwrEnDeasserted (s : State) : Host.Outcome State Fault Refusal :=
  .next (
    let t := { s with pins.pwrEn := false, pins.latchedOff := false }
    if s.pins.converters then powerOff (departTokens t) else t)

/-- `INPUT_UNDERVOLTAGE` (R479): `PGOOD` falls and nothing is sent; a latched stop ends. -/
def execInputUndervoltage (s : State) : Host.Outcome State Fault Refusal :=
  .next (
    let t := { s with pins.inputGood := false, pins.latchedOff := false }
    if s.pins.converters then powerOff t else t)

/-- `INPUT_OVERVOLTAGE` (R479): the converters stop and latch off. -/
def execInputOvervoltage (s : State) : Host.Outcome State Fault Refusal :=
  .next (if s.pins.converters then { powerOff s with pins.latchedOff := true } else s)

/-- `THERMAL_TRIP` (R487): whenever `PGOOD` is high, and before every other event. The module sends nothing (R35). -/
def execThermalTrip (s : State) : Host.Outcome State Fault Refusal :=
  .next (
    if s.pins.pgood then
      let t := setFault true (setSbState 0b101 { s with pins.thermTrip := true })
      { powerOff t with pins.latchedOff := true, out := s.out }
    else s)

/-! ### Temperature -/

/-- `THERM_WARN` (R487): one warning until the hottest sensor has fallen below 95 degrees. Varlux counts the event of class
0x19; the sensors themselves lie in the AON island (R28). -/
def execThermWarn (s : State) : Host.Outcome State Fault Refusal :=
  .next (
    if !s.pins.pgood || s.smb.warned then s
    else
      let t := raiseAlert alTherm { s with smb.warned := true }
      let t := if apexRuns s then raiseEvent evTherm t else t
      if varluxRuns s then evidence 0x19 1 t else t)

/-- `THERM_WARN_REARM` (R487). -/
def execThermWarnRearm (s : State) : Host.Outcome State Fault Refusal :=
  .next (if s.pins.pgood then { s with smb.warned := false } else s)

/-- `TEMP_MAX_UPDATE` (R487): the hottest sensor, into `SB_TEMP`; `TEL_THERMAL` takes it at the next telemetry update (R102). -/
def execTempMaxUpdate (t : BitVec 8) (s : State) : Host.Outcome State Fault Refusal :=
  .next (if s.pins.pgood then { s with smb.tempMax := t } else s)

/-! ### Resets -/

/-- `REFCLK_LOSS` (R485): every domain fed from REF stops, and no token is sent. What only those domains hold is dropped at the
loss, since the reset that must follow keeps none of it; trained Prisms stay marked for the self-refresh entry (log 16). -/
def execRefclkLoss (s : State) : Host.Outcome State Fault Refusal :=
  .next (
    let t := { s with pins.refclk := false }
    if s.phase = .unpowered ∨ s.phase = .inReset ∨ s.phase = .stopped then t
    else { dropVolatile true t with phase := .stopped, mem.trained := s.mem.trained, pins.txIdle := true })

/-- `PERST_ASSERTED` (R50): a warm reset with source 0x02, and a departure. -/
def execPerstAsserted (s : State) : Host.Outcome State Fault Refusal :=
  .next (warmReset 0x02 { s with pins.perst := true })

/-- `SELF_REFRESH_ENTRY_DONE` (R53): Prism n has entered self-refresh and sets its `SR_DONE` bit. -/
def execSelfRefreshEntryDone (n : Fin 4) (s : State) : Host.Outcome State Fault Refusal :=
  .next (
    if s.phase = .inReset ∧ s.srEntry.getLsbD n.val then
      { s with srEntry := setBit s.srEntry n.val false, aon.srDone := setBit s.aon.srDone n.val true,
               mem.inSr := setBit s.mem.inSr n.val true }
    else s)

/-- `SR_ENTRY_TIMEOUT` (R53): a Prism that has not set its bit is reset without self-refresh. -/
def execSrEntryTimeout (s : State) : Host.Outcome State Fault Refusal :=
  .next (if s.phase = .inReset then { losePrisms (~~~ s.mem.inSr) s with srEntry := 0 } else s)

/-- SEC runs from the end of every module reset, from `OSC_AON` (R39). -/
def secRuns (s : State) : Bool := s.phase != .unpowered && s.phase != .inReset

/-- `APEX_FATAL_ERROR` (R50): a warm reset with source 0x08. -/
def execApexFatalError (s : State) : Host.Outcome State Fault Refusal :=
  .next (if apexRuns s then warmReset 0x08 s else s)

/-- `SEC_SECURITY_EVENT` (R69): a cold reset with source 0x0A. One that comes within a warm reset replaces it (R52; log 79). -/
def execSecSecurityEvent (s : State) : Host.Outcome State Fault Refusal :=
  .next (coldReset 0x0A s)

/-- Full debug access: outside the production lifecycle, or after an unlock (R92, R93). -/
def fullAccess (s : State) : Bool := secRuns s && (s.sec.lifecycle != 0b011 || s.sec.unlocked)

/-- `JTAG_RESET_REQUEST` (R92): a cold reset with source 0x09, or ignored. -/
def execJtagResetRequest (s : State) : Host.Outcome State Fault Refusal :=
  .next (if fullAccess s then coldReset 0x09 s else s)

/-! ### Powered time and the watchdog -/

/-- `POWERED_TIME_TICK` (R44): one microsecond, while `PGOOD` is high. -/
def execPoweredTimeTick (s : State) : Host.Outcome State Fault Refusal :=
  .next (if s.pins.pgood then { s with aon.ptime := s.aon.ptime + 1 } else s)

/-- The watchdog's period has passed since it was started or kicked (R54). -/
def periodOver (s : State) : Bool :=
  s.aon.wdtEn && decide (s.aon.wdtStart.toNat + 1000 * s.aon.periodMs.toNat ≤ s.aon.ptime.toNat)

/-- `WDT_FIRST_EXPIRY` (R54): `EXPIRED1` and a non-maskable interrupt to Apex; a further period begins. Varlux counts it
(Table 16-11). -/
def execWdtFirstExpiry (s : State) : Host.Outcome State Fault Refusal :=
  .next (
    if periodOver s && !s.aon.wdtBoot && !s.aon.expired1 then
      counter 16 1 { s with aon.expired1 := true, aon.nmi := true, aon.wdtStart := s.aon.ptime }
    else s)

/-- `WDT_SECOND_EXPIRY` (R54): a warm reset with source 0x05. -/
def execWdtSecondExpiry (s : State) : Host.Outcome State Fault Refusal :=
  .next (if periodOver s && !s.aon.wdtBoot && s.aon.expired1 then warmReset 0x05 s else s)

/-- `WDT_BOOT_EXPIRY` (R54): in single-stage mode, a warm reset with source 0x06. -/
def execWdtBootExpiry (s : State) : Host.Outcome State Fault Refusal :=
  .next (if periodOver s && s.aon.wdtBoot then warmReset 0x06 s else s)

/-- `EXPIRED1` is cleared, and with it the interrupt it raised. -/
def clearExpired (a : Aon) : Aon := { a with expired1 := false, nmi := false }

/-- A write of `AON_WDT_CTRL` (Table 02-3): a period outside 10 to 20,000 is ignored; `EN` is only ever set. The period counts
from the write that sets it, or that sets `EN`. A write of 1 to `EXPIRED1` ends the first expiry without a kick: the interrupt falls,
and the next expiry is a first one again. DEDUCED from the field's description (log 93). -/
def writeWdtCtrl (v : W32) (a : Aon) : Aon :=
  let p : W16 := v.truncate 16
  let accept := decide (10 ≤ p.toNat ∧ p.toNat ≤ 20000)
  let b := { a with
    periodMs := if accept then p else a.periodMs,
    wdtStart := if accept || (v.getLsbD 16 && !a.wdtEn) then a.ptime else a.wdtStart,
    wdtEn := a.wdtEn || v.getLsbD 16,
    wdtBoot := v.getLsbD 18 }
  if v.getLsbD 17 then clearExpired b else b

/-- `AON_WDT_CTRL_WRITE` (R49): by Apex, which alone reaches the AON block. -/
def execAonWdtCtrlWrite (v : BitVec 32) (s : State) : Host.Outcome State Fault Refusal :=
  .next (if apexRuns s then { s with aon := writeWdtCtrl v s.aon } else s)

/-- A write of `AON_WDT_KICK` (Table 02-3): only 0x0000_C35A acts. -/
def writeWdtKick (v : W32) (a : Aon) : Aon :=
  if v = 0x0000C35A then { clearExpired a with wdtStart := a.ptime } else a

/-- `AON_WDT_KICK` (R49). -/
def execAonWdtKick (v : BitVec 32) (s : State) : Host.Outcome State Fault Refusal :=
  .next (if apexRuns s then { s with aon := writeWdtKick v s.aon } else s)

/-- `AON_PTIME_LO_READ` (R49): powered time [31:0], with [63:32] latched. -/
def execAonPtimeLoRead (s : State) : Host.Outcome State Fault Refusal :=
  .next (
    if apexRuns s then
      emit (.read (s.aon.ptime &&& 0xFFFFFFFF)) { s with aon.ptimeHi := (s.aon.ptime >>> 32).truncate 32 }
    else s)

/-! ### SMBus -/

/-- `SB_STATE` (Table 01-8). -/
def sbState (x : Smb) : Nat := x.state.toNat + 8 * bit x.degraded + 16 * bit x.replaceReq + 32 * bit x.spareReady

/-- An SMBus register by its offset (Table 01-8); any other offset reads zero (R29). -/
def smbReg (x : Smb) (off : Byte) : W16 :=
  match off.toNat with
  | 0x00 => 0x03B0
  | 0x01 => BitVec.ofNat 16 (sbState x)
  | 0x02 => x.tempMax.zeroExtend 16
  | 0x03 => x.alert.zeroExtend 16
  | 0x04 => BitVec.ofNat 16 (x.score.toNat + 32768 * bit x.valid)
  | _ => 0

/-- What the target answers: nothing without `PGOOD` (Table 01-9). -/
def smbAnswer (v : W16) (s : State) : State := emit (.smb (if s.pins.pgood then some v else none)) s

/-- `SMB_READ_BYTE` (R28): a word register answers with its low byte. -/
def execSmbReadByte (off : BitVec 8) (s : State) : Host.Outcome State Fault Refusal :=
  .next (smbAnswer (smbReg s.smb off &&& 0x00FF) s)

/-- `SMB_READ_WORD` (R28): a byte register answers with zero in the high byte. -/
def execSmbReadWord (off : BitVec 8) (s : State) : Host.Outcome State Fault Refusal :=
  .next (smbAnswer (smbReg s.smb off) s)

/-- `SMB_WRITE_BYTE` (R28, R29): the target acknowledges every write, and only `SB_ALERT` takes one. -/
def execSmbWriteByte (off v : BitVec 8) (s : State) : Host.Outcome State Fault Refusal :=
  .next (
    if s.pins.pgood then emit (.smbAck true) (if off = 0x03 then clearAlert (v.truncate 4) s else s)
    else emit (.smbAck false) s)

/-- The target's address 0x58 + `SMB_ADDR` in the address bits of the answer (R28; log 13). -/
def smbAddress (s : State) : W16 := ((0x58 : W16) + s.pins.smbAddr.zeroExtend 16) <<< 1

/-- `SMB_ALERT_RESPONSE` (R28, R29): answered while `ALERT#` is asserted; winning the arbitration releases it. -/
def execSmbAlertResponse (won : Bool) (s : State) : Host.Outcome State Fault Refusal :=
  .next (
    if s.pins.pgood && s.pins.alert && won then smbAnswer (smbAddress s) { s with pins.alert := false }
    else emit (.smb none) s)

/-- `SMB_TIMEOUT` (R486): the target releases the bus and resets its interface. A transaction is one command here, so none is
under way. -/
def execSmbTimeout (s : State) : Host.Outcome State Fault Refusal := .next s

end Sys2Proof.Machine
end

