-- ==== Sys2Proof/Machine/BootOps.lean ====
section
/-! DEFINITION. Sys2Proof/Machine/BootOps.lean: the boot's stage engine (R55 to R61), the journal at the start of a boot
(R63, R64), the fence map as the stages apply it (R453), and the end of a boot (R54, R61, R437, R439). -/

namespace Sys2Proof.Machine

/-! ### Stage entries -/

/-- A stage entry takes a status and a failure count; the record is written, and the debug UART sends a line (R63, R92). -/
def setStage (e : Fin 22) (st : StageStatus) (fails : Nat) (s : State) : State :=
  let dt := min 0xFFFFFFFF ((now s).toNat - s.jrn.boot.bootPtime.toNat)
  let t := writeBoot (fun r => { r with stage := vupd r.stage e fun _ => ⟨st, BitVec.ofNat 8 (min 255 fails), BitVec.ofNat 32 dt⟩ }) s
  emit (.uart t.jrn.boot.bootCount (now t) e.val st) t

/-- Consecutive failures of an entry. -/
def failsOf (e : Fin 22) (s : State) : Nat := (s.jrn.boot.stage[e]).fails.toNat

/-- Status of an entry. -/
def statusOf (e : Fin 22) (s : State) : StageStatus := (s.jrn.boot.stage[e]).status

/-- The entry has started in this boot and has not ended. -/
def stageRuns (e : Fin 22) (s : State) : Bool := s.phase == .booting && statusOf e s == .started

/-- An entry fails: FAILED, and its count increases (R58, R59). -/
def failStage (e : Fin 22) (s : State) : State := setStage e .failed (failsOf e s + 1) s

/-- The watchdog period and mode that the boot ROM or Varlux sets (R54). -/
def setWdt (ms : Nat) (boot : Bool) (s : State) : State :=
  { s with aon := writeWdtCtrl (BitVec.ofNat 32 (ms + 2 ^ 16 + 2 ^ 18 * bit boot)) s.aon }

/-! ### Fences in a boot -/

/-- Fence a unit within the boot (R449, R451). -/
def bootFence (unit ix : Nat) (s : State) : State :=
  if isFenced unit ix s then s
  else raiseEvent evFence (logHealth 0x01 unit ix 0 { setFenced unit ix s with smb.degraded := true })

/-- A unit that the fence map holds is out of service from the start of its stage (R453). -/
def mapFence (unit ix : Nat) (s : State) : State := { setFenced unit ix s with smb.degraded := true }

/-- Write the fence map where a stage changes it. -/
def changeFence (g : FenceMap → FenceMap) (s : State) : State :=
  if g s.jrn.fence = s.jrn.fence then s else writeFence g s

/-- Remove the marked lifts of a mask, and the marks (R453). -/
def lifted {w : Nat} (mask lift within : BitVec w) : BitVec w × BitVec w := (mask &&& ~~~ (lift &&& within), lift &&& ~~~ within)

/-- Lift a fabric port's fence. -/
def liftFabric (p : Nat) (m : FenceMap) : FenceMap :=
  let r := lifted m.fabric m.liftFabric (setBit 0 p true)
  { m with fabric := r.1, liftFabric := r.2 }

/-- Lift a management port's fence. -/
def liftMgmt (p : Nat) (m : FenceMap) : FenceMap :=
  let r := lifted m.mgmt m.liftMgmt (setBit 0 p true)
  { m with mgmt := r.1, liftMgmt := r.2 }

/-- Lift a Prism's fence. -/
def liftPrism (n : Nat) (m : FenceMap) : FenceMap :=
  let r := lifted m.prisms m.liftPrisms (setBit 0 n true)
  { m with prisms := r.1, liftPrisms := r.2 }

/-- The channel pairs of a Prism. -/
def pairMask (n : Nat) : W32 := BitVec.ofNat 32 (0xFF * 2 ^ (8 * n))

/-- Lift the fences of a Prism's pairs, pending ones included. -/
def liftPairs (n : Nat) (m : FenceMap) : FenceMap :=
  let l := m.liftPairs &&& pairMask n
  { m with pairs := m.pairs &&& ~~~ l, pending := m.pending &&& ~~~ l, liftPairs := m.liftPairs &&& ~~~ l }

/-- Pending fences of a Prism's pairs become persistent ones (R453). -/
def takePending (n : Nat) (m : FenceMap) : FenceMap :=
  let p := m.pending &&& pairMask n
  { m with pairs := m.pairs ||| p, pending := m.pending &&& ~~~ p }

/-- Lift columns, self-test failures included. -/
def liftColumns (m : FenceMap) : FenceMap :=
  { m with columns := m.columns &&& ~~~ m.liftColumns, selftest := m.selftest &&& ~~~ m.liftColumns, liftColumns := 0 }

/-- Fence the units of a mask by the map. -/
def mapFences (unit count : Nat) (held : Nat → Bool) (s : State) : State :=
  ((List.range count).filter held).foldl (fun t k => mapFence unit k t) s

/-! ### The MEM stages -/

/-- The path of a MEM stage (R57, R308). -/
inductive MemPath where
  | srExit
  | saved
  | full
  deriving DecidableEq, Repr

/-- Which path `MEM.n` takes. -/
def memPath (n : Fin 4) (s : State) : MemPath :=
  if 1 ≤ failsOf (finOf (7 + n.val)) s then .full
  else if s.aon.kind = kindWarm ∧ s.aon.srDone.getLsbD n.val then .srExit
  else .saved

/-- `MEM.n` applies the map (R453): on the self-refresh-exit path the pairs outside the channel set stay fenced, and their marks
and pending fences stay in the map. -/
def applyMem (n : Fin 4) (s : State) : State :=
  let t := changeFence (liftPrism n.val) s
  if t.jrn.fence.prisms.getLsbD n.val then mapFence 2 n.val t
  else if memPath n t = .srExit then
    mapFences 1 32 (fun k => k / 8 == n.val && !pairIn t k) t
  else
    let t := changeFence (fun m => takePending n.val (liftPairs n.val m)) t
    mapFences 1 32 (fun k => k / 8 == n.val && t.jrn.fence.pairs.getLsbD k) t

/-! ### The end of a boot -/

/-- Every `FAILS` returns to zero (R65). -/
def zeroFails (s : State) : State :=
  { writeBoot (fun r => { r with stage := vmap r.stage fun _ e => { e with fails := 0 } }) s with jrn.clearFails := false }

/-- A pending `BOOT_JOURNAL_CLEAR` takes effect (R65). -/
def applyClear (s : State) : State := if s.jrn.clearFails then zeroFails s else s

/-- `DEGRADED` follows the fences of this boot (R29). The spec gives no moment at which a `DEGRADED` kept through a module reset
(R51) falls once the units of the earlier boot serve again: here the end of the boot, and never in recovery mode. DESIGN CHOICE
(log 88). -/
def settleDegraded (s : State) : State := { s with smb.degraded := degraded s }

/-- The boot ends below the service floor, and Varlux answers (R54, R61). -/
def endBelow (s : State) : State :=
  let t := setSbState 0b100 (setWdt 1000 false { applyClear s with phase := .belowFloor })
  let t := settleDegraded { t with mbx.accept := true }
  settleSideband (publishScore (logHealth 0x08 0 0 0 t))

/-- The boot ROM enters recovery mode, below the service floor (R54, R61, R87): it answers on the management ports only. -/
def enterRecovery (s : State) : State :=
  settleSideband (setSbState 0b100 (setWdt 1000 false { applyClear s with phase := .recovery }))

/-! ### Preserved jobs (R437 to R439) -/

/-- Bytes of a part of a job record and their CRC, when they read clean and match. -/
def partOk (dpa len : Nat) (s : State) : State × Bool :=
  if len = 0 then (s, true)
  else
    match readBytes rqVarlux dpa (roundUp (len + 4) 32) s with
    | (t, some b) => (t, field b len 4 == (crc32 (b.take len)).toNat)
    | (t, none) => (t, false)

/-- The record of a directory entry is whole: its `CRC` and the CRCs of its parts are correct (R439). -/
def recordWhole (dpa : Nat) (s : State) : State × Bool :=
  match readBytes rqVarlux (dpa + 0x40) 192 s with
  | (t, none) => (t, false)
  | (t, some b) =>
    if field b 0xBC 4 != (crc32 (b.take 0xBC)).toNat then (t, false)
    else
      let (t, x) := partOk (dpa + 0x101000) (field b 0xB0 4) t
      let (t, y) := partOk (dpa + 0x2101000) (field b 0xB4 4) t
      let (t, z) := partOk (dpa + 0x2902000) (field b 0xB8 4) t
      (t, x && y && z)

/-- The job of a directory entry is preserved (R439). -/
def entryPreserved (e : DirEntry) (s : State) : State × Bool :=
  if !s.mem.preserved.getLsbD (granule e.dpa % 4) || !(s.jobs.any fun j => j.id == e.job && j.phase == .preserved) then (s, false)
  else recordWhole e.dpa s

/-- Examine one directory entry: the entry of a job that is not preserved is cleared, and its granules are free. -/
def examine (i : Fin 4) (s : State) : State :=
  match s.jrn.dir.entries[i] with
  | none => s
  | some e =>
    match entryPreserved e s with
    | (t, true) => t
    | (t, false) =>
      let t := { t with jobs := t.jobs.filter fun j => j.id != e.job }
      writeDir (fun d => { d with entries := vupd d.entries i fun _ => none }) (freeOwners (fun o => o == .preserved e.job) t)

/-- Jobs without a directory entry have no record to be found by. -/
def dropUnlisted (s : State) : State :=
  let listed := fun (j : W32) => (fins 4).any fun i => match s.jrn.dir.entries[i] with
    | some e => e.job == j
    | none => false
  { freeOwners (fun o => match o with
      | .preserved j => !listed j
      | _ => false) s with jobs := s.jobs.filter fun j => listed j.id }

/-- Varlux holds the highest free granule in service for job records (R437), and those that hold the records of preserved
jobs. -/
def holdRecords (s : State) : State :=
  let t := s.jobs.foldl (fun t j => setOwner (granule j.recDpa) .device t) s
  let free := (List.range 1152).filter fun g => !absent t g && ((ownerOf t g).isNone || ownerOf t g == some .device)
  match free.getLast? with
  | some g => setOwner g .device t
  | none => t

/-- The boot ends ready (R54, R61). -/
def endReady (s : State) : State :=
  let t := (fins 4).foldl (fun t i => examine i t) s
  let t := holdRecords (dropUnlisted t)
  let t := setSbState 0b011 (setWdt 1000 false { applyClear t with phase := .ready })
  let t := settleDegraded { t with mbx.accept := true, mbx.ready := true,
                                   pins.gpio := vgen fun i => BitVec.ofNat 4 (t.jrn.boot.gpioFunc.toNat / 16 ^ i.val) }
  settleSideband (publishScore t)

/-! ### The stage engine -/

/-- The groups of Table 02-7 after `JOURNAL`, with their limits in milliseconds. -/
def groups : List (List (Fin 22) × Nat) :=
  [([1, 2], 200), ([3], 1000), ([4], 500), ([5], 50), ([6], 100), ([7, 8, 9, 10], 12000), ([11], 300), ([12], 2000)] ++
  [([13, 14, 15, 16, 17, 18, 19, 20], 2000), ([21], 100)]

/-- An optional entry is skipped: it read FAILED at the start of this boot, or its count has reached 3 (R59). -/
def skipsOptional (e : Fin 22) (s : State) : Bool := statusOf e s == .failed || decide (3 ≤ failsOf e s)

/-- Start an entry. -/
def markStarted (e : Fin 22) (s : State) : State := setStage e .started (failsOf e s) s

/-- Write an entry SKIPPED. -/
def markSkipped (e : Fin 22) (s : State) : State := setStage e .skipped (failsOf e s) s

/-- A required entry starts, unless its count has reached 3 (R60). Where that entry is `VARLUX`, the spec does not say who then
answers commands: here the mailbox answers below the floor as in any boot that ends there. DESIGN CHOICE (log 89). -/
def startRequired (e : Fin 22) (s : State) : State := if 3 ≤ failsOf e s then endBelow s else markStarted e s

/-- Start `MGMT.p` (R59, R453). -/
def startMgmt (p : Nat) (e : Fin 22) (s : State) : State :=
  let t := changeFence (liftMgmt p) s
  if t.jrn.fence.mgmt.getLsbD p then markSkipped e (mapFence 4 p t)
  else if skipsOptional e t then markSkipped e t
  else markStarted e t

/-- Start `FABRIC.p` (R59, R376, R453). -/
def startFabric (p : Nat) (e : Fin 22) (s : State) : State :=
  let t := changeFence (liftFabric p) s
  if t.jrn.fence.fabric.getLsbD p then markSkipped e (modPort (finOf p) (fun x => { x with st := 0 }) (mapFence 3 p t))
  else if skipsOptional e t then markSkipped e (modPort (finOf p) (fun x => { x with st := 0 }) (bootFence 3 p t))
  else markStarted e (modPort (finOf p) (fun x => { x with st := 2 }) t)

/-- Start `MEM.n` (R60, R453). -/
def startMem (n : Fin 4) (e : Fin 22) (s : State) : State :=
  let t := applyMem n s
  if isFenced 2 n.val t then markSkipped e t
  else if 3 ≤ failsOf e t then markSkipped e (bootFence 2 n.val t)
  else markStarted e t

/-- Start an entry of Table 02-7. -/
def startEntry (s : State) (e : Fin 22) : State :=
  if s.phase ≠ .booting then s
  else
    match e.val with
    | 1 => startMgmt 0 e s
    | 2 => startMgmt 1 e s
    | 3 => if 2 ≤ failsOf e s then enterRecovery s else markStarted e s
    | 4 =>
      let v := match s.sec.running with
        | some r => r.version
        | none => 0
      startRequired e { s with mbx.fwVer := v }
    | 7 | 8 | 9 | 10 => startMem (finOf (e.val - 7)) e s
    | 11 =>
      let t := changeFence liftColumns s
      startRequired e (mapFences 0 12 (fun c => t.jrn.fence.columns.getLsbD c) t)
    | 12 => if skipsOptional e s then markSkipped e s else markStarted e s
    | 13 | 14 | 15 | 16 | 17 | 18 | 19 | 20 => startFabric (e.val - 13) e s
    | _ => startRequired e s

/-- What follows the end of a group: after the MEM stages the host window is active and `Memory_Active` is set (R32, R296). -/
def afterGroup (es : List (Fin 22)) (s : State) : State :=
  if es.contains 7 then
    { s with mem.hdmFirst := s.jrn.mem.hdmFirst.toNat, mem.hdmSize := s.jrn.mem.hdmSize.toNat, mbx.memActive := true }
  else s

/-- Start the groups in turn until one has an entry that runs (R54, R56). -/
def startGroups : List (List (Fin 22) × Nat) → State → State
  | [], s => s
  | g :: gs, s =>
    let t := g.1.foldl startEntry (setWdt g.2 true s)
    if t.phase ≠ .booting ∨ g.1.any (fun e => stageRuns e t) then t else startGroups gs (afterGroup g.1 t)

/-- An entry has ended: once its group has, a failed MEM stage resets the module (R58), and otherwise the boot goes on. -/
def advanceBoot (e : Fin 22) (s : State) : State :=
  if s.phase ≠ .booting then s
  else
    match groups.dropWhile fun g => !g.1.contains e with
    | [] => s
    | g :: gs =>
      if g.1.any fun x => stageRuns x s then s
      else if g.1.contains 7 ∧ g.1.any (fun x => statusOf x s == .failed) then warmReset 0x07 s
      else startGroups gs (afterGroup g.1 s)

/-! ### The journal at the start of a boot -/

/-- The other copy of a record is rewritten from the selected one (R63), but for a memory that takes no write in this boot
(R64). -/
def heal {α : Type} (badA badB : Bool) (seq : α → W64) (d : Dup α) : Dup α :=
  match dupPick seq d with
  | some x => ⟨if badA then d.a else some x.2, if badB then d.b else some x.2⟩
  | none => d

/-- What the boot journal's copies hold once a write of one has failed its read-back verification (R64): that copy is not valid
(log 20). -/
def spoil (badA badB : Bool) (d : Dup BootRec) : Dup BootRec := ⟨if badA then none else d.a, if badB then none else d.b⟩

/-- The record in force, or its fresh content. -/
def loadRec {α : Type} (seq : α → W64) (fresh : α) (d : Dup α) : α :=
  match dupPick seq d with
  | some x => x.2
  | none => fresh

/-- Load the records other than the boot journal (R307, R311, R438, R446, R448, R452). -/
def loadRecords (badA badB : Bool) (j : Journal) : Journal :=
  { j with
    savedDup := vmap j.savedDup fun _ d => heal badA badB (·.seq) d,
    memDup := heal badA badB (·.seq) j.memDup, mem := loadRec (·.seq) {} j.memDup,
    fenceDup := heal badA badB (·.seq) j.fenceDup, fence := loadRec (·.seq) {} j.fenceDup,
    hcfgDup := heal badA badB (·.seq) j.hcfgDup, hcfg := loadRec (·.seq) {} j.hcfgDup,
    hstDup := heal badA badB (·.seq) j.hstDup, hst := loadRec (·.seq) {} j.hstDup,
    dirDup := heal badA badB (·.seq) j.dirDup, dir := loadRec (·.seq) {} j.dirDup,
    fresh := BitVec.ofNat 4 (bit (dupPick (·.seq) j.hstDup).isNone + 2 * bit (dupPick (·.seq) j.fenceDup).isNone +
      4 * bit (dupPick (·.seq) j.hcfgDup).isNone + 8 * bit (dupPick (·.seq) j.memDup).isNone) }

/-- The sources that charge the stage left STARTED (R52, R63). -/
def charges (source : Byte) : Bool := source == 0x05 || source == 0x06 || source == 0x08

/-- A stage entry as the `JOURNAL` stage leaves it (R63). A changed status is timed at the start of the boot: `TIME_US` is zero
(Table 02-9). -/
def carryEntry (charge : Bool) (e : StageEntry) : StageEntry :=
  match e.status with
  | .started =>
    if charge then { status := .failed, fails := BitVec.ofNat 8 (min 255 (e.fails.toNat + 1)) } else { e with status := .none, timeUs := 0 }
  | .failed => e
  | .skipped => e
  | .none => e
  | _ => { e with status := .none, timeUs := 0 }

/-- Entry 3 also takes a failure of `VARLUX` (Table 02-7). -/
def chargeImage (charge : Bool) (v : Vector StageEntry 22) : Vector StageEntry 22 :=
  if charge && (v[(4 : Fin 22)]).status == .started then
    vupd v 3 fun e => { e with fails := BitVec.ofNat 8 (min 255 (e.fails.toNat + 1)) }
  else v

/-- The boot journal record at the start of a boot, with the selected copy (R47, R63, R64). `badA` and `badB` say that writes of a
copy fail their read-back verification from the first write of this boot on. The spec gives a fresh record no `SEQ`: it is 0 before
the first write. DESIGN CHOICE (log 6). -/
def bootRecord (badA badB : Bool) (d : Dup BootRec) (a : Aon) : Selected × BootRec :=
  let charge := charges a.source
  let cause := BitVec.ofNat 32 (a.kind.toNat + 256 * a.source.toNat)
  match dupPick (·.seq) d with
  | none => (.fresh, { seq := 0, bootCount := 1, bcRestarted := true, aBad := badA, bBad := badB, bootPtime := a.ptime,
                        lastCause := cause })
  | some (sel, r) =>
    (sel, { r with
      bootCount := if r.bootCount = 0xFFFFFFFF then r.bootCount else r.bootCount + 1,
      bootPtime := a.ptime, lastCause := cause, aBad := badA, bBad := badB,
      stage := vmap (chargeImage charge r.stage) fun _ e => carryEntry charge e })

/-- A duplicated record whose update an interruption cut (R23): at most one copy is incomplete, and so not valid. `next` is the
record as the update would have written it. -/
def tear {α : Type} (c : Cut) (seq : α → W64) (next : α → α) (d : Dup α) : Dup α :=
  match dupPick seq d with
  | none => d
  | some x => match c with
    | .inA => ⟨none, d.b⟩
    | .between => ⟨some (next x.2), d.b⟩
    | .inB => ⟨some (next x.2), none⟩

/-- The records as the interruption before this boot left them (R23; log 20). -/
def tearRecords (k : RecKind) (c : Cut) (j : Journal) : Journal :=
  match k with
  | .boot => { j with bootDup := tear c (·.seq) (fun r => { r with seq := r.seq + 1 }) j.bootDup }
  | .saved n => { j with savedDup := vupd j.savedDup n (tear c (·.seq) fun r => { r with seq := r.seq + 1 }) }
  | .memCfg => { j with memDup := tear c (·.seq) (fun r => { r with seq := r.seq + 1 }) j.memDup }
  | .fence => { j with fenceDup := tear c (·.seq) (fun r => { r with seq := r.seq + 1 }) j.fenceDup }
  | .healthCfg => { j with hcfgDup := tear c (·.seq) (fun r => { r with seq := r.seq + 1 }) j.hcfgDup }
  | .healthState => { j with hstDup := tear c (·.seq) (fun r => { r with seq := r.seq + 1 }) j.hstDup }
  | .warmDir => { j with dirDup := tear c (·.seq) (fun r => { r with seq := r.seq + 1 }) j.dirDup }

/-- A copy whose access times out counts as invalid (R60). -/
def alive {α : Type} (f : JrnFaults) (d : Dup α) : Dup α := ⟨if f.deadA then none else d.a, if f.deadB then none else d.b⟩

/-- The copies that the `JOURNAL` stage finds (R23, R60). -/
def foundRecords (f : JrnFaults) (torn : Option (RecKind × Cut)) (j : Journal) : Journal :=
  let j := match torn with
    | some (k, c) => tearRecords k c j
    | none => j
  { j with
    bootDup := alive f j.bootDup, savedDup := vmap j.savedDup fun _ d => alive f d, memDup := alive f j.memDup,
    fenceDup := alive f j.fenceDup, hcfgDup := alive f j.hcfgDup, hstDup := alive f j.hstDup, dirDup := alive f j.dirDup }

/-- The `JOURNAL` stage (R60, R63 to R65): entry 0 ends OK, or OK_ALT with a fresh record. The debug UART, which a module in reset
leaves at high impedance (Table 01-9), sends the line of the module reset first (R92); the conversions of carried entries send no
line of their own. DESIGN CHOICE (log 90). -/
def journalStage (f : JrnFaults) (torn : Option (RecKind × Cut)) (s : State) : State :=
  let badA := f.lifeA == some 0
  let badB := f.lifeB == some 0
  let j := foundRecords f torn s.jrn
  let (sel, r) := bootRecord badA badB j.bootDup s.aon
  let t := { s with jrn := { loadRecords badA badB j with
    boot := r, bootDup := spoil badA badB (heal badA badB (·.seq) j.bootDup), selected := sel, lifeA := f.lifeA, lifeB := f.lifeB } }
  let t := emit (.uartReset r.bootCount (now t) t.aon.source) (applyClear (writeBoot id t))
  let t := markStarted 0 t
  setStage 0 (if sel = .fresh then .okAlt else .ok) (failsOf 0 t) t

end Sys2Proof.Machine
end

