-- ==== Sys2Proof/Machine/FabricCmd.lean ====
section
/-! DEFINITION. Sys2Proof/Machine/FabricCmd.lean: the fabric ports and the IPv6 functions of the module (R375 to R380,
R461). -/

namespace Sys2Proof.Machine

/-- A fabric port receives frames: its link is up, with or without an address (R380). -/
def linkUp (s : State) (p : Fin 8) : Bool := decide (3 ≤ (s.fabric.ports[p]).st)

/-- State of a port whose link is up, by its address (R380). -/
def upState (x : FabPort) : Nat := if x.addr = 0 then 3 else 4

/-- MAC address of fabric port p (R378). -/
def fabricMac (s : State) (p : Fin 8) : BitVec 48 := (0x06 : Byte) ++ BitVec.ofNat 8 p.val ++ s.sec.serial.extractLsb' 0 32

/-- The solicitations of a fabric port (R378): a Router Solicitation when its link comes up without a default router, and a
Neighbor Solicitation for its own address when it has one. PRESUMED: the moments and the fields are those of Neighbor
Discovery and of stateless address configuration (log 10). -/
def solicit (p : Fin 8) (s : State) : State :=
  let x := s.fabric.ports[p]
  if x.st < 3 ∨ s.pins.txIdle then s
  else
    let mac := beBytes 6 (fabricMac s p).toNat
    let t := if x.router.isSome then s
      else emit (.icmp (.fabric p) 0xFF020000000000000000000000000002 133 (if x.addr = 0 then [] else [1, 1] ++ mac)) s
    if x.addr = 0 then t
    else emit (.icmp (.fabric p) (0xFF0200000000000000000001FF000000 ||| (x.addr &&& 0xFFFFFF)) 135 (beBytes 16 x.addr.toNat)) t

/-- `PORT_LINK_LOSS` (R376): a running port loses its link and retrains. A retrain is evidence of class 0x15 and counter 7
(Table 16-1, Table 16-11). A peer without a common port is detected (R401). -/
def execPortLinkLoss (p : Fin 8) (s : State) : Host.Outcome State Fault Refusal :=
  .next (
    if linkUp s p then
      let t := modPort p (fun x => { x with st := 2 }) s
      settleSideband (detectNoPorts (counter 7 1 (evidence 0x15 1 t)))
    else s)

/-- `FABRIC_PORT_RETRAINED` (R376): the port is up again within 2 s and returns to Chord use. -/
def execFabricPortRetrained (p : Fin 8) (s : State) : Host.Outcome State Fault Refusal :=
  .next (
    if (s.fabric.ports[p]).st = 2 ∧ answering s then solicit p (settleSideband (modPort p (fun x => { x with st := upState x }) s)) else s)

/-- `PORT_RETRAIN_TIMEOUT` (R376): the device fences the port. -/
def execPortRetrainTimeout (p : Fin 8) (s : State) : Host.Outcome State Fault Refusal :=
  .next (if (s.fabric.ports[p]).st = 2 ∧ answering s then fenceUnit 3 p.val s else s)

/-- `PAUSE_FRAME` (R377): discarded and counted. -/
def execPauseFrame (p : Fin 8) (s : State) : Host.Outcome State Fault Refusal :=
  .next (if linkUp s p then counter 3 1 (countFrame (.fabric p) s) else s)

/-- MAC address of an interface (R25, R378). -/
def macOf (s : State) (v : Via) : BitVec 48 :=
  match v with
  | .fabric p => fabricMac s p
  | .mgmt p => Config.mgmtMac p

/-- The addresses of an interface (R379, R461). -/
def addrsOf (s : State) (v : Via) : List Ip6 :=
  match v with
  | .fabric p => [(s.fabric.ports[p]).addr].filter (· != 0)
  | .mgmt p => ((0xFE80000000000000 : W64) ++ eui64 p) :: (s.mgmt.ports[p]).prefixes.map fun x => x ++ eui64 p

/-- The link of an interface is up. -/
def viaLink (s : State) (v : Via) : Bool :=
  match v with
  | .fabric p => linkUp s p
  | .mgmt p => (s.mgmt.ports[p]).up

/-- The interface may send (R467: a silent port sends nothing). -/
def viaSends (s : State) (v : Via) : Bool :=
  match v with
  | .fabric p => linkUp s p && !s.pins.txIdle
  | .mgmt p => mgmtUp s p

/-- `NEIGHBOR_SOLICITATION` (R378, R461): a solicitation for an address of the interface is answered with its link-layer
address. One from the unspecified address is answered to all nodes, as Neighbor Discovery provides (log 10). -/
def execNeighborSolicitation (p : Via) (target src : BitVec 128) (s : State) : Host.Outcome State Fault Refusal :=
  .next (
    if viaLink s p then
      let t := countFrame p s
      if (addrsOf s p).contains target && viaSends s p then
        emit (.icmp p (if src = 0 then 0xFF020000000000000000000000000001 else src) 136
          (beBytes 16 target.toNat ++ beBytes 6 (macOf s p).toNat)) t
      else t
    else s)

/-- `ROUTER_ADVERTISEMENT` (R378, R461): a fabric port learns the plane's default router; a management port forms a global
address from the prefix. -/
def execRouterAdvertisement (p : Via) (routerMac : BitVec 48) (prefix64 : BitVec 64) (s : State) :
    Host.Outcome State Fault Refusal :=
  .next (
    if viaLink s p then
      match p with
      | .fabric q => modPort q (fun x => { x with router := some routerMac }) (countFrame p s)
      | .mgmt q =>
        { s with mgmt.ports := vupd s.mgmt.ports q fun x =>
            if x.prefixes.contains prefix64 then x else { x with prefixes := x.prefixes ++ [prefix64] } }
    else s)

/-- `ICMPV6_ECHO` (R378, R461): an Echo Request to the interface is answered with its body in an Echo Reply. A fabric port
without an address has none to answer from. -/
def execIcmpv6Echo (p : Via) (src : BitVec 128) (body : List Byte) (s : State) : Host.Outcome State Fault Refusal :=
  .next (
    if viaLink s p then
      let t := countFrame p s
      if oversized p (48 + body.length) then counter 6 1 t
      else if !(addrsOf s p).isEmpty && viaSends s p then emit (.icmp p src 129 body) t else t
    else s)

/-- A global unicast address: 2000::/3. PRESUMED: the allocation that IPv6 gives global unicast (log 10). -/
def globalUnicast (a : Ip6) : Bool := a.extractLsb' 125 3 == 1

/-- The effect of `FABRIC_CONFIG` (R379). -/
def fabricConfigBody (h : Hdr) (port : Byte) (tDetect : W32) (addr : Ip6) (s : State) : State :=
  if 7 < port.toNat ∨ tDetect.toNat < 50 ∨ 1000 < tDetect.toNat ∨ !(addr == 0 || globalUnicast addr) then complete h stArg [] s
  else if s.health.fabric.getLsbD port.toNat then complete h stDegraded [] s
  else if s.jobs.any armed then complete h stState [] s
  else
    let t := modPort (finOf port.toNat) (fun x =>
      let y := { x with addr := addr }
      if 3 ≤ x.st then { y with st := upState y } else y) { s with fabric.tDetect := tDetect.toNat }
    complete h stOk [] (solicit (finOf port.toNat) (settleSideband t))

/-- `FABRIC_CONFIG` (R379). -/
def execFabricConfig (h : Hdr) (port : BitVec 8) (tDetect : BitVec 32) (addr : BitVec 128) (s : State) :
    Host.Outcome State Fault Refusal :=
  .next (runCmd catFabricConfig h (fabricConfigBody h port tDetect addr) s)

/-- The effect of `PORT_STATUS` (R380). -/
def portStatusBody (h : Hdr) (port : Byte) (s : State) : State :=
  if 7 < port.toNat then complete h stArg [] s
  else
    let x := s.fabric.ports[(finOf port.toNat : Fin 8)]
    let st := if s.health.fabric.getLsbD port.toNat then 0 else x.st
    complete h stOk (leBytes 1 st ++ zeros 3 ++ leBytes 4 x.stale.toNat ++ leBytes 8 x.frames.toNat) s

/-- `PORT_STATUS` (R380). -/
def execPortStatus (h : Hdr) (port : BitVec 8) (s : State) : Host.Outcome State Fault Refusal :=
  .next (runCmd catPortStatus h (portStatusBody h port) s)

end Sys2Proof.Machine
end

