-- ==== Sys2Proof/Machine/BootCmd.lean ====
section
/-! DEFINITION. Sys2Proof/Machine/BootCmd.lean: the start of a boot (R52, R55, R481, R485), the end of each boot stage
(Table 02-7), die-to-die links while the module runs (R19, R20), and the journal commands (R65). -/

namespace Sys2Proof.Machine

/-! ### The start of a boot -/

/-- t_PVPERL min after `PGOOD` rises, and t_RESET_MIN min after the trigger, have passed (R55, R481). -/
def bootMayStart (s : State) : Bool :=
  s.phase == .inReset && decide (100000 ≤ s.aon.ptime.toNat ∧ s.aon.wdtStart.toNat + 100 ≤ s.aon.ptime.toNat)

/-- `BOOT_START` (R52, R55): `PERST#` is deasserted and `REFCLK` meets its limits. The `JOURNAL` stage runs, and the `MGMT` group
starts. Warm resets with source 0x05 to 0x08 are evidence of class 0x18. `f` says what the journal memories do (R23, R60, R64). SEC runs from here on, with its DRBG seeded (R39, R67); a lifecycle that Table
03-1 does not name is a SEC security event (R69, R70). -/
def execBootStart (f : JrnFaults) (torn : Option (RecKind × Cut)) (s : State) : Host.Outcome State Fault Refusal :=
  .next (
    if !bootMayStart s then s
    else if !lifecycleOk s.sec then beginReset kindCold 0x0A s
    else
      let t := losePrisms (~~~ s.mem.inSr) s
      let t := setSbState 0b010 { t with
        phase := .booting, srEntry := 0, mbx.resetPending := none, mbx.resetCmd := none, pins.perst := false, pins.refclk := true, pins.txIdle := false,
        pins.thermTrip := false, sec := { seedDrbg t.sec with meas := vupd t.sec.meas 0 fun _ => Config.bootRomHash } }
      let t := journalStage f torn (setWdt 50 true t)
      let t := if 0x05 ≤ s.aon.source.toNat ∧ s.aon.source.toNat ≤ 0x08 then evidence 0x18 1 t else t
      startGroups groups t)

/-! ### Ends of stages -/

/-- Entry e ends OK with its count at zero, and the boot goes on. -/
def passStage (e : Fin 22) (s : State) : State := advanceBoot e (setStage e .ok 0 s)

/-- A required entry fails and the outcome is a warm reset with source 0x07 (R58). -/
def failReset (e : Fin 22) (s : State) : State := warmReset 0x07 (failStage e s)

/-- `MGMT_STAGE_END` (R59): a trained port is up. -/
def execMgmtStageEnd (p : Fin 2) (r : StageResult) (s : State) : Host.Outcome State Fault Refusal :=
  .next (
    let e : Fin 22 := finOf (1 + p.val)
    if !stageRuns e s then s
    else match r with
      | .ok => passStage e { s with mgmt.ports := vupd s.mgmt.ports p fun x => { x with up := true } }
      | .fail => advanceBoot e (failStage e s))

/-- The identity after the `IMAGE` stage (R73, R76): unavailable when neither wrapped copy authenticates. -/
def identityLost (identA identB : Bool) (x : Sec) : Bool := !(identA || identB) || x.wrapBurnt

/-- The image of slot `b` verifies: it is the running image, and the measurement registers take it (R82, R88, R89). -/
def runImage (b : Bool) (f : SlotFacts) (s : State) : State :=
  let t := { s with sec := { recordSections f (passSlot b f.svn s.sec) with
    running := some ⟨b, f.keySlot, f.svn, f.version⟩, meas := vupd s.sec.meas 1 fun _ => f.meas2 } }
  let t := extendMeas 2 (digestBytes f.body) t
  extendMeas 3 (configRecord t) t

/-- `IMAGE_STAGE_END` (R58, R80, R82): the active image on the primary path, the other on the alternative; recovery mode when the
alternative fails. The count stays until an image is activated. -/
def execImageStageEnd (active other : ImageReport) (identA identB : Bool) (s : State) : Host.Outcome State Fault Refusal :=
  .next (
    if !stageRuns 3 s then s
    else
      let alt := decide (1 ≤ failsOf 3 s)
      let b := s.jrn.boot.activeB != alt
      let f := slotFacts s.sec b (if alt then other else active)
      let g := slotFacts s.sec (!b) (if alt then active else other)
      let t := { s with sec := { loadApex f s.sec with identDown := identityLost identA identB s.sec,
                                                       svnA := if b then g.svn else f.svn, svnB := if b then f.svn else g.svn } }
      if f.verifies then
        advanceBoot 3 (setStage 3 (if alt then .okAlt else .ok) (failsOf 3 t) (runImage b f t))
      else if alt then enterRecovery (failStage 3 t)
      else failReset 3 t)

/-- `VARLUX_STAGE_END` (R58): a failure also counts against `IMAGE`. From here on Varlux runs, and the sideband copy of
`REPLACE_REQ` follows its record (R447). -/
def execVarluxStageEnd (r : StageResult) (s : State) : Host.Outcome State Fault Refusal :=
  .next (
    if !stageRuns 4 s then s
    else match r with
      | .ok =>
        let t := if s.smb.replaceReq = s.jrn.hst.replaceReq then s
          else raiseEvent evReplace (raiseAlert alReplace { s with smb.replaceReq := s.jrn.hst.replaceReq })
        passStage 4 t
      | .fail => failReset 4 (writeBoot (fun b => { b with stage := chargeImage true b.stage }) s))

/-- `CLOCKS_STAGE_END` (R56): a Prism PLL failure fences its Prism; a Lattice or Vertex PLL failure ends the boot below the
service floor. -/
def execClocksStageEnd (prismPllFail : BitVec 4) (lvPll : StageResult) (s : State) : Host.Outcome State Fault Refusal :=
  .next (
    if !stageRuns 5 s then s
    else match lvPll with
      | .fail => endBelow (failStage 5 s)
      | .ok =>
        passStage 5 (((fins 4).filter fun n => prismPllFail.getLsbD n.val).foldl (fun t n => bootFence 2 n.val t) s))

/-- The Prism that a link joins; none for Lattice-Vertex (R20). -/
def linkPrism (l : Nat) : Option Nat := if l < 4 then some l else if l = 4 then none else some (l - 5)

/-- Modules of a link at full strength (Table 01-3). -/
def linkModules (l : Nat) : Nat := if l < 5 then 4 else 2

/-- Working modules of each link after training (R19). -/
def trainedLinks (working : List Nat) : Vector Nat 9 := vgen fun l => min (linkModules l.val) (working.getD l.val 0)

/-- Fence the Prism of every link that is down (R20). -/
def fenceLinks (s : State) : State :=
  (fins 9).foldl (fun t l =>
    match linkPrism l.val with
    | some n => if t.d2d.working[l] = 0 then bootFence 2 n t else t
    | none => t) s

/-- `D2D_STAGE_END` (R19, R20, R56): every module trains or is removed from its link. -/
def execD2dStageEnd (working : List Nat) (s : State) : Host.Outcome State Fault Refusal :=
  .next (
    if !stageRuns 6 s then s
    else
      let t := fenceLinks { s with d2d.working := trainedLinks working }
      if t.d2d.working[(4 : Fin 9)] = 0 then endBelow (failStage 6 t) else passStage 6 t)

/-- The channel pairs that a mask of channels holds, as the pairs of Prism n. -/
def pairsOf (n : Fin 4) (channels : W16) : W32 :=
  (List.range 8).foldl (fun v k =>
    if channels.getLsbD (2 * k) && channels.getLsbD (2 * k + 1) then setBit v (8 * n.val + k) true else v) 0

/-- The channels of a Prism's pairs in a channel set (Table 11-5). -/
def channelsOf (n : Fin 4) (pairs : W32) : W16 :=
  (List.range 16).foldl (fun v i => if pairs.getLsbD (8 * n.val + i / 2) then setBit v i true else v) 0

/-- Prism n is initialised with a channel set (R283, R308): its remap entries come from the record, but for those of channels
out of service, and every sector is written with zeros. A changed channel set moves every location, so errors that lie on
locations are then to be found again (log 17). -/
def initPrism (n : Fin 4) (pairs : W32) (entries : List RemapEntry) (s : State) : State :=
  let ps := (s.mem.pairs &&& ~~~ pairMask n.val) ||| pairs
  let t := losePrisms (setBit 0 n.val true) s
  let keep := entries.filter fun e => pairs.getLsbD (8 * n.val + e.channel.toNat / 2)
  { t with mem := { t.mem with
    pairs := ps, remap := vupd t.mem.remap n fun _ => keep,
    errs := if ps = s.mem.pairs then t.mem.errs else t.mem.errs.filter fun e => granule (32 * e.sector) % 4 != n.val,
    trained := setBit t.mem.trained n.val true, inSr := setBit t.mem.inSr n.val false } }

/-- Initialisation with saved parameters (R308). -/
def initSaved (n : Fin 4) (r : SavedParams) (s : State) : State :=
  let pairs := pairsOf n r.channels &&& ~~~ s.health.pairs
  let t := initPrism n pairs r.remap s
  let t := if (t.mem.remap[n]).length = r.remap.length then t else writeSaved n (fun x => { x with remap := t.mem.remap[n] }) t
  if pairs = 0 then bootFence 2 n.val t else t

/-- Full training (R308): a pair with a channel that fails is fenced persistently, and the record is rewritten. -/
def fullTrain (n : Fin 4) (failedPairs : Byte) (s : State) : State :=
  let fails := (List.range 8).filter fun k => failedPairs.getLsbD k && !s.health.pairs.getLsbD (8 * n.val + k)
  let t := fails.foldl (fun t k => recordFence 1 (8 * n.val + k) (bootFence 1 (8 * n.val + k) t)) s
  let pairs := pairMask n.val &&& ~~~ t.health.pairs
  let entries := match savedOf t n with
    | some r => r.remap
    | none => []
  let t := initPrism n pairs entries t
  let trained := fun (x : SavedParams) => { x with
    channels := channelsOf n pairs, trainedBoot := t.jrn.boot.bootCount, remap := t.mem.remap[n],
    phy := Config.phyParams n.val t.jrn.boot.bootCount.toNat }
  let t := writeSaved n trained t
  if pairs = 0 then recordFence 2 n.val (bootFence 2 n.val t) else t

/-- Self-refresh exit (R308): contents, remap store and map are unchanged. -/
def exitSr (n : Fin 4) (s : State) : State :=
  { s with mem.trained := setBit s.mem.trained n.val true, mem.preserved := setBit s.mem.preserved n.val true,
           mem.inSr := setBit s.mem.inSr n.val false }

/-- The path of `MEM.n` succeeds: what it does to the Prism; none where it reports failure (R308, R309). -/
def runMem (n : Fin 4) (r : StageResult) (failedPairs : Byte) (s : State) : Option State :=
  match r, memPath n s, savedOf s n with
  | .fail, _, _ => none
  | .ok, .full, _ => some (fullTrain n failedPairs s)
  | .ok, .saved, some p => some (initSaved n p s)
  | .ok, .srExit, some p => if p.channels = channelsOf n s.mem.pairs then some (exitSr n s) else none
  | .ok, _, none => none

/-- `MEM_STAGE_END` (R58, R60, R308). The Prism engine's microcode streams through SEC (R81). A third reported failure fences the Prism
within the boot. -/
def execMemStageEnd (n : Fin 4) (r : StageResult) (failedPairs : BitVec 8) (s : State) (stream : Option (List (BitVec 8)) := none) :
    Host.Outcome State Fault Refusal :=
  .next (
    let e : Fin 22 := finOf (7 + n.val)
    if !stageRuns e s then s
    else
      let s := holdDest e 2 stream s
      match runMem n (withSection 2 stream r s) failedPairs s with
      | some t => advanceBoot e (setStage e (if memPath n s = .full then .okAlt else .ok) 0 t)
      | none =>
        if 3 ≤ failsOf e s + 1 then
          advanceBoot e (setStage e .skipped (failsOf e s + 1) (bootFence 2 n.val s))
        else advanceBoot e (failStage e s))

/-- `LATTICE_STAGE_END` (R453): the self-test's failing columns are fenced and recorded, or on the alternative path those of the
last self-test are fenced. The facet sequencer microcode streams through SEC (R81). -/
def execLatticeStageEnd (r : StageResult) (failedColumns : BitVec 12) (s : State) (stream : Option (List (BitVec 8)) := none) :
    Host.Outcome State Fault Refusal :=
  .next (
    if !stageRuns 11 s then s
    else
      let s := holdDest 11 4 stream s
      match withSection 4 stream r s, decide (1 ≤ failsOf 11 s) with
      | .fail, _ => failReset 11 s
      | .ok, true =>
        advanceBoot 11 (setStage 11 .okAlt (failsOf 11 s) (mapFences 0 12 (fun c => s.jrn.fence.selftest.getLsbD c) s))
      | .ok, false =>
        let t := changeFence (fun m => { m with selftest := failedColumns }) s
        passStage 11 (((List.range 12).filter fun c => failedColumns.getLsbD c).foldl (fun t c => bootFence 0 c t) t))

/-- `FLASH_STAGE_END` (R59, R335). The Vertex engine microcode streams through SEC (R81). -/
def execFlashStageEnd (r : StageResult) (s : State) (stream : Option (List (BitVec 8)) := none) :
    Host.Outcome State Fault Refusal :=
  .next (
    if !stageRuns 12 s then s
    else
      let s := holdDest 12 3 stream s
      match withSection 3 stream r s with
      | .ok => passStage 12 { s with flash.present := true }
      | .fail => advanceBoot 12 (failStage 12 s))

/-- `FABRIC_STAGE_END` (R59, R376): a port that fails is fenced for the boot. The Vertex engine microcode streams through SEC (R81). -/
def execFabricStageEnd (p : Fin 8) (r : StageResult) (mode : PortMode) (s : State) (stream : Option (List (BitVec 8)) := none) :
    Host.Outcome State Fault Refusal :=
  .next (
    let e : Fin 22 := finOf (13 + p.val)
    if !stageRuns e s then s
    else
      let s := holdDest e 3 stream s
      match withSection 3 stream r s with
      | .ok => passStage e (solicit p (modPort p (fun x => { x with st := if x.addr = 0 then 3 else 4, mode := some mode }) s))
      | .fail => advanceBoot e (failStage e (modPort p (fun x => { x with st := 0 }) (bootFence 3 p.val s))))

/-- `READY_STAGE` (R58, R61): the floor check, then the module is ready. A failed floor check is no stage failure. -/
def execReadyStage (r : StageResult) (s : State) : Host.Outcome State Fault Refusal :=
  .next (
    if !stageRuns 21 s then s
    else match r with
      | .fail => failReset 21 s
      | .ok =>
        if floorOk s then endReady (setStage 21 .ok 0 s)
        else endBelow (setStage 21 .failed (failsOf 21 s) s))

/-! ### Die-to-die links -/

/-- Die-to-die links are trained: the `D2D` stage has ended in this boot (R19). -/
def d2dTrained (s : State) : Bool := answering s || (s.phase == .booting && statusOf 6 s == .ok)

/-- The replays of a link's k-th working module within the 1 ms that ends with its latest one (R19). -/
def replaysOf (link : Fin 9) (k : Fin 4) (s : State) : Nat := (s.d2d.recent.filter fun x => x.1 == link && x.2.1 == k).length

/-- A replay of a module is noted; those older than 1 ms are dropped (R19). -/
def noteReplay (link : Fin 9) (k : Fin 4) (s : State) : State :=
  { s with d2d.recent :=
      (s.d2d.recent.filter fun x => x.1 != link || x.2.1 != k || decide ((now s).toNat < x.2.2.toNat + 1000)) ++ [(link, k, now s)] }

/-- `D2D_FLIT_CHECK_FAIL` (R19): the flit is replayed, and the replay counted. -/
def execD2dFlitCheckFail (link : Fin 9) (s : State) (module : Fin 4 := 0) : Host.Outcome State Fault Refusal :=
  .next (
    if d2dTrained s && decide (module.val < s.d2d.working[link]) then
      noteReplay link module (counter 0 1 (evidence 0x12 1 { s with d2d.replays := s.d2d.replays + 1 }))
    else s)

/-- A link is down (R20): its Prism is fenced, or the device is below the service floor. -/
def linkDown (l : Fin 9) (s : State) : State :=
  match linkPrism l.val with
  | some n => if s.phase = .booting then bootFence 2 n s else fenceUnit 2 n s
  | none => if s.phase = .booting then endBelow s else if s.phase = .ready then enterBelowFloor s else s

/-- The working modules of a link after its k-th one is removed: those above it move down by one place. -/
def closeGap (link : Fin 9) (k : Fin 4) (l : List (Fin 9 × Fin 4 × W64)) : List (Fin 9 × Fin 4 × W64) :=
  (l.filter fun x => x.1 != link || x.2.1 != k).map fun x => if x.1 = link ∧ k < x.2.1 then (x.1, finOf (x.2.1.val - 1), x.2.2) else x

/-- `D2D_MODULE_REMOVE` (R19, R20): a module that needed more than 1,024 replays within 1 ms leaves its link, which runs on its
remaining modules. -/
def execD2dModuleRemove (link : Fin 9) (s : State) (module : Fin 4 := 0) : Host.Outcome State Fault Refusal :=
  .next (
    if d2dTrained s && decide (module.val < s.d2d.working[link]) && decide (1024 < replaysOf link module s) then
      let t := { s with d2d.working := vupd s.d2d.working link fun n => n - 1, d2d.recent := closeGap link module s.d2d.recent }
      if t.d2d.working[link] = 0 then linkDown link t else t
    else s)

/-! ### The journal commands -/

/-- A stage entry (Table 02-9). -/
def entryBytes (e : StageEntry) : List Byte :=
  let st : Byte := match e.status with
    | .none => 0
    | .started => 1
    | .ok => 2
    | .okAlt => 3
    | .failed => 4
    | .skipped => 5
  [st, e.fails, 0, 0] ++ leBytes 4 e.timeUs.toNat

/-- The boot journal record as stored (Table 02-8). -/
def bootBytes (r : BootRec) : List Byte :=
  let b := layout 252 [
    (0x00, leBytes 4 0x5033424A ++ leBytes 2 1 ++ [0, 0] ++ leBytes 8 r.seq.toNat ++ leBytes 4 r.bootCount.toNat ++
      leBytes 4 (bit r.bcRestarted + 2 * bit r.activeB + 4 * bit r.aBad + 8 * bit r.bBad) ++ leBytes 8 r.bootPtime.toNat ++
      leBytes 4 r.lastCause.toNat ++ [r.gpioFunc, 0, 0, 0]),
    (0x28, (vlist r.stage).flatMap entryBytes)]
  withCrc b

/-- A copy as `BOOT_JOURNAL_READ` returns it: the bytes of a copy that is not valid are free (log 3). -/
def copyBytes (c : Option BootRec) (s : State) : List Byte × State :=
  match c with
  | some r => (bootBytes r, s)
  | none =>
    let (v, t) := freeVal s
    (leBytes 256 v, t)

/-- `BOOT_JOURNAL_READ`'s own effect (R65). -/
def bootJournalReadBody (h : Hdr) (s : State) : State :=
  let (a, t) := copyBytes s.jrn.bootDup.a s
  let (b, t) := copyBytes s.jrn.bootDup.b t
  let sel := match s.jrn.selected with
    | .a => 0
    | .b => 1
    | .fresh => 2
  answer h stOk true (leBytes 1 sel ++ leBytes 1 (bit s.jrn.boot.aBad + 2 * bit s.jrn.boot.bBad)) (a ++ b) t

/-- `BOOT_JOURNAL_READ` (R65). -/
def execBootJournalRead (h : Hdr) (s : State) : Host.Outcome State Fault Refusal :=
  .next (runCmd catBootJournalRead h (bootJournalReadBody h) s)

/-- `BOOT_JOURNAL_CLEAR`'s own effect (R65): from the next boot on, so not within one that still runs. -/
def bootJournalClearBody (h : Hdr) (s : State) : State :=
  if s.phase = .booting then complete h stOk [] { s with jrn.clearFails := true } else complete h stOk [] (zeroFails s)

/-- `BOOT_JOURNAL_CLEAR` (R65). -/
def execBootJournalClear (h : Hdr) (s : State) : Host.Outcome State Fault Refusal :=
  .next (runCmd catBootJournalClear h (bootJournalClearBody h) s)

end Sys2Proof.Machine
end

