-- ==== Sys2Proof/Machine/FacetScalar.lean ====
section
/-! DEFINITION. Sys2Proof/Machine/FacetScalar.lean: the control and scalar instructions (R144 to R149), `DMA.STAT`,
`TOK.RECV`, `TOK.POLL`, `STAT.CLR` and `STAT.EMIT`, which the sequencer executes itself (Table 05-5). -/

namespace Sys2Proof.Machine

/-! ### Scalar arithmetic -/

/-- Use of the fields by `SALU` (Table 05-8). -/
def useSalu (i : Ins) : Use :=
  if i.fl.getLsbD 0 then { fl := 1, d := .s, a := .s, x := 0xF, imm := 0xFFFFFFFFFFFFFFFF }
  else { fl := 1, d := .s, a := .s, b := .s, x := 0xF }

/-- The second operand of `SALU` (R144): sB, or `IMM` when `IMMB` is 1. -/
def saluB (x : Facet) (i : Ins) : W64 := if i.fl.getLsbD 0 then i.imm else sReg x i.b

/-- The common form of the `SALU` functions: sD becomes sA op b (R144). -/
def issueSalu (code : BitVec 4) (op : W64 → W64 → W64) (f : Fin 96) (i : Ins) (e : Ecc) (s : State) : State :=
  issue f 0x03 i e (useSalu i) (i.x.extractLsb' 0 4 == code)
    (fun _ x => .done (advance (setS x i.d (op (sReg x i.a) (saluB x i))))) s

/-- SALU function 0x0 (R144): sum modulo 2^64. -/
def saluAdd (a b : W64) : W64 := a + b

/-- `SALU_ADD` (R144). -/
def execSaluAdd (f : Fin 96) (i : Ins) (e : Ecc) (s : State) : Host.Outcome State Fault Refusal :=
  .next (issueSalu 0x0 saluAdd f i e s)

/-- SALU function 0x1 (R144): difference modulo 2^64. -/
def saluSub (a b : W64) : W64 := a - b

/-- `SALU_SUB` (R144). -/
def execSaluSub (f : Fin 96) (i : Ins) (e : Ecc) (s : State) : Host.Outcome State Fault Refusal :=
  .next (issueSalu 0x1 saluSub f i e s)

/-- SALU function 0x2 (R144): bitwise AND. -/
def saluAnd (a b : W64) : W64 := a &&& b

/-- `SALU_AND` (R144). -/
def execSaluAnd (f : Fin 96) (i : Ins) (e : Ecc) (s : State) : Host.Outcome State Fault Refusal :=
  .next (issueSalu 0x2 saluAnd f i e s)

/-- SALU function 0x3 (R144): bitwise OR. -/
def saluOr (a b : W64) : W64 := a ||| b

/-- `SALU_OR` (R144). -/
def execSaluOr (f : Fin 96) (i : Ins) (e : Ecc) (s : State) : Host.Outcome State Fault Refusal :=
  .next (issueSalu 0x3 saluOr f i e s)

/-- SALU function 0x4 (R144): bitwise XOR. -/
def saluXor (a b : W64) : W64 := a ^^^ b

/-- `SALU_XOR` (R144). -/
def execSaluXor (f : Fin 96) (i : Ins) (e : Ecc) (s : State) : Host.Outcome State Fault Refusal :=
  .next (issueSalu 0x4 saluXor f i e s)

/-- SALU function 0x5 (R144): shift left by b[5:0]. -/
def saluShl (a b : W64) : W64 := a <<< (b.toNat % 64)

/-- `SALU_SHL` (R144). -/
def execSaluShl (f : Fin 96) (i : Ins) (e : Ecc) (s : State) : Host.Outcome State Fault Refusal :=
  .next (issueSalu 0x5 saluShl f i e s)

/-- SALU function 0x6 (R144): logical shift right by b[5:0]. -/
def saluShr (a b : W64) : W64 := a >>> (b.toNat % 64)

/-- `SALU_SHR` (R144). -/
def execSaluShr (f : Fin 96) (i : Ins) (e : Ecc) (s : State) : Host.Outcome State Fault Refusal :=
  .next (issueSalu 0x6 saluShr f i e s)

/-- SALU function 0x7 (R144): arithmetic shift right by b[5:0]. -/
def saluSra (a b : W64) : W64 := a.sshiftRight (b.toNat % 64)

/-- `SALU_SRA` (R144). -/
def execSaluSra (f : Fin 96) (i : Ins) (e : Ecc) (s : State) : Host.Outcome State Fault Refusal :=
  .next (issueSalu 0x7 saluSra f i e s)

/-- SALU function 0x8 (R144): low 64 bits of the product. -/
def saluMul (a b : W64) : W64 := a * b

/-- `SALU_MUL` (R144). -/
def execSaluMul (f : Fin 96) (i : Ins) (e : Ecc) (s : State) : Host.Outcome State Fault Refusal :=
  .next (issueSalu 0x8 saluMul f i e s)

/-- SALU function 0x9 (R144): high 64 bits of the unsigned product. -/
def saluMulhu (a b : W64) : W64 := BitVec.ofNat 64 (a.toNat * b.toNat / 2 ^ 64)

/-- `SALU_MULHU` (R144). -/
def execSaluMulhu (f : Fin 96) (i : Ins) (e : Ecc) (s : State) : Host.Outcome State Fault Refusal :=
  .next (issueSalu 0x9 saluMulhu f i e s)

/-- SALU function 0xA (R144): unsigned minimum. -/
def saluMinu (a b : W64) : W64 := if a.ult b then a else b

/-- `SALU_MINU` (R144). -/
def execSaluMinu (f : Fin 96) (i : Ins) (e : Ecc) (s : State) : Host.Outcome State Fault Refusal :=
  .next (issueSalu 0xA saluMinu f i e s)

/-- SALU function 0xB (R144): unsigned maximum. -/
def saluMaxu (a b : W64) : W64 := if a.ult b then b else a

/-- `SALU_MAXU` (R144). -/
def execSaluMaxu (f : Fin 96) (i : Ins) (e : Ecc) (s : State) : Host.Outcome State Fault Refusal :=
  .next (issueSalu 0xB saluMaxu f i e s)

/-- SALU function 0xC (R144): unsigned less-than test. -/
def saluSltu (a b : W64) : W64 := if a.ult b then 1 else 0

/-- `SALU_SLTU` (R144). -/
def execSaluSltu (f : Fin 96) (i : Ins) (e : Ecc) (s : State) : Host.Outcome State Fault Refusal :=
  .next (issueSalu 0xC saluSltu f i e s)

/-- SALU function 0xD (R144): signed less-than test. -/
def saluSlt (a b : W64) : W64 := if a.slt b then 1 else 0

/-- `SALU_SLT` (R144). -/
def execSaluSlt (f : Fin 96) (i : Ins) (e : Ecc) (s : State) : Host.Outcome State Fault Refusal :=
  .next (issueSalu 0xD saluSlt f i e s)

/-- SALU function 0xE (R144): equality test. -/
def saluSeq (a b : W64) : W64 := if a = b then 1 else 0

/-- `SALU_SEQ` (R144). -/
def execSaluSeq (f : Fin 96) (i : Ins) (e : Ecc) (s : State) : Host.Outcome State Fault Refusal :=
  .next (issueSalu 0xE saluSeq f i e s)

/-! ### Control -/

/-- `NOP` (R143). -/
def execNop (f : Fin 96) (i : Ins) (e : Ecc) (s : State) : Host.Outcome State Fault Refusal :=
  .next (issue f 0x00 i e {} true (fun _ x => .done (advance x)) s)

/-- `LI` (R144): sD becomes `IMM`. -/
def execLi (f : Fin 96) (i : Ins) (e : Ecc) (s : State) : Host.Outcome State Fault Refusal :=
  .next (issue f 0x02 i e { d := .s, imm := 0xFFFFFFFFFFFFFFFF } true (fun _ x => .done (advance (setS x i.d i.imm))) s)

/-- The last started facet of a running sector has halted: the sector becomes LOADED and its ticks stop (R260). -/
def sectorHalted (f : Fin 96) (s : State) : State :=
  match (s.facets[f]).sector with
  | none => s
  | some k =>
    if (s.sectors[k]).st = .running ∧ (s.facets[f]).st = .halted ∧
        (facetsOf (s.sectors[k]).columns).all (fun g => (s.facets[g]).st != .running && (s.facets[g]).st != .faulted) then
      modSector k (fun x => { x with st := .loaded, cadence := 0 }) s
    else s

/-- `HALT` (R148): stalls until every unit and tag is empty, then writes its code and the facet is HALTED. -/
def execHalt (f : Fin 96) (i : Ins) (e : Ecc) (s : State) : Host.Outcome State Fault Refusal :=
  .next (sectorHalted f (issue f 0x01 i e { imm := 0xFFFF } true (fun s x =>
    if unitsDone s f x 0x1F 0xFF then .done { x with halt := i.imm.extractLsb' 0 16, st := .halted } else .stall) s))

/-- Scratchpad address of `SLD` and `SST` (R145). -/
def sldAddr (x : Facet) (i : Ins) : Nat := (sReg x i.a + (i.imm.extractLsb' 0 24).zeroExtend 64).toNat

/-- The address is a multiple of 8 below 0x30_0000 (R145). -/
def sldOk (a : Nat) : Bool := a % 8 == 0 && decide (a < spmEnd)

/-- `SLD` (R145): 8 bytes of the scratchpad at sA + `IMM` go to sD; an uncorrectable word raises FE_SPM_ECC precisely.
Nothing orders it against the units (R170). -/
def execSld (f : Fin 96) (i : Ins) (e : Ecc) (s : State) : Host.Outcome State Fault Refusal :=
  .next (viewSpent f .seq (s.facets[f]).seqNo s (issue f 0x04 i e { d := .s, a := .s, imm := 0xFFFFFF } true (fun s x =>
    if !sldOk (sldAddr x i) then .error feOperand 0
    else match e.spmBad with
      | some k => .error feSpmEcc k
      | none => .done (advance (setS x i.d (BitVec.ofNat 64 (leNat (mread (spmView s x .seq x.seqNo) (sldAddr x i) 8)))))) s))

/-- `SST` (R145): sB goes to 8 bytes of the scratchpad at sA + `IMM`. -/
def execSst (f : Fin 96) (i : Ins) (e : Ecc) (s : State) : Host.Outcome State Fault Refusal :=
  .next (issue f 0x05 i e { a := .s, b := .s, imm := 0xFFFFFF } true (fun _ x =>
    if !sldOk (sldAddr x i) then .error feOperand 0
    else .done (advance (noteRace .seq (some x.seqNo) [(sldAddr x i, 8)] x.spm
      { x with spm := mwrite x.spm (sldAddr x i) (leBytes 8 (sReg x i.b).toNat) }))) s)

/-- The condition of `BR` (R146). -/
def brTaken (x : Facet) (i : Ins) : Bool :=
  match (i.x.extractLsb' 0 2).toNat with
  | 0 => true
  | 1 => sReg x i.a == 0
  | _ => sReg x i.a != 0

/-- `BR` (R146): a taken branch must stay within the body of the innermost active loop. `COND` 3 is reserved. -/
def execBr (f : Fin 96) (i : Ins) (e : Ecc) (s : State) : Host.Outcome State Fault Refusal :=
  .next (issue f 0x06 i e { a := .s, x := 3, imm := 0xFFF } true (fun _ x =>
    let target : BitVec 13 := (i.imm.extractLsb' 0 12).zeroExtend 13
    if i.x = 3 then .error feOpcode 0
    else if brTaken x i then
      match x.loops with
      | l :: _ => if l.start ≤ target ∧ target ≤ l.last then .done { x with pc := target, seqNo := x.seqNo + 1 } else .error feLoop 0
      | [] => .done { x with pc := target, seqNo := x.seqNo + 1 }
    else .done (advance x)) s)

/-- `LOOP` (R146): runs the instructions from PC + 1 to `END` inclusive sA times; depth at most 4. -/
def execLoop (f : Fin 96) (i : Ins) (e : Ecc) (s : State) : Host.Outcome State Fault Refusal :=
  .next (issue f 0x07 i e { a := .s, imm := 0xFFF } true (fun _ x =>
    let last : BitVec 13 := (i.imm.extractLsb' 0 12).zeroExtend 13
    if decide (last ≤ x.pc) || (match x.loops with
        | l :: _ => decide (l.last < last)
        | [] => false) then .error feLoop 0
    else if sReg x i.a = 0 then .done { x with pc := last + 1, seqNo := x.seqNo + 1 }
    else if 4 ≤ x.loops.length then .error feLoop 0
    else .done { x with pc := x.pc + 1, seqNo := x.seqNo + 1, loops := ⟨x.pc + 1, last, sReg x i.a⟩ :: x.loops }) s)

/-- `WAIT` (R147): stalls until the selected units and tags are done. -/
def execWait (f : Fin 96) (i : Ins) (e : Ecc) (s : State) : Host.Outcome State Fault Refusal :=
  .next (issue f 0x08 i e { fl := 0x1F, x := 0xFF } true (fun s x =>
    if unitsDone s f x (i.fl.extractLsb' 0 5) (i.x.extractLsb' 0 8) then
      .done (advance (waitRaces (i.fl.extractLsb' 0 5) (i.x.extractLsb' 0 8) x)) else .stall) s)

/-- A facet control register (Table 05-4); `cycle` stands for `FCSR_CYCLE`, which varies with timing (R171). -/
def fcsr (s : State) (f : Fin 96) (x : Facet) (cycle : W64) : Nat → Option W64
  | 0 => some (BitVec.ofNat 64 (f.val + 256 * (f.val % 8) + 4096 * (f.val / 8)))
  | 1 => some (match x.sector with
      | some k => BitVec.ofNat 64 (k.val + 4)
      | none => 0)
  | 2 => some x.step
  | 3 => some x.seed
  | 4 => some (now s)
  | 5 => some cycle
  | 6 => some x.err
  | 7 => some (x.halt.zeroExtend 64)
  | 8 => some (x.eccArr ++ x.eccSpm)
  | 9 => some (x.tokDrop.zeroExtend 64)
  | _ => none

/-- `FCSR_CYCLE` when it is read: the value last read and the cycles since, which vary with timing (R171, log 3). -/
def cycleNow (s : State) (x : Facet) : W64 := x.cycle + BitVec.ofNat 64 (Config.freeNat s.freeIx)

/-- `CSRR` (R136): reads a facet control register into sD; an unknown number raises FE_OPERAND. A read of `FCSR_CYCLE` takes
a free number of cycles since the last (log 3), and the register holds the sum. -/
def execCsrr (f : Fin 96) (i : Ins) (e : Ecc) (s : State) : Host.Outcome State Fault Refusal :=
  let c := (i.imm.extractLsb' 0 12).toNat
  let t := issue f 0x09 i e { d := .s, imm := 0xFFF } true (fun s x =>
    match fcsr s f x (cycleNow s x) c with
    | some v => .done (advance { setS x i.d v with cycle := if c = 5 then v else x.cycle })
    | none => .error feOperand 0) s
  .next (if c = 5 ∧ fetches s.facets[f] 0x09 i e then { t with freeIx := t.freeIx + 1 } else t)

/-- `TDSETA` (R149): bits [63:0] of tD. -/
def execTdseta (f : Fin 96) (i : Ins) (e : Ecc) (s : State) : Host.Outcome State Fault Refusal :=
  .next (issue f 0x0A i e { d := .t, imm := 0xFFFFFFFFFFFFFFFF } true (fun _ x =>
    .done (advance (setT x i.d ((tReg x i.d).extractLsb' 64 64 ++ i.imm)))) s)

/-- `TDSETM` (R149): bits [127:64] of tD. -/
def execTdsetm (f : Fin 96) (i : Ins) (e : Ecc) (s : State) : Host.Outcome State Fault Refusal :=
  .next (issue f 0x0B i e { d := .t, imm := 0xFFFFFFFFFFFFFFFF } true (fun _ x =>
    .done (advance (setT x i.d (i.imm ++ (tReg x i.d).extractLsb' 0 64)))) s)

/-- `TDADD` (R149): sA is added to `BASE`, and sB to `SCALE_BASE` when `USEB` is 1; each sum wraps at 2^24. -/
def execTdadd (f : Fin 96) (i : Ins) (e : Ecc) (s : State) : Host.Outcome State Fault Refusal :=
  .next (issue f 0x0C i e (if i.fl.getLsbD 0 then { fl := 1, d := .t, a := .s, b := .s } else { fl := 1, d := .t, a := .s })
    true (fun _ x =>
      let td := tReg x i.d
      let base := td.extractLsb' 0 24 + (sReg x i.a).extractLsb' 0 24
      let sb := td.extractLsb' 24 24 + (if i.fl.getLsbD 0 then (sReg x i.b).extractLsb' 0 24 else 0)
      .done (advance (setT x i.d (td.extractLsb' 48 80 ++ sb ++ base)))) s)

/-! ### Sequencer instructions of the other units -/

/-- `DMA.STAT` (R164): sD takes the sticky status and the outstanding count of a tag, and the status becomes OK. -/
def execDmaStat (f : Fin 96) (i : Ins) (e : Ecc) (s : State) : Host.Outcome State Fault Refusal :=
  .next (issue f 0x46 i e { d := .s, x := 7 } true (fun _ x =>
    let k : Fin 8 := finOf (i.x.extractLsb' 0 3).toNat
    let g := x.tags[k]
    .done (advance { setS x i.d (BitVec.ofNat 64 (g.sticky.toNat + 65536 * (g.outstanding % 65536))) with
                     tags := vupd x.tags k fun t => { t with sticky := 0 } })) s)

/-- `TOK.RECV` (R166): stalls until the channel holds a token, then moves the oldest into sD. -/
def execTokRecv (f : Fin 96) (i : Ins) (e : Ecc) (s : State) : Host.Outcome State Fault Refusal :=
  .next (issue f 0x51 i e { d := .s, x := 0xF } true (fun _ x =>
    let k : Fin 16 := finOf (i.x.extractLsb' 0 4).toNat
    match x.chans[k] with
    | [] => .stall
    | v :: vs => .done (advance (recvRaces k { setS x i.d v with chans := vupd x.chans k fun _ => vs }))) s)

/-- `TOK.POLL` (R166): sD becomes the number of tokens that wait on the channel. -/
def execTokPoll (f : Fin 96) (i : Ins) (e : Ecc) (s : State) : Host.Outcome State Fault Refusal :=
  .next (issue f 0x52 i e { d := .s, x := 0xF } true (fun _ x =>
    let k : Fin 16 := finOf (i.x.extractLsb' 0 4).toNat
    .done (advance (setS x i.d (BitVec.ofNat 64 (x.chans[k]).length)))) s)

/-- No earlier `ACC.DRAIN` or `VE.ST` is unfinished (R169 item 6). -/
def noDrains (x : Facet) : Bool := x.accQ.all (fun q => (drainTd q).isNone) && x.veQ.all fun q => (drainTd q).isNone

/-- The bytes of a tensor-statistics record (Table 08-6). -/
def statBytes (r : StatRec) : List Byte :=
  layout 256 [(0x00, leBytes 4 (r.tensorId.toNat + 16777216 * bit r.mixed + 33554432 * bit r.valid)),
    (0x04, [r.fmt.zeroExtend 8, r.scaleMin, r.scaleMax, 0]), (0x08, leBytes 4 r.tiles.toNat), (0x0C, leBytes 4 r.amax.toNat),
    (0x10, leBytes 8 r.elements.toNat), (0x18, leBytes 4 r.zeros.toNat), (0x1C, leBytes 4 r.flushed.toNat),
    (0x20, leBytes 4 r.saturated.toNat), (0x24, leBytes 4 r.nan.toNat), (0x28, leBytes 4 r.inf.toNat),
    (0x40, (vlist r.hist).flatMap fun h => leBytes 4 h.toNat)]

/-- `STAT.CLR` (R168): zeroes a statistics slot. -/
def execStatClr (f : Fin 96) (i : Ins) (e : Ecc) (s : State) : Host.Outcome State Fault Refusal :=
  .next (issue f 0x60 i e { x := 0xF } true (fun _ x =>
    if noDrains x then
      .done (advance { x with stats := vupd x.stats (finOf (i.x.extractLsb' 0 4).toNat) fun _ => {} })
    else .stall) s)

/-- `STAT.EMIT` (R168, R233): writes the slot's record of 256 bytes at sA, a multiple of 64, and clears the slot when
`CLEAR` is set. -/
def execStatEmit (f : Fin 96) (i : Ins) (e : Ecc) (s : State) : Host.Outcome State Fault Refusal :=
  .next (issue f 0x61 i e { fl := 1, a := .s, x := 0xF } true (fun _ x =>
    let k : Fin 16 := finOf (i.x.extractLsb' 0 4).toNat
    let a := (sReg x i.a).toNat
    if a % 64 ≠ 0 ∨ spmEnd < a + 256 then .error feOperand 0
    else if noDrains x then
      let y := noteRace .seq (some x.seqNo) [(a, 256)] x.spm { x with spm := mwrite x.spm a (statBytes x.stats[k]) }
      .done (advance (if i.fl.getLsbD 0 then { y with stats := vupd y.stats k fun _ => {} } else y))
    else .stall) s)

end Sys2Proof.Machine
end

