-- ==== Sys2Proof/Machine/FwCmd.lean ====
section
/-! DEFINITION. Sys2Proof/Machine/FwCmd.lean: firmware installation and activation (R83 to R87, R122), fuses (R71, R72, R85),
debug (R92, R93), and the entropy source (R67, R68). -/

namespace Sys2Proof.Machine

/-! ### Installation -/

/-- End a sequence with an erased header (R83, R122). -/
def dropInstall (b : Bool) (s : State) : State := { s with sec := { eraseSlot b s.sec with fw := none } }

/-- The bytes of a chunk from `offset` on, split at the header area (R83). -/
def putChunk (c hdr : List Host.Cell) (offset : Nat) (bs : List Byte) : List Host.Cell × List Host.Cell :=
  (mwrite c (max offset 0x1000) (bs.drop (0x1000 - offset)), mwrite hdr offset (bs.take (0x1000 - offset)))

/-- The last chunk has arrived: the header is written, and Table 03-3 runs on the slot as it then reads (R83). On a failure the
header sector is erased again. -/
def finishInstall (h : Hdr) (b : Bool) (known : Nat) (cells hdr : List Host.Cell) (total : Nat) (s : State) : State :=
  let img := scopy cells 0 hdr 0 0x1000
  let head := slotHeader img
  match verifyImage s.sec head (slotBody b known img) with
  | some st => complete h st [] (dropInstall b s)
  | none =>
    complete h stOk (leBytes 4 total)
      { s with sec := { passSlot b (field head 8 4) (setSlot b (.written known img) s.sec) with fw := none } }

/-- A chunk in sequence (R83, R122). -/
def takeChunk (h : Hdr) (offset : Nat) (last b : Bool) (bs : List Byte) (hdr : List Host.Cell) (s : State) : State :=
  let old := slotKnown (slotOfSec s.sec b)
  let (cells, hdr) := putChunk old.2 hdr offset bs
  let total := offset + bs.length
  let known := max old.1 total
  let q : FwSeq := ⟨h.path == .net, b, total, hdr⟩
  let t := { s with sec := { setSlot b (.erased known cells) s.sec with fw := some q } }
  if last then finishInstall h b known cells hdr total t else complete h stOk (leBytes 4 total) t

/-- The fields of a chunk are in range (R122): its flags, its slot, its length and its place in the slot. -/
def chunkArg (offset flags slot : Nat) (bs : List Byte) : Bool :=
  decide (3 < flags ∨ 1 < slot) || (flags % 4 < 2 && (bs.isEmpty || decide (0x100000 < bs.length) ||
    (flags % 2 == 0 && bs.length % 4096 != 0) || decide (slotSize < offset + bs.length)))

/-- One of `FW_INSTALL`, `FW_ACTIVATE`, `FW_SVN_COMMIT` and `FUSE_BURN` is in progress (R86). -/
def fwBusy (s : State) : Bool := s.sec.fw.isSome || s.sec.burning.isSome

/-- `FW_INSTALL`'s own effect (R83, R86, R87, R122). -/
def fwInstallBody (h : Hdr) (offset flags slot : Nat) (bs : List Byte) (s : State) : State :=
  let b := slot == 1
  if chunkArg offset flags slot bs then complete h stArg [] s
  else
    match s.sec.fw with
    | some q =>
      if q.onNet != (h.path == .net) then complete h stBusy [] s
      else if 2 ≤ flags then complete h stOk (leBytes 4 q.received) (dropInstall q.slotB s)
      else if offset = 0 then complete h stBusy [] s
      else if offset ≠ q.received ∨ q.slotB ≠ b then complete h stArg [] s
      else takeChunk h offset (flags % 2 == 1) b bs q.header s
    | none =>
      if fwBusy s then complete h stBusy [] s
      else if 2 ≤ flags then complete h stState [] s
      else if offset ≠ 0 then complete h stArg [] s
      else if slotHeld b s then complete h stState [] s
      else takeChunk h 0 (flags % 2 == 1) b bs [] { s with sec := eraseSlot b s.sec }

/-- `FW_INSTALL` (R83, R122). -/
def execFwInstall (h : Hdr) (offset : BitVec 32) (flags slot : BitVec 8) (chunk : List Byte) (s : State) :
    Host.Outcome State Fault Refusal :=
  .next (runCmd catFwInstall h (fun t => fwInstallBody h offset.toNat flags.toNat slot.toNat (inBytes h chunk t) t) s)

/-! ### Activation -/

/-- Set `ACTIVE_IMAGE` and zero the failure count of `IMAGE` (R84). -/
def activate (b : Bool) (s : State) : State :=
  writeBoot (fun r => { r with activeB := b, stage := vupd r.stage 3 fun e => { e with fails := 0 } }) s

/-- `FW_ACTIVATE`'s own effect (R84, R86, R87). -/
def fwActivateBody (h : Hdr) (slot : Nat) (s : State) : State :=
  let b := slot == 1
  if 1 < slot then complete h stArg [] s
  else if fwBusy s then complete h stBusy [] s
  else if slotHeld b s || !slotPassed s.sec b then complete h stState [] s
  else complete h stOk (leBytes 1 slot) (activate b s)

/-- `FW_ACTIVATE` (R84). -/
def execFwActivate (h : Hdr) (slot : BitVec 8) (s : State) : Host.Outcome State Fault Refusal :=
  .next (runCmd catFwActivate h (fwActivateBody h slot.toNat) s)

/-- This boot has reached `READY` (R85): its stage entry reads OK, which every boot starts without. -/
def readyReached (s : State) : Bool := (s.jrn.boot.stage[(21 : Fin 22)]).status == .ok

/-- `FW_SVN_COMMIT`'s own effect (R71, R85, R86). A burn that a reset interrupts after n bits leaves an SVN between the old value
and the target in the fuses, and does not complete (log 26). A target equal to the fuse SVN does not go before the cases of E_STATE,
between which and it R85 gives no order. DESIGN CHOICE (log 95). -/
def fwSvnCommitBody (h : Hdr) (flags : Nat) (cut : Option Nat) (s : State) : State :=
  if 1 < flags then complete h stArg [] s
  else if fwBusy s then complete h stBusy [] s
  else
    match s.sec.running with
    | none => complete h stState [] s
    | some r =>
      if r.slotB ≠ s.jrn.boot.activeB ∨ readyReached s = false ∨ (slotSvn s.sec (!r.slotB) < r.svn ∧ flags = 0) then
        complete h stState [] s
      else
        let v := max s.sec.fuseSvn r.svn
        match cut with
        | some n => { s with sec := { s.sec with fuses.svn := max s.sec.fuses.svn (min v (s.sec.fuses.svn + n)), burning := some true } }
        | none => complete h stOk (leBytes 1 v) { s with sec.fuses.svn := max s.sec.fuses.svn v, sec.fuseSvn := v }

/-- `FW_SVN_COMMIT` (R85). -/
def execFwSvnCommit (h : Hdr) (flags : BitVec 8) (cut : Option Nat) (s : State) : Host.Outcome State Fault Refusal :=
  .next (runCmd catFwSvnCommit h (fwSvnCommitBody h flags.toNat cut) s)

/-! ### Tokens -/

/-- `DEBUG_UNLOCK`'s own effect (R93): the order of the checks is DEDUCED (log 9). -/
def debugUnlockBody (h : Hdr) (b : List Byte) (s : State) : State :=
  if b.length < 512 || slice b 0x11 111 != zeros 111 then complete h stArg [] s
  else if !tokenAuth 0x50334442 b s then complete h stAuth [] s
  else
    let t := { s with sec.unlocked := true }
    complete h stOk [] (extendMeas 3 (configRecord t) t)

/-- `DEBUG_UNLOCK` (R93). -/
def execDebugUnlock (h : Hdr) (token : List Byte) (s : State) : Host.Outcome State Fault Refusal :=
  .next (runCmd catDebugUnlock h (fun t => debugUnlockBody h (inBytes h token t) t) s)

/-- The fields of a `FUSE_BURN` token are out of range (R72). Operation 0, which the rule does not name, counts with those above 3.
DESIGN CHOICE (log 98). -/
def fuseArg (b : List Byte) : Bool :=
  let op := field b 0x11 1
  let slot := field b 0x12 1
  decide (b.length < 512) || decide (op < 1 ∨ 3 < op) || decide (3 < slot) || (op != 3 && slot != 0) ||
    slice b 0x13 109 != zeros 109

/-- A `FUSE_BURN` operation applies (R72). -/
def fuseApplies (op slot signer : Nat) (s : State) : Bool :=
  match op with
  | 1 => s.sec.lifecycle == 0b001
  | 2 => s.sec.lifecycle == 0b001 || s.sec.lifecycle == 0b011
  | _ => !s.sec.keyRevoked.getLsbD slot && slot != signer &&
    (match s.sec.running with
     | some r => slot != r.keySlot
     | none => true) && (List.range 4).any fun n => n != slot && !s.sec.keyRevoked.getLsbD n

/-- The fuses that an operation burns in the array (R71, R72). Operation 2 destroys the identity. -/
def burnArray (op slot : Nat) (x : Sec) : Sec :=
  match op with
  | 1 => { x with fuses.lifecycle := x.fuses.lifecycle ||| 0b010 }
  | 2 => { x with wrapBurnt := true, identDown := true, fuses.lifecycle := x.fuses.lifecycle ||| 0b110 }
  | _ => { x with fuses.keyRevoked := setBit x.fuses.keyRevoked slot true }

/-- A burn that verifies: the fuse shadow takes what the array holds (R72). -/
def burn (op slot : Nat) (x : Sec) : Sec := shadowFuses (burnArray op slot x)

/-- What a burn has done to the array when a reset interrupts it after n steps (R72): operation 2 burns the key-wrapping fuses first,
then `LIFECYCLE` bit 1 and bit 2, those that are still zero; the others burn one bit. The shadow has not changed. -/
def burnCut (op slot n : Nat) (x : Sec) : Sec :=
  let l := x.fuses.lifecycle
  if n = 0 then x
  else if op = 2 ∧ n < 3 then
    { x with wrapBurnt := true, identDown := true,
             fuses.lifecycle := if n = 1 then l else if l.getLsbD 1 then l ||| 0b110 else l ||| 0b010 }
  else burnArray op slot x

/-- `FUSE_BURN`'s own effect (R72, R86). An interrupted burn does not complete (log 26). -/
def fuseBurnBody (h : Hdr) (b : List Byte) (cut : Option Nat) (s : State) : State :=
  let op := field b 0x11 1
  let slot := field b 0x12 1
  if fuseArg b then complete h stArg [] s
  else if fwBusy s then complete h stBusy [] s
  else if !tokenAuth 0x50334655 b s then complete h stAuth [] s
  else if !fuseApplies op slot (field b 0x10 1) s then complete h stState [] s
  else
    match cut with
    | some n => { s with sec := { burnCut op slot n s.sec with burning := some false } }
    | none =>
      let t := { s with sec := burn op slot s.sec }
      complete h stOk (leBytes 1 t.sec.lifecycle.toNat ++ leBytes 1 t.sec.keyRevoked.toNat) t

/-- `FUSE_BURN` (R72). -/
def execFuseBurn (h : Hdr) (token : List Byte) (cut : Option Nat) (s : State) : Host.Outcome State Fault Refusal :=
  .next (runCmd catFuseBurn h (fun t => fuseBurnBody h (inBytes h token t) cut t) s)

/-! ### Debug port -/

/-- `JTAG_TAP_ACCESS` (R92, R93): `IDCODE` and `BYPASS` always; an operation on Apex only under full access, and the spec does
not say what it does there. -/
def execJtagTapAccess (op : TapOp) (s : State) : Host.Outcome State Fault Refusal :=
  match op with
  | .idcode => .next (if secRuns s then emit (.tap Config.idcode) s else s)
  | .bypass => .next s
  | .apex _ => if fullAccess s then .fault .apexDebug else .next s

/-! ### Entropy -/

/-- One failure of a health test (R68): the third consecutive one makes entropy unavailable until the next module reset. -/
def healthFailure (x : Sec) : Sec := { x with entFails := x.entFails + 1, entDown := x.entDown || decide (3 ≤ x.entFails + 1) }

/-- The start-up tests that follow a failure, oldest first (R68): the noise source restarts before each; a test that fails is a
further consecutive failure, and one that passes ends the run. -/
def runStartups : List (List Byte) → Sec → Sec
  | [], x => x
  | b :: bs, x =>
    if x.entDown then x
    else if startupPasses b then { x with entFails := 0 }
    else runStartups bs (healthFailure x)

/-- `ENTROPY_HEALTH_FAIL` (R68): SEC discards the sample block, so no seeding uses it, restarts the noise source and repeats the
start-up test. `startups` are the samples of the start-up tests that follow; where none of them passes and fewer than three failures
have come, the next start-up test is still to run. -/
def execEntropyHealthFail (s : State) (startups : List (List (BitVec 8)) := []) : Host.Outcome State Fault Refusal :=
  .next (if secRuns s then { s with sec := runStartups startups (healthFailure s.sec) } else s)

/-- Requests to the DRBG between reseeds (R67). -/
def reseedAfter : Nat := 65536

/-- `DRBG_RESEED` (R67): the source has passed its health tests, so failures before it are no longer consecutive. -/
def execDrbgReseed (s : State) : Host.Outcome State Fault Refusal :=
  .next (
    if secRuns s && !s.sec.entDown && decide (reseedAfter ≤ s.sec.drbgReqs) then
      { s with sec := { reseedDrbg s.sec with entFails := 0 } }
    else s)

end Sys2Proof.Machine
end

