-- ==== Sys2Proof/Machine/HealthCmd.lean ====
section
/-! DEFINITION. Sys2Proof/Machine/HealthCmd.lean: the score and its seconds (R444 to R447), expulsion (R456 to R458), fault
rehearsal (R467 to R469), and the health commands (R448, R451, R470, R472). -/

namespace Sys2Proof.Machine

/-! ### Periodic work -/

/-- `SCORE_UPDATE` (R445). -/
def execScoreUpdate (s : State) : Host.Outcome State Fault Refusal :=
  .next (if answering s then publishScore s else s)

/-- `HEALTH_SECOND` (R445, R447, R457): a powered second passes while Varlux runs. -/
def execHealthSecond (s : State) : Host.Outcome State Fault Refusal :=
  .next (
    if varluxRuns s then
      let x := s.jrn.hst
      let c := s.jrn.hcfg
      let low := s.health.published && decide (s.health.score < c.threshold ∧ 250 ≤ s.health.conf)
      let high := s.health.published && decide (c.threshold + c.hysteresis ≤ s.health.score)
      let x := { x with
        obsS := min 86400 (x.obsS + 1), belowS := if low then x.belowS + 1 else 0, aboveS := if high then x.aboveS + 1 else 0,
        windowEl := x.windowEl + 1, bucketEl := x.bucketEl + 1 }
      let t := { s with jrn.hst := x }
      if c.dwellS ≤ x.belowS then changeReplace true t
      else if c.dwellS ≤ x.aboveS && !s.health.expelled then changeReplace false t
      else t
    else s)

/-- `EVIDENCE_BUCKET_CHANGE` (R444, R446): the oldest bucket is cleared and becomes the current one; what R450 counts in it
goes with it. -/
def execEvidenceBucketChange (s : State) : Host.Outcome State Fault Refusal :=
  .next (
    if 3600 ≤ s.jrn.hst.bucketEl then
      let b := (s.jrn.hst.bucket + 1) % 24
      let old := fun (e : Nat × Nat) => e.2 != b
      writeHst { s with
        jrn.hst := { s.jrn.hst with
          bucket := b, bucketEl := 0, counts := s.jrn.hst.counts.filter fun e => e.1 / 12 != b },
        health.colEvents := s.health.colEvents.filter old,
        mem.pairUnc := s.mem.pairUnc.filter old, mem.pairExh := s.mem.pairExh.filter old }
    else s)

/-- `BUDGET_WINDOW_EXPIRY` (R457). -/
def execBudgetWindowExpiry (s : State) : Host.Outcome State Fault Refusal :=
  .next (
    if s.jrn.hcfg.windowS ≤ s.jrn.hst.windowEl then
      writeHst { s with jrn.hst := { s.jrn.hst with budgetUsed := 0, windowEl := 0 } }
    else s)

/-- `EXPULSION_EFFECT` (R458): a granted expulsion takes effect once no step of any job is armed. -/
def execExpulsionEffect (s : State) : Host.Outcome State Fault Refusal :=
  .next (
    if s.health.granted ∧ s.phase = .ready ∧ !s.jobs.any armed then
      settleSideband (changeReplace true (logHealth 0x07 0 0 0 { s with health.granted := false, health.expelled := true }))
    else s)

/-! ### Fault rehearsal -/

/-- At least one group is joined. -/
def anyGroup (s : State) : Bool := !s.jobs.isEmpty || !s.regions.isEmpty || !s.flash.copies.isEmpty

/-- Lowest free granule of a Prism. -/
def probeGranule (s : State) (n : Fin 4) : Option Nat := (freeGranules s).find? fun g => prismOf g == n

/-- Partners of every binding, with their job. -/
def boundPartners (s : State) : List (W32 × W16) :=
  s.jobs.flatMap fun j => match j.binding with
    | some b => b.partners.map fun p => (j.id, p.rank)
    | none => []

/-- The job in a sector whose armed step a STEP_ABORT would abort: rank 0 of at least 64 members (Table 16-7). -/
def rehearsalJob (s : State) (k : Fin 4) : Option Job :=
  s.jobs.find? fun j => j.phase == .opened && j.sector == k && (stepOf j).isSome && match j.layout with
    | some l => l.rank == 0 && decide (64 ≤ l.members.length)
    | none => false

/-- The condition of an injection on its target holds (Table 16-7). `target` is the port, link, Prism, facet, or, for
STEP_ABORT, the sector (DESIGN CHOICE, log 11). -/
def injectable (s : State) (b : Fin 9) (target : Nat) : Bool :=
  match b.val with
  | 0 => decide (target < 2) && (fins 2).all (mgmtUp s) && anyGroup s
  | 1 =>
    decide (target < 8) && portUp s (finOf target) &&
    let w := modPort (finOf target) (fun x => { x with withdrawn := true }) s
    w.jobs.all fun j => match j.layout with
      | some lay => (peers lay).all fun p => decide (2 ≤ (commonPorts w j p).length)
      | none => true
  | 2 => decide (target < 9) && s.d2d.working[(finOf target : Fin 9)] == (if target < 5 then 4 else 2)
  | 3 => decide (target < 4) && (probeGranule s (finOf target)).isSome
  | 4 => decide (target < 4) && (probeGranule s (finOf target)).isSome
  | 5 => decide (target < 96) && (columnSector s (facetCol (finOf target))).isNone &&
      !s.health.columns.getLsbD (facetCol (finOf target))
  | 6 => !(boundPartners s).isEmpty && !s.jobs.any armed && s.jobs.all fun j => j.snap.isNone
  | 7 => !(boundPartners s).isEmpty
  | _ => decide (target < 4) && (rehearsalJob s (finOf target)).isSome

/-- Run an injection's own errors without counting them as evidence (R443). -/
def uncounted (g : State → State) (s : State) : State :=
  let t := g s
  { t with jrn.hst.counts := s.jrn.hst.counts, health.bootEvents := s.health.bootEvents, mem.pairUnc := s.mem.pairUnc,
           mem.pairExh := s.mem.pairExh }

/-- What an injection does when it starts (Table 16-7). The symbol and the error of MEM_CORRECT are free values (log 3). -/
def inject (b : Fin 9) (target : Nat) (s : State) : State :=
  match b.val with
  | 0 => { s with mgmt.ports := vupd s.mgmt.ports (finOf target) fun x => { x with silent := true } }
  | 1 => modPort (finOf target) (fun x => { x with withdrawn := true }) s
  | 2 => counter 0 64 { s with d2d.replays := s.d2d.replays + 64 }
  | 3 =>
    match probeGranule s (finOf target) with
    | some g =>
      let (x, t) := freeVal s
      let k := g * 2 ^ 25
      let t := zeroRange (32 * k) 2097152 t
      uncounted (fun t => (readSector rqVarlux k t).1)
        { t with mem.errs := t.mem.errs ++ [⟨k, finOf x, BitVec.ofNat 8 (1 + x / 36 % 255), false⟩] }
    | none => s
  | 4 =>
    match probeGranule s (finOf target) with
    | some g =>
      let k := g * 2 ^ 25
      let t := zeroRange (32 * k) 2097152 s
      let t := uncounted (fun t => (readSector rqVarlux k { t with mem := putPoison t.mem k }).1) t
      { t with mem := putSector t.mem k (zeros 32) }
    | none => s
  | 5 => modFacet (finOf target) (fun x => { x with eccSpm := x.eccSpm + 1 }) s
  | 6 => (boundPartners s).foldl (fun t p => sendRequest p.1 p.2 false mopFetchReq (beBytes 8 0) t) s
  | 7 => (boundPartners s).foldl (fun t p => sendRequest p.1 p.2 true mopFetchReq (beBytes 8 0) t) s
  | _ =>
    match rehearsalJob s (finOf target) with
    | some j => abortStep j.id cauCommand none 0xFFFF s
    | none => s

/-- `REHEARSAL_INJECTION` (R467): at the due time one enabled class whose condition holds starts. -/
def execRehearsalInjection (bit : Fin 9) (target : BitVec 16) (s : State) : Host.Outcome State Fault Refusal :=
  .next (
    if s.jrn.hcfg.rehEnable && s.jrn.hcfg.mask.getLsbD bit.val && s.phase == .ready && !s.health.expelled &&
        s.health.injection.isNone && s.sec.fw.isNone && s.sec.burning != some true && injectable s bit target.toNat then
      inject bit target.toNat (counter 17 1 { s with health.injection := some (bit.val, target, now s) })
    else s)

/-- `REHEARSAL_INJECTION_END` (R468). -/
def execRehearsalInjectionEnd (passed : Bool) (s : State) : Host.Outcome State Fault Refusal :=
  .next (endInjection (if passed then 0 else 1) s)

/-! ### Commands -/

/-- `HEALTH_READ` (R472). -/
def healthReadBody (h : Hdr) (s : State) : State :=
  answer h stOk true (leBytes 2 s.health.score ++ leBytes 2 s.health.conf ++ leBytes 4 4096) (healthRecord s) s

def execHealthRead (h : Hdr) (s : State) : Host.Outcome State Fault Refusal :=
  .next (runCmd catHealthRead h (healthReadBody h) s)

/-- A field whose bits are all ones leaves its setting unchanged (R448). -/
def keepField {w : Nat} (v : BitVec w) (old : Nat) : Nat := if v = BitVec.allOnes w then old else v.toNat

/-- The effect of `HEALTH_CONFIG` (R448). The proposal is evaluated again (R456). -/
def healthConfigBody (h : Hdr) (threshold hysteresis : W16) (dwell : W32) (budget : W16) (window : W32) (s : State) : State :=
  let c := s.jrn.hcfg
  let th := keepField threshold c.threshold
  let hy := keepField hysteresis c.hysteresis
  let dw := keepField dwell c.dwellS
  let bu := keepField budget c.budget
  let wi := keepField window c.windowS
  if 1000 < th ∨ 500 < hy ∨ 1000 < th + hy ∨ dw < 1 ∨ 604800 < dw ∨ 65534 < bu ∨ wi < 60 ∨ 2592000 < wi then
    complete h stArg [] s
  else
    let t := writeHcfg (fun r => { r with threshold := th, hysteresis := hy, dwellS := dw, budget := bu, windowS := wi }) s
    let t := if th ≠ c.threshold ∨ hy ≠ c.hysteresis then
        { t with jrn.hst := { t.jrn.hst with belowS := 0, aboveS := 0 } }
      else t
    evalProposal (complete h stOk [] t)

/-- `HEALTH_CONFIG` (R448). -/
def execHealthConfig (h : Hdr) (threshold hysteresis : BitVec 16) (dwell : BitVec 32) (budget : BitVec 16)
    (window : BitVec 32) (s : State) : Host.Outcome State Fault Refusal :=
  .next (runCmd catHealthConfig h (healthConfigBody h threshold hysteresis dwell budget window) s)

/-- Units of each kind (Table 16-4). -/
def unitCount (unit : Nat) : Nat :=
  match unit with
  | 0 => 12
  | 1 => 32
  | 2 => 4
  | 3 => 8
  | 4 => 2
  | _ => 0

/-- The fence map holds a persistent fence of a unit, pending and self-test fences among them (R451). -/
def persistent (m : FenceMap) (unit ix : Nat) : Bool :=
  match unit with
  | 0 => m.columns.getLsbD ix || m.selftest.getLsbD ix
  | 1 => m.pairs.getLsbD ix || m.pending.getLsbD ix
  | 2 => m.prisms.getLsbD ix
  | 3 => m.fabric.getLsbD ix
  | _ => m.mgmt.getLsbD ix

/-- Mark a unit's fences to be lifted (R451). -/
def markLift (unit ix : Nat) (s : State) : State :=
  logHealth 0x02 unit ix 0 (writeFence (fun m => match unit with
    | 0 => { m with liftColumns := setBit m.liftColumns ix true }
    | 1 => { m with liftPairs := setBit m.liftPairs ix true }
    | 2 => { m with liftPrisms := setBit m.liftPrisms ix true }
    | 3 => { m with liftFabric := setBit m.liftFabric ix true }
    | _ => { m with liftMgmt := setBit m.liftMgmt ix true }) s)

/-- The effect of `UNIT_FENCE` (R451). -/
def unitFenceBody (h : Hdr) (unit index action : Nat) (s : State) : State :=
  let finish := fun (t : State) => complete h stOk (leBytes 4 (fencedCount t)) t
  if 4 < unit ∨ unitCount unit ≤ index ∨ 1 < action then complete h stArg [] s
  else if action = 0 then
    if floorUnits s && !floorUnits (setFenced unit index s) then complete h stBelowFloor [] s
    else finish (recordFence unit index (fenceUnit unit index s))
  else finish (if persistent s.jrn.fence unit index then markLift unit index s else s)

/-- `UNIT_FENCE` (R451). -/
def execUnitFence (h : Hdr) (unit index action : BitVec 8) (s : State) : Host.Outcome State Fault Refusal :=
  .next (runCmd catUnitFence h (unitFenceBody h unit.toNat index.toNat action.toNat) s)

/-- The effect of `REHEARSAL_CONFIG` (R469). -/
def rehearsalConfigBody (h : Hdr) (flags : Byte) (period : W32) (mask : W64) (s : State) : State :=
  let en := flags.getLsbD 0
  if 2 ≤ flags.toNat ∨ 512 ≤ mask.toNat ∨ (en ∧ (period.toNat < 60 ∨ 604800 < period.toNat)) then complete h stArg [] s
  else
    let t := writeHcfg (fun r => { r with rehEnable := en, periodS := period.toNat, mask := mask.truncate 9 }) s
    complete h stOk [] (if en then t else endInjection 2 t)

/-- `REHEARSAL_CONFIG` (R469). -/
def execRehearsalConfig (h : Hdr) (flags : BitVec 8) (period : BitVec 32) (mask : BitVec 64) (s : State) :
    Host.Outcome State Fault Refusal :=
  .next (runCmd catRehearsalConfig h (rehearsalConfigBody h flags period mask) s)

/-- The status with which a diagnostic does not run (R470, Table 16-8, Table 16-9). -/
def diagStatus (test unit index : Nat) (s : State) : Option W16 :=
  if !(([(1, 0), (2, 2), (3, 3), (4, 4)] : List (Nat × Nat)).contains (test, unit)) ∨ unitCount unit ≤ index then some stArg
  else
    match test with
    | 1 => if (columnSector s index).isSome ∨ s.jrn.hcfg.rehEnable then some stBusy else none
    | 2 =>
      if s.jrn.hcfg.rehEnable then some stBusy
      else if (probeGranule s (finOf index)).isNone then some stState
      else none
    | 3 =>
      if (s.fabric.ports[(finOf index : Fin 8)]).addr ≠ 0 ∧ !s.health.fabric.getLsbD index then some stState else none
    | _ => none

/-- The effect of `DIAG_RUN` (R470): the test's outcome and duration are the command's operands. The granule of test 0x0002
is left zero-filled (log 11). -/
def diagRunBody (h : Hdr) (test unit index : Nat) (result duration : W32) (s : State) : State :=
  match diagStatus test unit index s with
  | some st => complete h st [] s
  | none =>
    let t := match test, probeGranule s (finOf index) with
      | 2, some g => zeroRange (g * 2 ^ 30) (2 ^ 30) s
      | _, _ => s
    complete h stOk (leBytes 4 result.toNat ++ leBytes 4 duration.toNat) t

/-- `DIAG_RUN` (R470). -/
def execDiagRun (h : Hdr) (testId : BitVec 16) (unit index : BitVec 8) (result duration : BitVec 32) (s : State) :
    Host.Outcome State Fault Refusal :=
  .next (runCmd catDiagRun h (diagRunBody h testId.toNat unit.toNat index.toNat result duration) s)

end Sys2Proof.Machine
end

