-- ==== Sys2Proof/Machine/HostCmd.lean ====
section
/-! DEFINITION. Sys2Proof/Machine/HostCmd.lean: the host link and its events (R34, R113), the writes of BAR0 and of the device
register window (R10, R97 to R103, R110 to R112), and the telemetry shadow (R102). -/

namespace Sys2Proof.Machine

/-! ### The host link -/

/-- The boot has ended: ready, below the floor, or in recovery mode (R34, R61). -/
def bootEnded (s : State) : Bool := answering s || s.phase == .recovery

/-- `HOST_LINK_UP` (R34): the port trains after the start of the boot, and again after an event. -/
def execHostLinkUp (s : State) : Host.Outcome State Fault Refusal :=
  .next (if apexRuns s then { s with mbx.link := .l0 } else s)

/-- t_CFG_READY max in microseconds (Table 01-10). -/
def cfgReadyMax : Nat := 200000

/-- A register of the CXL DVSEC range that reports the host window (R296): [0] Memory_Info_Valid, [1] `Memory_Active`, [15:13]
`Memory_Active_Timeout` and the size from bit 28 on, as CXL 3.1 lays them out (log 94). PRESUMED. -/
def cfgRead (r : CfgReg) (s : State) : Option W32 :=
  let size := s.mem.hdmSize * 2 ^ 30
  match r with
  | .rangeSizeHigh => some (BitVec.ofNat 32 (size / 2 ^ 32))
  | .rangeSizeLow =>
    let code := if s.mbx.memTimeoutS = 1 then 0 else if s.mbx.memTimeoutS = 4 then 1 else if s.mbx.memTimeoutS = 16 then 2
      else if s.mbx.memTimeoutS = 64 then 3 else 4
    some (BitVec.ofNat 32 (bit s.mbx.memActive + 2 * bit s.mbx.memActive + 8192 * code + size % 2 ^ 32 / 2 ^ 28 * 2 ^ 28))
  | .doeRead => none
  | .other => none

/-- What a configuration access of the host does: it takes the response that waits in the DOE mailbox (R91; log 96). -/
def cfgAct (r : CfgReg) (s : State) : State := if r = .doeRead then { s with sec.doeWaits := false } else s

/-- `CXL_CONFIG_REQUEST` (R34): retry status until t_CFG_READY after the start of the boot, whose moment up to its max is a free
value (log 3). -/
def execCxlConfigRequest (s : State) (r : CfgReg := .other) : Host.Outcome State Fault Refusal :=
  .next (
    if s.mbx.link ≠ .l0 then s
    else if s.mbx.cfgReady || bootEnded s || decide (cfgReadyMax ≤ (now s).toNat - s.jrn.boot.bootPtime.toNat) then
      emit (.config false (cfgRead r s)) (cfgAct r { s with mbx.cfgReady := true })
    else
      let (v, t) := freeVal s
      if v % 2 = 1 then emit (.config false (cfgRead r s)) (cfgAct r { t with mbx.cfgReady := true }) else emit (.config true none) t)

/-- A ring pair at a host-port event (R113): its registers return to their reset values, its completions are discarded, and its
commands run on. -/
def quiesceRing (r : Ring) : Ring :=
  let done := (r.waiting.filter fun c => c.final).foldl (fun o c => dropTag c.owner c.tag o) r.outstanding
  { outstanding := done.map fun w => { w with discard := true } }

/-- A host-port event (R34, R91, R99, R113): fields that the host sets, `OPEN` and the rings return to reset; an installation that
came through the mailbox ends. -/
def hostEvent (s : State) : State :=
  let t := { s with mbx := { s.mbx with
    isOpen := false, minor := 0, eventEn := 0, eventVec := 0, rings := vmap s.mbx.rings fun _ r => quiesceRing r, rr := 0,
    msix := Vector.replicate 16 {}, pba := 0 }, sec := { s.sec with spdm := 0, talkA := [], talkB := [], talkL := [], doeWaits := false } }
  match t.sec.fw with
  | some q => if q.onNet then t else dropInstall q.slotB t
  | none => t

/-- The link leaves L0: no line of host-managed memory stays with the host (R298). -/
def linkLost (s : State) : State := { s with mbx.link := .detect, mem.snoop := [], mem.bisnp := [], mem.snooped := [] }

/-- `FUNCTION_LEVEL_RESET` (R113). -/
def execFunctionLevelReset (s : State) : Host.Outcome State Fault Refusal :=
  .next (if s.mbx.link = .l0 then hostEvent s else s)

/-- `HOT_RESET` (R34): the port trains again afterwards. -/
def execHotReset (s : State) : Host.Outcome State Fault Refusal :=
  .next (if s.mbx.link = .l0 then linkLost (hostEvent s) else s)

/-- `HOST_LINK_DOWN` (R34). -/
def execHostLinkDown (s : State) : Host.Outcome State Fault Refusal :=
  .next (if s.mbx.link = .l0 then linkLost (hostEvent s) else s)

/-! ### Rings and doorbells -/

/-- The host reaches BAR0. -/
def hostReach (s : State) : Bool := s.mbx.link == .l0

/-- The error of a write of `EN` = 1 (R111). -/
def enableErr (n : Fin 8) (r : Ring) (isOpen : Bool) : Option (BitVec 3) :=
  if r.sqLog2.toNat < 4 ∨ 12 < r.sqLog2.toNat ∨ r.cqLog2.toNat < 4 ∨ 12 < r.cqLog2.toNat then some 0b001
  else if r.cqLog2.toNat < r.sqLog2.toNat then some 0b010
  else if n ≠ 0 ∧ !isOpen then some 0b101
  else none

/-- A ring as it is enabled: its indices start from zero and `PHASE` from 1 (R106, R110). -/
def enableRing (r : Ring) : Ring :=
  { r with en := true, sqHead := 0, tail := 0, cqHead := 0, cqTail := 0, phase := true, unconsumed := 0 }

/-- A write of `RING_CTRL` (R111, R112). -/
def writeRingCtrl (n : Fin 8) (v : W32) (s : State) : State :=
  let r := s.mbx.rings[n]
  let t := modRing n (fun r => { r with intrEn := v.getLsbD 1, vector := v.extractLsb' 4 4 }) s
  if !v.getLsbD 0 then modRing n (fun r => { r with en := false, err := 0 }) t
  else if r.en then t
  else
    match enableErr n r s.mbx.isOpen with
    | some c => ringError n c t
    | none => modRing n enableRing t

/-- `RING_CTRL_WRITE` (R111). -/
def execRingCtrlWrite (n : Fin 8) (v : BitVec 32) (s : State) : Host.Outcome State Fault Refusal :=
  .next (if hostReach s then writeRingCtrl n v s else s)

/-- A write of `RING_SQ_TAIL` (R101, R111). -/
def writeSqTail (n : Fin 8) (v : W32) (s : State) : State :=
  let r := s.mbx.rings[n]
  let tail := v.toNat % 4096
  if !r.en then s
  else if 2 ^ r.sqLog2.toNat ≤ tail then ringError n 0b011 s
  else modRing n (fun r => { r with tail := tail }) s

/-- `RING_SQ_TAIL` (R101). -/
def execRingSqTail (n : Fin 8) (v : BitVec 32) (s : State) : Host.Outcome State Fault Refusal :=
  .next (if hostReach s then writeSqTail n v s else s)

/-- Slots that a write of `RING_CQ_HEAD` releases (R110). -/
def released (r : Ring) (head : Nat) : Nat :=
  let d := (head + cqSlots r - r.cqHead % cqSlots r) % cqSlots r
  if d = 0 ∧ r.unconsumed = cqSlots r then cqSlots r else d

/-- A write of `RING_CQ_HEAD` (R101, R110): waiting completions are written into the slots it releases. -/
def writeCqHead (n : Fin 8) (v : W32) (s : State) : State :=
  let r := s.mbx.rings[n]
  if !(r.en || ringRunning r) then s
  else
    let head := v.toNat % 4096
    let t := modRing n (fun r => { r with cqHead := head, unconsumed := r.unconsumed - released r head }) s
    flushRing r.waiting.length n t

/-- `RING_CQ_HEAD` (R110). -/
def execRingCqHead (n : Fin 8) (v : BitVec 32) (s : State) : Host.Outcome State Fault Refusal :=
  .next (if hostReach s then writeCqHead n v s else s)

/-- `MBX_EVENT_EN_WRITE` (R103). -/
def execMbxEventEnWrite (v : BitVec 32) (s : State) : Host.Outcome State Fault Refusal :=
  .next (if hostReach s then setEvents s.mbx.event (v.truncate 7) s else s)

/-! ### Other registers -/

/-- A write of a base or size register of a ring (R100): only while `EN` and `RUNNING` are both 0. -/
def writeRingBase (n : Fin 8) (o : Nat) (v : W32) (s : State) : State :=
  let r := s.mbx.rings[n]
  let lo := (v &&& 0xFFFFF000 : W32)
  if r.en || ringRunning r then s
  else
    modRing n (fun r => match o with
      | 0x00 => { r with sqBase := r.sqBase.extractLsb' 32 32 ++ lo }
      | 0x04 => { r with sqBase := v ++ r.sqBase.extractLsb' 0 32 }
      | 0x08 => { r with cqBase := r.cqBase.extractLsb' 32 32 ++ lo }
      | 0x0C => { r with cqBase := v ++ r.cqBase.extractLsb' 0 32 }
      | 0x10 => { r with sqLog2 := v.extractLsb' 0 4, cqLog2 := v.extractLsb' 4 4 }
      | _ => r) s

/-- A write of an MSI-X table word (R97; log 8): unmasking a vector whose message is pending sends it. -/
def writeMsix (k : Fin 16) (o : Nat) (v : W32) (s : State) : State :=
  let t := { s with mbx.msix := vupd s.mbx.msix k fun e => match o with
    | 0 => { e with addrLo := v }
    | 4 => { e with addrHi := v }
    | 8 => { e with data := v }
    | _ => { e with ctrl := v &&& 1 } }
  if o = 12 ∧ !v.getLsbD 0 ∧ s.mbx.pba.getLsbD k.val then
    emit (.msix (BitVec.ofFin k)) { t with mbx.pba := setBit t.mbx.pba k.val false }
  else t

/-- A 32-bit write of BAR0 at an aligned offset (R97 to R101): what no register takes is ignored. -/
def bar0Write (o : Nat) (v : W32) (s : State) : State :=
  if 0x100 ≤ o ∧ o < 0x200 then
    let n : Fin 8 := finOf ((o - 0x100) / 0x20)
    if o % 0x20 = 0x14 then writeRingCtrl n v s else if o % 0x20 < 0x14 then writeRingBase n (o % 0x20) v s else s
  else if 0x1000 ≤ o ∧ o < 0x1040 then
    if o % 8 = 0 then writeSqTail (finOf ((o - 0x1000) / 8)) v s else writeCqHead (finOf ((o - 0x1000) / 8)) v s
  else if 0x2000 ≤ o ∧ o < 0x2100 then writeMsix (finOf ((o - 0x2000) / 16)) (o % 16) v s
  else
    match o with
    | 0x10 => setEvents (s.mbx.event &&& ~~~ (v.truncate 7)) s.mbx.eventEn s
    | 0x14 => setEvents s.mbx.event (v.truncate 7) s
    | 0x18 => { s with mbx.eventVec := v.truncate 4 }
    | _ => s

/-- The device register window from offset 0xF000_0000_0000 on, which Apex reaches (R49, R70): the AON block takes writes, and
the fuse shadow is read-only. -/
def windowWrite (o : Nat) (v : W32) (a : Aon) : Aon :=
  match o with
  | 0x1000C => { a with srDone := a.srDone &&& ~~~ (v.truncate 4) }
  | 0x10010 => writeWdtCtrl v a
  | 0x10014 => writeWdtKick v a
  | _ => a

/-- A 32-bit read of the device register window at an offset from 0xF000_0000_0000 (R10, R49, R70): a write-only register, a reserved
bit and an offset without a register read zero. `AON_PTIME_LO` also latches `AON_PTIME_HI`, which its own command does. -/
def windowRead (o : Nat) (s : State) : W32 :=
  match o with
  | 0x10000 => s.aon.ptime.truncate 32
  | 0x10004 => s.aon.ptimeHi
  | 0x10008 => BitVec.ofNat 32 (s.aon.kind.toNat + 256 * s.aon.source.toNat)
  | 0x1000C => s.aon.srDone.zeroExtend 32
  | 0x10010 => BitVec.ofNat 32 (s.aon.periodMs.toNat + 2 ^ 16 * bit s.aon.wdtEn + 2 ^ 17 * bit s.aon.expired1 + 2 ^ 18 * bit s.aon.wdtBoot)
  | 0x10014 => 0
  | _ => if 0x20000 ≤ o ∧ o < 0x200A0 ∧ o % 4 = 0 then fuseReg s.sec (o - 0x20000) else 0

/-- `REGISTER_WRITE` (R10, R98): a naturally aligned 32-bit write; the MSI-X table also takes an aligned 64-bit one. Any other
size is ignored. -/
def execRegisterWrite (off : BitVec 48) (size : Nat) (v : BitVec 64) (s : State) : Host.Outcome State Fault Refusal :=
  .next (
    let o := off.toNat
    if 0xF00000000000 ≤ o then
      if apexRuns s ∧ size = 4 ∧ o % 4 = 0 then { s with aon := windowWrite (o - 0xF00000000000) (v.truncate 32) s.aon } else s
    else if !hostReach s then s
    else if size = 4 ∧ o % 4 = 0 then bar0Write o (v.truncate 32) s
    else if size = 8 ∧ o % 8 = 0 ∧ 0x2000 ≤ o ∧ o < 0x2100 then
      bar0Write (o + 4) ((v >>> 32).truncate 32) (bar0Write o (v.truncate 32) s)
    else s)

/-! ### Telemetry -/

/-- `TEL_PTIME_LO_READ` (R102): a 32-bit read latches the high half; a 64-bit read returns all of it. -/
def execTelPtimeLoRead (wide : Bool) (s : State) : Host.Outcome State Fault Refusal :=
  .next (
    if !hostReach s then s
    else if wide then emit (.read (now s)) s
    else emit (.read (now s &&& 0xFFFFFFFF)) { s with mbx.telPtimeHi := (now s >>> 32).truncate 32 })

/-- Last committed step of the job open in sector n; all ones: none (Table 04-5). -/
def committedStep (s : State) (n : Fin 4) : W64 :=
  match s.jobs.find? fun j => j.phase == .opened && j.sector == n with
  | some j => if j.commit.valid ∧ j.commit.step ≠ 0 then j.commit.step else 0xFFFFFFFFFFFFFFFF
  | none => 0xFFFFFFFFFFFFFFFF

/-- `TELEMETRY_UPDATE` (R102, R478): Varlux brackets the update by an odd and the next even `TEL_SEQ`. -/
def execTelemetryUpdate (powerW : BitVec 16) (s : State) : Host.Outcome State Fault Refusal :=
  .next (
    if !varluxRuns s then s
    else
      { s with mbx := { s.mbx with
        telSeq := s.mbx.telSeq + 2, telTemp := s.smb.tempMax, telPower := powerW,
        telScore := BitVec.ofNat 10 s.health.score, telConf := BitVec.ofNat 10 s.health.conf, telValid := s.health.published,
        telStep := vgen (committedStep s), telAborts := s.mbx.aborts, telSkips := s.mbx.skips } })

end Sys2Proof.Machine
end

