-- ==== Sys2Proof/Machine/JobCmd.lean ====
section
/-! DEFINITION. Sys2Proof/Machine/JobCmd.lean: opening and closing a job (R370, R440), shards (R371, R372), arming and
reporting a step (R359, R367), the rule (R373), and progress writes (R329, R397). -/

namespace Sys2Proof.Machine

/-! ### Opening -/

/-- The highest granule held by the device: that of the job records (R437); past the memory where none is held. -/
def recordGranule (s : State) : Nat :=
  match (s.owners.filter fun o => o.2 == .device).getLast? with
  | some o => o.1
  | none => memEnd / 2 ^ 30

/-- The first free entry of the warm-restart directory. -/
def freeDirEntry (s : State) : Option (Fin 4) := (fins 4).find? fun i => (s.jrn.dir.entries[i]).isNone

/-- Address of the job record of directory entry i (R437). -/
def recordDpa (s : State) (i : Fin 4) : Nat := recordGranule s * 2 ^ 30 + 2 ^ 28 * i.val

/-- Set a directory entry and write the directory (R438). -/
def setDir (i : Fin 4) (e : Option DirEntry) (s : State) : State :=
  writeDir (fun d => { d with entries := vupd d.entries i fun _ => e }) s

/-- The sector admits a job (R257). -/
def sectorOpen (k : Fin 4) (s : State) : Bool :=
  (s.sectors[k]).st != .none && (s.sectors[k]).st != .parked && !(s.sectors[k]).eval && (sectorJob s k).isNone

/-- Kept flash objects of a job join it again (R320). -/
def rejoin (job : W32) (s : State) : State :=
  { s with objs := s.objs.map fun o => if o.job = job then { o with kept := false } else o }

/-- A new job in a sector (R370). -/
def openJob (h : Hdr) (job : W32) (seed : W64) (rule : Nat) (i : Fin 4) (s : State) : State :=
  let k := secNo h
  let dpa := recordDpa s i
  let j : Job := { id := job, sector := k, seed := seed, rule := rule, recDpa := dpa }
  let t := jobControls k (rejoin job { s with jobs := s.jobs ++ [j] })
  let t := setDir i (some ⟨job, k.val, dpa⟩) t
  let t := writeJobRecord job (writeArmed job 0 0 0 (writeCommit job { bootCount := s.jrn.boot.bootCount } t))
  complete h stOk [] (settleSideband t)

/-- An entry of a job record's object table (Table 15-6): id, location, size. -/
def parseTabEntry (b : List Byte) : W64 × Nat × Nat := (BitVec.ofNat 64 (field b 0 8), field b 8 8, field b 0x10 8)

/-- The object table of a job record as its bytes give it. -/
def readObjTable (dpa : Nat) (s : State) : State × List (W64 × Nat × Nat) :=
  match readBytes rqVarlux (dpa + 0xE0) 32 s with
  | (t, some b) =>
    let n := field b 0x14 4
    (match readBytes rqVarlux (dpa + 0x2101000) (roundUp n 32) t with
     | (u, some bs) => (u, (pieces 32 (n / 32) bs).map parseTabEntry)
     | (u, none) => (u, []))
  | (t, none) => (t, [])

/-- Reinstate an object of a preserved job (R320, R440): one with a flash backing takes up its LPDDR6 place again with
every extent dirty. -/
def reinstate (job : W32) (s : State) (e : W64 × Nat × Nat) : State :=
  let tier := if hostBase ≤ e.2.1 then 1 else 0
  match objOf e.1 s with
  | some o =>
    if o.job = job ∧ tier = 0 then
      modObj e.1 (fun x => { x with tier := 0, loc := e.2.1, dirty := List.range (extCount x.size) }) s
    else s
  | none =>
    let o : Obj := { id := e.1, job := job, size := e.2.2, tier := tier, loc := e.2.1, flash := [], backed := false, dirty := [],
                     userPins := 0, holds := 0, queue := [], move := none, promos := [], damaged := false, kept := false }
    { s with objs := s.objs ++ [o] }

/-- `CORR` 16 in every dynamic entry of the logical facets of `n` columns, in a scale-state record (R440). -/
def corrRecord (n : Nat) (es : List (Nat × ScaleEntry)) : List (Nat × ScaleEntry) :=
  (List.range (2048 * n)).foldl (fun m k =>
    let e := sget {} m k
    sset {} m k (if e.fixed then e else { e with corr := 16 })) es

/-- `JOB_OPEN` of a preserved job adopts it (R440). -/
def adoptJob (h : Hdr) (j : Job) (s : State) : State :=
  let k := secNo h
  let t := { s with owners := s.owners.map fun o => if o.2 = .preserved j.id then (o.1, .sector k) else o }
  let t := modJob j.id (fun x => { x with phase := .opened, sector := k }) t
  let (t, tab) := readObjTable j.recDpa t
  let t := tab.foldl (reinstate j.id) (rejoin j.id t)
  let t := jobControls k t
  let (t, bad) := (jobShards j).foldl (fun (p : State × List W32) sh =>
    match readCommitted rqVarlux { j with uncommitted := [] } sh p.1 with
    | (u, true) =>
      (match slotVerifies rqFold j.rule sh (slotOf (genOf j)) u with
       | (u, good) => (u, if good then p.2 else p.2 ++ [sh.id]))
    | (u, false) => (u, p.2 ++ [sh.id])) (t, [])
  let t := modJob j.id (fun x => { x with uncommitted := bad }) t
  let t := match j.scaleRec with
    | none => t
    | some r =>
      if r.tag = genOf j then loadScales k r.entries t
      else
        let es := corrRecord (popCount (s.sectors[k]).columns) r.entries
        noteOldTag j.id (loadScales k es (modJob j.id (fun x => { x with scaleRec := some ⟨r.tag, es⟩ }) t))
  let t := match dirIndex j.id t with
    | some i => setDir i (some ⟨j.id, k.val, j.recDpa⟩) t
    | none => t
  complete h stOk [] (settleSideband (writeJobRecord j.id t))

/-- `JOB_OPEN`'s own effect (R257, R370, R440, R458). -/
def jobOpenBody (h : Hdr) (job : W32) (seed : W64) (rule : Nat) (s : State) : State :=
  if 3 < rule then complete h stArg [] s
  else if expelled s then complete h stState [] s
  else
    match jobOf job s with
    | some j =>
      if j.phase ≠ .preserved then complete h stBusy [] s
      else if !sectorOpen (secNo h) s then complete h stState [] s
      else if j.seed ≠ seed ∨ j.rule ≠ rule then complete h stArg [] s
      else adoptJob h j s
    | none =>
      if !sectorOpen (secNo h) s then complete h stState [] s
      else
        match freeDirEntry s with
        | none => complete h stBusy [] s
        | some i => openJob h job seed rule i s

/-- `JOB_OPEN` (R370). -/
def execJobOpen (h : Hdr) (job : BitVec 32) (seed : BitVec 64) (rule : BitVec 8) (s : State) : Host.Outcome State Fault Refusal :=
  .next (runCmd catJobOpen h (jobOpenBody h job seed rule.toNat) s)

/-! ### Closing -/

/-- An evaluation Arc of the job runs (R268). -/
def evalRunning (job : W32) (s : State) : Bool :=
  (vlist s.sectors).any fun x => x.st == .running && x.eval && match x.arc with
    | some a => a.sourceJob == job
    | none => false

/-- The objects of a job as `JOB_CLOSE` leaves them (R320). -/
def endJobObjects (job : W32) (s : State) : State :=
  (s.objs.filter fun o => o.job == job).foldl (fun t o =>
    if o.backed then
      let t := if o.tier = 0 ∨ o.move.isSome then fallBack o.id stState t else t
      let t := o.queue.foldl (fun t e => answerEntry e stState [] t) t
      modObj o.id (fun x => { x with kept := true, queue := [], userPins := 0, holds := 0 }) t
    else endObject o.id stState t) s

/-- `JOB_CLOSE`'s own effect (R370, R268, R320, R429). -/
def jobCloseBody (h : Hdr) (job : W32) (s : State) : State :=
  match jobOf job s with
  | none => complete h stState [] s
  | some j =>
    if j.phase = .preserved ∨ armed j ∨ parkDeferred j ∨ evalRunning job s then complete h stState [] s
    else if jobBusy j then complete h stBusy [] s
    else
      let t := endJobObjects job (dropHolds job (endQuery job s))
      let t := { t with jobs := t.jobs.filter fun x => x.id != job }
      let t := if j.phase = .parked then
          modSector j.sector (fun _ => {}) (freeOwners (fun o => o == .sector j.sector) t)
        else jobControls j.sector t
      let t := match dirIndex job t with
        | some i => setDir i none t
        | none => t
      complete h stOk [] (settleSideband t)

/-- `JOB_CLOSE` (R370). -/
def execJobClose (h : Hdr) (job : BitVec 32) (s : State) : Host.Outcome State Fault Refusal :=
  .next (runCmd catJobClose h (jobCloseBody h job) s)

/-! ### Shards -/

/-- An object of the job that rests in LPDDR6, with its location. -/
def jobObjDpa (s : State) (job : W32) (o : W64) : Option (Nat × Nat) :=
  match objOf o s with
  | some x => if x.job = job ∧ x.tier = 0 ∧ !x.kept then some (x.loc, x.size) else none
  | none => none

/-- The shard that the installed layout gives to this member. -/
def ownShard (j : Job) (id : W32) : Option ShardEnt := (jobShards j).find? fun sh => sh.id == id

/-- The checks of `SHARD_COMMIT` (R123, R371). -/
def shardCommitStatus (j : Job) (shard : W32) (gen src : W64) (s : State) : Option W16 :=
  if j.phase ≠ .opened then some stState
  else if jobBusy j then some stBusy
  else if gen = 0 ∨ gen = 0xFFFFFFFFFFFFFFFF then some stArg
  else
    match ownShard j shard with
    | none => some stArg
    | some sh =>
      match jobObjDpa s j.id src with
      | none => some stState
      | some o =>
        if o.2 < imageLen j.rule sh then some stArg
        else if armed j ∨ (j.commit.valid ∧ j.commit.gen ≠ gen) ∨ (slotAt s j.rule sh (slotOf gen)).isNone ∨
            (objDpa s sh.workObj).isNone then some stState
        else none

/-- `SHARD_COMMIT`'s own effect (R371): the slot is written in place, and the working copy is derived next. -/
def shardCommitBody (h : Hdr) (job shard : W32) (gen src : W64) (s : State) : State :=
  match jobOf job s with
  | none => complete h stState [] s
  | some j =>
    match shardCommitStatus j shard gen src s, ownShard j shard, jobObjDpa s job src with
    | some st, _, _ => complete h st [] s
    | none, some sh, some o =>
      let b := slotOf gen
      let t := putRec sh b ⟨gen, 0, 0, j.epoch, j.rule, false⟩ s
      match readCells rqFold o.1 (imageLen j.rule sh) t with
      | (t, none) => complete h stMemUncorr [] t
      | (t, some img) =>
        let t := putShardHeader j.rule sh (putImage j.rule sh b img t)
        match slotDigest rqFold j.rule sh b t with
        | (t, none) => complete h stMemUncorr [] t
        | (t, some d) =>
          let t := putRec sh b ⟨gen, d, 0, j.epoch, j.rule, true⟩ t
          let t := if j.commit.valid then t else writeCommit job ⟨j.epoch, true, gen, 0, t.jrn.boot.bootCount⟩ t
          modJob job (fun x => { x with
            uncommitted := x.uncommitted.filter (· != shard), derive := [shard],
            deriveCmd := some ⟨h, some shard, leBytes 8 d.toNat⟩ }) t
    | none, _, _ => complete h stState [] s

/-- `SHARD_COMMIT` (R371). -/
def execShardCommit (h : Hdr) (job shard : BitVec 32) (gen src : BitVec 64) (s : State) : Host.Outcome State Fault Refusal :=
  .next (runCmd catShardCommit h (shardCommitBody h job shard gen src) s)

/-- `SHARD_READ`'s own effect (R372). -/
def shardReadBody (h : Hdr) (job shard : W32) (dest : W64) (s : State) : State :=
  match jobOf job s with
  | none => complete h stState [] s
  | some j =>
    if j.phase = .preserved then complete h stState [] s
    else
      match ownShard j shard, jobObjDpa s job dest with
      | some sh, some o =>
        if o.2 < imageLen j.rule sh then complete h stArg [] s
        else if !j.commit.valid || j.uncommitted.contains sh.id then complete h stNotCommitted [] s
        else
          let b := slotOf (genOf j)
          match readRec rqFold sh b s with
          | (s, .unreadable) => complete h stMemUncorr [] s
          | (s, .invalid) => complete h stNotCommitted [] s
          | (s, .found r) =>
            if r.gen ≠ j.commit.gen then complete h stNotCommitted [] s
            else
              match slotImage rqFold j.rule sh b r s with
              | (t, none) => complete h stMemUncorr [] t
              | (t, some img) =>
                complete h stOk (leBytes 8 r.gen.toNat ++ leBytes 8 r.digest.toNat) (writeCells o.1 (imageLen j.rule sh) img t)
      | _, _ => complete h stArg [] s

/-- `SHARD_READ` (R372). -/
def execShardRead (h : Hdr) (job shard : BitVec 32) (dest : BitVec 64) (s : State) : Host.Outcome State Fault Refusal :=
  .next (runCmd catShardRead h (shardReadBody h job shard dest) s)

/-! ### Steps -/

/-- An LPDDR6 range lies in granules of one Prism. -/
def onPrism (prism a n : Nat) : Bool := (granulesOf a n).all fun g => g % 4 == prism

/-- The objects of a shard exist and are resident as R342 requires. -/
def shardResident (s : State) (job : W32) (sh : ShardEnt) : Bool :=
  let inPrism := fun (o : W64) => match jobObjDpa s job o with
    | some x => onPrism sh.prism x.1 x.2 && !rangeAbsent s x.1 x.2
    | none => false
  inPrism sh.shardObj && inPrism sh.workObj &&
  (sh.momentObj == 0 || inPrism sh.momentObj || match objOf sh.momentObj s with
    | some x => x.job == job && x.tier == 1
    | none => false)

/-- The checks of `STEP_ARM` in the order of R359, with what reading the commit records does. -/
def stepArmStatus (job : W32) (step : W64) (micro epoch : W16) (s : State) : State × Option W16 :=
  if micro = 0 ∨ step = 0 then (s, some stArg)
  else
    match jobOf job s with
    | none => (s, some stState)
    | some j =>
      if j.phase ≠ .opened ∨ j.parking ∨ armed j ∨ evalRunning job s ∨ expelled s ∨ s.health.granted then (s, some stState)
      else if epoch ≠ j.epoch then (s, some stEpoch)
      else if j.layout.isNone then (s, some stState)
      else
        match allCommitted rqVarlux j (jobShards j) s with
        | (t, false) => (t, some stState)
        | (t, true) =>
          (t, if !((jobShards j).all (shardResident t job)) ∨ (j.rule = 3 ∧ j.ruleOps.isNone) ∨ step ≤ j.lastArmed then some stState
            else none)

/-- The coefficients of a parameter record (Table 13-5): none where it is unreadable (R347). -/
def parseParams (b : List Byte) : Option (List W32) :=
  if field b 0 4 = 0x50335052 ∧ field b 4 2 = 1 then
    some ((List.range 256).map fun k => BitVec.ofNat 32 (field b (0x40 + 4 * k) 4))
  else none

/-- The armed copy of the scale state (R225): taken, recorded, and the flags cleared, unless no Arc is loaded. -/
def armScales (j : Job) (s : State) : State :=
  if (s.sectors[j.sector]).st = .empty then modJob j.id (fun x => { x with armedScale := none }) s
  else
    let cols := jobCols s j
    let es := takeScales s cols
    let t := modJob j.id (fun x => { x with armedScale := some es, armedCols := cols }) (writeScaleRec j.id (genOf j) es s)
    mapScales cols (fun e => { e with satStep := false, nfStep := false }) t

/-- What other members sent for the step before it was armed here: credits, requests, records and tokens (R362, R395,
R398, R402). -/
def serveEarly (job : W32) (s : State) : State :=
  match jobOf job s with
  | none => s
  | some j =>
    match j.run, j.layout with
    | some r, some lay =>
      let step := r.step
      let reqs := j.gatherReqs.filter fun q => q.2.1 == step
      let creds := j.earlyCr.filter fun q => q.1 == step
      let held := j.held.filter fun q => heldStep q == step
      let t := modJob job (fun x => { x with
        early := x.early.filter (fun v => step < v.step), earlyC := x.earlyC.filter (fun v => step < v.step),
        earlyAb := x.earlyAb.filter (fun a => step < a.1), held := x.held.filter (fun q => step < heldStep q), earlyCr := x.earlyCr.filter (fun q => step < q.1),
        gatherReqs := x.gatherReqs.filter fun q => step < q.2.1 }) s
      match j.earlyAb.find? fun a => a.1 == step with
      | some a => abortStep job cauRelayed (some a.2) 0xFFFF t
      | none =>
        let t := creds.foldl (fun t q => takeCredit job lay none q.2.1 q.2.2.1 q.2.2.2 t) t
        let t := reqs.foldl (fun t q => serveGather job q.1 q.2.2 t) t
        pumpStep job (held.foldl (takeHeld job) t)
    | _, _ => s

/-- `STEP_ARM`'s own effect (R347, R359). -/
def stepArmBody (h : Hdr) (job : W32) (step : W64) (micro epoch : W16) (s : State) : State :=
  match stepArmStatus job step micro epoch s, jobOf job s with
  | (s, some st), _ => complete h st [] s
  | (s, none), none => complete h stState [] s
  | (s, none), some j =>
    let dpa := match j.layout with
      | some l => l.paramDpa
      | none => 0
    let (t, ps) := match readBytes rqVarlux dpa 1088 s with
      | (t, some b) => (t, parseParams b)
      | (t, none) => (t, none)
    let now_ := fun (v : VoteRec) => v.step == step && v.epoch == j.epoch
    let r : StepRun := {
      st := .armed, step := step, micro := micro, gen := genOf j, cmd := some h, params := optGet [] ps,
      shards := (jobShards j).map fun sh => ⟨sh.id, .accumulating, false, 0, 0, false, Vector.replicate 3 (0, 0, 0)⟩,
      ranges := [], outs := [], votes := j.early.filter now_, confirms := j.earlyC.filter now_, ownVote := none,
      force := if ps.isSome then 0 else 6, gathers := [], begun := [], asked := [], got := [], disps := [] }
    let t := armScales j t
    let t := writeArmed job step (genOf j) j.epoch t
    let t := setFcsrStep (jobCols t j) step (modJob job (fun x => { x with run := some r, lastArmed := step }) t)
    serveEarly job (defer h (leBytes 8 step.toNat) t)

/-- `STEP_ARM` (R359). -/
def execStepArm (h : Hdr) (job : BitVec 32) (step : BitVec 64) (micro epoch : BitVec 16) (s : State) :
    Host.Outcome State Fault Refusal :=
  .next (runCmd catStepArm h (stepArmBody h job step micro epoch) s)

/-- `STEP_STATUS`'s own effect (R367). -/
def stepStatusBody (h : Hdr) (job : W32) (s : State) : State :=
  match jobOf job s with
  | none => complete h stState [] s
  | some j =>
    if j.phase = .preserved then complete h stState [] s
    else
      let st := if j.phase = .parked then 3 else if j.parking then 2 else if armed j then 1 else 0
      complete h stOk (leBytes 8 j.lastStep.toNat ++ leBytes 8 (genOf j).toNat ++ leBytes 2 j.epoch.toNat ++ leBytes 1 st ++
        leBytes 1 j.lastOut) s

/-- `STEP_STATUS` (R367). -/
def execStepStatus (h : Hdr) (job : BitVec 32) (s : State) : Host.Outcome State Fault Refusal :=
  .next (runCmd catStepStatus h (stepStatusBody h job) s)

/-! ### The rule -/

/-- The fold operations of a buffer (R373): none where one breaks Table 13-6 or the length is wrong. -/
def parseRule (b : List Byte) : Option (List W64) :=
  let ops := (pieces 8 (b.length / 8) b).map fun x => (BitVec.ofNat 64 (leNat x) : W64)
  if b.length % 8 = 0 ∧ 1 ≤ ops.length ∧ ops.length ≤ 64 ∧ ops.all foldOpOk then some ops else none

/-- `RULE_LOAD`'s own effect (R88, R123, R373). -/
def ruleLoadBody (h : Hdr) (job : W32) (b : List Byte) (s : State) : State :=
  match jobOf job s with
  | none => complete h stState [] s
  | some j =>
    if j.phase ≠ .opened then complete h stState [] s
    else if jobBusy j then complete h stBusy [] s
    else
      match parseRule b with
      | none => complete h stArg [] s
      | some ops =>
        if armed j ∨ j.rule ≠ 3 then complete h stState [] s
        else
          complete h stOk (leBytes 1 ops.length)
            (writeJobRecord job (modJob job (fun x => { x with ruleOps := some ops }) (extendMeas 4 (sha256 b) s)))

/-- `RULE_LOAD` (R373). -/
def execRuleLoad (h : Hdr) (job : BitVec 32) (buf : List Byte) (s : State) : Host.Outcome State Fault Refusal :=
  .next (runCmd catRuleLoad h (ruleLoadBody h job (bufBytes h buf)) s)

/-! ### Progress -/

/-- Gathers whose position a progress write of the armed step names start (R397). -/
def startGathers (job : W32) (step : W64) (p : Nat) (s : State) : State :=
  match jobOf job s with
  | none => s
  | some j =>
    match stepOf j, j.layout with
    | some r, some lay =>
      if r.step ≠ step ∨ r.st = .resolving then s
      else
        ((List.range lay.gathers.length).filter fun i => match lay.gathers[i]? with
          | some g => g.position == p
          | none => false).foldl (fun t i => startGather job i t) s
    | _, _ => s

/-- `PROGRESS_WRITE` (R329, R330, R397): the oldest write of the progress sector that the stream has not evaluated. -/
def execProgressWrite (job : BitVec 32) (s : State) : Host.Outcome State Fault Refusal :=
  .next (match (jobOf job s).bind (·.sched) with
    | none => s
    | some x =>
      match x.writes with
      | [] => s
      | w :: r =>
        let t := modJob job (fun j => { j with sched := j.sched.map fun y => { y with writes := r } }) s
        if x.positions ≤ w.2 then evalSchedule job w.1 w.2 t
        else startGathers job w.1 w.2 (evalSchedule job w.1 w.2 t))

end Sys2Proof.Machine
end

