-- ==== Sys2Proof/Machine/LayoutCmd.lean ====
section
/-! DEFINITION. Sys2Proof/Machine/LayoutCmd.lean: installing a layout (R389, R410), filling incoming shards (R411, R413), and
serving them to other members (R412). -/

namespace Sys2Proof.Machine

/-! ### The checks of R389 -/

/-- The addresses that the layout gives this member are those of its ports. -/
def ownAddrOk (s : State) (lay : Layout) : Bool :=
  match memberOf lay lay.rank with
  | some m => (fins 8).all fun p => !m.mask.getLsbD p.val || m.addr.getD p.val 0 == (s.fabric.ports[p]).addr
  | none => false

/-- Two shards of one tensor overlap. -/
def shardsClash (x y : ShardEnt) : Bool :=
  x.tensor == y.tensor && decide (x.first < y.first + y.count ∧ y.first < x.first + x.count)

/-- No two shards of a list overlap. -/
def noShardClash : List ShardEnt → Bool
  | [] => true
  | x :: r => r.all (fun y => !shardsClash x y) && noShardClash r

/-- The alignment of a shard's elements and ranges, with that of the factored rule (R349, R389). -/
def shardAligned (rule : Nat) (lay : Layout) (sh : ShardEnt) : Bool :=
  sh.first % 16384 == 0 && sh.rangeElems % 32 == 0 &&
  if rule = 2 then
    let k := 128 * sh.rowLen
    sh.rowLen != 0 && sh.first % k == 0 && sh.rangeElems % k == 0 &&
      (sh.count % k == 0 || !(lay.shards.any fun x => x.tensor == sh.tensor && decide (sh.first < x.first)))
  else sh.rowLen == 0

/-- The objects of an own shard are resident LPDDR6 objects of the job, on its Prism where R342 says so, and long enough. -/
def shardObjsOk (s : State) (j : Job) (sh : ShardEnt) : Bool :=
  let big := fun (o : W64) (n : Nat) (placed : Bool) => match jobObjDpa s j.id o with
    | some x => decide (n ≤ x.2) && (!placed || onPrism sh.prism x.1 x.2)
    | none => false
  big sh.shardObj (shardObjLen j.rule sh) true && big sh.workObj (workLen sh) true &&
  (sh.momentObj == 0 || big sh.momentObj (2 * mLen j.rule sh) false)

/-- The objects of a dispatch entry are resident LPDDR6 objects of the job, long enough for every slot or row (R408). A source's
rows are as many as the experts take of one source: DEDUCED (log 108). -/
def dispObjsOk (s : State) (j : Job) (members : Nat) (d : DispEnt) : Bool :=
  let big := fun (o : W64) (n : Nat) => match jobObjDpa s j.id o with
    | some x => decide (n ≤ x.2)
    | none => false
  let rows := d.experts * d.capacity
  if d.combine then big d.recvObj (0x1000 + rows * d.rowSlot)
  else big d.recvObj (recvBase d members + d.perRank * members * d.capacity * d.rowSlot) && big d.routeObj (0x20 + 4 * rows + 8 * rows)

/-- A layout passes R389 for a job. -/
def layoutOk (s : State) (j : Job) (lay : Layout) : Bool :=
  let n := lay.members.length
  let own := ownShards lay
  let norms := 384 * ((own.map fun sh => sh.normIndex + 1).foldl max 0)
  ownAddrOk s lay && noShardClash lay.shards &&
  lay.shards.all (fun sh => (lay.colls.filter fun c => c.2 == sh.tensor).length == 1 && shardAligned j.rule lay sh &&
    decide (sh.owner.toNat < n) && (contributors sh).all fun r => decide (r < n)) &&
  own.all (shardObjsOk s j) &&
  lay.gathers.all (fun g => match jobObjDpa s j.id g.obj with
    | some x => decide (((tensorShards lay g.tensor).map workLen).foldl (· + ·) 0 ≤ x.2)
    | none => false) &&
  lay.disps.all (dispObjsOk s j n) &&
  inQuota s j.sector lay.gatherDpa (32 * lay.gathers.length) && inQuota s j.sector lay.paramDpa 1088 &&
  inQuota s j.sector lay.normDpa norms

/-! ### The end of an install -/

/-- The shard entries of a rank are unchanged between two layouts (R419). -/
def sameShards (old : Option Layout) (new : Layout) (rank : W16) : Bool :=
  match old with
  | some o => (o.shards.filter fun sh => sh.owner == rank) == new.shards.filter fun sh => sh.owner == rank
  | none => true

/-- A binding across an install (R419): it continues with every partner still a member and the shards unchanged. -/
def bindingAcross (j : Job) (new : Layout) : Option Binding :=
  match j.binding with
  | none => none
  | some b =>
    let ps := b.partners.map fun p => (rankOfAddr new p.addr).map fun r => ({ p with rank := r } : Partner)
    match allSome ps with
    | some l => if sameShards j.layout new new.rank && (match j.layout with
        | some o => o.rank == new.rank
        | none => true) then some { b with partners := l } else none
    | none => none

/-- A member of a layout is still a member of another. -/
def stays (m : Member) (new : Layout) : Bool :=
  (List.range 8).any fun p => m.mask.getLsbD p && (rankOfAddr new (m.addr.getD p 0)).isSome

/-- Whether a hosted region's source has every partner left across an install (R419). The host knows no other partner of the
source than itself: where a third member has left, a free value decides (log 110). -/
def partnersStay (j : Job) (new : Layout) (r : Region) (s : State) : State × Bool :=
  match j.layout with
  | none => (s, true)
  | some o =>
    let others := (peers o).filter (· != r.rank)
    if others.all fun q => match memberOf o q with
        | some m => stays m new
        | none => true then (s, true)
    else
      let (v, t) := freeVal s
      (t, v % 2 == 0)

/-- Hosted regions across an install (R419): those whose source's shards are unchanged and whose partners stay go on with the
new epoch, and the others end. -/
def regionsAcross (j : Job) (new : Layout) (epoch : W16) (s : State) : State :=
  (s.regions.filter fun r => r.job == j.id).foldl (fun t r =>
    let (t, stay) := partnersStay j new r t
    if stay && sameShards j.layout new r.rank && decide (r.rank.toNat < new.members.length) then
      let r' := { r with epoch := epoch }
      regionWrite r' 0 (regionHeader r') { t with
        regions := updIf t.regions (fun x => x.job == r.job && x.rank == r.rank) fun _ => r' }
    else endRegion r.job r.rank t) s

/-- The layout is installed, and the command completes with the previous epoch (R411, R414). -/
def installLayout (job : W32) (h : Hdr) (lay : Layout) (epoch : W16) (filled : List W32) (s : State) : State :=
  match jobOf job s with
  | none => s
  | some j =>
    let t := regionsAcross j lay epoch s
    let b := bindingAcross j lay
    let t := modJob job (fun x => { x with
      prev := x.layout, layout := some lay, epoch := epoch, streams := x.nextStreams, nextStreams := [], pend := none,
      binding := b, snapNext := if b.isSome then x.snapNext else [], held := [],
      uncommitted := x.uncommitted.filter fun u => !filled.contains u && (ownShards lay).any fun sh => sh.id == u,
      gatherReqs := [], earlyCr := [] }) t
    complete h stOk (leBytes 2 j.epoch.toNat) (writeJobRecord job t)

/-! ### Filling -/

/-- Shards of the new layout that this member must fill (R411): those that the old layout did not give it as they stand. -/
def incoming (old : Option Layout) (new : Layout) : List ShardEnt :=
  (ownShards new).filter fun sh => match old with
    | some o => !(ownShards o).contains sh
    | none => true

/-- Shards of the old layout that hold elements of incoming ones. -/
def sourceShards (old : Layout) (inc : List ShardEnt) : List ShardEnt :=
  old.shards.filter fun o => inc.any fun sh => shardsClash o sh

/-- The 16-bit value at an offset of a slot image. -/
def imgVal (img : List Host.Cell) (off i : Nat) : W16 := (mget img (off + 2 * i + 1)) ++ (mget img (off + 2 * i))

/-- The source that holds an element of a tensor. -/
def sourceAt (srcs : List (ShardEnt × List Host.Cell)) (t : BitVec 24) (e : Nat) : Option (ShardEnt × List Host.Cell) :=
  srcs.find? fun x => x.1.tensor == t && decide (x.1.first ≤ e ∧ e < x.1.first + x.1.count)

/-- The arrays of an incoming shard from the slot images of its sources: elements that no shard held are zero (R411). -/
def fillPart (rule : Nat) (srcs : List (ShardEnt × List Host.Cell)) (sh : ShardEnt) : SlotPart :=
  let elem := fun (off : ShardEnt → Nat) (i : Nat) => match sourceAt srcs sh.tensor (sh.first + i) with
    | some x => imgVal x.2 (4096 + off x.1) (sh.first + i - x.1.first)
    | none => 0
  let all := fun (off : ShardEnt → Nat) => (List.range sh.count).map (elem off)
  let row0 := if sh.rowLen = 0 then 0 else sh.first / sh.rowLen
  { w := all fun _ => 0, m := all wLen, v := if hasM2 rule then all fun o => 2 * wLen o else [],
    rs := if rule = 2 then (List.range (shardRows sh)).map fun r =>
        match sourceAt srcs sh.tensor ((row0 + r) * sh.rowLen) with
        | some x => imgVal x.2 (4096 + wLen x.1 + rsOff x.1) (row0 + r - x.1.first / sh.rowLen)
        | none => 0
      else [],
    cs := if rule = 2 then (List.range ((shardRows sh + 127) / 128 * sh.rowLen)).map fun k =>
        let b := row0 / 128 + k / sh.rowLen
        match sourceAt srcs sh.tensor (128 * b * sh.rowLen) with
        | some x => imgVal x.2 (4096 + wLen x.1 + csOff x.1) ((b - x.1.first / sh.rowLen / 128) * sh.rowLen + k % sh.rowLen)
        | none => 0
      else [] }

/-- Fill one incoming shard at the committed generation (R353, R411), and derive its working copy: false when a weight could
not be read back. -/
def fillIncoming (j : Job) (epoch : W16) (srcs : List (ShardEnt × List Host.Cell)) (sh : ShardEnt) (s : State) : State × Bool :=
  let g := genOf j
  let b := slotOf g
  let p := fillPart j.rule srcs sh
  let t := putRec sh b ⟨g, 0, j.commit.step, epoch, j.rule, false⟩ s
  match writePart j.rule sh b 0 p t with
  | (t, ok1) =>
    let t := putRec sh b ⟨g, partDigest j.rule sh 0 p, j.commit.step, epoch, j.rule, true⟩ (putShardHeader j.rule sh t)
    match deriveShard j.rule sh b t with
    | (t, bad) => (t, ok1 && !bad)

/-- Every source has arrived: the incoming shards are filled and the layout is installed. -/
def finishFill (job : W32) (s : State) : State :=
  match jobOf job s with
  | none => s
  | some j =>
    match j.pend with
    | some (.fill h lay epoch [] [] got) =>
      let inc := incoming j.layout lay
      let srcs := got.filterMap fun x => match j.layout with
        | some o => (o.shards.find? fun sh => sh.id == x.1).map fun sh => (sh, x.2)
        | none => none
      let (t, good) := inc.foldl (fun (p : State × Bool) sh =>
        match fillIncoming j epoch srcs sh p.1 with
        | (u, ok1) => (u, p.2 && ok1)) (s, true)
      if good then installLayout job h lay epoch (inc.map (·.id)) t
      else
        let g := genOf j
        endFill job stMemUncorr (inc.foldl (fun t sh =>
          putRec sh (slotOf g) ⟨g, 0, j.commit.step, epoch, j.rule, false⟩ t) t)
    | _ => s

/-- Ask every owner that serves nothing yet for its next shard (R411); a source without a common port cannot be fetched
(R413). `fuel` bounds the count. -/
def askSources : Nat → W32 → State → State
  | 0, job, s => finishFill job s
  | fuel + 1, job, s =>
    match jobOf job s with
    | none => s
    | some j =>
      match j.pend, j.layout with
      | some (.fill h lay epoch todo cur got), some old =>
        match todo.find? fun x => !(cur.any fun c => c.1 == x.1) with
        | none => finishFill job s
        | some x =>
          if (commonPorts s j x.1).isEmpty then endFill job stAborted s
          else
            let n := match old.shards.find? fun sh => sh.id == x.2 with
              | some sh => imageLen j.rule sh
              | none => 0
            let t := modJob job (fun y => { y with
              pend := some (.fill h lay epoch (todo.filter (· != x)) (cur ++ [(x.1, x.2, n)]) got) }) s
            askSources fuel job (onNext job (sendSeq job x.1 false ptReshardReq 0 0 0 false
              (beBytes 4 x.2.toNat ++ beBytes 8 (genOf j).toNat)) t)
      | _, _ => s

/-- The slot images of this member's own old shards, which need no packet. -/
def ownSources (j : Job) (shs : List ShardEnt) (s : State) : State × Option (List (W32 × List Host.Cell)) × W16 :=
  shs.foldl (fun (p : State × Option (List (W32 × List Host.Cell)) × W16) sh =>
    match p.2.1 with
    | none => p
    | some acc =>
      match readRec rqVarlux sh (slotOf (genOf j)) p.1 with
      | (t, .unreadable) => (t, none, stMemUncorr)
      | (t, .invalid) => (t, none, stAborted)
      | (t, .found r) =>
        match slotImage rqVarlux j.rule sh (slotOf (genOf j)) r t with
        | (t, some img) => (t, some (acc ++ [(sh.id, img)]), 0)
        | (t, none) => (t, none, stMemUncorr)) (s, some [], 0)

/-- The counters of the old epoch are zero: the buffer is checked, and incoming shards are asked for (R410, R411). -/
def continueInstall (job : W32) (h : Hdr) (epoch : W16) (buf : List Byte) (s : State) : State :=
  match jobOf job s with
  | none => s
  | some j =>
    match parseLayout buf with
    | none => complete h stArg [] (clearPend job s)
    | some lay =>
      if !layoutOk s j lay ∨ (lay.adopt ≠ 0 ∧ j.layout.isSome) then complete h stArg [] (clearPend job s)
      else
        let e := if lay.adopt ≠ 0 then lay.adopt else epoch
        let inc := incoming j.layout lay
        if !j.commit.valid ∨ inc.isEmpty then installLayout job h lay e [] s
        else
          let srcs := match j.layout with
            | some o => sourceShards o inc
            | none => []
          let mine := fun (sh : ShardEnt) => match j.layout with
            | some o => sh.owner == o.rank
            | none => false
          match ownSources j (srcs.filter mine) s with
          | (t, none, st) => complete h st [] (clearPend job t)
          | (t, some got, _) =>
            let todo := (srcs.filter fun sh => !mine sh).map fun sh => (sh.owner, sh.id)
            askSources (todo.length + 1) job (modJob job (fun x => { x with
              pend := some (.fill h lay e todo [] got) }) t)

/-- The reduction counters of the installed epoch are zero (R410). -/
def drained (j : Job) : Bool := !armed j && j.streams.all fun x => x.sent.isEmpty

/-- The drain, and the snapshot that it waits for (R429), are over. -/
def drainOver (j : Job) : Bool := drained j && j.snap.isNone && j.snapNext.isEmpty

/-- A packet of a snapshot in progress, for whose end an install waits (R429). -/
def ofSnapshot (p : SentPkt) : Bool :=
  p.kind == ptMirror && let op := p.hdr.coll.toNat % 256
    op == mopBegin || op == mopData || op == mopEnd

/-- A packet of a stream that belongs to no snapshot is unacknowledged. -/
def openPackets (j : Job) : Bool := j.streams.any fun x => x.sent.any fun p => !ofSnapshot p

/-- `LAYOUT_INSTALL`'s own effect (R123, R410). -/
def layoutInstallBody (h : Hdr) (job : W32) (epoch : W16) (flags : Nat) (buf : List Byte) (s : State) : State :=
  match jobOf job s with
  | none => complete h stState [] s
  | some j =>
    let force := flags = 1
    if j.phase = .preserved then complete h stState [] s
    else if jobBusy j then complete h stBusy [] s
    else if 1 < flags then complete h stArg [] s
    else if epoch ≠ j.epoch + 1 then complete h stEpoch [] s
    else if j.phase ≠ .opened ∨ evalRunning job s ∨ (armed j ∧ !force) then complete h stState [] s
    else
      let t := if force ∧ armed j then abortStep job cauInstall none 0xFFFF s else s
      match jobOf job t with
      | none => t
      | some k =>
        if !force && openPackets k then complete h stState [] t
        else if drainOver k then continueInstall job h epoch buf t
        else modJob job (fun x => { x with pend := some (.install h epoch buf) }) t

/-- `LAYOUT_INSTALL` (R410). -/
def execLayoutInstall (h : Hdr) (job : BitVec 32) (epoch : BitVec 16) (flags : BitVec 8) (buf : List Byte) (s : State) :
    Host.Outcome State Fault Refusal :=
  .next (runCmd catLayoutInstall h (layoutInstallBody h job epoch flags.toNat (bufBytes h buf)) s)

/-- `LAYOUT_DRAIN_DONE` (R410). -/
def execLayoutDrainDone (job : BitVec 32) (s : State) : Host.Outcome State Fault Refusal :=
  .next (match jobOf job s with
    | none => s
    | some j =>
      match j.pend with
      | some (.install h epoch buf) => if drainOver j then continueInstall job h epoch buf s else s
      | _ => s)

/-! ### Serving -/

/-- Serve a RESHARD_REQ from the layout in place (R412): the slot image, or ABORT with `STEP` zero. -/
def serveReshard (job : W32) (peer : W16) (shard : W32) (gen : W64) (s : State) : State :=
  match jobOf job s with
  | none => s
  | some j =>
    let refuse := fun (cause : Byte) (t : State) => sendPlain job peer false ptAbort 0 0 0 (tokenBytes (ownToken j cause)) t
    if genOf j ≠ gen then refuse cauStale s
    else
      match ownShard j shard with
      | none => s
      | some sh =>
        match readRec rqChord sh (slotOf gen) s with
        | (s, .unreadable) => refuse cauUncorr s
        | (s, .invalid) => refuse cauStale s
        | (s, .found r) =>
          match slotImage rqChord j.rule sh (slotOf gen) r s with
          | (t, none) => refuse cauUncorr t
          | (t, some img) => sendBytes job peer false ptReshardData 0 0 0 (mread img 0 (imageLen j.rule sh)) t

/-- `RESHARD_REQ` (R412): the epoch one above the installed one is served from the installed layout, the installed epoch
from the one before it. -/
def execReshardReq (p : ChordHdr) (shard : BitVec 32) (gen : BitVec 64) (s : State) : Host.Outcome State Fault Refusal :=
  .next (onPacket p ptReshardReq true (fun j => p.epoch == j.epoch || p.epoch == j.epoch + 1) noWait (fun j t =>
    if p.epoch = j.epoch then
      if j.prev.isSome then onPrev j.id (serveReshard j.id p.srcRank shard gen) t else t
    else onNext j.id (serveReshard j.id p.srcRank shard gen) t) s)

/-- `RESHARD_DATA` (R411): bytes of the slot image that its sender was asked for. -/
def execReshardData (p : ChordHdr) (payload : List Byte) (s : State) : Host.Outcome State Fault Refusal :=
  .next (sized p payload.length (onPacket p ptReshardData true (fun j => p.epoch == j.epoch + 1) noWait (fun j t =>
    match j.pend with
    | some (.fill h lay epoch todo cur got) =>
      match cur.find? fun c => c.1 == p.srcRank with
      | none => t
      | some c =>
        let img := match got.find? fun x => x.1 == c.2.1 with
          | some x => x.2
          | none => []
        let img := mwrite img p.offset.toNat payload
        let left := c.2.2 - payload.length
        let got := got.filter (fun x => x.1 != c.2.1) ++ [(c.2.1, img)]
        let cur := if left = 0 then cur.filter (· != c) else updIf cur (· == c) fun _ => (c.1, c.2.1, left)
        askSources (todo.length + 1) j.id (modJob j.id (fun x => { x with pend := some (.fill h lay epoch todo cur got) }) t)
    | _ => t)) s)

end Sys2Proof.Machine
end

