-- ==== Sys2Proof/Machine/MboxCmd.lean ====
section
/-! DEFINITION. Sys2Proof/Machine/MboxCmd.lean: fetching commands (R107 to R111), and the mailbox and device commands of Table
04-9 (R30, R115, R121, R124). -/

namespace Sys2Proof.Machine

/-! ### Fetch -/

/-- A ring has an entry to fetch (R107). -/
def ringHasEntry (r : Ring) : Bool := r.en && r.sqHead != r.tail

/-- The ring that the round-robin fetches from next (R107). -/
def nextRing (s : State) : Option (Fin 8) :=
  ((List.range 8).map fun i => (finOf (s.mbx.rr.val + i) : Fin 8)).find? fun n => ringHasEntry s.mbx.rings[n]

/-- The tag is outstanding on the ring (R109). -/
def tagOutstanding (tag : W16) (r : Ring) : Bool := r.outstanding.any fun w => w.h.tag == tag && !w.discard

/-- An opcode of the catalogue. -/
def knownOp (op : W16) : Bool := catalogue.any fun c => c.op == op

/-- The device takes a fetched entry (R107, R109, R115): a duplicated tag and an unknown opcode complete at once. The entry's tag is
outstanding until its final completion is written. -/
def takeEntry (n : Fin 8) (opcode : W16) (h : Hdr) (s : State) : State :=
  let r := s.mbx.rings[n]
  let join := fun (dead : Bool) =>
    { modRing n (fun r => { r with outstanding := r.outstanding ++ [⟨h, opcode, dead, false, dead, s.mbx.accepted⟩] }) s with
      mbx.accepted := s.mbx.accepted + 1 }
  let refuse := fun (st : W16) => pushCpl n ⟨h.tag, st, true, [], h.noIntr, false, h.cplFault⟩ (join true)
  if tagOutstanding h.tag r then refuse stArg
  else if !knownOp opcode then refuse (if s.mbx.isOpen then stOpcode else stState)
  else join false

/-- `COMMAND_FETCH` (R104, R107, R111): the next entry of the round-robin, once `ACCEPT` is set. An entry whose read fails is not
executed. -/
def execCommandFetch (n : Fin 8) (entry : List Byte) (bufFault cplFault : Bool) (s : State) (readFail : Bool := false) :
    Host.Outcome State Fault Refusal :=
  .next (
    if !(s.mbx.accept && answering s && nextRing s == some n) then s
    else
      let t := { s with mbx.rr := finOf (n.val + 1) }
      if readFail then ringError n 0b100 t
      else
        let e := parseEntry (.ring n) 0 bufFault cplFault entry
        takeEntry n e.1 e.2 (modRing n (fun r => { r with sqHead := (r.sqHead + 1) % 2 ^ r.sqLog2.toNat }) t))

/-! ### Mailbox and device commands -/

/-- `MBX_OPEN`'s own effect (R115): the one supported version is 1.0. -/
def mbxOpenBody (h : Hdr) (major minMinor maxMinor : Nat) (s : State) : State :=
  if (List.range 7).any (fun k => ringRunning s.mbx.rings[(finOf (k + 1) : Fin 8)]) then complete h stState [] s
  else if major ≠ 1 ∨ minMinor ≠ 0 ∨ maxMinor < minMinor then complete h stArg [] s
  else complete h stOk [0x01, 0x00] { s with mbx.isOpen := true, mbx.minor := 0 }

/-- `MBX_OPEN` (R115). -/
def execMbxOpen (h : Hdr) (major minMinor maxMinor : BitVec 8) (s : State) : Host.Outcome State Fault Refusal :=
  .next (runCmd catMbxOpen h (mbxOpenBody h major.toNat minMinor.toNat maxMinor.toNat) s)

/-- `IF_VERSION` (Table 04-13): zero before `MBX_OPEN` and on the management network. -/
def ifVersion (h : Hdr) (s : State) : Nat := if h.path ≠ .net ∧ s.mbx.isOpen then 256 + s.mbx.minor.toNat else 0

/-- Channel pairs in service, as a mask (Table 04-13). -/
def pairsUp (s : State) : Nat :=
  ((List.range 32).filter fun k => pairIn s k && !s.health.pairs.getLsbD k && !s.health.prisms.getLsbD (k / 8)).foldl (fun a k => a + 2 ^ k) 0

/-- LPDDR6 in service, in GiB (R282). -/
def gibInService (s : State) : Nat :=
  (fins 4).foldl (fun a n => a + if prismOut s n then 0 else 18 * chanCount s n) 0

/-- A mask of the elements that satisfy `p`. -/
def maskOf (n : Nat) (p : Nat → Bool) : Nat := ((List.range n).filter p).foldl (fun a k => a + 2 ^ k) 0

/-- The `DEVICE_INFO` record (Table 04-13). -/
def infoRecord (h : Hdr) (s : State) : List Byte :=
  let run := s.sec.running
  let ver := match run with
    | some r => r.version.toNat
    | none => 0
  let img := match run with
    | some r => bit r.slotB
    | none => 0
  let sect := fun (p : Sector → Bool) => maskOf 4 fun k => p s.sectors[(finOf k : Fin 4)]
  layout 128 [
    (0x00, leBytes 2 1 ++ leBytes 2 0x80 ++ [0x03, 0xB0] ++ leBytes 2 (ifVersion h s) ++ leBytes 4 ver ++
      leBytes 1 img ++ leBytes 1 (bit s.jrn.boot.activeB) ++ leBytes 1 s.sec.fuseSvn ++ leBytes 1 s.sec.lifecycle.toNat ++
      leBytes 8 s.sec.serial.toNat ++ beBytes 6 (Config.mgmtMac 0).toNat ++ beBytes 6 (Config.mgmtMac 1).toNat ++
      leBytes 4 s.jrn.boot.bootCount.toNat ++ leBytes 8 s.jrn.boot.bootPtime.toNat ++ leBytes 4 (resetCause s).toNat ++
      leBytes 4 (conditions s)),
    (0x38, leBytes 2 (~~~ s.health.columns).toNat ++ leBytes 1 (maskOf 4 fun k => !prismOut s (finOf k)) ++
      leBytes 1 s.mem.preserved.toNat ++ leBytes 4 (pairsUp s) ++ leBytes 1 (~~~ s.health.fabric).toNat ++
      leBytes 1 (maskOf 2 fun k => (s.mgmt.ports[(finOf k : Fin 2)]).up && !s.health.mgmt.getLsbD k)),
    (0x44, leBytes 4 (gibInService s) ++ leBytes 4 (if s.flash.present then 8000 else 0)),
    (0x50, (List.range 9).flatMap fun l => leBytes 2 (250 * s.d2d.working[(finOf l : Fin 9)])),
    (0x64, leBytes 4 (sect (fun x => x.st != .none) + 16 * sect (fun x => x.st == .parked)))]

/-- `DEVICE_INFO` (R124): one moment. -/
def execDeviceInfo (h : Hdr) (s : State) : Host.Outcome State Fault Refusal :=
  .next (runCmd catDeviceInfo h (fun t => answer h stOk true (leBytes 4 128) (infoRecord h t) t) s)

/-- `DEVICE_RESET`'s own effect (R121): it completes, and the reset follows. -/
def deviceResetBody (h : Hdr) (kind : Nat) (s : State) : State :=
  if 1 < kind then complete h stArg [] s
  else complete h stOk [] { s with mbx.resetPending := some (kind == 1), mbx.resetCmd := some h }

/-- `DEVICE_RESET` (R121). -/
def execDeviceReset (h : Hdr) (kind : BitVec 8) (s : State) : Host.Outcome State Fault Refusal :=
  .next (runCmd catDeviceReset h (deviceResetBody h kind.toNat) s)

/-- `DEVICE_RESET_TRIGGER` (R121): t_RESET_ISSUE after the completion, which has been written. -/
def execDeviceResetTrigger (s : State) : Host.Outcome State Fault Refusal :=
  .next (
    if resetAnswered s then
      match s.mbx.resetPending with
      | some true => warmReset 0x04 s
      | some false => coldReset 0x03 s
      | none => s
    else s)

/-- Function of a GPIO pin as stored (R30). -/
def gpioStored (s : State) (pin : Nat) : Nat := s.jrn.boot.gpioFunc.toNat / 16 ^ pin % 16

/-- Store a pin's function and, once the boot has reached the floor, drive it (R30). -/
def setGpio (pin func : Nat) (s : State) : State :=
  let v := BitVec.ofNat 8 (if pin = 0 then s.jrn.boot.gpioFunc.toNat / 16 * 16 + func else s.jrn.boot.gpioFunc.toNat % 16 + 16 * func)
  let t := writeBoot (fun r => { r with gpioFunc := v }) s
  if s.mbx.ready then { t with pins.gpio := vupd t.pins.gpio (finOf pin) fun _ => BitVec.ofNat 4 func } else t

/-- `GPIO_CONFIG`'s own effect (R30). -/
def gpioConfigBody (h : Hdr) (pin func : Nat) (s : State) : State :=
  if 1 < pin ∨ 3 < func then complete h stArg [] s
  else if gpioStored s pin = func then complete h stOk [s.jrn.boot.gpioFunc] s
  else if func ≠ 0 ∧ gpioStored s pin ≠ 0 then complete h stBusy [] s
  else
    let t := setGpio pin func s
    complete h stOk [t.jrn.boot.gpioFunc] t

/-- `GPIO_CONFIG` (R30). -/
def execGpioConfig (h : Hdr) (pin func : BitVec 8) (s : State) : Host.Outcome State Fault Refusal :=
  .next (runCmd catGpioConfig h (gpioConfigBody h pin.toNat func.toNat) s)

end Sys2Proof.Machine
end

