-- ==== Sys2Proof/Machine/MemCmd.lean ====
section
/-! DEFINITION. Sys2Proof/Machine/MemCmd.lean: patrol scrub (R302), the host window (R294 to R298), and the memory commands
(R295, R296, R306). -/

namespace Sys2Proof.Machine

/-! ### Patrol scrub -/

/-- 4 KiB blocks of a Prism in service (R282). -/
def blockCount (s : State) (n : Fin 4) : Nat := 18 * chanCount s n * 262144

/-- DPA of a Prism-local block (R284). -/
def blockDpa (n : Fin 4) (b : Nat) : Nat := (4 * (b * 4096 / 2 ^ 30) + n.val) * 2 ^ 30 + b * 4096 % 2 ^ 30

/-- A sector is served from its spare (R299). -/
def remapped (s : State) (k : Nat) : Bool :=
  (s.mem.remap[prismOf (granule (32 * k))]).any fun e =>
    16 * (prismOf (granule (32 * k))).val + e.channel.toNat == (mapDpa s (32 * k)).1 && e.sector.toNat == (mapDpa s (32 * k)).2

/-- Errors that have come upon LPDDR6: those on sectors of a Prism in service; what lies on the location of a remapped sector
does not show (R299). -/
def newErrors (n : Fin 4) (errs : List SymErr) (s : State) : List SymErr :=
  errs.filter fun e => prismOf (granule (32 * e.sector)) == n && !absent s (granule (32 * e.sector)) &&
    e.value != 0 && !(e.stuck && remapped s e.sector)

/-- `SCRUB_BLOCK` (R302): the errors that memory has taken since, and the read of the next block of a Prism. -/
def execScrubBlock (n : Fin 4) (errs : List SymErr) (s : State) : Host.Outcome State Fault Refusal :=
  .next (
    if prismOut s n then s
    else
      let t := { s with mem.errs := s.mem.errs ++ newErrors n errs s }
      let b := t.mem.scrub[n]
      let t := { t with mem.scrub := vupd t.mem.scrub n fun b => if b + 1 < blockCount s n then b + 1 else 0 }
      (errSectors t.mem (blockDpa n b) 4096).foldl (fun t k => (readSector rqScrub k t).1) t)

/-! ### The host window -/

/-- Lines of the snoop filter (R298). -/
def snoopLines : Nat := 1048576

/-- The window holds a host-managed address, and the host can reach it (R296). -/
def inWindow (s : State) (off : W64) : Bool :=
  s.mbx.link == .l0 && s.mbx.memActive && decide (off.toNat < s.mem.hdmSize * 2 ^ 30)

/-- DPA of the line that holds a host-managed address (R296). -/
def lineDpa (s : State) (off : W64) : Nat := s.mem.hdmFirst * 2 ^ 30 + off.toNat / 64 * 64

/-- The host may hold a line from now on: a full filter back-invalidates its oldest entry first. What it
answered to an earlier BISnpData holds no longer (R298). -/
def admitLine (l : Nat) (s : State) : State :=
  let s := { s with mem.snooped := s.mem.snooped.erase l }
  if s.mem.snoop.contains l then s
  else if s.mem.snoop.length < snoopLines then { s with mem.snoop := s.mem.snoop ++ [l] }
  else
    match s.mem.snoop with
    | [] => s
    | o :: r => emit (.bisnp true o) { s with mem.snoop := r ++ [l], mem.bisnp := s.mem.bisnp ++ [(true, o)] }

/-- The bytes of a host access. -/
def lineBytes (data : List Byte) (i : Nat) : List Byte := slice data (32 * i) 32

/-- `CXL_MEM_READ` (R297, R303): a line with an uncorrectable sector, or in an absent granule, returns with poison. -/
def execCxlMemRead (off : BitVec 64) (s : State) : Host.Outcome State Fault Refusal :=
  .next (
    if !inWindow s off then s
    else
      let a := lineDpa s off
      if absent s (granule a) then emit (.cxlData [] true) s
      else
        let (t, bad) := readRange rqHost a 64 (admitLine (off.toNat / 64) s)
        if bad.isEmpty then emit (.cxlData (mread t.mem.cells a 64) false) t else emit (.cxlData [] true) t)

/-- A host write of whole sectors at a DPA takes effect (R292). -/
def hostPut (k : Nat) (d : List Byte) (s : State) : State := noteWrite (32 * k) 32 { s with mem := putSector s.mem k d }

/-- A host write poisons a sector (R292, R294). The prefetch stream is passed no progress, since no requester receives the data
of such a sector (R303, log 106). -/
def hostPoison (k : Nat) (s : State) : State := noteDirty (32 * k) 32 { s with mem := putPoison s.mem k }

/-- `CXL_MEM_WRITE` (R292, R297): a whole line, or one that carries data poison. -/
def execCxlMemWrite (off : BitVec 64) (data : List Byte) (poison : Bool) (s : State) : Host.Outcome State Fault Refusal :=
  .next (
    if !inWindow s off then s
    else
      let a := lineDpa s off
      emit .cxlDone (
        if absent s (granule a) then logMem 0x07 rqHost a false 0xFF s
        else if poison then hostPoison (a / 32 + 1) (hostPoison (a / 32) s)
        else hostPut (a / 32 + 1) (lineBytes data 1) (hostPut (a / 32) (lineBytes data 0) s)))

/-- The byte enables of a sector cover part of it (R292). -/
def partialEn (en : W32) : Bool := en != 0 && en != 0xFFFFFFFF

/-- One sector of a host partial write (R292, R294): whole, discarded, merged, or poisoned where the write carries data poison
and covers it. -/
def narrowSector (k : Nat) (d : List Byte) (en : W32) (mode1 poison : Bool) (s : State) : State :=
  if en = 0 then s
  else if en = 0xFFFFFFFF then (if poison then hostPoison k s else hostPut k d s)
  else if !mode1 then s
  else if poison then hostPoison k (readSector rqHost k s).1
  else
    match readSector rqHost k s with
    | (t, some old) => hostPut k (old.mapIdx fun i b => if en.getLsbD i then d.getD i 0 else b) t
    | (t, none) => hostPoison k t

/-- `CXL_MEM_NARROW_WRITE` (R294): a request whose narrow part is discarded is logged once. -/
def execCxlMemNarrowWrite (off : BitVec 64) (data : List Byte) (enables : BitVec 64) (s : State) (poison : Bool := false) :
    Host.Outcome State Fault Refusal :=
  .next (
    if !inWindow s off then s
    else
      let a := lineDpa s off
      let m := s.jrn.mem.mode1.contains (granule a)
      let e0 := enables.extractLsb' 0 32
      let e1 := enables.extractLsb' 32 32
      emit .cxlDone (
        if absent s (granule a) then logMem 0x07 rqHost a false 0xFF s
        else
          let t := narrowSector (a / 32 + 1) (lineBytes data 1) e1 m poison (narrowSector (a / 32) (lineBytes data 0) e0 m poison s)
          if !m && (partialEn e0 || partialEn e1) then
            logMem 0x04 rqHost (if partialEn e0 then a else a + 32) true 0xFF t
          else t))

/-- `BACK_INVALIDATE_RESPONSE` (R298): the host answers the oldest back-invalidate snoop of a line, and the access that waits for
it may proceed. -/
def execBackInvalidateResponse (line : BitVec 64) (s : State) : Host.Outcome State Fault Refusal :=
  .next (match s.mem.bisnp.find? fun p => p.2 == line.toNat with
    | none => s
    | some p => { s with mem.bisnp := s.mem.bisnp.erase p,
                         mem.snooped := if p.1 || s.mem.snooped.contains p.2 then s.mem.snooped else s.mem.snooped ++ [p.2] })

/-! ### Commands -/

/-- A granule of a range is held by the device for its own records (R255): owned, and not by a sector. -/
def deviceHeld (s : State) (first count : Nat) : Bool :=
  s.owners.any fun o => decide (first ≤ o.1 ∧ o.1 < first + count) && match o.2 with
    | .sector _ => false
    | _ => true

/-- The effect of `MEM_REGION_MODE` (R295). -/
def memRegionModeBody (h : Hdr) (first count mode : Nat) (s : State) : State :=
  if count = 0 ∨ 1 < mode ∨ 1152 < first + count then complete h stArg [] s
  else if deviceHeld s first count then complete h stBusy [] s
  else
    let inRange := fun (g : Nat) => decide (first ≤ g ∧ g < first + count)
    complete h stOk [] (writeMemCfg (fun r => { r with
      mode1 := (List.range 1152).filter fun g => if inRange g then mode == 1 else r.mode1.contains g }) s)

/-- `MEM_REGION_MODE` (R295). -/
def execMemRegionMode (h : Hdr) (first count : BitVec 32) (mode : BitVec 8) (s : State) : Host.Outcome State Fault Refusal :=
  .next (runCmd catMemRegionMode h (memRegionModeBody h first.toNat count.toNat mode.toNat) s)

/-- The effect of `MEM_HDM_WINDOW` (R296): the window is stored for the next boot. -/
def memHdmWindowBody (h : Hdr) (first size : W32) (s : State) : State :=
  if 256 < size.toNat ∨ 1152 < first.toNat + size.toNat then complete h stArg [] s
  else if deviceHeld s first.toNat size.toNat then complete h stBusy [] s
  else complete h stOk [] (writeMemCfg (fun r => { r with hdmFirst := first, hdmSize := size }) s)

/-- `MEM_HDM_WINDOW` (R296). -/
def execMemHdmWindow (h : Hdr) (first size : BitVec 32) (s : State) : Host.Outcome State Fault Refusal :=
  .next (runCmd catMemHdmWindow h (memHdmWindowBody h first size) s)

/-- An error-log record (Table 11-4). -/
def logBytes (r : LogRec) : List Byte :=
  leBytes 8 r.ptime.toNat ++ leBytes 4 r.bootCount.toNat ++ [r.kind, r.prism, r.channel, r.requester] ++
    leBytes 8 r.dpa.toNat ++ leBytes 4 r.sector.toNat ++ [r.symbol, 0, 0, 0]

/-- Free remap entries of a Prism (R301). -/
def freeRemap (s : State) (n : Fin 4) : Nat := 16 - (s.mem.remap[n]).length

/-- The effect of `MEM_ERROR_READ` (R306): the newest records that fit. -/
def memErrorReadBody (h : Hdr) (s : State) : State :=
  let fit := (h.bufLen.toNat - 32) / 32
  let rs := s.mem.log.drop (s.mem.log.length - fit)
  let free := (fins 4).flatMap fun n => leBytes 1 (freeRemap s n)
  let buf := leBytes 2 1 ++ leBytes 2 32 ++ leBytes 4 s.mem.log.length ++ leBytes 4 rs.length ++ leBytes 4 s.mem.displaced ++
    free ++ zeros 12 ++ rs.flatMap logBytes
  answer h stOk true (leBytes 4 s.mem.corrected ++ leBytes 4 s.mem.uncorrectable ++ free) buf s

/-- `MEM_ERROR_READ` (R306). -/
def execMemErrorRead (h : Hdr) (s : State) : Host.Outcome State Fault Refusal :=
  .next (runCmd catMemErrorRead h (memErrorReadBody h) s)

end Sys2Proof.Machine
end

