-- ==== Sys2Proof/Machine/MgmtCmd.lean ====
section
/-! DEFINITION. Sys2Proof/Machine/MgmtCmd.lean: the management network: exchanges (R462, R463), announcements (R464) and the
state of its ports (R466). -/

namespace Sys2Proof.Machine

/-! ### Exchanges -/

/-- An exchange has ended: its command is complete and no CPL segment awaits acknowledgement (R463). -/
def exchangeOver (s : State) (e : Exchange) : Bool := e.joined && e.unacked.isEmpty && !s.mbx.netOut.any fun w => w.h == e.h

/-- Exchanges that have ended leave (R463). -/
def dropExchanges (s : State) : State :=
  { s with mgmt.exchanges := s.mgmt.exchanges.filter fun e => !exchangeOver s e }

/-- Acknowledge a CMD segment on the port it came in on. -/
def ackSegment (m : MgmtMsg) (s : State) : State :=
  if mgmtUp s m.port then emit (.mgmtAck m.port m.xid m.offset) s else s

/-- A catalogue row by its opcode. -/
def catOf (op : W16) : Option Cat := catalogue.find? fun c => c.op == op

/-- A command whose segments are complete joins the acceptance order (R107, R463): `TOTAL` equals `BUF_LEN`, and an in
buffer came whole. -/
def joinCommand (m : MgmtMsg) (e : Exchange) (s : State) : State :=
  let t := { s with mgmt.exchanges := updIf s.mgmt.exchanges (fun x => x.xid == e.xid && x.src == e.src) fun x => { x with joined := true },
                    mbx.netOut := s.mbx.netOut ++ [⟨e.h, e.opcode, true, false, true, s.mbx.accepted⟩], mbx.accepted := s.mbx.accepted + 1 }
  match catOf e.opcode with
  | none => complete e.h stOpcode [] t
  | some c =>
    if m.total ≠ e.h.bufLen ∨ (c.buf = .input ∧ e.data.length ≠ m.total.toNat) then complete e.h stArg [] t
    else { t with mbx.netOut := s.mbx.netOut ++ [⟨e.h, e.opcode, false, false, false, s.mbx.accepted⟩] }

/-- A segment that continues an exchange, or begins one with the command entry before its buffer bytes (R462, R463). -/
def takeSegment (m : MgmtMsg) (last : Bool) (data : List Byte) (s : State) : State :=
  match s.mgmt.exchanges.find? fun e => e.xid == m.xid && e.src == m.src with
  | some e =>
    if m.offset.toNat < e.next ∨ e.joined then ackSegment m s
    else if m.offset.toNat ≠ e.next then s
    else
      let e := { e with next := e.next + data.length, data := e.data ++ data }
      let t := ackSegment m { s with mgmt.exchanges := updIf s.mgmt.exchanges (fun x => x.xid == m.xid && x.src == m.src) fun _ => e }
      if last then joinCommand m e t else t
  | none =>
    if m.offset ≠ 0 then s
    else
      let (opcode, h) := parseEntry .net m.xid false false (data.take 64)
      let rest := data.drop 64
      if 8 ≤ s.mgmt.exchanges.length then complete h stBusy [] (ackSegment m s)
      else
        let e : Exchange := ⟨m.xid, m.src, opcode, h, rest.length, rest, false, [], 0⟩
        let t := ackSegment m { s with mgmt.exchanges := s.mgmt.exchanges ++ [e] }
        if last then joinCommand m e t else t

/-- `MGMT_CMD` (R463): a CMD segment arrives on a port that is up. -/
def execMgmtCmd (m : MgmtMsg) (last : Bool) (data : List Byte) (s : State) : Host.Outcome State Fault Refusal :=
  .next (if (s.mgmt.ports[m.port]).up then takeSegment m last data s else s)

/-- Drop the oldest unacknowledged segment at an offset. -/
def ackOne (offset : Nat) (l : List (Nat × Nat × List Byte)) : List (Nat × Nat × List Byte) :=
  match l.findIdx? fun g => g.1 = offset with
  | some i => l.eraseIdx i
  | none => l

/-- `MGMT_ACK` (R463): the requester acknowledges a CPL segment. -/
def execMgmtAck (xid offset : BitVec 32) (s : State) : Host.Outcome State Fault Refusal :=
  .next (dropExchanges { s with mgmt.exchanges := updIf s.mgmt.exchanges (fun e => e.xid == xid) fun e =>
    { e with unacked := ackOne offset.toNat e.unacked } })

/-- `MGMT_RETRANSMIT` (R463): a segment unacknowledged after t_MGMT_RTO is sent again, and discarded after eight times. -/
def execMgmtRetransmit (xid offset : BitVec 32) (s : State) : Host.Outcome State Fault Refusal :=
  .next (
    match s.mgmt.exchanges.find? fun e => e.xid == xid with
    | none => s
    | some e =>
      match e.unacked.find? fun g => g.1 = offset.toNat with
      | none => s
      | some g =>
        let put := fun (l : List (Nat × Nat × List Byte)) (t : State) =>
          { t with mgmt.exchanges := updIf t.mgmt.exchanges (fun x => x.h == e.h && x.src == e.src) fun x => { x with unacked := l } }
        if g.2.1 < 8 then
          let g' := (g.1, g.2.1 + 1, g.2.2)
          counter 14 1 (emitCpl xid e.total [g'] (put (e.unacked.map fun x => if x == g then g' else x) s))
        else dropExchanges (put (ackOne offset.toNat e.unacked) s))

/-! ### Announcements -/

/-- Management addresses of ports 0 and 1: zero for a port that is not up. -/
def ownMgmtAddrs (s : State) : List Ip6 := (fins 2).map fun p => if (s.mgmt.ports[p]).up then mgmtAddr s p else 0

/-- The ANNOUNCE of this module for a job (R464). A job without a layout gives no rank: 0xFFFF (DEDUCED, log 12). -/
def ownAnnounce (s : State) (job : W32) : Announcement :=
  { job := job,
    rank := match (jobOf job s).bind (·.layout) with
      | some l => l.rank
      | none => 0xFFFF,
    portsUp := (fins 2).foldl (fun m p => setBit m p.val (s.mgmt.ports[p]).up) 0,
    flags := BitVec.ofNat 8 (bit s.jrn.hst.replaceReq + 2 * bit s.health.expelled + 4 * bit (belowFloor s)),
    serial := s.sec.serial, score := BitVec.ofNat 16 s.health.score, conf := BitVec.ofNat 16 s.health.conf,
    mgmtAddr := ownMgmtAddrs s, fabAddr := (fins 8).map fun p => (s.fabric.ports[p]).addr }

/-- The module's group of a job exists (R464): the job is on it, or a copy is hosted for it. -/
def inGroup (s : State) (job : W32) : Bool :=
  (jobOf job s).isSome || s.regions.any (fun r => r.job == job) || s.flash.copies.any fun c => c.job == job

/-- `ANNOUNCE_SEND` (R464, R466): on each management port that is up. -/
def execAnnounceSend (job : BitVec 32) (s : State) : Host.Outcome State Fault Refusal :=
  .next (
    if answering s && inGroup s job then
      emits (((fins 2).filter (mgmtUp s)).map fun p => .announce p (ownAnnounce s job)) s
    else s)

/-- `ANNOUNCE` (R464): the entry of the announcing module for the job takes the new content. -/
def execAnnounce (a : Announcement) (s : State) : Host.Outcome State Fault Refusal :=
  .next (
    if answering s && inGroup s a.job && (fins 2).any (fun p => (s.mgmt.ports[p]).up) then
      { s with mgmt.known := s.mgmt.known.filter (fun x => !(x.job == a.job && x.serial == a.serial)) ++ [a] }
    else s)

/-- `ANNOUNCE_ENTRY_EXPIRY` (R464): 5 × t_ANNOUNCE without a refresh. -/
def execAnnounceEntryExpiry (job : BitVec 32) (rank : BitVec 16) (serial : BitVec 64) (s : State) :
    Host.Outcome State Fault Refusal :=
  .next { s with mgmt.known := s.mgmt.known.filter fun x => !(x.job == job && x.rank == rank && x.serial == serial) }

/-! ### Ports -/

/-- `MGMT_PORT_DOWN` (R466): t_MGMT_DOWN without link counts as down under class 0x05. -/
def execMgmtPortDown (p : Fin 2) (s : State) : Host.Outcome State Fault Refusal :=
  .next (
    if (s.mgmt.ports[p]).up then
      let t := mgmtLost p s
      logHealth 0x0C p.val 0 0 { t with mgmt.ports := vupd t.mgmt.ports p fun x => { x with down := true } }
    else s)

/-- `MGMT_PORT_UP` (R466): the link of a port that counted as down returns. -/
def execMgmtPortUp (p : Fin 2) (s : State) : Host.Outcome State Fault Refusal :=
  .next (
    if (s.mgmt.ports[p]).down && !s.health.mgmt.getLsbD p.val then
      logHealth 0x0D p.val 0 0 { s with mgmt.ports := vupd s.mgmt.ports p fun x => { x with up := true, down := false } }
    else s)

end Sys2Proof.Machine
end

