-- ==== Sys2Proof/Machine/MirrorCmd.lean ====
section
/-! DEFINITION. Sys2Proof/Machine/MirrorCmd.lean: the mirror commands and packets (R416 to R435), persistence to partner
flash (R430), and the transport's own rows: ACK, retransmission, window growth (R383, R385), silence (R428). -/

namespace Sys2Proof.Machine

/-! ### Exchanges of a copy host whose job is not open (R426) -/

/-- Answer a packet in such an exchange. -/
def hostReply (p : ChordHdr) (op buffer offset : Nat) (payload : List Byte) (s : State) : State :=
  hostSend p.via p.src p.job p.srcRank (fun x => hostHdr s p x (mirrorColl op buffer) offset) payload s

/-- Accept a sequenced packet of such an exchange: its stream begins with the first request, at `SEQ` 1. -/
def hostAccept (p : ChordHdr) (s : State) : State × Bool :=
  let b := viaAddr s p.via
  let x : Stream := optGet { peer := p.srcRank, onMgmt := viaMgmt p.via } (hostStream s p.src b p.job)
  let r := acceptSeq (releaseSent x p.ack 0) p.seq
  let map := (List.range 64).foldl (fun m k => m + if r.1.recv.contains (r.1.recvLow + 2 + BitVec.ofNat 32 k) then 2 ^ k else 0) 0
  let t := setHostStream p.src b p.job r.1 s
  let t := emitChord p.via p.src ptAck { hostHdr s p r.1 0 0 with ceEcho := p.ce } (beBytes 8 map) t
  (pumpHost (r.1.sent.length + 1) p.src b p.job t, r.2)

/-- The module hosts a mirror region or a flash copy for a job. -/
def hosts (job : W32) (s : State) : Bool :=
  s.regions.any (fun r => r.job == job) || s.flash.copies.any fun c => c.job == job

/-- The member whose address a copy host's packet comes from (R426, R464). -/
def senderRank (s : State) (p : ChordHdr) : Option W16 :=
  match (jobOf p.job s).bind (·.layout) with
  | none => none
  | some lay =>
    match rankOfAddr lay p.src with
    | some r => some r
    | none => (peers lay).find? fun r => (announced s p.job r).contains p.src

/-- Where a MIRROR packet belongs: on the job's own streams, or in an exchange of a copy host whose job is not open, at
this end or at the other. -/
inductive MirrorPath where
  | member
  | copyHost
  | fromHost (rank : W16)
  | refused
  deriving DecidableEq, Repr

/-- The path of a MIRROR packet; `hosted` says that the operation is one that R426 admits without an open job, `reply` that a
parked job takes it too: the answer to its `MIRROR_QUERY` (R275). -/
def mirrorPath (p : ChordHdr) (hosted reply : Bool) (s : State) : MirrorPath :=
  let here : Bool := match jobOf p.job s with
    | some j => j.phase == .opened || (reply && j.phase == .parked)
    | none => false
  if here ∧ p.srcRank = 0xFFFF then
    match senderRank s p with
    | some r => .fromHost r
    | none => .refused
  else if here then .member
  else if hosted && hosts p.job s then .copyHost
  else .refused

/-- Receive a MIRROR packet: `body` gets the sender's rank. -/
def onMirror (p : ChordHdr) (hosted reply : Bool) (early : State → Job → Bool) (body : W16 → State → State) (s : State) : State :=
  match mirrorPath p hosted reply s with
  | .member => onPacket p ptMirror true (epochIs p) (early s) (fun _ t => body p.srcRank t) s
  | .refused => if viaUp s p.via then counter 4 1 (countFrame p.via s) else s
  | .copyHost => viaHost p.srcRank
  | .fromHost r => viaHost r
where
  /-- An exchange of a copy host. -/
  viaHost (rank : W16) : State :=
    if !viaUp s p.via then s
    else if p.malformed then counter 4 1 (countFrame p.via s)
    else
      match hostAccept p (countFrame p.via s) with
      | (t, true) => body rank t
      | (t, false) => t

/-- Answer a MIRROR packet the way it came. -/
def mirrorReply (p : ChordHdr) (op buffer offset : Nat) (payload : List Byte) (s : State) : State :=
  match mirrorPath p true false s with
  | .member => sendMirror p.job p.srcRank (viaMgmt p.via) op buffer offset payload s
  | _ => hostReply p op buffer offset payload s

/-- Never too soon. -/
def never (_ : State) (_ : Job) : Bool := false

/-! ### Binding -/

/-- The checks of `MIRROR_BIND` before its packets (Table 15-1), with what reading the commit records does. -/
def bindStatus (j : Job) (lay : Layout) (degree everyN : Nat) (p0 p1 : Ip6) (s : State) : State × Option W16 :=
  let other := fun (a : Ip6) => match rankOfAddr lay a with
    | some r => r != lay.rank
    | none => false
  if degree < 1 ∨ 2 < degree ∨ everyN < 1 ∨ 1000 < everyN ∨ (degree = 1) ≠ (p1 = 0) ∨ !other p0 ∨
      (degree = 2 ∧ (!other p1 ∨ rankOfAddr lay p0 = rankOfAddr lay p1)) then (s, some stArg)
  else if j.phase ≠ .opened ∨ expelled s then (s, some stState)
  else
    match allCommitted rqVarlux j (ownShards lay) s with
    | (t, all) => (t, if !all ∨ armed j ∨ j.binding.isSome then some stState else none)

/-- `MIRROR_BIND`'s own effect (R123, R416): BIND_REQ goes to every partner. -/
def mirrorBindBody (h : Hdr) (job : W32) (degree everyN : Nat) (p0 p1 : Ip6) (s : State) : State :=
  match jobOf job s with
  | none => complete h stState [] s
  | some j =>
    match j.layout with
    | none => complete h stState [] s
    | some lay =>
      if j.phase = .preserved then complete h stState [] s
      else if jobBusy j then complete h stBusy [] s
      else
        match bindStatus j lay degree everyN p0 p1 s with
        | (s, some st) => complete h st [] s
        | (s, none) =>
          let as := areasOf j.rule lay lay.rank
          let n := regionLen as
          let gib := (n + 2 ^ 30 - 1) / 2 ^ 30
          let addrs := if degree = 2 then [p0, p1] else [p0]
          let ps := addrs.map fun a => (a, optGet 0 (rankOfAddr lay a), (none : Option Nat))
          let t := modJob job (fun x => { x with pend := some (.bind h everyN ps gib) }) s
          ps.foldl (fun t q => sendMirror job q.2.1 false mopBindReq 0 0
            (beBytes 8 n ++ beBytes 4 as.length ++ beBytes 2 everyN ++ zeros 2) t) t

/-- `MIRROR_BIND` (R416). -/
def execMirrorBind (h : Hdr) (job : BitVec 32) (degree : BitVec 8) (everyN : BitVec 16) (partner0 partner1 : BitVec 128)
    (s : State) : Host.Outcome State Fault Refusal :=
  .next (runCmd catMirrorBind h (mirrorBindBody h job degree.toNat everyN.toNat partner0 partner1) s)

/-- The granules of a region that a partner can give: those it holds for the source already, and free ones, ascending. -/
def takeRegion (r : Region) (s : State) : Option State :=
  let t := freeOwners (fun o => o == .region r.job r.rank) s
  let gs := (freeGranules t).take r.gib
  if gs.length < r.gib then none else some (gs.foldl (fun t g => setOwner g (.region r.job r.rank) t) t)

/-- A region as its header and directory say, without a copy (R421). -/
def freshRegion (r : Region) (as : List Area) (s : State) : State :=
  let t := { s with regions := s.regions.filter (fun x => !(x.job == r.job && x.rank == r.rank)) ++ [r] }
  regionWrite r 0x1000 (padTo (r.dirBytes - 0x1000) (dirBytes as)) (regionWrite r 0 (padTo 4096 (regionHeader r)) t)

/-- Move the buffers of a region to the places that new lengths of its directory and its buffers give them: a buffer that cannot
be read loses its copy. -/
def moveBuffers (o r : Region) (s : State) : State :=
  if o.dirBytes = r.dirBytes ∧ o.bufBytes = r.bufBytes then s
  else
    let rd := (fins 2).foldl (fun (p : State × List (Fin 2 × Option (List Host.Cell))) b =>
      match regionRead rqChord o (bufferOff o b) (min o.bufBytes r.bufBytes) p.1 with
      | (t, c) => (t, p.2 ++ [(b, c)])) (s, [])
    rd.2.foldl (fun t x => match x.2 with
      | some c => (regionSpans r (bufferOff r x.1) r.bufBytes t).foldl (fun t y => writeCells y.1 y.2.2 (scut c y.2.1 y.2.2 0) t) t
      | none => putDesc r x.1 ⟨0, 0, 0, false, true⟩ t) rd.1

/-- A hosted region that is large enough is reused with its copies (R418). Its buffers keep their length where the new ones fit
into them. -/
def reuseRegion (o r : Region) (as : List Area) (s : State) : State :=
  let keep := o.dirBytes = r.dirBytes ∧ r.bufBytes ≤ o.bufBytes
  let r' : Region := { r with gib := o.gib, bufBytes := if keep then o.bufBytes else r.bufBytes, target := o.target }
  let t := moveBuffers o r' { s with regions := updIf s.regions (fun x => x.job == o.job && x.rank == o.rank) fun _ => r' }
  regionWrite r' 0x1000 (padTo (r'.dirBytes - 0x1000) (dirBytes as)) (regionWrite r' 0 (regionHeader r') t)

/-- `MIRROR_BIND_REQ` (R418): a partner reuses a region that is large enough, or takes one, and answers BIND_ACK. -/
def execMirrorBindReq (p : ChordHdr) (bytes : BitVec 64) (entries : BitVec 32) (everyN : BitVec 16) (s : State) :
    Host.Outcome State Fault Refusal :=
  .next (onMirror p false false never (fun rank t =>
    let reply := fun (st : W16) (gib : Nat) (t : State) =>
      mirrorReply p mopBindAck 0 0 (beBytes 2 st.toNat ++ zeros 2 ++ beBytes 4 gib) t
    match jobOf p.job t with
    | none => t
    | some j =>
      let d := dirLen entries.toNat
      let r : Region := { job := p.job, rank := rank, epoch := j.epoch, gib := (bytes.toNat + 2 ^ 30 - 1) / 2 ^ 30, entries := entries.toNat,
                          dirBytes := d, bufBytes := (bytes.toNat - d) / 2 }
      let as := match j.layout with
        | some lay => areasOf j.rule lay rank
        | none => []
      let _ := everyN
      match regionOf p.job rank t with
      | some o =>
        if r.gib ≤ o.gib then reply stOk o.gib (reuseRegion o r as t)
        else
          match takeRegion r t with
          | some t => reply stOk r.gib (freshRegion r as t)
          | none => reply stNoSpace o.gib t
      | none =>
        match takeRegion r t with
        | some t => reply stOk r.gib (freshRegion r as t)
        | none => reply stNoSpace 0 t) s)

/-- Every partner has answered (R416): the binding stands and its initial snapshot waits to begin, or E_NO_SPACE. -/
def bindAnswered (job : W32) (s : State) : State :=
  match jobOf job s with
  | none => s
  | some j =>
    match j.pend with
    | some (.bind h everyN ps gib) =>
      if ps.any fun q => q.2.2.isNone then s
      else if ps.any fun q => decide (optGet 0 q.2.2 < gib) then complete h stNoSpace [] (clearPend job s)
      else
        modJob job (fun x => { x with
          pend := some (.bindSnap h gib), snapNext := [genOf x],
          binding := some ⟨ps.length, everyN, ps.map fun q => ⟨q.1, q.2.1, none⟩, gib⟩ }) s
    | _ => s

/-- `MIRROR_BIND_ACK` (R416): E_NO_SPACE counts as no GiB held. -/
def execMirrorBindAck (p : ChordHdr) (status : BitVec 16) (gib : BitVec 32) (s : State) : Host.Outcome State Fault Refusal :=
  .next (onMirror p false false never (fun rank t =>
    bindAnswered p.job (modJob p.job (fun x => { x with pend := match x.pend with
      | some (.bind h n ps g) => some (.bind h n (updIf ps (fun q => q.2.1 == rank)
          fun q => (q.1, q.2.1, some (if status = stOk then gib.toNat else 0))) g)
      | q => q }) t)) s)

/-! ### Snapshots -/

/-- `SNAPSHOT_BEGIN` (R423). -/
def execSnapshotBegin (job : BitVec 32) (s : State) : Host.Outcome State Fault Refusal := .next (beginSnapshot job s)

/-- Change a hosted region. -/
def modRegion (job : W32) (rank : W16) (g : Region → Region) (s : State) : State :=
  { s with regions := updIf s.regions (fun x => x.job == job && x.rank == rank) g }

/-- `MIRROR_BEGIN` (R427, R428): the partner chooses its target buffer, and the target's descriptor is written incomplete. -/
def execMirrorBegin (p : ChordHdr) (_buffer : Fin 2) (d : CopyDesc) (s : State) : Host.Outcome State Fault Refusal :=
  .next (onMirror p false false never (fun rank t => match regionOf p.job rank t with
    | some r =>
      if d.crcOk then
        match targetBuffer r t with
        | (t, b) => modRegion p.job rank (fun x => { x with target := some b }) (putDesc r b { d with complete := false } t)
      else t
    | none => t) s)

/-- DATA before its target's descriptor is written incomplete is not accepted (R428). -/
def dataEarly (p : ChordHdr) (s : State) (_ : Job) : Bool :=
  match regionOf p.job p.srcRank s with
  | some r => r.target.isNone
  | none => false

/-- `MIRROR_DATA` (R428): area bytes are stored as received. -/
def execMirrorData (p : ChordHdr) (_buffer : Fin 2) (payload : List Byte) (s : State) : Host.Outcome State Fault Refusal :=
  .next (sized p payload.length (onMirror p false false (dataEarly p) (fun rank t => match regionOf p.job rank t with
    | some r =>
      (match r.target with
       | some b =>
         if p.offset.toNat + payload.length ≤ r.bufBytes then regionWrite r (bufferOff r b + p.offset.toNat) payload t else t
       | none => t)
    | none => t)) s)

/-- `MIRROR_END` (R428): the descriptor is written complete, and DONE acknowledges the generation. -/
def execMirrorEnd (p : ChordHdr) (_buffer : Fin 2) (d : CopyDesc) (s : State) : Host.Outcome State Fault Refusal :=
  .next (onMirror p false false never (fun rank t => match regionOf p.job rank t with
    | some r =>
      (match r.target, d.crcOk with
       | some b, true =>
         mirrorReply p mopDone b.val 0 (beBytes 8 d.generation.toNat)
           (modRegion p.job rank (fun x => { x with target := none }) (putDesc r b { d with complete := true } t))
       | _, _ => t)
    | none => t) s)

/-- `MIRROR_DONE` (R428): a partner has acknowledged the generation. -/
def execMirrorDone (p : ChordHdr) (gen : BitVec 64) (s : State) : Host.Outcome State Fault Refusal :=
  .next (onMirror p false false never (fun rank t =>
    settleSnapshot p.job (modJob p.job (fun x => match x.snap with
      | none => x
      | some y =>
        if y.gen ≠ gen then x
        else match y.waiting.find? fun w => w.1 == rank && w.2.2 with
          | none => x
          | some w => { x with
              snap := some { y with waiting := y.waiting.filter (· != w) },
              binding := x.binding.map fun b => { b with
                partners := updIf b.partners (fun q => q.rank == rank) fun q => { q with last := some w.2.1 } } }) t)) s)

/-! ### Serving copies -/

/-- The bytes of a copy in use (R433): of each area its header and its coded bytes, with their offsets in the buffer. `rd`
reads the buffer; none where a read is uncorrectable. -/
def copyPieces (rd : Nat → Nat → State → State × Option (List Host.Cell)) (as : List Area) (s : State) :
    State × Option (List (Nat × List Byte)) :=
  as.foldl (fun (p : State × Option (List (Nat × List Byte))) a =>
    match p.2 with
    | none => p
    | some acc =>
      match rd a.off 32 p.1 with
      | (t, none) => (t, none)
      | (t, some hd) =>
        let n := field (mread hd 0 32) 0x10 8
        (match rd a.off (32 + n) t with
         | (t, some c) => (t, some (acc ++ [(a.off, mread c 0 (32 + n))]))
         | (t, none) => (t, none))) (s, some [])

/-- A copy as its host serves it: descriptor and pieces. -/
def readRegionCopy (r : Region) (b : Fin 2) (d : CopyDesc) (s : State) : State × Option (CopyDesc × List (Nat × List Byte)) :=
  match regionRead rqChord r 0x1000 (32 * r.entries) s with
  | (t, none) => (t, none)
  | (t, some dir) =>
    match copyPieces (fun o n u => regionRead rqChord r (bufferOff r b + o) n u) (dirParse r.entries (mread dir 0 (32 * r.entries))) t with
    | (t, some ps) => (t, some (d, ps))
    | (t, none) => (t, none)

/-- A flash copy as its host serves it. -/
def readFlashCopy (c : FlashCopy) : CopyDesc × List (Nat × List Byte) :=
  let n := field (mread c.bytes 0x10 4) 0 4
  let base := dirLen n
  match copyPieces (fun o k u => (u, some (scut c.bytes (base + o) k 0))) (dirParse n (mread c.bytes 0x1000 (32 * n))) State.reset with
  | (_, some ps) => (c.desc, ps)
  | (_, none) => (c.desc, [])

/-- `MIRROR_FETCH_REQ` (R426, R432): a complete copy of the generation (0: the newest) goes to the requester, from LPDDR6 on
the fabric and from flash on the management network. -/
def execMirrorFetchReq (p : ChordHdr) (gen : BitVec 64) (s : State) : Host.Outcome State Fault Refusal :=
  .next (onMirror p true false never (fun rank t =>
    let wanted := fun (d : CopyDesc) => gen == 0 || d.generation == gen
    let fetchEnd := fun (st : W16) (b : Nat) (d : CopyDesc) (t : State) =>
      mirrorReply p mopFetchEnd b 0 (beBytes 2 st.toNat ++ zeros 6 ++ descBytes d) t
    let none_ := fun (t : State) => fetchEnd stNoCopy 0 ⟨0, 0, 0, false, true⟩ t
    let serve := fun (b : Nat) (c : CopyDesc × List (Nat × List Byte)) (t : State) =>
      c.2.foldl (fun t x => (chunks (payloadMax (viaMgmt p.via)) x.2).foldl
        (fun t y => mirrorReply p mopFetchData b (x.1 + y.1) y.2.1 t) t) (fetchEnd stOk b c.1 t)
    if viaMgmt p.via then
      match flashCopyOf p.job rank t with
      | some c => if wanted c.desc ∧ t.flash.present then serve 0 (readFlashCopy c) (ftlRead (.copy c.job c.rank) t) else none_ t
      | none => none_ t
    else
      match regionOf p.job rank t with
      | none => none_ t
      | some r =>
        let (t, cs) := copiesOf rqChord r t
        match newestOf (cs.filter fun x => wanted x.2) with
        | none => none_ t
        | some x =>
          match readRegionCopy r x.1 x.2 t with
          | (t, some c) => serve x.1.val c t
          | (t, none) => none_ t) s)

/-- `MIRROR_FETCH_DATA` (R433): bytes of the copy that a restore fetches from this partner. -/
def execMirrorFetchData (p : ChordHdr) (payload : List Byte) (s : State) : Host.Outcome State Fault Refusal :=
  .next (sized p payload.length (onMirror p false false never (fun rank t =>
    match (jobOf p.job t).bind (·.pend) with
    | some (.restoreFetch h ex g peer flash left d got n moved before) =>
      if peer ≠ rank ∨ flash ≠ viaMgmt p.via then t
      else
        let t := if n = 0 ∧ d.isNone then openSlots p.job g before t else t
        decodeRestore p.job (modJob p.job (fun x => { x with
          pend := some (.restoreFetch h ex g peer flash left d (mwrite got p.offset.toNat payload) (n + payload.length) moved before) }) t)
    | _ => t)) s)

/-- `MIRROR_FETCH_END` (R432, R434): the copy is there, or the next source is taken. -/
def execMirrorFetchEnd (p : ChordHdr) (status : BitVec 16) (d : CopyDesc) (s : State) : Host.Outcome State Fault Refusal :=
  .next (onMirror p false false never (fun rank t =>
    match (jobOf p.job t).bind (·.pend) with
    | some (.restoreFetch h ex g peer flash left _ got n moved before) =>
      if peer ≠ rank ∨ flash ≠ viaMgmt p.via then t
      else if status ≠ stOk ∨ !descComplete d ∨ d.generation ≠ g then failSource p.job t
      else
        let t := if n = 0 then openSlots p.job g before t else t
        decodeRestore p.job (modJob p.job (fun x => { x with
          pend := some (.restoreFetch h ex g peer flash left (some d) got n moved before) }) t)
    | _ => t) s)

/-- `MIRROR_UNBIND_OP` (R420): the region and the flash copy of the sender are freed. -/
def execMirrorUnbindOp (p : ChordHdr) (s : State) : Host.Outcome State Fault Refusal :=
  .next (onMirror p true false never (fun rank t => freeFlashCopy p.job rank (endRegion p.job rank t)) s)

/-- `MIRROR_QUERY_OP` (R425): the newest complete generations of the sender's copies. -/
def execMirrorQueryOp (p : ChordHdr) (s : State) : Host.Outcome State Fault Refusal :=
  .next (onMirror p true false never (fun rank t =>
    let (t, best) := match regionOf p.job rank t with
      | some r => newestCopy rqChord r t
      | none => (t, none)
    let region : W64 := match best with
      | some x => x.2.generation
      | none => noGen
    let flash : W64 := match flashCopyOf p.job rank t with
      | some c => if t.flash.present then c.desc.generation else noGen
      | none => noGen
    mirrorReply p mopQueryReply 0 0 (beBytes 8 region.toNat ++ beBytes 8 flash.toNat) t) s)

/-- The better of an offer and what a query holds: LPDDR6 before flash at equal generation (R435). -/
def betterOffer (q : QueryRun) (g : W64) (src : Nat) : QueryRun :=
  if g = noGen then q
  else if q.best = noGen ∨ q.best < g ∨ (q.best = g ∧ src < q.src) then { q with best := g, src := src } else q

/-- `MIRROR_QUERY_REPLY` (R432, R435). -/
def execMirrorQueryReply (p : ChordHdr) (region flash : BitVec 64) (s : State) : Host.Outcome State Fault Refusal :=
  .next (onMirror p false true never (fun rank t =>
    let who := (rank, viaMgmt p.via)
    let hear := fun (q : QueryRun) => if q.waiting.contains who then betterOffer (betterOffer q region 1) flash 2 else q
    let t := modJob p.job (fun x => { x with query := x.query.map hear }) t
    dropAsk p.job who [(rank, false, if viaMgmt p.via then noGen else region), (rank, true, flash)] (dropQuery p.job who t)) s)

/-! ### Commands -/

/-- `MIRROR_UNBIND`'s own effect (R123, R420, R429). -/
def mirrorUnbindBody (h : Hdr) (job : W32) (s : State) : State :=
  match jobOf job s with
  | none => finishUnbind job h s
  | some j =>
    if jobBusy j then complete h stBusy [] s
    else if j.snap.isSome ∨ !j.snapNext.isEmpty then modJob job (fun x => { x with pend := some (.unbindWait h) }) s
    else finishUnbind job h s

/-- `MIRROR_UNBIND` (R420). -/
def execMirrorUnbind (h : Hdr) (job : BitVec 32) (s : State) : Host.Outcome State Fault Refusal :=
  .next (runCmd catMirrorUnbind h (mirrorUnbindBody h job) s)

/-- `RESTORE`'s own effect (R123, R268, R429, R432, R458). -/
def restoreBody (h : Hdr) (job : W32) (addr : Ip6) (gen : W64) (s : State) : State :=
  match jobOf job s with
  | none => complete h stState [] s
  | some j =>
    if j.phase ≠ .opened ∨ expelled s then complete h stState [] s
    else if jobBusy j then complete h stBusy [] s
    else
      match j.layout with
      | none => complete h stState [] s
      | some lay =>
        if armed j ∨ evalRunning job s then complete h stState [] s
        else if addr ≠ 0 ∧ (match rankOfAddr lay addr with
            | some r => r == lay.rank
            | none => true : Bool) then complete h stArg [] s
        else if j.snap.isSome ∨ !j.snapNext.isEmpty then modJob job (fun x => { x with pend := some (.restoreWait h addr gen) }) s
        else startRestore job h addr gen s

/-- `RESTORE` (R432). -/
def execRestore (h : Hdr) (job : BitVec 32) (partner : BitVec 128) (gen : BitVec 64) (s : State) : Host.Outcome State Fault Refusal :=
  .next (runCmd catRestore h (restoreBody h job partner gen) s)

/-- `MIRROR_QUERY`'s own effect (R435): one query of a job runs at a time. -/
def mirrorQueryBody (h : Hdr) (job : W32) (s : State) : State :=
  match jobOf job s with
  | none => complete h stState [] s
  | some j =>
    if j.query.isSome then complete h stBusy [] s
    else
      let ps := match j.phase, j.binding with
        | .preserved, _ => []
        | _, some b => b.partners.map (·.rank)
        | _, none => []
      let (t, w) := sendQueries job ps s
      let t := modJob job (fun x => { x with query := some ⟨h, w, noGen, 3⟩ }) t
      if w.isEmpty then endQuery job t else t

/-- `MIRROR_QUERY` (R435). -/
def execMirrorQuery (h : Hdr) (job : BitVec 32) (s : State) : Host.Outcome State Fault Refusal :=
  .next (runCmd catMirrorQuery h (mirrorQueryBody h job) s)

/-! ### Persistence (R430, R431) -/

/-- `FLASH_COPY_PERSIST` (R430): the newest complete copy that is not the flash copy already. -/
def execFlashCopyPersist (job : BitVec 32) (rank : BitVec 16) (s : State) : Host.Outcome State Fault Refusal :=
  .next (
    let running := s.flash.persisting.any fun x => x.1 == job && x.2.1 == rank
    match regionOf job rank s with
    | none => s
    | some r =>
    match newestCopy rqMove r s with
    | (s, none) => s
    | (s, some (b, d)) =>
      let same : Bool := match flashCopyOf job rank s with
        | some c => c.desc == d
        | none => false
      let size := r.dirBytes + r.bufBytes
      if !s.flash.present || s.flash.readOnly || running || same || !flashRoom s size then s
      else { s with flash.persisting := s.flash.persisting ++ [(job, rank, b.val, d)] })

/-- `FLASH_COPY_SWITCH` (R430): the new flash copy takes the place of the earlier one; a copy that cannot be read leaves the
earlier one. -/
def execFlashCopySwitch (job : BitVec 32) (rank : BitVec 16) (s : State) : Host.Outcome State Fault Refusal :=
  .next (
    match s.flash.persisting.find? fun x => x.1 == job && x.2.1 == rank, regionOf job rank s with
    | some (_, _, b, d), some r =>
      let t := { s with flash.persisting := s.flash.persisting.filter fun x => !(x.1 == job && x.2.1 == rank) }
      let size := r.dirBytes + r.bufBytes
      match regionRead rqMove r 0 r.dirBytes t with
      | (t, none) => t
      | (t, some head) =>
        match regionRead rqMove r (bufferOff r (finOf b)) r.bufBytes t with
        | (t, none) => t
        | (t, some buf) =>
          let c : FlashCopy := ⟨job, rank, d, size, scopy head r.dirBytes buf 0 r.bufBytes⟩
          let u := { t with flash.copies := (t.flash.copies.filter fun c => !(c.job == job && c.rank == rank)) ++ [c] }
          ftlWrite (.copy job rank) (List.range (extCount size)) (flashWrote size u)
    | _, _ => s)

/-! ### Silence, acknowledgement, retransmission, windows -/

/-- `SILENCE_OUTSIDE_ARMED_STEP` (R413, R416, R428, R434, R435): a peer has been silent for t_DETECT. -/
def execSilenceOutsideArmedStep (job : BitVec 32) (peer : BitVec 16) (s : State) : Host.Outcome State Fault Refusal :=
  .next (match jobOf job s with
    | some j => if armed j then s else losePeer job peer false s
    | none => s)

/-- `ACK` (R383, R385): packets are released, `CE_ECHO` halves the window, and what then fits is sent. -/
def execAck (p : ChordHdr) (map : BitVec 64) (s : State) : Host.Outcome State Fault Refusal :=
  .next (
    let b := viaAddr s p.via
    let host := fun (s : State) => match hostStream s p.src b p.job with
      | some x =>
        let y := releaseSent x p.ack map
        let y := if p.ceEcho then { y with window := max 0x10000 (y.window / 2) } else y
        pumpHost (y.sent.length + 1) p.src b p.job (setHostStream p.src b p.job y s)
      | none => s
    match mirrorPath p true true s with
    | .member => onPacket p ptAck false (fun _ => true) noWait (fun j t =>
        let act := takeAck j.id p.srcRank (viaMgmt p.via) p.ack map p.ceEcho
        let t := host t
        if p.epoch = j.epoch then act t else if p.epoch = j.epoch + 1 then onNext j.id act t else t) s
    | .refused => if viaUp s p.via then counter 4 1 (countFrame p.via s) else s
    | .copyHost => if viaUp s p.via && !p.malformed then host (countFrame p.via s) else s
    | .fromHost r =>
      if viaUp s p.via && !p.malformed then
        host (takeAck p.job r (viaMgmt p.via) p.ack map p.ceEcho (countFrame p.via s))
      else s)

/-- A packet of a stream that has been transmitted and is unacknowledged. -/
def unacked (x : Stream) (seq : W32) : Option SentPkt := x.sent.find? fun p => p.seq == seq && p.sent

/-- `RETRANSMIT_TIMEOUT` (R383): the packet is sent again with `RETX`, on another common port where one exists: on the
stream of the fabric, of the management network, of the epoch to come, or of an exchange with a copy host, whichever holds
it. -/
def execRetransmitTimeout (job : BitVec 32) (peer : BitVec 16) (seq : BitVec 32) (s : State) : Host.Outcome State Fault Refusal :=
  .next (
    let again := fun (mg : Bool) (p : SentPkt) (s : State) => match jobOf job s with
      | none => s
      | some j =>
        modStream job peer mg (fun x => { x with sent := updIf x.sent (fun q => q.seq == seq) fun q =>
            { q with port := if mg then none else nextPort s j peer p.port } })
          (sendOn j peer mg p.port p.kind { p.hdr with seq := p.seq, retx := true } p.payload s)
    let hosted := fun (s : State) =>
      match s.fabric.hostStreams.find? fun x => x.2.2.1 == job && x.2.2.2.peer == peer && (unacked x.2.2.2 seq).isSome with
      | some x => (match unacked x.2.2.2 seq with
        | some p => emitChord p.hdr.via x.1 p.kind { p.hdr with seq := p.seq, retx := true } p.payload s
        | none => s)
      | none => s
    match jobOf job s with
    | some j =>
      let n := { j with streams := j.nextStreams }
      (match unacked (streamOf j peer false) seq, unacked (streamOf j peer true) seq, unacked (streamOf n peer false) seq with
       | some p, _, _ => again false p s
       | none, some p, _ => again true p s
       | none, none, some p => onNext job (again false p) s
       | none, none, none => hosted s)
    | none => hosted s)

/-- A window after t_RTO without `CE_ECHO` (R385). -/
def grow (x : Stream) : Stream := { x with window := min 0x400000 (x.window + 0x10000) }

/-- Every stream of some with a peer grows. -/
def growWith (peer : W16) (l : List Stream) : List Stream := updIf l (fun x => x.peer == peer) grow

/-- Transmit what the streams with a peer then hold. -/
def pumpPeer (job : W32) (peer : W16) (s : State) : State :=
  match jobOf job s with
  | none => s
  | some j =>
    let t := (j.streams.filter fun x => x.peer == peer).foldl (fun t x => pumpStream (x.sent.length + 1) job peer x.onMgmt t) s
    (j.nextStreams.filter fun x => x.peer == peer).foldl (fun t x =>
      onNext job (pumpStream (x.sent.length + 1) job peer x.onMgmt) t) t

/-- `STREAM_WINDOW_GROWTH` (R385): the streams with a peer, those of the epoch to come and of an exchange with a copy host among
them. -/
def execStreamWindowGrowth (job : BitVec 32) (peer : BitVec 16) (s : State) : Host.Outcome State Fault Refusal :=
  .next (
    let mine := fun (x : Ip6 × Ip6 × W32 × Stream) => x.2.2.1 == job && x.2.2.2.peer == peer
    let t := modJob job (fun j => { j with streams := growWith peer j.streams, nextStreams := growWith peer j.nextStreams })
      { s with fabric.hostStreams := updIf s.fabric.hostStreams mine fun x => (x.1, x.2.1, x.2.2.1, grow x.2.2.2) }
    (t.fabric.hostStreams.filter mine).foldl (fun t x => pumpHost (x.2.2.2.sent.length + 1) x.1 x.2.1 job t) (pumpPeer job peer t))

end Sys2Proof.Machine
end

