-- ==== Sys2Proof/Machine/SpdmCmd.lean ====
section
/-! DEFINITION. Sys2Proof/Machine/SpdmCmd.lean: the SPDM 1.2 responder (R90, R91). The spec names the messages and their
contents; their bytes are those of DSP0274, PRESUMED (log 15). -/

namespace Sys2Proof.Machine

/-- Send a response on the DOE mailbox. -/
def spdmSend (bs : List Byte) (s : State) : State := emit (.spdm bs) s

/-- Header of a 1.2 response. -/
def spdmHdr (code p1 p2 : Byte) : List Byte := [0x12, code, p1, p2]

/-- ERROR codes (DSP0274). -/
def erInvalid : Byte := 0x01
def erUnexpected : Byte := 0x04
def erUnspecified : Byte := 0x05
def erUnsupported : Byte := 0x07
def erBusy : Byte := 0x03

/-- An ERROR response. -/
def spdmError (code data : Byte) (s : State) : State := spdmSend (spdmHdr 0x7F code data) s

/-- SEC answers requests that reach the CXL DOE mailbox (R66, R90). -/
def spdmReach (s : State) : Bool := s.mbx.link == .l0

/-- A response of the connection: it waits in the DOE mailbox until the requester has taken it (R91; log 96). -/
def spdmReply (bs : List Byte) (s : State) : State := spdmSend bs { s with sec.doeWaits := true }

/-- A request that reaches SEC: while a response is pending it receives ERROR, code Busy (R91). -/
def spdmTurn (body : State → State) (s : State) : State :=
  if !spdmReach s then s else if s.sec.doeWaits then spdmError erBusy 0 s else body s

/-- ERROR in answer to a request that is served. -/
def spdmRefuse (code data : Byte) (s : State) : State := spdmReply (spdmHdr 0x7F code data) s

/-- A request that needs the negotiation of R90 to have reached a state. -/
def spdmAt (n : Nat) (body : State → State) (s : State) : State :=
  spdmTurn (fun t => if t.sec.spdm < n then spdmRefuse erUnexpected 0 t else body t) s

/-- What SPDM 1.2 signs: the prefix with the context of the message, and the digest of the transcript. -/
def spdmSigned (context : String) (transcript : List Byte) : List Byte :=
  let p := ascii "dmtf-spdm-v1.2.*"
  let c := ascii context
  p ++ p ++ p ++ p ++ [0x00] ++ zeros (35 - c.length) ++ c ++ sha256 transcript

/-- A 32-byte nonce (R67). -/
def nonce (s : State) : List Byte × State := randomBytes s

/-- Sign a transcript with the identity key (R73, R79, R90): the salt is a request to the DRBG (R67). -/
def spdmSign (context : String) (transcript : List Byte) (s : State) : List Byte × State :=
  let (salt, t) := randomBytes s
  (slice (Config.identityRsa (pssEncode (spdmSigned context transcript) salt)) 0 384, t)

/-- The messages of a request and its response join the transcript of digests and certificates. -/
def talkB (req resp : List Byte) (s : State) : State := { s with sec.talkB := s.sec.talkB ++ req ++ resp, sec.talkL := [] }

/-- The identity key is at hand: an image has been verified in this boot, and a wrapped copy authenticated (R73, R76). -/
def identityUp (s : State) : Bool := s.sec.running.isSome && !s.sec.identDown

/-- `SPDM_GET_VERSION` (R90, R91): version 1.2, and the negotiated state is lost. -/
def execSpdmGetVersion (s : State) : Host.Outcome State Fault Refusal :=
  .next (spdmTurn (fun t =>
    let msg := [0x10, 0x04, 0x00, 0x00] ++ [0x00, 0x01] ++ leBytes 2 0x1200
    spdmReply msg { t with sec := { t.sec with spdm := 1, talkA := [0x10, 0x84, 0x00, 0x00] ++ msg, talkB := [], talkL := [] } }) s)

/-- The capabilities of Table 03-5: CERT_CAP, CHAL_CAP, and MEAS_CAP = signed. -/
def spdmFlags : Nat := 0x02 + 0x04 + 0x10

/-- `SPDM_GET_CAPABILITIES` (R90). -/
def execSpdmGetCapabilities (s : State) (req : List (BitVec 8) := []) : Host.Outcome State Fault Refusal :=
  .next (spdmAt 1 (fun t =>
    let msg := spdmHdr 0x61 0 0 ++ [0, 14, 0, 0] ++ leBytes 4 spdmFlags ++ leBytes 4 4096 ++ leBytes 4 4096
    spdmReply msg { t with sec := { t.sec with spdm := 2, talkA := t.sec.talkA ++ req ++ msg } }) s)

/-- `SPDM_NEGOTIATE_ALGORITHMS` (R90): no other choice is accepted. -/
def execSpdmNegotiateAlgorithms (a : SpdmAlgs) (s : State) (req : List (BitVec 8) := []) : Host.Outcome State Fault Refusal :=
  .next (spdmAt 2 (fun t =>
    if a.dmtf && a.pss3072 && a.sha256 then
      let msg := spdmHdr 0x63 0 0 ++ leBytes 2 36 ++ [0x01, 0x00] ++ leBytes 4 0x2 ++ leBytes 4 0x8 ++ leBytes 4 0x1 ++ zeros 16
      spdmReply msg { t with sec := { t.sec with spdm := 3, talkA := t.sec.talkA ++ req ++ msg } }
    else spdmRefuse erInvalid 0 t) s)

/-- `SPDM_GET_DIGESTS` (R90): slot 0 only. -/
def execSpdmGetDigests (s : State) : Host.Outcome State Fault Refusal :=
  .next (spdmAt 3 (fun t =>
    let msg := spdmHdr 0x01 0 0x01 ++ sha256 (certChain t.sec.serial)
    spdmReply msg (talkB [0x12, 0x81, 0x00, 0x00] msg t)) s)

/-- `SPDM_GET_CERTIFICATE` (R90): slot 0, in portions of at most 1,024 bytes. -/
def execSpdmGetCertificate (slot : BitVec 8) (offset length : BitVec 16) (s : State) : Host.Outcome State Fault Refusal :=
  .next (spdmAt 3 (fun t =>
    let chain := certChain t.sec.serial
    let all := chain.length
    if slot ≠ 0 ∨ all ≤ offset.toNat then spdmRefuse erInvalid 0 t
    else
      let p := (chain.drop offset.toNat).take (min length.toNat 1024)
      let msg := spdmHdr 0x02 0 0 ++ leBytes 2 p.length ++ leBytes 2 (all - offset.toNat - p.length) ++ p
      spdmReply msg (talkB ([0x12, 0x82, slot, 0x00] ++ leBytes 2 offset.toNat ++ leBytes 2 length.toNat) msg t)) s)

/-- The value type of a measurement register (Table 03-4). -/
def measType (i : Nat) : Nat :=
  match i with
  | 1 => 0
  | 2 | 3 => 1
  | _ => 3

/-- The block of measurement register i, 1 to 5, in digest form. -/
def measBlock (s : State) (i : Nat) : List Byte :=
  leBytes 1 i ++ [0x01] ++ leBytes 2 35 ++ leBytes 1 (measType i) ++ leBytes 2 32 ++ digestBytes s.sec.meas[(finOf (i - 1) : Fin 5)]

/-- Every measurement block in index order. -/
def measAll (s : State) : List Byte := ([1, 2, 3, 4, 5] : List Nat).flatMap (measBlock s)

/-- The measurement summary hash of a type: none, TCB or all. Which registers are the TCB is not stated: a free value (log 3). -/
def summaryHash (kind : Byte) (s : State) : List Byte × State :=
  if kind = 0x00 then ([], s)
  else if kind = 0xFF then (sha256 (measAll s), s)
  else
    let (v, t) := freeVal s
    (beBytes 32 v, t)

/-- `SPDM_CHALLENGE` (R90): signed by the identity key over the messages of the connection, unless entropy or the identity is
unavailable (R68, R76). -/
def execSpdmChallenge (slot summary : BitVec 8) (nonce : BitVec 256) (s : State) : Host.Outcome State Fault Refusal :=
  .next (spdmAt 3 (fun t =>
    if slot ≠ 0 ∨ (summary ≠ 0x00 ∧ summary ≠ 0x01 ∧ summary ≠ 0xFF) then spdmRefuse erInvalid 0 t
    else if t.sec.entDown || !identityUp t then spdmRefuse erUnspecified 0 t
    else
      let (n, t) := Sys2Proof.Machine.nonce t
      let (h, t) := summaryHash summary t
      let msg := spdmHdr 0x03 0 0x01 ++ sha256 (certChain t.sec.serial) ++ n ++ h ++ [0x00, 0x00]
      let m1 := t.sec.talkA ++ t.sec.talkB ++ [0x12, 0x83, slot, summary] ++ beBytes 32 nonce.toNat ++ msg
      let (g, t) := spdmSign "responder-challenge_auth signing" m1 t
      spdmReply (msg ++ g) { t with sec := { t.sec with talkB := [], talkL := [] } }) s)

/-- The measurement record for an index: the number of blocks and their bytes; none where the index names none. -/
def measRecord (ix : Byte) (s : State) : Option (Nat × List Byte) :=
  if ix = 0x00 then some (0, [])
  else if ix = 0xFF then some (5, measAll s)
  else if ix.toNat ≤ 5 then some (1, measBlock s ix.toNat)
  else none

/-- `SPDM_GET_MEASUREMENTS` (R90): the registers of an index, all of them (0xFF), or their count (0x00). A signed response carries
the signature over the negotiation and the measurement messages since the last one. -/
def execSpdmGetMeasurements (index slot : BitVec 8) (signed : Bool) (s : State) (nonce : BitVec 256 := 0) :
    Host.Outcome State Fault Refusal :=
  .next (spdmAt 3 (fun t =>
    match measRecord index t with
    | none => spdmRefuse erInvalid 0 t
    | some (k, rec_) =>
      if signed && slot != 0 then spdmRefuse erInvalid 0 t
      else if t.sec.entDown || (signed && !identityUp t) then spdmRefuse erUnspecified 0 t
      else
        let (n, t) := Sys2Proof.Machine.nonce t
        let req := [0x12, 0xE0, if signed then 0x01 else 0x00, index] ++ if signed then beBytes 32 nonce.toNat ++ [slot] else []
        let msg := spdmHdr 0x60 (if index = 0 then 5 else 0) 0 ++ leBytes 1 k ++ leBytes 3 rec_.length ++ rec_ ++ n ++ [0x00, 0x00]
        let l1 := t.sec.talkL ++ req ++ msg
        if signed then
          let (g, t) := spdmSign "responder-measurements signing" (t.sec.talkA ++ l1) t
          spdmReply (msg ++ g) { t with sec := { t.sec with talkB := [], talkL := [] } }
        else spdmReply msg { t with sec := { t.sec with talkB := [], talkL := l1 } }) s)

/-- `SPDM_UNSUPPORTED_REQUEST` (R90): ERROR with code UnsupportedRequest, which names the request. -/
def execSpdmUnsupportedRequest (code : BitVec 8) (s : State) : Host.Outcome State Fault Refusal :=
  .next (spdmTurn (spdmRefuse erUnsupported code) s)

end Sys2Proof.Machine
end

