-- ==== Sys2Proof/Machine/Dispatch.lean ====
section
/-! DEFINITION. Sys2Proof/Machine/Dispatch.lean: one arm per command of the opcode table. -/

namespace Sys2Proof.Machine

def exec (i : Instr) (s : State) : Host.Outcome State Fault Refusal :=
  match i with
  | .pwrEnAsserted => Sys2Proof.Machine.execPwrEnAsserted s
  | .pgoodRise => Sys2Proof.Machine.execPgoodRise s
  | .pwrEnDeasserted => Sys2Proof.Machine.execPwrEnDeasserted s
  | .inputUndervoltage => Sys2Proof.Machine.execInputUndervoltage s
  | .inputOvervoltage => Sys2Proof.Machine.execInputOvervoltage s
  | .thermalTrip => Sys2Proof.Machine.execThermalTrip s
  | .thermWarn => Sys2Proof.Machine.execThermWarn s
  | .refclkLoss => Sys2Proof.Machine.execRefclkLoss s
  | .perstAsserted => Sys2Proof.Machine.execPerstAsserted s
  | .selfRefreshEntryDone n => Sys2Proof.Machine.execSelfRefreshEntryDone n s
  | .srEntryTimeout => Sys2Proof.Machine.execSrEntryTimeout s
  | .bootStart f torn => Sys2Proof.Machine.execBootStart f torn s
  | .mgmtStageEnd p r => Sys2Proof.Machine.execMgmtStageEnd p r s
  | .imageStageEnd active other identA identB => Sys2Proof.Machine.execImageStageEnd active other identA identB s
  | .varluxStageEnd r => Sys2Proof.Machine.execVarluxStageEnd r s
  | .clocksStageEnd prismPllFail lvPll => Sys2Proof.Machine.execClocksStageEnd prismPllFail lvPll s
  | .d2dStageEnd working => Sys2Proof.Machine.execD2dStageEnd working s
  | .memStageEnd n r failedPairs stream => Sys2Proof.Machine.execMemStageEnd n r failedPairs s stream
  | .latticeStageEnd r failedColumns stream => Sys2Proof.Machine.execLatticeStageEnd r failedColumns s stream
  | .flashStageEnd r stream => Sys2Proof.Machine.execFlashStageEnd r s stream
  | .fabricStageEnd p r mode stream => Sys2Proof.Machine.execFabricStageEnd p r mode s stream
  | .readyStage r => Sys2Proof.Machine.execReadyStage r s
  | .wdtFirstExpiry => Sys2Proof.Machine.execWdtFirstExpiry s
  | .wdtSecondExpiry => Sys2Proof.Machine.execWdtSecondExpiry s
  | .wdtBootExpiry => Sys2Proof.Machine.execWdtBootExpiry s
  | .aonWdtCtrlWrite v => Sys2Proof.Machine.execAonWdtCtrlWrite v s
  | .aonWdtKick v => Sys2Proof.Machine.execAonWdtKick v s
  | .aonPtimeLoRead => Sys2Proof.Machine.execAonPtimeLoRead s
  | .poweredTimeTick => Sys2Proof.Machine.execPoweredTimeTick s
  | .apexFatalError => Sys2Proof.Machine.execApexFatalError s
  | .jtagResetRequest => Sys2Proof.Machine.execJtagResetRequest s
  | .secSecurityEvent => Sys2Proof.Machine.execSecSecurityEvent s
  | .entropyHealthFail startups => Sys2Proof.Machine.execEntropyHealthFail s startups
  | .drbgReseed => Sys2Proof.Machine.execDrbgReseed s
  | .d2dFlitCheckFail link module => Sys2Proof.Machine.execD2dFlitCheckFail link s module
  | .d2dModuleRemove link module => Sys2Proof.Machine.execD2dModuleRemove link s module
  | .smbReadByte off => Sys2Proof.Machine.execSmbReadByte off s
  | .smbReadWord off => Sys2Proof.Machine.execSmbReadWord off s
  | .smbWriteByte off v => Sys2Proof.Machine.execSmbWriteByte off v s
  | .smbAlertResponse won => Sys2Proof.Machine.execSmbAlertResponse won s
  | .smbTimeout => Sys2Proof.Machine.execSmbTimeout s
  | .hostLinkUp => Sys2Proof.Machine.execHostLinkUp s
  | .cxlConfigRequest r => Sys2Proof.Machine.execCxlConfigRequest s r
  | .functionLevelReset => Sys2Proof.Machine.execFunctionLevelReset s
  | .hotReset => Sys2Proof.Machine.execHotReset s
  | .hostLinkDown => Sys2Proof.Machine.execHostLinkDown s
  | .cxlMemRead off => Sys2Proof.Machine.execCxlMemRead off s
  | .cxlMemWrite off data poison => Sys2Proof.Machine.execCxlMemWrite off data poison s
  | .cxlMemNarrowWrite off data enables poison => Sys2Proof.Machine.execCxlMemNarrowWrite off data enables s poison
  | .backInvalidateResponse line => Sys2Proof.Machine.execBackInvalidateResponse line s
  | .registerWrite off size v => Sys2Proof.Machine.execRegisterWrite off size v s
  | .ringCtrlWrite n v => Sys2Proof.Machine.execRingCtrlWrite n v s
  | .ringSqTail n v => Sys2Proof.Machine.execRingSqTail n v s
  | .ringCqHead n v => Sys2Proof.Machine.execRingCqHead n v s
  | .mbxEventEnWrite v => Sys2Proof.Machine.execMbxEventEnWrite v s
  | .telPtimeLoRead wide => Sys2Proof.Machine.execTelPtimeLoRead wide s
  | .telemetryUpdate powerW => Sys2Proof.Machine.execTelemetryUpdate powerW s
  | .commandFetch n entry bufFault cplFault readFail => Sys2Proof.Machine.execCommandFetch n entry bufFault cplFault s readFail
  | .mbxOpen h major minMinor maxMinor => Sys2Proof.Machine.execMbxOpen h major minMinor maxMinor s
  | .deviceInfo h => Sys2Proof.Machine.execDeviceInfo h s
  | .deviceReset h kind => Sys2Proof.Machine.execDeviceReset h kind s
  | .deviceResetTrigger => Sys2Proof.Machine.execDeviceResetTrigger s
  | .gpioConfig h pin func => Sys2Proof.Machine.execGpioConfig h pin func s
  | .bootJournalRead h => Sys2Proof.Machine.execBootJournalRead h s
  | .bootJournalClear h => Sys2Proof.Machine.execBootJournalClear h s
  | .fwInstall h offset flags slot chunk => Sys2Proof.Machine.execFwInstall h offset flags slot chunk s
  | .fwActivate h slot => Sys2Proof.Machine.execFwActivate h slot s
  | .fwSvnCommit h flags cut => Sys2Proof.Machine.execFwSvnCommit h flags cut s
  | .debugUnlock h token => Sys2Proof.Machine.execDebugUnlock h token s
  | .fuseBurn h token cut => Sys2Proof.Machine.execFuseBurn h token cut s
  | .healthRead h => Sys2Proof.Machine.execHealthRead h s
  | .healthConfig h threshold hysteresis dwell budget window => Sys2Proof.Machine.execHealthConfig h threshold hysteresis dwell budget window s
  | .unitFence h unit index action => Sys2Proof.Machine.execUnitFence h unit index action s
  | .rehearsalConfig h flags period mask => Sys2Proof.Machine.execRehearsalConfig h flags period mask s
  | .diagRun h testId unit index result duration => Sys2Proof.Machine.execDiagRun h testId unit index result duration s
  | .memRegionMode h first count mode => Sys2Proof.Machine.execMemRegionMode h first count mode s
  | .memErrorRead h => Sys2Proof.Machine.execMemErrorRead h s
  | .memHdmWindow h first size => Sys2Proof.Machine.execMemHdmWindow h first size s
  | .fabricConfig h port tDetect addr => Sys2Proof.Machine.execFabricConfig h port tDetect addr s
  | .portStatus h port => Sys2Proof.Machine.execPortStatus h port s
  | .collectiveAbort h job => Sys2Proof.Machine.execCollectiveAbort h job s
  | .sectorCreate h columns quota weight flags => Sys2Proof.Machine.execSectorCreate h columns quota weight flags s
  | .sectorDestroy h => Sys2Proof.Machine.execSectorDestroy h s
  | .arcLoad h image => Sys2Proof.Machine.execArcLoad h image s
  | .arcStart h cadence => Sys2Proof.Machine.execArcStart h cadence s
  | .arcStop h => Sys2Proof.Machine.execArcStop h s
  | .park h job => Sys2Proof.Machine.execPark h job s
  | .parkResume job => Sys2Proof.Machine.execParkResume job s
  | .unpark h job => Sys2Proof.Machine.execUnpark h job s
  | .objCreate h id size tier job => Sys2Proof.Machine.execObjCreate h id size tier job s
  | .objDestroy h id => Sys2Proof.Machine.execObjDestroy h id s
  | .objPromote h id tier flags => Sys2Proof.Machine.execObjPromote h id tier flags s
  | .objEvict h id tier => Sys2Proof.Machine.execObjEvict h id tier s
  | .objPin h id => Sys2Proof.Machine.execObjPin h id s
  | .objUnpin h id => Sys2Proof.Machine.execObjUnpin h id s
  | .evictionDequeue id => Sys2Proof.Machine.execEvictionDequeue id s
  | .moveSwitch id => Sys2Proof.Machine.execMoveSwitch id s
  | .moveFail id cause => Sys2Proof.Machine.execMoveFail id cause s
  | .prefetchSchedule h job buf => Sys2Proof.Machine.execPrefetchSchedule h job buf s
  | .jobOpen h job seed rule => Sys2Proof.Machine.execJobOpen h job seed rule s
  | .jobClose h job => Sys2Proof.Machine.execJobClose h job s
  | .layoutInstall h job epoch flags buf => Sys2Proof.Machine.execLayoutInstall h job epoch flags buf s
  | .layoutDrainDone job => Sys2Proof.Machine.execLayoutDrainDone job s
  | .shardCommit h job shard gen src => Sys2Proof.Machine.execShardCommit h job shard gen src s
  | .shardRead h job shard dest => Sys2Proof.Machine.execShardRead h job shard dest s
  | .stepArm h job step micro epoch => Sys2Proof.Machine.execStepArm h job step micro epoch s
  | .stepStatus h job => Sys2Proof.Machine.execStepStatus h job s
  | .ruleLoad h job buf => Sys2Proof.Machine.execRuleLoad h job buf s
  | .mirrorBind h job degree everyN partner0 partner1 => Sys2Proof.Machine.execMirrorBind h job degree everyN partner0 partner1 s
  | .mirrorUnbind h job => Sys2Proof.Machine.execMirrorUnbind h job s
  | .restore h job partner gen => Sys2Proof.Machine.execRestore h job partner gen s
  | .mirrorQuery h job => Sys2Proof.Machine.execMirrorQuery h job s
  | .spdmGetVersion => Sys2Proof.Machine.execSpdmGetVersion s
  | .spdmGetCapabilities req => Sys2Proof.Machine.execSpdmGetCapabilities s req
  | .spdmNegotiateAlgorithms a req => Sys2Proof.Machine.execSpdmNegotiateAlgorithms a s req
  | .spdmGetDigests => Sys2Proof.Machine.execSpdmGetDigests s
  | .spdmGetCertificate slot offset length => Sys2Proof.Machine.execSpdmGetCertificate slot offset length s
  | .spdmChallenge slot summary nonce => Sys2Proof.Machine.execSpdmChallenge slot summary nonce s
  | .spdmGetMeasurements index slot signed nonce => Sys2Proof.Machine.execSpdmGetMeasurements index slot signed s nonce
  | .spdmUnsupportedRequest code => Sys2Proof.Machine.execSpdmUnsupportedRequest code s
  | .nop f q e => Sys2Proof.Machine.execNop f q e s
  | .halt f q e => Sys2Proof.Machine.execHalt f q e s
  | .li f q e => Sys2Proof.Machine.execLi f q e s
  | .saluAdd f q e => Sys2Proof.Machine.execSaluAdd f q e s
  | .saluSub f q e => Sys2Proof.Machine.execSaluSub f q e s
  | .saluAnd f q e => Sys2Proof.Machine.execSaluAnd f q e s
  | .saluOr f q e => Sys2Proof.Machine.execSaluOr f q e s
  | .saluXor f q e => Sys2Proof.Machine.execSaluXor f q e s
  | .saluShl f q e => Sys2Proof.Machine.execSaluShl f q e s
  | .saluShr f q e => Sys2Proof.Machine.execSaluShr f q e s
  | .saluSra f q e => Sys2Proof.Machine.execSaluSra f q e s
  | .saluMul f q e => Sys2Proof.Machine.execSaluMul f q e s
  | .saluMulhu f q e => Sys2Proof.Machine.execSaluMulhu f q e s
  | .saluMinu f q e => Sys2Proof.Machine.execSaluMinu f q e s
  | .saluMaxu f q e => Sys2Proof.Machine.execSaluMaxu f q e s
  | .saluSltu f q e => Sys2Proof.Machine.execSaluSltu f q e s
  | .saluSlt f q e => Sys2Proof.Machine.execSaluSlt f q e s
  | .saluSeq f q e => Sys2Proof.Machine.execSaluSeq f q e s
  | .sld f q e => Sys2Proof.Machine.execSld f q e s
  | .sst f q e => Sys2Proof.Machine.execSst f q e s
  | .br f q e => Sys2Proof.Machine.execBr f q e s
  | .loop f q e => Sys2Proof.Machine.execLoop f q e s
  | .wait f q e => Sys2Proof.Machine.execWait f q e s
  | .csrr f q e => Sys2Proof.Machine.execCsrr f q e s
  | .tdseta f q e => Sys2Proof.Machine.execTdseta f q e s
  | .tdsetm f q e => Sys2Proof.Machine.execTdsetm f q e s
  | .tdadd f q e => Sys2Proof.Machine.execTdadd f q e s
  | .mmaLdw f q e => Sys2Proof.Machine.execMmaLdw f q e s
  | .mmaRun f q e => Sys2Proof.Machine.execMmaRun f q e s
  | .accZero f q e => Sys2Proof.Machine.execAccZero f q e s
  | .accCfg f q e => Sys2Proof.Machine.execAccCfg f q e s
  | .accDrain f q e => Sys2Proof.Machine.execAccDrain f q e s
  | .accLoad f q e => Sys2Proof.Machine.execAccLoad f q e s
  | .veLd f q e => Sys2Proof.Machine.execVeLd f q e s
  | .veSt f q e => Sys2Proof.Machine.execVeSt f q e s
  | .veMov f q e => Sys2Proof.Machine.execVeMov f q e s
  | .veAdd f q e => Sys2Proof.Machine.execVeAdd f q e s
  | .veSub f q e => Sys2Proof.Machine.execVeSub f q e s
  | .veMul f q e => Sys2Proof.Machine.execVeMul f q e s
  | .veFma f q e => Sys2Proof.Machine.execVeFma f q e s
  | .veFnma f q e => Sys2Proof.Machine.execVeFnma f q e s
  | .veMax f q e => Sys2Proof.Machine.execVeMax f q e s
  | .veMin f q e => Sys2Proof.Machine.execVeMin f q e s
  | .veAbs f q e => Sys2Proof.Machine.execVeAbs f q e s
  | .veNeg f q e => Sys2Proof.Machine.execVeNeg f q e s
  | .veAddk f q e => Sys2Proof.Machine.execVeAddk f q e s
  | .veMulk f q e => Sys2Proof.Machine.execVeMulk f q e s
  | .veFmak f q e => Sys2Proof.Machine.execVeFmak f q e s
  | .veClamp f q e => Sys2Proof.Machine.execVeClamp f q e s
  | .veCmpgt f q e => Sys2Proof.Machine.execVeCmpgt f q e s
  | .veCmpge f q e => Sys2Proof.Machine.execVeCmpge f q e s
  | .veCmpeq f q e => Sys2Proof.Machine.execVeCmpeq f q e s
  | .veSel f q e => Sys2Proof.Machine.execVeSel f q e s
  | .veFloor f q e => Sys2Proof.Machine.execVeFloor f q e s
  | .veRndi f q e => Sys2Proof.Machine.execVeRndi f q e s
  | .veGetexp f q e => Sys2Proof.Machine.execVeGetexp f q e s
  | .veGetmant f q e => Sys2Proof.Machine.execVeGetmant f q e s
  | .veLdexp f q e => Sys2Proof.Machine.execVeLdexp f q e s
  | .veCvtbf f q e => Sys2Proof.Machine.execVeCvtbf f q e s
  | .veRmax f q e => Sys2Proof.Machine.execVeRmax f q e s
  | .veRsum f q e => Sys2Proof.Machine.execVeRsum f q e s
  | .veCsum f q e => Sys2Proof.Machine.execVeCsum f q e s
  | .veBcast0 f q e => Sys2Proof.Machine.execVeBcast0 f q e s
  | .veRcp f q e => Sys2Proof.Machine.execVeRcp f q e s
  | .veRsqrt f q e => Sys2Proof.Machine.execVeRsqrt f q e s
  | .veExp f q e => Sys2Proof.Machine.execVeExp f q e s
  | .veRand f q e => Sys2Proof.Machine.execVeRand f q e s
  | .dmaRd f q e => Sys2Proof.Machine.execDmaRd f q e s
  | .dmaWr f q e => Sys2Proof.Machine.execDmaWr f q e s
  | .dmaLinRead f q e => Sys2Proof.Machine.execDmaLinRead f q e s
  | .dmaLinWrite f q e => Sys2Proof.Machine.execDmaLinWrite f q e s
  | .dmaXfr f q e => Sys2Proof.Machine.execDmaXfr f q e s
  | .dmaChd f q e => Sys2Proof.Machine.execDmaChd f q e s
  | .dmaDsp f q e => Sys2Proof.Machine.execDmaDsp f q e s
  | .dmaStat f q e => Sys2Proof.Machine.execDmaStat f q e s
  | .tokSend f q e => Sys2Proof.Machine.execTokSend f q e s
  | .tokRecv f q e => Sys2Proof.Machine.execTokRecv f q e s
  | .tokPoll f q e => Sys2Proof.Machine.execTokPoll f q e s
  | .statClr f q e => Sys2Proof.Machine.execStatClr f q e s
  | .statEmit f q e => Sys2Proof.Machine.execStatEmit f q e s
  | .unitStart f u e => Sys2Proof.Machine.execUnitStart f u e s
  | .rowRetire f e => Sys2Proof.Machine.execRowRetire f e s
  | .dmaOpComplete f k e => Sys2Proof.Machine.execDmaOpComplete f k e s
  | .tokenArrival src dst ch => Sys2Proof.Machine.execTokenArrival src dst ch s
  | .facetFaultStop f => Sys2Proof.Machine.execFacetFaultStop f s
  | .frameTick sec => Sys2Proof.Machine.execFrameTick sec s
  | .scrubBlock n errs => Sys2Proof.Machine.execScrubBlock n errs s
  | .progressWrite job => Sys2Proof.Machine.execProgressWrite job s
  | .ftlWearLevel block => Sys2Proof.Machine.execFtlWearLevel block s
  | .ftlReadDisturb block => Sys2Proof.Machine.execFtlReadDisturb block s
  | .ftlRetentionScan block high => Sys2Proof.Machine.execFtlRetentionScan block high s
  | .chordData p payload => Sys2Proof.Machine.execChordData p payload s
  | .credit p count => Sys2Proof.Machine.execCredit p count s
  | .rangeUpdate job shard range hostFault => Sys2Proof.Machine.execRangeUpdate job shard range hostFault s
  | .voteCast job => Sys2Proof.Machine.execVoteCast job s
  | .vote p v => Sys2Proof.Machine.execVote p v s
  | .confirm p v => Sys2Proof.Machine.execConfirm p v s
  | .workingCopyDerived job => Sys2Proof.Machine.execWorkingCopyDerived job s
  | .resolveTimeout job => Sys2Proof.Machine.execResolveTimeout job s
  | .abort p t => Sys2Proof.Machine.execAbort p t s
  | .peerSilenceDetect job peer => Sys2Proof.Machine.execPeerSilenceDetect job peer s
  | .heartbeatSend job peer => Sys2Proof.Machine.execHeartbeatSend job peer s
  | .heartbeat p b => Sys2Proof.Machine.execHeartbeat p b s
  | .ack p map => Sys2Proof.Machine.execAck p map s
  | .retransmitTimeout job peer seq => Sys2Proof.Machine.execRetransmitTimeout job peer seq s
  | .gatherReq p shard => Sys2Proof.Machine.execGatherReq p shard s
  | .gatherData p payload => Sys2Proof.Machine.execGatherData p payload s
  | .dispatch p payload => Sys2Proof.Machine.execDispatch p payload s
  | .dispatchEnd p counts => Sys2Proof.Machine.execDispatchEnd p counts s
  | .reshardReq p shard gen => Sys2Proof.Machine.execReshardReq p shard gen s
  | .reshardData p payload => Sys2Proof.Machine.execReshardData p payload s
  | .mirrorBindReq p bytes entries everyN => Sys2Proof.Machine.execMirrorBindReq p bytes entries everyN s
  | .mirrorBindAck p status gib => Sys2Proof.Machine.execMirrorBindAck p status gib s
  | .snapshotBegin job => Sys2Proof.Machine.execSnapshotBegin job s
  | .mirrorBegin p buffer d => Sys2Proof.Machine.execMirrorBegin p buffer d s
  | .mirrorData p buffer payload => Sys2Proof.Machine.execMirrorData p buffer payload s
  | .mirrorEnd p buffer d => Sys2Proof.Machine.execMirrorEnd p buffer d s
  | .mirrorDone p gen => Sys2Proof.Machine.execMirrorDone p gen s
  | .mirrorFetchReq p gen => Sys2Proof.Machine.execMirrorFetchReq p gen s
  | .mirrorFetchData p payload => Sys2Proof.Machine.execMirrorFetchData p payload s
  | .mirrorFetchEnd p status d => Sys2Proof.Machine.execMirrorFetchEnd p status d s
  | .mirrorUnbindOp p => Sys2Proof.Machine.execMirrorUnbindOp p s
  | .mirrorQueryOp p => Sys2Proof.Machine.execMirrorQueryOp p s
  | .mirrorQueryReply p region flash => Sys2Proof.Machine.execMirrorQueryReply p region flash s
  | .flashCopyPersist job rank => Sys2Proof.Machine.execFlashCopyPersist job rank s
  | .flashCopySwitch job rank => Sys2Proof.Machine.execFlashCopySwitch job rank s
  | .portLinkLoss p => Sys2Proof.Machine.execPortLinkLoss p s
  | .portRetrainTimeout p => Sys2Proof.Machine.execPortRetrainTimeout p s
  | .pauseFrame p => Sys2Proof.Machine.execPauseFrame p s
  | .neighborSolicitation p target src => Sys2Proof.Machine.execNeighborSolicitation p target src s
  | .routerAdvertisement p routerMac prefix64 => Sys2Proof.Machine.execRouterAdvertisement p routerMac prefix64 s
  | .icmpv6Echo p src body => Sys2Proof.Machine.execIcmpv6Echo p src body s
  | .mgmtCmd m last data => Sys2Proof.Machine.execMgmtCmd m last data s
  | .mgmtAck xid offset => Sys2Proof.Machine.execMgmtAck xid offset s
  | .mgmtRetransmit xid offset => Sys2Proof.Machine.execMgmtRetransmit xid offset s
  | .announceSend job => Sys2Proof.Machine.execAnnounceSend job s
  | .announce a => Sys2Proof.Machine.execAnnounce a s
  | .announceEntryExpiry job rank serial => Sys2Proof.Machine.execAnnounceEntryExpiry job rank serial s
  | .mgmtPortDown p => Sys2Proof.Machine.execMgmtPortDown p s
  | .mgmtPortUp p => Sys2Proof.Machine.execMgmtPortUp p s
  | .scoreUpdate => Sys2Proof.Machine.execScoreUpdate s
  | .healthSecond => Sys2Proof.Machine.execHealthSecond s
  | .evidenceBucketChange => Sys2Proof.Machine.execEvidenceBucketChange s
  | .budgetWindowExpiry => Sys2Proof.Machine.execBudgetWindowExpiry s
  | .expulsionEffect => Sys2Proof.Machine.execExpulsionEffect s
  | .rehearsalInjection bit target => Sys2Proof.Machine.execRehearsalInjection bit target s
  | .rehearsalInjectionEnd passed => Sys2Proof.Machine.execRehearsalInjectionEnd passed s
  | .inputAboveRisingThreshold => Sys2Proof.Machine.execInputAboveRisingThreshold s
  | .fabricPortRetrained p => Sys2Proof.Machine.execFabricPortRetrained p s
  | .silenceOutsideArmedStep job peer => Sys2Proof.Machine.execSilenceOutsideArmedStep job peer s
  | .thermWarnRearm => Sys2Proof.Machine.execThermWarnRearm s
  | .tempMaxUpdate t => Sys2Proof.Machine.execTempMaxUpdate t s
  | .jtagTapAccess op => Sys2Proof.Machine.execJtagTapAccess op s
  | .streamWindowGrowth job peer => Sys2Proof.Machine.execStreamWindowGrowth job peer s

end Sys2Proof.Machine
end

