-- ==== Sys2Proof/WellFormed.lean ====
section
/-! DEFINITION. Sys2Proof/WellFormed.lean: which terms of `Instr` are commands of the block: the operands agree with one
another and with the command's row. -/

namespace Sys2Proof

/-- A command header is one that its path can carry: an exchange id only on the management network (Table 16-6). -/
def Hdr.wf (h : Hdr) : Bool :=
  match h.path with
  | .ring _ => h.xid == 0
  | .net => true

/-- The command is well formed: whole lines of 64 bytes and their addresses (R297), every die-to-die link (Table 01-3), access
sizes (R98), segments of at most 1,024 bytes (Table 16-6), in buffers of `BUF_LEN` bytes (R105), and function and direction
fields of the word that name the row (R144, R160, R244), and operands that are those of the command's entry (R104, R120). -/
def Instr.wf (c : Instr) : Bool :=
  Machine.entryAgrees c &&
  match c with
  | .pwrEnAsserted => true
  | .pgoodRise => true
  | .pwrEnDeasserted => true
  | .inputUndervoltage => true
  | .inputOvervoltage => true
  | .thermalTrip => true
  | .thermWarn => true
  | .refclkLoss => true
  | .perstAsserted => true
  | .selfRefreshEntryDone _ => true
  | .srEntryTimeout => true
  | .bootStart _ _ => true
  | .mgmtStageEnd _ _ => true
  | .imageStageEnd _ _ _ _ => true
  | .varluxStageEnd _ => true
  | .clocksStageEnd _ _ => true
  | .d2dStageEnd working => working.length == 9
  | .memStageEnd _ _ _ _ => true
  | .latticeStageEnd _ _ _ => true
  | .flashStageEnd _ _ => true
  | .fabricStageEnd _ _ _ _ => true
  | .readyStage _ => true
  | .wdtFirstExpiry => true
  | .wdtSecondExpiry => true
  | .wdtBootExpiry => true
  | .aonWdtCtrlWrite _ => true
  | .aonWdtKick _ => true
  | .aonPtimeLoRead => true
  | .poweredTimeTick => true
  | .apexFatalError => true
  | .jtagResetRequest => true
  | .secSecurityEvent => true
  | .entropyHealthFail startups => startups.all fun x => x.length == 1024
  | .drbgReseed => true
  | .d2dFlitCheckFail _ _ => true
  | .d2dModuleRemove _ _ => true
  | .smbReadByte _ => true
  | .smbReadWord _ => true
  | .smbWriteByte _ _ => true
  | .smbAlertResponse _ => true
  | .smbTimeout => true
  | .hostLinkUp => true
  | .cxlConfigRequest _ => true
  | .functionLevelReset => true
  | .hotReset => true
  | .hostLinkDown => true
  | .cxlMemRead off => off.toNat % 64 == 0
  | .cxlMemWrite off data _ => off.toNat % 64 == 0 && data.length == 64
  | .cxlMemNarrowWrite off data _ _ => off.toNat % 64 == 0 && data.length == 64
  | .backInvalidateResponse _ => true
  | .registerWrite _ size _ => size == 1 || size == 2 || size == 4 || size == 8
  | .ringCtrlWrite _ _ => true
  | .ringSqTail _ _ => true
  | .ringCqHead _ _ => true
  | .mbxEventEnWrite _ => true
  | .telPtimeLoRead _ => true
  | .telemetryUpdate _ => true
  | .commandFetch _ entry _ _ _ => entry.length == 64
  | .mbxOpen h _ _ _ => h.wf
  | .deviceInfo h => h.wf
  | .deviceReset h _ => h.wf
  | .deviceResetTrigger => true
  | .gpioConfig h _ _ => h.wf
  | .bootJournalRead h => h.wf
  | .bootJournalClear h => h.wf
  | .fwInstall h _ _ _ chunk => h.wf && chunk.length == h.bufLen.toNat
  | .fwActivate h _ => h.wf
  | .fwSvnCommit h _ _ => h.wf
  | .debugUnlock h token => h.wf && token.length == h.bufLen.toNat
  | .fuseBurn h token _ => h.wf && token.length == h.bufLen.toNat
  | .healthRead h => h.wf
  | .healthConfig h _ _ _ _ _ => h.wf
  | .unitFence h _ _ _ => h.wf
  | .rehearsalConfig h _ _ _ => h.wf
  | .diagRun h _ _ _ _ _ => h.wf
  | .memRegionMode h _ _ _ => h.wf
  | .memErrorRead h => h.wf
  | .memHdmWindow h _ _ => h.wf
  | .fabricConfig h _ _ _ => h.wf
  | .portStatus h _ => h.wf
  | .collectiveAbort h _ => h.wf
  | .sectorCreate h _ _ _ _ => h.wf
  | .sectorDestroy h => h.wf
  | .arcLoad h image => h.wf && image.length == h.bufLen.toNat
  | .arcStart h _ => h.wf
  | .arcStop h => h.wf
  | .park h _ => h.wf
  | .parkResume _ => true
  | .unpark h _ => h.wf
  | .objCreate h _ _ _ _ => h.wf
  | .objDestroy h _ => h.wf
  | .objPromote h _ _ _ => h.wf
  | .objEvict h _ _ => h.wf
  | .objPin h _ => h.wf
  | .objUnpin h _ => h.wf
  | .evictionDequeue _ => true
  | .moveSwitch _ => true
  | .moveFail _ _ => true
  | .prefetchSchedule h _ buf => h.wf && buf.length == h.bufLen.toNat
  | .jobOpen h _ _ _ => h.wf
  | .jobClose h _ => h.wf
  | .layoutInstall h _ _ _ buf => h.wf && buf.length == h.bufLen.toNat
  | .layoutDrainDone _ => true
  | .shardCommit h _ _ _ _ => h.wf
  | .shardRead h _ _ _ => h.wf
  | .stepArm h _ _ _ _ => h.wf
  | .stepStatus h _ => h.wf
  | .ruleLoad h _ buf => h.wf && buf.length == h.bufLen.toNat
  | .mirrorBind h _ _ _ _ _ => h.wf
  | .mirrorUnbind h _ => h.wf
  | .restore h _ _ _ => h.wf
  | .mirrorQuery h _ => h.wf
  | .spdmGetVersion => true
  | .spdmGetCapabilities req => req.take 2 == [0x12, 0xE1]
  | .spdmNegotiateAlgorithms _ req => req.take 2 == [0x12, 0xE3]
  | .spdmGetDigests => true
  | .spdmGetCertificate _ _ _ => true
  | .spdmChallenge _ _ _ => true
  | .spdmGetMeasurements _ _ _ _ => true
  | .spdmUnsupportedRequest _ => true
  | .nop _ _ _ => true
  | .halt _ _ _ => true
  | .li _ _ _ => true
  | .saluAdd _ i _ => i.x.toNat % 16 == 0
  | .saluSub _ i _ => i.x.toNat % 16 == 1
  | .saluAnd _ i _ => i.x.toNat % 16 == 2
  | .saluOr _ i _ => i.x.toNat % 16 == 3
  | .saluXor _ i _ => i.x.toNat % 16 == 4
  | .saluShl _ i _ => i.x.toNat % 16 == 5
  | .saluShr _ i _ => i.x.toNat % 16 == 6
  | .saluSra _ i _ => i.x.toNat % 16 == 7
  | .saluMul _ i _ => i.x.toNat % 16 == 8
  | .saluMulhu _ i _ => i.x.toNat % 16 == 9
  | .saluMinu _ i _ => i.x.toNat % 16 == 10
  | .saluMaxu _ i _ => i.x.toNat % 16 == 11
  | .saluSltu _ i _ => i.x.toNat % 16 == 12
  | .saluSlt _ i _ => i.x.toNat % 16 == 13
  | .saluSeq _ i _ => i.x.toNat % 16 == 14
  | .sld _ _ _ => true
  | .sst _ _ _ => true
  | .br _ _ _ => true
  | .loop _ _ _ => true
  | .wait _ _ _ => true
  | .csrr _ _ _ => true
  | .tdseta _ _ _ => true
  | .tdsetm _ _ _ => true
  | .tdadd _ _ _ => true
  | .mmaLdw _ _ _ => true
  | .mmaRun _ _ _ => true
  | .accZero _ _ _ => true
  | .accCfg _ _ _ => true
  | .accDrain _ _ _ => true
  | .accLoad _ _ _ => true
  | .veLd _ _ _ => true
  | .veSt _ _ _ => true
  | .veMov _ i _ => i.x.toNat % 256 == 0x01
  | .veAdd _ i _ => i.x.toNat % 256 == 0x02
  | .veSub _ i _ => i.x.toNat % 256 == 0x03
  | .veMul _ i _ => i.x.toNat % 256 == 0x04
  | .veFma _ i _ => i.x.toNat % 256 == 0x05
  | .veFnma _ i _ => i.x.toNat % 256 == 0x06
  | .veMax _ i _ => i.x.toNat % 256 == 0x07
  | .veMin _ i _ => i.x.toNat % 256 == 0x08
  | .veAbs _ i _ => i.x.toNat % 256 == 0x09
  | .veNeg _ i _ => i.x.toNat % 256 == 0x0A
  | .veAddk _ i _ => i.x.toNat % 256 == 0x0B
  | .veMulk _ i _ => i.x.toNat % 256 == 0x0C
  | .veFmak _ i _ => i.x.toNat % 256 == 0x0D
  | .veClamp _ i _ => i.x.toNat % 256 == 0x0E
  | .veCmpgt _ i _ => i.x.toNat % 256 == 0x10
  | .veCmpge _ i _ => i.x.toNat % 256 == 0x11
  | .veCmpeq _ i _ => i.x.toNat % 256 == 0x12
  | .veSel _ i _ => i.x.toNat % 256 == 0x13
  | .veFloor _ i _ => i.x.toNat % 256 == 0x18
  | .veRndi _ i _ => i.x.toNat % 256 == 0x19
  | .veGetexp _ i _ => i.x.toNat % 256 == 0x1A
  | .veGetmant _ i _ => i.x.toNat % 256 == 0x1B
  | .veLdexp _ i _ => i.x.toNat % 256 == 0x1C
  | .veCvtbf _ i _ => i.x.toNat % 256 == 0x1D
  | .veRmax _ i _ => i.x.toNat % 256 == 0x20
  | .veRsum _ i _ => i.x.toNat % 256 == 0x21
  | .veCsum _ i _ => i.x.toNat % 256 == 0x22
  | .veBcast0 _ i _ => i.x.toNat % 256 == 0x23
  | .veRcp _ i _ => i.x.toNat % 256 == 0x28
  | .veRsqrt _ i _ => i.x.toNat % 256 == 0x29
  | .veExp _ i _ => i.x.toNat % 256 == 0x2A
  | .veRand _ i _ => i.x.toNat % 256 == 0x30
  | .dmaRd _ _ _ => true
  | .dmaWr _ _ _ => true
  | .dmaLinRead _ i _ => !i.fl.getLsbD 0
  | .dmaLinWrite _ i _ => i.fl.getLsbD 0
  | .dmaXfr _ _ _ => true
  | .dmaChd _ _ _ => true
  | .dmaDsp _ _ _ => true
  | .dmaStat _ _ _ => true
  | .tokSend _ _ _ => true
  | .tokRecv _ _ _ => true
  | .tokPoll _ _ _ => true
  | .statClr _ _ _ => true
  | .statEmit _ _ _ => true
  | .unitStart _ _ _ => true
  | .rowRetire _ _ => true
  | .dmaOpComplete _ _ _ => true
  | .tokenArrival _ _ _ => true
  | .facetFaultStop _ => true
  | .frameTick _ => true
  | .scrubBlock _ errs => errs.all fun e => e.value != 0
  | .progressWrite _ => true
  | .ftlWearLevel _ => true
  | .ftlReadDisturb _ => true
  | .ftlRetentionScan _ _ => true
  | .chordData _ _ => true
  | .credit _ _ => true
  | .rangeUpdate _ _ _ _ => true
  | .voteCast _ => true
  | .vote _ _ => true
  | .confirm _ _ => true
  | .workingCopyDerived _ => true
  | .resolveTimeout _ => true
  | .abort _ _ => true
  | .peerSilenceDetect _ _ => true
  | .heartbeatSend _ _ => true
  | .heartbeat _ _ => true
  | .ack _ _ => true
  | .retransmitTimeout _ _ _ => true
  | .gatherReq _ _ => true
  | .gatherData _ _ => true
  | .dispatch _ _ => true
  | .dispatchEnd _ _ => true
  | .reshardReq _ _ _ => true
  | .reshardData _ _ => true
  | .mirrorBindReq _ _ _ _ => true
  | .mirrorBindAck _ _ _ => true
  | .snapshotBegin _ => true
  | .mirrorBegin _ _ _ => true
  | .mirrorData _ _ _ => true
  | .mirrorEnd _ _ _ => true
  | .mirrorDone _ _ => true
  | .mirrorFetchReq _ _ => true
  | .mirrorFetchData _ _ => true
  | .mirrorFetchEnd _ _ _ => true
  | .mirrorUnbindOp _ => true
  | .mirrorQueryOp _ => true
  | .mirrorQueryReply _ _ _ => true
  | .flashCopyPersist _ _ => true
  | .flashCopySwitch _ _ => true
  | .portLinkLoss _ => true
  | .portRetrainTimeout _ => true
  | .pauseFrame _ => true
  | .neighborSolicitation _ _ _ => true
  | .routerAdvertisement _ _ _ => true
  | .icmpv6Echo _ _ _ => true
  | .mgmtCmd m _ data => if m.offset = 0 then decide (64 ≤ data.length ∧ data.length ≤ 1088) else decide (data.length ≤ 1024)
  | .mgmtAck _ _ => true
  | .mgmtRetransmit _ _ => true
  | .announceSend _ => true
  | .announce _ => true
  | .announceEntryExpiry _ _ _ => true
  | .mgmtPortDown _ => true
  | .mgmtPortUp _ => true
  | .scoreUpdate => true
  | .healthSecond => true
  | .evidenceBucketChange => true
  | .budgetWindowExpiry => true
  | .expulsionEffect => true
  | .rehearsalInjection _ _ => true
  | .rehearsalInjectionEnd _ => true
  | .inputAboveRisingThreshold => true
  | .fabricPortRetrained _ => true
  | .silenceOutsideArmedStep _ _ => true
  | .thermWarnRearm => true
  | .tempMaxUpdate _ => true
  | .jtagTapAccess _ => true
  | .streamWindowGrowth _ _ => true

end Sys2Proof
end

