-- ==== Sys2Proof/Safety.lean ====
section
/-! DEFINITION. Sys2Proof/Safety.lean: what counts as a safe run, and the terms that claims use. -/

namespace Sys2Proof

open Machine

/-- A run of `n` steps that neither faults nor is refused. -/
def SafeRun (n : Nat) (s : State) : Prop := ∃ t, core.run n s = .next t

/-- The one command that may stop the machine: an Apex debug operation once full access is open (03 R92, R93). -/
def stops (c : Instr) (s : State) : Bool :=
  match c with
  | .jtagTapAccess (.apex _) => fullAccess s
  | _ => false

/-! ### Facet instructions -/

/-- Facet `f` can issue the instruction `op`, `i`: it runs, its IMEM holds the word at the PC and reads clean, the word is
defined (R142), and its operand bytes and reserved bits are as Table 05-8 allows (R141). -/
def issues (f : Fin 96) (op : Byte) (u : Use) (i : Ins) (e : Ecc) (s : State) : Bool :=
  fetches s.facets[f] op i e && !wordUndefined (joinIns op i) && (useError u i).isNone

/-- The state after facet `f` has issued an instruction that leaves it as `y`: nothing else changes, but for the evidence of
corrected IMEM and scratchpad errors (`n` of the latter) where there are any (R128). -/
def issued (f : Fin 96) (e : Ecc) (n : Nat) (y : Facet) (s : State) : State :=
  eccCorrected f (bit e.imemCorr + n) 0 (modFacet f (fun _ => y) s)

/-- The facet `x` with instruction `q` at the end of a queue list, numbered and dated. -/
def queued (x : Facet) (l : List QEnt) (q : QEnt) : List QEnt := l ++ [{ q with seq := x.seqNo, pc := x.pc }]

/-! ### Mailbox commands -/

/-- The command of header `h` is the next to start and passes the checks common to all commands (R107, R108, R115, R116,
R119): it starts, and its own rule decides. -/
def accepted (c : Cat) (h : Hdr) (s : State) : Bool := cmdReady c h s && (commonStatus c h (startCmd h s)).isNone

/-- The catalogue row and the header of a mailbox command (R104, R120); none for every other row of the table. -/
def headerOf (c : Instr) : Option (Cat × Hdr) :=
  match c with
  | .mbxOpen h _ _ _ => some (catMbxOpen, h)
  | .deviceInfo h => some (catDeviceInfo, h)
  | .deviceReset h _ => some (catDeviceReset, h)
  | .gpioConfig h _ _ => some (catGpioConfig, h)
  | .bootJournalRead h => some (catBootJournalRead, h)
  | .bootJournalClear h => some (catBootJournalClear, h)
  | .fwInstall h _ _ _ _ => some (catFwInstall, h)
  | .fwActivate h _ => some (catFwActivate, h)
  | .fwSvnCommit h _ _ => some (catFwSvnCommit, h)
  | .debugUnlock h _ => some (catDebugUnlock, h)
  | .fuseBurn h _ _ => some (catFuseBurn, h)
  | .healthRead h => some (catHealthRead, h)
  | .healthConfig h _ _ _ _ _ => some (catHealthConfig, h)
  | .unitFence h _ _ _ => some (catUnitFence, h)
  | .rehearsalConfig h _ _ _ => some (catRehearsalConfig, h)
  | .diagRun h _ _ _ _ _ => some (catDiagRun, h)
  | .memRegionMode h _ _ _ => some (catMemRegionMode, h)
  | .memErrorRead h => some (catMemErrorRead, h)
  | .memHdmWindow h _ _ => some (catMemHdmWindow, h)
  | .fabricConfig h _ _ _ => some (catFabricConfig, h)
  | .portStatus h _ => some (catPortStatus, h)
  | .collectiveAbort h _ => some (catCollectiveAbort, h)
  | .sectorCreate h _ _ _ _ => some (catSectorCreate, h)
  | .sectorDestroy h => some (catSectorDestroy, h)
  | .arcLoad h _ => some (catArcLoad, h)
  | .arcStart h _ => some (catArcStart, h)
  | .arcStop h => some (catArcStop, h)
  | .park h _ => some (catPark, h)
  | .unpark h _ => some (catUnpark, h)
  | .objCreate h _ _ _ _ => some (catObjCreate, h)
  | .objDestroy h _ => some (catObjDestroy, h)
  | .objPromote h _ _ _ => some (catObjPromote, h)
  | .objEvict h _ _ => some (catObjEvict, h)
  | .objPin h _ => some (catObjPin, h)
  | .objUnpin h _ => some (catObjUnpin, h)
  | .prefetchSchedule h _ _ => some (catPrefetchSchedule, h)
  | .jobOpen h _ _ _ => some (catJobOpen, h)
  | .jobClose h _ => some (catJobClose, h)
  | .layoutInstall h _ _ _ _ => some (catLayoutInstall, h)
  | .shardCommit h _ _ _ _ => some (catShardCommit, h)
  | .shardRead h _ _ _ => some (catShardRead, h)
  | .stepArm h _ _ _ _ => some (catStepArm, h)
  | .stepStatus h _ => some (catStepStatus, h)
  | .ruleLoad h _ _ => some (catRuleLoad, h)
  | .mirrorBind h _ _ _ _ _ => some (catMirrorBind, h)
  | .mirrorUnbind h _ => some (catMirrorUnbind, h)
  | .restore h _ _ _ => some (catRestore, h)
  | .mirrorQuery h _ => some (catMirrorQuery, h)
  | _ => none

/-! ### Chord packets -/

/-- What follows every packet, taken or dropped: an exchange whose ends now count may be complete (R409), a snapshot may go on, and a
member on the fabric without a common port is detected (R384, R401, R428). -/
def afterPacket (p : ChordHdr) (s : State) : State :=
  let t := snapProgress p.job (settleCombines p.job s)
  if viaMgmt p.via then t else detectNoPort p.job p.srcRank t

/-! ### MIRROR packets -/

/-- The transport gives a MIRROR packet's operation to the module: the rank of its sender and the state then. `hosted` says
that R426 admits the operation without an open job, `reply` that a parked job takes it too (R275); `early` says that it comes too
soon. -/
def mirrorIn (p : ChordHdr) (hosted reply : Bool) (early : State → Job → Bool) (s : State) : Option (W16 × State) :=
  match mirrorPath p hosted reply s with
  | .member =>
    (match receive p ptMirror true (epochIs p) (early s) s with
     | .take _ t => some (p.srcRank, t)
     | .drop _ => none)
  | .copyHost => fromHost p.srcRank
  | .fromHost r => fromHost r
  | .refused => none
where
  /-- A sequenced packet of an exchange outside the job's own streams. -/
  fromHost (r : W16) : Option (W16 × State) :=
    if viaUp s p.via && !p.malformed then
      match hostAccept p (countFrame p.via s) with
      | (t, true) => some (r, t)
      | (_, false) => none
    else none

/-- What follows a MIRROR packet's operation: on a member's own stream, what follows every packet. -/
def mirrorOut (p : ChordHdr) (hosted reply : Bool) (s u : State) : State :=
  if mirrorPath p hosted reply s = .member then afterPacket p u else u

end Sys2Proof
end

