-- ==== Sys2Proof/Certificates/Slice0/Obligations.lean ====
section
/-! DEFINITION. Sys2Proof/Certificates/Slice0/Obligations.lean: the statements for the provers. -/

namespace Sys2Proof.Claims

end Sys2Proof.Claims

open Sys2Proof Sys2Proof.Machine Sys2Proof.Claims

/-! ### Facet instructions -/

/-- A row of `SALU`: its constructor, function code and function. -/
structure Sys2Proof.Claims.SaluRule where
  ctor : Fin 96 → Ins → Ecc → Instr
  code : Nat
  op   : W64 → W64 → W64

/-- The rows of `SALU` with their function code and what R144 says of sA and b. -/
def Sys2Proof.Claims.saluRules : List SaluRule :=
  ([⟨.saluAdd, 0, fun a b => a + b⟩, ⟨.saluSub, 1, fun a b => a - b⟩, ⟨.saluAnd, 2, fun a b => a &&& b⟩,
   ⟨.saluOr, 3, fun a b => a ||| b⟩, ⟨.saluXor, 4, fun a b => a ^^^ b⟩, ⟨.saluShl, 5, fun a b => a <<< (b.toNat % 64)⟩] : List SaluRule) ++
  ([⟨.saluShr, 6, fun a b => a >>> (b.toNat % 64)⟩, ⟨.saluSra, 7, fun a b => a.sshiftRight (b.toNat % 64)⟩,
   ⟨.saluMul, 8, fun a b => a * b⟩, ⟨.saluMulhu, 9, fun a b => BitVec.ofNat 64 (a.toNat * b.toNat / 2 ^ 64)⟩,
   ⟨.saluMinu, 10, fun a b => BitVec.ofNat 64 (min a.toNat b.toNat)⟩] : List SaluRule) ++
  ([⟨.saluMaxu, 11, fun a b => BitVec.ofNat 64 (max a.toNat b.toNat)⟩,
   ⟨.saluSltu, 12, fun a b => if a.toNat < b.toNat then 1 else 0⟩,
   ⟨.saluSlt, 13, fun a b => if a.toInt < b.toInt then 1 else 0⟩, ⟨.saluSeq, 14, fun a b => if a = b then 1 else 0⟩] : List SaluRule)

/-- R144: `LI` sets sD to `IMM`, and `SALU`, in each of its fifteen functions, sets sD to sA op b, where b is sB, or `IMM` when
`IMMB` is 1. An instruction that can issue goes on to the next one (R146), traps on no operand, and changes nothing else. -/
def Obligations.LiAndSaluSetDestination : Prop :=
  ∀ (f : Fin 96) (i : Ins) (e : Ecc) (s : State),
    (issues f 0x02 { d := .s, imm := 0xFFFFFFFFFFFFFFFF } i e s = true →
      exec (.li f i e) s = .next (issued f e 0 (advance (setS s.facets[f] i.d i.imm)) s)) ∧
    (∀ r ∈ saluRules, issues f 0x03 (useSalu i) i e s = true → i.x.toNat = r.code →
      exec (r.ctor f i e) s = .next (issued f e 0
        (advance (setS s.facets[f] i.d
          (r.op (sReg s.facets[f] i.a) (if i.fl.getLsbD 0 then i.imm else sReg s.facets[f] i.b)))) s))

/-- R143, R146, R147, R170: `NOP`, `WAIT` once its units and tags are done (what they wrote is then seen by the instructions
after it), and `BR` and `LOOP` in each of their forms: where the PC goes and what becomes of the loop stack. -/
def Obligations.ControlFlowMoves : Prop :=
  ∀ (f : Fin 96) (i : Ins) (e : Ecc) (s : State),
    let x := s.facets[f]
    let tgt : BitVec 13 := (i.imm.extractLsb' 0 12).zeroExtend 13
    (issues f 0x00 {} i e s = true → exec (.nop f i e) s = .next (issued f e 0 (advance x) s)) ∧
    (issues f 0x08 { fl := 0x1F, x := 0xFF } i e s = true → unitsDone s f x (i.fl.extractLsb' 0 5) (i.x.extractLsb' 0 8) = true →
      exec (.wait f i e) s = .next (issued f e 0
        (advance (waitRaces (i.fl.extractLsb' 0 5) (i.x.extractLsb' 0 8) x)) s)) ∧
    (issues f 0x06 { a := .s, x := 3, imm := 0xFFF } i e s = true →
      (i.x = 0 ∨ (i.x = 1 ∧ sReg x i.a = 0) ∨ (i.x = 2 ∧ sReg x i.a ≠ 0)) →
      (∀ l ls, x.loops = l :: ls → l.start ≤ tgt ∧ tgt ≤ l.last) →
      exec (.br f i e) s = .next (issued f e 0 { x with pc := tgt, seqNo := x.seqNo + 1 } s)) ∧
    (issues f 0x06 { a := .s, x := 3, imm := 0xFFF } i e s = true →
      ((i.x = 1 ∧ sReg x i.a ≠ 0) ∨ (i.x = 2 ∧ sReg x i.a = 0)) →
      exec (.br f i e) s = .next (issued f e 0 (advance x) s)) ∧
    (issues f 0x07 { a := .s, imm := 0xFFF } i e s = true → x.pc < tgt →
      (∀ l ls, x.loops = l :: ls → tgt ≤ l.last) → sReg x i.a = 0 →
      exec (.loop f i e) s = .next (issued f e 0 { x with pc := tgt + 1, seqNo := x.seqNo + 1 } s)) ∧
    (issues f 0x07 { a := .s, imm := 0xFFF } i e s = true → x.pc < tgt →
      (∀ l ls, x.loops = l :: ls → tgt ≤ l.last) → sReg x i.a ≠ 0 → x.loops.length < 4 →
      exec (.loop f i e) s = .next (issued f e 0
        { x with pc := x.pc + 1, seqNo := x.seqNo + 1, loops := ⟨x.pc + 1, tgt, sReg x i.a⟩ :: x.loops } s))

/-- R148: `HALT` waits while any unit has work queued or in progress or any tag has anything outstanding; it then writes its code
to `FCSR_HALT`, the facet becomes HALTED, and it keeps everything else; no memory and no token changes. -/
def Obligations.HaltStopsFacet : Prop :=
  ∀ (f : Fin 96) (i : Ins) (e : Ecc) (s : State), issues f 0x01 { imm := 0xFFFF } i e s = true →
    (unitsDone s f s.facets[f] 0x1F 0xFF = false → exec (.halt f i e) s = .next s) ∧
    (unitsDone s f s.facets[f] 0x1F 0xFF = true → ∃ t, exec (.halt f i e) s = .next t ∧
      t.facets = (issued f e 0 { s.facets[f] with halt := i.imm.extractLsb' 0 16, st := .halted } s).facets ∧
      t.mem = s.mem ∧ t.mesh = s.mesh ∧ t.out = s.out)

/-- R149: `TDSETA` replaces bits 63 to 0 of tD and `TDSETM` bits 127 to 64 with IMM; `TDADD` adds sA to `BASE`, and adds sB to
`SCALE_BASE` when `USEB` is 1, leaving the other bits of tD. -/
def Obligations.DescriptorsTakeTheirFields : Prop :=
  ∀ (f : Fin 96) (i : Ins) (e : Ecc) (s : State),
    let x := s.facets[f]
    let td := tReg x i.d
    (issues f 0x0A { d := .t, imm := 0xFFFFFFFFFFFFFFFF } i e s = true →
      exec (.tdseta f i e) s = .next (issued f e 0 (advance (setT x i.d (td.extractLsb' 64 64 ++ i.imm))) s)) ∧
    (issues f 0x0B { d := .t, imm := 0xFFFFFFFFFFFFFFFF } i e s = true →
      exec (.tdsetm f i e) s = .next (issued f e 0 (advance (setT x i.d (i.imm ++ td.extractLsb' 0 64))) s)) ∧
    (issues f 0x0C { fl := 1, d := .t, a := .s } i e s = true → i.fl.getLsbD 0 = false →
      exec (.tdadd f i e) s = .next (issued f e 0 (advance (setT x i.d
        (td.extractLsb' 24 104 ++ (td.extractLsb' 0 24 + (sReg x i.a).extractLsb' 0 24)))) s)) ∧
    (issues f 0x0C { fl := 1, d := .t, a := .s, b := .s } i e s = true → i.fl.getLsbD 0 = true →
      exec (.tdadd f i e) s = .next (issued f e 0 (advance (setT x i.d
        (td.extractLsb' 48 80 ++ (td.extractLsb' 24 24 + (sReg x i.b).extractLsb' 0 24) ++
          (td.extractLsb' 0 24 + (sReg x i.a).extractLsb' 0 24)))) s))

/-- R136, R145, R164, R166, R168, R170, R233: `SLD`, `SST`, `CSRR`, `DMA.STAT`, `TOK.RECV` of a channel that holds a token,
`TOK.POLL`, `STAT.CLR` and `STAT.EMIT` with no drain unfinished: the registers, tags, channels, slots and scratchpad bytes they
write, and nothing else. `SLD` reads the scratchpad as R170 lets the sequencer find it: where no write races it, the scratchpad
itself. `CSRR` of `FCSR_CYCLE` (5) reads what the register held and a free number of cycles since (log 3). -/
def Obligations.SequencerMovesAndUnits : Prop :=
  ∀ (f : Fin 96) (i : Ins) (e : Ecc) (s : State) (k : Fin 16) (g : Fin 8) (v : W64) (vs : List W64),
    let x := s.facets[f]
    let addr := (sReg x i.a + (i.imm.extractLsb' 0 24).zeroExtend 64).toNat
    let a := (sReg x i.a).toNat
    (∀ r n, x.races = [] → spmView s x r n = x.spm) ∧
    (issues f 0x04 { d := .s, a := .s, imm := 0xFFFFFF } i e s = true → addr % 8 = 0 → addr < 0x300000 → e.spmBad = none →
      exec (.sld f i e) s = .next (viewSpent f .seq x.seqNo s (issued f e e.spmCorr (advance
        (setS x i.d (BitVec.ofNat 64 (leNat (mread (spmView s x .seq x.seqNo) addr 8))))) s))) ∧
    (issues f 0x05 { a := .s, b := .s, imm := 0xFFFFFF } i e s = true → addr % 8 = 0 → addr < 0x300000 →
      exec (.sst f i e) s = .next (issued f e 0 (advance (noteRace .seq (some x.seqNo) [(addr, 8)] x.spm
        { x with spm := mwrite x.spm addr (leBytes 8 (sReg x i.b).toNat) })) s)) ∧
    (issues f 0x09 { d := .s, imm := 0xFFF } i e s = true → ∀ v : W64,
      (i.imm = 0 ∧ v.toNat = f.val + 256 * (f.val % 8) + 4096 * (f.val / 8)) ∨
        (i.imm = 1 ∧ v = (x.sector.map fun n => BitVec.ofNat 64 (n.val + 4)).getD 0) ∨ (i.imm = 2 ∧ v = x.step) ∨
        (i.imm = 3 ∧ v = x.seed) ∨ (i.imm = 4 ∧ v = s.aon.ptime) ∨ (i.imm = 6 ∧ v = x.err) ∨
        (i.imm = 7 ∧ v = x.halt.zeroExtend 64) ∨ (i.imm = 8 ∧ v = x.eccArr ++ x.eccSpm) ∨
        (i.imm = 9 ∧ v = x.tokDrop.zeroExtend 64) →
      exec (.csrr f i e) s = .next (issued f e 0 (advance (setS x i.d v)) s)) ∧
    (issues f 0x09 { d := .s, imm := 0xFFF } i e s = true → i.imm = 5 → let c := cycleNow s x
      exec (.csrr f i e) s = .next { issued f e 0 (advance { setS x i.d c with cycle := c }) s with freeIx := s.freeIx + 1 }) ∧
    (issues f 0x46 { d := .s, x := 7 } i e s = true → i.x.toNat = g.val →
      exec (.dmaStat f i e) s = .next (issued f e 0 (advance
        { setS x i.d (BitVec.ofNat 64 (x.tags[g].sticky.toNat + 65536 * (x.tags[g].outstanding % 65536))) with
          tags := vupd x.tags g fun t => { t with sticky := 0 } }) s)) ∧
    (issues f 0x51 { d := .s, x := 0xF } i e s = true → i.x.toNat = k.val → x.chans[k] = v :: vs →
      exec (.tokRecv f i e) s =
        .next (issued f e 0 (advance (recvRaces k { setS x i.d v with chans := vupd x.chans k fun _ => vs })) s)) ∧
    (issues f 0x52 { d := .s, x := 0xF } i e s = true → i.x.toNat = k.val →
      exec (.tokPoll f i e) s = .next (issued f e 0 (advance (setS x i.d (BitVec.ofNat 64 x.chans[k].length))) s)) ∧
    (issues f 0x60 { x := 0xF } i e s = true → i.x.toNat = k.val → noDrains x = true →
      exec (.statClr f i e) s = .next (issued f e 0 (advance { x with stats := vupd x.stats k fun _ => {} }) s)) ∧
    (issues f 0x61 { fl := 1, a := .s, x := 0xF } i e s = true → i.x.toNat = k.val → noDrains x = true → a % 64 = 0 →
      a + 256 ≤ 0x300000 →
      let y := noteRace .seq (some x.seqNo) [(a, 256)] x.spm { x with spm := mwrite x.spm a (statBytes x.stats[k]) }
      exec (.statEmit f i e) s = .next (issued f e 0 (advance
        { y with stats := if i.fl.getLsbD 0 then vupd y.stats k fun _ => {} else y.stats }) s))

/-- R150 to R155, R137, R139, R185: the matrix and accumulator instructions, where their checks pass and their queue has room,
enter the queue of their unit with the operands of the time of issue, and a matrix pipe that is free takes the oldest of the
shared queue; `MMA.LDW` leaves a tile unconsumed, `MMA.RUN` with `SWAP` consumes it, counts its rows as issued and advances
`RUNS`, which `ACC.CFG` sets to 0. Nothing else changes. -/
def Obligations.MatrixInstructionsQueue : Prop :=
  ∀ (f : Fin 96) (i : Ins) (e : Ecc) (s : State),
    let x := s.facets[f]
    let a := tReg x i.a
    let d := tReg x i.d
    let swap := i.fl.getLsbD 2
    (issues f 0x10 { a := .t } i e s = true → tdError a = none → (isScaled (tdFmt a) = true → tdSaxis a = true) →
      x.unconsumed = none → x.mmaQ.length < 8 →
      exec (.mmaLdw f i e) s = .next (issued f e 0 (advance (feedPipes
        { x with unconsumed := some ⟨tdFmt a, tdRows a, tdCols a⟩,
                 mmaQ := queued x x.mmaQ { op := .ldw a, seq := 0, pc := 0 } })) s)) ∧
    (issues f 0x11 { fl := 0xF, d := .a, a := .t } i e s = true → runError x a swap (i.fl.getLsbD 3) = none → x.mmaQ.length < 8 →
      exec (.mmaRun f i e) s = .next (issued f e 0 (advance (feedPipes
        { x with issued := if swap then x.unconsumed else x.issued, unconsumed := if swap then none else x.unconsumed,
                 acc := vupd x.acc (aIdx i.d) fun t => { t with issued := t.issued + tdRows a, runs := t.runs + 1 },
                 mmaQ := queued x x.mmaQ
                   { op := .run (aIdx i.d) a (i.fl.getLsbD 0) (i.fl.getLsbD 1) swap (i.fl.getLsbD 3) x.acc[aIdx i.d].runs,
                     seq := 0, pc := 0 } })) s)) ∧
    (issues f 0x20 { d := .a } i e s = true → x.accQ.length < 8 →
      exec (.accZero f i e) s = .next (issued f e 0 (advance
        { x with accQ := queued x x.accQ
                   { op := .accZero (aIdx i.d), seq := 0, pc := 0, mark := x.acc[aIdx i.d].issued } }) s)) ∧
    (issues f 0x21 { d := .a, imm := 0xFFFFFF } i e s = true → x.accQ.length < 8 →
      exec (.accCfg f i e) s = .next (issued f e 0 (advance
        { x with acc := vupd x.acc (aIdx i.d) fun t => { t with runs := 0 },
                 accQ := queued x x.accQ { op := .accCfg (aIdx i.d) (i.imm.extractLsb' 0 24), seq := 0, pc := 0,
                                           mark := x.acc[aIdx i.d].issued } }) s)) ∧
    (issues f 0x22 { fl := 1, d := .t, a := .a } i e s = true → tdError d = none → x.accQ.length < 8 →
      exec (.accDrain f i e) s = .next (issued f e 0 (advance
        { x with accQ := queued x x.accQ { op := .accDrain d (aIdx i.a) (i.fl.getLsbD 0), seq := 0, pc := 0,
                                           mark := x.acc[aIdx i.a].issued } }) s)) ∧
    (issues f 0x23 { d := .a, a := .t } i e s = true → tdError a = none → isScaled (tdFmt a) = false → x.accQ.length < 8 →
      exec (.accLoad f i e) s = .next (issued f e 0 (advance
        { x with accQ := queued x x.accQ { op := .accLoad (aIdx i.d) a, seq := 0, pc := 0,
                                           mark := x.acc[aIdx i.d].issued } }) s))

/-- A row of `VE.OP`: its constructor, function code and the operands it reads beside A. -/
structure Sys2Proof.Claims.VeRule where
  ctor : Fin 96 → Ins → Ecc → Instr
  fn   : Byte
  use  : VeUse

/-- The rows of `VE.OP` with their function code and whether they read B, C and K (Table 09-1), but for RAND. -/
def Sys2Proof.Claims.veRules : List VeRule :=
  ([⟨.veMov, 0x01, ⟨false, false, false⟩⟩, ⟨.veAdd, 0x02, ⟨true, false, false⟩⟩, ⟨.veSub, 0x03, ⟨true, false, false⟩⟩,
   ⟨.veMul, 0x04, ⟨true, false, false⟩⟩, ⟨.veFma, 0x05, ⟨true, true, false⟩⟩, ⟨.veFnma, 0x06, ⟨true, true, false⟩⟩,
   ⟨.veMax, 0x07, ⟨true, false, false⟩⟩, ⟨.veMin, 0x08, ⟨true, false, false⟩⟩, ⟨.veAbs, 0x09, ⟨false, false, false⟩⟩,
   ⟨.veNeg, 0x0A, ⟨false, false, false⟩⟩, ⟨.veAddk, 0x0B, ⟨false, false, true⟩⟩] : List VeRule) ++
  ([⟨.veMulk, 0x0C, ⟨false, false, true⟩⟩, ⟨.veFmak, 0x0D, ⟨true, false, true⟩⟩, ⟨.veClamp, 0x0E, ⟨true, true, false⟩⟩,
   ⟨.veCmpgt, 0x10, ⟨true, false, false⟩⟩, ⟨.veCmpge, 0x11, ⟨true, false, false⟩⟩, ⟨.veCmpeq, 0x12, ⟨true, false, false⟩⟩,
   ⟨.veSel, 0x13, ⟨true, true, false⟩⟩, ⟨.veFloor, 0x18, ⟨false, false, false⟩⟩, ⟨.veRndi, 0x19, ⟨false, false, false⟩⟩,
   ⟨.veGetexp, 0x1A, ⟨false, false, false⟩⟩, ⟨.veGetmant, 0x1B, ⟨false, false, false⟩⟩] : List VeRule) ++
  ([⟨.veLdexp, 0x1C, ⟨true, false, false⟩⟩, ⟨.veCvtbf, 0x1D, ⟨false, false, false⟩⟩, ⟨.veRmax, 0x20, ⟨false, false, false⟩⟩,
   ⟨.veRsum, 0x21, ⟨false, false, false⟩⟩, ⟨.veCsum, 0x22, ⟨false, false, false⟩⟩, ⟨.veBcast0, 0x23, ⟨false, false, false⟩⟩,
   ⟨.veRcp, 0x28, ⟨false, false, false⟩⟩, ⟨.veRsqrt, 0x29, ⟨false, false, false⟩⟩, ⟨.veExp, 0x2A, ⟨false, false, false⟩⟩] : List VeRule)

/-- R156, R243, R247, R137: every `VE.OP` function, `VE.LD` and `VE.ST`, where their checks pass and the queue has room, enters
the VE queue with the scalar operands and descriptors of the time of issue; nothing else changes. -/
def Obligations.VectorInstructionsQueue : Prop :=
  ∀ (f : Fin 96) (i : Ins) (e : Ecc) (s : State),
    let x := s.facets[f]
    let put := fun (op : QOp) => issued f e 0 (advance { x with veQ := queued x x.veQ { op := op, seq := 0, pc := 0 } }) s
    x.veQ.length < 8 →
    (∀ r ∈ veRules, issues f 0x32 (useVe r.use) i e s = true → i.x.toNat = r.fn.toNat →
      exec (r.ctor f i e) s = .next (put
        (.veOp r.fn (vIdx i.d) (vIdx i.a) (veSrc x i.b) (veSrc x i.c) (i.imm.truncate 32)))) ∧
    (issues f 0x32 (useVe ⟨true, false, true⟩) i e s = true → i.x = 0x30 → i.imm.getLsbD 31 = false → opFile i.b = 0 →
      (randCount ((sReg x i.b).truncate 32)).isSome = true →
      exec (.veRand f i e) s = .next (put (.veOp 0x30 (vIdx i.d) (vIdx i.a) (veSrc x i.b) (.scal 0) (i.imm.truncate 32)))) ∧
    (issues f 0x30 { d := .v, a := .t } i e s = true → tdError (tReg x i.a) = none →
      exec (.veLd f i e) s = .next (put (.veLd (vIdx i.d) (tReg x i.a)))) ∧
    (issues f 0x31 { d := .t, a := .v } i e s = true → tdError (tReg x i.d) = none →
      exec (.veSt f i e) s = .next (put (.veSt (tReg x i.d) (vIdx i.a))))

/-- R157 to R162, R165, R391, R406: the eight DMA instructions and `TOK.SEND`, where their checks pass and their queue has room,
enter the DMA or TOK queue with the operands of the time of issue; a DMA instruction counts as outstanding under its tag, and a
token waits for the DMA operations issued before it under the tags of its release mask. Nothing else changes. -/
def Obligations.DmaAndTokenInstructionsQueue : Prop :=
  ∀ (f : Fin 96) (i : Ins) (e : Ecc) (s : State) (g : Fin 8),
    let x := s.facets[f]
    let sa := sReg x i.a
    let sb := sReg x i.b
    let sc := sReg x i.c
    let ta := tReg x i.a
    let td := tReg x i.d
    let scales := if i.fl.getLsbD 0 then some x.s[(finOf (i.x.extractLsb' 8 5).toNat : Fin 32)] else none
    let scalesOk := fun (t : BitVec 128) => ∀ v, scales = some v →
      v.toNat % 32 = 0 ∧ spanOk (tdScaleBase t) (roundUp (tdScaleLen t) 32) = true
    let put := fun (op : QOp) => Host.Outcome.next (ρ := Refusal) (φ := Fault) (issued f e 0 (advance
      { x with dmaQ := queued x x.dmaQ { op := op, seq := 0, pc := 0, tag := g },
               tags := vupd x.tags g fun t => { t with outstanding := t.outstanding + 1 } }) s)
    (x.dmaQ.length < 16 → i.x.toNat % 8 = g.val →
      (issues f 0x40 { fl := 1, d := .t, b := .s, c := .s, x := 0x1F07 } i e s = true → tdError td = none →
        sb.toNat % 32 = 0 → sc.toNat % 32 = 0 → scalesOk td →
        dpaError (rowRanges td sb.toNat sc.toNat (scales.map (·.toNat))) = none →
        exec (.dmaRd f i e) s = put (.dmaRows false td sb sc scales)) ∧
      (issues f 0x41 { fl := 1, a := .t, b := .s, c := .s, x := 0x1F07 } i e s = true → tdError ta = none →
        sb.toNat % 32 = 0 → sc.toNat % 32 = 0 → scalesOk ta →
        dpaError (rowRanges ta sb.toNat sc.toNat (scales.map (·.toNat))) = none →
        exec (.dmaWr f i e) s = put (.dmaRows true ta sb sc scales)) ∧
      (issues f 0x42 { fl := 1, a := .s, b := .s, c := .s, x := 7 } i e s = true → i.fl.getLsbD 0 = false →
        spanOk sa.toNat sc.toNat = true → sb.toNat % 32 = 0 → dpaError [(sb.toNat, sc.toNat)] = none →
        exec (.dmaLinRead f i e) s = put (.dmaLin false sa sb sc)) ∧
      (issues f 0x42 { fl := 1, a := .s, b := .s, c := .s, x := 7 } i e s = true → i.fl.getLsbD 0 = true →
        spanOk sa.toNat sc.toNat = true → sb.toNat % 32 = 0 → dpaError [(sb.toNat, sc.toNat)] = none →
        exec (.dmaLinWrite f i e) s = put (.dmaLin true sa sb sc)) ∧
      (issues f 0x43 { a := .s, b := .s, c := .s, x := 7, imm := 0x3FFFFF } i e s = true → ∀ (k : Fin 96) (n : Fin 4),
        spanOk sa.toNat i.imm.toNat = true → spanOk sc.toNat i.imm.toNat = true → sb.toNat = k.val →
        x.sector = some n → s.facets[k].sector = some n →
        exec (.dmaXfr f i e) s = put (.dmaXfr sa k sc i.imm.toNat)) ∧
      (issues f 0x44 { a := .t, b := .s, c := .s, x := 7 } i e s = true → tdError ta = none → tdFmt ta = 0x7 →
        tdCols ta = 128 → sc.toNat % 32 = 0 →
        exec (.dmaChd f i e) s = put (.dmaChd ta (sb.truncate 32) sc x.step)) ∧
      (issues f 0x45 { a := .t, b := .s, c := .s, x := 7 } i e s = true → tdError ta = none → sb.toNat % 32 = 0 →
        sb.toNat + dspWord s x sc * tdRows ta ≤ 0x300000 →
        exec (.dmaDsp f i e) s = put (.dmaDsp ta sb sc x.step))) ∧
    (issues f 0x50 { a := .s, b := .s, x := 0xFF0F } i e s = true → x.tokQ.length < 8 → sa.toNat < 96 →
      exec (.tokSend f i e) s = .next (issued f e 0 (advance
        { x with tokQ := queued x x.tokQ
                   { op := .tokSend sa sb (finOf (i.x.extractLsb' 0 4).toNat), seq := 0, pc := 0,
                     after := ((x.flight ++ x.dmaQ).filter fun q =>
                       (i.x.extractLsb' 8 8).getLsbD q.tag.val).map (·.seq),
                     mask := i.x.extractLsb' 8 8 } }) s))

/-- R139, R169, R170, R185, R188, R191: `UNIT_START` performs or starts the oldest instruction of each unit, once its interlocks
hold: a load fills the shadow, a run joins the running ones with its weights, an accumulator instruction clears, names, loads or
drains its tile, a vector instruction gives its destination, a DMA operation takes flight, and a token to a facet of the same
sector enters the mesh, any other is dropped and counted. `ROW_RETIRE` writes the next row, or pair of rows, of the oldest run.
A unit that reads the scratchpad finds it as R170 lets it, with the errors of the stores it meets; stores that read clean change
nothing. -/
def Obligations.UnitsPerformQueued : Prop :=
  ∀ (f : Fin 96) (s : State) (q : QEnt) (r : List QEnt) (e : Ecc),
    let x := s.facets[f]
    (∀ pc a v g, withEcc f Ecc.clean pc a v g s = modFacet f (g s) s) ∧
    (∀ td, x.ldPipe = some q → q.op = .ldw td → x.shadow = none →
      exec (.unitStart f .mmaLoad e) s = .next (viewSpent f .mma q.seq s (withEcc f e q.pc.toNat none none (fun t y =>
        feedPipes { y with shadow := some (loadWeights (spmView t y .mma q.seq) td), ldPipe := none }) s))) ∧
    (∀ a td add sr swap p2 runs w, x.runPipe = some q → q.op = .run a td add sr swap p2 runs →
      (if swap then x.shadow else x.active) = some w → x.accQ.any (accNames a q.seq) = false →
      exec (.unitStart f .mmaRun e) s = .next (modFacet f (fun y => feedPipes
        { y with active := some w, shadow := if swap then none else y.shadow,
                 running := y.running ++ [⟨a, td, add, sr, p2, runs, w, 0, q.pc, q.seq⟩], runPipe := none }) s)) ∧
    (x.accQ = q :: r →
      (∀ a, q.op = .accZero a → q.mark ≤ x.acc[a].retired →
        exec (.unitStart f .acc e) s = .next (modFacet f (fun y =>
          { y with accQ := r, acc := vupd y.acc a fun t => { t with data := [], unspec := false } }) s)) ∧
      (∀ a id, q.op = .accCfg a id → q.mark ≤ x.acc[a].retired →
        exec (.unitStart f .acc e) s = .next (modFacet f (fun y =>
          { y with accQ := r, acc := vupd y.acc a fun t => { t with tensorId := id } }) s)) ∧
      (∀ a td, q.op = .accLoad a td → q.mark ≤ x.acc[a].retired →
        exec (.unitStart f .acc e) s = .next (viewSpent f .acc q.seq s (withEcc f e q.pc.toNat none none (fun t y =>
          { y with accQ := r, acc := vupd y.acc a fun z => { z with
              unspec := false,
              data := (List.range (tdRows td)).foldl (fun d i => (List.range (tdCols td)).foldl (fun d j =>
                sset 0 d (128 * i + j) (elemToFp32 (tdFmt td) 127 (tileCode (spmView t y .acc q.seq) td i j))) d) z.data } }) s))) ∧
      (∀ td a clear, q.op = .accDrain td a clear → q.mark ≤ x.acc[a].retired → drainHeld q x.veQ = false →
        let u := modFacet f (fun y =>
          let z := noteRace .acc none (tileSpans td) y.spm (drainTile td true (accRead s y.acc[a]) { y with accQ := r })
          if clear then { z with acc := vupd z.acc a fun t => { t with data := [] } } else z) s
        exec (.unitStart f .acc Ecc.clean) s = .next { u with freeIx := if x.acc[a].unspec then s.freeIx + 2 ^ 14 else s.freeIx })) ∧
    (x.veQ = q :: r →
      (∀ fn d a b c k, q.op = .veOp fn d a b c k →
        exec (.unitStart f .ve e) s = .next (withEcc f e q.pc.toNat none (some a)
          (fun _ y => veApply { y with veQ := r } fn d a b c k) s)) ∧
      (∀ v td, q.op = .veLd v td →
        exec (.unitStart f .ve e) s = .next (viewSpent f .ve q.seq s (withEcc f e q.pc.toNat none none (fun t y =>
          { y with veQ := r, ve := vupd y.ve v fun _ => ⟨tileFp32 (spmView t y .ve q.seq) td, tdRows td, tdCols td⟩ }) s))) ∧
      (∀ td v, q.op = .veSt td v → drainHeld q x.accQ = false →
        exec (.unitStart f .ve e) s = .next (withEcc f e q.pc.toNat none (some v) (fun _ y => noteRace .ve none (tileSpans td) y.spm
          (drainTile td false (fun i j => sget 0 (y.ve[v]).data (128 * i + j)) { y with veQ := r })) s))) ∧
    (x.dmaQ = q :: r → x.flight.length < 4 →
      exec (.unitStart f .dma e) s = .next (modFacet f (fun y => { y with dmaQ := r, flight := y.flight ++ [q] }) s)) ∧
    (∀ (d : Fin 96) p ch, x.tokQ = q :: r → q.op = .tokSend (BitVec.ofNat 64 d.val) p ch →
      ((x.flight ++ x.dmaQ).any fun z => q.after.contains z.seq) = false → tokBlocked s f = false →
      (∀ k, x.sector = some k → s.facets[d].sector = some k → tickIngress s k d ch = false →
        exec (.unitStart f .tok e) s =
          .next { modFacet f (fun y => { y with tokQ := r }) s with mesh := s.mesh ++ [⟨f, d, ch, p, q.mask, q.seq⟩] }) ∧
      (x.sector = none ∨ s.facets[d].sector ≠ x.sector ∨ (∃ k, x.sector = some k ∧ tickIngress s k d ch = true) →
        exec (.unitStart f .tok e) s =
          .next (counter 1 1 (modFacet f (fun y => { y with tokQ := r, tokDrop := y.tokDrop + 1 }) s)))) ∧
    (∀ g gs, x.running = g :: gs → let n := retireCount g
      exec (.rowRetire f e) s = .next (viewSpent f .mma g.seq s (withEcc f e g.pc.toNat (some g.a) none (fun t y =>
        let m := spmView t y .mma g.seq
        feedPipes { (if n = 2 then runRow (runRow y m g g.row) m g (g.row + 1) else runRow y m g g.row) with
          running := if g.row + n < tdRows g.td then { g with row := g.row + n } :: gs else gs }) s)))

/-- R157 to R163, R161, R170, R298, R391, R406: a DMA operation in flight completes. `DMA.RD`, `DMA.WR` and `DMA.LIN`, over
granules that their facet may use, wait until the host has answered the snoops of their lines; then they move the bytes, leave
the flight and lower their tag's count, with E_MEM_UNCORR where a sector could not be read; one over a granule that it may not
use raises FE_GRANULE and moves nothing. `DMA.XFR` copies the bytes into the other facet's scratchpad, and `DMA.CHD` and
`DMA.DSP` are given to their engine, whose answer is their status. -/
def Obligations.DmaOperationsComplete : Prop :=
  ∀ (f : Fin 96) (k : Nat) (s : State) (q : QEnt), s.facets[f].flight[k]? = some q → let x := s.facets[f]
    (∀ w spans, ((∃ td dpa stride sc, q.op = .dmaRows w td dpa stride sc ∧ spans = rowSpans td dpa.toNat stride.toNat sc) ∨
        ∃ a dpa n, q.op = .dmaLin w a dpa n ∧ spans = [(dpa.toNat, a.toNat, n.toNat)]) →
      let gs := spans.flatMap fun y => granulesOf y.1 y.2.2
      (gs.all (fun g => grantOk s x w (g * 2 ^ 30) 32) = true →
        (mustSnoop w spans s = true → exec (.dmaOpComplete f k Ecc.clean) s = .next (snoopSpans w spans s)) ∧
        (mustSnoop w spans s = false → w = true →
          exec (.dmaOpComplete f k Ecc.clean) s = .next (endDma f q 0x0000 (viewSpent f .dma q.seq s
            (spans.foldl (fun t y => writeCells y.1 y.2.2 (scut (spmView s x .dma q.seq) y.2.1 y.2.2 0) t) s)))) ∧
        (mustSnoop w spans s = false → w = false → let p := pull f q.tag spans s
          ∃ t, exec (.dmaOpComplete f k Ecc.clean) s = .next (endDma f q (if p.2 then stMemUncorr else 0x0000) t) ∧
            t.facets = p.1.facets ∧ t.mem.cells = p.1.mem.cells)) ∧
      (∀ g, gs.find? (fun g => !grantOk s x w (g * 2 ^ 30) 32) = some g →
        exec (.dmaOpComplete f k Ecc.clean) s =
          .next (facetError f feGranule false q.pc.toNat (dpaDetail (g * 2 ^ 30)) (endDma f q 0x0000 s)))) ∧
    (∀ a (d : Fin 96) b n, q.op = .dmaXfr a d b n →
      exec (.dmaOpComplete f k Ecc.clean) s = .next (endDma f q 0x0000 (viewSpent f .dma q.seq s (modFacet d (fun y =>
        noteRace (if d = f then .dma q.tag else .remote f q.tag q.seq) none [(b.toNat, n)] y.spm
          { y with spm := scopy y.spm b.toNat (spmView s x .dma q.seq) a.toNat n }) s)))) ∧
    (∀ td coll off step, q.op = .dmaChd td coll off step →
      exec (.dmaOpComplete f k Ecc.clean) s = .next (engineTakes f q (fun y => takeChd y td coll off.toNat step) s)) ∧
    (∀ td ids disp step, q.op = .dmaDsp td ids disp step →
      exec (.dmaOpComplete f k Ecc.clean) s = .next (engineTakes f q (fun y => takeDsp y td ids.toNat disp.toNat step) s))

/-- R165, R166, R167: the oldest token that the mesh holds from one facet for a channel of another arrives as that channel's
youngest where the channel has room, and `TOKEN_ARRIVAL` changes nothing else but for what the token releases; at a channel that
holds four tokens it stays in the mesh and nothing changes. R173, R174, R175: the first `FACET_FAULT_STOP` of a faulted facet
records its error and, in a running sector, leaves no facet of the sector running and the sector FAULTED; a further one does
nothing. -/
def Obligations.TokensArriveAndFaultsStop : Prop :=
  (∀ (m : MeshTok) (before after : List MeshTok) (s : State), s.mesh = before ++ m :: after →
     (∀ y ∈ before, y.src ≠ m.src ∨ y.dst ≠ m.dst ∨ y.ch ≠ m.ch) →
     (s.facets[m.dst].chans[m.ch].length < 4 →
       exec (.tokenArrival m.src m.dst m.ch) s = .next (modFacet m.dst (fun y => tokenRaces m.src m.mask m.seq m.ch
         { y with chans := vupd y.chans m.ch fun l => l ++ [m.payload] }) { s with mesh := before ++ after })) ∧
     (4 ≤ s.facets[m.dst].chans[m.ch].length → exec (.tokenArrival m.src m.dst m.ch) s = .next s)) ∧
  (∀ (f : Fin 96) (k : Fin 4) (s : State), s.facets[f].sector = some k → s.facets[f].st = .faulted →
     (s.facets[f].reported = false → let t := modFacet f (fun y => { y with reported := true }) s
       exec (.facetFaultStop f) s = .next (judgeColumn (facetCol f) (logHealth 0x09 0 f.val (s.facets[f].err.toNat % 2 ^ 32)
         (sectorFailure k (if s.sectors[k].st = .running then faultSector k t else t))))) ∧
     (s.facets[f].reported = true → exec (.facetFaultStop f) s = .next s) ∧
     (s.sectors[k].st = .running → (faultSector k s).sectors[k].st = .faulted ∧
       ∀ g, s.sectors[k].columns.getLsbD (facetCol g) = true → (faultSector k s).facets[g].st ≠ .running))

/-! ### Sectors, Arcs and parking -/

/-- R256, R257, R95, R174, R259, R260: `SECTOR_CREATE` whose checks pass makes an EMPTY sector of its columns, whose facets are
cleared and belong to it; `SECTOR_DESTROY` of a sector that is not in use returns it to NONE with its facets cleared. Other
sectors stay, and the facets of other columns do where no operation of the cleared ones is still in flight. The command
completes with OK. -/
def Obligations.SectorCreateAndDestroy : Prop :=
  ∀ (h : Hdr) (s : State), let k := secNo h
    let idle := fun (c : BitVec 12) => ∀ f : Fin 96, c.getLsbD (f.val / 8) = true → s.facets[f].flight = []
    (∀ (columns : BitVec 16) (quota : BitVec 32) (weight : BitVec 16) (flags : BitVec 8), accepted catSectorCreate h s = true →
      sectorCreateStatus k columns quota.toNat weight.toNat flags.toNat (startCmd h s) = none →
      let c : BitVec 12 := columns.truncate 12
      ∃ u t, exec (.sectorCreate h columns quota weight flags) s = .next t ∧ t = complete h 0x0000 [] u ∧
        t.sectors[k] = { st := .empty, columns := c, weight := weight, eval := flags.toNat == 1 } ∧
        (∀ j : Fin 4, j ≠ k → t.sectors[j] = s.sectors[j]) ∧
        ∀ f : Fin 96, (c.getLsbD (f.val / 8) = true → t.facets[f] = { sector := some k }) ∧
          (c.getLsbD (f.val / 8) = false → idle c → t.facets[f] = s.facets[f])) ∧
    (accepted catSectorDestroy h s = true → s.sectors[k].st ∈ [.empty, .loaded, .faulted] → sectorJob s k = none →
      sourceArmed s.sectors[k] s = false → let c := s.sectors[k].columns
      ∃ u t, exec (.sectorDestroy h) s = .next t ∧ t = complete h 0x0000 [] u ∧ t.sectors[k] = {} ∧
        (∀ j : Fin 4, j ≠ k → t.sectors[j] = s.sectors[j]) ∧
        ∀ f : Fin 96, (c.getLsbD (f.val / 8) = true → t.facets[f] = {}) ∧
          (c.getLsbD (f.val / 8) = false → idle c → t.facets[f] = s.facets[f]))

/-- R260, R263, R265, R266, R268, R269: `ARC_LOAD` of an image that passes its checks leaves the sector LOADED with that image's
header and, where the sector holds a job, the image's bytes in granules of its quota as the job's Arc copy; `ARC_START` of a
LOADED sector runs it from now on with its cadence, each facet that has code from PC 0; `ARC_STOP` of a running one leaves it
LOADED with no facet of it running. R269, R270: a `FRAME_TICK` of a sector that runs with cadence, once the next tick is due,
advances `tick`; the tick token goes to channel 15 of the ingress facet where that is empty, and counts as sent, else it counts
as missed; an Arc that names a status address has its frame status record written there. Before the tick is due nothing changes. -/
def Obligations.ArcLoadStartStopAndTick : Prop :=
  (∀ (h : Hdr) (s : State), let k := secNo h; let x := s.sectors[k]
     (∀ (b : List Byte) (im : ArcImage), accepted catArcLoad h s = true → let b' := bufBytes h b
       parseArc b' = some im → im.info.statusDpa = 0xFFFFFFFFFFFFFFFF ∨ inQuota s k im.info.statusDpa.toNat 64 = true →
       x.st ∈ [.empty, .loaded, .faulted] → im.eval = x.eval →
       (im.eval = true → ∃ j, jobOf im.info.sourceJob s = some j ∧ j.phase ≠ .preserved) → im.info.logicalCols ≤ popCount x.columns →
       (sectorJob s k ≠ none → copyGranules b'.length ≤ (quotaFree s k).length) →
       ∃ u r t, exec (.arcLoad h b) s = .next t ∧ t = complete h 0x0000 r (loadArc k im b' u) ∧
         (sectorJob s k = none → u = startCmd h s) ∧
         (∀ j, sectorJob s k = some j → let gs := (quotaFree s k).take (copyGranules b'.length)
           u = modJob j.id (fun y => { y with arcCopy := some ⟨gs, b'.length, im.info.logicalCols⟩ })
             (writeArcCopy gs b' (startCmd h s))) ∧
         t.sectors[k].st = .loaded ∧ t.sectors[k].arc = some im.info ∧ t.sectors[k].columns = x.columns ∧
         ∀ j : Fin 4, j ≠ k → t.sectors[j] = s.sectors[j]) ∧
     (∀ (c : BitVec 32) (a : ArcInfo), accepted catArcStart h s = true → x.st = .loaded → x.arc = some a →
       s.health.expelled = false → anyFaulted x.columns s = false →
       (x.eval = true → ∀ j, jobOf a.sourceJob s = some j → armed j = false ∧ parkDeferred j = false) →
       (c = 0 ∨ (a.ingress ≠ 0xFF ∧ a.minCadence ≤ c.toNat ∧ c.toNat ≤ 1000000)) →
       ∃ u t, exec (.arcStart h c) s = .next t ∧ t = complete h 0x0000 [] u ∧
         t.sectors[k] = { x with st := .running, cadence := c, t0 := s.aon.ptime, tick := 0, sent := 0, missed := 0 } ∧
         (∀ j : Fin 4, j ≠ k → t.sectors[j] = s.sectors[j]) ∧
         ∀ f : Fin 96, t.facets[f] = if x.columns.getLsbD (f.val / 8) && s.facets[f].part then
           startFacet (contextBlock s k a (logicalOf x.columns f) c.toNat true) s.facets[f] else s.facets[f]) ∧
     (∀ (ctx : List Byte) (y : Facet), (startFacet ctx y).st = .running ∧ (startFacet ctx y).pc = 0 ∧ (startFacet ctx y).cycle = 0) ∧
     (accepted catArcStop h s = true → x.st = .running →
       ∃ u t, exec (.arcStop h) s = .next t ∧ t = complete h 0x0000 [] u ∧
         t.sectors[k] = { x with st := .loaded, cadence := 0 } ∧ (∀ j : Fin 4, j ≠ k → t.sectors[j] = s.sectors[j]) ∧
         ∀ f : Fin 96, t.facets[f] = if x.columns.getLsbD (f.val / 8) then stopFacet s.facets[f] else s.facets[f])) ∧
  (∀ (k : Fin 4) (a : ArcInfo) (s : State), let x := s.sectors[k]; let due := x.t0 + x.tick * x.cadence.zeroExtend 64
     let status := fun (sent missed : W64) (t : State) => if a.statusDpa = 0xFFFFFFFFFFFFFFFF then t
       else writeBytes a.statusDpa.toNat (layout 64 [(0, leBytes 8 sent.toNat), (8, leBytes 8 missed.toNat),
         (0x10, leBytes 8 x.tick.toNat), (0x18, leBytes 8 due.toNat), (0x20, leBytes 4 s.jrn.boot.bootCount.toNat)]) t
     x.arc = some a → x.st = .running → x.cadence ≠ 0 →
     (due ≤ s.aon.ptime →
       (s.facets[ingressOf x a].chans[(15 : Fin 16)] = [] →
         exec (.frameTick k) s = .next (status (x.sent + 1) x.missed (modSector k
           (fun _ => { x with tick := x.tick + 1, sent := x.sent + 1 })
           (modFacet (ingressOf x a) (fun y => { y with chans := vupd y.chans 15 fun l => l ++ [x.tick] }) s)))) ∧
       (s.facets[ingressOf x a].chans[(15 : Fin 16)] ≠ [] →
         exec (.frameTick k) s = .next (status x.sent (x.missed + 1) (modSector k
           (fun _ => { x with tick := x.tick + 1, missed := x.missed + 1 }) s)))) ∧
     (s.aon.ptime < due → exec (.frameTick k) s = .next s))

/-- R274, R276: `PARK` of an open job with a step armed answers DEFERRED and waits, and with a snapshot running or waiting it
waits without an answer; otherwise, and at a later `PARK_RESUME` once step and snapshots are over, the Arc stops, what its
facets had started finishes, and once none of it waits for the host the job and its sector are parked, with the committed
generation in the result. `UNPARK` of a parked job opens it in the named sector, with its Arc as its copy in LPDDR6 gives it and
its scale-state record; where either cannot be read it completes with E_MEM_UNCORR. -/
def Obligations.ParkingFollowsTheJob : Prop :=
  ∀ (h : Hdr) (job : W32) (j : Job) (s : State), jobOf job s = some j →
    let waits := fun (d : Bool) => modJob job (fun y => { y with parking := true, pend := some (.park h d) }) (startCmd h s)
    let parked := fun (c : Instr) (u : State) => (let v := finishStarted s.sectors[j.sector].columns (stopArc j.sector u)
      (∀ f : Fin 96, s.sectors[j.sector].columns.getLsbD (f.val / 8) = true → v.facets[f].flight = []) → jobOf job v = jobOf job u →
      ∃ w t d, exec c s = .next t ∧ t = complete h 0x0000 (leBytes 8 (genOf j).toNat ++ d) w ∧
        t.sectors[j.sector] = { st := .parked, weight := s.sectors[j.sector].weight } ∧
        (jobOf job t).map (·.phase) = some .parked)
    (accepted catPark h s = true → j.phase = .opened → jobBusy j = false →
      (armed j = true → exec (.park h job) s = .next (defer h [] (waits true))) ∧
      (armed j = false → j.snap ≠ none ∨ j.snapNext ≠ [] → exec (.park h job) s = .next (waits false)) ∧
      (armed j = false → j.snap = none → j.snapNext = [] → parked (.park h job) (waits false))) ∧
    (∀ d, j.pend = some (.park h d) →
      (armed j = true ∨ j.snap ≠ none ∨ j.snapNext ≠ [] → exec (.parkResume job) s = .next s) ∧
      (armed j = false → j.snap = none → j.snapNext = [] → parked (.parkResume job) s)) ∧
    (accepted catUnpark h s = true → j.phase = .parked → jobBusy j = false → s.health.expelled = false →
      s.sectors[secNo h].st ∈ [.empty, .loaded, .faulted] → s.sectors[secNo h].eval = false → sectorJob s (secNo h) = none →
      (∀ c, j.arcCopy = some c → c.cols ≤ popCount s.sectors[secNo h].columns) →
      let a := readArc j (startCmd h s); let r := readScaleRec j a.1
      (a.2 = .unreadable ∨ r.2 = false → exec (.unpark h job) s = .next (complete h stMemUncorr [] r.1)) ∧
      (r.2 = true → a.2 = .absent → exec (.unpark h job) s = .next (finishUnpark h job none r.1)) ∧
      (∀ im b, r.2 = true → a.2 = .image im b → exec (.unpark h job) s = .next (finishUnpark h job (some (im, b)) r.1))) ∧
    (∀ im, j.phase = .parked →
      ∃ u t, finishUnpark h job im s = t ∧ t = complete h 0x0000 (leBytes 8 (genOf j).toNat) u ∧
        (jobOf job t).map (fun y => (y.phase, y.sector)) = some (.opened, secNo h))

/-! ### Jobs, shards and steps -/

/-- R257, R370, R438: `JOB_OPEN` of a job that is not on the module, in a sector that admits it, opens it there with its seed and
rule, no commit and no step, and lists it in the first free entry of the warm-restart directory; `JOB_CLOSE` of an open job with
nothing in progress removes it. -/
def Obligations.JobOpenAndClose : Prop :=
  ∀ (h : Hdr) (job : W32) (s : State),
    (∀ (seed : W64) (rule : BitVec 8) (i : Fin 4), accepted catJobOpen h s = true → rule.toNat ≤ 3 → s.health.expelled = false →
      jobOf job s = none → sectorOpen (secNo h) s = true → freeDirEntry s = some i →
      ∃ u t, exec (.jobOpen h job seed rule) s = .next t ∧ t = complete h 0x0000 [] u ∧
        (jobOf job t).map (fun j => (j.phase, j.sector, j.seed, j.rule)) = some (.opened, secNo h, seed, rule.toNat) ∧
        (jobOf job t).map (fun j => (j.commit.valid, j.run, j.lastArmed)) = some (false, none, 0) ∧
        (t.jrn.dir.entries[i]).map (fun d => (d.job, d.sector)) = some (job, (secNo h).val)) ∧
    (∀ j, accepted catJobClose h s = true → jobOf job s = some j → j.phase = .opened → armed j = false → j.parking = false →
      evalRunning job s = false → jobBusy j = false →
      ∃ u t, exec (.jobClose h job) s = .next t ∧ t = complete h 0x0000 [] u ∧ jobOf job t = none)

/-- R347, R359, R367: `STEP_ARM` whose checks pass arms the step over the committed generation, answers DEFERRED with the step
number, and then takes up what other members sent for it; `STEP_STATUS` answers with the last step, the committed generation,
the epoch and the state, and changes nothing else. R329, R330, R397: `PROGRESS_WRITE` takes the oldest write of the progress
sector off the stream and evaluates the schedule at it, then starts the gathers of its position; a position beyond the
schedule's starts no gather; with no write left, or no schedule, it changes nothing. -/
def Obligations.StepArmStatusProgress : Prop :=
  ∀ (h : Hdr) (job : W32) (j : Job) (s : State), jobOf job s = some j →
    (∀ (step : W64) (micro epoch : W16), accepted catStepArm h s = true →
      (stepArmStatus job step micro epoch (startCmd h s)).2 = none →
      ∃ u, exec (.stepArm h job step micro epoch) s = .next (serveEarly job (defer h (leBytes 8 step.toNat) u)) ∧
        (jobOf job u).map (·.lastArmed) = some step ∧
        ((jobOf job u).bind (·.run)).map (fun r => (r.st, r.step, r.micro, r.gen, r.cmd)) =
          some (.armed, step, micro, genOf j, some h)) ∧
    (accepted catStepStatus h s = true → j.phase ≠ .preserved →
      exec (.stepStatus h job) s = .next (complete h 0x0000 (leBytes 8 j.lastStep.toNat ++ leBytes 8 (genOf j).toNat ++
        leBytes 2 j.epoch.toNat ++
        leBytes 1 (if j.phase = .parked then 3 else if j.parking then 2 else if armed j then 1 else 0) ++
        leBytes 1 j.lastOut) (startCmd h s))) ∧
    (∀ x w r, j.sched = some x → x.writes = w :: r →
      let t := evalSchedule job w.1 w.2 (modJob job (fun k => { k with sched := k.sched.map fun y => { y with writes := r } }) s)
      exec (.progressWrite job) s = .next (if w.2 < x.positions then startGathers job w.1 w.2 t else t)) ∧
    ((∀ x, j.sched = some x → x.writes = []) → exec (.progressWrite job) s = .next s)

/-- R371, R372, R373, R88: `SHARD_COMMIT` whose checks pass and whose source reads whole writes the slot in place, with the job
commit sector where the job had no commit, and leaves the working copy to derive; `SHARD_READ` of a committed shard writes its
slot image to the destination and answers with its generation and digest, and with E_MEM_UNCORR where its record cannot be read
(R303); `RULE_LOAD` of well-formed operations extends measurement register 5 with their digest and gives them to the job. -/
def Obligations.ShardsAndRule : Prop :=
  ∀ (h : Hdr) (job : W32) (j : Job) (s : State), jobOf job s = some j →
    (∀ (shard : W32) (gen src : W64) sh o img d v w, accepted catShardCommit h s = true →
      shardCommitStatus j shard gen src (startCmd h s) = none → ownShard j shard = some sh →
      jobObjDpa (startCmd h s) job src = some o →
      readCells rqFold o.1 (imageLen j.rule sh) (putRec sh (slotOf gen) ⟨gen, 0, 0, j.epoch, j.rule, false⟩ (startCmd h s)) =
        (v, some img) →
      slotDigest rqFold j.rule sh (slotOf gen) (putShardHeader j.rule sh (putImage j.rule sh (slotOf gen) img v)) = (w, some d) →
      let t := putRec sh (slotOf gen) ⟨gen, d, 0, j.epoch, j.rule, true⟩ w
      exec (.shardCommit h job shard gen src) s = .next (modJob job (fun x => { x with
          uncommitted := x.uncommitted.filter (· != shard), derive := [shard],
          deriveCmd := some ⟨h, some shard, leBytes 8 d.toNat⟩ })
        (if j.commit.valid then t else writeCommit job ⟨j.epoch, true, gen, 0, t.jrn.boot.bootCount⟩ t))) ∧
    (∀ (shard : W32) (dest : W64) sh o t, accepted catShardRead h s = true → j.phase ≠ .preserved →
      ownShard j shard = some sh → jobObjDpa (startCmd h s) job dest = some o → imageLen j.rule sh ≤ o.2 →
      j.commit.valid = true → j.uncommitted.contains sh.id = false →
      (∀ r img v, readRec rqFold sh (slotOf j.commit.gen) (startCmd h s) = (t, .found r) → r.gen = j.commit.gen →
        slotImage rqFold j.rule sh (slotOf j.commit.gen) r t = (v, some img) →
        exec (.shardRead h job shard dest) s = .next (complete h 0x0000 (leBytes 8 r.gen.toNat ++ leBytes 8 r.digest.toNat)
          (writeCells o.1 (imageLen j.rule sh) img v))) ∧
      (readRec rqFold sh (slotOf j.commit.gen) (startCmd h s) = (t, .unreadable) →
        exec (.shardRead h job shard dest) s = .next (complete h stMemUncorr [] t))) ∧
    (∀ (b : List Byte) ops, accepted catRuleLoad h s = true → b.length = h.bufLen.toNat → parseRule b = some ops →
      j.phase = .opened → jobBusy j = false → armed j = false → j.rule = 3 →
      ∃ u t, exec (.ruleLoad h job b) s = .next t ∧ t = complete h 0x0000 (leBytes 1 ops.length) u ∧
        (jobOf job t).map (·.ruleOps) = some (some ops) ∧
        t.sec.meas = vupd s.sec.meas 4 fun m => sha256N (digestBytes m ++ sha256 b))

/-- R389, R410, R411, R412: `LAYOUT_INSTALL` of the next epoch, with nothing in flight and nothing to fill, and
`LAYOUT_DRAIN_DONE` of an install that waited, install a layout that passes its checks: the job takes the layout and the epoch
and keeps the layout before it. -/
def Obligations.LayoutInstallTakesEpoch : Prop :=
  ∀ (h : Hdr) (job : W32) (epoch : W16) (b : List Byte) (lay : Layout) (j : Job) (s : State),
    jobOf job s = some j → parseLayout b = some lay → layoutOk s j lay = true → lay.adopt = 0 → j.commit.valid = false →
    j.phase = .opened → drainOver j = true → evalRunning job s = false →
    (accepted catLayoutInstall h s = true → b.length = h.bufLen.toNat → jobBusy j = false → epoch = j.epoch + 1 →
      openPackets j = false →
      ∃ u t, exec (.layoutInstall h job epoch 0 b) s = .next t ∧ t = complete h 0x0000 (leBytes 2 j.epoch.toNat) u ∧
        (jobOf job t).map (fun x => (x.layout, x.epoch, x.prev, x.pend)) = some (some lay, epoch, j.layout, none)) ∧
    (j.pend = some (.install h epoch b) →
      ∃ u t, exec (.layoutDrainDone job) s = .next t ∧ t = complete h 0x0000 (leBytes 2 j.epoch.toNat) u ∧
        (jobOf job t).map (fun x => (x.layout, x.epoch, x.prev, x.pend)) = some (some lay, epoch, j.layout, none))

/-! ### Votes, settles and aborts -/

/-- R363: `decide` commits exactly when no record is forced, nonfinite or unstaged, all agree in epoch, members, micro-batches and
t_DETECT, those that carry a generation agree in it, and those of one replica group agree in digest; and no order of arrival
changes the decision. -/
def Obligations.DecisionFollowsTheRecords : Prop :=
  (∀ vs : List VoteRec, decideCommit vs = true ↔
    (∀ v ∈ vs, v.forced = false ∧ v.nonfinite = false ∧ v.staged = true) ∧
    (∀ v ∈ vs, ∀ w ∈ vs, v.epoch = w.epoch ∧ v.members = w.members ∧ v.microBatches = w.microBatches ∧ v.tDetectUs = w.tDetectUs ∧
      (v.generation ≠ 0xFFFFFFFFFFFFFFFF → w.generation ≠ 0xFFFFFFFFFFFFFFFF → v.generation = w.generation) ∧
      (v.replicaGroup = w.replicaGroup → v.replicaGroup ≠ 0xFFFF → v.digest = w.digest))) ∧
  (∀ vs ws : List VoteRec, vs.Perm ws → decideCommit vs = decideCommit ws)

/-- R361, R363, R364, R366: `VOTE_CAST` at the vote moment sends this member's record and marks the step voted before the records
decide; `RESOLVE_TIMEOUT` of a step that resolves settles COMMIT, which raises the committed generation by one over the records'
and ends the step; `WORKING_COPY_DERIVED` with no shard left completes the command that waits. -/
def Obligations.VotesAndSettles : Prop :=
  ∀ (job : W32) (j : Job) (r : StepRun) (s : State), jobOf job s = some j →
    (j.run = some r → voteDue j r = true →
      exec (.voteCast job) s = .next (afterVotes job (castVote job s)) ∧
      ((jobOf job (castVote job s)).bind (·.run)).map (fun q => (q.st, q.ownVote)) = some (.voted, some (ownRecord s j r))) ∧
    (j.run = some r → r.st = .resolving → r.votes.all (fun v => v.generation == r.gen) = true →
      ∃ t, exec (.resolveTimeout job) s = .next t ∧
        (jobOf job t).map (fun x => (x.run, x.lastStep, x.lastOut)) = some (none, r.step, 0) ∧
        (jobOf job t).map (fun x => (x.commit.valid, x.commit.gen, x.commit.step)) = some (true, r.gen + 1, r.step)) ∧
    (∀ d, j.derive = [] → j.deriveCmd = some d →
      ∃ u, exec (.workingCopyDerived job) s = .next (complete d.h 0x0000 d.result u) ∧
        (jobOf job u).map (·.deriveCmd) = some none)

/-- R404: `COLLECTIVE_ABORT` for an open job aborts its armed step with cause 0x02 and completes with OK; without a step armed
it has no other effect; for a job that is not open it completes with E_STATE. R401: `PEER_SILENCE_DETECT` of another member
while a step is armed aborts the step with cause 0x01 and the peer as the rank detected; it is no detection while none is armed,
or of a rank that is no other member. R366, R402: the abort of an undecided step ends it without a commit and is counted; of a
decided one, the step resolves. -/
def Obligations.AbortEndsUndecidedStep : Prop :=
  ∀ (job : W32) (s : State),
    (∀ h, accepted catCollectiveAbort h s = true →
      ((∀ j, jobOf job s = some j → j.phase ≠ .opened) →
        exec (.collectiveAbort h job) s = .next (complete h stState [] (startCmd h s))) ∧
      (∀ j, jobOf job s = some j → j.phase = .opened →
        exec (.collectiveAbort h job) s = .next (complete h 0x0000 [] (abortStep job cauCommand none 0xFFFF (startCmd h s))) ∧
        (j.run = none → exec (.collectiveAbort h job) s = .next (complete h 0x0000 [] (startCmd h s))))) ∧
    (∀ (peer : W16) (j : Job) (lay : Layout), jobOf job s = some j → j.layout = some lay →
      ((stepOf j).isSome = true → (peers lay).contains peer = true →
        exec (.peerSilenceDetect job peer) s = .next (losePeer job peer true (abortStep job cauSilence none peer s))) ∧
      (stepOf j = none ∨ (peers lay).contains peer = false → exec (.peerSilenceDetect job peer) s = .next s)) ∧
    (∀ (j : Job) (r : StepRun) (lay : Layout) cause origin detected, jobOf job s = some j → j.run = some r → j.layout = some lay →
      let t := abortStep job cause origin detected s
      (r.st = .armed ∨ r.st = .voted →
        (jobOf job t).map (fun x => (x.run, x.commit, x.lastStep, x.lastOut)) = some (none, j.commit, r.step, 2) ∧
        t.mbx.aborts = s.mbx.aborts + 1) ∧
      (r.st = .decided →
        (jobOf job t).map (fun x => (x.run.map (fun q => (q.st, q.step, q.votes)), x.commit)) =
          some (some (.resolving, r.step, r.votes), j.commit)))

/-! ### Chord packets -/

/-- R344, R353, R383, R393, R395: a packet that the transport takes acts on the armed step it names: `CHORD_DATA` adds its decoded
elements to the range they belong to, or is kept for a step still to be armed; `CREDIT` credits the contribution or is kept for
a step still to be armed, and `RANGE_UPDATE` stages a complete range of an accumulating shard whose slot may be written; with the
shard's moments in host memory, an access that fails there is a local failure with cause 2 (R352). A packet with a payload that is
too long for its fabric port is dropped and counted (R378). -/
def Obligations.ContributionsReachTheFold : Prop :=
  ∀ (p : ChordHdr) (j : Job) (r : StepRun) (lay : Layout) (s t : State),
    (∀ b : List Byte, viaUp s p.via = true →
      (oversized p.via (96 + b.length) = true → ∀ (buffer : Fin 2),
        let u := counter 6 1 (countFrame p.via s)
        exec (.chordData p b) s = .next u ∧ exec (.gatherData p b) s = .next u ∧ exec (.dispatch p b) s = .next u ∧
        exec (.reshardData p b) s = .next u ∧ exec (.mirrorData p buffer b) s = .next u ∧
        exec (.mirrorFetchData p b) s = .next u) ∧
      (oversized p.via (96 + b.length) = false → receive p ptData true (epochIs p) noWait s = .take j t →
        (j.lastArmed < p.step →
          exec (.chordData p b) s = .next (afterPacket p (modJob j.id (fun x => { x with held := x.held ++ [.data p b] }) t))) ∧
        (∀ c sh, ¬ j.lastArmed < p.step → lateForAborted j p t = none → stepOf j = some r → j.layout = some lay →
          r.step = p.step → r.st ≠ .resolving → lay.colls.find? (fun c => c.1 == p.coll) = some c →
          (ownShards lay).find? (fun sh => sh.tensor == c.2 &&
            decide (sh.first ≤ p.offset.toNat ∧ p.offset.toNat < sh.first + sh.count)) = some sh →
          (contributors sh).contains p.srcRank.toNat = true →
          let ix := (p.offset.toNat - sh.first) / sh.rangeElems
          contribDone (rangeOf r sh.id ix) p.srcRank.toNat = false →
          exec (.chordData p b) s = .next (afterPacket p (pumpStep j.id (addContrib j.id sh.id ix (rangeLen sh ix) p.srcRank.toNat
            ((dataElems p.offset.toNat b).filter fun x => decide (x.1 < sh.first + ix * sh.rangeElems + rangeLen sh ix)) t)))))) ∧
    (∀ n : W32, receive p ptCredit false (fun _ => true) noWait s = .take j t →
      (stepOf j = some r → j.layout = some lay → r.step = p.step → p.epoch = j.epoch →
        exec (.credit p n) s = .next (afterPacket p (takeCredit j.id lay (some p.srcRank) p.coll p.offset.toNat n.toNat t))) ∧
      (stepOf j = none → j.lastArmed < p.step →
        exec (.credit p n) s = .next (afterPacket p (modJob j.id (fun x => { x with
          earlyCr := x.earlyCr ++ [(p.step, p.coll, p.offset.toNat, n.toNat)] }) t)))) ∧
    (∀ (job shard : W32) (ix : Nat) sh q, jobOf job s = some j → j.run = some r →
      (jobShards j).find? (fun x => x.id == shard) = some sh → r.st = .armed ∨ r.st = .voted →
      shardRun r shard = some q → q.st = .accumulating → ix < rangeCount sh → (rangeOf r shard ix).updated = false →
      rangeComplete sh (rangeOf r shard ix) = true →
      (openRanges j r sh.prism).any (fun x => x.2.1.id == shard && x.2.2 == ix) = true → mayStage j r.gen = true →
      ∀ hf, exec (.rangeUpdate job shard ix hf) s = .next (pumpStep job
        (if hf && hostMoments s sh then failShard job sh.id 2 s else stageRange job sh ix s)))

/-- R362, R363, R364, R402: `VOTE` and `CONFIRM` records that the transport takes: one of the armed step from a rank not heard yet
joins the step's records, which then decide; one of a later step is kept. `ABORT` of the armed step, undecided, aborts it, and a
token of a later step is kept with the rank that it came from first; an UNDECIDED token ends a step that resolves without a
commit. -/
def Obligations.RecordsAndTokensArrive : Prop :=
  ∀ (p : ChordHdr) (v : VoteRec) (tok : AbortTok) (j : Job) (r : StepRun) (s t : State),
    (receive p ptVote true (epochIs p) noWait s = .take j t → voteOk p v = true →
      (j.lastArmed < p.step → (j.early.any fun x => x.rank == v.rank && x.step == v.step) = false →
        exec (.vote p v) s = .next (afterPacket p (countFirst p (modJob j.id (fun x => { x with early := x.early ++ [v] }) t)))) ∧
      (¬ j.lastArmed < p.step → lateForAborted j p t = none → stepOf j = some r → r.step = v.step →
        (r.votes.any fun x => x.rank == v.rank) = false →
        exec (.vote p v) s = .next (afterPacket p (countFirst p (afterVotes j.id
          (modRun j.id (fun q => { q with votes := q.votes ++ [v] }) t))))) ∧
      (v.commit = true → ¬ j.lastArmed < p.step → stepOf j = some r → r.step = v.step →
        (r.confirms.any fun x => x.rank == v.rank) = false →
        exec (.confirm p v) s = .next (afterPacket p (countFirst p (afterConfirms j.id
          (modRun j.id (fun q => { q with confirms := q.confirms ++ [v] }) t)))))) ∧
    (receive p ptAbort false (fun _ => true) noWait s = .take j t → p.step ≠ 0 →
      (stepOf j = some r → r.step = p.step → r.st = .armed ∨ r.st = .voted →
        exec (.abort p tok) s = .next (afterPacket p (abortStep j.id cauRelayed (some tok.originRank) 0xFFFF t))) ∧
      (stepOf j = none → j.lastArmed < p.step →
        exec (.abort p tok) s = .next (afterPacket p (modJob j.id (fun x => { x with
          earlyAb := x.earlyAb ++ [(p.step, tok.originRank)] }) t))) ∧
      (stepOf j = some r → r.step = p.step → r.st = .decided ∨ r.st = .resolving → tok.voteState = 0 →
        exec (.abort p tok) s = .next (afterPacket p (settleNot j.id true
          (abortStep j.id cauRelayed (some tok.originRank) 0xFFFF t)))))

/-- R400, R401, R383, R385: `HEARTBEAT_SEND` to a peer of an open job sends the armed step, the layout CRC, the state and
t_DETECT; a `HEARTBEAT` that agrees, or that comes while no step is armed, changes nothing more; one with another CRC or
t_DETECT, and one that shows the armed step aborted, is a detection; `RETRANSMIT_TIMEOUT` sends an unacknowledged packet again
with `RETX`, on another common port where one exists; `STREAM_WINDOW_GROWTH` raises the windows of the streams with a peer by 64
KiB, to at most 4 MiB, and sends what they then hold. An `ACK` of a member's packet, on the streams of its epoch, releases the
packets it acknowledges, and with `CE_ECHO` halves the window, at least 64 KiB, before what then fits is sent; so does one in an
exchange with a copy host (R426). -/
def Obligations.HeartbeatsAndStreams : Prop :=
  (∀ (job : W32) (peer : W16) (p : ChordHdr) (b : Heartbeat) (j : Job) (r : StepRun) (lay : Layout) (s t : State),
     (jobOf job s = some j → j.layout = some lay → j.phase = .opened → (peers lay).contains peer = true →
       exec (.heartbeatSend job peer) s = .next (sendPlain job peer false ptHeartbeat 0 0 0
         (beBytes 8 (beatState j).1.toNat ++ beBytes 4 lay.crc.toNat ++ [(beatState j).2, 0] ++ beBytes 2 s.fabric.tDetect) s)) ∧
     (receive p ptHeartbeat false (fun _ => true) noWait s = .take j t →
       (stepOf j = none → exec (.heartbeat p b) s = .next (afterPacket p t)) ∧
       (stepOf j = some r → j.layout = some lay → r.st ≠ .resolving →
         let same : Prop := b.layoutCrc = lay.crc ∧ b.tDetectUs.toNat = s.fabric.tDetect
         let gone : Prop := b.state = 3 ∧ b.armedStep = r.step
         (same → ¬ gone → exec (.heartbeat p b) s = .next (afterPacket p t)) ∧
         (same → gone → exec (.heartbeat p b) s =
           .next (afterPacket p (losePeer j.id p.srcRank true (abortStep j.id cauRelayed (some p.srcRank) 0xFFFF t)))) ∧
         (¬ same → exec (.heartbeat p b) s =
           .next (afterPacket p (losePeer j.id p.srcRank true (abortStep j.id cauMismatch none p.srcRank t)))))) ∧
     (∀ (seq : W32) (mg : Bool) q, jobOf job s = some j → unacked (streamOf j peer mg) seq = some q →
       (mg = true → unacked (streamOf j peer false) seq = none) →
       exec (.retransmitTimeout job peer seq) s = .next (modStream job peer mg
         (fun x => { x with sent := updIf x.sent (fun y => y.seq == seq) fun y =>
           { y with port := if mg then none else nextPort s j peer q.port } })
         (sendOn j peer mg q.port q.kind { q.hdr with seq := q.seq, retx := true } q.payload s))) ∧
     (let mine := fun (x : Ip6 × Ip6 × W32 × Stream) => x.2.2.1 == job && x.2.2.2.peer == peer
      let wide := fun (x : Stream) => { x with window := min 0x400000 (x.window + 0x10000) }
      let grown := fun (l : List Stream) => l.map fun x => if x.peer = peer then wide x else x
      let u := modJob job (fun k => { k with streams := grown k.streams, nextStreams := grown k.nextStreams })
        { s with fabric.hostStreams := s.fabric.hostStreams.map fun x => if mine x then (x.1, x.2.1, x.2.2.1, wide x.2.2.2) else x }
      exec (.streamWindowGrowth job peer) s = .next ((u.fabric.hostStreams.filter mine).foldl
        (fun t x => pumpHost (x.2.2.2.sent.length + 1) x.1 x.2.1 job t) (pumpPeer job peer u)))) ∧
  (∀ (p : ChordHdr) (map : W64) (j : Job) (s t : State), let a := viaAddr s p.via
     (mirrorPath p true true s = .member → receive p ptAck false (fun _ => true) noWait s = .take j t →
       hostStream t p.src a p.job = none → let act := takeAck j.id p.srcRank (viaMgmt p.via) p.ack map p.ceEcho
       (p.epoch = j.epoch → exec (.ack p map) s = .next (afterPacket p (act t))) ∧
       (p.epoch = j.epoch + 1 → exec (.ack p map) s = .next (afterPacket p (onNext j.id act t)))) ∧
     (∀ x, mirrorPath p true true s = .copyHost → viaUp s p.via = true → p.malformed = false → let v := countFrame p.via s
       hostStream v p.src a p.job = some x → let y := releaseSent x p.ack map
       let z := if p.ceEcho then { y with window := max 0x10000 (y.window / 2) } else y
       exec (.ack p map) s = .next (pumpHost (z.sent.length + 1) p.src a p.job (setHostStream p.src a p.job z v))))

/-- R397, R398, R402: `GATHER_REQ` of the armed step is served, one of a later step waits, and one of a step already left is
answered with ABORT; `GATHER_DATA` writes its bytes at their offset of the tensor's gather objects and counts them, and a shard
that is then whole serves and finishes what waited for it. R408, R409: `DISPATCH` and `DISPATCH_END` of a listed dispatch or
combine give their row or their end to the exchange. R383: each of these that comes before its step is armed is kept. R411,
R412: `RESHARD_REQ` of the epoch to come is served from the installed layout, one of the installed epoch from the layout before
it, and `RESHARD_DATA` fills the image that its sender was asked for. -/
def Obligations.GathersExchangesReshards : Prop :=
  ∀ (p : ChordHdr) (bs : List Byte) (cs : List Nat) (j : Job) (r : StepRun) (lay : Layout) (s t : State),
    let next := fun (u : State) => Host.Outcome.next (ρ := Refusal) (φ := Fault) (afterPacket p u)
    let kept := fun (q : HeldPkt) => next (modJob j.id (fun x => { x with held := x.held ++ [q] }) t)
    let now : Prop := ¬ j.lastArmed < p.step ∧ lateForAborted j p t = none ∧ stepOf j = some r ∧ j.layout = some lay ∧
      r.step = p.step ∧ r.st ≠ .resolving
    (∀ shard, receive p ptGatherReq true (epochIs p) noWait s = .take j t →
      (j.lastArmed < p.step → exec (.gatherReq p shard) s = next (modJob j.id (fun x => { x with
        gatherReqs := x.gatherReqs ++ [(p.srcRank, p.step, shard)] }) t)) ∧
      (now → exec (.gatherReq p shard) s = next (serveGather j.id p.srcRank shard t)) ∧
      (¬ j.lastArmed < p.step → ∀ u, lateForAborted j p t = some u → exec (.gatherReq p shard) s = next u) ∧
      (¬ j.lastArmed < p.step → lateForAborted j p t = none → stepOf j = none →
        exec (.gatherReq p shard) s = next (answerAbort j.id p.srcRank (viaMgmt p.via) p.step (leftToken j p.step) t))) ∧
    (oversized p.via (96 + bs.length) = false → receive p ptGatherData true (epochIs p) noWait s = .take j t →
      (j.lastArmed < p.step → exec (.gatherData p bs) s = kept (.gather p bs)) ∧
      (∀ sh, now → (tensorShards lay (p.coll.truncate 24)).find? (fun sh => decide (gatherOffset lay sh ≤ p.offset.toNat ∧
          p.offset.toNat < gatherOffset lay sh + workLen sh)) = some sh →
        let n := sget 0 r.got sh.id.toNat + bs.length
        p.offset.toNat - gatherOffset lay sh + bs.length ≤ workLen sh → n ≤ workLen sh →
        let u := modRun j.id (fun q => { q with got := sset 0 q.got sh.id.toNat n })
          ((gatherObjs lay r (p.coll.truncate 24)).foldl (fun t g => match objDpa t g with
            | some a => writeBytes (a + p.offset.toNat) bs t
            | none => t) t)
        exec (.gatherData p bs) s = next (if n = workLen sh then shardGathered j.id sh.id u else u))) ∧
    (oversized p.via (96 + bs.length) = false → receive p ptDispatch true (epochIs p) noWait s = .take j t →
      (j.lastArmed < p.step → exec (.dispatch p bs) s = kept (.row p bs)) ∧
      (∀ d, now → lay.disps.find? (fun d => d.id == p.coll.toNat) = some d → bs.length ≤ d.rowSlot →
        let n := lay.members.length; let slot := p.offset.toNat
        slot < d.perRank * n * d.capacity →
        (d.combine = false → slot / d.capacity % n = p.srcRank.toNat →
          exec (.dispatch p bs) s = next (takeRow j.id d n r.step p.srcRank.toNat slot bs t)) ∧
        (d.combine = true → slot / d.capacity % n = lay.rank.toNat →
          exec (.dispatch p bs) s = next (takeBack j.id d (routeOf lay d) n p.srcRank.toNat slot bs t)))) ∧
    (receive p ptDispatchEnd true (epochIs p) noWait s = .take j t →
      (j.lastArmed < p.step → exec (.dispatchEnd p cs) s = kept (.rowsEnd p cs)) ∧
      (∀ d, now → lay.disps.find? (fun d => d.id == p.coll.toNat) = some d → cs.length = (if d.combine then 0 else d.perRank) →
        exec (.dispatchEnd p cs) s = next (takeEnd j.id d lay.members.length r.step p.srcRank.toNat cs
          (if viaMgmt p.via then none else some p.seq) t))) ∧
    (∀ shard gen, receive p ptReshardReq true (fun j => p.epoch == j.epoch || p.epoch == j.epoch + 1) noWait s = .take j t →
      let serve := serveReshard j.id p.srcRank shard gen
      (p.epoch = j.epoch + 1 → exec (.reshardReq p shard gen) s = next (onNext j.id serve t)) ∧
      (p.epoch = j.epoch → j.prev.isSome = true → exec (.reshardReq p shard gen) s = next (onPrev j.id serve t))) ∧
    (∀ h e todo cur got c, oversized p.via (96 + bs.length) = false →
      receive p ptReshardData true (fun j => p.epoch == j.epoch + 1) noWait s = .take j t →
      j.pend = some (.fill h lay e todo cur got) → cur.find? (fun c => c.1 == p.srcRank) = some c →
      let img := ((got.find? fun x => x.1 == c.2.1).map (·.2)).getD []
      let left := c.2.2 - bs.length
      exec (.reshardData p bs) s = next (askSources (todo.length + 1) j.id (modJob j.id (fun x => { x with
        pend := some (.fill h lay e todo (if left = 0 then cur.filter (· != c) else updIf cur (· == c) fun _ => (c.1, c.2.1, left))
          (got.filter (fun x => x.1 != c.2.1) ++ [(c.2.1, mwrite img p.offset.toNat bs)])) }) t)))

/-! ### Objects, the schedule and flash -/

/-- R316, R317, R320, R322, R326: `OBJ_CREATE` whose checks pass makes an unpinned object of the job in its tier and answers with
its DPA, or zero outside LPDDR6; `OBJ_DESTROY` of one that nothing holds removes it; `OBJ_PIN` and `OBJ_UNPIN` raise and lower the
user pins and answer with the pin count, and a pin cancels an eviction. -/
def Obligations.ObjectsCreateDestroyPin : Prop :=
  ∀ (h : Hdr) (id : W64) (s : State), let s' := startCmd h s
    (∀ (size : W64) (tier : Byte) (job : W32) (j : Job), accepted catObjCreate h s = true →
      createStatus id size.toNat tier.toNat job s' = none → jobOf job s = some j →
      ∃ loc u t, exec (.objCreate h id size tier job) s = .next t ∧
        t = complete h 0x0000 (leBytes 8 (if tier.toNat = 0 then loc else 0)) u ∧
        (objOf id t).map (fun o => (o.job, o.size, o.tier, o.loc)) = some (job, size.toNat, tier.toNat, loc) ∧
        (objOf id t).map (fun o => (pinCount o, o.move, o.damaged)) = some (0, none, false) ∧
        (tier.toNat = 0 → findLpddr s' j.sector id size.toNat = some loc) ∧
        (tier.toNat = 1 → findHost s' j.hostPool size.toNat = some loc)) ∧
    (∀ o, objOf id s = some o →
      (accepted catObjDestroy h s = true → (jobOf o.job s).map (·.phase) ≠ some .parked → pinCount o = 0 → o.move = none →
        o.queue = [] → (∀ x, (jobOf o.job s).bind (·.sched) = some x → x.entries.all (fun e => e.obj != id) = true) →
        namedIn layoutObjs o s = false → (o.backed = true → s.flash.present = true) →
        ∃ u t, exec (.objDestroy h id) s = .next t ∧ t = complete h 0x0000 [] u ∧ objOf id t = none) ∧
      (keptOnly o s = false →
        (accepted catObjPin h s = true → o.damaged = false → o.userPins < 65535 →
          ∃ u t, exec (.objPin h id) s = .next t ∧ t = complete h 0x0000 (leBytes 4 (pinCount o + 1)) u ∧
            (objOf id t).map (fun x => (x.userPins, evicting x)) = some (o.userPins + 1, false)) ∧
        (accepted catObjUnpin h s = true → 0 < o.userPins →
          ∃ u t, exec (.objUnpin h id) s = .next t ∧ t = complete h 0x0000 (leBytes 4 (pinCount o - 1)) u ∧
            (objOf id t).map (·.userPins) = some (o.userPins - 1))))

/-- R317, R322, R323, R325, R342: `OBJ_PROMOTE`, with `PIN` or without, waits for a promotion that is under way, cancels an
eviction, and then answers where the object is when it lies high enough, or starts a move up; `OBJ_EVICT` waits for a move, for
pins and for earlier evictions, answers at once when the object lies low enough, or starts a move down; `EVICTION_DEQUEUE` takes
the oldest waiting eviction once nothing pins or moves the object. R321: `MOVE_SWITCH` makes the destination the residence with
what the move wrote, and completes the command, before promotions that waited act; `MOVE_FAIL` leaves the object where it was,
takes back the pin of a failed promotion, and damages it when its flash cannot be read. -/
def Obligations.ObjectsMoveBetweenTiers : Prop :=
  ∀ (h : Hdr) (id : W64) (o : Obj) (s : State), objOf id s = some o → let s' := startCmd h s
    (∀ (tier flags : Byte), tier.toNat ≤ 2 → keptOnly o s = false → o.damaged = false →
      (accepted catObjPromote h s = true → flags.toNat ≤ 1 → let pin := decide (flags.toNat = 1)
        ¬ (jobArmed o.job s = true ∧ namedIn (fun l => layoutShardObjs l ++ layoutMomentObjs l) o s = true) →
        (pin = true → o.userPins < 65535) →
        let t := if pin then modObj id (fun x => { x with userPins := x.userPins + 1 }) s' else s'
        let v := cancelEvictionOf id t
        (promoting o = true → exec (.objPromote h id tier flags) s =
          .next (modObj id (fun x => { x with promos := x.promos ++ [(some h, tier.toNat, pin)] }) t)) ∧
        (promoting o = false → o.tier ≤ tier.toNat → exec (.objPromote h id tier flags) s =
          .next (complete h 0x0000 (leBytes 8 (locOf o).toNat ++ leBytes 4 (pinCount o + bit pin)) v)) ∧
        (∀ d, promoting o = false → tier.toNat < o.tier → (o.tier = 2 → s.flash.present = true) → moveDest v o tier.toNat = some d →
          exec (.objPromote h id tier flags) s = .next (startMove id ⟨o.tier, tier.toNat, d, some h, false, pin, 0⟩ v))) ∧
      (accepted catObjEvict h s = true → namedIn layoutShardObjs o s = false →
        ¬ (jobArmed o.job s = true ∧ namedIn layoutMomentObjs o s = true) → (tier.toNat = 2 → s.flash.present = true) →
        let e : EvEntry := ⟨tier.toNat, some h, placeOf h s'⟩
        (o.move.isSome = true ∨ (o.tier < tier.toNat ∧ (pinCount o ≠ 0 ∨ o.queue ≠ [])) → exec (.objEvict h id tier) s =
          .next (defer h (pinResult o) (modObj id (fun x => { x with queue := queueIn e x.queue }) s'))) ∧
        (o.move = none → tier.toNat ≤ o.tier → exec (.objEvict h id tier) s = .next (complete h 0x0000 (pinResult o) s')) ∧
        (∀ d, o.move = none → o.tier < tier.toNat → pinCount o = 0 → o.queue = [] → moveDest s' o tier.toNat = some d →
          exec (.objEvict h id tier) s =
            .next (startMove id ⟨o.tier, tier.toNat, d, some h, false, false, placeOf h s'⟩ s')))) ∧
    (o.queue = [] ∨ pinCount o ≠ 0 ∨ o.move.isSome = true → exec (.evictionDequeue id) s = .next s) ∧
    (∀ e r, o.queue = e :: r → pinCount o = 0 → o.move = none → namedIn layoutShardObjs o s = false → residenceHeld o s = false →
      let t := modObj id (fun x => { x with queue := r }) s
      (e.target ≤ o.tier → exec (.evictionDequeue id) s = .next (dequeue (r.length + 1) id (answerEntry e 0x0000 (pinResult o) t))) ∧
      (∀ d, o.tier < e.target → (e.target = 2 → s.flash.present = true) → moveDest t o e.target = some d →
        exec (.evictionDequeue id) s = .next (startMove id ⟨o.tier, e.target, d, e.cmd, true, false, e.place⟩ t))) ∧
    (∀ m, o.move = some m →
      (∀ t c x, m.dst ≤ 2 → residenceHeld o s = false → moveContent o m s = (t, some c) → let v := settleMove o m c t
        objOf id v = some x → let u := (m.cmd.map fun h =>
          complete h 0x0000 (if m.dst < m.src then promoteResult x else pinResult x) v).getD v
        (x.tier, x.loc, x.move) = (m.dst, if m.dst = 2 then 0 else m.destLoc, none) ∧
        exec (.moveSwitch id) s = .next (o.promos.foldl (actPromo id) (holdersSee id 0x0000 u))) ∧
      (let left := fun (st : W16) (dmg : Bool) => let u := failMove id st dmg s
         o.promos = [] → (objOf id u).map (fun x => (x.tier, x.loc, x.move, x.damaged)) = some (o.tier, o.loc, none, o.damaged || dmg) ∧
           (m.cmd.isSome = true → (objOf id u).map (·.userPins) = some (o.userPins - bit (m.pin && noEffect st)))
       (o.tier = 0 → exec (.moveFail id .memUncorr) s = .next (failMove id stMemUncorr false s)) ∧ left stMemUncorr false ∧
       (o.tier = 2 → exec (.moveFail id .flashUnreadable) s = .next (failMove id stMemUncorr true (evidence 0x1A 1 s))) ∧
       left stMemUncorr true ∧ exec (.moveFail id .hostAccess) s = .next (failMove id stHostAccess false s) ∧
       exec (.moveFail id .noSpace) s = .next (failMove id stNoSpace false s) ∧
       exec (.moveFail id .degraded) s = .next (failMove id stDegraded false s)))

/-- R318, R328, R330: `PREFETCH_SCHEDULE` of a well-formed schedule over the job's own objects installs it, with its host pool,
drops the holds of the one before, and evaluates it at position 0 of step 0. R333: the FTL's relocations, each under its
condition, move the block's data to the erased block of lowest count, erase the block, and change no object; a retention scan of
a programmed block that is still good only reads it; where the condition does not hold nothing happens. -/
def Obligations.ScheduleAndFlashBlocks : Prop :=
  ∀ (h : Hdr) (job : W32) (buf : List Byte) (j : Job) (x : Sched) (base size : Nat) (s : State), let s' := startCmd h s
    (accepted catPrefetchSchedule h s = true → buf.length = h.bufLen.toNat → jobOf job s = some j → j.phase = .opened →
      parseSched buf = some (x, base, size) → armed j = false →
      (∀ e ∈ x.entries, (∃ o, objOf e.obj s = some o ∧ o.job = job ∧ o.kept = false) ∧ e.release ≠ e.position ∧
        x.lookahead + (e.release + x.positions - e.position) % x.positions ≤ x.positions ∧
        (e.evictTier = 2 → s.flash.present = true)) →
      distinct (x.entries.map (·.obj)) = true → inQuota s j.sector x.progress 32 = true →
      inQuota s j.sector x.status (32 * x.entries.length) = true →
      (x.progress + 32 ≤ x.status ∨ x.status + 32 * x.entries.length ≤ x.progress) →
      (size = 0 ∨ ∀ o ∈ s.objs, o.job = job → o.tier = 1 →
        hostBase + base ≤ o.loc ∧ o.loc + extLen o.size ≤ hostBase + base + size) →
      ((s.jobs.filter fun y => y.id != job).map fun y => (y.sched.map fun z => z.entries.length).getD 0).foldl (· + ·) 0 +
        x.entries.length ≤ 262144 →
      exec (.prefetchSchedule h job buf) s = .next (complete h 0x0000 [] (evalSchedule job 0 0
        (modJob job (fun y => { y with sched := some x, hostPool := if size = 0 then y.hostPool else (base, size) })
          (dropHolds job s'))))) ∧
    (∀ block : Nat, let b := flashBlock s block; let moved := Host.Outcome.next (ρ := Refusal) (φ := Fault) (relocate block s)
      let wear : Prop := s.flash.present = true ∧ 300 < eraseSpread s ∧ leastWorn s block = true
      let disturb : Prop := s.flash.present = true ∧ b.programmed = true ∧ 50000 ≤ b.reads
      (wear → exec (.ftlWearLevel block) s = moved) ∧ (¬ wear → exec (.ftlWearLevel block) s = .next s) ∧
      (disturb → exec (.ftlReadDisturb block) s = moved) ∧ (¬ disturb → exec (.ftlReadDisturb block) s = .next s) ∧
      (s.flash.present = true → b.programmed = true → exec (.ftlRetentionScan block true) s = moved ∧
        exec (.ftlRetentionScan block false) s = .next (modBlock block (fun b => { b with reads := b.reads + 512 }) s)) ∧
      (s.flash.present = false ∨ b.programmed = false → ∀ high, exec (.ftlRetentionScan block high) s = .next s) ∧
      (∀ k, (s.flash.blocks.map (·.1)).Nodup → b.programmed = true → erasedBlock s = some k → let t := relocate block s
        t.flash.map = (s.flash.map.map fun m => if m.block = block then { m with block := k } else m) ∧ t.objs = s.objs ∧
        (flashBlock t block).programmed = false ∧ (flashBlock t block).erases = b.erases + 1 ∧ (flashBlock t k).programmed = true))

/-! ### Mirrors -/

/-- R416, R123: `MIRROR_BIND` whose checks pass asks its partners and waits. R418: a partner reuses a region that is large
enough, or takes one, and answers OK with its GiB, or E_NO_SPACE. R416: the answer of the last partner, all with room, makes the
binding and lets its initial snapshot wait; one without room ends it with E_NO_SPACE; an earlier answer is noted. R420: the
unbind operation frees the sender's region and flash copy, and `MIRROR_UNBIND`, after a snapshot that runs, ends the binding and
all that the module hosts for the job. R428: silence outside an armed step ends the peer's part. -/
def Obligations.MirrorsBindAndUnbind : Prop :=
  ∀ (h : Hdr) (job : W32) (p : ChordHdr) (s t : State) (rank : W16),
    let out := fun (hosted : Bool) (u : State) => Host.Outcome.next (ρ := Refusal) (φ := Fault) (mirrorOut p hosted false s u)
    (∀ (degree : Byte) (everyN : W16) (p0 p1 : Ip6) j lay v st, accepted catMirrorBind h s = true → jobOf job s = some j →
      j.layout = some lay → j.phase = .opened → jobBusy j = false →
      bindStatus j lay degree.toNat everyN.toNat p0 p1 (startCmd h s) = (v, st) →
      let as := areasOf j.rule lay lay.rank
      let gib := (regionLen as + 2 ^ 30 - 1) / 2 ^ 30
      let ps := (if degree.toNat = 2 then [p0, p1] else [p0]).map fun a => (a, optGet 0 (rankOfAddr lay a), (none : Option Nat))
      (st = none → exec (.mirrorBind h job degree everyN p0 p1) s = .next (ps.foldl
        (fun t q => sendMirror job q.2.1 false mopBindReq 0 0
          (beBytes 8 (regionLen as) ++ beBytes 4 as.length ++ beBytes 2 everyN.toNat ++ zeros 2) t)
        (modJob job (fun x => { x with pend := some (.bind h everyN.toNat ps gib) }) v))) ∧
      (∀ c, st = some c → exec (.mirrorBind h job degree everyN p0 p1) s = .next (complete h c [] v))) ∧
    (mirrorIn p false false never s = some (rank, t) →
      (∀ (bytes : W64) (entries : W32) (everyN : W16) j lay, jobOf p.job t = some j → j.layout = some lay →
        let r : Region := { job := p.job, rank := rank, epoch := j.epoch, gib := (bytes.toNat + 2 ^ 30 - 1) / 2 ^ 30,
                            entries := entries.toNat, dirBytes := dirLen entries.toNat,
                            bufBytes := (bytes.toNat - dirLen entries.toNat) / 2 }
        let as := areasOf j.rule lay rank
        let ack := fun (st : Nat) (gib : Nat) (u : State) =>
          out false (mirrorReply p mopBindAck 0 0 (beBytes 2 st ++ zeros 2 ++ beBytes 4 gib) u)
        let held := regionOf p.job rank t
        (∀ o, held = some o → r.gib ≤ o.gib →
          exec (.mirrorBindReq p bytes entries everyN) s = ack 0 o.gib (reuseRegion o r as t)) ∧
        ((∀ o, held = some o → o.gib < r.gib) →
          (∀ v, takeRegion r t = some v →
            exec (.mirrorBindReq p bytes entries everyN) s = ack 0 r.gib (freshRegion r as v)) ∧
          (takeRegion r t = none →
            exec (.mirrorBindReq p bytes entries everyN) s = ack stNoSpace.toNat ((held.map (·.gib)).getD 0) t))) ∧
      (∀ (st : W16) (n : W32) j everyN ps gib, jobOf p.job t = some j → j.pend = some (.bind h everyN ps gib) →
        let qs := updIf ps (fun q => q.2.1 == rank) fun q => (q.1, q.2.1, some (if st = 0 then n.toNat else 0))
        ∃ v, exec (.mirrorBindAck p st n) s = out false v ∧
          (qs.any (fun q => q.2.2.isNone) = true → (jobOf p.job v).map (·.pend) = some (some (.bind h everyN qs gib))) ∧
          (qs.all (fun q => q.2.2.any fun g => decide (gib ≤ g)) = true →
            (jobOf p.job v).map (fun x => (x.pend, x.snapNext)) = some (some (.bindSnap h gib), [genOf j]) ∧
            (jobOf p.job v).bind (·.binding) = some ⟨ps.length, everyN, ps.map fun q => ⟨q.1, q.2.1, none⟩, gib⟩) ∧
          (qs.all (fun q => q.2.2.isSome) = true → qs.any (fun q => q.2.2.any fun g => decide (g < gib)) = true →
            (∃ w, v = complete h stNoSpace [] w) ∧ (jobOf p.job v).map (·.pend) = some none))) ∧
    (mirrorIn p true false never s = some (rank, t) →
      ∃ v, exec (.mirrorUnbindOp p) s = out true v ∧ regionOf p.job rank v = none ∧ flashCopyOf p.job rank v = none) ∧
    (accepted catMirrorUnbind h s = true → (∀ j, jobOf job s = some j → jobBusy j = false) →
      ((∀ j, jobOf job s = some j → j.snap = none ∧ j.snapNext = []) →
        ∃ u v, exec (.mirrorUnbind h job) s = .next v ∧ v = complete h 0x0000 [] u ∧ (jobOf job v).bind (·.binding) = none ∧
          v.regions.all (fun r => r.job != job) = true ∧ v.flash.copies.all (fun c => c.job != job) = true) ∧
      (∀ j, jobOf job s = some j → j.snap.isSome = true ∨ j.snapNext ≠ [] → exec (.mirrorUnbind h job) s =
        .next (modJob job (fun x => { x with pend := some (.unbindWait h) }) (startCmd h s)))) ∧
    (∀ (peer : W16) j, jobOf job s = some j → exec (.silenceOutsideArmedStep job peer) s =
      .next (if armed j then s else losePeer job peer false s))

/-- R423, R428: `SNAPSHOT_BEGIN` takes the oldest waiting generation, reads its areas and sends them to every partner; with a
snapshot running, or none waiting, it does nothing, and one whose areas cannot be read fails. At the partner `MIRROR_BEGIN`
writes the descriptor of the target buffer incomplete, `MIRROR_DATA` is stored as received, and `MIRROR_END` writes it complete
and is answered with DONE; a `MIRROR_DONE` ends the partner's part, and the last one the snapshot, and with it `MIRROR_BIND`
(R416). R430: `FLASH_COPY_PERSIST` begins to persist the newest complete copy unless it is the flash copy already, and
`FLASH_COPY_SWITCH` makes it the flash copy, but leaves the earlier one where it cannot be read. -/
def Obligations.SnapshotsReachThePartners : Prop :=
  ∀ (job : W32) (p : ChordHdr) (s t : State) (rank : W16),
    let out := fun (u : State) => Host.Outcome.next (ρ := Refusal) (φ := Fault) (mirrorOut p false false s u)
    (∀ j, jobOf job s = some j →
      (j.snapNext = [] ∨ j.binding = none ∨ j.snap.isSome = true → exec (.snapshotBegin job) s = .next s) ∧
      (∀ g rest b lay v areas, j.snapNext = g :: rest → j.binding = some b → j.layout = some lay → j.snap = none →
        snapAreas j lay g (modJob job (fun x => { x with snapNext := rest }) s) = (v, areas) →
        (areas = none → exec (.snapshotBegin job) s = .next (failSnapshot job v)) ∧
        (∀ as, areas = some as →
          let d : CopyDesc := ⟨g, j.commit.step,
            BitVec.ofNat 64 ((as.map fun a => a.2.1.length + a.2.2.length).foldl (· + ·) 0), true, true⟩
          let ws : List (W16 × Fin 2 × Bool) := b.partners.map fun q =>
            (q.rank, (q.last.map fun x => finOf (x.val + 1)).getD 0, false)
          exec (.snapshotBegin job) s = .next (ws.foldl (fun t w => sendAreas job w.1 w.2.1 d as t)
            (modJob job (fun x => { x with snap := some ⟨g, ws, d⟩ }) v))))) ∧
    (∀ (buffer : Fin 2) (d : CopyDesc) r, regionOf p.job rank t = some r →
      (mirrorIn p false false never s = some (rank, t) →
        (∀ u b, d.crcOk = true → targetBuffer r t = (u, b) → exec (.mirrorBegin p buffer d) s =
          out (modRegion p.job rank (fun x => { x with target := some b }) (putDesc r b { d with complete := false } u))) ∧
        (∀ b, d.crcOk = true → r.target = some b → exec (.mirrorEnd p buffer d) s =
          out (mirrorReply p mopDone b.val 0 (beBytes 8 d.generation.toNat)
            (modRegion p.job rank (fun x => { x with target := none }) (putDesc r b { d with complete := true } t)))) ∧
        (d.crcOk = false → exec (.mirrorBegin p buffer d) s = out t ∧ exec (.mirrorEnd p buffer d) s = out t)) ∧
      (∀ bs, oversized p.via (96 + bs.length) = false → mirrorIn p false false (dataEarly p) s = some (rank, t) →
        (∀ b, r.target = some b → p.offset.toNat + bs.length ≤ r.bufBytes →
          exec (.mirrorData p buffer bs) s = out (regionWrite r (bufferOff r b + p.offset.toNat) bs t)) ∧
        (r.target = none ∨ r.bufBytes < p.offset.toNat + bs.length → exec (.mirrorData p buffer bs) s = out t))) ∧
    (∀ gen j y w, mirrorIn p false false never s = some (rank, t) → jobOf p.job t = some j → j.snap = some y → y.gen = gen →
      y.waiting.find? (fun w => w.1 == rank && w.2.2) = some w → let left := y.waiting.filter (· != w)
      ∃ u, exec (.mirrorDone p gen) s = out u ∧
        (left ≠ [] → (jobOf p.job u).map (fun x => (x.snap, x.pend)) = some (some { y with waiting := left }, j.pend)) ∧
        (∀ h gib, left = [] → j.pend = some (.bindSnap h gib) → (∃ v, u = complete h 0x0000 (leBytes 4 gib) v) ∧
          (jobOf p.job u).map (fun x => (x.snap, x.pend)) = some (none, none)) ∧
        (left = [] → j.pend = none → (jobOf p.job u).map (fun x => (x.snap, x.pend)) = some (none, none))) ∧
    (∀ r, regionOf job rank s = some r → let size := r.dirBytes + r.bufBytes
      (∀ v b d, newestCopy rqMove r s = (v, some (b, d)) →
        let wanted := v.flash.present && !v.flash.readOnly && !(s.flash.persisting.any fun x => x.1 == job && x.2.1 == rank) &&
          !((flashCopyOf job rank v).any fun c => c.desc == d) && flashRoom v size
        exec (.flashCopyPersist job rank) s =
          .next (if wanted then { v with flash.persisting := v.flash.persisting ++ [(job, rank, b.val, d)] } else v)) ∧
      (∀ x v head, s.flash.persisting.find? (fun x => x.1 == job && x.2.1 == rank) = some x →
        let rest := s.flash.persisting.filter fun x => !(x.1 == job && x.2.1 == rank)
        regionRead rqMove r 0 r.dirBytes { s with flash.persisting := rest } = (v, head) →
        (head = none → exec (.flashCopySwitch job rank) s = .next v) ∧
        (∀ hd w body, head = some hd → regionRead rqMove r (bufferOff r (finOf x.2.2.1)) r.bufBytes v = (w, body) →
          (body = none → exec (.flashCopySwitch job rank) s = .next w) ∧
          (∀ b, body = some b → ∃ u, exec (.flashCopySwitch job rank) s = .next u ∧
            flashCopyOf job rank u = some ⟨job, rank, x.2.2.2, size, scopy hd r.dirBytes b 0 r.bufBytes⟩ ∧
            u.flash.persisting = w.flash.persisting))))

/-- R426, R432: `MIRROR_FETCH_REQ` of a copy that the module holds, in LPDDR6 for a request on the fabric and in flash for one
on the management network, serves it, and of none answers E_NO_COPY; `MIRROR_QUERY_OP` is answered with the generations of both.
R433, R434: the data of a fetch are collected, its END fills the shards that still miss them, and an END without the copy leads
to the next source. `RESTORE` waits for a snapshot, then takes its sources, and of a generation that the member's own slots hold
whole completes at once. R435: `MIRROR_QUERY` asks the partners and keeps the best of what they answer. -/
def Obligations.CopiesAreFetchedBack : Prop :=
  ∀ (h : Hdr) (job : W32) (p : ChordHdr) (s t : State) (rank : W16),
    let out := fun (hosted reply : Bool) (u : State) => Host.Outcome.next (ρ := Refusal) (φ := Fault) (mirrorOut p hosted reply s u)
    (mirrorIn p true false never s = some (rank, t) → ∀ gen : W64,
      let wanted := fun (d : CopyDesc) => gen == 0 || d.generation == gen
      let fin := fun (st b : Nat) (d : CopyDesc) => mirrorReply p mopFetchEnd b 0 (beBytes 2 st ++ zeros 6 ++ descBytes d)
      let without := fun (u : State) => out true false (fin 0x0501 0 ⟨0, 0, 0, false, true⟩ u)
      let serve := fun (b : Nat) (c : CopyDesc × List (Nat × List Byte)) (u : State) => out true false (c.2.foldl (fun t x =>
        (chunks (payloadMax (viaMgmt p.via)) x.2).foldl (fun t y => mirrorReply p mopFetchData b (x.1 + y.1) y.2.1 t) t)
        (fin 0 b c.1 u))
      (viaMgmt p.via = false →
        (∀ r v cs, regionOf p.job rank t = some r → copiesOf rqChord r t = (v, cs) →
          let best := newestOf (cs.filter fun x => wanted x.2)
          (best = none → exec (.mirrorFetchReq p gen) s = without v) ∧
          (∀ x w c, best = some x → readRegionCopy r x.1 x.2 v = (w, c) →
            (c = none → exec (.mirrorFetchReq p gen) s = without w) ∧
            (∀ y, c = some y → exec (.mirrorFetchReq p gen) s = serve x.1.val y w))) ∧
        (regionOf p.job rank t = none → exec (.mirrorFetchReq p gen) s = without t)) ∧
      (viaMgmt p.via = true →
        (∀ c, flashCopyOf p.job rank t = some c → exec (.mirrorFetchReq p gen) s =
          if wanted c.desc && t.flash.present then serve 0 (readFlashCopy c) (ftlRead (.copy c.job c.rank) t) else without t) ∧
        (flashCopyOf p.job rank t = none → exec (.mirrorFetchReq p gen) s = without t)) ∧
      (let flash := fun (u : State) => match flashCopyOf p.job rank u with
         | some c => if u.flash.present then c.desc.generation else noGen
         | none => noGen
       let reply := fun (region : W64) (u : State) =>
         out true false (mirrorReply p mopQueryReply 0 0 (beBytes 8 region.toNat ++ beBytes 8 (flash u).toNat) u)
       (regionOf p.job rank t = none → exec (.mirrorQueryOp p) s = reply noGen t) ∧
       (∀ r v best, regionOf p.job rank t = some r → newestCopy rqChord r t = (v, best) →
         exec (.mirrorQueryOp p) s = reply ((best.map (·.2.generation)).getD noGen) v))) ∧
    (mirrorIn p false false never s = some (rank, t) → ∀ j ex g flash peer left d got n moved before, jobOf p.job t = some j →
      j.pend = some (.restoreFetch h ex g peer flash left d got n moved before) →
      let mine : Prop := peer = rank ∧ flash = viaMgmt p.via
      let put := fun (d : Option CopyDesc) (got : List Host.Cell) (n : Nat) => modJob p.job fun x => { x with
        pend := some (.restoreFetch h ex g peer flash left d got n moved before) }
      (∀ bs, oversized p.via (96 + bs.length) = false →
        (mine → exec (.mirrorFetchData p bs) s = out false false (decodeRestore p.job (put d (mwrite got p.offset.toNat bs)
          (n + bs.length) (if n = 0 ∧ d.isNone = true then openSlots p.job g before t else t)))) ∧
        (¬ mine → exec (.mirrorFetchData p bs) s = out false false t)) ∧
      (∀ (st : W16) e, let good : Prop := st = 0 ∧ descComplete e = true ∧ e.generation = g
        (mine → good → exec (.mirrorFetchEnd p st e) s = out false false (decodeRestore p.job (put (some e) got n
          (if n = 0 then openSlots p.job g before t else t)))) ∧
        (mine → ¬ good → exec (.mirrorFetchEnd p st e) s = out false false (failSource p.job t)) ∧
        (¬ mine → exec (.mirrorFetchEnd p st e) s = out false false t))) ∧
    (mirrorIn p false true never s = some (rank, t) → ∀ region flash j q w, jobOf p.job t = some j → j.pend = none →
      j.query = some q → q.waiting = (rank, viaMgmt p.via) :: w → (rank, viaMgmt p.via) ∉ w →
      let best := betterOffer (betterOffer q region 1) flash 2
      ∃ v, exec (.mirrorQueryReply p region flash) s = out false true v ∧
        (w ≠ [] → (jobOf p.job v).bind (·.query) = some { best with waiting := w }) ∧
        (w = [] → ∃ own src u, v = complete q.h 0x0000 (leBytes 8 own ++ leBytes 8 best.best.toNat ++ leBytes 1 src) u)) ∧
    (∀ (addr : Ip6) (gen : W64) j lay, accepted catRestore h s = true → jobOf job s = some j → j.phase = .opened →
      s.health.expelled = false → jobBusy j = false → j.layout = some lay → armed j = false → evalRunning job s = false →
      (addr = 0 ∨ ∃ r, rankOfAddr lay addr = some r ∧ r ≠ lay.rank) →
      (j.snap.isSome = true ∨ j.snapNext ≠ [] → exec (.restore h job addr gen) s =
        .next (modJob job (fun x => { x with pend := some (.restoreWait h addr gen) }) (startCmd h s))) ∧
      (j.snap = none → j.snapNext = [] → exec (.restore h job addr gen) s = .next (startRestore job h addr gen (startCmd h s)) ∧
        (∀ v w, gen ≠ 0 → let k := { j with pend := none }
          missingShards k (genOf j) gen (clearPend job (startCmd h s)) = (v, []) → jobOf job v = some k →
          j.commit.valid = true → j.commit.gen = gen → allCommitted rqFold k (jobShards k) v = (w, true) →
          exec (.restore h job addr gen) s = .next (complete h 0x0000 (leBytes 8 gen.toNat ++ leBytes 8 0) (clearPend job w))))) ∧
    (∀ j, accepted catMirrorQuery h s = true → jobOf job s = some j → j.query = none →
      let ps := if j.phase = .preserved then [] else (j.binding.map fun b => b.partners.map (·.rank)).getD []
      (∀ v w, sendQueries job ps (startCmd h s) = (v, w) → let u := modJob job (fun x => { x with query := some ⟨h, w, noGen, 3⟩ }) v
        exec (.mirrorQuery h job) s = .next (if w = [] then endQuery job u else u)) ∧
      (j.phase = .preserved → ∃ u src, exec (.mirrorQuery h job) s =
        .next (complete h 0x0000 (leBytes 8 (genOf j).toNat ++ leBytes 8 noGen.toNat ++ leBytes 1 src) u)))

/-! ### The fabric, IPv6 and the management network -/

/-- R376, R377, R379, R380: a running port that loses its link retrains, and returns to Chord use, with or without an address,
when it is up again; one that does not is fenced; a pause frame is discarded and counted; `FABRIC_CONFIG` sets the detection
time and the port's address; `PORT_STATUS` answers with the port's state and counters. R378, R461: on an interface whose link is
up and that may send, a Neighbor Solicitation for an address of it is answered with its MAC address (one from the unspecified
address to all nodes: log 10) and an Echo Request with its body; another solicitation only counts as a frame, and on a fabric
port a packet over 9,000 bytes is dropped and counted; a Router Advertisement gives a fabric port its default router and a
management port a prefix. -/
def Obligations.FabricPortsAndInterfaces : Prop :=
  (∀ (p : Fin 8) (h : Hdr) (s : State),
     (linkUp s p = true →
       (∃ u, exec (.portLinkLoss p) s = .next u ∧ (u.fabric.ports[p]).st = 2 ∧
         ∀ q : Fin 8, q ≠ p → (u.fabric.ports[q]).st = (s.fabric.ports[q]).st) ∧
       (∃ u, exec (.pauseFrame p) s = .next u ∧ (u.fabric.ports[p]).frames = (s.fabric.ports[p]).frames + 1 ∧
         sget 0 u.health.counters 3 = sget 0 s.health.counters 3 + 1)) ∧
     ((s.fabric.ports[p]).st = 2 → answering s = true →
       (∃ u, exec (.fabricPortRetrained p) s = .next u ∧
         (u.fabric.ports[p]).st = if (s.fabric.ports[p]).addr = 0 then 3 else 4) ∧
       (s.health.fabric.getLsbD p.val = false →
         ∃ u, exec (.portRetrainTimeout p) s = .next u ∧ (u.fabric.ports[p]).st = 0 ∧ u.health.fabric.getLsbD p.val = true)) ∧
     (∀ (port : Byte) (tDetect : W32) (addr : Ip6), accepted catFabricConfig h s = true → port.toNat = p.val →
       50 ≤ tDetect.toNat → tDetect.toNat ≤ 1000 → (addr = 0 ∨ globalUnicast addr = true) →
       s.health.fabric.getLsbD p.val = false → s.jobs.any armed = false →
       ∃ u t, exec (.fabricConfig h port tDetect addr) s = .next t ∧ t = complete h 0x0000 [] u ∧
         t.fabric.tDetect = tDetect.toNat ∧ (t.fabric.ports[p]).addr = addr ∧
         (3 ≤ (s.fabric.ports[p]).st → (t.fabric.ports[p]).st = if addr = 0 then 3 else 4)) ∧
     (∀ port : Byte, accepted catPortStatus h s = true → port.toNat = p.val →
       exec (.portStatus h port) s = .next (complete h 0x0000
         (leBytes 1 (if s.health.fabric.getLsbD p.val then 0 else (s.fabric.ports[p]).st) ++ zeros 3 ++
           leBytes 4 (s.fabric.ports[p]).stale.toNat ++ leBytes 8 (s.fabric.ports[p]).frames.toNat) (startCmd h s)))) ∧
  (∀ (v : Via) (src : Ip6) (s : State), viaLink s v = true →
     (∀ target,
       (target ∈ addrsOf s v → viaSends s v = true → exec (.neighborSolicitation v target src) s =
         .next (emit (.icmp v (if src = 0 then 0xFF02 <<< 112 ||| 1 else src) 136
           (beBytes 16 target.toNat ++ beBytes 6 (macOf s v).toNat)) (countFrame v s))) ∧
       (target ∉ addrsOf s v ∨ viaSends s v = false →
         exec (.neighborSolicitation v target src) s = .next (countFrame v s))) ∧
     (∀ body : List Byte,
       (addrsOf s v ≠ [] → viaSends s v = true → (∀ p, v = .fabric p → 48 + body.length ≤ 9000) →
         exec (.icmpv6Echo v src body) s = .next (emit (.icmp v src 129 body) (countFrame v s))) ∧
       (∀ p, v = .fabric p → 9000 < 48 + body.length →
         exec (.icmpv6Echo v src body) s = .next (counter 6 1 (countFrame v s)))) ∧
     (∀ (mac : BitVec 48) (pre : W64),
       (∀ p, v = .fabric p → ∃ u, exec (.routerAdvertisement v mac pre) s = .next u ∧ (u.fabric.ports[p]).router = some mac) ∧
       (∀ p, v = .mgmt p → ∃ u, exec (.routerAdvertisement v mac pre) s = .next u ∧ pre ∈ (u.mgmt.ports[p]).prefixes)))

/-- R107, R463, R466: the first segment of an exchange is acknowledged and begins it, and the last one gives the command to the
acceptance order (a segment that came before is only acknowledged again, and one in sequence adds its bytes); the requester's
acknowledgement removes a CPL segment, and a timeout sends it again with `RETX`; a port that loses its link counts as down until
the link returns, and each change is logged. R464: `ANNOUNCE_SEND` sends the module's own entry of a job it belongs to on each
management port that can send; an `ANNOUNCE` takes the place of what the module knew of its sender for that job, and an entry
that is not refreshed expires. -/
def Obligations.ManagementExchanges : Prop :=
  (∀ (m : MgmtMsg) (last : Bool) (data : List Byte) (p : Fin 2) (s : State), let found := s.mgmt.exchanges.find? fun e => e.xid == m.xid && e.src == m.src
     let acks := if mgmtUp s m.port then [Emit.mgmtAck m.port m.xid m.offset] else []
     ((s.mgmt.ports[m.port]).up = true →
       (∀ op h, found = none → m.offset = 0 → s.mgmt.exchanges.length < 8 →
         parseEntry .net m.xid false false (data.take 64) = (op, h) →
         (∀ c, last = true → catOf op = some c → m.total = h.bufLen → (c.buf = .input → data.length = 64 + m.total.toNat) →
           ∃ u, exec (.mgmtCmd m last data) s = .next u ∧ u.out = s.out ++ acks ∧
             u.mbx.netOut = s.mbx.netOut ++ [⟨h, op, false, false, false, s.mbx.accepted⟩]) ∧
         (last = false → ∃ u, exec (.mgmtCmd m last data) s = .next u ∧ u.mbx = s.mbx ∧ u.out = s.out ++ acks ∧ u.mgmt.exchanges =
           s.mgmt.exchanges ++ [⟨m.xid, m.src, op, h, (data.drop 64).length, data.drop 64, false, [], 0⟩])) ∧
       (∀ e, found = some e →
         (m.offset.toNat < e.next ∨ e.joined = true → ∃ u, exec (.mgmtCmd m last data) s = .next u ∧ u.out = s.out ++ acks ∧
           u.mgmt = s.mgmt ∧ u.mbx = s.mbx) ∧
         (m.offset.toNat = e.next → e.joined = false → last = false → ∃ u, exec (.mgmtCmd m last data) s = .next u ∧ u.out = s.out ++ acks ∧
           u.mbx = s.mbx ∧ u.mgmt.exchanges.find? (fun e => e.xid == m.xid && e.src == m.src) =
             some { e with next := e.next + data.length, data := e.data ++ data }))) ∧
     (∀ (xid offset : W32) e, s.mgmt.exchanges = [e] → e.xid = xid →
       (∀ g r, e.unacked = g :: r → g.1 = offset.toNat →
         (∃ u, exec (.mgmtAck xid offset) s = .next u ∧
           u.mgmt.exchanges = if exchangeOver s { e with unacked := r } then [] else [{ e with unacked := r }]) ∧
         (g.2.1 < 8 → ∃ u, exec (.mgmtRetransmit xid offset) s = .next u ∧
           u.out = s.out ++ ((fins 2).filter (mgmtUp s)).map (fun q => .cpl q xid g.1 e.total true g.2.2) ∧
           sget 0 u.health.counters 14 = sget 0 s.health.counters 14 + 1))) ∧
     ((s.mgmt.ports[p]).up = true →
       ∃ u, exec (.mgmtPortDown p) s = .next u ∧ (u.mgmt.ports[p]).up = false ∧ (u.mgmt.ports[p]).down = true ∧
         u.health.events.getLast? = some ⟨now s, 0x0C, BitVec.ofNat 8 p.val, 0, 0⟩) ∧
     ((s.mgmt.ports[p]).down = true → s.health.mgmt.getLsbD p.val = false →
       ∃ u, exec (.mgmtPortUp p) s = .next u ∧ (u.mgmt.ports[p]).up = true ∧ (u.mgmt.ports[p]).down = false ∧
         u.health.events.getLast? = some ⟨now s, 0x0D, BitVec.ofNat 8 p.val, 0, 0⟩)) ∧
  (∀ (job : W32) (a : Announcement) (s : State),
     (answering s = true → inGroup s job = true →
       exec (.announceSend job) s = .next (emits (((fins 2).filter (mgmtUp s)).map fun p => .announce p (ownAnnounce s job)) s)) ∧
     (answering s = true → inGroup s a.job = true → (s.mgmt.ports[(0 : Fin 2)]).up = true ∨ (s.mgmt.ports[(1 : Fin 2)]).up = true →
       ∃ u, exec (.announce a) s = .next u ∧ u.mgmt.known.filter (fun x => x.job == a.job && x.serial == a.serial) = [a] ∧
         ∀ x ∈ s.mgmt.known, (x.job ≠ a.job ∨ x.serial ≠ a.serial) → x ∈ u.mgmt.known) ∧
     (∀ rank serial, ∃ u, exec (.announceEntryExpiry job rank serial) s = .next u ∧
       u.mgmt.known = s.mgmt.known.filter fun x => !(x.job == job && x.rank == rank && x.serial == serial)))

/-! ### Health -/

/-- R444, R445, R446, R447, R457, R458: a score update publishes the score and the confidence; a powered second counts, and the
dwell time below the threshold sets the replacement request; an hour ends its evidence bucket, and the budget window starts
again; a granted expulsion takes effect once no step is armed. -/
def Obligations.HealthFollowsTheClock : Prop :=
  ∀ s : State,
    (answering s = true → ∃ u, exec .scoreUpdate s = .next u ∧ u.health.score = scoreOf s ∧ u.health.conf = confOf s ∧
      u.health.published = true ∧ u.smb.score = BitVec.ofNat 10 (scoreOf s) ∧ u.mbx.telScore = BitVec.ofNat 10 (scoreOf s) ∧
      u.mbx.telConf = BitVec.ofNat 10 (confOf s) ∧ u.mbx.telSeq = s.mbx.telSeq + 2) ∧
    (varluxRuns s = true → ∃ u, exec .healthSecond s = .next u ∧ u.jrn.hst.obsS = min 86400 (s.jrn.hst.obsS + 1) ∧
      u.jrn.hst.windowEl = s.jrn.hst.windowEl + 1 ∧ u.jrn.hst.bucketEl = s.jrn.hst.bucketEl + 1 ∧
      (s.health.published = true → s.health.score < s.jrn.hcfg.threshold → 250 ≤ s.health.conf →
        u.jrn.hst.belowS = s.jrn.hst.belowS + 1 ∧
        (s.jrn.hcfg.dwellS ≤ s.jrn.hst.belowS + 1 → u.jrn.hst.replaceReq = true))) ∧
    (3600 ≤ s.jrn.hst.bucketEl → ∃ u, exec .evidenceBucketChange s = .next u ∧
      u.jrn.hst.bucket = (s.jrn.hst.bucket + 1) % 24 ∧ u.jrn.hst.bucketEl = 0 ∧
      u.jrn.hst.counts = s.jrn.hst.counts.filter fun e => e.1 / 12 != (s.jrn.hst.bucket + 1) % 24) ∧
    (s.jrn.hcfg.windowS ≤ s.jrn.hst.windowEl → ∃ u, exec .budgetWindowExpiry s = .next u ∧
      u.jrn.hst.budgetUsed = 0 ∧ u.jrn.hst.windowEl = 0) ∧
    (s.health.granted = true → s.phase = .ready → s.jobs.any armed = false → ∃ u, exec .expulsionEffect s = .next u ∧
      u.health.expelled = true ∧ u.health.granted = false ∧ u.jrn.hst.replaceReq = true ∧ u.pins.fault = true)

/-- R448, R451, R469, R470, R472: `HEALTH_READ` answers with the health record; `HEALTH_CONFIG` and `REHEARSAL_CONFIG` in range
take effect in the configuration in force; `UNIT_FENCE` of a unit that the service floor can spare fences it, also in the fence
map, and its lift marks a persistent fence; `DIAG_RUN` answers with what its test gave. R467, R468: an enabled injection whose
condition on its target holds starts and is counted, its class and target remembered; its end is logged with the outcome, the
silence and the withdrawal it made are over, and a failed one is evidence. -/
def Obligations.HealthCommandsAndRehearsals : Prop :=
  (∀ (h : Hdr) (s : State), let s' := startCmd h s
     (accepted catHealthRead h s = true →
       exec (.healthRead h) s = .next (answer h 0x0000 true (leBytes 2 s.health.score ++ leBytes 2 s.health.conf ++ leBytes 4 4096)
         (healthRecord s') s')) ∧
     (∀ (th hy : W16) (dw : W32) (bu : W16) (wi : W32), accepted catHealthConfig h s = true →
       let c := s.jrn.hcfg
       keepField th c.threshold ≤ 1000 → keepField hy c.hysteresis ≤ 500 →
       keepField th c.threshold + keepField hy c.hysteresis ≤ 1000 → 1 ≤ keepField dw c.dwellS → keepField dw c.dwellS ≤ 604800 →
       keepField bu c.budget ≤ 65534 → 60 ≤ keepField wi c.windowS → keepField wi c.windowS ≤ 2592000 →
       ∃ u, exec (.healthConfig h th hy dw bu wi) s = .next (evalProposal (complete h 0x0000 [] u)) ∧
         u.jrn.hcfg = { c with seq := c.seq + 1, threshold := keepField th c.threshold, hysteresis := keepField hy c.hysteresis,
                               dwellS := keepField dw c.dwellS, budget := keepField bu c.budget, windowS := keepField wi c.windowS }) ∧
     (∀ (unit index : Byte), accepted catUnitFence h s = true → index.toNat < unitCount unit.toNat →
       (floorUnits (setFenced unit.toNat index.toNat s') = true →
         ∃ t, exec (.unitFence h unit index 0) s = .next (complete h 0x0000 (leBytes 4 (fencedCount t)) t) ∧
           isFenced unit.toNat index.toNat t = true ∧ persistent t.jrn.fence unit.toNat index.toNat = true) ∧
       (persistent s.jrn.fence unit.toNat index.toNat = true →
         exec (.unitFence h unit index 1) s = .next (complete h 0x0000 (leBytes 4 (fencedCount s'))
           (markLift unit.toNat index.toNat s')))) ∧
     (∀ (period : W32) (mask : W64), accepted catRehearsalConfig h s = true → mask.toNat < 512 →
       (60 ≤ period.toNat → period.toNat ≤ 604800 →
         ∃ u, exec (.rehearsalConfig h 1 period mask) s = .next (complete h 0x0000 [] u) ∧
           u.jrn.hcfg = { s.jrn.hcfg with seq := s.jrn.hcfg.seq + 1, rehEnable := true, periodS := period.toNat,
                                          mask := mask.truncate 9 }) ∧
       (∃ u, exec (.rehearsalConfig h 0 period mask) s = .next (complete h 0x0000 [] u) ∧ u.health.injection = none ∧
         u.jrn.hcfg.rehEnable = false)) ∧
     (∀ (test : W16) (unit index : Byte) (result duration : W32), accepted catDiagRun h s = true →
       diagStatus test.toNat unit.toNat index.toNat s' = none →
       ∃ t, exec (.diagRun h test unit index result duration) s =
           .next (complete h 0x0000 (leBytes 4 result.toNat ++ leBytes 4 duration.toNat) t) ∧
         (test.toNat ≠ 2 → t = s') ∧ t.jrn = s.jrn)) ∧
  (∀ s : State,
     (∀ (b : Fin 9) (target : W16), s.jrn.hcfg.rehEnable = true → s.jrn.hcfg.mask.getLsbD b.val = true → s.phase = .ready →
       s.health.expelled = false → s.health.injection = none → s.sec.fw = none → s.sec.burning ≠ some true → injectable s b target.toNat = true →
       exec (.rehearsalInjection b target) s = .next (inject b target.toNat
         (counter 17 1 { s with health.injection := some (b.val, target, now s) }))) ∧
     (∀ b target start (passed : Bool), s.jrn.hst.bucket < 24 → s.health.injection = some (b, target, start) →
       ∃ u, exec (.rehearsalInjectionEnd passed) s = .next u ∧ u.health.injection = none ∧
         (∀ p : Fin 2, (u.mgmt.ports[p]).silent = false) ∧ (∀ p : Fin 8, (u.fabric.ports[p]).withdrawn = false) ∧
         u.health.rehLog.getLast?.map (fun r => (r.bit, r.outcome, r.target)) = some (b, if passed then 0 else 1, target) ∧
         windowCount u 0x1B = windowCount s 0x1B + (if passed then 0 else 1)))

/-! ### LPDDR6 and the host window -/

/-- R292, R294, R297, R298, R302, R303: a host read of a clean line returns its 64 bytes; a whole write stores exactly them; a
poisoned one poisons both sectors; a partial write of a sector in mode 0 is discarded and logged, and in mode 1 merged, or, with
data poison, poisons the sector; a
back-invalidate is answered and its line released; the scrub reads the next block of its Prism. R255, R295, R296, R306, R311:
`MEM_REGION_MODE` and `MEM_HDM_WINDOW` of ranges that the device does not hold change the memory configuration record; the
window in force stays; `MEM_ERROR_READ` answers with the counters and the newest records that fit. -/
def Obligations.HostMemoryAndConfiguration : Prop :=
  (∀ (off : W64) (s : State), let a := lineDpa s off
     (inWindow s off = true → absent s (granule a) = false →
       (errSectors s.mem a 64 = [] →
         exec (.cxlMemRead off) s = .next (emit (.cxlData (mread s.mem.cells a 64) false) (admitLine (off.toNat / 64) s))) ∧
       (∀ data, data.length = 64 → ∃ u, exec (.cxlMemWrite off data false) s = .next (emit .cxlDone u) ∧
         mread u.mem.cells a 64 = data ∧ ∀ x, x < a ∨ a + 64 ≤ x → mget u.mem.cells x = mget s.mem.cells x) ∧
       (∀ data, exec (.cxlMemWrite off data true) s = .next (emit .cxlDone (hostPoison (a / 32 + 1) (hostPoison (a / 32) s)))) ∧
       (∀ (data : List Byte) (en : W32), partialEn en = true →
         (∀ poison, s.jrn.mem.mode1.contains (granule a) = false →
           exec (.cxlMemNarrowWrite off data (en.zeroExtend 64) poison) s =
             .next (emit .cxlDone (logMem 0x04 rqHost a true 0xFF s))) ∧
         (s.jrn.mem.mode1.contains (granule a) = true → classify (received s.mem (a / 32)) = .clean →
           exec (.cxlMemNarrowWrite off data (en.zeroExtend 64) true) s = .next (emit .cxlDone (hostPoison (a / 32) s)) ∧
           exec (.cxlMemNarrowWrite off data (en.zeroExtend 64) false) s = .next (emit .cxlDone (hostPut (a / 32)
             (((received s.mem (a / 32)).take 32).mapIdx fun i b => if en.getLsbD i then (lineBytes data 0).getD i 0 else b) s))) ∧
         (∀ poison, exec (.cxlMemNarrowWrite off data (BitVec.allOnes 64) poison) s = exec (.cxlMemWrite off data poison) s))) ∧
     (∀ (line : W64) p, s.mem.bisnp.find? (fun p => p.2 == line.toNat) = some p → ∃ u,
        exec (.backInvalidateResponse line) s = .next u ∧ u.mem.bisnp = s.mem.bisnp.erase p ∧
        (p.1 = false → p.2 ∈ u.mem.snooped) ∧ (p.1 = true → u.mem.snooped = s.mem.snooped)) ∧
     (∀ n errs, prismOut s n = false → ∃ u, exec (.scrubBlock n errs) s = .next u ∧
       u.mem.scrub = vupd s.mem.scrub n (fun b => if b + 1 < blockCount s n then b + 1 else 0) ∧
       (errSectors { s.mem with errs := s.mem.errs ++ newErrors n errs s } (blockDpa n s.mem.scrub[n]) 4096 = [] →
         u.mem.cells = s.mem.cells ∧ u.mem.errs = s.mem.errs ++ newErrors n errs s))) ∧
  (∀ (h : Hdr) (s : State),
     (∀ (first count : W32) (mode : Byte), accepted catMemRegionMode h s = true → 0 < count.toNat → mode.toNat ≤ 1 →
       first.toNat + count.toNat ≤ 1152 → deviceHeld s first.toNat count.toNat = false →
       ∃ u t, exec (.memRegionMode h first count mode) s = .next t ∧ t = complete h 0x0000 [] u ∧
         (∀ g, g < 1152 → t.jrn.mem.mode1.contains g =
           if first.toNat ≤ g ∧ g < first.toNat + count.toNat then mode == 1 else s.jrn.mem.mode1.contains g) ∧
         t.mem = s.mem) ∧
     (∀ first size : W32, accepted catMemHdmWindow h s = true → size.toNat ≤ 256 → first.toNat + size.toNat ≤ 1152 →
       deviceHeld s first.toNat size.toNat = false →
       ∃ u t, exec (.memHdmWindow h first size) s = .next t ∧ t = complete h 0x0000 [] u ∧
         t.jrn.mem = { s.jrn.mem with seq := s.jrn.mem.seq + 1, hdmFirst := first, hdmSize := size } ∧ t.mem = s.mem) ∧
     (accepted catMemErrorRead h s = true → let fit := (h.bufLen.toNat - 32) / 32
       ∃ buf, exec (.memErrorRead h) s = .next (answer h 0x0000 true
           (leBytes 4 s.mem.corrected ++ leBytes 4 s.mem.uncorrectable ++ (fins 4).flatMap fun n => leBytes 1 (freeRemap s n)) buf
           (startCmd h s)) ∧
         buf.take 12 = leBytes 2 1 ++ leBytes 2 32 ++ leBytes 4 s.mem.log.length ++ leBytes 4 (min fit s.mem.log.length) ∧
         buf.drop 32 = (s.mem.log.drop (s.mem.log.length - fit)).flatMap logBytes))

/-! ### The host port, the rings and BAR0 -/

/-- R34, R99, R113, R298: the link comes up while Apex runs; a function-level reset returns the host's registers and the rings to
reset and discards the completions of what was fetched, and a hot reset or a lost link also empties the snoop filter; a
configuration request meets retry status or success, and success once the boot has ended, and from then on; it reads the size of
the host window (R296; log 94), or takes the response that waits in the DOE mailbox (R91; log 96). -/
def Obligations.HostPortEvents : Prop :=
  ∀ s : State,
    (apexRuns s = true → exec .hostLinkUp s = .next { s with mbx.link := .l0 }) ∧
    (s.mbx.link = .l0 →
      (∀ r, bootEnded s = true ∨ s.mbx.cfgReady = true →
        exec (.cxlConfigRequest r) s = .next (emit (.config false (cfgRead r s)) (cfgAct r { s with mbx.cfgReady := true }))) ∧
      (∀ r, ∃ u b v, exec (.cxlConfigRequest r) s = .next (emit (.config b v) u) ∧ (b = true → u.mbx = s.mbx ∧ v = none)) ∧
      (cfgRead .rangeSizeHigh s = some (BitVec.ofNat 32 (s.mem.hdmSize / 4)) ∧
        (cfgAct .doeRead s).sec.doeWaits = false ∧ ∀ r, r ≠ .doeRead → cfgAct r s = s) ∧
      (∀ c u, c ∈ [Instr.functionLevelReset, .hotReset, .hostLinkDown] → exec c s = .next u →
        u.mbx.isOpen = false ∧ u.mbx.eventEn = 0 ∧ u.mbx.eventVec = 0 ∧ u.mbx.event = s.mbx.event ∧ u.sec.spdm = 0 ∧ u.sec.doeWaits = false ∧
        (∀ n : Fin 8, (u.mbx.rings[n]).en = false ∧ (u.mbx.rings[n]).waiting = [] ∧
          (u.mbx.rings[n]).outstanding.all (·.discard) = true) ∧ u.mem.cells = s.mem.cells) ∧
      (∃ u, exec .functionLevelReset s = .next u ∧ u.mbx.link = .l0) ∧
      (∀ c, c ∈ [Instr.hotReset, .hostLinkDown] → ∃ u, exec c s = .next u ∧ u.mbx.link = .detect ∧ u.mem.snoop = []))

/-- R100, R101, R110, R111, R112: with the link up, `RING_CTRL` clears `EN` and `ERR`, or enables a ring of a legal size from its
start, or sets the error that forbids it; `RING_SQ_TAIL` of an enabled ring takes an index in range, and one beyond it stops the
ring; `RING_CQ_HEAD` releases slots to completions that wait. R10, R49, R97, R98, R99, R102, R103: an aligned 32-bit write of a
BAR0 register takes effect (`MBX_EVENT` clears the bits written 1, `MBX_EVENT_EN` and `MBX_EVENT_VECTOR` take the value), the
AON block takes writes through the register window, and a write of another size is ignored; a read of `TEL_PTIME_LO` latches the
high half; a telemetry update advances `TEL_SEQ` by 2. -/
def Obligations.RingAndBarRegisters : Prop :=
  (∀ (n : Fin 8) (v : W32) (s : State), hostReach s = true → let r := s.mbx.rings[n]
     (v.getLsbD 0 = false → ∃ u, exec (.ringCtrlWrite n v) s = .next u ∧ (u.mbx.rings[n]).en = false ∧ (u.mbx.rings[n]).err = 0 ∧
       (u.mbx.rings[n]).intrEn = v.getLsbD 1 ∧ (u.mbx.rings[n]).vector = v.extractLsb' 4 4) ∧
     (v.getLsbD 0 = true → r.en = false → ∃ u, exec (.ringCtrlWrite n v) s = .next u ∧
       (enableErr n r s.mbx.isOpen = none → (u.mbx.rings[n]).en = true ∧ (u.mbx.rings[n]).sqHead = 0 ∧ (u.mbx.rings[n]).phase = true) ∧
       (∀ c, enableErr n r s.mbx.isOpen = some c → (u.mbx.rings[n]).en = false ∧ (u.mbx.rings[n]).err = c)) ∧
     (r.en = true → let tail := v.toNat % 4096
       (tail < 2 ^ r.sqLog2.toNat → exec (.ringSqTail n v) s = .next (modRing n (fun x => { x with tail := tail }) s)) ∧
       (2 ^ r.sqLog2.toNat ≤ tail → exec (.ringSqTail n v) s = .next (modRing n (fun x => { x with err := 3, en := false }) s)) ∧
       (r.waiting = [] → exec (.ringCqHead n v) s = .next (modRing n (fun x => { x with
         cqHead := tail, unconsumed := x.unconsumed - released r tail }) s)))) ∧
  (∀ (v : W64) (s : State),
     (hostReach s = true →
       (∃ u, exec (.registerWrite 0x10 4 v) s = .next u ∧ u.mbx.event = s.mbx.event &&& ~~~ (v.truncate 7)) ∧
       (∃ u, exec (.registerWrite 0x14 4 v) s = .next u ∧ u.mbx.eventEn = v.truncate 7) ∧
       (∃ u, exec (.mbxEventEnWrite (v.truncate 32)) s = .next u ∧ u.mbx.eventEn = v.truncate 7 ∧ u.mbx.event = s.mbx.event) ∧
       exec (.registerWrite 0x18 4 v) s = .next { s with mbx.eventVec := v.truncate 4 } ∧
       (∀ off : BitVec 48, off.toNat < 0xF00000000000 → exec (.registerWrite off 2 v) s = .next s) ∧
       (exec (.telPtimeLoRead true) s = .next (emit (.read (now s)) s)) ∧
       (∃ u, exec (.telPtimeLoRead false) s = .next (emit (.read (now s &&& 0xFFFFFFFF)) u) ∧
         u.mbx.telPtimeHi = (now s >>> 32).truncate 32)) ∧
     (apexRuns s = true →
       exec (.registerWrite 0xF00000010014 4 v) s = .next { s with aon := writeWdtKick (v.truncate 32) s.aon } ∧
       exec (.registerWrite 0xF00000010010 4 v) s = .next { s with aon := writeWdtCtrl (v.truncate 32) s.aon }) ∧
     (varluxRuns s = true → ∀ power, ∃ u, exec (.telemetryUpdate power) s = .next u ∧ u.mbx.telSeq = s.mbx.telSeq + 2 ∧
       u.mbx.telPower = power ∧ u.mbx.telTemp = s.smb.tempMax ∧ u.mbx.telScore = BitVec.ofNat 10 s.health.score ∧
       ∀ k : Fin 4, u.mbx.telStep[k] = committedStep s k))

/-- R30, R65, R104, R107, R109, R111, R115, R121, R124: a fetch from the ring whose turn it is takes the entry as outstanding,
in the acceptance order, and advances `SQ_HEAD`, or stops the ring when its read fails; `MBX_OPEN` of version 1.0 opens the
mailbox; `DEVICE_INFO` and `BOOT_JOURNAL_READ` answer with their records; `BOOT_JOURNAL_CLEAR` zeroes every count;
`DEVICE_RESET` completes, and its reset follows once that completion is written; `GPIO_CONFIG` stores a pin's function. -/
def Obligations.MailboxAndDeviceCommands : Prop :=
  ∀ (h : Hdr) (s : State), let s' := startCmd h s
    (∀ (n : Fin 8) (entry : List Byte) (bf cf : Bool), s.mbx.accept = true → answering s = true → nextRing s = some n →
      (let e := parseEntry (.ring n) 0 bf cf entry
       tagOutstanding e.2.tag s.mbx.rings[n] = false → knownOp e.1 = true →
       ∃ u, exec (.commandFetch n entry bf cf false) s = .next u ∧ u.mbx.rr = finOf (n.val + 1) ∧
         (u.mbx.rings[n]).outstanding = (s.mbx.rings[n]).outstanding ++ [⟨e.2, e.1, false, false, false, s.mbx.accepted⟩] ∧
         u.mbx.accepted = s.mbx.accepted + 1 ∧
         (u.mbx.rings[n]).sqHead = ((s.mbx.rings[n]).sqHead + 1) % 2 ^ (s.mbx.rings[n]).sqLog2.toNat) ∧
      (∃ u, exec (.commandFetch n entry bf cf true) s = .next u ∧ (u.mbx.rings[n]).err = 4 ∧ (u.mbx.rings[n]).en = false ∧
        (u.mbx.rings[n]).outstanding = (s.mbx.rings[n]).outstanding ∧ (u.mbx.rings[n]).sqHead = (s.mbx.rings[n]).sqHead)) ∧
    (∀ maxMinor : Byte, accepted catMbxOpen h s = true → (∀ k : Fin 8, k ≠ 0 → ringRunning s.mbx.rings[k] = false) →
      exec (.mbxOpen h 1 0 maxMinor) s = .next (complete h 0x0000 [0x01, 0x00] { s' with mbx.isOpen := true, mbx.minor := 0 })) ∧
    (accepted catDeviceInfo h s = true →
      exec (.deviceInfo h) s = .next (answer h 0x0000 true (leBytes 4 128) (infoRecord h s') s')) ∧
    (∀ a b, accepted catBootJournalRead h s = true → s.jrn.bootDup = ⟨some a, some b⟩ → s.jrn.selected = .a →
      exec (.bootJournalRead h) s = .next (answer h 0x0000 true
        (leBytes 1 0 ++ leBytes 1 (bit s.jrn.boot.aBad + 2 * bit s.jrn.boot.bBad)) (bootBytes a ++ bootBytes b) s')) ∧
    (accepted catBootJournalClear h s = true → s.phase ≠ .booting →
      ∃ u t, exec (.bootJournalClear h) s = .next t ∧ t = complete h 0x0000 [] u ∧
        ∀ e : Fin 22, (t.jrn.boot.stage[e]).fails = 0 ∧ (t.jrn.boot.stage[e]).status = (s.jrn.boot.stage[e]).status) ∧
    (∀ kind : Byte, accepted catDeviceReset h s = true → kind.toNat ≤ 1 →
      exec (.deviceReset h kind) s = .next (complete h 0x0000 [] { s' with mbx.resetPending := some (kind == 1), mbx.resetCmd := some h })) ∧
    (resetAnswered s = true → s.phase ≠ .unpowered → s.phase ≠ .inReset →
      (s.mbx.resetPending = some true → ∃ u, exec .deviceResetTrigger s = .next u ∧ u.phase = .inReset ∧ u.aon.kind = 2 ∧ u.aon.source = 0x04) ∧
      (s.mbx.resetPending = some false → ∃ u, exec .deviceResetTrigger s = .next u ∧ u.phase = .inReset ∧ u.aon.kind = 1 ∧ u.aon.source = 0x03)) ∧
    (resetAnswered s = false → exec .deviceResetTrigger s = .next s) ∧
    (∀ pin func : Byte, accepted catGpioConfig h s = true → pin.toNat ≤ 1 → func.toNat ≤ 3 → func ≠ 0 → gpioStored s pin.toNat = 0 →
      ∃ u t, exec (.gpioConfig h pin func) s = .next t ∧ t = complete h 0x0000 [t.jrn.boot.gpioFunc] u ∧
        gpioStored t pin.toNat = func.toNat ∧ (s.mbx.ready = true → t.pins.gpio[(finOf pin.toNat : Fin 2)] = BitVec.ofNat 4 func.toNat))

/-! ### Power, resets and the always-on island -/

/-- R24, R32, R35, R44, R50, R479: the converters start once nothing holds them off; `PGOOD` starts powered time from zero with
the power-on cause; loss of `PWR_EN` or of the input, an overvoltage and a thermal trip stop the converters, and the last two
latch; without power every output reads released and no facet, job or memory content is left. -/
def Obligations.PowerComesAndGoes : Prop :=
  ∀ s : State,
    (s.pins.latchedOff = false →
      (s.pins.inputGood = true → exec .pwrEnAsserted s = .next { s with pins.pwrEn := true, pins.converters := true }) ∧
      (s.pins.pwrEn = true → exec .inputAboveRisingThreshold s = .next { s with pins.inputGood := true, pins.converters := true })) ∧
    (s.pins.pgood = false → s.pins.converters = true → ∃ u, exec .pgoodRise s = .next u ∧ u.pins.pgood = true ∧ u.phase = .inReset ∧
      u.aon = { } ∧ u.aon.ptime = 0 ∧ u.aon.kind = 0 ∧ u.aon.source = 0x01 ∧ u.jrn = s.jrn) ∧
    (∀ c, c ∈ [Instr.pwrEnDeasserted, .inputUndervoltage, .inputOvervoltage, .thermalTrip] →
      s.pins.converters = true → s.pins.pgood = true →
      ∃ u, exec c s = .next u ∧ u.phase = .unpowered ∧ u.pins.converters = false ∧ u.pins.pgood = false ∧ u.pins.fault = true ∧
        u.pins.spareRdy = false ∧ u.pins.thermTrip = true ∧ u.jobs = [] ∧ u.mem.cells = [] ∧ u.facets = Vector.replicate 96 {} ∧
        u.jrn.boot = s.jrn.boot ∧ (u.pins.latchedOff = true ↔ c = .inputOvervoltage ∨ c = .thermalTrip))

/-- R50, R51, R52, R53, R54, R69, R70, R92, R485: each trigger of a module reset in a running module begins one of its kind with
its source; facets, sectors and mailbox are at reset then, the fuse shadow holds the fuses, `FAULT` is asserted and `SB_STATE`
reads in reset; `REFCLK` loss stops the domains it feeds; within a reset a warm trigger is absorbed, and a SEC security event
replaces a warm one (log 79); a Prism that has entered self-refresh sets `SR_DONE`, and those that have not when the time is
over lose their contents. -/
def Obligations.ResetsBeginWithTheirCause : Prop :=
  ∀ s : State,
    (∀ c kind source, s.phase ∈ [.booting, .recovery, .ready, .belowFloor] →
      (c, kind, source) ∈ [(Instr.perstAsserted, (2 : BitVec 2), (0x02 : Byte)), (.apexFatalError, 2, 0x08), (.secSecurityEvent, 1, 0x0A)] ∨
      (c, kind, source) = (.jtagResetRequest, 1, 0x09) ∧ fullAccess s = true ∨
      (c, kind, source) = (.wdtSecondExpiry, 2, 0x05) ∧ periodOver s = true ∧ s.aon.wdtBoot = false ∧ s.aon.expired1 = true ∨
      (c, kind, source) = (.wdtBootExpiry, 2, 0x06) ∧ periodOver s = true ∧ s.aon.wdtBoot = true →
      ∃ u, exec c s = .next u ∧ u.phase = .inReset ∧ u.aon = aonAtReset kind source s.aon ∧ u.pins.fault = true ∧
        u.pins.spareRdy = false ∧ u.smb.state = 1 ∧ u.facets = Vector.replicate 96 {} ∧ u.sectors = Vector.replicate 4 {} ∧
        u.mbx = { resetPending := u.mbx.resetPending } ∧ u.jrn.boot = s.jrn.boot ∧
        (u.mbx.resetPending ≠ none → kind = 2 ∧ u.mbx.resetPending = some false ∧ s.mbx.resetPending = some false) ∧
        u.sec.lifecycle = s.sec.fuses.lifecycle ∧ u.sec.keyRevoked = s.sec.fuses.keyRevoked ∧ u.sec.fuseSvn = s.sec.fuses.svn ∧
        u.srEntry = (if kind = 2 then s.mem.trained else 0) ∧ (kind = 2 → u.mem.cells = s.mem.cells)) ∧
    (s.phase = .ready → ∃ u, exec .refclkLoss s = .next u ∧ u.phase = .stopped ∧ u.pins.refclk = false ∧ u.pins.txIdle = true ∧
      u.aon = s.aon ∧ u.smb = s.smb) ∧
    (s.phase = .inReset →
      exec .perstAsserted s = .next { s with pins.perst := true } ∧
      (s.aon.kind = 2 → ∃ u, exec .secSecurityEvent s = .next u ∧ u.phase = .inReset ∧ u.aon = aonAtReset 1 0x0A s.aon ∧
        u.srEntry = 0 ∧ u.mem.cells = []) ∧
      (∀ n : Fin 4, s.srEntry.getLsbD n.val = true → ∃ u, exec (.selfRefreshEntryDone n) s = .next u ∧
        u.aon.srDone = setBit s.aon.srDone n.val true ∧ u.mem.inSr = setBit s.mem.inSr n.val true ∧
        u.srEntry = setBit s.srEntry n.val false) ∧
      (∃ u, exec .srEntryTimeout s = .next u ∧ u.srEntry = 0 ∧
        ∀ x, mget u.mem.cells x = if s.mem.inSr.getLsbD (granule x % 4) then mget s.mem.cells x else 0))

/-- R44, R49, R54: powered time advances while `PGOOD` is high; the first expiry sets `EXPIRED1` and raises the interrupt, and a
further period begins; `AON_WDT_CTRL` takes a period from 10 to 20,000 and only ever sets `EN`; only 0x0000_C35A kicks; a read
of `AON_PTIME_LO` latches the high half. -/
def Obligations.PoweredTimeAndWatchdog : Prop :=
  ∀ s : State,
    (s.pins.pgood = true → exec .poweredTimeTick s = .next { s with aon.ptime := s.aon.ptime + 1 }) ∧
    (periodOver s = true → s.aon.wdtBoot = false → s.aon.expired1 = false → ∃ u, exec .wdtFirstExpiry s = .next u ∧
      u.aon = { s.aon with expired1 := true, nmi := true, wdtStart := s.aon.ptime } ∧ u.phase = s.phase) ∧
    (apexRuns s = true →
      (∀ v : W32, exec (.aonWdtCtrlWrite v) s = .next { s with aon := writeWdtCtrl v s.aon } ∧
        (writeWdtCtrl v s.aon).periodMs =
          (if 10 ≤ (v.truncate 16 : W16).toNat ∧ (v.truncate 16 : W16).toNat ≤ 20000 then v.truncate 16 else s.aon.periodMs) ∧
        (writeWdtCtrl v s.aon).wdtEn = (s.aon.wdtEn || v.getLsbD 16) ∧ (writeWdtCtrl v s.aon).wdtBoot = v.getLsbD 18 ∧
        (writeWdtCtrl v s.aon).expired1 = (s.aon.expired1 && !v.getLsbD 17)) ∧
      (exec (.aonWdtKick 0x0000C35A) s = .next { s with aon := { s.aon with expired1 := false, nmi := false, wdtStart := s.aon.ptime } }) ∧
      (∀ v, v ≠ 0x0000C35A → exec (.aonWdtKick v) s = .next s) ∧
      (exec .aonPtimeLoRead s = .next (emit (.read (s.aon.ptime &&& 0xFFFFFFFF))
        { s with aon.ptimeHi := (s.aon.ptime >>> 32).truncate 32 })))

/-- R28, R29, R486, R487: the SMBus target answers a read with its register, the low byte of it for a byte read; it acknowledges
a write at any offset, and one of `SB_ALERT` clears the bits written 1 and releases `ALERT#` once none is left; the target that
wins the alert response answers its address and releases `ALERT#`; the first thermal warning sets its alert, until the re-arm;
the hottest temperature is kept. -/
def Obligations.SmbusAndTemperature : Prop :=
  ∀ s : State, s.pins.pgood = true →
    (∀ off : Byte, exec (.smbReadWord off) s = .next (emit (.smb (some (smbReg s.smb off))) s) ∧
      exec (.smbReadByte off) s = .next (emit (.smb (some (smbReg s.smb off &&& 0x00FF))) s)) ∧
    (∀ v : Byte, (∃ u, exec (.smbWriteByte 0x03 v) s = .next u ∧ u.smb.alert = s.smb.alert &&& ~~~ (v.truncate 4) ∧
      u.pins.alert = (s.pins.alert && s.smb.alert &&& ~~~ (v.truncate 4) != 0) ∧ u.out = s.out ++ [.smbAck true]) ∧
      ∀ off, off ≠ 0x03 → exec (.smbWriteByte off v) s = .next (emit (.smbAck true) s)) ∧
    (s.pins.alert = true → exec (.smbAlertResponse true) s = .next (emit (.smb (some (smbAddress s))) { s with pins.alert := false })) ∧
    (exec (.smbAlertResponse false) s = .next (emit (.smb none) s)) ∧
    (exec .smbTimeout s = .next s) ∧
    (s.smb.warned = false → ∃ u, exec .thermWarn s = .next u ∧ u.smb.warned = true ∧ u.smb.alert.getLsbD 0 = true ∧
      (s.smb.alert.getLsbD 0 = false → u.pins.alert = true) ∧
      (varluxRuns s = true → s.jrn.hst.bucket < 24 → windowCount u 0x19 = windowCount s 0x19 + 1)) ∧
    (exec .thermWarnRearm s = .next { s with smb.warned := false }) ∧
    (∀ t, exec (.tempMaxUpdate t) s = .next { s with smb.tempMax := t })

/-! ### Boot -/

/-- R52, R55, R56, R59, R64, R70, R81, R88: `BOOT_START` of a reset that has lasted long enough begins a boot: the measurement
of the boot ROM is taken, and the journal has the boot's powered time, a boot count one higher than the record found has, and a
mark on a copy that takes no write; a lifecycle that Table 03-1 does not name ends in a cold reset. An optional stage that
fails, or whose section does not hash to the recorded value, leaves its entry FAILED with its count one higher and the boot
going on, and one that succeeds leaves it OK with its count at zero. -/
def Obligations.BootStartsAndPortsTrain : Prop :=
  ∀ s : State,
    (bootMayStart s = true →
      (lifecycleOk s.sec = true → ∀ (f : JrnFaults) torn, ∃ u, exec (.bootStart f torn) s = .next u ∧ u.jrn.boot.bootPtime = s.aon.ptime ∧
        u.sec.meas[(0 : Fin 5)] = Config.bootRomHash ∧ u.pins.perst = false ∧ u.pins.refclk = true ∧
        (f.lifeA = some 0 → u.jrn.boot.aBad = true) ∧ (f.lifeB = some 0 → u.jrn.boot.bBad = true) ∧
        (f.lifeA = none → u.jrn.boot.aBad = false) ∧ (f.lifeB = none → u.jrn.boot.bBad = false) ∧
        ∀ sel r, dupPick (·.seq) (foundRecords f torn s.jrn).bootDup = some (sel, r) → r.bootCount ≠ 0xFFFFFFFF →
          u.jrn.boot.bootCount = r.bootCount + 1) ∧
      (lifecycleOk s.sec = false → ∀ f torn, ∃ u, exec (.bootStart f torn) s = .next u ∧ u.phase = .inReset ∧ u.aon.kind = 1 ∧
        u.aon.source = 0x0A)) ∧
    (∀ (p : Fin 2), stageRuns (finOf (1 + p.val)) s = true → stageRuns (finOf (2 - p.val)) s = true →
      (∃ u, exec (.mgmtStageEnd p .ok) s = .next u ∧ (u.mgmt.ports[p]).up = true ∧ statusOf (finOf (1 + p.val)) u = .ok ∧
        failsOf (finOf (1 + p.val)) u = 0) ∧
      (∃ u, exec (.mgmtStageEnd p .fail) s = .next u ∧ statusOf (finOf (1 + p.val)) u = .failed ∧
        failsOf (finOf (1 + p.val)) u = min 255 (failsOf (finOf (1 + p.val)) s + 1))) ∧
    (∀ (p q : Fin 8) mode, p ≠ q → stageRuns (finOf (13 + p.val)) s = true → stageRuns (finOf (13 + q.val)) s = true →
      (∃ u, exec (.fabricStageEnd p .ok mode none) s = .next u ∧
        (u.fabric.ports[p]).st = (if (s.fabric.ports[p]).addr = 0 then 3 else 4) ∧ (u.fabric.ports[p]).mode = some mode ∧
        statusOf (finOf (13 + p.val)) u = .ok) ∧
      (∀ r stream, r = .fail ∨ sectionHolds 3 stream s = false →
        ∃ u, exec (.fabricStageEnd p r mode stream) s = .next u ∧ (u.fabric.ports[p]).st = 0 ∧ isFenced 3 p.val u = true ∧
          statusOf (finOf (13 + p.val)) u = .failed ∧ (sectionHolds 3 stream s = false → finOf (13 + p.val) ∈ u.sec.held))) ∧
    (stageRuns 12 s = true → ∀ stream,
      (sectionHolds 3 stream s = true →
        exec (.flashStageEnd .ok stream) s = .next (advanceBoot 12 (setStage 12 .ok 0 { s with flash.present := true })) ∧
        exec (.flashStageEnd .fail stream) s = .next (advanceBoot 12 (setStage 12 .failed (failsOf 12 s + 1) s))) ∧
      (sectionHolds 3 stream s = false → ∀ r, exec (.flashStageEnd r stream) s = .next (advanceBoot 12
        (setStage 12 .failed (failsOf 12 s + 1) { s with sec.held := s.sec.held ++ [12] }))))

/-- R19, R20, R56, R58, R60, R80, R81, R82, R308, R453: the end of a required stage that succeeds lets the boot go on with the
entry OK: the verified image runs, with its section hashes recorded, Varlux starts, the Prisms whose PLL or link failed are
fenced, each Prism is initialised by its path, and the columns that failed their self-test are fenced; the facet microcode that
does not hash to its recorded value is a failure of `LATTICE`. -/
def Obligations.RequiredStagesComplete : Prop :=
  ∀ s : State,
    (∀ a b ia ib f, stageRuns 3 s = true → failsOf 3 s = 0 → slotFacts s.sec s.jrn.boot.activeB a = f → f.verifies = true →
      ∃ t, exec (.imageStageEnd a b ia ib) s = .next (advanceBoot 3 (setStage 3 .ok 0 t)) ∧
        t.sec.running = some ⟨s.jrn.boot.activeB, f.keySlot, f.svn, f.version⟩ ∧ t.sec.meas[(1 : Fin 5)] = f.meas2 ∧
        t.sec.identDown = identityLost ia ib s.sec ∧ t.sec.sections = f.sections.map (fun y => (y.1, sha256N y.2)) ∧
        (f.reached = true → t.sec.apex = f.sections.filter fun y => y.1 == 1 || y.1 == 6)) ∧
    (stageRuns 4 s = true → ∃ t, exec (.varluxStageEnd .ok) s = .next (advanceBoot 4 (setStage 4 .ok 0 t)) ∧
      t.smb.replaceReq = s.jrn.hst.replaceReq) ∧
    (∀ m : BitVec 4, stageRuns 5 s = true → ∃ t, exec (.clocksStageEnd m .ok) s = .next (advanceBoot 5 (setStage 5 .ok 0 t)) ∧
      t.health.prisms = s.health.prisms ||| m) ∧
    (∀ w, stageRuns 6 s = true → (trainedLinks w)[(4 : Fin 9)] ≠ 0 →
      ∃ t, exec (.d2dStageEnd w) s = .next (advanceBoot 6 (setStage 6 .ok 0 t)) ∧ t.d2d.working = trainedLinks w ∧
        ∀ n : Fin 4, isFenced 2 n.val t = (isFenced 2 n.val s || (trainedLinks w)[(finOf n.val : Fin 9)] == 0 ||
          (trainedLinks w)[(finOf (n.val + 5) : Fin 9)] == 0)) ∧
    (∀ (n : Fin 4) fp t stream, stageRuns (finOf (7 + n.val)) s = true → sectionHolds 2 stream s = true → runMem n .ok fp s = some t →
      exec (.memStageEnd n .ok fp stream) s = .next (advanceBoot (finOf (7 + n.val))
        (setStage (finOf (7 + n.val)) (if memPath n s = .full then .okAlt else .ok) 0 t))) ∧
    (∀ (m : BitVec 12) stream, stageRuns 11 s = true →
      (sectionHolds 4 stream s = true → failsOf 11 s = 0 → ∃ t, exec (.latticeStageEnd .ok m stream) s =
        .next (advanceBoot 11 (setStage 11 .ok 0 t)) ∧ t.health.columns = s.health.columns ||| m ∧ t.jrn.fence.selftest = m) ∧
      (sectionHolds 4 stream s = false → ∀ r, ∃ u, exec (.latticeStageEnd r m stream) s = .next u ∧ u.phase = .inReset ∧
        u.aon.source = 0x07))

/-- R54, R58, R61: `READY` with the service floor met ends the boot ready, answering commands; below the floor the module
answers in the below-floor state; a stage that fails makes a warm reset with source 0x07. R19, R20: a flit that fails its check
is replayed and counted; a module with more than 1,024 replays within 1 ms leaves its link one module less, and no other does; a
running device whose link it was the last of fences that link's Prism. -/
def Obligations.ReadyAndDieToDieLinks : Prop :=
  (∀ s : State, stageRuns 21 s = true →
     (floorOk s = true → ∃ u, exec (.readyStage .ok) s = .next u ∧ u.phase = .ready ∧ u.mbx.accept = true ∧ u.mbx.ready = true ∧
       u.smb.state = 3 ∧ u.aon.wdtBoot = false) ∧
     (floorOk s = false → ∃ u, exec (.readyStage .ok) s = .next u ∧ u.phase = .belowFloor ∧ u.mbx.accept = true ∧ u.smb.state = 4 ∧
       u.pins.fault = true) ∧
     (∃ u, exec (.readyStage .fail) s = .next u ∧ u.phase = .inReset ∧ u.aon.kind = 2 ∧ u.aon.source = 0x07)) ∧
  (∀ (l : Fin 9) (k : Fin 4) (s : State), d2dTrained s = true → k.val < s.d2d.working[l] →
     (∃ u, exec (.d2dFlitCheckFail l k) s = .next u ∧ u.d2d.replays = s.d2d.replays + 1 ∧ u.d2d.working = s.d2d.working ∧
       sget 0 u.health.counters 0 = sget 0 s.health.counters 0 + 1 ∧ (l, k, now s) ∈ u.d2d.recent ∧
       ∀ x ∈ s.d2d.recent, (now s).toNat < x.2.2.toNat + 1000 → x ∈ u.d2d.recent) ∧
     (1024 < replaysOf l k s → ∃ u, exec (.d2dModuleRemove l k) s = .next u ∧ u.d2d.working[l] = s.d2d.working[l] - 1 ∧
       (∀ n, s.d2d.working[l] = 1 → linkPrism l.val = some n → u.health.prisms.getLsbD n = true)) ∧
     (replaysOf l k s ≤ 1024 → exec (.d2dModuleRemove l k) s = .next s))

/-! ### Firmware, fuses, debug and entropy -/

/-- R71, R83, R84, R85, R122: the first chunk of a free slot erases its header and is taken, a further one in sequence is taken,
and a last chunk whose image passes Table 03-3 leaves the slot written and passed, and one whose image does not completes with
the status of the check and leaves it erased; `FW_ACTIVATE` of a slot that passed makes it the active image with the count of
`IMAGE` at zero; in a boot that has reached `READY`, `FW_SVN_COMMIT` raises the fused SVN to the running image's, and a burn
that a reset interrupts leaves the array between the old value and the target, and the shadow as it was. -/
def Obligations.FirmwareIsInstalledAndActivated : Prop :=
  ∀ (h : Hdr) (slot : Byte) (s : State), let b := slot.toNat == 1; let s' := startCmd h s
    (∀ (offset : W32) (chunk : List Byte), accepted catFwInstall h s = true → chunkArg offset.toNat 0 slot.toNat (inBytes h chunk s') = false →
      let bs := inBytes h chunk s'
      (fwBusy s = false → offset = 0 → slotHeld b s = false →
        ∃ u t, exec (.fwInstall h offset 0 slot chunk) s = .next t ∧ t = complete h 0x0000 (leBytes 4 bs.length) u ∧
          t.sec.fw.map (fun q => (q.onNet, q.slotB, q.received)) = some (h.path == .net, b, bs.length) ∧ slotPassed t.sec b = false) ∧
      (∀ q, s.sec.fw = some q → q.onNet = (h.path == .net) → offset ≠ 0 → offset.toNat = q.received → q.slotB = b →
        ∃ u t, exec (.fwInstall h offset 0 slot chunk) s = .next t ∧ t = complete h 0x0000 (leBytes 4 (offset.toNat + bs.length)) u ∧
          t.sec.fw.map (fun q => (q.onNet, q.slotB, q.received)) = some (h.path == .net, b, offset.toNat + bs.length))) ∧
    (∀ (offset : W32) (chunk : List Byte) q, accepted catFwInstall h s = true → s.sec.fw = some q → q.onNet = (h.path == .net) →
      offset ≠ 0 → offset.toNat = q.received → q.slotB = b →
      chunkArg offset.toNat 1 slot.toNat (inBytes h chunk s') = false →
      let old := slotKnown (slotOfSec s.sec b)
      let p := putChunk old.2 q.header offset.toNat (inBytes h chunk s')
      let img := scopy p.1 0 p.2 0 0x1000
      let total := offset.toNat + (inBytes h chunk s').length
      let known := max old.1 total
      (verifyImage s.sec (slotHeader img) (slotBody b known img) = none →
        ∃ u t, exec (.fwInstall h offset 1 slot chunk) s = .next t ∧ t = complete h 0x0000 (leBytes 4 total) u ∧ t.sec.fw = none ∧
          slotOfSec t.sec b = .written known img ∧ slotPassed t.sec b = true ∧ slotSvn t.sec b = field (slotHeader img) 8 4) ∧
      (∀ st, verifyImage s.sec (slotHeader img) (slotBody b known img) = some st →
        ∃ u t, exec (.fwInstall h offset 1 slot chunk) s = .next t ∧ t = complete h st [] u ∧ t.sec.fw = none ∧
          slotOfSec t.sec b = .erased known p.1 ∧ slotPassed t.sec b = false)) ∧
    (accepted catFwActivate h s = true → slot.toNat ≤ 1 → fwBusy s = false → slotHeld b s = false → slotPassed s.sec b = true →
      ∃ u t, exec (.fwActivate h slot) s = .next t ∧ t = complete h 0x0000 [slot] u ∧ t.jrn.boot.activeB = b ∧
        (t.jrn.boot.stage[(3 : Fin 22)]).fails = 0) ∧
    (∀ (flags : Byte) r, accepted catFwSvnCommit h s = true → flags.toNat ≤ 1 → fwBusy s = false → s.sec.running = some r →
      r.slotB = s.jrn.boot.activeB → readyReached s = true → (r.svn ≤ slotSvn s.sec (!r.slotB) ∨ flags = 1) →
      exec (.fwSvnCommit h flags none) s = .next (complete h 0x0000 (leBytes 1 (max s.sec.fuseSvn r.svn))
        { s' with sec.fuses.svn := max s.sec.fuses.svn (max s.sec.fuseSvn r.svn), sec.fuseSvn := max s.sec.fuseSvn r.svn }) ∧
      ∀ n, ∃ u, exec (.fwSvnCommit h flags (some n)) s = .next u ∧ u.out = s.out ∧ fwBusy u = true ∧
        u.sec.fuseSvn = s.sec.fuseSvn ∧ s.sec.fuses.svn ≤ u.sec.fuses.svn ∧
        u.sec.fuses.svn ≤ max s.sec.fuses.svn (max s.sec.fuseSvn r.svn))

/-- R67, R68, R71, R72, R88, R92, R93: a token that is well formed and signed unlocks debug and extends measurement register 4, or
burns the fuse of its operation, and a burn that a reset interrupts leaves a valid lifecycle between the old and the new in the
array, and the shadow as it was; the TAP answers `IDCODE` and `BYPASS` always, and an Apex operation without full access does
nothing; consecutive failures of the entropy source are counted and the third ends it, and a start-up test that passes ends the
run; a reseed that is due takes new entropy and starts the count again. -/
def Obligations.TokensDebugAndEntropy : Prop :=
  ∀ (h : Hdr) (token : List Byte) (s : State), let s' := startCmd h s; let b := inBytes h token s'
    (accepted catDebugUnlock h s = true → 512 ≤ b.length → slice b 0x11 111 = zeros 111 → tokenAuth 0x50334442 b s' = true →
      let t := { s' with sec.unlocked := true }
      exec (.debugUnlock h token) s = .next (complete h 0x0000 [] (extendMeas 3 (configRecord t) t))) ∧
    (accepted catFuseBurn h s = true → fuseArg b = false → fwBusy s = false → tokenAuth 0x50334655 b s' = true →
      fuseApplies (field b 0x11 1) (field b 0x12 1) (field b 0x10 1) s' = true →
      let x := burn (field b 0x11 1) (field b 0x12 1) s.sec
      exec (.fuseBurn h token none) s = .next (complete h 0x0000 (leBytes 1 x.lifecycle.toNat ++ leBytes 1 x.keyRevoked.toNat)
        { s' with sec := x }) ∧
      ∀ n, ∃ u, exec (.fuseBurn h token (some n)) s = .next u ∧ u.out = s.out ∧ fwBusy u = true ∧
        u.sec.lifecycle = s.sec.lifecycle ∧ u.sec.keyRevoked = s.sec.keyRevoked ∧
        (u.sec.fuses.lifecycle = s.sec.fuses.lifecycle ∨ u.sec.fuses.lifecycle = s.sec.fuses.lifecycle ||| 0b010 ∨
          u.sec.fuses.lifecycle = x.fuses.lifecycle) ∧
        (u.sec.fuses.lifecycle &&& 0b100 ≠ 0 → s.sec.fuses.lifecycle &&& 0b100 = 0 → u.sec.wrapBurnt = true)) ∧
    (secRuns s = true →
      exec (.jtagTapAccess .idcode) s = .next (emit (.tap Config.idcode) s) ∧ exec (.jtagTapAccess .bypass) s = .next s ∧
      (∀ w, fullAccess s = false → exec (.jtagTapAccess (.apex w)) s = .next s) ∧
      (∃ u, exec (.entropyHealthFail []) s = .next u ∧ u.sec.entFails = s.sec.entFails + 1 ∧
        u.sec.entDown = (s.sec.entDown || decide (3 ≤ s.sec.entFails + 1))) ∧
      (∀ b bs, s.sec.entDown = false → s.sec.entFails < 2 → startupPasses b = true →
        ∃ u, exec (.entropyHealthFail (b :: bs)) s = .next u ∧ u.sec.entFails = 0 ∧ u.sec.entDown = false) ∧
      (∀ b, s.sec.entDown = false → s.sec.entFails = 1 → startupPasses b = false →
        ∃ u, exec (.entropyHealthFail [b]) s = .next u ∧ u.sec.entDown = true) ∧
      (s.sec.entDown = false → 65536 ≤ s.sec.drbgReqs →
        ∃ u, exec .drbgReseed s = .next u ∧ u.sec.drbgReqs = 0 ∧ u.sec.entFails = 0 ∧ u.sec.seedIx = s.sec.seedIx + 1))

/-! ### SPDM -/

/-- The command answers with a message on the DOE mailbox, which waits there until the host takes it; of the state after it `p`
holds. -/
def Sys2Proof.Claims.tells (c : Instr) (s : State) (m : List Byte) (p : State → Prop) : Prop :=
  ∃ u, exec c s = .next u ∧ u.out = s.out ++ [.spdm m] ∧ u.sec.doeWaits = true ∧ p u

/-- R90, R91: over the trained link, GET_VERSION starts the negotiation again and CAPABILITIES and ALGORITHMS follow in that
order; from then on digests, certificate portions of at most 1,024 bytes and measurements are answered, challenges and signed
measurements with the identity key's signature over the messages of the connection; a request before its turn, an offset past
the chain, a request without entropy, one that is not supported, and any that arrives while a response is pending (log 96) are
answered with ERROR. The bytes of the messages are PRESUMED (log 15). -/
def Obligations.SpdmAnswers : Prop :=
  ∀ s : State, spdmReach s = true → let chain := certChain s.sec.serial
    (s.sec.doeWaits = true → ∀ c req a (sl su ix code : Byte) (off len : W16) n sg,
      c ∈ [.spdmGetVersion, .spdmGetCapabilities req, .spdmNegotiateAlgorithms a req, .spdmGetDigests, .spdmGetCertificate sl off len,
        .spdmChallenge sl su n, .spdmGetMeasurements ix sl sg n, .spdmUnsupportedRequest code] →
      exec c s = .next (emit (.spdm (spdmHdr 0x7F 0x03 0)) s)) ∧
    (s.sec.doeWaits = false →
      tells .spdmGetVersion s ([0x10, 0x04, 0, 0, 0, 1] ++ leBytes 2 0x1200) (fun u => u.sec.spdm = 1 ∧ u.sec.talkB = [] ∧ u.sec.talkL = []) ∧
      (∀ req, 1 ≤ s.sec.spdm → ∃ bs, tells (.spdmGetCapabilities req) s (spdmHdr 0x61 0 0 ++ bs) fun u => u.sec.spdm = 2 ∧
        u.sec.talkA = s.sec.talkA ++ req ++ (spdmHdr 0x61 0 0 ++ bs)) ∧
      (∀ req, 2 ≤ s.sec.spdm → ∃ bs, tells (.spdmNegotiateAlgorithms ⟨true, true, true⟩ req) s (spdmHdr 0x63 0 0 ++ bs) fun u =>
        u.sec.spdm = 3 ∧ u.sec.talkA = s.sec.talkA ++ req ++ (spdmHdr 0x63 0 0 ++ bs)) ∧
      (∀ a req, 2 ≤ s.sec.spdm → a ≠ ⟨true, true, true⟩ →
        tells (.spdmNegotiateAlgorithms a req) s (spdmHdr 0x7F 0x01 0) fun u => u.sec.spdm = s.sec.spdm) ∧
      (s.sec.spdm < 3 → tells .spdmGetDigests s (spdmHdr 0x7F 0x04 0) fun u => u.sec.spdm = s.sec.spdm) ∧
      (3 ≤ s.sec.spdm →
        tells .spdmGetDigests s (spdmHdr 0x01 0 0x01 ++ sha256 chain) (fun u => u.sec.talkL = []) ∧
        (∀ off len : W16, let p := (chain.drop off.toNat).take (min len.toNat 1024)
          tells (.spdmGetCertificate 0 off len) s
            (if off.toNat < chain.length then
              spdmHdr 0x02 0 0 ++ leBytes 2 p.length ++ leBytes 2 (chain.length - off.toNat - p.length) ++ p
             else spdmHdr 0x7F 0x01 0) fun u => u.sec.spdm = s.sec.spdm) ∧
        (s.sec.entDown = true → ∀ n, tells (.spdmChallenge 0 0xFF n) s (spdmHdr 0x7F 0x05 0) fun u => u.sec.drbg = s.sec.drbg) ∧
        (s.sec.entDown = false →
          (∀ n, identityUp s = true → ∃ m g, tells (.spdmChallenge 0 0xFF n) s (m ++ g) (fun u =>
              s.sec.drbg.isSome = true → u.sec.drbgReqs = s.sec.drbgReqs + 2) ∧ g.length = 384 ∧
            m.take 36 = spdmHdr 0x03 0 0x01 ++ sha256 chain ∧ (m.drop 68).take 32 = sha256 (measAll s)) ∧
          (∀ (ix sl : Byte) n k rec_, measRecord ix s = some (k, rec_) →
            (∃ x, x.length = 32 ∧ tells (.spdmGetMeasurements ix sl false n) s (spdmHdr 0x60 (if ix = 0 then 5 else 0) 0 ++ leBytes 1 k ++
              leBytes 3 rec_.length ++ rec_ ++ x ++ [0x00, 0x00]) fun u => u.sec.talkB = []) ∧
            (identityUp s = true → ∃ m g, g.length = 384 ∧ tells (.spdmGetMeasurements ix 0 true n) s (m ++ g) fun u =>
              u.sec.talkL = [])))) ∧
      (∀ code, tells (.spdmUnsupportedRequest code) s (spdmHdr 0x7F 0x07 code) fun u => u.sec.spdm = s.sec.spdm))

/-! ### The block as a whole -/

/-- A facet instruction of the table: its constructor, its opcode, the fields that Table 05-8 gives it, and what its function or
direction field must say. -/
structure Sys2Proof.Claims.FacetRow where
  ctor : Fin 96 → Ins → Ecc → Instr
  op   : Byte
  use  : Ins → Use
  mine : Ins → Bool

/-- The facet instructions of Table 05-8 and Table 09-1. -/
def Sys2Proof.Claims.facetRows : List FacetRow :=
  ([⟨.nop, 0x00, fun _ => {}, fun _ => true⟩,
   ⟨.halt, 0x01, fun _ => { imm := 0xFFFF }, fun _ => true⟩,
   ⟨.li, 0x02, fun _ => { d := .s, imm := 0xFFFFFFFFFFFFFFFF }, fun _ => true⟩,
   ⟨.saluAdd, 0x03, useSalu, fun i => i.x.toNat % 16 == 0⟩,
   ⟨.saluSub, 0x03, useSalu, fun i => i.x.toNat % 16 == 1⟩,
   ⟨.saluAnd, 0x03, useSalu, fun i => i.x.toNat % 16 == 2⟩,
   ⟨.saluOr, 0x03, useSalu, fun i => i.x.toNat % 16 == 3⟩,
   ⟨.saluXor, 0x03, useSalu, fun i => i.x.toNat % 16 == 4⟩,
   ⟨.saluShl, 0x03, useSalu, fun i => i.x.toNat % 16 == 5⟩,
   ⟨.saluShr, 0x03, useSalu, fun i => i.x.toNat % 16 == 6⟩] : List FacetRow) ++
  ([⟨.saluSra, 0x03, useSalu, fun i => i.x.toNat % 16 == 7⟩,
   ⟨.saluMul, 0x03, useSalu, fun i => i.x.toNat % 16 == 8⟩,
   ⟨.saluMulhu, 0x03, useSalu, fun i => i.x.toNat % 16 == 9⟩,
   ⟨.saluMinu, 0x03, useSalu, fun i => i.x.toNat % 16 == 10⟩,
   ⟨.saluMaxu, 0x03, useSalu, fun i => i.x.toNat % 16 == 11⟩,
   ⟨.saluSltu, 0x03, useSalu, fun i => i.x.toNat % 16 == 12⟩,
   ⟨.saluSlt, 0x03, useSalu, fun i => i.x.toNat % 16 == 13⟩,
   ⟨.saluSeq, 0x03, useSalu, fun i => i.x.toNat % 16 == 14⟩,
   ⟨.sld, 0x04, fun _ => { d := .s, a := .s, imm := 0xFFFFFF }, fun _ => true⟩,
   ⟨.sst, 0x05, fun _ => { a := .s, b := .s, imm := 0xFFFFFF }, fun _ => true⟩] : List FacetRow) ++
  ([⟨.br, 0x06, fun _ => { a := .s, x := 3, imm := 0xFFF }, fun _ => true⟩,
   ⟨.loop, 0x07, fun _ => { a := .s, imm := 0xFFF }, fun _ => true⟩,
   ⟨.wait, 0x08, fun _ => { fl := 0x1F, x := 0xFF }, fun _ => true⟩,
   ⟨.csrr, 0x09, fun _ => { d := .s, imm := 0xFFF }, fun _ => true⟩,
   ⟨.tdseta, 0x0A, fun _ => { d := .t, imm := 0xFFFFFFFFFFFFFFFF }, fun _ => true⟩,
   ⟨.tdsetm, 0x0B, fun _ => { d := .t, imm := 0xFFFFFFFFFFFFFFFF }, fun _ => true⟩,
   ⟨.tdadd, 0x0C, fun i => if i.fl.getLsbD 0 then { fl := 1, d := .t, a := .s, b := .s } else { fl := 1, d := .t, a := .s }, fun _ => true⟩,
   ⟨.mmaLdw, 0x10, fun _ => { a := .t }, fun _ => true⟩,
   ⟨.mmaRun, 0x11, fun _ => { fl := 0xF, d := .a, a := .t }, fun _ => true⟩,
   ⟨.accZero, 0x20, fun _ => { d := .a }, fun _ => true⟩] : List FacetRow) ++
  ([⟨.accCfg, 0x21, fun _ => { d := .a, imm := 0xFFFFFF }, fun _ => true⟩,
   ⟨.accDrain, 0x22, fun _ => { fl := 1, d := .t, a := .a }, fun _ => true⟩,
   ⟨.accLoad, 0x23, fun _ => { d := .a, a := .t }, fun _ => true⟩,
   ⟨.veLd, 0x30, fun _ => { d := .v, a := .t }, fun _ => true⟩,
   ⟨.veSt, 0x31, fun _ => { d := .t, a := .v }, fun _ => true⟩,
   ⟨.veMov, 0x32, fun _ => { d := .v, a := .v, x := 0xFF }, fun i => i.x.toNat % 256 == 0x01⟩,
   ⟨.veAdd, 0x32, fun _ => { d := .v, a := .v, b := .vs, x := 0xFF }, fun i => i.x.toNat % 256 == 0x02⟩,
   ⟨.veSub, 0x32, fun _ => { d := .v, a := .v, b := .vs, x := 0xFF }, fun i => i.x.toNat % 256 == 0x03⟩,
   ⟨.veMul, 0x32, fun _ => { d := .v, a := .v, b := .vs, x := 0xFF }, fun i => i.x.toNat % 256 == 0x04⟩,
   ⟨.veFma, 0x32, fun _ => { d := .v, a := .v, b := .vs, c := .vs, x := 0xFF }, fun i => i.x.toNat % 256 == 0x05⟩] : List FacetRow) ++
  ([⟨.veFnma, 0x32, fun _ => { d := .v, a := .v, b := .vs, c := .vs, x := 0xFF }, fun i => i.x.toNat % 256 == 0x06⟩,
   ⟨.veMax, 0x32, fun _ => { d := .v, a := .v, b := .vs, x := 0xFF }, fun i => i.x.toNat % 256 == 0x07⟩,
   ⟨.veMin, 0x32, fun _ => { d := .v, a := .v, b := .vs, x := 0xFF }, fun i => i.x.toNat % 256 == 0x08⟩,
   ⟨.veAbs, 0x32, fun _ => { d := .v, a := .v, x := 0xFF }, fun i => i.x.toNat % 256 == 0x09⟩,
   ⟨.veNeg, 0x32, fun _ => { d := .v, a := .v, x := 0xFF }, fun i => i.x.toNat % 256 == 0x0A⟩,
   ⟨.veAddk, 0x32, fun _ => { d := .v, a := .v, x := 0xFF, imm := 0xFFFFFFFF }, fun i => i.x.toNat % 256 == 0x0B⟩,
   ⟨.veMulk, 0x32, fun _ => { d := .v, a := .v, x := 0xFF, imm := 0xFFFFFFFF }, fun i => i.x.toNat % 256 == 0x0C⟩,
   ⟨.veFmak, 0x32, fun _ => { d := .v, a := .v, b := .vs, x := 0xFF, imm := 0xFFFFFFFF }, fun i => i.x.toNat % 256 == 0x0D⟩,
   ⟨.veClamp, 0x32, fun _ => { d := .v, a := .v, b := .vs, c := .vs, x := 0xFF }, fun i => i.x.toNat % 256 == 0x0E⟩,
   ⟨.veCmpgt, 0x32, fun _ => { d := .v, a := .v, b := .vs, x := 0xFF }, fun i => i.x.toNat % 256 == 0x10⟩] : List FacetRow) ++
  ([⟨.veCmpge, 0x32, fun _ => { d := .v, a := .v, b := .vs, x := 0xFF }, fun i => i.x.toNat % 256 == 0x11⟩,
   ⟨.veCmpeq, 0x32, fun _ => { d := .v, a := .v, b := .vs, x := 0xFF }, fun i => i.x.toNat % 256 == 0x12⟩,
   ⟨.veSel, 0x32, fun _ => { d := .v, a := .v, b := .vs, c := .vs, x := 0xFF }, fun i => i.x.toNat % 256 == 0x13⟩,
   ⟨.veFloor, 0x32, fun _ => { d := .v, a := .v, x := 0xFF }, fun i => i.x.toNat % 256 == 0x18⟩,
   ⟨.veRndi, 0x32, fun _ => { d := .v, a := .v, x := 0xFF }, fun i => i.x.toNat % 256 == 0x19⟩,
   ⟨.veGetexp, 0x32, fun _ => { d := .v, a := .v, x := 0xFF }, fun i => i.x.toNat % 256 == 0x1A⟩,
   ⟨.veGetmant, 0x32, fun _ => { d := .v, a := .v, x := 0xFF }, fun i => i.x.toNat % 256 == 0x1B⟩,
   ⟨.veLdexp, 0x32, fun _ => { d := .v, a := .v, b := .vs, x := 0xFF }, fun i => i.x.toNat % 256 == 0x1C⟩,
   ⟨.veCvtbf, 0x32, fun _ => { d := .v, a := .v, x := 0xFF }, fun i => i.x.toNat % 256 == 0x1D⟩,
   ⟨.veRmax, 0x32, fun _ => { d := .v, a := .v, x := 0xFF }, fun i => i.x.toNat % 256 == 0x20⟩] : List FacetRow) ++
  ([⟨.veRsum, 0x32, fun _ => { d := .v, a := .v, x := 0xFF }, fun i => i.x.toNat % 256 == 0x21⟩,
   ⟨.veCsum, 0x32, fun _ => { d := .v, a := .v, x := 0xFF }, fun i => i.x.toNat % 256 == 0x22⟩,
   ⟨.veBcast0, 0x32, fun _ => { d := .v, a := .v, x := 0xFF }, fun i => i.x.toNat % 256 == 0x23⟩,
   ⟨.veRcp, 0x32, fun _ => { d := .v, a := .v, x := 0xFF }, fun i => i.x.toNat % 256 == 0x28⟩,
   ⟨.veRsqrt, 0x32, fun _ => { d := .v, a := .v, x := 0xFF }, fun i => i.x.toNat % 256 == 0x29⟩,
   ⟨.veExp, 0x32, fun _ => { d := .v, a := .v, x := 0xFF }, fun i => i.x.toNat % 256 == 0x2A⟩,
   ⟨.veRand, 0x32, fun _ => { d := .v, a := .v, b := .vs, x := 0xFF, imm := 0xFFFFFFFF }, fun i => i.x.toNat % 256 == 0x30⟩,
   ⟨.dmaRd, 0x40, fun _ => { fl := 1, d := .t, b := .s, c := .s, x := 0x1F07 }, fun _ => true⟩,
   ⟨.dmaWr, 0x41, fun _ => { fl := 1, a := .t, b := .s, c := .s, x := 0x1F07 }, fun _ => true⟩,
   ⟨.dmaLinRead, 0x42, fun _ => { fl := 1, a := .s, b := .s, c := .s, x := 7 }, fun i => !i.fl.getLsbD 0⟩] : List FacetRow) ++
  ([⟨.dmaLinWrite, 0x42, fun _ => { fl := 1, a := .s, b := .s, c := .s, x := 7 }, fun i => i.fl.getLsbD 0⟩,
   ⟨.dmaXfr, 0x43, fun _ => { a := .s, b := .s, c := .s, x := 7, imm := 0x3FFFFF }, fun _ => true⟩,
   ⟨.dmaChd, 0x44, fun _ => { a := .t, b := .s, c := .s, x := 7 }, fun _ => true⟩,
   ⟨.dmaDsp, 0x45, fun _ => { a := .t, b := .s, c := .s, x := 7 }, fun _ => true⟩,
   ⟨.dmaStat, 0x46, fun _ => { d := .s, x := 7 }, fun _ => true⟩,
   ⟨.tokSend, 0x50, fun _ => { a := .s, b := .s, x := 0xFF0F }, fun _ => true⟩,
   ⟨.tokRecv, 0x51, fun _ => { d := .s, x := 0xF }, fun _ => true⟩,
   ⟨.tokPoll, 0x52, fun _ => { d := .s, x := 0xF }, fun _ => true⟩,
   ⟨.statClr, 0x60, fun _ => { x := 0xF }, fun _ => true⟩,
   ⟨.statEmit, 0x61, fun _ => { fl := 1, a := .s, x := 0xF }, fun _ => true⟩] : List FacetRow)

/-- A step runs the command at the front of the queue on the state with the queue's rest; on an empty queue it leaves the state
as it is (the model's choice: log 1). -/
def Obligations.StepRunsFrontCommand : Prop :=
  (∀ (c : Instr) (q : List Instr) (s : State),
    step { s with pending := c :: q } = exec c { s with pending := q }) ∧
  (∀ s : State, s.pending = [] → step s = .next s)

/-- R29, R49, R50, R99, R100, R173 and the tables they name: what the state right after the power-on trigger holds. The values
that the spec leaves open (logs 3, 5, 6, 7) are not among them. -/
def Obligations.ResetHoldsTheSpecValues : Prop :=
  State.reset.phase = .inReset ∧ State.reset.aon.ptime = 0 ∧ State.reset.aon.kind = 0 ∧ State.reset.aon.source = 0x01 ∧
  State.reset.aon.periodMs = 0x03E8 ∧ State.reset.aon.wdtEn = false ∧ State.reset.smb.state = 1 ∧ State.reset.smb.tempMax = 0xFF ∧
  State.reset.smb.alert = 0 ∧ State.reset.pins.fault = true ∧ State.reset.pins.spareRdy = false ∧ State.reset.mbx.isOpen = false ∧
  (∀ n : Fin 8, (State.reset.mbx.rings[n]).sqLog2 = 4 ∧ (State.reset.mbx.rings[n]).cqLog2 = 4 ∧ (State.reset.mbx.rings[n]).en = false) ∧
  (∀ f : Fin 96, (State.reset.facets[f]).st = .idle ∧ (State.reset.facets[f]).sector = none) ∧
  (∀ k : Fin 4, (State.reset.sectors[k]).st = .none) ∧ State.reset.jobs = [] ∧ State.reset.mem.cells = [] ∧
  State.reset.pending = []

/-- R140 to R144, R244: for every well-formed facet instruction, the row that its 128-bit word decodes to is that instruction,
with every field at every value. -/
def Obligations.FacetWordsRoundTrip : Prop :=
  ∀ r ∈ facetRows, ∀ (f : Fin 96) (i : Ins) (e : Ecc), (r.ctor f i e).wf = true →
    ∃ w, encodeFacet (r.ctor f i e) = some w ∧ decodeFacet f e w = some (r.ctor f i e) ∧ wordOp w = r.op ∧ wordIns w = i

/-- R141, R142: a running facet whose word has an undefined opcode or function faults with FE_OPCODE whatever the row, and so does
one with a nonzero reserved bit or a file that its row does not allow; an index beyond its file faults with FE_OPERAND. The facet
is FAULTED then, and its PC is in its error word. -/
def Obligations.IllegalWordsFault : Prop :=
  ∀ r ∈ facetRows, ∀ (f : Fin 96) (i : Ins) (e : Ecc) (s : State), let x := s.facets[f]; let u := r.use i
    let fault := fun (code : Byte) => ∃ t, exec (r.ctor f i e) s = .next t ∧ (t.facets[f]).st = .faulted ∧
      (t.facets[f]).err = errWord code true x.pc.toNat 0 ∧ (t.facets[f]).pc = x.pc
    x.st = .running → x.pc.toNat < 4096 → e.imemBad = false →
    (wordUndefined (fetchWord x) = true → fault 0x01) ∧
    (fetchWord x = joinIns r.op i → wordUndefined (joinIns r.op i) = false → r.mine i = true →
      (i.fl &&& ~~~ u.fl ≠ 0 ∨ i.x &&& ~~~ u.x ≠ 0 ∨ i.imm &&& ~~~ u.imm ≠ 0 → fault 0x01) ∧
      (fileOk u.d i.d = false ∨ fileOk u.a i.a = false ∨ fileOk u.b i.b = false ∨ fileOk u.c i.c = false → fault 0x01) ∧
      (useError u i ≠ some 0x01 → (idxOk i.d && idxOk i.a && idxOk i.b && idxOk i.c) = false → fault 0x02))

/-- The frame of the facet instructions (R126, R138, R143): whatever a facet instruction does, the other facets, LPDDR6 and host
memory, the mesh, the sectors (but for a `HALT`, which may end its Arc), the jobs, objects and every register group outside the
facet stay as they were. -/
def Obligations.FacetInstructionsTouchTheirFacet : Prop :=
  ∀ r ∈ facetRows, ∀ (f : Fin 96) (i : Ins) (e : Ecc) (s t : State), exec (r.ctor f i e) s = .next t →
    (∀ g : Fin 96, g ≠ f → t.facets[g] = s.facets[g]) ∧ t.mem = s.mem ∧ t.hostMem = s.hostMem ∧ t.mesh = s.mesh ∧
    (r.op ≠ 0x01 → t.sectors = s.sectors) ∧ t.jobs = s.jobs ∧ t.objs = s.objs ∧ t.owners = s.owners ∧ t.flash = s.flash ∧
    t.fabric = s.fabric ∧ t.regions = s.regions ∧ t.mgmt = s.mgmt ∧ t.mbx = s.mbx ∧ t.sec = s.sec ∧ t.smb = s.smb ∧ t.aon = s.aon ∧
    t.pins = s.pins ∧ t.d2d = s.d2d ∧ t.jrn.boot = s.jrn.boot ∧ t.phase = s.phase ∧ t.out = s.out

/-- No command is refused, and the one that faults is an Apex debug operation once full access is open, of which the spec does
not say what it does inside Apex (R92, R93). -/
def Obligations.OnlyApexAccessStops : Prop :=
  ∀ (c : Instr) (s : State), (∀ r, exec c s ≠ .refused r) ∧ (exec c s = .fault .apexDebug ↔ stops c s = true)

/-- R107, R108, R115, R116, R119: a mailbox command whose turn has not come changes nothing; one that a common check turns away
completes with that check's status, and has none of its effect. -/
def Obligations.CommandsTurnedAway : Prop :=
  ∀ (c : Instr) (k : Cat) (h : Hdr) (s : State), headerOf c = some (k, h) →
    (cmdReady k h s = false → exec c s = .next s) ∧
    (∀ st, cmdReady k h s = true → commonStatus k h (startCmd h s) = some st →
      exec c s = .next (complete h st [] (startCmd h s)))

/-- The queue of waiting commands is the step's alone: no command's effect changes it. -/
def Obligations.EffectsLeaveTheQueue : Prop :=
  ∀ (c : Instr) (s t : State), exec c s = .next t → t.pending = s.pending

/-- Table 16-9: `FAULT` and `SPARE_RDY#` are never asserted together. Every step keeps it so; that it holds at reset is a clause
of `ResetHoldsTheSpecValues`. -/
def Obligations.FaultExcludesSpareReady : Prop :=
  ∀ s t : State, (s.pins.fault && s.pins.spareRdy) = false → step s = .next t → (t.pins.fault && t.pins.spareRdy) = false

/-- R71: fuse bits change only from 0 to 1: no step clears a lifecycle bit, a revoked key or the destroyed key wrap, lowers the
fuse SVN, or changes the serial number or a key digest; and only `FW_SVN_COMMIT` and `FUSE_BURN` change a fuse at all. -/
def Obligations.FusesOnlyBurn : Prop :=
  ∀ s t : State, step s = .next t → let x := s.sec.fuses; let y := t.sec.fuses
    (x.lifecycle &&& y.lifecycle = x.lifecycle ∧ x.keyRevoked &&& y.keyRevoked = x.keyRevoked ∧ x.svn ≤ y.svn ∧
      (s.sec.wrapBurnt = true → t.sec.wrapBurnt = true) ∧ y.serial = x.serial ∧ y.keyHash = x.keyHash) ∧
    ((∀ h g n, s.pending.head? ≠ some (.fwSvnCommit h g n)) → y.svn = x.svn) ∧
    ((∀ h b n, s.pending.head? ≠ some (.fuseBurn h b n)) → y.lifecycle = x.lifecycle ∧ y.keyRevoked = x.keyRevoked ∧
      t.sec.wrapBurnt = s.sec.wrapBurnt)

/-- R240, R243, R244: an elementwise vector function that starts gives its destination buffer the extent of A and, lane by lane,
the function's value of the lanes of A, B and C and of K; the other buffers stay. -/
def Obligations.VectorLanes : Prop :=
  ∀ (f : Fin 96) (s : State) (q : QEnt) (l : List QEnt) (fn : Byte) (d a : Fin 4) (b c : VeSrc) (k : W32),
    let x := s.facets[f]
    x.veQ = q :: l → q.op = .veOp fn d a b c k → (x.ve[a]).cols ≤ 128 →
    ∃ t, exec (.unitStart f .ve Ecc.clean) s = .next t ∧ (t.facets[f]).veQ = l ∧
      (∀ g : Fin 4, g ≠ d → (t.facets[f]).ve[g] = x.ve[g]) ∧
      ∀ op, (fn, op) ∈ ([(0x01, fun a _ _ => fcanon a), (0x02, fun a b _ => fadd a b), (0x03, fun a b _ => fsub a b), (0x04, fun a b _ => fmul a b),
          (0x05, fun a b c => ffma a b c), (0x06, fun a b c => ffnma a b c), (0x07, fun a b _ => fmax a b),
          (0x08, fun a b _ => fmin a b), (0x09, fun a _ _ => fabs a), (0x0A, fun a _ _ => fneg a), (0x0B, fun a _ _ => fadd a k),
          (0x0C, fun a _ _ => fmul a k), (0x0D, fun a b _ => ffma a b k), (0x0E, fun a b c => fmin (fmax a b) c),
          (0x10, fun a b _ => fmask ((fp32 b).lt (fp32 a))), (0x11, fun a b _ => fmask ((fp32 b).lt (fp32 a) || (fp32 a).eqv (fp32 b))),
          (0x12, fun a b _ => fmask ((fp32 a).eqv (fp32 b))), (0x13, fun a b c => fcanon (if (fp32 a).isZero then c else b)),
          (0x18, fun a _ _ => ffloor a), (0x19, fun a _ _ => frndi a), (0x1A, fun a _ _ => fgetexp a), (0x1B, fun a _ _ => fgetmant a),
          (0x1C, fun a b _ => fldexp a b), (0x28, fun a _ _ => frcp a), (0x29, fun a _ _ => frsqrt a), (0x2A, fun a _ _ => fexp a)] :
          List (Byte × (W32 → W32 → W32 → W32))) →
        ((t.facets[f]).ve[d]).rows = (x.ve[a]).rows ∧ ((t.facets[f]).ve[d]).cols = (x.ve[a]).cols ∧
        ∀ i j, i < (x.ve[a]).rows → j < (x.ve[a]).cols → sget 0 ((t.facets[f]).ve[d]).data (128 * i + j) =
          op (sget 0 (x.ve[a]).data (128 * i + j)) (veVal x b i j) (veVal x c i j)
end

