-- ==== Sys2Proof/Laws/Facet.lean ====
section
/-! SUPPORT. Sys2Proof/Laws/Facet.lean: what issuing an instruction does (R130, R137, R142), said once. -/

namespace Sys2Proof.Machine

/-- What the word of a command spells is the command's opcode. -/
theorem issues_fetches {f : Fin 96} {op : Byte} {u : Use} {i : Ins} {e : Ecc} {s : State} (h : issues f op u i e s = true) :
    s.facets[f].st = .running ∧ s.facets[f].pc.toNat < 4096 ∧ e.imemBad = false ∧ fetchWord s.facets[f] = joinIns op i ∧
      wordUndefined (joinIns op i) = false ∧ useError u i = none := by
  simpa [issues, fetches, and_assoc] using h

/-- An instruction that can issue and whose own rule answers `done` leaves exactly the facet it answers (R137). -/
theorem issue_done {f : Fin 96} {op : Byte} {u : Use} {i : Ins} {e : Ecc} {row : Bool} {body : State → Facet → Issue}
    {s : State} {y : Facet} (h : issues f op u i e s = true) (hr : row = true) (hb : body s s.facets[f] = .done y) :
    issue f op i e u row body s = issued f e (if op = 0x04 then e.spmCorr else 0) y s := by
  obtain ⟨h1, h2, h3, h4, h5, h6⟩ := issues_fetches h
  have h7 : ¬ 4096 ≤ s.facets[f].pc.toNat := Nat.not_le.2 h2
  simp only [issue, h1, h3, h4, h5, h6, h7, hb, hr, issued]
  simp

/-- An instruction that can issue and whose own rule stalls changes nothing (R137). -/
theorem issue_stall {f : Fin 96} {op : Byte} {u : Use} {i : Ins} {e : Ecc} {row : Bool} {body : State → Facet → Issue}
    {s : State} (h : issues f op u i e s = true) (hb : body s s.facets[f] = .stall) :
    issue f op i e u row body s = s := by
  obtain ⟨h1, h2, h3, h4, h5, h6⟩ := issues_fetches h
  have h7 : ¬ 4096 ≤ s.facets[f].pc.toNat := Nat.not_le.2 h2
  simp only [issue, h1, h3, h4, h5, h6, h7, hb]
  simp

/-- An instruction that can issue and whose own rule finds an error raises it precisely (R173). -/
theorem issue_error {f : Fin 96} {op : Byte} {u : Use} {i : Ins} {e : Ecc} {row : Bool} {body : State → Facet → Issue}
    {s : State} {c : Byte} {d : Nat} (h : issues f op u i e s = true) (hr : row = true)
    (hb : body s s.facets[f] = .error c d) :
    issue f op i e u row body s =
      facetError f c true s.facets[f].pc.toNat d (eccCorrected f (bit e.imemCorr) 0 s) := by
  obtain ⟨h1, h2, h3, h4, h5, h6⟩ := issues_fetches h
  have h7 : ¬ 4096 ≤ s.facets[f].pc.toNat := Nat.not_le.2 h2
  simp only [issue, h1, h3, h4, h5, h6, h7, hb, hr]
  simp

end Sys2Proof.Machine
end

