-- ==== Sys2Proof/Laws/State.lean ====
section
/-! SUPPORT. Sys2Proof/Laws/State.lean: for each update of the state that the families share, the fields it leaves alone, one
lemma per field, so that no later proof unfolds a record update. -/

set_option linter.unusedTactic false
set_option linter.unreachableTactic false

namespace Sys2Proof.Machine

@[simp] theorem emit_pending (e : Emit) (s : State) : (emit e s).pending = s.pending := rfl
@[simp] theorem emit_freeIx (e : Emit) (s : State) : (emit e s).freeIx = s.freeIx := rfl
@[simp] theorem emit_phase (e : Emit) (s : State) : (emit e s).phase = s.phase := rfl
@[simp] theorem emit_srEntry (e : Emit) (s : State) : (emit e s).srEntry = s.srEntry := rfl
@[simp] theorem emit_pins (e : Emit) (s : State) : (emit e s).pins = s.pins := rfl
@[simp] theorem emit_aon (e : Emit) (s : State) : (emit e s).aon = s.aon := rfl
@[simp] theorem emit_smb (e : Emit) (s : State) : (emit e s).smb = s.smb := rfl
@[simp] theorem emit_jrn (e : Emit) (s : State) : (emit e s).jrn = s.jrn := rfl
@[simp] theorem emit_sec (e : Emit) (s : State) : (emit e s).sec = s.sec := rfl
@[simp] theorem emit_mbx (e : Emit) (s : State) : (emit e s).mbx = s.mbx := rfl
@[simp] theorem emit_d2d (e : Emit) (s : State) : (emit e s).d2d = s.d2d := rfl
@[simp] theorem emit_mem (e : Emit) (s : State) : (emit e s).mem = s.mem := rfl
@[simp] theorem emit_hostMem (e : Emit) (s : State) : (emit e s).hostMem = s.hostMem := rfl
@[simp] theorem emit_objs (e : Emit) (s : State) : (emit e s).objs = s.objs := rfl
@[simp] theorem emit_flash (e : Emit) (s : State) : (emit e s).flash = s.flash := rfl
@[simp] theorem emit_facets (e : Emit) (s : State) : (emit e s).facets = s.facets := rfl
@[simp] theorem emit_mesh (e : Emit) (s : State) : (emit e s).mesh = s.mesh := rfl
@[simp] theorem emit_sectors (e : Emit) (s : State) : (emit e s).sectors = s.sectors := rfl
@[simp] theorem emit_owners (e : Emit) (s : State) : (emit e s).owners = s.owners := rfl
@[simp] theorem emit_jobs (e : Emit) (s : State) : (emit e s).jobs = s.jobs := rfl
@[simp] theorem emit_fabric (e : Emit) (s : State) : (emit e s).fabric = s.fabric := rfl
@[simp] theorem emit_regions (e : Emit) (s : State) : (emit e s).regions = s.regions := rfl
@[simp] theorem emit_mgmt (e : Emit) (s : State) : (emit e s).mgmt = s.mgmt := rfl
@[simp] theorem emit_health (e : Emit) (s : State) : (emit e s).health = s.health := rfl
@[simp] theorem emits_pending (es : List Emit) (s : State) : (emits es s).pending = s.pending := rfl
@[simp] theorem emits_freeIx (es : List Emit) (s : State) : (emits es s).freeIx = s.freeIx := rfl
@[simp] theorem emits_phase (es : List Emit) (s : State) : (emits es s).phase = s.phase := rfl
@[simp] theorem emits_srEntry (es : List Emit) (s : State) : (emits es s).srEntry = s.srEntry := rfl
@[simp] theorem emits_pins (es : List Emit) (s : State) : (emits es s).pins = s.pins := rfl
@[simp] theorem emits_aon (es : List Emit) (s : State) : (emits es s).aon = s.aon := rfl
@[simp] theorem emits_smb (es : List Emit) (s : State) : (emits es s).smb = s.smb := rfl
@[simp] theorem emits_jrn (es : List Emit) (s : State) : (emits es s).jrn = s.jrn := rfl
@[simp] theorem emits_sec (es : List Emit) (s : State) : (emits es s).sec = s.sec := rfl
@[simp] theorem emits_mbx (es : List Emit) (s : State) : (emits es s).mbx = s.mbx := rfl
@[simp] theorem emits_d2d (es : List Emit) (s : State) : (emits es s).d2d = s.d2d := rfl
@[simp] theorem emits_mem (es : List Emit) (s : State) : (emits es s).mem = s.mem := rfl
@[simp] theorem emits_hostMem (es : List Emit) (s : State) : (emits es s).hostMem = s.hostMem := rfl
@[simp] theorem emits_objs (es : List Emit) (s : State) : (emits es s).objs = s.objs := rfl
@[simp] theorem emits_flash (es : List Emit) (s : State) : (emits es s).flash = s.flash := rfl
@[simp] theorem emits_facets (es : List Emit) (s : State) : (emits es s).facets = s.facets := rfl
@[simp] theorem emits_mesh (es : List Emit) (s : State) : (emits es s).mesh = s.mesh := rfl
@[simp] theorem emits_sectors (es : List Emit) (s : State) : (emits es s).sectors = s.sectors := rfl
@[simp] theorem emits_owners (es : List Emit) (s : State) : (emits es s).owners = s.owners := rfl
@[simp] theorem emits_jobs (es : List Emit) (s : State) : (emits es s).jobs = s.jobs := rfl
@[simp] theorem emits_fabric (es : List Emit) (s : State) : (emits es s).fabric = s.fabric := rfl
@[simp] theorem emits_regions (es : List Emit) (s : State) : (emits es s).regions = s.regions := rfl
@[simp] theorem emits_mgmt (es : List Emit) (s : State) : (emits es s).mgmt = s.mgmt := rfl
@[simp] theorem emits_health (es : List Emit) (s : State) : (emits es s).health = s.health := rfl
@[simp] theorem freeVal_pending (s : State) : (freeVal s).2.pending = s.pending := rfl
@[simp] theorem freeVal_out (s : State) : (freeVal s).2.out = s.out := rfl
@[simp] theorem freeVal_phase (s : State) : (freeVal s).2.phase = s.phase := rfl
@[simp] theorem freeVal_srEntry (s : State) : (freeVal s).2.srEntry = s.srEntry := rfl
@[simp] theorem freeVal_pins (s : State) : (freeVal s).2.pins = s.pins := rfl
@[simp] theorem freeVal_aon (s : State) : (freeVal s).2.aon = s.aon := rfl
@[simp] theorem freeVal_smb (s : State) : (freeVal s).2.smb = s.smb := rfl
@[simp] theorem freeVal_jrn (s : State) : (freeVal s).2.jrn = s.jrn := rfl
@[simp] theorem freeVal_sec (s : State) : (freeVal s).2.sec = s.sec := rfl
@[simp] theorem freeVal_mbx (s : State) : (freeVal s).2.mbx = s.mbx := rfl
@[simp] theorem freeVal_d2d (s : State) : (freeVal s).2.d2d = s.d2d := rfl
@[simp] theorem freeVal_mem (s : State) : (freeVal s).2.mem = s.mem := rfl
@[simp] theorem freeVal_hostMem (s : State) : (freeVal s).2.hostMem = s.hostMem := rfl
@[simp] theorem freeVal_objs (s : State) : (freeVal s).2.objs = s.objs := rfl
@[simp] theorem freeVal_flash (s : State) : (freeVal s).2.flash = s.flash := rfl
@[simp] theorem freeVal_facets (s : State) : (freeVal s).2.facets = s.facets := rfl
@[simp] theorem freeVal_mesh (s : State) : (freeVal s).2.mesh = s.mesh := rfl
@[simp] theorem freeVal_sectors (s : State) : (freeVal s).2.sectors = s.sectors := rfl
@[simp] theorem freeVal_owners (s : State) : (freeVal s).2.owners = s.owners := rfl
@[simp] theorem freeVal_jobs (s : State) : (freeVal s).2.jobs = s.jobs := rfl
@[simp] theorem freeVal_fabric (s : State) : (freeVal s).2.fabric = s.fabric := rfl
@[simp] theorem freeVal_regions (s : State) : (freeVal s).2.regions = s.regions := rfl
@[simp] theorem freeVal_mgmt (s : State) : (freeVal s).2.mgmt = s.mgmt := rfl
@[simp] theorem freeVal_health (s : State) : (freeVal s).2.health = s.health := rfl
@[simp] theorem sendMsix_pending (v : BitVec 4) (s : State) : (sendMsix v s).pending = s.pending := by
  unfold sendMsix; (try dsimp only); repeat' (first | with_reducible rfl | (simp; done) | split)
@[simp] theorem sendMsix_freeIx (v : BitVec 4) (s : State) : (sendMsix v s).freeIx = s.freeIx := by
  unfold sendMsix; (try dsimp only); repeat' (first | with_reducible rfl | (simp; done) | split)
@[simp] theorem sendMsix_phase (v : BitVec 4) (s : State) : (sendMsix v s).phase = s.phase := by
  unfold sendMsix; (try dsimp only); repeat' (first | with_reducible rfl | (simp; done) | split)
@[simp] theorem sendMsix_srEntry (v : BitVec 4) (s : State) : (sendMsix v s).srEntry = s.srEntry := by
  unfold sendMsix; (try dsimp only); repeat' (first | with_reducible rfl | (simp; done) | split)
@[simp] theorem sendMsix_pins (v : BitVec 4) (s : State) : (sendMsix v s).pins = s.pins := by
  unfold sendMsix; (try dsimp only); repeat' (first | with_reducible rfl | (simp; done) | split)
@[simp] theorem sendMsix_aon (v : BitVec 4) (s : State) : (sendMsix v s).aon = s.aon := by
  unfold sendMsix; (try dsimp only); repeat' (first | with_reducible rfl | (simp; done) | split)
@[simp] theorem sendMsix_smb (v : BitVec 4) (s : State) : (sendMsix v s).smb = s.smb := by
  unfold sendMsix; (try dsimp only); repeat' (first | with_reducible rfl | (simp; done) | split)
@[simp] theorem sendMsix_jrn (v : BitVec 4) (s : State) : (sendMsix v s).jrn = s.jrn := by
  unfold sendMsix; (try dsimp only); repeat' (first | with_reducible rfl | (simp; done) | split)
@[simp] theorem sendMsix_sec (v : BitVec 4) (s : State) : (sendMsix v s).sec = s.sec := by
  unfold sendMsix; (try dsimp only); repeat' (first | with_reducible rfl | (simp; done) | split)
@[simp] theorem sendMsix_d2d (v : BitVec 4) (s : State) : (sendMsix v s).d2d = s.d2d := by
  unfold sendMsix; (try dsimp only); repeat' (first | with_reducible rfl | (simp; done) | split)
@[simp] theorem sendMsix_mem (v : BitVec 4) (s : State) : (sendMsix v s).mem = s.mem := by
  unfold sendMsix; (try dsimp only); repeat' (first | with_reducible rfl | (simp; done) | split)
@[simp] theorem sendMsix_hostMem (v : BitVec 4) (s : State) : (sendMsix v s).hostMem = s.hostMem := by
  unfold sendMsix; (try dsimp only); repeat' (first | with_reducible rfl | (simp; done) | split)
@[simp] theorem sendMsix_objs (v : BitVec 4) (s : State) : (sendMsix v s).objs = s.objs := by
  unfold sendMsix; (try dsimp only); repeat' (first | with_reducible rfl | (simp; done) | split)
@[simp] theorem sendMsix_flash (v : BitVec 4) (s : State) : (sendMsix v s).flash = s.flash := by
  unfold sendMsix; (try dsimp only); repeat' (first | with_reducible rfl | (simp; done) | split)
@[simp] theorem sendMsix_facets (v : BitVec 4) (s : State) : (sendMsix v s).facets = s.facets := by
  unfold sendMsix; (try dsimp only); repeat' (first | with_reducible rfl | (simp; done) | split)
@[simp] theorem sendMsix_mesh (v : BitVec 4) (s : State) : (sendMsix v s).mesh = s.mesh := by
  unfold sendMsix; (try dsimp only); repeat' (first | with_reducible rfl | (simp; done) | split)
@[simp] theorem sendMsix_sectors (v : BitVec 4) (s : State) : (sendMsix v s).sectors = s.sectors := by
  unfold sendMsix; (try dsimp only); repeat' (first | with_reducible rfl | (simp; done) | split)
@[simp] theorem sendMsix_owners (v : BitVec 4) (s : State) : (sendMsix v s).owners = s.owners := by
  unfold sendMsix; (try dsimp only); repeat' (first | with_reducible rfl | (simp; done) | split)
@[simp] theorem sendMsix_jobs (v : BitVec 4) (s : State) : (sendMsix v s).jobs = s.jobs := by
  unfold sendMsix; (try dsimp only); repeat' (first | with_reducible rfl | (simp; done) | split)
@[simp] theorem sendMsix_fabric (v : BitVec 4) (s : State) : (sendMsix v s).fabric = s.fabric := by
  unfold sendMsix; (try dsimp only); repeat' (first | with_reducible rfl | (simp; done) | split)
@[simp] theorem sendMsix_regions (v : BitVec 4) (s : State) : (sendMsix v s).regions = s.regions := by
  unfold sendMsix; (try dsimp only); repeat' (first | with_reducible rfl | (simp; done) | split)
@[simp] theorem sendMsix_mgmt (v : BitVec 4) (s : State) : (sendMsix v s).mgmt = s.mgmt := by
  unfold sendMsix; (try dsimp only); repeat' (first | with_reducible rfl | (simp; done) | split)
@[simp] theorem sendMsix_health (v : BitVec 4) (s : State) : (sendMsix v s).health = s.health := by
  unfold sendMsix; (try dsimp only); repeat' (first | with_reducible rfl | (simp; done) | split)
@[simp] theorem setEvents_pending (ev en : BitVec 7) (s : State) : (setEvents ev en s).pending = s.pending := by
  unfold setEvents; (try dsimp only); repeat' (first | with_reducible rfl | (simp; done) | split)
@[simp] theorem setEvents_freeIx (ev en : BitVec 7) (s : State) : (setEvents ev en s).freeIx = s.freeIx := by
  unfold setEvents; (try dsimp only); repeat' (first | with_reducible rfl | (simp; done) | split)
@[simp] theorem setEvents_phase (ev en : BitVec 7) (s : State) : (setEvents ev en s).phase = s.phase := by
  unfold setEvents; (try dsimp only); repeat' (first | with_reducible rfl | (simp; done) | split)
@[simp] theorem setEvents_srEntry (ev en : BitVec 7) (s : State) : (setEvents ev en s).srEntry = s.srEntry := by
  unfold setEvents; (try dsimp only); repeat' (first | with_reducible rfl | (simp; done) | split)
@[simp] theorem setEvents_pins (ev en : BitVec 7) (s : State) : (setEvents ev en s).pins = s.pins := by
  unfold setEvents; (try dsimp only); repeat' (first | with_reducible rfl | (simp; done) | split)
@[simp] theorem setEvents_aon (ev en : BitVec 7) (s : State) : (setEvents ev en s).aon = s.aon := by
  unfold setEvents; (try dsimp only); repeat' (first | with_reducible rfl | (simp; done) | split)
@[simp] theorem setEvents_smb (ev en : BitVec 7) (s : State) : (setEvents ev en s).smb = s.smb := by
  unfold setEvents; (try dsimp only); repeat' (first | with_reducible rfl | (simp; done) | split)
@[simp] theorem setEvents_jrn (ev en : BitVec 7) (s : State) : (setEvents ev en s).jrn = s.jrn := by
  unfold setEvents; (try dsimp only); repeat' (first | with_reducible rfl | (simp; done) | split)
@[simp] theorem setEvents_sec (ev en : BitVec 7) (s : State) : (setEvents ev en s).sec = s.sec := by
  unfold setEvents; (try dsimp only); repeat' (first | with_reducible rfl | (simp; done) | split)
@[simp] theorem setEvents_d2d (ev en : BitVec 7) (s : State) : (setEvents ev en s).d2d = s.d2d := by
  unfold setEvents; (try dsimp only); repeat' (first | with_reducible rfl | (simp; done) | split)
@[simp] theorem setEvents_mem (ev en : BitVec 7) (s : State) : (setEvents ev en s).mem = s.mem := by
  unfold setEvents; (try dsimp only); repeat' (first | with_reducible rfl | (simp; done) | split)
@[simp] theorem setEvents_hostMem (ev en : BitVec 7) (s : State) : (setEvents ev en s).hostMem = s.hostMem := by
  unfold setEvents; (try dsimp only); repeat' (first | with_reducible rfl | (simp; done) | split)
@[simp] theorem setEvents_objs (ev en : BitVec 7) (s : State) : (setEvents ev en s).objs = s.objs := by
  unfold setEvents; (try dsimp only); repeat' (first | with_reducible rfl | (simp; done) | split)
@[simp] theorem setEvents_flash (ev en : BitVec 7) (s : State) : (setEvents ev en s).flash = s.flash := by
  unfold setEvents; (try dsimp only); repeat' (first | with_reducible rfl | (simp; done) | split)
@[simp] theorem setEvents_facets (ev en : BitVec 7) (s : State) : (setEvents ev en s).facets = s.facets := by
  unfold setEvents; (try dsimp only); repeat' (first | with_reducible rfl | (simp; done) | split)
@[simp] theorem setEvents_mesh (ev en : BitVec 7) (s : State) : (setEvents ev en s).mesh = s.mesh := by
  unfold setEvents; (try dsimp only); repeat' (first | with_reducible rfl | (simp; done) | split)
@[simp] theorem setEvents_sectors (ev en : BitVec 7) (s : State) : (setEvents ev en s).sectors = s.sectors := by
  unfold setEvents; (try dsimp only); repeat' (first | with_reducible rfl | (simp; done) | split)
@[simp] theorem setEvents_owners (ev en : BitVec 7) (s : State) : (setEvents ev en s).owners = s.owners := by
  unfold setEvents; (try dsimp only); repeat' (first | with_reducible rfl | (simp; done) | split)
@[simp] theorem setEvents_jobs (ev en : BitVec 7) (s : State) : (setEvents ev en s).jobs = s.jobs := by
  unfold setEvents; (try dsimp only); repeat' (first | with_reducible rfl | (simp; done) | split)
@[simp] theorem setEvents_fabric (ev en : BitVec 7) (s : State) : (setEvents ev en s).fabric = s.fabric := by
  unfold setEvents; (try dsimp only); repeat' (first | with_reducible rfl | (simp; done) | split)
@[simp] theorem setEvents_regions (ev en : BitVec 7) (s : State) : (setEvents ev en s).regions = s.regions := by
  unfold setEvents; (try dsimp only); repeat' (first | with_reducible rfl | (simp; done) | split)
@[simp] theorem setEvents_mgmt (ev en : BitVec 7) (s : State) : (setEvents ev en s).mgmt = s.mgmt := by
  unfold setEvents; (try dsimp only); repeat' (first | with_reducible rfl | (simp; done) | split)
@[simp] theorem setEvents_health (ev en : BitVec 7) (s : State) : (setEvents ev en s).health = s.health := by
  unfold setEvents; (try dsimp only); repeat' (first | with_reducible rfl | (simp; done) | split)
@[simp] theorem raiseEvent_pending (k : Nat) (s : State) : (raiseEvent k s).pending = s.pending := by
  unfold raiseEvent; (try dsimp only); repeat' (first | with_reducible rfl | (simp; done) | split)
@[simp] theorem raiseEvent_freeIx (k : Nat) (s : State) : (raiseEvent k s).freeIx = s.freeIx := by
  unfold raiseEvent; (try dsimp only); repeat' (first | with_reducible rfl | (simp; done) | split)
@[simp] theorem raiseEvent_phase (k : Nat) (s : State) : (raiseEvent k s).phase = s.phase := by
  unfold raiseEvent; (try dsimp only); repeat' (first | with_reducible rfl | (simp; done) | split)
@[simp] theorem raiseEvent_srEntry (k : Nat) (s : State) : (raiseEvent k s).srEntry = s.srEntry := by
  unfold raiseEvent; (try dsimp only); repeat' (first | with_reducible rfl | (simp; done) | split)
@[simp] theorem raiseEvent_pins (k : Nat) (s : State) : (raiseEvent k s).pins = s.pins := by
  unfold raiseEvent; (try dsimp only); repeat' (first | with_reducible rfl | (simp; done) | split)
@[simp] theorem raiseEvent_aon (k : Nat) (s : State) : (raiseEvent k s).aon = s.aon := by
  unfold raiseEvent; (try dsimp only); repeat' (first | with_reducible rfl | (simp; done) | split)
@[simp] theorem raiseEvent_smb (k : Nat) (s : State) : (raiseEvent k s).smb = s.smb := by
  unfold raiseEvent; (try dsimp only); repeat' (first | with_reducible rfl | (simp; done) | split)
@[simp] theorem raiseEvent_jrn (k : Nat) (s : State) : (raiseEvent k s).jrn = s.jrn := by
  unfold raiseEvent; (try dsimp only); repeat' (first | with_reducible rfl | (simp; done) | split)
@[simp] theorem raiseEvent_sec (k : Nat) (s : State) : (raiseEvent k s).sec = s.sec := by
  unfold raiseEvent; (try dsimp only); repeat' (first | with_reducible rfl | (simp; done) | split)
@[simp] theorem raiseEvent_d2d (k : Nat) (s : State) : (raiseEvent k s).d2d = s.d2d := by
  unfold raiseEvent; (try dsimp only); repeat' (first | with_reducible rfl | (simp; done) | split)
@[simp] theorem raiseEvent_mem (k : Nat) (s : State) : (raiseEvent k s).mem = s.mem := by
  unfold raiseEvent; (try dsimp only); repeat' (first | with_reducible rfl | (simp; done) | split)
@[simp] theorem raiseEvent_hostMem (k : Nat) (s : State) : (raiseEvent k s).hostMem = s.hostMem := by
  unfold raiseEvent; (try dsimp only); repeat' (first | with_reducible rfl | (simp; done) | split)
@[simp] theorem raiseEvent_objs (k : Nat) (s : State) : (raiseEvent k s).objs = s.objs := by
  unfold raiseEvent; (try dsimp only); repeat' (first | with_reducible rfl | (simp; done) | split)
@[simp] theorem raiseEvent_flash (k : Nat) (s : State) : (raiseEvent k s).flash = s.flash := by
  unfold raiseEvent; (try dsimp only); repeat' (first | with_reducible rfl | (simp; done) | split)
@[simp] theorem raiseEvent_facets (k : Nat) (s : State) : (raiseEvent k s).facets = s.facets := by
  unfold raiseEvent; (try dsimp only); repeat' (first | with_reducible rfl | (simp; done) | split)
@[simp] theorem raiseEvent_mesh (k : Nat) (s : State) : (raiseEvent k s).mesh = s.mesh := by
  unfold raiseEvent; (try dsimp only); repeat' (first | with_reducible rfl | (simp; done) | split)
@[simp] theorem raiseEvent_sectors (k : Nat) (s : State) : (raiseEvent k s).sectors = s.sectors := by
  unfold raiseEvent; (try dsimp only); repeat' (first | with_reducible rfl | (simp; done) | split)
@[simp] theorem raiseEvent_owners (k : Nat) (s : State) : (raiseEvent k s).owners = s.owners := by
  unfold raiseEvent; (try dsimp only); repeat' (first | with_reducible rfl | (simp; done) | split)
@[simp] theorem raiseEvent_jobs (k : Nat) (s : State) : (raiseEvent k s).jobs = s.jobs := by
  unfold raiseEvent; (try dsimp only); repeat' (first | with_reducible rfl | (simp; done) | split)
@[simp] theorem raiseEvent_fabric (k : Nat) (s : State) : (raiseEvent k s).fabric = s.fabric := by
  unfold raiseEvent; (try dsimp only); repeat' (first | with_reducible rfl | (simp; done) | split)
@[simp] theorem raiseEvent_regions (k : Nat) (s : State) : (raiseEvent k s).regions = s.regions := by
  unfold raiseEvent; (try dsimp only); repeat' (first | with_reducible rfl | (simp; done) | split)
@[simp] theorem raiseEvent_mgmt (k : Nat) (s : State) : (raiseEvent k s).mgmt = s.mgmt := by
  unfold raiseEvent; (try dsimp only); repeat' (first | with_reducible rfl | (simp; done) | split)
@[simp] theorem raiseEvent_health (k : Nat) (s : State) : (raiseEvent k s).health = s.health := by
  unfold raiseEvent; (try dsimp only); repeat' (first | with_reducible rfl | (simp; done) | split)
@[simp] theorem raiseAlert_pending (k : Nat) (s : State) : (raiseAlert k s).pending = s.pending := by
  unfold raiseAlert; (try dsimp only); repeat' (first | with_reducible rfl | (simp; done) | split)
@[simp] theorem raiseAlert_out (k : Nat) (s : State) : (raiseAlert k s).out = s.out := by
  unfold raiseAlert; (try dsimp only); repeat' (first | with_reducible rfl | (simp; done) | split)
@[simp] theorem raiseAlert_freeIx (k : Nat) (s : State) : (raiseAlert k s).freeIx = s.freeIx := by
  unfold raiseAlert; (try dsimp only); repeat' (first | with_reducible rfl | (simp; done) | split)
@[simp] theorem raiseAlert_phase (k : Nat) (s : State) : (raiseAlert k s).phase = s.phase := by
  unfold raiseAlert; (try dsimp only); repeat' (first | with_reducible rfl | (simp; done) | split)
@[simp] theorem raiseAlert_srEntry (k : Nat) (s : State) : (raiseAlert k s).srEntry = s.srEntry := by
  unfold raiseAlert; (try dsimp only); repeat' (first | with_reducible rfl | (simp; done) | split)
@[simp] theorem raiseAlert_aon (k : Nat) (s : State) : (raiseAlert k s).aon = s.aon := by
  unfold raiseAlert; (try dsimp only); repeat' (first | with_reducible rfl | (simp; done) | split)
@[simp] theorem raiseAlert_jrn (k : Nat) (s : State) : (raiseAlert k s).jrn = s.jrn := by
  unfold raiseAlert; (try dsimp only); repeat' (first | with_reducible rfl | (simp; done) | split)
@[simp] theorem raiseAlert_sec (k : Nat) (s : State) : (raiseAlert k s).sec = s.sec := by
  unfold raiseAlert; (try dsimp only); repeat' (first | with_reducible rfl | (simp; done) | split)
@[simp] theorem raiseAlert_mbx (k : Nat) (s : State) : (raiseAlert k s).mbx = s.mbx := by
  unfold raiseAlert; (try dsimp only); repeat' (first | with_reducible rfl | (simp; done) | split)
@[simp] theorem raiseAlert_d2d (k : Nat) (s : State) : (raiseAlert k s).d2d = s.d2d := by
  unfold raiseAlert; (try dsimp only); repeat' (first | with_reducible rfl | (simp; done) | split)
@[simp] theorem raiseAlert_mem (k : Nat) (s : State) : (raiseAlert k s).mem = s.mem := by
  unfold raiseAlert; (try dsimp only); repeat' (first | with_reducible rfl | (simp; done) | split)
@[simp] theorem raiseAlert_hostMem (k : Nat) (s : State) : (raiseAlert k s).hostMem = s.hostMem := by
  unfold raiseAlert; (try dsimp only); repeat' (first | with_reducible rfl | (simp; done) | split)
@[simp] theorem raiseAlert_objs (k : Nat) (s : State) : (raiseAlert k s).objs = s.objs := by
  unfold raiseAlert; (try dsimp only); repeat' (first | with_reducible rfl | (simp; done) | split)
@[simp] theorem raiseAlert_flash (k : Nat) (s : State) : (raiseAlert k s).flash = s.flash := by
  unfold raiseAlert; (try dsimp only); repeat' (first | with_reducible rfl | (simp; done) | split)
@[simp] theorem raiseAlert_facets (k : Nat) (s : State) : (raiseAlert k s).facets = s.facets := by
  unfold raiseAlert; (try dsimp only); repeat' (first | with_reducible rfl | (simp; done) | split)
@[simp] theorem raiseAlert_mesh (k : Nat) (s : State) : (raiseAlert k s).mesh = s.mesh := by
  unfold raiseAlert; (try dsimp only); repeat' (first | with_reducible rfl | (simp; done) | split)
@[simp] theorem raiseAlert_sectors (k : Nat) (s : State) : (raiseAlert k s).sectors = s.sectors := by
  unfold raiseAlert; (try dsimp only); repeat' (first | with_reducible rfl | (simp; done) | split)
@[simp] theorem raiseAlert_owners (k : Nat) (s : State) : (raiseAlert k s).owners = s.owners := by
  unfold raiseAlert; (try dsimp only); repeat' (first | with_reducible rfl | (simp; done) | split)
@[simp] theorem raiseAlert_jobs (k : Nat) (s : State) : (raiseAlert k s).jobs = s.jobs := by
  unfold raiseAlert; (try dsimp only); repeat' (first | with_reducible rfl | (simp; done) | split)
@[simp] theorem raiseAlert_fabric (k : Nat) (s : State) : (raiseAlert k s).fabric = s.fabric := by
  unfold raiseAlert; (try dsimp only); repeat' (first | with_reducible rfl | (simp; done) | split)
@[simp] theorem raiseAlert_regions (k : Nat) (s : State) : (raiseAlert k s).regions = s.regions := by
  unfold raiseAlert; (try dsimp only); repeat' (first | with_reducible rfl | (simp; done) | split)
@[simp] theorem raiseAlert_mgmt (k : Nat) (s : State) : (raiseAlert k s).mgmt = s.mgmt := by
  unfold raiseAlert; (try dsimp only); repeat' (first | with_reducible rfl | (simp; done) | split)
@[simp] theorem raiseAlert_health (k : Nat) (s : State) : (raiseAlert k s).health = s.health := by
  unfold raiseAlert; (try dsimp only); repeat' (first | with_reducible rfl | (simp; done) | split)
@[simp] theorem clearAlert_pending (m : BitVec 4) (s : State) : (clearAlert m s).pending = s.pending := by
  unfold clearAlert; (try dsimp only); repeat' (first | with_reducible rfl | (simp; done) | split)
@[simp] theorem clearAlert_out (m : BitVec 4) (s : State) : (clearAlert m s).out = s.out := by
  unfold clearAlert; (try dsimp only); repeat' (first | with_reducible rfl | (simp; done) | split)
@[simp] theorem clearAlert_freeIx (m : BitVec 4) (s : State) : (clearAlert m s).freeIx = s.freeIx := by
  unfold clearAlert; (try dsimp only); repeat' (first | with_reducible rfl | (simp; done) | split)
@[simp] theorem clearAlert_phase (m : BitVec 4) (s : State) : (clearAlert m s).phase = s.phase := by
  unfold clearAlert; (try dsimp only); repeat' (first | with_reducible rfl | (simp; done) | split)
@[simp] theorem clearAlert_srEntry (m : BitVec 4) (s : State) : (clearAlert m s).srEntry = s.srEntry := by
  unfold clearAlert; (try dsimp only); repeat' (first | with_reducible rfl | (simp; done) | split)
@[simp] theorem clearAlert_aon (m : BitVec 4) (s : State) : (clearAlert m s).aon = s.aon := by
  unfold clearAlert; (try dsimp only); repeat' (first | with_reducible rfl | (simp; done) | split)
@[simp] theorem clearAlert_jrn (m : BitVec 4) (s : State) : (clearAlert m s).jrn = s.jrn := by
  unfold clearAlert; (try dsimp only); repeat' (first | with_reducible rfl | (simp; done) | split)
@[simp] theorem clearAlert_sec (m : BitVec 4) (s : State) : (clearAlert m s).sec = s.sec := by
  unfold clearAlert; (try dsimp only); repeat' (first | with_reducible rfl | (simp; done) | split)
@[simp] theorem clearAlert_mbx (m : BitVec 4) (s : State) : (clearAlert m s).mbx = s.mbx := by
  unfold clearAlert; (try dsimp only); repeat' (first | with_reducible rfl | (simp; done) | split)
@[simp] theorem clearAlert_d2d (m : BitVec 4) (s : State) : (clearAlert m s).d2d = s.d2d := by
  unfold clearAlert; (try dsimp only); repeat' (first | with_reducible rfl | (simp; done) | split)
@[simp] theorem clearAlert_mem (m : BitVec 4) (s : State) : (clearAlert m s).mem = s.mem := by
  unfold clearAlert; (try dsimp only); repeat' (first | with_reducible rfl | (simp; done) | split)
@[simp] theorem clearAlert_hostMem (m : BitVec 4) (s : State) : (clearAlert m s).hostMem = s.hostMem := by
  unfold clearAlert; (try dsimp only); repeat' (first | with_reducible rfl | (simp; done) | split)
@[simp] theorem clearAlert_objs (m : BitVec 4) (s : State) : (clearAlert m s).objs = s.objs := by
  unfold clearAlert; (try dsimp only); repeat' (first | with_reducible rfl | (simp; done) | split)
@[simp] theorem clearAlert_flash (m : BitVec 4) (s : State) : (clearAlert m s).flash = s.flash := by
  unfold clearAlert; (try dsimp only); repeat' (first | with_reducible rfl | (simp; done) | split)
@[simp] theorem clearAlert_facets (m : BitVec 4) (s : State) : (clearAlert m s).facets = s.facets := by
  unfold clearAlert; (try dsimp only); repeat' (first | with_reducible rfl | (simp; done) | split)
@[simp] theorem clearAlert_mesh (m : BitVec 4) (s : State) : (clearAlert m s).mesh = s.mesh := by
  unfold clearAlert; (try dsimp only); repeat' (first | with_reducible rfl | (simp; done) | split)
@[simp] theorem clearAlert_sectors (m : BitVec 4) (s : State) : (clearAlert m s).sectors = s.sectors := by
  unfold clearAlert; (try dsimp only); repeat' (first | with_reducible rfl | (simp; done) | split)
@[simp] theorem clearAlert_owners (m : BitVec 4) (s : State) : (clearAlert m s).owners = s.owners := by
  unfold clearAlert; (try dsimp only); repeat' (first | with_reducible rfl | (simp; done) | split)
@[simp] theorem clearAlert_jobs (m : BitVec 4) (s : State) : (clearAlert m s).jobs = s.jobs := by
  unfold clearAlert; (try dsimp only); repeat' (first | with_reducible rfl | (simp; done) | split)
@[simp] theorem clearAlert_fabric (m : BitVec 4) (s : State) : (clearAlert m s).fabric = s.fabric := by
  unfold clearAlert; (try dsimp only); repeat' (first | with_reducible rfl | (simp; done) | split)
@[simp] theorem clearAlert_regions (m : BitVec 4) (s : State) : (clearAlert m s).regions = s.regions := by
  unfold clearAlert; (try dsimp only); repeat' (first | with_reducible rfl | (simp; done) | split)
@[simp] theorem clearAlert_mgmt (m : BitVec 4) (s : State) : (clearAlert m s).mgmt = s.mgmt := by
  unfold clearAlert; (try dsimp only); repeat' (first | with_reducible rfl | (simp; done) | split)
@[simp] theorem clearAlert_health (m : BitVec 4) (s : State) : (clearAlert m s).health = s.health := by
  unfold clearAlert; (try dsimp only); repeat' (first | with_reducible rfl | (simp; done) | split)
@[simp] theorem setSbState_pending (v : BitVec 3) (s : State) : (setSbState v s).pending = s.pending := by
  unfold setSbState; (try dsimp only); repeat' (first | with_reducible rfl | (simp; done) | split)
@[simp] theorem setSbState_freeIx (v : BitVec 3) (s : State) : (setSbState v s).freeIx = s.freeIx := by
  unfold setSbState; (try dsimp only); repeat' (first | with_reducible rfl | (simp; done) | split)
@[simp] theorem setSbState_phase (v : BitVec 3) (s : State) : (setSbState v s).phase = s.phase := by
  unfold setSbState; (try dsimp only); repeat' (first | with_reducible rfl | (simp; done) | split)
@[simp] theorem setSbState_srEntry (v : BitVec 3) (s : State) : (setSbState v s).srEntry = s.srEntry := by
  unfold setSbState; (try dsimp only); repeat' (first | with_reducible rfl | (simp; done) | split)
@[simp] theorem setSbState_aon (v : BitVec 3) (s : State) : (setSbState v s).aon = s.aon := by
  unfold setSbState; (try dsimp only); repeat' (first | with_reducible rfl | (simp; done) | split)
@[simp] theorem setSbState_jrn (v : BitVec 3) (s : State) : (setSbState v s).jrn = s.jrn := by
  unfold setSbState; (try dsimp only); repeat' (first | with_reducible rfl | (simp; done) | split)
@[simp] theorem setSbState_sec (v : BitVec 3) (s : State) : (setSbState v s).sec = s.sec := by
  unfold setSbState; (try dsimp only); repeat' (first | with_reducible rfl | (simp; done) | split)
@[simp] theorem setSbState_d2d (v : BitVec 3) (s : State) : (setSbState v s).d2d = s.d2d := by
  unfold setSbState; (try dsimp only); repeat' (first | with_reducible rfl | (simp; done) | split)
@[simp] theorem setSbState_mem (v : BitVec 3) (s : State) : (setSbState v s).mem = s.mem := by
  unfold setSbState; (try dsimp only); repeat' (first | with_reducible rfl | (simp; done) | split)
@[simp] theorem setSbState_hostMem (v : BitVec 3) (s : State) : (setSbState v s).hostMem = s.hostMem := by
  unfold setSbState; (try dsimp only); repeat' (first | with_reducible rfl | (simp; done) | split)
@[simp] theorem setSbState_objs (v : BitVec 3) (s : State) : (setSbState v s).objs = s.objs := by
  unfold setSbState; (try dsimp only); repeat' (first | with_reducible rfl | (simp; done) | split)
@[simp] theorem setSbState_flash (v : BitVec 3) (s : State) : (setSbState v s).flash = s.flash := by
  unfold setSbState; (try dsimp only); repeat' (first | with_reducible rfl | (simp; done) | split)
@[simp] theorem setSbState_facets (v : BitVec 3) (s : State) : (setSbState v s).facets = s.facets := by
  unfold setSbState; (try dsimp only); repeat' (first | with_reducible rfl | (simp; done) | split)
@[simp] theorem setSbState_mesh (v : BitVec 3) (s : State) : (setSbState v s).mesh = s.mesh := by
  unfold setSbState; (try dsimp only); repeat' (first | with_reducible rfl | (simp; done) | split)
@[simp] theorem setSbState_sectors (v : BitVec 3) (s : State) : (setSbState v s).sectors = s.sectors := by
  unfold setSbState; (try dsimp only); repeat' (first | with_reducible rfl | (simp; done) | split)
@[simp] theorem setSbState_owners (v : BitVec 3) (s : State) : (setSbState v s).owners = s.owners := by
  unfold setSbState; (try dsimp only); repeat' (first | with_reducible rfl | (simp; done) | split)
@[simp] theorem setSbState_jobs (v : BitVec 3) (s : State) : (setSbState v s).jobs = s.jobs := by
  unfold setSbState; (try dsimp only); repeat' (first | with_reducible rfl | (simp; done) | split)
@[simp] theorem setSbState_fabric (v : BitVec 3) (s : State) : (setSbState v s).fabric = s.fabric := by
  unfold setSbState; (try dsimp only); repeat' (first | with_reducible rfl | (simp; done) | split)
@[simp] theorem setSbState_regions (v : BitVec 3) (s : State) : (setSbState v s).regions = s.regions := by
  unfold setSbState; (try dsimp only); repeat' (first | with_reducible rfl | (simp; done) | split)
@[simp] theorem setSbState_mgmt (v : BitVec 3) (s : State) : (setSbState v s).mgmt = s.mgmt := by
  unfold setSbState; (try dsimp only); repeat' (first | with_reducible rfl | (simp; done) | split)
@[simp] theorem setSbState_health (v : BitVec 3) (s : State) : (setSbState v s).health = s.health := by
  unfold setSbState; (try dsimp only); repeat' (first | with_reducible rfl | (simp; done) | split)
@[simp] theorem setFault_pending (b : Bool) (s : State) : (setFault b s).pending = s.pending := by
  unfold setFault; (try dsimp only); repeat' (first | with_reducible rfl | (simp; done) | split)
@[simp] theorem setFault_out (b : Bool) (s : State) : (setFault b s).out = s.out := by
  unfold setFault; (try dsimp only); repeat' (first | with_reducible rfl | (simp; done) | split)
@[simp] theorem setFault_freeIx (b : Bool) (s : State) : (setFault b s).freeIx = s.freeIx := by
  unfold setFault; (try dsimp only); repeat' (first | with_reducible rfl | (simp; done) | split)
@[simp] theorem setFault_phase (b : Bool) (s : State) : (setFault b s).phase = s.phase := by
  unfold setFault; (try dsimp only); repeat' (first | with_reducible rfl | (simp; done) | split)
@[simp] theorem setFault_srEntry (b : Bool) (s : State) : (setFault b s).srEntry = s.srEntry := by
  unfold setFault; (try dsimp only); repeat' (first | with_reducible rfl | (simp; done) | split)
@[simp] theorem setFault_aon (b : Bool) (s : State) : (setFault b s).aon = s.aon := by
  unfold setFault; (try dsimp only); repeat' (first | with_reducible rfl | (simp; done) | split)
@[simp] theorem setFault_jrn (b : Bool) (s : State) : (setFault b s).jrn = s.jrn := by
  unfold setFault; (try dsimp only); repeat' (first | with_reducible rfl | (simp; done) | split)
@[simp] theorem setFault_sec (b : Bool) (s : State) : (setFault b s).sec = s.sec := by
  unfold setFault; (try dsimp only); repeat' (first | with_reducible rfl | (simp; done) | split)
@[simp] theorem setFault_mbx (b : Bool) (s : State) : (setFault b s).mbx = s.mbx := by
  unfold setFault; (try dsimp only); repeat' (first | with_reducible rfl | (simp; done) | split)
@[simp] theorem setFault_d2d (b : Bool) (s : State) : (setFault b s).d2d = s.d2d := by
  unfold setFault; (try dsimp only); repeat' (first | with_reducible rfl | (simp; done) | split)
@[simp] theorem setFault_mem (b : Bool) (s : State) : (setFault b s).mem = s.mem := by
  unfold setFault; (try dsimp only); repeat' (first | with_reducible rfl | (simp; done) | split)
@[simp] theorem setFault_hostMem (b : Bool) (s : State) : (setFault b s).hostMem = s.hostMem := by
  unfold setFault; (try dsimp only); repeat' (first | with_reducible rfl | (simp; done) | split)
@[simp] theorem setFault_objs (b : Bool) (s : State) : (setFault b s).objs = s.objs := by
  unfold setFault; (try dsimp only); repeat' (first | with_reducible rfl | (simp; done) | split)
@[simp] theorem setFault_flash (b : Bool) (s : State) : (setFault b s).flash = s.flash := by
  unfold setFault; (try dsimp only); repeat' (first | with_reducible rfl | (simp; done) | split)
@[simp] theorem setFault_facets (b : Bool) (s : State) : (setFault b s).facets = s.facets := by
  unfold setFault; (try dsimp only); repeat' (first | with_reducible rfl | (simp; done) | split)
@[simp] theorem setFault_mesh (b : Bool) (s : State) : (setFault b s).mesh = s.mesh := by
  unfold setFault; (try dsimp only); repeat' (first | with_reducible rfl | (simp; done) | split)
@[simp] theorem setFault_sectors (b : Bool) (s : State) : (setFault b s).sectors = s.sectors := by
  unfold setFault; (try dsimp only); repeat' (first | with_reducible rfl | (simp; done) | split)
@[simp] theorem setFault_owners (b : Bool) (s : State) : (setFault b s).owners = s.owners := by
  unfold setFault; (try dsimp only); repeat' (first | with_reducible rfl | (simp; done) | split)
@[simp] theorem setFault_jobs (b : Bool) (s : State) : (setFault b s).jobs = s.jobs := by
  unfold setFault; (try dsimp only); repeat' (first | with_reducible rfl | (simp; done) | split)
@[simp] theorem setFault_fabric (b : Bool) (s : State) : (setFault b s).fabric = s.fabric := by
  unfold setFault; (try dsimp only); repeat' (first | with_reducible rfl | (simp; done) | split)
@[simp] theorem setFault_regions (b : Bool) (s : State) : (setFault b s).regions = s.regions := by
  unfold setFault; (try dsimp only); repeat' (first | with_reducible rfl | (simp; done) | split)
@[simp] theorem setFault_mgmt (b : Bool) (s : State) : (setFault b s).mgmt = s.mgmt := by
  unfold setFault; (try dsimp only); repeat' (first | with_reducible rfl | (simp; done) | split)
@[simp] theorem setFault_health (b : Bool) (s : State) : (setFault b s).health = s.health := by
  unfold setFault; (try dsimp only); repeat' (first | with_reducible rfl | (simp; done) | split)
@[simp] theorem settleSideband_pending (s : State) : (settleSideband s).pending = s.pending := by
  unfold settleSideband; (try dsimp only); repeat' (first | with_reducible rfl | (simp; done) | split)
@[simp] theorem settleSideband_out (s : State) : (settleSideband s).out = s.out := by
  unfold settleSideband; (try dsimp only); repeat' (first | with_reducible rfl | (simp; done) | split)
@[simp] theorem settleSideband_freeIx (s : State) : (settleSideband s).freeIx = s.freeIx := by
  unfold settleSideband; (try dsimp only); repeat' (first | with_reducible rfl | (simp; done) | split)
@[simp] theorem settleSideband_phase (s : State) : (settleSideband s).phase = s.phase := by
  unfold settleSideband; (try dsimp only); repeat' (first | with_reducible rfl | (simp; done) | split)
@[simp] theorem settleSideband_srEntry (s : State) : (settleSideband s).srEntry = s.srEntry := by
  unfold settleSideband; (try dsimp only); repeat' (first | with_reducible rfl | (simp; done) | split)
@[simp] theorem settleSideband_aon (s : State) : (settleSideband s).aon = s.aon := by
  unfold settleSideband; (try dsimp only); repeat' (first | with_reducible rfl | (simp; done) | split)
@[simp] theorem settleSideband_jrn (s : State) : (settleSideband s).jrn = s.jrn := by
  unfold settleSideband; (try dsimp only); repeat' (first | with_reducible rfl | (simp; done) | split)
@[simp] theorem settleSideband_sec (s : State) : (settleSideband s).sec = s.sec := by
  unfold settleSideband; (try dsimp only); repeat' (first | with_reducible rfl | (simp; done) | split)
@[simp] theorem settleSideband_mbx (s : State) : (settleSideband s).mbx = s.mbx := by
  unfold settleSideband; (try dsimp only); repeat' (first | with_reducible rfl | (simp; done) | split)
@[simp] theorem settleSideband_d2d (s : State) : (settleSideband s).d2d = s.d2d := by
  unfold settleSideband; (try dsimp only); repeat' (first | with_reducible rfl | (simp; done) | split)
@[simp] theorem settleSideband_mem (s : State) : (settleSideband s).mem = s.mem := by
  unfold settleSideband; (try dsimp only); repeat' (first | with_reducible rfl | (simp; done) | split)
@[simp] theorem settleSideband_hostMem (s : State) : (settleSideband s).hostMem = s.hostMem := by
  unfold settleSideband; (try dsimp only); repeat' (first | with_reducible rfl | (simp; done) | split)
@[simp] theorem settleSideband_objs (s : State) : (settleSideband s).objs = s.objs := by
  unfold settleSideband; (try dsimp only); repeat' (first | with_reducible rfl | (simp; done) | split)
@[simp] theorem settleSideband_flash (s : State) : (settleSideband s).flash = s.flash := by
  unfold settleSideband; (try dsimp only); repeat' (first | with_reducible rfl | (simp; done) | split)
@[simp] theorem settleSideband_facets (s : State) : (settleSideband s).facets = s.facets := by
  unfold settleSideband; (try dsimp only); repeat' (first | with_reducible rfl | (simp; done) | split)
@[simp] theorem settleSideband_mesh (s : State) : (settleSideband s).mesh = s.mesh := by
  unfold settleSideband; (try dsimp only); repeat' (first | with_reducible rfl | (simp; done) | split)
@[simp] theorem settleSideband_sectors (s : State) : (settleSideband s).sectors = s.sectors := by
  unfold settleSideband; (try dsimp only); repeat' (first | with_reducible rfl | (simp; done) | split)
@[simp] theorem settleSideband_owners (s : State) : (settleSideband s).owners = s.owners := by
  unfold settleSideband; (try dsimp only); repeat' (first | with_reducible rfl | (simp; done) | split)
@[simp] theorem settleSideband_jobs (s : State) : (settleSideband s).jobs = s.jobs := by
  unfold settleSideband; (try dsimp only); repeat' (first | with_reducible rfl | (simp; done) | split)
@[simp] theorem settleSideband_fabric (s : State) : (settleSideband s).fabric = s.fabric := by
  unfold settleSideband; (try dsimp only); repeat' (first | with_reducible rfl | (simp; done) | split)
@[simp] theorem settleSideband_regions (s : State) : (settleSideband s).regions = s.regions := by
  unfold settleSideband; (try dsimp only); repeat' (first | with_reducible rfl | (simp; done) | split)
@[simp] theorem settleSideband_mgmt (s : State) : (settleSideband s).mgmt = s.mgmt := by
  unfold settleSideband; (try dsimp only); repeat' (first | with_reducible rfl | (simp; done) | split)
@[simp] theorem settleSideband_health (s : State) : (settleSideband s).health = s.health := by
  unfold settleSideband; (try dsimp only); repeat' (first | with_reducible rfl | (simp; done) | split)
@[simp] theorem setReplaceReq_pending (b : Bool) (s : State) : (setReplaceReq b s).pending = s.pending := by
  unfold setReplaceReq; (try dsimp only); repeat' (first | with_reducible rfl | (simp; done) | split)
@[simp] theorem setReplaceReq_freeIx (b : Bool) (s : State) : (setReplaceReq b s).freeIx = s.freeIx := by
  unfold setReplaceReq; (try dsimp only); repeat' (first | with_reducible rfl | (simp; done) | split)
@[simp] theorem setReplaceReq_phase (b : Bool) (s : State) : (setReplaceReq b s).phase = s.phase := by
  unfold setReplaceReq; (try dsimp only); repeat' (first | with_reducible rfl | (simp; done) | split)
@[simp] theorem setReplaceReq_srEntry (b : Bool) (s : State) : (setReplaceReq b s).srEntry = s.srEntry := by
  unfold setReplaceReq; (try dsimp only); repeat' (first | with_reducible rfl | (simp; done) | split)
@[simp] theorem setReplaceReq_aon (b : Bool) (s : State) : (setReplaceReq b s).aon = s.aon := by
  unfold setReplaceReq; (try dsimp only); repeat' (first | with_reducible rfl | (simp; done) | split)
@[simp] theorem setReplaceReq_sec (b : Bool) (s : State) : (setReplaceReq b s).sec = s.sec := by
  unfold setReplaceReq; (try dsimp only); repeat' (first | with_reducible rfl | (simp; done) | split)
@[simp] theorem setReplaceReq_d2d (b : Bool) (s : State) : (setReplaceReq b s).d2d = s.d2d := by
  unfold setReplaceReq; (try dsimp only); repeat' (first | with_reducible rfl | (simp; done) | split)
@[simp] theorem setReplaceReq_mem (b : Bool) (s : State) : (setReplaceReq b s).mem = s.mem := by
  unfold setReplaceReq; (try dsimp only); repeat' (first | with_reducible rfl | (simp; done) | split)
@[simp] theorem setReplaceReq_hostMem (b : Bool) (s : State) : (setReplaceReq b s).hostMem = s.hostMem := by
  unfold setReplaceReq; (try dsimp only); repeat' (first | with_reducible rfl | (simp; done) | split)
@[simp] theorem setReplaceReq_objs (b : Bool) (s : State) : (setReplaceReq b s).objs = s.objs := by
  unfold setReplaceReq; (try dsimp only); repeat' (first | with_reducible rfl | (simp; done) | split)
@[simp] theorem setReplaceReq_flash (b : Bool) (s : State) : (setReplaceReq b s).flash = s.flash := by
  unfold setReplaceReq; (try dsimp only); repeat' (first | with_reducible rfl | (simp; done) | split)
@[simp] theorem setReplaceReq_facets (b : Bool) (s : State) : (setReplaceReq b s).facets = s.facets := by
  unfold setReplaceReq; (try dsimp only); repeat' (first | with_reducible rfl | (simp; done) | split)
@[simp] theorem setReplaceReq_mesh (b : Bool) (s : State) : (setReplaceReq b s).mesh = s.mesh := by
  unfold setReplaceReq; (try dsimp only); repeat' (first | with_reducible rfl | (simp; done) | split)
@[simp] theorem setReplaceReq_sectors (b : Bool) (s : State) : (setReplaceReq b s).sectors = s.sectors := by
  unfold setReplaceReq; (try dsimp only); repeat' (first | with_reducible rfl | (simp; done) | split)
@[simp] theorem setReplaceReq_owners (b : Bool) (s : State) : (setReplaceReq b s).owners = s.owners := by
  unfold setReplaceReq; (try dsimp only); repeat' (first | with_reducible rfl | (simp; done) | split)
@[simp] theorem setReplaceReq_jobs (b : Bool) (s : State) : (setReplaceReq b s).jobs = s.jobs := by
  unfold setReplaceReq; (try dsimp only); repeat' (first | with_reducible rfl | (simp; done) | split)
@[simp] theorem setReplaceReq_fabric (b : Bool) (s : State) : (setReplaceReq b s).fabric = s.fabric := by
  unfold setReplaceReq; (try dsimp only); repeat' (first | with_reducible rfl | (simp; done) | split)
@[simp] theorem setReplaceReq_regions (b : Bool) (s : State) : (setReplaceReq b s).regions = s.regions := by
  unfold setReplaceReq; (try dsimp only); repeat' (first | with_reducible rfl | (simp; done) | split)
@[simp] theorem setReplaceReq_mgmt (b : Bool) (s : State) : (setReplaceReq b s).mgmt = s.mgmt := by
  unfold setReplaceReq; (try dsimp only); repeat' (first | with_reducible rfl | (simp; done) | split)
@[simp] theorem setReplaceReq_health (b : Bool) (s : State) : (setReplaceReq b s).health = s.health := by
  unfold setReplaceReq; (try dsimp only); repeat' (first | with_reducible rfl | (simp; done) | split)
@[simp] theorem modFacet_pending (f : Fin 96) (g : Facet → Facet) (s : State) : (modFacet f g s).pending = s.pending := rfl
@[simp] theorem modFacet_out (f : Fin 96) (g : Facet → Facet) (s : State) : (modFacet f g s).out = s.out := rfl
@[simp] theorem modFacet_freeIx (f : Fin 96) (g : Facet → Facet) (s : State) : (modFacet f g s).freeIx = s.freeIx := rfl
@[simp] theorem modFacet_phase (f : Fin 96) (g : Facet → Facet) (s : State) : (modFacet f g s).phase = s.phase := rfl
@[simp] theorem modFacet_srEntry (f : Fin 96) (g : Facet → Facet) (s : State) : (modFacet f g s).srEntry = s.srEntry := rfl
@[simp] theorem modFacet_pins (f : Fin 96) (g : Facet → Facet) (s : State) : (modFacet f g s).pins = s.pins := rfl
@[simp] theorem modFacet_aon (f : Fin 96) (g : Facet → Facet) (s : State) : (modFacet f g s).aon = s.aon := rfl
@[simp] theorem modFacet_smb (f : Fin 96) (g : Facet → Facet) (s : State) : (modFacet f g s).smb = s.smb := rfl
@[simp] theorem modFacet_jrn (f : Fin 96) (g : Facet → Facet) (s : State) : (modFacet f g s).jrn = s.jrn := rfl
@[simp] theorem modFacet_sec (f : Fin 96) (g : Facet → Facet) (s : State) : (modFacet f g s).sec = s.sec := rfl
@[simp] theorem modFacet_mbx (f : Fin 96) (g : Facet → Facet) (s : State) : (modFacet f g s).mbx = s.mbx := rfl
@[simp] theorem modFacet_d2d (f : Fin 96) (g : Facet → Facet) (s : State) : (modFacet f g s).d2d = s.d2d := rfl
@[simp] theorem modFacet_mem (f : Fin 96) (g : Facet → Facet) (s : State) : (modFacet f g s).mem = s.mem := rfl
@[simp] theorem modFacet_hostMem (f : Fin 96) (g : Facet → Facet) (s : State) : (modFacet f g s).hostMem = s.hostMem := rfl
@[simp] theorem modFacet_objs (f : Fin 96) (g : Facet → Facet) (s : State) : (modFacet f g s).objs = s.objs := rfl
@[simp] theorem modFacet_flash (f : Fin 96) (g : Facet → Facet) (s : State) : (modFacet f g s).flash = s.flash := rfl
@[simp] theorem modFacet_mesh (f : Fin 96) (g : Facet → Facet) (s : State) : (modFacet f g s).mesh = s.mesh := rfl
@[simp] theorem modFacet_sectors (f : Fin 96) (g : Facet → Facet) (s : State) : (modFacet f g s).sectors = s.sectors := rfl
@[simp] theorem modFacet_owners (f : Fin 96) (g : Facet → Facet) (s : State) : (modFacet f g s).owners = s.owners := rfl
@[simp] theorem modFacet_jobs (f : Fin 96) (g : Facet → Facet) (s : State) : (modFacet f g s).jobs = s.jobs := rfl
@[simp] theorem modFacet_fabric (f : Fin 96) (g : Facet → Facet) (s : State) : (modFacet f g s).fabric = s.fabric := rfl
@[simp] theorem modFacet_regions (f : Fin 96) (g : Facet → Facet) (s : State) : (modFacet f g s).regions = s.regions := rfl
@[simp] theorem modFacet_mgmt (f : Fin 96) (g : Facet → Facet) (s : State) : (modFacet f g s).mgmt = s.mgmt := rfl
@[simp] theorem modFacet_health (f : Fin 96) (g : Facet → Facet) (s : State) : (modFacet f g s).health = s.health := rfl
@[simp] theorem modSector_pending (n : Fin 4) (g : Sector → Sector) (s : State) : (modSector n g s).pending = s.pending := rfl
@[simp] theorem modSector_out (n : Fin 4) (g : Sector → Sector) (s : State) : (modSector n g s).out = s.out := rfl
@[simp] theorem modSector_freeIx (n : Fin 4) (g : Sector → Sector) (s : State) : (modSector n g s).freeIx = s.freeIx := rfl
@[simp] theorem modSector_phase (n : Fin 4) (g : Sector → Sector) (s : State) : (modSector n g s).phase = s.phase := rfl
@[simp] theorem modSector_srEntry (n : Fin 4) (g : Sector → Sector) (s : State) : (modSector n g s).srEntry = s.srEntry := rfl
@[simp] theorem modSector_pins (n : Fin 4) (g : Sector → Sector) (s : State) : (modSector n g s).pins = s.pins := rfl
@[simp] theorem modSector_aon (n : Fin 4) (g : Sector → Sector) (s : State) : (modSector n g s).aon = s.aon := rfl
@[simp] theorem modSector_smb (n : Fin 4) (g : Sector → Sector) (s : State) : (modSector n g s).smb = s.smb := rfl
@[simp] theorem modSector_jrn (n : Fin 4) (g : Sector → Sector) (s : State) : (modSector n g s).jrn = s.jrn := rfl
@[simp] theorem modSector_sec (n : Fin 4) (g : Sector → Sector) (s : State) : (modSector n g s).sec = s.sec := rfl
@[simp] theorem modSector_mbx (n : Fin 4) (g : Sector → Sector) (s : State) : (modSector n g s).mbx = s.mbx := rfl
@[simp] theorem modSector_d2d (n : Fin 4) (g : Sector → Sector) (s : State) : (modSector n g s).d2d = s.d2d := rfl
@[simp] theorem modSector_mem (n : Fin 4) (g : Sector → Sector) (s : State) : (modSector n g s).mem = s.mem := rfl
@[simp] theorem modSector_hostMem (n : Fin 4) (g : Sector → Sector) (s : State) : (modSector n g s).hostMem = s.hostMem := rfl
@[simp] theorem modSector_objs (n : Fin 4) (g : Sector → Sector) (s : State) : (modSector n g s).objs = s.objs := rfl
@[simp] theorem modSector_flash (n : Fin 4) (g : Sector → Sector) (s : State) : (modSector n g s).flash = s.flash := rfl
@[simp] theorem modSector_facets (n : Fin 4) (g : Sector → Sector) (s : State) : (modSector n g s).facets = s.facets := rfl
@[simp] theorem modSector_mesh (n : Fin 4) (g : Sector → Sector) (s : State) : (modSector n g s).mesh = s.mesh := rfl
@[simp] theorem modSector_owners (n : Fin 4) (g : Sector → Sector) (s : State) : (modSector n g s).owners = s.owners := rfl
@[simp] theorem modSector_jobs (n : Fin 4) (g : Sector → Sector) (s : State) : (modSector n g s).jobs = s.jobs := rfl
@[simp] theorem modSector_fabric (n : Fin 4) (g : Sector → Sector) (s : State) : (modSector n g s).fabric = s.fabric := rfl
@[simp] theorem modSector_regions (n : Fin 4) (g : Sector → Sector) (s : State) : (modSector n g s).regions = s.regions := rfl
@[simp] theorem modSector_mgmt (n : Fin 4) (g : Sector → Sector) (s : State) : (modSector n g s).mgmt = s.mgmt := rfl
@[simp] theorem modSector_health (n : Fin 4) (g : Sector → Sector) (s : State) : (modSector n g s).health = s.health := rfl
@[simp] theorem modRing_pending (n : Fin 8) (g : Ring → Ring) (s : State) : (modRing n g s).pending = s.pending := rfl
@[simp] theorem modRing_out (n : Fin 8) (g : Ring → Ring) (s : State) : (modRing n g s).out = s.out := rfl
@[simp] theorem modRing_freeIx (n : Fin 8) (g : Ring → Ring) (s : State) : (modRing n g s).freeIx = s.freeIx := rfl
@[simp] theorem modRing_phase (n : Fin 8) (g : Ring → Ring) (s : State) : (modRing n g s).phase = s.phase := rfl
@[simp] theorem modRing_srEntry (n : Fin 8) (g : Ring → Ring) (s : State) : (modRing n g s).srEntry = s.srEntry := rfl
@[simp] theorem modRing_pins (n : Fin 8) (g : Ring → Ring) (s : State) : (modRing n g s).pins = s.pins := rfl
@[simp] theorem modRing_aon (n : Fin 8) (g : Ring → Ring) (s : State) : (modRing n g s).aon = s.aon := rfl
@[simp] theorem modRing_smb (n : Fin 8) (g : Ring → Ring) (s : State) : (modRing n g s).smb = s.smb := rfl
@[simp] theorem modRing_jrn (n : Fin 8) (g : Ring → Ring) (s : State) : (modRing n g s).jrn = s.jrn := rfl
@[simp] theorem modRing_sec (n : Fin 8) (g : Ring → Ring) (s : State) : (modRing n g s).sec = s.sec := rfl
@[simp] theorem modRing_d2d (n : Fin 8) (g : Ring → Ring) (s : State) : (modRing n g s).d2d = s.d2d := rfl
@[simp] theorem modRing_mem (n : Fin 8) (g : Ring → Ring) (s : State) : (modRing n g s).mem = s.mem := rfl
@[simp] theorem modRing_hostMem (n : Fin 8) (g : Ring → Ring) (s : State) : (modRing n g s).hostMem = s.hostMem := rfl
@[simp] theorem modRing_objs (n : Fin 8) (g : Ring → Ring) (s : State) : (modRing n g s).objs = s.objs := rfl
@[simp] theorem modRing_flash (n : Fin 8) (g : Ring → Ring) (s : State) : (modRing n g s).flash = s.flash := rfl
@[simp] theorem modRing_facets (n : Fin 8) (g : Ring → Ring) (s : State) : (modRing n g s).facets = s.facets := rfl
@[simp] theorem modRing_mesh (n : Fin 8) (g : Ring → Ring) (s : State) : (modRing n g s).mesh = s.mesh := rfl
@[simp] theorem modRing_sectors (n : Fin 8) (g : Ring → Ring) (s : State) : (modRing n g s).sectors = s.sectors := rfl
@[simp] theorem modRing_owners (n : Fin 8) (g : Ring → Ring) (s : State) : (modRing n g s).owners = s.owners := rfl
@[simp] theorem modRing_jobs (n : Fin 8) (g : Ring → Ring) (s : State) : (modRing n g s).jobs = s.jobs := rfl
@[simp] theorem modRing_fabric (n : Fin 8) (g : Ring → Ring) (s : State) : (modRing n g s).fabric = s.fabric := rfl
@[simp] theorem modRing_regions (n : Fin 8) (g : Ring → Ring) (s : State) : (modRing n g s).regions = s.regions := rfl
@[simp] theorem modRing_mgmt (n : Fin 8) (g : Ring → Ring) (s : State) : (modRing n g s).mgmt = s.mgmt := rfl
@[simp] theorem modRing_health (n : Fin 8) (g : Ring → Ring) (s : State) : (modRing n g s).health = s.health := rfl
@[simp] theorem modPort_pending (p : Fin 8) (g : FabPort → FabPort) (s : State) : (modPort p g s).pending = s.pending := rfl
@[simp] theorem modPort_out (p : Fin 8) (g : FabPort → FabPort) (s : State) : (modPort p g s).out = s.out := rfl
@[simp] theorem modPort_freeIx (p : Fin 8) (g : FabPort → FabPort) (s : State) : (modPort p g s).freeIx = s.freeIx := rfl
@[simp] theorem modPort_phase (p : Fin 8) (g : FabPort → FabPort) (s : State) : (modPort p g s).phase = s.phase := rfl
@[simp] theorem modPort_srEntry (p : Fin 8) (g : FabPort → FabPort) (s : State) : (modPort p g s).srEntry = s.srEntry := rfl
@[simp] theorem modPort_pins (p : Fin 8) (g : FabPort → FabPort) (s : State) : (modPort p g s).pins = s.pins := rfl
@[simp] theorem modPort_aon (p : Fin 8) (g : FabPort → FabPort) (s : State) : (modPort p g s).aon = s.aon := rfl
@[simp] theorem modPort_smb (p : Fin 8) (g : FabPort → FabPort) (s : State) : (modPort p g s).smb = s.smb := rfl
@[simp] theorem modPort_jrn (p : Fin 8) (g : FabPort → FabPort) (s : State) : (modPort p g s).jrn = s.jrn := rfl
@[simp] theorem modPort_sec (p : Fin 8) (g : FabPort → FabPort) (s : State) : (modPort p g s).sec = s.sec := rfl
@[simp] theorem modPort_mbx (p : Fin 8) (g : FabPort → FabPort) (s : State) : (modPort p g s).mbx = s.mbx := rfl
@[simp] theorem modPort_d2d (p : Fin 8) (g : FabPort → FabPort) (s : State) : (modPort p g s).d2d = s.d2d := rfl
@[simp] theorem modPort_mem (p : Fin 8) (g : FabPort → FabPort) (s : State) : (modPort p g s).mem = s.mem := rfl
@[simp] theorem modPort_hostMem (p : Fin 8) (g : FabPort → FabPort) (s : State) : (modPort p g s).hostMem = s.hostMem := rfl
@[simp] theorem modPort_objs (p : Fin 8) (g : FabPort → FabPort) (s : State) : (modPort p g s).objs = s.objs := rfl
@[simp] theorem modPort_flash (p : Fin 8) (g : FabPort → FabPort) (s : State) : (modPort p g s).flash = s.flash := rfl
@[simp] theorem modPort_facets (p : Fin 8) (g : FabPort → FabPort) (s : State) : (modPort p g s).facets = s.facets := rfl
@[simp] theorem modPort_mesh (p : Fin 8) (g : FabPort → FabPort) (s : State) : (modPort p g s).mesh = s.mesh := rfl
@[simp] theorem modPort_sectors (p : Fin 8) (g : FabPort → FabPort) (s : State) : (modPort p g s).sectors = s.sectors := rfl
@[simp] theorem modPort_owners (p : Fin 8) (g : FabPort → FabPort) (s : State) : (modPort p g s).owners = s.owners := rfl
@[simp] theorem modPort_jobs (p : Fin 8) (g : FabPort → FabPort) (s : State) : (modPort p g s).jobs = s.jobs := rfl
@[simp] theorem modPort_regions (p : Fin 8) (g : FabPort → FabPort) (s : State) : (modPort p g s).regions = s.regions := rfl
@[simp] theorem modPort_mgmt (p : Fin 8) (g : FabPort → FabPort) (s : State) : (modPort p g s).mgmt = s.mgmt := rfl
@[simp] theorem modPort_health (p : Fin 8) (g : FabPort → FabPort) (s : State) : (modPort p g s).health = s.health := rfl
@[simp] theorem modJob_pending (j : W32) (g : Job → Job) (s : State) : (modJob j g s).pending = s.pending := rfl
@[simp] theorem modJob_out (j : W32) (g : Job → Job) (s : State) : (modJob j g s).out = s.out := rfl
@[simp] theorem modJob_freeIx (j : W32) (g : Job → Job) (s : State) : (modJob j g s).freeIx = s.freeIx := rfl
@[simp] theorem modJob_phase (j : W32) (g : Job → Job) (s : State) : (modJob j g s).phase = s.phase := rfl
@[simp] theorem modJob_srEntry (j : W32) (g : Job → Job) (s : State) : (modJob j g s).srEntry = s.srEntry := rfl
@[simp] theorem modJob_pins (j : W32) (g : Job → Job) (s : State) : (modJob j g s).pins = s.pins := rfl
@[simp] theorem modJob_aon (j : W32) (g : Job → Job) (s : State) : (modJob j g s).aon = s.aon := rfl
@[simp] theorem modJob_smb (j : W32) (g : Job → Job) (s : State) : (modJob j g s).smb = s.smb := rfl
@[simp] theorem modJob_jrn (j : W32) (g : Job → Job) (s : State) : (modJob j g s).jrn = s.jrn := rfl
@[simp] theorem modJob_sec (j : W32) (g : Job → Job) (s : State) : (modJob j g s).sec = s.sec := rfl
@[simp] theorem modJob_mbx (j : W32) (g : Job → Job) (s : State) : (modJob j g s).mbx = s.mbx := rfl
@[simp] theorem modJob_d2d (j : W32) (g : Job → Job) (s : State) : (modJob j g s).d2d = s.d2d := rfl
@[simp] theorem modJob_mem (j : W32) (g : Job → Job) (s : State) : (modJob j g s).mem = s.mem := rfl
@[simp] theorem modJob_hostMem (j : W32) (g : Job → Job) (s : State) : (modJob j g s).hostMem = s.hostMem := rfl
@[simp] theorem modJob_objs (j : W32) (g : Job → Job) (s : State) : (modJob j g s).objs = s.objs := rfl
@[simp] theorem modJob_flash (j : W32) (g : Job → Job) (s : State) : (modJob j g s).flash = s.flash := rfl
@[simp] theorem modJob_facets (j : W32) (g : Job → Job) (s : State) : (modJob j g s).facets = s.facets := rfl
@[simp] theorem modJob_mesh (j : W32) (g : Job → Job) (s : State) : (modJob j g s).mesh = s.mesh := rfl
@[simp] theorem modJob_sectors (j : W32) (g : Job → Job) (s : State) : (modJob j g s).sectors = s.sectors := rfl
@[simp] theorem modJob_owners (j : W32) (g : Job → Job) (s : State) : (modJob j g s).owners = s.owners := rfl
@[simp] theorem modJob_fabric (j : W32) (g : Job → Job) (s : State) : (modJob j g s).fabric = s.fabric := rfl
@[simp] theorem modJob_regions (j : W32) (g : Job → Job) (s : State) : (modJob j g s).regions = s.regions := rfl
@[simp] theorem modJob_mgmt (j : W32) (g : Job → Job) (s : State) : (modJob j g s).mgmt = s.mgmt := rfl
@[simp] theorem modJob_health (j : W32) (g : Job → Job) (s : State) : (modJob j g s).health = s.health := rfl
@[simp] theorem modRun_pending (j : W32) (g : StepRun → StepRun) (s : State) : (modRun j g s).pending = s.pending := rfl
@[simp] theorem modRun_out (j : W32) (g : StepRun → StepRun) (s : State) : (modRun j g s).out = s.out := rfl
@[simp] theorem modRun_freeIx (j : W32) (g : StepRun → StepRun) (s : State) : (modRun j g s).freeIx = s.freeIx := rfl
@[simp] theorem modRun_phase (j : W32) (g : StepRun → StepRun) (s : State) : (modRun j g s).phase = s.phase := rfl
@[simp] theorem modRun_srEntry (j : W32) (g : StepRun → StepRun) (s : State) : (modRun j g s).srEntry = s.srEntry := rfl
@[simp] theorem modRun_pins (j : W32) (g : StepRun → StepRun) (s : State) : (modRun j g s).pins = s.pins := rfl
@[simp] theorem modRun_aon (j : W32) (g : StepRun → StepRun) (s : State) : (modRun j g s).aon = s.aon := rfl
@[simp] theorem modRun_smb (j : W32) (g : StepRun → StepRun) (s : State) : (modRun j g s).smb = s.smb := rfl
@[simp] theorem modRun_jrn (j : W32) (g : StepRun → StepRun) (s : State) : (modRun j g s).jrn = s.jrn := rfl
@[simp] theorem modRun_sec (j : W32) (g : StepRun → StepRun) (s : State) : (modRun j g s).sec = s.sec := rfl
@[simp] theorem modRun_mbx (j : W32) (g : StepRun → StepRun) (s : State) : (modRun j g s).mbx = s.mbx := rfl
@[simp] theorem modRun_d2d (j : W32) (g : StepRun → StepRun) (s : State) : (modRun j g s).d2d = s.d2d := rfl
@[simp] theorem modRun_mem (j : W32) (g : StepRun → StepRun) (s : State) : (modRun j g s).mem = s.mem := rfl
@[simp] theorem modRun_hostMem (j : W32) (g : StepRun → StepRun) (s : State) : (modRun j g s).hostMem = s.hostMem := rfl
@[simp] theorem modRun_objs (j : W32) (g : StepRun → StepRun) (s : State) : (modRun j g s).objs = s.objs := rfl
@[simp] theorem modRun_flash (j : W32) (g : StepRun → StepRun) (s : State) : (modRun j g s).flash = s.flash := rfl
@[simp] theorem modRun_facets (j : W32) (g : StepRun → StepRun) (s : State) : (modRun j g s).facets = s.facets := rfl
@[simp] theorem modRun_mesh (j : W32) (g : StepRun → StepRun) (s : State) : (modRun j g s).mesh = s.mesh := rfl
@[simp] theorem modRun_sectors (j : W32) (g : StepRun → StepRun) (s : State) : (modRun j g s).sectors = s.sectors := rfl
@[simp] theorem modRun_owners (j : W32) (g : StepRun → StepRun) (s : State) : (modRun j g s).owners = s.owners := rfl
@[simp] theorem modRun_fabric (j : W32) (g : StepRun → StepRun) (s : State) : (modRun j g s).fabric = s.fabric := rfl
@[simp] theorem modRun_regions (j : W32) (g : StepRun → StepRun) (s : State) : (modRun j g s).regions = s.regions := rfl
@[simp] theorem modRun_mgmt (j : W32) (g : StepRun → StepRun) (s : State) : (modRun j g s).mgmt = s.mgmt := rfl
@[simp] theorem modRun_health (j : W32) (g : StepRun → StepRun) (s : State) : (modRun j g s).health = s.health := rfl
@[simp] theorem modObj_pending (o : W64) (g : Obj → Obj) (s : State) : (modObj o g s).pending = s.pending := rfl
@[simp] theorem modObj_out (o : W64) (g : Obj → Obj) (s : State) : (modObj o g s).out = s.out := rfl
@[simp] theorem modObj_freeIx (o : W64) (g : Obj → Obj) (s : State) : (modObj o g s).freeIx = s.freeIx := rfl
@[simp] theorem modObj_phase (o : W64) (g : Obj → Obj) (s : State) : (modObj o g s).phase = s.phase := rfl
@[simp] theorem modObj_srEntry (o : W64) (g : Obj → Obj) (s : State) : (modObj o g s).srEntry = s.srEntry := rfl
@[simp] theorem modObj_pins (o : W64) (g : Obj → Obj) (s : State) : (modObj o g s).pins = s.pins := rfl
@[simp] theorem modObj_aon (o : W64) (g : Obj → Obj) (s : State) : (modObj o g s).aon = s.aon := rfl
@[simp] theorem modObj_smb (o : W64) (g : Obj → Obj) (s : State) : (modObj o g s).smb = s.smb := rfl
@[simp] theorem modObj_jrn (o : W64) (g : Obj → Obj) (s : State) : (modObj o g s).jrn = s.jrn := rfl
@[simp] theorem modObj_sec (o : W64) (g : Obj → Obj) (s : State) : (modObj o g s).sec = s.sec := rfl
@[simp] theorem modObj_mbx (o : W64) (g : Obj → Obj) (s : State) : (modObj o g s).mbx = s.mbx := rfl
@[simp] theorem modObj_d2d (o : W64) (g : Obj → Obj) (s : State) : (modObj o g s).d2d = s.d2d := rfl
@[simp] theorem modObj_mem (o : W64) (g : Obj → Obj) (s : State) : (modObj o g s).mem = s.mem := rfl
@[simp] theorem modObj_hostMem (o : W64) (g : Obj → Obj) (s : State) : (modObj o g s).hostMem = s.hostMem := rfl
@[simp] theorem modObj_flash (o : W64) (g : Obj → Obj) (s : State) : (modObj o g s).flash = s.flash := rfl
@[simp] theorem modObj_facets (o : W64) (g : Obj → Obj) (s : State) : (modObj o g s).facets = s.facets := rfl
@[simp] theorem modObj_mesh (o : W64) (g : Obj → Obj) (s : State) : (modObj o g s).mesh = s.mesh := rfl
@[simp] theorem modObj_sectors (o : W64) (g : Obj → Obj) (s : State) : (modObj o g s).sectors = s.sectors := rfl
@[simp] theorem modObj_owners (o : W64) (g : Obj → Obj) (s : State) : (modObj o g s).owners = s.owners := rfl
@[simp] theorem modObj_jobs (o : W64) (g : Obj → Obj) (s : State) : (modObj o g s).jobs = s.jobs := rfl
@[simp] theorem modObj_fabric (o : W64) (g : Obj → Obj) (s : State) : (modObj o g s).fabric = s.fabric := rfl
@[simp] theorem modObj_regions (o : W64) (g : Obj → Obj) (s : State) : (modObj o g s).regions = s.regions := rfl
@[simp] theorem modObj_mgmt (o : W64) (g : Obj → Obj) (s : State) : (modObj o g s).mgmt = s.mgmt := rfl
@[simp] theorem modObj_health (o : W64) (g : Obj → Obj) (s : State) : (modObj o g s).health = s.health := rfl
@[simp] theorem writeBoot_pending (g : BootRec → BootRec) (s : State) : (writeBoot g s).pending = s.pending := by
  unfold writeBoot; (try dsimp only); repeat' (first | with_reducible rfl | (simp; done) | split)
@[simp] theorem writeBoot_out (g : BootRec → BootRec) (s : State) : (writeBoot g s).out = s.out := by
  unfold writeBoot; (try dsimp only); repeat' (first | with_reducible rfl | (simp; done) | split)
@[simp] theorem writeBoot_freeIx (g : BootRec → BootRec) (s : State) : (writeBoot g s).freeIx = s.freeIx := by
  unfold writeBoot; (try dsimp only); repeat' (first | with_reducible rfl | (simp; done) | split)
@[simp] theorem writeBoot_phase (g : BootRec → BootRec) (s : State) : (writeBoot g s).phase = s.phase := by
  unfold writeBoot; (try dsimp only); repeat' (first | with_reducible rfl | (simp; done) | split)
@[simp] theorem writeBoot_srEntry (g : BootRec → BootRec) (s : State) : (writeBoot g s).srEntry = s.srEntry := by
  unfold writeBoot; (try dsimp only); repeat' (first | with_reducible rfl | (simp; done) | split)
@[simp] theorem writeBoot_pins (g : BootRec → BootRec) (s : State) : (writeBoot g s).pins = s.pins := by
  unfold writeBoot; (try dsimp only); repeat' (first | with_reducible rfl | (simp; done) | split)
@[simp] theorem writeBoot_aon (g : BootRec → BootRec) (s : State) : (writeBoot g s).aon = s.aon := by
  unfold writeBoot; (try dsimp only); repeat' (first | with_reducible rfl | (simp; done) | split)
@[simp] theorem writeBoot_smb (g : BootRec → BootRec) (s : State) : (writeBoot g s).smb = s.smb := by
  unfold writeBoot; (try dsimp only); repeat' (first | with_reducible rfl | (simp; done) | split)
@[simp] theorem writeBoot_sec (g : BootRec → BootRec) (s : State) : (writeBoot g s).sec = s.sec := by
  unfold writeBoot; (try dsimp only); repeat' (first | with_reducible rfl | (simp; done) | split)
@[simp] theorem writeBoot_mbx (g : BootRec → BootRec) (s : State) : (writeBoot g s).mbx = s.mbx := by
  unfold writeBoot; (try dsimp only); repeat' (first | with_reducible rfl | (simp; done) | split)
@[simp] theorem writeBoot_d2d (g : BootRec → BootRec) (s : State) : (writeBoot g s).d2d = s.d2d := by
  unfold writeBoot; (try dsimp only); repeat' (first | with_reducible rfl | (simp; done) | split)
@[simp] theorem writeBoot_mem (g : BootRec → BootRec) (s : State) : (writeBoot g s).mem = s.mem := by
  unfold writeBoot; (try dsimp only); repeat' (first | with_reducible rfl | (simp; done) | split)
@[simp] theorem writeBoot_hostMem (g : BootRec → BootRec) (s : State) : (writeBoot g s).hostMem = s.hostMem := by
  unfold writeBoot; (try dsimp only); repeat' (first | with_reducible rfl | (simp; done) | split)
@[simp] theorem writeBoot_objs (g : BootRec → BootRec) (s : State) : (writeBoot g s).objs = s.objs := by
  unfold writeBoot; (try dsimp only); repeat' (first | with_reducible rfl | (simp; done) | split)
@[simp] theorem writeBoot_flash (g : BootRec → BootRec) (s : State) : (writeBoot g s).flash = s.flash := by
  unfold writeBoot; (try dsimp only); repeat' (first | with_reducible rfl | (simp; done) | split)
@[simp] theorem writeBoot_facets (g : BootRec → BootRec) (s : State) : (writeBoot g s).facets = s.facets := by
  unfold writeBoot; (try dsimp only); repeat' (first | with_reducible rfl | (simp; done) | split)
@[simp] theorem writeBoot_mesh (g : BootRec → BootRec) (s : State) : (writeBoot g s).mesh = s.mesh := by
  unfold writeBoot; (try dsimp only); repeat' (first | with_reducible rfl | (simp; done) | split)
@[simp] theorem writeBoot_sectors (g : BootRec → BootRec) (s : State) : (writeBoot g s).sectors = s.sectors := by
  unfold writeBoot; (try dsimp only); repeat' (first | with_reducible rfl | (simp; done) | split)
@[simp] theorem writeBoot_owners (g : BootRec → BootRec) (s : State) : (writeBoot g s).owners = s.owners := by
  unfold writeBoot; (try dsimp only); repeat' (first | with_reducible rfl | (simp; done) | split)
@[simp] theorem writeBoot_jobs (g : BootRec → BootRec) (s : State) : (writeBoot g s).jobs = s.jobs := by
  unfold writeBoot; (try dsimp only); repeat' (first | with_reducible rfl | (simp; done) | split)
@[simp] theorem writeBoot_fabric (g : BootRec → BootRec) (s : State) : (writeBoot g s).fabric = s.fabric := by
  unfold writeBoot; (try dsimp only); repeat' (first | with_reducible rfl | (simp; done) | split)
@[simp] theorem writeBoot_regions (g : BootRec → BootRec) (s : State) : (writeBoot g s).regions = s.regions := by
  unfold writeBoot; (try dsimp only); repeat' (first | with_reducible rfl | (simp; done) | split)
@[simp] theorem writeBoot_mgmt (g : BootRec → BootRec) (s : State) : (writeBoot g s).mgmt = s.mgmt := by
  unfold writeBoot; (try dsimp only); repeat' (first | with_reducible rfl | (simp; done) | split)
@[simp] theorem writeBoot_health (g : BootRec → BootRec) (s : State) : (writeBoot g s).health = s.health := by
  unfold writeBoot; (try dsimp only); repeat' (first | with_reducible rfl | (simp; done) | split)
@[simp] theorem writeFence_pending (g : FenceMap → FenceMap) (s : State) : (writeFence g s).pending = s.pending := by
  unfold writeFence; (try dsimp only); repeat' (first | with_reducible rfl | (simp; done) | split)
@[simp] theorem writeFence_out (g : FenceMap → FenceMap) (s : State) : (writeFence g s).out = s.out := by
  unfold writeFence; (try dsimp only); repeat' (first | with_reducible rfl | (simp; done) | split)
@[simp] theorem writeFence_freeIx (g : FenceMap → FenceMap) (s : State) : (writeFence g s).freeIx = s.freeIx := by
  unfold writeFence; (try dsimp only); repeat' (first | with_reducible rfl | (simp; done) | split)
@[simp] theorem writeFence_phase (g : FenceMap → FenceMap) (s : State) : (writeFence g s).phase = s.phase := by
  unfold writeFence; (try dsimp only); repeat' (first | with_reducible rfl | (simp; done) | split)
@[simp] theorem writeFence_srEntry (g : FenceMap → FenceMap) (s : State) : (writeFence g s).srEntry = s.srEntry := by
  unfold writeFence; (try dsimp only); repeat' (first | with_reducible rfl | (simp; done) | split)
@[simp] theorem writeFence_pins (g : FenceMap → FenceMap) (s : State) : (writeFence g s).pins = s.pins := by
  unfold writeFence; (try dsimp only); repeat' (first | with_reducible rfl | (simp; done) | split)
@[simp] theorem writeFence_aon (g : FenceMap → FenceMap) (s : State) : (writeFence g s).aon = s.aon := by
  unfold writeFence; (try dsimp only); repeat' (first | with_reducible rfl | (simp; done) | split)
@[simp] theorem writeFence_smb (g : FenceMap → FenceMap) (s : State) : (writeFence g s).smb = s.smb := by
  unfold writeFence; (try dsimp only); repeat' (first | with_reducible rfl | (simp; done) | split)
@[simp] theorem writeFence_sec (g : FenceMap → FenceMap) (s : State) : (writeFence g s).sec = s.sec := by
  unfold writeFence; (try dsimp only); repeat' (first | with_reducible rfl | (simp; done) | split)
@[simp] theorem writeFence_mbx (g : FenceMap → FenceMap) (s : State) : (writeFence g s).mbx = s.mbx := by
  unfold writeFence; (try dsimp only); repeat' (first | with_reducible rfl | (simp; done) | split)
@[simp] theorem writeFence_d2d (g : FenceMap → FenceMap) (s : State) : (writeFence g s).d2d = s.d2d := by
  unfold writeFence; (try dsimp only); repeat' (first | with_reducible rfl | (simp; done) | split)
@[simp] theorem writeFence_mem (g : FenceMap → FenceMap) (s : State) : (writeFence g s).mem = s.mem := by
  unfold writeFence; (try dsimp only); repeat' (first | with_reducible rfl | (simp; done) | split)
@[simp] theorem writeFence_hostMem (g : FenceMap → FenceMap) (s : State) : (writeFence g s).hostMem = s.hostMem := by
  unfold writeFence; (try dsimp only); repeat' (first | with_reducible rfl | (simp; done) | split)
@[simp] theorem writeFence_objs (g : FenceMap → FenceMap) (s : State) : (writeFence g s).objs = s.objs := by
  unfold writeFence; (try dsimp only); repeat' (first | with_reducible rfl | (simp; done) | split)
@[simp] theorem writeFence_flash (g : FenceMap → FenceMap) (s : State) : (writeFence g s).flash = s.flash := by
  unfold writeFence; (try dsimp only); repeat' (first | with_reducible rfl | (simp; done) | split)
@[simp] theorem writeFence_facets (g : FenceMap → FenceMap) (s : State) : (writeFence g s).facets = s.facets := by
  unfold writeFence; (try dsimp only); repeat' (first | with_reducible rfl | (simp; done) | split)
@[simp] theorem writeFence_mesh (g : FenceMap → FenceMap) (s : State) : (writeFence g s).mesh = s.mesh := by
  unfold writeFence; (try dsimp only); repeat' (first | with_reducible rfl | (simp; done) | split)
@[simp] theorem writeFence_sectors (g : FenceMap → FenceMap) (s : State) : (writeFence g s).sectors = s.sectors := by
  unfold writeFence; (try dsimp only); repeat' (first | with_reducible rfl | (simp; done) | split)
@[simp] theorem writeFence_owners (g : FenceMap → FenceMap) (s : State) : (writeFence g s).owners = s.owners := by
  unfold writeFence; (try dsimp only); repeat' (first | with_reducible rfl | (simp; done) | split)
@[simp] theorem writeFence_jobs (g : FenceMap → FenceMap) (s : State) : (writeFence g s).jobs = s.jobs := by
  unfold writeFence; (try dsimp only); repeat' (first | with_reducible rfl | (simp; done) | split)
@[simp] theorem writeFence_fabric (g : FenceMap → FenceMap) (s : State) : (writeFence g s).fabric = s.fabric := by
  unfold writeFence; (try dsimp only); repeat' (first | with_reducible rfl | (simp; done) | split)
@[simp] theorem writeFence_regions (g : FenceMap → FenceMap) (s : State) : (writeFence g s).regions = s.regions := by
  unfold writeFence; (try dsimp only); repeat' (first | with_reducible rfl | (simp; done) | split)
@[simp] theorem writeFence_mgmt (g : FenceMap → FenceMap) (s : State) : (writeFence g s).mgmt = s.mgmt := by
  unfold writeFence; (try dsimp only); repeat' (first | with_reducible rfl | (simp; done) | split)
@[simp] theorem writeFence_health (g : FenceMap → FenceMap) (s : State) : (writeFence g s).health = s.health := by
  unfold writeFence; (try dsimp only); repeat' (first | with_reducible rfl | (simp; done) | split)
@[simp] theorem writeHcfg_pending (g : HealthConfig → HealthConfig) (s : State) : (writeHcfg g s).pending = s.pending := by
  unfold writeHcfg; (try dsimp only); repeat' (first | with_reducible rfl | (simp; done) | split)
@[simp] theorem writeHcfg_out (g : HealthConfig → HealthConfig) (s : State) : (writeHcfg g s).out = s.out := by
  unfold writeHcfg; (try dsimp only); repeat' (first | with_reducible rfl | (simp; done) | split)
@[simp] theorem writeHcfg_freeIx (g : HealthConfig → HealthConfig) (s : State) : (writeHcfg g s).freeIx = s.freeIx := by
  unfold writeHcfg; (try dsimp only); repeat' (first | with_reducible rfl | (simp; done) | split)
@[simp] theorem writeHcfg_phase (g : HealthConfig → HealthConfig) (s : State) : (writeHcfg g s).phase = s.phase := by
  unfold writeHcfg; (try dsimp only); repeat' (first | with_reducible rfl | (simp; done) | split)
@[simp] theorem writeHcfg_srEntry (g : HealthConfig → HealthConfig) (s : State) : (writeHcfg g s).srEntry = s.srEntry := by
  unfold writeHcfg; (try dsimp only); repeat' (first | with_reducible rfl | (simp; done) | split)
@[simp] theorem writeHcfg_pins (g : HealthConfig → HealthConfig) (s : State) : (writeHcfg g s).pins = s.pins := by
  unfold writeHcfg; (try dsimp only); repeat' (first | with_reducible rfl | (simp; done) | split)
@[simp] theorem writeHcfg_aon (g : HealthConfig → HealthConfig) (s : State) : (writeHcfg g s).aon = s.aon := by
  unfold writeHcfg; (try dsimp only); repeat' (first | with_reducible rfl | (simp; done) | split)
@[simp] theorem writeHcfg_smb (g : HealthConfig → HealthConfig) (s : State) : (writeHcfg g s).smb = s.smb := by
  unfold writeHcfg; (try dsimp only); repeat' (first | with_reducible rfl | (simp; done) | split)
@[simp] theorem writeHcfg_sec (g : HealthConfig → HealthConfig) (s : State) : (writeHcfg g s).sec = s.sec := by
  unfold writeHcfg; (try dsimp only); repeat' (first | with_reducible rfl | (simp; done) | split)
@[simp] theorem writeHcfg_mbx (g : HealthConfig → HealthConfig) (s : State) : (writeHcfg g s).mbx = s.mbx := by
  unfold writeHcfg; (try dsimp only); repeat' (first | with_reducible rfl | (simp; done) | split)
@[simp] theorem writeHcfg_d2d (g : HealthConfig → HealthConfig) (s : State) : (writeHcfg g s).d2d = s.d2d := by
  unfold writeHcfg; (try dsimp only); repeat' (first | with_reducible rfl | (simp; done) | split)
@[simp] theorem writeHcfg_mem (g : HealthConfig → HealthConfig) (s : State) : (writeHcfg g s).mem = s.mem := by
  unfold writeHcfg; (try dsimp only); repeat' (first | with_reducible rfl | (simp; done) | split)
@[simp] theorem writeHcfg_hostMem (g : HealthConfig → HealthConfig) (s : State) : (writeHcfg g s).hostMem = s.hostMem := by
  unfold writeHcfg; (try dsimp only); repeat' (first | with_reducible rfl | (simp; done) | split)
@[simp] theorem writeHcfg_objs (g : HealthConfig → HealthConfig) (s : State) : (writeHcfg g s).objs = s.objs := by
  unfold writeHcfg; (try dsimp only); repeat' (first | with_reducible rfl | (simp; done) | split)
@[simp] theorem writeHcfg_flash (g : HealthConfig → HealthConfig) (s : State) : (writeHcfg g s).flash = s.flash := by
  unfold writeHcfg; (try dsimp only); repeat' (first | with_reducible rfl | (simp; done) | split)
@[simp] theorem writeHcfg_facets (g : HealthConfig → HealthConfig) (s : State) : (writeHcfg g s).facets = s.facets := by
  unfold writeHcfg; (try dsimp only); repeat' (first | with_reducible rfl | (simp; done) | split)
@[simp] theorem writeHcfg_mesh (g : HealthConfig → HealthConfig) (s : State) : (writeHcfg g s).mesh = s.mesh := by
  unfold writeHcfg; (try dsimp only); repeat' (first | with_reducible rfl | (simp; done) | split)
@[simp] theorem writeHcfg_sectors (g : HealthConfig → HealthConfig) (s : State) : (writeHcfg g s).sectors = s.sectors := by
  unfold writeHcfg; (try dsimp only); repeat' (first | with_reducible rfl | (simp; done) | split)
@[simp] theorem writeHcfg_owners (g : HealthConfig → HealthConfig) (s : State) : (writeHcfg g s).owners = s.owners := by
  unfold writeHcfg; (try dsimp only); repeat' (first | with_reducible rfl | (simp; done) | split)
@[simp] theorem writeHcfg_jobs (g : HealthConfig → HealthConfig) (s : State) : (writeHcfg g s).jobs = s.jobs := by
  unfold writeHcfg; (try dsimp only); repeat' (first | with_reducible rfl | (simp; done) | split)
@[simp] theorem writeHcfg_fabric (g : HealthConfig → HealthConfig) (s : State) : (writeHcfg g s).fabric = s.fabric := by
  unfold writeHcfg; (try dsimp only); repeat' (first | with_reducible rfl | (simp; done) | split)
@[simp] theorem writeHcfg_regions (g : HealthConfig → HealthConfig) (s : State) : (writeHcfg g s).regions = s.regions := by
  unfold writeHcfg; (try dsimp only); repeat' (first | with_reducible rfl | (simp; done) | split)
@[simp] theorem writeHcfg_mgmt (g : HealthConfig → HealthConfig) (s : State) : (writeHcfg g s).mgmt = s.mgmt := by
  unfold writeHcfg; (try dsimp only); repeat' (first | with_reducible rfl | (simp; done) | split)
@[simp] theorem writeHcfg_health (g : HealthConfig → HealthConfig) (s : State) : (writeHcfg g s).health = s.health := by
  unfold writeHcfg; (try dsimp only); repeat' (first | with_reducible rfl | (simp; done) | split)
@[simp] theorem writeHst_pending (s : State) : (writeHst s).pending = s.pending := by
  unfold writeHst; (try dsimp only); repeat' (first | with_reducible rfl | (simp; done) | split)
@[simp] theorem writeHst_out (s : State) : (writeHst s).out = s.out := by
  unfold writeHst; (try dsimp only); repeat' (first | with_reducible rfl | (simp; done) | split)
@[simp] theorem writeHst_freeIx (s : State) : (writeHst s).freeIx = s.freeIx := by
  unfold writeHst; (try dsimp only); repeat' (first | with_reducible rfl | (simp; done) | split)
@[simp] theorem writeHst_phase (s : State) : (writeHst s).phase = s.phase := by
  unfold writeHst; (try dsimp only); repeat' (first | with_reducible rfl | (simp; done) | split)
@[simp] theorem writeHst_srEntry (s : State) : (writeHst s).srEntry = s.srEntry := by
  unfold writeHst; (try dsimp only); repeat' (first | with_reducible rfl | (simp; done) | split)
@[simp] theorem writeHst_pins (s : State) : (writeHst s).pins = s.pins := by
  unfold writeHst; (try dsimp only); repeat' (first | with_reducible rfl | (simp; done) | split)
@[simp] theorem writeHst_aon (s : State) : (writeHst s).aon = s.aon := by
  unfold writeHst; (try dsimp only); repeat' (first | with_reducible rfl | (simp; done) | split)
@[simp] theorem writeHst_smb (s : State) : (writeHst s).smb = s.smb := by
  unfold writeHst; (try dsimp only); repeat' (first | with_reducible rfl | (simp; done) | split)
@[simp] theorem writeHst_sec (s : State) : (writeHst s).sec = s.sec := by
  unfold writeHst; (try dsimp only); repeat' (first | with_reducible rfl | (simp; done) | split)
@[simp] theorem writeHst_mbx (s : State) : (writeHst s).mbx = s.mbx := by
  unfold writeHst; (try dsimp only); repeat' (first | with_reducible rfl | (simp; done) | split)
@[simp] theorem writeHst_d2d (s : State) : (writeHst s).d2d = s.d2d := by
  unfold writeHst; (try dsimp only); repeat' (first | with_reducible rfl | (simp; done) | split)
@[simp] theorem writeHst_mem (s : State) : (writeHst s).mem = s.mem := by
  unfold writeHst; (try dsimp only); repeat' (first | with_reducible rfl | (simp; done) | split)
@[simp] theorem writeHst_hostMem (s : State) : (writeHst s).hostMem = s.hostMem := by
  unfold writeHst; (try dsimp only); repeat' (first | with_reducible rfl | (simp; done) | split)
@[simp] theorem writeHst_objs (s : State) : (writeHst s).objs = s.objs := by
  unfold writeHst; (try dsimp only); repeat' (first | with_reducible rfl | (simp; done) | split)
@[simp] theorem writeHst_flash (s : State) : (writeHst s).flash = s.flash := by
  unfold writeHst; (try dsimp only); repeat' (first | with_reducible rfl | (simp; done) | split)
@[simp] theorem writeHst_facets (s : State) : (writeHst s).facets = s.facets := by
  unfold writeHst; (try dsimp only); repeat' (first | with_reducible rfl | (simp; done) | split)
@[simp] theorem writeHst_mesh (s : State) : (writeHst s).mesh = s.mesh := by
  unfold writeHst; (try dsimp only); repeat' (first | with_reducible rfl | (simp; done) | split)
@[simp] theorem writeHst_sectors (s : State) : (writeHst s).sectors = s.sectors := by
  unfold writeHst; (try dsimp only); repeat' (first | with_reducible rfl | (simp; done) | split)
@[simp] theorem writeHst_owners (s : State) : (writeHst s).owners = s.owners := by
  unfold writeHst; (try dsimp only); repeat' (first | with_reducible rfl | (simp; done) | split)
@[simp] theorem writeHst_jobs (s : State) : (writeHst s).jobs = s.jobs := by
  unfold writeHst; (try dsimp only); repeat' (first | with_reducible rfl | (simp; done) | split)
@[simp] theorem writeHst_fabric (s : State) : (writeHst s).fabric = s.fabric := by
  unfold writeHst; (try dsimp only); repeat' (first | with_reducible rfl | (simp; done) | split)
@[simp] theorem writeHst_regions (s : State) : (writeHst s).regions = s.regions := by
  unfold writeHst; (try dsimp only); repeat' (first | with_reducible rfl | (simp; done) | split)
@[simp] theorem writeHst_mgmt (s : State) : (writeHst s).mgmt = s.mgmt := by
  unfold writeHst; (try dsimp only); repeat' (first | with_reducible rfl | (simp; done) | split)
@[simp] theorem writeHst_health (s : State) : (writeHst s).health = s.health := by
  unfold writeHst; (try dsimp only); repeat' (first | with_reducible rfl | (simp; done) | split)
@[simp] theorem writeMemCfg_pending (g : MemConfig → MemConfig) (s : State) : (writeMemCfg g s).pending = s.pending := by
  unfold writeMemCfg; (try dsimp only); repeat' (first | with_reducible rfl | (simp; done) | split)
@[simp] theorem writeMemCfg_out (g : MemConfig → MemConfig) (s : State) : (writeMemCfg g s).out = s.out := by
  unfold writeMemCfg; (try dsimp only); repeat' (first | with_reducible rfl | (simp; done) | split)
@[simp] theorem writeMemCfg_freeIx (g : MemConfig → MemConfig) (s : State) : (writeMemCfg g s).freeIx = s.freeIx := by
  unfold writeMemCfg; (try dsimp only); repeat' (first | with_reducible rfl | (simp; done) | split)
@[simp] theorem writeMemCfg_phase (g : MemConfig → MemConfig) (s : State) : (writeMemCfg g s).phase = s.phase := by
  unfold writeMemCfg; (try dsimp only); repeat' (first | with_reducible rfl | (simp; done) | split)
@[simp] theorem writeMemCfg_srEntry (g : MemConfig → MemConfig) (s : State) : (writeMemCfg g s).srEntry = s.srEntry := by
  unfold writeMemCfg; (try dsimp only); repeat' (first | with_reducible rfl | (simp; done) | split)
@[simp] theorem writeMemCfg_pins (g : MemConfig → MemConfig) (s : State) : (writeMemCfg g s).pins = s.pins := by
  unfold writeMemCfg; (try dsimp only); repeat' (first | with_reducible rfl | (simp; done) | split)
@[simp] theorem writeMemCfg_aon (g : MemConfig → MemConfig) (s : State) : (writeMemCfg g s).aon = s.aon := by
  unfold writeMemCfg; (try dsimp only); repeat' (first | with_reducible rfl | (simp; done) | split)
@[simp] theorem writeMemCfg_smb (g : MemConfig → MemConfig) (s : State) : (writeMemCfg g s).smb = s.smb := by
  unfold writeMemCfg; (try dsimp only); repeat' (first | with_reducible rfl | (simp; done) | split)
@[simp] theorem writeMemCfg_sec (g : MemConfig → MemConfig) (s : State) : (writeMemCfg g s).sec = s.sec := by
  unfold writeMemCfg; (try dsimp only); repeat' (first | with_reducible rfl | (simp; done) | split)
@[simp] theorem writeMemCfg_mbx (g : MemConfig → MemConfig) (s : State) : (writeMemCfg g s).mbx = s.mbx := by
  unfold writeMemCfg; (try dsimp only); repeat' (first | with_reducible rfl | (simp; done) | split)
@[simp] theorem writeMemCfg_d2d (g : MemConfig → MemConfig) (s : State) : (writeMemCfg g s).d2d = s.d2d := by
  unfold writeMemCfg; (try dsimp only); repeat' (first | with_reducible rfl | (simp; done) | split)
@[simp] theorem writeMemCfg_mem (g : MemConfig → MemConfig) (s : State) : (writeMemCfg g s).mem = s.mem := by
  unfold writeMemCfg; (try dsimp only); repeat' (first | with_reducible rfl | (simp; done) | split)
@[simp] theorem writeMemCfg_hostMem (g : MemConfig → MemConfig) (s : State) : (writeMemCfg g s).hostMem = s.hostMem := by
  unfold writeMemCfg; (try dsimp only); repeat' (first | with_reducible rfl | (simp; done) | split)
@[simp] theorem writeMemCfg_objs (g : MemConfig → MemConfig) (s : State) : (writeMemCfg g s).objs = s.objs := by
  unfold writeMemCfg; (try dsimp only); repeat' (first | with_reducible rfl | (simp; done) | split)
@[simp] theorem writeMemCfg_flash (g : MemConfig → MemConfig) (s : State) : (writeMemCfg g s).flash = s.flash := by
  unfold writeMemCfg; (try dsimp only); repeat' (first | with_reducible rfl | (simp; done) | split)
@[simp] theorem writeMemCfg_facets (g : MemConfig → MemConfig) (s : State) : (writeMemCfg g s).facets = s.facets := by
  unfold writeMemCfg; (try dsimp only); repeat' (first | with_reducible rfl | (simp; done) | split)
@[simp] theorem writeMemCfg_mesh (g : MemConfig → MemConfig) (s : State) : (writeMemCfg g s).mesh = s.mesh := by
  unfold writeMemCfg; (try dsimp only); repeat' (first | with_reducible rfl | (simp; done) | split)
@[simp] theorem writeMemCfg_sectors (g : MemConfig → MemConfig) (s : State) : (writeMemCfg g s).sectors = s.sectors := by
  unfold writeMemCfg; (try dsimp only); repeat' (first | with_reducible rfl | (simp; done) | split)
@[simp] theorem writeMemCfg_owners (g : MemConfig → MemConfig) (s : State) : (writeMemCfg g s).owners = s.owners := by
  unfold writeMemCfg; (try dsimp only); repeat' (first | with_reducible rfl | (simp; done) | split)
@[simp] theorem writeMemCfg_jobs (g : MemConfig → MemConfig) (s : State) : (writeMemCfg g s).jobs = s.jobs := by
  unfold writeMemCfg; (try dsimp only); repeat' (first | with_reducible rfl | (simp; done) | split)
@[simp] theorem writeMemCfg_fabric (g : MemConfig → MemConfig) (s : State) : (writeMemCfg g s).fabric = s.fabric := by
  unfold writeMemCfg; (try dsimp only); repeat' (first | with_reducible rfl | (simp; done) | split)
@[simp] theorem writeMemCfg_regions (g : MemConfig → MemConfig) (s : State) : (writeMemCfg g s).regions = s.regions := by
  unfold writeMemCfg; (try dsimp only); repeat' (first | with_reducible rfl | (simp; done) | split)
@[simp] theorem writeMemCfg_mgmt (g : MemConfig → MemConfig) (s : State) : (writeMemCfg g s).mgmt = s.mgmt := by
  unfold writeMemCfg; (try dsimp only); repeat' (first | with_reducible rfl | (simp; done) | split)
@[simp] theorem writeMemCfg_health (g : MemConfig → MemConfig) (s : State) : (writeMemCfg g s).health = s.health := by
  unfold writeMemCfg; (try dsimp only); repeat' (first | with_reducible rfl | (simp; done) | split)
@[simp] theorem writeDir_pending (g : WarmDir → WarmDir) (s : State) : (writeDir g s).pending = s.pending := by
  unfold writeDir; (try dsimp only); repeat' (first | with_reducible rfl | (simp; done) | split)
@[simp] theorem writeDir_out (g : WarmDir → WarmDir) (s : State) : (writeDir g s).out = s.out := by
  unfold writeDir; (try dsimp only); repeat' (first | with_reducible rfl | (simp; done) | split)
@[simp] theorem writeDir_freeIx (g : WarmDir → WarmDir) (s : State) : (writeDir g s).freeIx = s.freeIx := by
  unfold writeDir; (try dsimp only); repeat' (first | with_reducible rfl | (simp; done) | split)
@[simp] theorem writeDir_phase (g : WarmDir → WarmDir) (s : State) : (writeDir g s).phase = s.phase := by
  unfold writeDir; (try dsimp only); repeat' (first | with_reducible rfl | (simp; done) | split)
@[simp] theorem writeDir_srEntry (g : WarmDir → WarmDir) (s : State) : (writeDir g s).srEntry = s.srEntry := by
  unfold writeDir; (try dsimp only); repeat' (first | with_reducible rfl | (simp; done) | split)
@[simp] theorem writeDir_pins (g : WarmDir → WarmDir) (s : State) : (writeDir g s).pins = s.pins := by
  unfold writeDir; (try dsimp only); repeat' (first | with_reducible rfl | (simp; done) | split)
@[simp] theorem writeDir_aon (g : WarmDir → WarmDir) (s : State) : (writeDir g s).aon = s.aon := by
  unfold writeDir; (try dsimp only); repeat' (first | with_reducible rfl | (simp; done) | split)
@[simp] theorem writeDir_smb (g : WarmDir → WarmDir) (s : State) : (writeDir g s).smb = s.smb := by
  unfold writeDir; (try dsimp only); repeat' (first | with_reducible rfl | (simp; done) | split)
@[simp] theorem writeDir_sec (g : WarmDir → WarmDir) (s : State) : (writeDir g s).sec = s.sec := by
  unfold writeDir; (try dsimp only); repeat' (first | with_reducible rfl | (simp; done) | split)
@[simp] theorem writeDir_mbx (g : WarmDir → WarmDir) (s : State) : (writeDir g s).mbx = s.mbx := by
  unfold writeDir; (try dsimp only); repeat' (first | with_reducible rfl | (simp; done) | split)
@[simp] theorem writeDir_d2d (g : WarmDir → WarmDir) (s : State) : (writeDir g s).d2d = s.d2d := by
  unfold writeDir; (try dsimp only); repeat' (first | with_reducible rfl | (simp; done) | split)
@[simp] theorem writeDir_mem (g : WarmDir → WarmDir) (s : State) : (writeDir g s).mem = s.mem := by
  unfold writeDir; (try dsimp only); repeat' (first | with_reducible rfl | (simp; done) | split)
@[simp] theorem writeDir_hostMem (g : WarmDir → WarmDir) (s : State) : (writeDir g s).hostMem = s.hostMem := by
  unfold writeDir; (try dsimp only); repeat' (first | with_reducible rfl | (simp; done) | split)
@[simp] theorem writeDir_objs (g : WarmDir → WarmDir) (s : State) : (writeDir g s).objs = s.objs := by
  unfold writeDir; (try dsimp only); repeat' (first | with_reducible rfl | (simp; done) | split)
@[simp] theorem writeDir_flash (g : WarmDir → WarmDir) (s : State) : (writeDir g s).flash = s.flash := by
  unfold writeDir; (try dsimp only); repeat' (first | with_reducible rfl | (simp; done) | split)
@[simp] theorem writeDir_facets (g : WarmDir → WarmDir) (s : State) : (writeDir g s).facets = s.facets := by
  unfold writeDir; (try dsimp only); repeat' (first | with_reducible rfl | (simp; done) | split)
@[simp] theorem writeDir_mesh (g : WarmDir → WarmDir) (s : State) : (writeDir g s).mesh = s.mesh := by
  unfold writeDir; (try dsimp only); repeat' (first | with_reducible rfl | (simp; done) | split)
@[simp] theorem writeDir_sectors (g : WarmDir → WarmDir) (s : State) : (writeDir g s).sectors = s.sectors := by
  unfold writeDir; (try dsimp only); repeat' (first | with_reducible rfl | (simp; done) | split)
@[simp] theorem writeDir_owners (g : WarmDir → WarmDir) (s : State) : (writeDir g s).owners = s.owners := by
  unfold writeDir; (try dsimp only); repeat' (first | with_reducible rfl | (simp; done) | split)
@[simp] theorem writeDir_jobs (g : WarmDir → WarmDir) (s : State) : (writeDir g s).jobs = s.jobs := by
  unfold writeDir; (try dsimp only); repeat' (first | with_reducible rfl | (simp; done) | split)
@[simp] theorem writeDir_fabric (g : WarmDir → WarmDir) (s : State) : (writeDir g s).fabric = s.fabric := by
  unfold writeDir; (try dsimp only); repeat' (first | with_reducible rfl | (simp; done) | split)
@[simp] theorem writeDir_regions (g : WarmDir → WarmDir) (s : State) : (writeDir g s).regions = s.regions := by
  unfold writeDir; (try dsimp only); repeat' (first | with_reducible rfl | (simp; done) | split)
@[simp] theorem writeDir_mgmt (g : WarmDir → WarmDir) (s : State) : (writeDir g s).mgmt = s.mgmt := by
  unfold writeDir; (try dsimp only); repeat' (first | with_reducible rfl | (simp; done) | split)
@[simp] theorem writeDir_health (g : WarmDir → WarmDir) (s : State) : (writeDir g s).health = s.health := by
  unfold writeDir; (try dsimp only); repeat' (first | with_reducible rfl | (simp; done) | split)
@[simp] theorem writeSaved_pending (n : Fin 4) (g : SavedParams → SavedParams) (s : State) : (writeSaved n g s).pending = s.pending := by
  unfold writeSaved; (try dsimp only); repeat' (first | with_reducible rfl | (simp; done) | split)
@[simp] theorem writeSaved_out (n : Fin 4) (g : SavedParams → SavedParams) (s : State) : (writeSaved n g s).out = s.out := by
  unfold writeSaved; (try dsimp only); repeat' (first | with_reducible rfl | (simp; done) | split)
@[simp] theorem writeSaved_freeIx (n : Fin 4) (g : SavedParams → SavedParams) (s : State) : (writeSaved n g s).freeIx = s.freeIx := by
  unfold writeSaved; (try dsimp only); repeat' (first | with_reducible rfl | (simp; done) | split)
@[simp] theorem writeSaved_phase (n : Fin 4) (g : SavedParams → SavedParams) (s : State) : (writeSaved n g s).phase = s.phase := by
  unfold writeSaved; (try dsimp only); repeat' (first | with_reducible rfl | (simp; done) | split)
@[simp] theorem writeSaved_srEntry (n : Fin 4) (g : SavedParams → SavedParams) (s : State) : (writeSaved n g s).srEntry = s.srEntry := by
  unfold writeSaved; (try dsimp only); repeat' (first | with_reducible rfl | (simp; done) | split)
@[simp] theorem writeSaved_pins (n : Fin 4) (g : SavedParams → SavedParams) (s : State) : (writeSaved n g s).pins = s.pins := by
  unfold writeSaved; (try dsimp only); repeat' (first | with_reducible rfl | (simp; done) | split)
@[simp] theorem writeSaved_aon (n : Fin 4) (g : SavedParams → SavedParams) (s : State) : (writeSaved n g s).aon = s.aon := by
  unfold writeSaved; (try dsimp only); repeat' (first | with_reducible rfl | (simp; done) | split)
@[simp] theorem writeSaved_smb (n : Fin 4) (g : SavedParams → SavedParams) (s : State) : (writeSaved n g s).smb = s.smb := by
  unfold writeSaved; (try dsimp only); repeat' (first | with_reducible rfl | (simp; done) | split)
@[simp] theorem writeSaved_sec (n : Fin 4) (g : SavedParams → SavedParams) (s : State) : (writeSaved n g s).sec = s.sec := by
  unfold writeSaved; (try dsimp only); repeat' (first | with_reducible rfl | (simp; done) | split)
@[simp] theorem writeSaved_mbx (n : Fin 4) (g : SavedParams → SavedParams) (s : State) : (writeSaved n g s).mbx = s.mbx := by
  unfold writeSaved; (try dsimp only); repeat' (first | with_reducible rfl | (simp; done) | split)
@[simp] theorem writeSaved_d2d (n : Fin 4) (g : SavedParams → SavedParams) (s : State) : (writeSaved n g s).d2d = s.d2d := by
  unfold writeSaved; (try dsimp only); repeat' (first | with_reducible rfl | (simp; done) | split)
@[simp] theorem writeSaved_mem (n : Fin 4) (g : SavedParams → SavedParams) (s : State) : (writeSaved n g s).mem = s.mem := by
  unfold writeSaved; (try dsimp only); repeat' (first | with_reducible rfl | (simp; done) | split)
@[simp] theorem writeSaved_hostMem (n : Fin 4) (g : SavedParams → SavedParams) (s : State) : (writeSaved n g s).hostMem = s.hostMem := by
  unfold writeSaved; (try dsimp only); repeat' (first | with_reducible rfl | (simp; done) | split)
@[simp] theorem writeSaved_objs (n : Fin 4) (g : SavedParams → SavedParams) (s : State) : (writeSaved n g s).objs = s.objs := by
  unfold writeSaved; (try dsimp only); repeat' (first | with_reducible rfl | (simp; done) | split)
@[simp] theorem writeSaved_flash (n : Fin 4) (g : SavedParams → SavedParams) (s : State) : (writeSaved n g s).flash = s.flash := by
  unfold writeSaved; (try dsimp only); repeat' (first | with_reducible rfl | (simp; done) | split)
@[simp] theorem writeSaved_facets (n : Fin 4) (g : SavedParams → SavedParams) (s : State) : (writeSaved n g s).facets = s.facets := by
  unfold writeSaved; (try dsimp only); repeat' (first | with_reducible rfl | (simp; done) | split)
@[simp] theorem writeSaved_mesh (n : Fin 4) (g : SavedParams → SavedParams) (s : State) : (writeSaved n g s).mesh = s.mesh := by
  unfold writeSaved; (try dsimp only); repeat' (first | with_reducible rfl | (simp; done) | split)
@[simp] theorem writeSaved_sectors (n : Fin 4) (g : SavedParams → SavedParams) (s : State) : (writeSaved n g s).sectors = s.sectors := by
  unfold writeSaved; (try dsimp only); repeat' (first | with_reducible rfl | (simp; done) | split)
@[simp] theorem writeSaved_owners (n : Fin 4) (g : SavedParams → SavedParams) (s : State) : (writeSaved n g s).owners = s.owners := by
  unfold writeSaved; (try dsimp only); repeat' (first | with_reducible rfl | (simp; done) | split)
@[simp] theorem writeSaved_jobs (n : Fin 4) (g : SavedParams → SavedParams) (s : State) : (writeSaved n g s).jobs = s.jobs := by
  unfold writeSaved; (try dsimp only); repeat' (first | with_reducible rfl | (simp; done) | split)
@[simp] theorem writeSaved_fabric (n : Fin 4) (g : SavedParams → SavedParams) (s : State) : (writeSaved n g s).fabric = s.fabric := by
  unfold writeSaved; (try dsimp only); repeat' (first | with_reducible rfl | (simp; done) | split)
@[simp] theorem writeSaved_regions (n : Fin 4) (g : SavedParams → SavedParams) (s : State) : (writeSaved n g s).regions = s.regions := by
  unfold writeSaved; (try dsimp only); repeat' (first | with_reducible rfl | (simp; done) | split)
@[simp] theorem writeSaved_mgmt (n : Fin 4) (g : SavedParams → SavedParams) (s : State) : (writeSaved n g s).mgmt = s.mgmt := by
  unfold writeSaved; (try dsimp only); repeat' (first | with_reducible rfl | (simp; done) | split)
@[simp] theorem writeSaved_health (n : Fin 4) (g : SavedParams → SavedParams) (s : State) : (writeSaved n g s).health = s.health := by
  unfold writeSaved; (try dsimp only); repeat' (first | with_reducible rfl | (simp; done) | split)
@[simp] theorem evidence_pending (c n : Nat) (s : State) : (evidence c n s).pending = s.pending := by
  unfold evidence; (try dsimp only); repeat' (first | with_reducible rfl | (simp; done) | split)
@[simp] theorem evidence_out (c n : Nat) (s : State) : (evidence c n s).out = s.out := by
  unfold evidence; (try dsimp only); repeat' (first | with_reducible rfl | (simp; done) | split)
@[simp] theorem evidence_freeIx (c n : Nat) (s : State) : (evidence c n s).freeIx = s.freeIx := by
  unfold evidence; (try dsimp only); repeat' (first | with_reducible rfl | (simp; done) | split)
@[simp] theorem evidence_phase (c n : Nat) (s : State) : (evidence c n s).phase = s.phase := by
  unfold evidence; (try dsimp only); repeat' (first | with_reducible rfl | (simp; done) | split)
@[simp] theorem evidence_srEntry (c n : Nat) (s : State) : (evidence c n s).srEntry = s.srEntry := by
  unfold evidence; (try dsimp only); repeat' (first | with_reducible rfl | (simp; done) | split)
@[simp] theorem evidence_pins (c n : Nat) (s : State) : (evidence c n s).pins = s.pins := by
  unfold evidence; (try dsimp only); repeat' (first | with_reducible rfl | (simp; done) | split)
@[simp] theorem evidence_aon (c n : Nat) (s : State) : (evidence c n s).aon = s.aon := by
  unfold evidence; (try dsimp only); repeat' (first | with_reducible rfl | (simp; done) | split)
@[simp] theorem evidence_smb (c n : Nat) (s : State) : (evidence c n s).smb = s.smb := by
  unfold evidence; (try dsimp only); repeat' (first | with_reducible rfl | (simp; done) | split)
@[simp] theorem evidence_sec (c n : Nat) (s : State) : (evidence c n s).sec = s.sec := by
  unfold evidence; (try dsimp only); repeat' (first | with_reducible rfl | (simp; done) | split)
@[simp] theorem evidence_mbx (c n : Nat) (s : State) : (evidence c n s).mbx = s.mbx := by
  unfold evidence; (try dsimp only); repeat' (first | with_reducible rfl | (simp; done) | split)
@[simp] theorem evidence_d2d (c n : Nat) (s : State) : (evidence c n s).d2d = s.d2d := by
  unfold evidence; (try dsimp only); repeat' (first | with_reducible rfl | (simp; done) | split)
@[simp] theorem evidence_mem (c n : Nat) (s : State) : (evidence c n s).mem = s.mem := by
  unfold evidence; (try dsimp only); repeat' (first | with_reducible rfl | (simp; done) | split)
@[simp] theorem evidence_hostMem (c n : Nat) (s : State) : (evidence c n s).hostMem = s.hostMem := by
  unfold evidence; (try dsimp only); repeat' (first | with_reducible rfl | (simp; done) | split)
@[simp] theorem evidence_objs (c n : Nat) (s : State) : (evidence c n s).objs = s.objs := by
  unfold evidence; (try dsimp only); repeat' (first | with_reducible rfl | (simp; done) | split)
@[simp] theorem evidence_flash (c n : Nat) (s : State) : (evidence c n s).flash = s.flash := by
  unfold evidence; (try dsimp only); repeat' (first | with_reducible rfl | (simp; done) | split)
@[simp] theorem evidence_facets (c n : Nat) (s : State) : (evidence c n s).facets = s.facets := by
  unfold evidence; (try dsimp only); repeat' (first | with_reducible rfl | (simp; done) | split)
@[simp] theorem evidence_mesh (c n : Nat) (s : State) : (evidence c n s).mesh = s.mesh := by
  unfold evidence; (try dsimp only); repeat' (first | with_reducible rfl | (simp; done) | split)
@[simp] theorem evidence_sectors (c n : Nat) (s : State) : (evidence c n s).sectors = s.sectors := by
  unfold evidence; (try dsimp only); repeat' (first | with_reducible rfl | (simp; done) | split)
@[simp] theorem evidence_owners (c n : Nat) (s : State) : (evidence c n s).owners = s.owners := by
  unfold evidence; (try dsimp only); repeat' (first | with_reducible rfl | (simp; done) | split)
@[simp] theorem evidence_jobs (c n : Nat) (s : State) : (evidence c n s).jobs = s.jobs := by
  unfold evidence; (try dsimp only); repeat' (first | with_reducible rfl | (simp; done) | split)
@[simp] theorem evidence_fabric (c n : Nat) (s : State) : (evidence c n s).fabric = s.fabric := by
  unfold evidence; (try dsimp only); repeat' (first | with_reducible rfl | (simp; done) | split)
@[simp] theorem evidence_regions (c n : Nat) (s : State) : (evidence c n s).regions = s.regions := by
  unfold evidence; (try dsimp only); repeat' (first | with_reducible rfl | (simp; done) | split)
@[simp] theorem evidence_mgmt (c n : Nat) (s : State) : (evidence c n s).mgmt = s.mgmt := by
  unfold evidence; (try dsimp only); repeat' (first | with_reducible rfl | (simp; done) | split)
@[simp] theorem counter_pending (i n : Nat) (s : State) : (counter i n s).pending = s.pending := by
  unfold counter; (try dsimp only); repeat' (first | with_reducible rfl | (simp; done) | split)
@[simp] theorem counter_out (i n : Nat) (s : State) : (counter i n s).out = s.out := by
  unfold counter; (try dsimp only); repeat' (first | with_reducible rfl | (simp; done) | split)
@[simp] theorem counter_freeIx (i n : Nat) (s : State) : (counter i n s).freeIx = s.freeIx := by
  unfold counter; (try dsimp only); repeat' (first | with_reducible rfl | (simp; done) | split)
@[simp] theorem counter_phase (i n : Nat) (s : State) : (counter i n s).phase = s.phase := by
  unfold counter; (try dsimp only); repeat' (first | with_reducible rfl | (simp; done) | split)
@[simp] theorem counter_srEntry (i n : Nat) (s : State) : (counter i n s).srEntry = s.srEntry := by
  unfold counter; (try dsimp only); repeat' (first | with_reducible rfl | (simp; done) | split)
@[simp] theorem counter_pins (i n : Nat) (s : State) : (counter i n s).pins = s.pins := by
  unfold counter; (try dsimp only); repeat' (first | with_reducible rfl | (simp; done) | split)
@[simp] theorem counter_aon (i n : Nat) (s : State) : (counter i n s).aon = s.aon := by
  unfold counter; (try dsimp only); repeat' (first | with_reducible rfl | (simp; done) | split)
@[simp] theorem counter_smb (i n : Nat) (s : State) : (counter i n s).smb = s.smb := by
  unfold counter; (try dsimp only); repeat' (first | with_reducible rfl | (simp; done) | split)
@[simp] theorem counter_jrn (i n : Nat) (s : State) : (counter i n s).jrn = s.jrn := by
  unfold counter; (try dsimp only); repeat' (first | with_reducible rfl | (simp; done) | split)
@[simp] theorem counter_sec (i n : Nat) (s : State) : (counter i n s).sec = s.sec := by
  unfold counter; (try dsimp only); repeat' (first | with_reducible rfl | (simp; done) | split)
@[simp] theorem counter_mbx (i n : Nat) (s : State) : (counter i n s).mbx = s.mbx := by
  unfold counter; (try dsimp only); repeat' (first | with_reducible rfl | (simp; done) | split)
@[simp] theorem counter_d2d (i n : Nat) (s : State) : (counter i n s).d2d = s.d2d := by
  unfold counter; (try dsimp only); repeat' (first | with_reducible rfl | (simp; done) | split)
@[simp] theorem counter_mem (i n : Nat) (s : State) : (counter i n s).mem = s.mem := by
  unfold counter; (try dsimp only); repeat' (first | with_reducible rfl | (simp; done) | split)
@[simp] theorem counter_hostMem (i n : Nat) (s : State) : (counter i n s).hostMem = s.hostMem := by
  unfold counter; (try dsimp only); repeat' (first | with_reducible rfl | (simp; done) | split)
@[simp] theorem counter_objs (i n : Nat) (s : State) : (counter i n s).objs = s.objs := by
  unfold counter; (try dsimp only); repeat' (first | with_reducible rfl | (simp; done) | split)
@[simp] theorem counter_flash (i n : Nat) (s : State) : (counter i n s).flash = s.flash := by
  unfold counter; (try dsimp only); repeat' (first | with_reducible rfl | (simp; done) | split)
@[simp] theorem counter_facets (i n : Nat) (s : State) : (counter i n s).facets = s.facets := by
  unfold counter; (try dsimp only); repeat' (first | with_reducible rfl | (simp; done) | split)
@[simp] theorem counter_mesh (i n : Nat) (s : State) : (counter i n s).mesh = s.mesh := by
  unfold counter; (try dsimp only); repeat' (first | with_reducible rfl | (simp; done) | split)
@[simp] theorem counter_sectors (i n : Nat) (s : State) : (counter i n s).sectors = s.sectors := by
  unfold counter; (try dsimp only); repeat' (first | with_reducible rfl | (simp; done) | split)
@[simp] theorem counter_owners (i n : Nat) (s : State) : (counter i n s).owners = s.owners := by
  unfold counter; (try dsimp only); repeat' (first | with_reducible rfl | (simp; done) | split)
@[simp] theorem counter_jobs (i n : Nat) (s : State) : (counter i n s).jobs = s.jobs := by
  unfold counter; (try dsimp only); repeat' (first | with_reducible rfl | (simp; done) | split)
@[simp] theorem counter_fabric (i n : Nat) (s : State) : (counter i n s).fabric = s.fabric := by
  unfold counter; (try dsimp only); repeat' (first | with_reducible rfl | (simp; done) | split)
@[simp] theorem counter_regions (i n : Nat) (s : State) : (counter i n s).regions = s.regions := by
  unfold counter; (try dsimp only); repeat' (first | with_reducible rfl | (simp; done) | split)
@[simp] theorem counter_mgmt (i n : Nat) (s : State) : (counter i n s).mgmt = s.mgmt := by
  unfold counter; (try dsimp only); repeat' (first | with_reducible rfl | (simp; done) | split)
@[simp] theorem logHealth_pending (kind : Byte) (unit : Nat) (index : Nat) (info : Nat) (s : State) : (logHealth kind unit index info s).pending = s.pending := by
  unfold logHealth; (try dsimp only); repeat' (first | with_reducible rfl | (simp; done) | split)
@[simp] theorem logHealth_out (kind : Byte) (unit : Nat) (index : Nat) (info : Nat) (s : State) : (logHealth kind unit index info s).out = s.out := by
  unfold logHealth; (try dsimp only); repeat' (first | with_reducible rfl | (simp; done) | split)
@[simp] theorem logHealth_freeIx (kind : Byte) (unit : Nat) (index : Nat) (info : Nat) (s : State) : (logHealth kind unit index info s).freeIx = s.freeIx := by
  unfold logHealth; (try dsimp only); repeat' (first | with_reducible rfl | (simp; done) | split)
@[simp] theorem logHealth_phase (kind : Byte) (unit : Nat) (index : Nat) (info : Nat) (s : State) : (logHealth kind unit index info s).phase = s.phase := by
  unfold logHealth; (try dsimp only); repeat' (first | with_reducible rfl | (simp; done) | split)
@[simp] theorem logHealth_srEntry (kind : Byte) (unit : Nat) (index : Nat) (info : Nat) (s : State) : (logHealth kind unit index info s).srEntry = s.srEntry := by
  unfold logHealth; (try dsimp only); repeat' (first | with_reducible rfl | (simp; done) | split)
@[simp] theorem logHealth_pins (kind : Byte) (unit : Nat) (index : Nat) (info : Nat) (s : State) : (logHealth kind unit index info s).pins = s.pins := by
  unfold logHealth; (try dsimp only); repeat' (first | with_reducible rfl | (simp; done) | split)
@[simp] theorem logHealth_aon (kind : Byte) (unit : Nat) (index : Nat) (info : Nat) (s : State) : (logHealth kind unit index info s).aon = s.aon := by
  unfold logHealth; (try dsimp only); repeat' (first | with_reducible rfl | (simp; done) | split)
@[simp] theorem logHealth_smb (kind : Byte) (unit : Nat) (index : Nat) (info : Nat) (s : State) : (logHealth kind unit index info s).smb = s.smb := by
  unfold logHealth; (try dsimp only); repeat' (first | with_reducible rfl | (simp; done) | split)
@[simp] theorem logHealth_jrn (kind : Byte) (unit : Nat) (index : Nat) (info : Nat) (s : State) : (logHealth kind unit index info s).jrn = s.jrn := by
  unfold logHealth; (try dsimp only); repeat' (first | with_reducible rfl | (simp; done) | split)
@[simp] theorem logHealth_sec (kind : Byte) (unit : Nat) (index : Nat) (info : Nat) (s : State) : (logHealth kind unit index info s).sec = s.sec := by
  unfold logHealth; (try dsimp only); repeat' (first | with_reducible rfl | (simp; done) | split)
@[simp] theorem logHealth_mbx (kind : Byte) (unit : Nat) (index : Nat) (info : Nat) (s : State) : (logHealth kind unit index info s).mbx = s.mbx := by
  unfold logHealth; (try dsimp only); repeat' (first | with_reducible rfl | (simp; done) | split)
@[simp] theorem logHealth_d2d (kind : Byte) (unit : Nat) (index : Nat) (info : Nat) (s : State) : (logHealth kind unit index info s).d2d = s.d2d := by
  unfold logHealth; (try dsimp only); repeat' (first | with_reducible rfl | (simp; done) | split)
@[simp] theorem logHealth_mem (kind : Byte) (unit : Nat) (index : Nat) (info : Nat) (s : State) : (logHealth kind unit index info s).mem = s.mem := by
  unfold logHealth; (try dsimp only); repeat' (first | with_reducible rfl | (simp; done) | split)
@[simp] theorem logHealth_hostMem (kind : Byte) (unit : Nat) (index : Nat) (info : Nat) (s : State) : (logHealth kind unit index info s).hostMem = s.hostMem := by
  unfold logHealth; (try dsimp only); repeat' (first | with_reducible rfl | (simp; done) | split)
@[simp] theorem logHealth_objs (kind : Byte) (unit : Nat) (index : Nat) (info : Nat) (s : State) : (logHealth kind unit index info s).objs = s.objs := by
  unfold logHealth; (try dsimp only); repeat' (first | with_reducible rfl | (simp; done) | split)
@[simp] theorem logHealth_flash (kind : Byte) (unit : Nat) (index : Nat) (info : Nat) (s : State) : (logHealth kind unit index info s).flash = s.flash := by
  unfold logHealth; (try dsimp only); repeat' (first | with_reducible rfl | (simp; done) | split)
@[simp] theorem logHealth_facets (kind : Byte) (unit : Nat) (index : Nat) (info : Nat) (s : State) : (logHealth kind unit index info s).facets = s.facets := by
  unfold logHealth; (try dsimp only); repeat' (first | with_reducible rfl | (simp; done) | split)
@[simp] theorem logHealth_mesh (kind : Byte) (unit : Nat) (index : Nat) (info : Nat) (s : State) : (logHealth kind unit index info s).mesh = s.mesh := by
  unfold logHealth; (try dsimp only); repeat' (first | with_reducible rfl | (simp; done) | split)
@[simp] theorem logHealth_sectors (kind : Byte) (unit : Nat) (index : Nat) (info : Nat) (s : State) : (logHealth kind unit index info s).sectors = s.sectors := by
  unfold logHealth; (try dsimp only); repeat' (first | with_reducible rfl | (simp; done) | split)
@[simp] theorem logHealth_owners (kind : Byte) (unit : Nat) (index : Nat) (info : Nat) (s : State) : (logHealth kind unit index info s).owners = s.owners := by
  unfold logHealth; (try dsimp only); repeat' (first | with_reducible rfl | (simp; done) | split)
@[simp] theorem logHealth_jobs (kind : Byte) (unit : Nat) (index : Nat) (info : Nat) (s : State) : (logHealth kind unit index info s).jobs = s.jobs := by
  unfold logHealth; (try dsimp only); repeat' (first | with_reducible rfl | (simp; done) | split)
@[simp] theorem logHealth_fabric (kind : Byte) (unit : Nat) (index : Nat) (info : Nat) (s : State) : (logHealth kind unit index info s).fabric = s.fabric := by
  unfold logHealth; (try dsimp only); repeat' (first | with_reducible rfl | (simp; done) | split)
@[simp] theorem logHealth_regions (kind : Byte) (unit : Nat) (index : Nat) (info : Nat) (s : State) : (logHealth kind unit index info s).regions = s.regions := by
  unfold logHealth; (try dsimp only); repeat' (first | with_reducible rfl | (simp; done) | split)
@[simp] theorem logHealth_mgmt (kind : Byte) (unit : Nat) (index : Nat) (info : Nat) (s : State) : (logHealth kind unit index info s).mgmt = s.mgmt := by
  unfold logHealth; (try dsimp only); repeat' (first | with_reducible rfl | (simp; done) | split)
@[simp] theorem logReh_pending (r : RehRec) (s : State) : (logReh r s).pending = s.pending := by
  unfold logReh; (try dsimp only); repeat' (first | with_reducible rfl | (simp; done) | split)
@[simp] theorem logReh_out (r : RehRec) (s : State) : (logReh r s).out = s.out := by
  unfold logReh; (try dsimp only); repeat' (first | with_reducible rfl | (simp; done) | split)
@[simp] theorem logReh_freeIx (r : RehRec) (s : State) : (logReh r s).freeIx = s.freeIx := by
  unfold logReh; (try dsimp only); repeat' (first | with_reducible rfl | (simp; done) | split)
@[simp] theorem logReh_phase (r : RehRec) (s : State) : (logReh r s).phase = s.phase := by
  unfold logReh; (try dsimp only); repeat' (first | with_reducible rfl | (simp; done) | split)
@[simp] theorem logReh_srEntry (r : RehRec) (s : State) : (logReh r s).srEntry = s.srEntry := by
  unfold logReh; (try dsimp only); repeat' (first | with_reducible rfl | (simp; done) | split)
@[simp] theorem logReh_pins (r : RehRec) (s : State) : (logReh r s).pins = s.pins := by
  unfold logReh; (try dsimp only); repeat' (first | with_reducible rfl | (simp; done) | split)
@[simp] theorem logReh_aon (r : RehRec) (s : State) : (logReh r s).aon = s.aon := by
  unfold logReh; (try dsimp only); repeat' (first | with_reducible rfl | (simp; done) | split)
@[simp] theorem logReh_smb (r : RehRec) (s : State) : (logReh r s).smb = s.smb := by
  unfold logReh; (try dsimp only); repeat' (first | with_reducible rfl | (simp; done) | split)
@[simp] theorem logReh_jrn (r : RehRec) (s : State) : (logReh r s).jrn = s.jrn := by
  unfold logReh; (try dsimp only); repeat' (first | with_reducible rfl | (simp; done) | split)
@[simp] theorem logReh_sec (r : RehRec) (s : State) : (logReh r s).sec = s.sec := by
  unfold logReh; (try dsimp only); repeat' (first | with_reducible rfl | (simp; done) | split)
@[simp] theorem logReh_mbx (r : RehRec) (s : State) : (logReh r s).mbx = s.mbx := by
  unfold logReh; (try dsimp only); repeat' (first | with_reducible rfl | (simp; done) | split)
@[simp] theorem logReh_d2d (r : RehRec) (s : State) : (logReh r s).d2d = s.d2d := by
  unfold logReh; (try dsimp only); repeat' (first | with_reducible rfl | (simp; done) | split)
@[simp] theorem logReh_mem (r : RehRec) (s : State) : (logReh r s).mem = s.mem := by
  unfold logReh; (try dsimp only); repeat' (first | with_reducible rfl | (simp; done) | split)
@[simp] theorem logReh_hostMem (r : RehRec) (s : State) : (logReh r s).hostMem = s.hostMem := by
  unfold logReh; (try dsimp only); repeat' (first | with_reducible rfl | (simp; done) | split)
@[simp] theorem logReh_objs (r : RehRec) (s : State) : (logReh r s).objs = s.objs := by
  unfold logReh; (try dsimp only); repeat' (first | with_reducible rfl | (simp; done) | split)
@[simp] theorem logReh_flash (r : RehRec) (s : State) : (logReh r s).flash = s.flash := by
  unfold logReh; (try dsimp only); repeat' (first | with_reducible rfl | (simp; done) | split)
@[simp] theorem logReh_facets (r : RehRec) (s : State) : (logReh r s).facets = s.facets := by
  unfold logReh; (try dsimp only); repeat' (first | with_reducible rfl | (simp; done) | split)
@[simp] theorem logReh_mesh (r : RehRec) (s : State) : (logReh r s).mesh = s.mesh := by
  unfold logReh; (try dsimp only); repeat' (first | with_reducible rfl | (simp; done) | split)
@[simp] theorem logReh_sectors (r : RehRec) (s : State) : (logReh r s).sectors = s.sectors := by
  unfold logReh; (try dsimp only); repeat' (first | with_reducible rfl | (simp; done) | split)
@[simp] theorem logReh_owners (r : RehRec) (s : State) : (logReh r s).owners = s.owners := by
  unfold logReh; (try dsimp only); repeat' (first | with_reducible rfl | (simp; done) | split)
@[simp] theorem logReh_jobs (r : RehRec) (s : State) : (logReh r s).jobs = s.jobs := by
  unfold logReh; (try dsimp only); repeat' (first | with_reducible rfl | (simp; done) | split)
@[simp] theorem logReh_fabric (r : RehRec) (s : State) : (logReh r s).fabric = s.fabric := by
  unfold logReh; (try dsimp only); repeat' (first | with_reducible rfl | (simp; done) | split)
@[simp] theorem logReh_regions (r : RehRec) (s : State) : (logReh r s).regions = s.regions := by
  unfold logReh; (try dsimp only); repeat' (first | with_reducible rfl | (simp; done) | split)
@[simp] theorem logReh_mgmt (r : RehRec) (s : State) : (logReh r s).mgmt = s.mgmt := by
  unfold logReh; (try dsimp only); repeat' (first | with_reducible rfl | (simp; done) | split)
@[simp] theorem logMem_pending (kind : Byte) (req : Byte) (dpa : Nat) (hasSector : Bool) (sym : Nat) (s : State) : (logMem kind req dpa hasSector sym s).pending = s.pending := by
  unfold logMem; (try dsimp only); repeat' (first | with_reducible rfl | (simp; done) | split)
@[simp] theorem logMem_freeIx (kind : Byte) (req : Byte) (dpa : Nat) (hasSector : Bool) (sym : Nat) (s : State) : (logMem kind req dpa hasSector sym s).freeIx = s.freeIx := by
  unfold logMem; (try dsimp only); repeat' (first | with_reducible rfl | (simp; done) | split)
@[simp] theorem logMem_phase (kind : Byte) (req : Byte) (dpa : Nat) (hasSector : Bool) (sym : Nat) (s : State) : (logMem kind req dpa hasSector sym s).phase = s.phase := by
  unfold logMem; (try dsimp only); repeat' (first | with_reducible rfl | (simp; done) | split)
@[simp] theorem logMem_srEntry (kind : Byte) (req : Byte) (dpa : Nat) (hasSector : Bool) (sym : Nat) (s : State) : (logMem kind req dpa hasSector sym s).srEntry = s.srEntry := by
  unfold logMem; (try dsimp only); repeat' (first | with_reducible rfl | (simp; done) | split)
@[simp] theorem logMem_pins (kind : Byte) (req : Byte) (dpa : Nat) (hasSector : Bool) (sym : Nat) (s : State) : (logMem kind req dpa hasSector sym s).pins = s.pins := by
  unfold logMem; (try dsimp only); repeat' (first | with_reducible rfl | (simp; done) | split)
@[simp] theorem logMem_aon (kind : Byte) (req : Byte) (dpa : Nat) (hasSector : Bool) (sym : Nat) (s : State) : (logMem kind req dpa hasSector sym s).aon = s.aon := by
  unfold logMem; (try dsimp only); repeat' (first | with_reducible rfl | (simp; done) | split)
@[simp] theorem logMem_smb (kind : Byte) (req : Byte) (dpa : Nat) (hasSector : Bool) (sym : Nat) (s : State) : (logMem kind req dpa hasSector sym s).smb = s.smb := by
  unfold logMem; (try dsimp only); repeat' (first | with_reducible rfl | (simp; done) | split)
@[simp] theorem logMem_jrn (kind : Byte) (req : Byte) (dpa : Nat) (hasSector : Bool) (sym : Nat) (s : State) : (logMem kind req dpa hasSector sym s).jrn = s.jrn := by
  unfold logMem; (try dsimp only); repeat' (first | with_reducible rfl | (simp; done) | split)
@[simp] theorem logMem_sec (kind : Byte) (req : Byte) (dpa : Nat) (hasSector : Bool) (sym : Nat) (s : State) : (logMem kind req dpa hasSector sym s).sec = s.sec := by
  unfold logMem; (try dsimp only); repeat' (first | with_reducible rfl | (simp; done) | split)
@[simp] theorem logMem_d2d (kind : Byte) (req : Byte) (dpa : Nat) (hasSector : Bool) (sym : Nat) (s : State) : (logMem kind req dpa hasSector sym s).d2d = s.d2d := by
  unfold logMem; (try dsimp only); repeat' (first | with_reducible rfl | (simp; done) | split)
@[simp] theorem logMem_hostMem (kind : Byte) (req : Byte) (dpa : Nat) (hasSector : Bool) (sym : Nat) (s : State) : (logMem kind req dpa hasSector sym s).hostMem = s.hostMem := by
  unfold logMem; (try dsimp only); repeat' (first | with_reducible rfl | (simp; done) | split)
@[simp] theorem logMem_objs (kind : Byte) (req : Byte) (dpa : Nat) (hasSector : Bool) (sym : Nat) (s : State) : (logMem kind req dpa hasSector sym s).objs = s.objs := by
  unfold logMem; (try dsimp only); repeat' (first | with_reducible rfl | (simp; done) | split)
@[simp] theorem logMem_flash (kind : Byte) (req : Byte) (dpa : Nat) (hasSector : Bool) (sym : Nat) (s : State) : (logMem kind req dpa hasSector sym s).flash = s.flash := by
  unfold logMem; (try dsimp only); repeat' (first | with_reducible rfl | (simp; done) | split)
@[simp] theorem logMem_facets (kind : Byte) (req : Byte) (dpa : Nat) (hasSector : Bool) (sym : Nat) (s : State) : (logMem kind req dpa hasSector sym s).facets = s.facets := by
  unfold logMem; (try dsimp only); repeat' (first | with_reducible rfl | (simp; done) | split)
@[simp] theorem logMem_mesh (kind : Byte) (req : Byte) (dpa : Nat) (hasSector : Bool) (sym : Nat) (s : State) : (logMem kind req dpa hasSector sym s).mesh = s.mesh := by
  unfold logMem; (try dsimp only); repeat' (first | with_reducible rfl | (simp; done) | split)
@[simp] theorem logMem_sectors (kind : Byte) (req : Byte) (dpa : Nat) (hasSector : Bool) (sym : Nat) (s : State) : (logMem kind req dpa hasSector sym s).sectors = s.sectors := by
  unfold logMem; (try dsimp only); repeat' (first | with_reducible rfl | (simp; done) | split)
@[simp] theorem logMem_owners (kind : Byte) (req : Byte) (dpa : Nat) (hasSector : Bool) (sym : Nat) (s : State) : (logMem kind req dpa hasSector sym s).owners = s.owners := by
  unfold logMem; (try dsimp only); repeat' (first | with_reducible rfl | (simp; done) | split)
@[simp] theorem logMem_jobs (kind : Byte) (req : Byte) (dpa : Nat) (hasSector : Bool) (sym : Nat) (s : State) : (logMem kind req dpa hasSector sym s).jobs = s.jobs := by
  unfold logMem; (try dsimp only); repeat' (first | with_reducible rfl | (simp; done) | split)
@[simp] theorem logMem_fabric (kind : Byte) (req : Byte) (dpa : Nat) (hasSector : Bool) (sym : Nat) (s : State) : (logMem kind req dpa hasSector sym s).fabric = s.fabric := by
  unfold logMem; (try dsimp only); repeat' (first | with_reducible rfl | (simp; done) | split)
@[simp] theorem logMem_regions (kind : Byte) (req : Byte) (dpa : Nat) (hasSector : Bool) (sym : Nat) (s : State) : (logMem kind req dpa hasSector sym s).regions = s.regions := by
  unfold logMem; (try dsimp only); repeat' (first | with_reducible rfl | (simp; done) | split)
@[simp] theorem logMem_mgmt (kind : Byte) (req : Byte) (dpa : Nat) (hasSector : Bool) (sym : Nat) (s : State) : (logMem kind req dpa hasSector sym s).mgmt = s.mgmt := by
  unfold logMem; (try dsimp only); repeat' (first | with_reducible rfl | (simp; done) | split)
@[simp] theorem logMem_health (kind : Byte) (req : Byte) (dpa : Nat) (hasSector : Bool) (sym : Nat) (s : State) : (logMem kind req dpa hasSector sym s).health = s.health := by
  unfold logMem; (try dsimp only); repeat' (first | with_reducible rfl | (simp; done) | split)
@[simp] theorem pendPair_pending (k : Nat) (s : State) : (pendPair k s).pending = s.pending := by
  unfold pendPair; (try dsimp only); repeat' (first | with_reducible rfl | (simp; done) | split)
@[simp] theorem pendPair_out (k : Nat) (s : State) : (pendPair k s).out = s.out := by
  unfold pendPair; (try dsimp only); repeat' (first | with_reducible rfl | (simp; done) | split)
@[simp] theorem pendPair_freeIx (k : Nat) (s : State) : (pendPair k s).freeIx = s.freeIx := by
  unfold pendPair; (try dsimp only); repeat' (first | with_reducible rfl | (simp; done) | split)
@[simp] theorem pendPair_phase (k : Nat) (s : State) : (pendPair k s).phase = s.phase := by
  unfold pendPair; (try dsimp only); repeat' (first | with_reducible rfl | (simp; done) | split)
@[simp] theorem pendPair_srEntry (k : Nat) (s : State) : (pendPair k s).srEntry = s.srEntry := by
  unfold pendPair; (try dsimp only); repeat' (first | with_reducible rfl | (simp; done) | split)
@[simp] theorem pendPair_pins (k : Nat) (s : State) : (pendPair k s).pins = s.pins := by
  unfold pendPair; (try dsimp only); repeat' (first | with_reducible rfl | (simp; done) | split)
@[simp] theorem pendPair_aon (k : Nat) (s : State) : (pendPair k s).aon = s.aon := by
  unfold pendPair; (try dsimp only); repeat' (first | with_reducible rfl | (simp; done) | split)
@[simp] theorem pendPair_smb (k : Nat) (s : State) : (pendPair k s).smb = s.smb := by
  unfold pendPair; (try dsimp only); repeat' (first | with_reducible rfl | (simp; done) | split)
@[simp] theorem pendPair_sec (k : Nat) (s : State) : (pendPair k s).sec = s.sec := by
  unfold pendPair; (try dsimp only); repeat' (first | with_reducible rfl | (simp; done) | split)
@[simp] theorem pendPair_mbx (k : Nat) (s : State) : (pendPair k s).mbx = s.mbx := by
  unfold pendPair; (try dsimp only); repeat' (first | with_reducible rfl | (simp; done) | split)
@[simp] theorem pendPair_d2d (k : Nat) (s : State) : (pendPair k s).d2d = s.d2d := by
  unfold pendPair; (try dsimp only); repeat' (first | with_reducible rfl | (simp; done) | split)
@[simp] theorem pendPair_mem (k : Nat) (s : State) : (pendPair k s).mem = s.mem := by
  unfold pendPair; (try dsimp only); repeat' (first | with_reducible rfl | (simp; done) | split)
@[simp] theorem pendPair_hostMem (k : Nat) (s : State) : (pendPair k s).hostMem = s.hostMem := by
  unfold pendPair; (try dsimp only); repeat' (first | with_reducible rfl | (simp; done) | split)
@[simp] theorem pendPair_objs (k : Nat) (s : State) : (pendPair k s).objs = s.objs := by
  unfold pendPair; (try dsimp only); repeat' (first | with_reducible rfl | (simp; done) | split)
@[simp] theorem pendPair_flash (k : Nat) (s : State) : (pendPair k s).flash = s.flash := by
  unfold pendPair; (try dsimp only); repeat' (first | with_reducible rfl | (simp; done) | split)
@[simp] theorem pendPair_facets (k : Nat) (s : State) : (pendPair k s).facets = s.facets := by
  unfold pendPair; (try dsimp only); repeat' (first | with_reducible rfl | (simp; done) | split)
@[simp] theorem pendPair_mesh (k : Nat) (s : State) : (pendPair k s).mesh = s.mesh := by
  unfold pendPair; (try dsimp only); repeat' (first | with_reducible rfl | (simp; done) | split)
@[simp] theorem pendPair_sectors (k : Nat) (s : State) : (pendPair k s).sectors = s.sectors := by
  unfold pendPair; (try dsimp only); repeat' (first | with_reducible rfl | (simp; done) | split)
@[simp] theorem pendPair_owners (k : Nat) (s : State) : (pendPair k s).owners = s.owners := by
  unfold pendPair; (try dsimp only); repeat' (first | with_reducible rfl | (simp; done) | split)
@[simp] theorem pendPair_jobs (k : Nat) (s : State) : (pendPair k s).jobs = s.jobs := by
  unfold pendPair; (try dsimp only); repeat' (first | with_reducible rfl | (simp; done) | split)
@[simp] theorem pendPair_fabric (k : Nat) (s : State) : (pendPair k s).fabric = s.fabric := by
  unfold pendPair; (try dsimp only); repeat' (first | with_reducible rfl | (simp; done) | split)
@[simp] theorem pendPair_regions (k : Nat) (s : State) : (pendPair k s).regions = s.regions := by
  unfold pendPair; (try dsimp only); repeat' (first | with_reducible rfl | (simp; done) | split)
@[simp] theorem pendPair_mgmt (k : Nat) (s : State) : (pendPair k s).mgmt = s.mgmt := by
  unfold pendPair; (try dsimp only); repeat' (first | with_reducible rfl | (simp; done) | split)
@[simp] theorem pairUncorr_pending (k : Nat) (s : State) : (pairUncorr k s).pending = s.pending := by
  unfold pairUncorr; (try dsimp only); repeat' (first | with_reducible rfl | (simp; done) | split)
@[simp] theorem pairUncorr_out (k : Nat) (s : State) : (pairUncorr k s).out = s.out := by
  unfold pairUncorr; (try dsimp only); repeat' (first | with_reducible rfl | (simp; done) | split)
@[simp] theorem pairUncorr_freeIx (k : Nat) (s : State) : (pairUncorr k s).freeIx = s.freeIx := by
  unfold pairUncorr; (try dsimp only); repeat' (first | with_reducible rfl | (simp; done) | split)
@[simp] theorem pairUncorr_phase (k : Nat) (s : State) : (pairUncorr k s).phase = s.phase := by
  unfold pairUncorr; (try dsimp only); repeat' (first | with_reducible rfl | (simp; done) | split)
@[simp] theorem pairUncorr_srEntry (k : Nat) (s : State) : (pairUncorr k s).srEntry = s.srEntry := by
  unfold pairUncorr; (try dsimp only); repeat' (first | with_reducible rfl | (simp; done) | split)
@[simp] theorem pairUncorr_pins (k : Nat) (s : State) : (pairUncorr k s).pins = s.pins := by
  unfold pairUncorr; (try dsimp only); repeat' (first | with_reducible rfl | (simp; done) | split)
@[simp] theorem pairUncorr_aon (k : Nat) (s : State) : (pairUncorr k s).aon = s.aon := by
  unfold pairUncorr; (try dsimp only); repeat' (first | with_reducible rfl | (simp; done) | split)
@[simp] theorem pairUncorr_smb (k : Nat) (s : State) : (pairUncorr k s).smb = s.smb := by
  unfold pairUncorr; (try dsimp only); repeat' (first | with_reducible rfl | (simp; done) | split)
@[simp] theorem pairUncorr_sec (k : Nat) (s : State) : (pairUncorr k s).sec = s.sec := by
  unfold pairUncorr; (try dsimp only); repeat' (first | with_reducible rfl | (simp; done) | split)
@[simp] theorem pairUncorr_mbx (k : Nat) (s : State) : (pairUncorr k s).mbx = s.mbx := by
  unfold pairUncorr; (try dsimp only); repeat' (first | with_reducible rfl | (simp; done) | split)
@[simp] theorem pairUncorr_d2d (k : Nat) (s : State) : (pairUncorr k s).d2d = s.d2d := by
  unfold pairUncorr; (try dsimp only); repeat' (first | with_reducible rfl | (simp; done) | split)
@[simp] theorem pairUncorr_hostMem (k : Nat) (s : State) : (pairUncorr k s).hostMem = s.hostMem := by
  unfold pairUncorr; (try dsimp only); repeat' (first | with_reducible rfl | (simp; done) | split)
@[simp] theorem pairUncorr_objs (k : Nat) (s : State) : (pairUncorr k s).objs = s.objs := by
  unfold pairUncorr; (try dsimp only); repeat' (first | with_reducible rfl | (simp; done) | split)
@[simp] theorem pairUncorr_flash (k : Nat) (s : State) : (pairUncorr k s).flash = s.flash := by
  unfold pairUncorr; (try dsimp only); repeat' (first | with_reducible rfl | (simp; done) | split)
@[simp] theorem pairUncorr_facets (k : Nat) (s : State) : (pairUncorr k s).facets = s.facets := by
  unfold pairUncorr; (try dsimp only); repeat' (first | with_reducible rfl | (simp; done) | split)
@[simp] theorem pairUncorr_mesh (k : Nat) (s : State) : (pairUncorr k s).mesh = s.mesh := by
  unfold pairUncorr; (try dsimp only); repeat' (first | with_reducible rfl | (simp; done) | split)
@[simp] theorem pairUncorr_sectors (k : Nat) (s : State) : (pairUncorr k s).sectors = s.sectors := by
  unfold pairUncorr; (try dsimp only); repeat' (first | with_reducible rfl | (simp; done) | split)
@[simp] theorem pairUncorr_owners (k : Nat) (s : State) : (pairUncorr k s).owners = s.owners := by
  unfold pairUncorr; (try dsimp only); repeat' (first | with_reducible rfl | (simp; done) | split)
@[simp] theorem pairUncorr_jobs (k : Nat) (s : State) : (pairUncorr k s).jobs = s.jobs := by
  unfold pairUncorr; (try dsimp only); repeat' (first | with_reducible rfl | (simp; done) | split)
@[simp] theorem pairUncorr_fabric (k : Nat) (s : State) : (pairUncorr k s).fabric = s.fabric := by
  unfold pairUncorr; (try dsimp only); repeat' (first | with_reducible rfl | (simp; done) | split)
@[simp] theorem pairUncorr_regions (k : Nat) (s : State) : (pairUncorr k s).regions = s.regions := by
  unfold pairUncorr; (try dsimp only); repeat' (first | with_reducible rfl | (simp; done) | split)
@[simp] theorem pairUncorr_mgmt (k : Nat) (s : State) : (pairUncorr k s).mgmt = s.mgmt := by
  unfold pairUncorr; (try dsimp only); repeat' (first | with_reducible rfl | (simp; done) | split)
@[simp] theorem pairExhaust_pending (k : Nat) (s : State) : (pairExhaust k s).pending = s.pending := by
  unfold pairExhaust; (try dsimp only); repeat' (first | with_reducible rfl | (simp; done) | split)
@[simp] theorem pairExhaust_out (k : Nat) (s : State) : (pairExhaust k s).out = s.out := by
  unfold pairExhaust; (try dsimp only); repeat' (first | with_reducible rfl | (simp; done) | split)
@[simp] theorem pairExhaust_freeIx (k : Nat) (s : State) : (pairExhaust k s).freeIx = s.freeIx := by
  unfold pairExhaust; (try dsimp only); repeat' (first | with_reducible rfl | (simp; done) | split)
@[simp] theorem pairExhaust_phase (k : Nat) (s : State) : (pairExhaust k s).phase = s.phase := by
  unfold pairExhaust; (try dsimp only); repeat' (first | with_reducible rfl | (simp; done) | split)
@[simp] theorem pairExhaust_srEntry (k : Nat) (s : State) : (pairExhaust k s).srEntry = s.srEntry := by
  unfold pairExhaust; (try dsimp only); repeat' (first | with_reducible rfl | (simp; done) | split)
@[simp] theorem pairExhaust_pins (k : Nat) (s : State) : (pairExhaust k s).pins = s.pins := by
  unfold pairExhaust; (try dsimp only); repeat' (first | with_reducible rfl | (simp; done) | split)
@[simp] theorem pairExhaust_aon (k : Nat) (s : State) : (pairExhaust k s).aon = s.aon := by
  unfold pairExhaust; (try dsimp only); repeat' (first | with_reducible rfl | (simp; done) | split)
@[simp] theorem pairExhaust_smb (k : Nat) (s : State) : (pairExhaust k s).smb = s.smb := by
  unfold pairExhaust; (try dsimp only); repeat' (first | with_reducible rfl | (simp; done) | split)
@[simp] theorem pairExhaust_sec (k : Nat) (s : State) : (pairExhaust k s).sec = s.sec := by
  unfold pairExhaust; (try dsimp only); repeat' (first | with_reducible rfl | (simp; done) | split)
@[simp] theorem pairExhaust_mbx (k : Nat) (s : State) : (pairExhaust k s).mbx = s.mbx := by
  unfold pairExhaust; (try dsimp only); repeat' (first | with_reducible rfl | (simp; done) | split)
@[simp] theorem pairExhaust_d2d (k : Nat) (s : State) : (pairExhaust k s).d2d = s.d2d := by
  unfold pairExhaust; (try dsimp only); repeat' (first | with_reducible rfl | (simp; done) | split)
@[simp] theorem pairExhaust_hostMem (k : Nat) (s : State) : (pairExhaust k s).hostMem = s.hostMem := by
  unfold pairExhaust; (try dsimp only); repeat' (first | with_reducible rfl | (simp; done) | split)
@[simp] theorem pairExhaust_objs (k : Nat) (s : State) : (pairExhaust k s).objs = s.objs := by
  unfold pairExhaust; (try dsimp only); repeat' (first | with_reducible rfl | (simp; done) | split)
@[simp] theorem pairExhaust_flash (k : Nat) (s : State) : (pairExhaust k s).flash = s.flash := by
  unfold pairExhaust; (try dsimp only); repeat' (first | with_reducible rfl | (simp; done) | split)
@[simp] theorem pairExhaust_facets (k : Nat) (s : State) : (pairExhaust k s).facets = s.facets := by
  unfold pairExhaust; (try dsimp only); repeat' (first | with_reducible rfl | (simp; done) | split)
@[simp] theorem pairExhaust_mesh (k : Nat) (s : State) : (pairExhaust k s).mesh = s.mesh := by
  unfold pairExhaust; (try dsimp only); repeat' (first | with_reducible rfl | (simp; done) | split)
@[simp] theorem pairExhaust_sectors (k : Nat) (s : State) : (pairExhaust k s).sectors = s.sectors := by
  unfold pairExhaust; (try dsimp only); repeat' (first | with_reducible rfl | (simp; done) | split)
@[simp] theorem pairExhaust_owners (k : Nat) (s : State) : (pairExhaust k s).owners = s.owners := by
  unfold pairExhaust; (try dsimp only); repeat' (first | with_reducible rfl | (simp; done) | split)
@[simp] theorem pairExhaust_jobs (k : Nat) (s : State) : (pairExhaust k s).jobs = s.jobs := by
  unfold pairExhaust; (try dsimp only); repeat' (first | with_reducible rfl | (simp; done) | split)
@[simp] theorem pairExhaust_fabric (k : Nat) (s : State) : (pairExhaust k s).fabric = s.fabric := by
  unfold pairExhaust; (try dsimp only); repeat' (first | with_reducible rfl | (simp; done) | split)
@[simp] theorem pairExhaust_regions (k : Nat) (s : State) : (pairExhaust k s).regions = s.regions := by
  unfold pairExhaust; (try dsimp only); repeat' (first | with_reducible rfl | (simp; done) | split)
@[simp] theorem pairExhaust_mgmt (k : Nat) (s : State) : (pairExhaust k s).mgmt = s.mgmt := by
  unfold pairExhaust; (try dsimp only); repeat' (first | with_reducible rfl | (simp; done) | split)
@[simp] theorem remapSector_pending (k : Nat) (cause : Bool) (req : Byte) (s : State) : (remapSector k cause req s).pending = s.pending := by
  unfold remapSector; (try dsimp only); repeat' (first | with_reducible rfl | (simp; done) | split)
@[simp] theorem remapSector_freeIx (k : Nat) (cause : Bool) (req : Byte) (s : State) : (remapSector k cause req s).freeIx = s.freeIx := by
  unfold remapSector; (try dsimp only); repeat' (first | with_reducible rfl | (simp; done) | split)
@[simp] theorem remapSector_phase (k : Nat) (cause : Bool) (req : Byte) (s : State) : (remapSector k cause req s).phase = s.phase := by
  unfold remapSector; (try dsimp only); repeat' (first | with_reducible rfl | (simp; done) | split)
@[simp] theorem remapSector_srEntry (k : Nat) (cause : Bool) (req : Byte) (s : State) : (remapSector k cause req s).srEntry = s.srEntry := by
  unfold remapSector; (try dsimp only); repeat' (first | with_reducible rfl | (simp; done) | split)
@[simp] theorem remapSector_pins (k : Nat) (cause : Bool) (req : Byte) (s : State) : (remapSector k cause req s).pins = s.pins := by
  unfold remapSector; (try dsimp only); repeat' (first | with_reducible rfl | (simp; done) | split)
@[simp] theorem remapSector_aon (k : Nat) (cause : Bool) (req : Byte) (s : State) : (remapSector k cause req s).aon = s.aon := by
  unfold remapSector; (try dsimp only); repeat' (first | with_reducible rfl | (simp; done) | split)
@[simp] theorem remapSector_smb (k : Nat) (cause : Bool) (req : Byte) (s : State) : (remapSector k cause req s).smb = s.smb := by
  unfold remapSector; (try dsimp only); repeat' (first | with_reducible rfl | (simp; done) | split)
@[simp] theorem remapSector_sec (k : Nat) (cause : Bool) (req : Byte) (s : State) : (remapSector k cause req s).sec = s.sec := by
  unfold remapSector; (try dsimp only); repeat' (first | with_reducible rfl | (simp; done) | split)
@[simp] theorem remapSector_d2d (k : Nat) (cause : Bool) (req : Byte) (s : State) : (remapSector k cause req s).d2d = s.d2d := by
  unfold remapSector; (try dsimp only); repeat' (first | with_reducible rfl | (simp; done) | split)
@[simp] theorem remapSector_hostMem (k : Nat) (cause : Bool) (req : Byte) (s : State) : (remapSector k cause req s).hostMem = s.hostMem := by
  unfold remapSector; (try dsimp only); repeat' (first | with_reducible rfl | (simp; done) | split)
@[simp] theorem remapSector_objs (k : Nat) (cause : Bool) (req : Byte) (s : State) : (remapSector k cause req s).objs = s.objs := by
  unfold remapSector; (try dsimp only); repeat' (first | with_reducible rfl | (simp; done) | split)
@[simp] theorem remapSector_flash (k : Nat) (cause : Bool) (req : Byte) (s : State) : (remapSector k cause req s).flash = s.flash := by
  unfold remapSector; (try dsimp only); repeat' (first | with_reducible rfl | (simp; done) | split)
@[simp] theorem remapSector_facets (k : Nat) (cause : Bool) (req : Byte) (s : State) : (remapSector k cause req s).facets = s.facets := by
  unfold remapSector; (try dsimp only); repeat' (first | with_reducible rfl | (simp; done) | split)
@[simp] theorem remapSector_mesh (k : Nat) (cause : Bool) (req : Byte) (s : State) : (remapSector k cause req s).mesh = s.mesh := by
  unfold remapSector; (try dsimp only); repeat' (first | with_reducible rfl | (simp; done) | split)
@[simp] theorem remapSector_sectors (k : Nat) (cause : Bool) (req : Byte) (s : State) : (remapSector k cause req s).sectors = s.sectors := by
  unfold remapSector; (try dsimp only); repeat' (first | with_reducible rfl | (simp; done) | split)
@[simp] theorem remapSector_owners (k : Nat) (cause : Bool) (req : Byte) (s : State) : (remapSector k cause req s).owners = s.owners := by
  unfold remapSector; (try dsimp only); repeat' (first | with_reducible rfl | (simp; done) | split)
@[simp] theorem remapSector_jobs (k : Nat) (cause : Bool) (req : Byte) (s : State) : (remapSector k cause req s).jobs = s.jobs := by
  unfold remapSector; (try dsimp only); repeat' (first | with_reducible rfl | (simp; done) | split)
@[simp] theorem remapSector_fabric (k : Nat) (cause : Bool) (req : Byte) (s : State) : (remapSector k cause req s).fabric = s.fabric := by
  unfold remapSector; (try dsimp only); repeat' (first | with_reducible rfl | (simp; done) | split)
@[simp] theorem remapSector_regions (k : Nat) (cause : Bool) (req : Byte) (s : State) : (remapSector k cause req s).regions = s.regions := by
  unfold remapSector; (try dsimp only); repeat' (first | with_reducible rfl | (simp; done) | split)
@[simp] theorem remapSector_mgmt (k : Nat) (cause : Bool) (req : Byte) (s : State) : (remapSector k cause req s).mgmt = s.mgmt := by
  unfold remapSector; (try dsimp only); repeat' (first | with_reducible rfl | (simp; done) | split)
@[simp] theorem snoopOut_pending (inv : Bool) (a n : Nat) (s : State) : (snoopOut inv a n s).pending = s.pending := by
  unfold snoopOut; (try dsimp only); repeat' (first | with_reducible rfl | (simp; done) | split)
@[simp] theorem snoopOut_freeIx (inv : Bool) (a n : Nat) (s : State) : (snoopOut inv a n s).freeIx = s.freeIx := by
  unfold snoopOut; (try dsimp only); repeat' (first | with_reducible rfl | (simp; done) | split)
@[simp] theorem snoopOut_phase (inv : Bool) (a n : Nat) (s : State) : (snoopOut inv a n s).phase = s.phase := by
  unfold snoopOut; (try dsimp only); repeat' (first | with_reducible rfl | (simp; done) | split)
@[simp] theorem snoopOut_srEntry (inv : Bool) (a n : Nat) (s : State) : (snoopOut inv a n s).srEntry = s.srEntry := by
  unfold snoopOut; (try dsimp only); repeat' (first | with_reducible rfl | (simp; done) | split)
@[simp] theorem snoopOut_pins (inv : Bool) (a n : Nat) (s : State) : (snoopOut inv a n s).pins = s.pins := by
  unfold snoopOut; (try dsimp only); repeat' (first | with_reducible rfl | (simp; done) | split)
@[simp] theorem snoopOut_aon (inv : Bool) (a n : Nat) (s : State) : (snoopOut inv a n s).aon = s.aon := by
  unfold snoopOut; (try dsimp only); repeat' (first | with_reducible rfl | (simp; done) | split)
@[simp] theorem snoopOut_smb (inv : Bool) (a n : Nat) (s : State) : (snoopOut inv a n s).smb = s.smb := by
  unfold snoopOut; (try dsimp only); repeat' (first | with_reducible rfl | (simp; done) | split)
@[simp] theorem snoopOut_jrn (inv : Bool) (a n : Nat) (s : State) : (snoopOut inv a n s).jrn = s.jrn := by
  unfold snoopOut; (try dsimp only); repeat' (first | with_reducible rfl | (simp; done) | split)
@[simp] theorem snoopOut_sec (inv : Bool) (a n : Nat) (s : State) : (snoopOut inv a n s).sec = s.sec := by
  unfold snoopOut; (try dsimp only); repeat' (first | with_reducible rfl | (simp; done) | split)
@[simp] theorem snoopOut_mbx (inv : Bool) (a n : Nat) (s : State) : (snoopOut inv a n s).mbx = s.mbx := by
  unfold snoopOut; (try dsimp only); repeat' (first | with_reducible rfl | (simp; done) | split)
@[simp] theorem snoopOut_d2d (inv : Bool) (a n : Nat) (s : State) : (snoopOut inv a n s).d2d = s.d2d := by
  unfold snoopOut; (try dsimp only); repeat' (first | with_reducible rfl | (simp; done) | split)
@[simp] theorem snoopOut_hostMem (inv : Bool) (a n : Nat) (s : State) : (snoopOut inv a n s).hostMem = s.hostMem := by
  unfold snoopOut; (try dsimp only); repeat' (first | with_reducible rfl | (simp; done) | split)
@[simp] theorem snoopOut_objs (inv : Bool) (a n : Nat) (s : State) : (snoopOut inv a n s).objs = s.objs := by
  unfold snoopOut; (try dsimp only); repeat' (first | with_reducible rfl | (simp; done) | split)
@[simp] theorem snoopOut_flash (inv : Bool) (a n : Nat) (s : State) : (snoopOut inv a n s).flash = s.flash := by
  unfold snoopOut; (try dsimp only); repeat' (first | with_reducible rfl | (simp; done) | split)
@[simp] theorem snoopOut_facets (inv : Bool) (a n : Nat) (s : State) : (snoopOut inv a n s).facets = s.facets := by
  unfold snoopOut; (try dsimp only); repeat' (first | with_reducible rfl | (simp; done) | split)
@[simp] theorem snoopOut_mesh (inv : Bool) (a n : Nat) (s : State) : (snoopOut inv a n s).mesh = s.mesh := by
  unfold snoopOut; (try dsimp only); repeat' (first | with_reducible rfl | (simp; done) | split)
@[simp] theorem snoopOut_sectors (inv : Bool) (a n : Nat) (s : State) : (snoopOut inv a n s).sectors = s.sectors := by
  unfold snoopOut; (try dsimp only); repeat' (first | with_reducible rfl | (simp; done) | split)
@[simp] theorem snoopOut_owners (inv : Bool) (a n : Nat) (s : State) : (snoopOut inv a n s).owners = s.owners := by
  unfold snoopOut; (try dsimp only); repeat' (first | with_reducible rfl | (simp; done) | split)
@[simp] theorem snoopOut_jobs (inv : Bool) (a n : Nat) (s : State) : (snoopOut inv a n s).jobs = s.jobs := by
  unfold snoopOut; (try dsimp only); repeat' (first | with_reducible rfl | (simp; done) | split)
@[simp] theorem snoopOut_fabric (inv : Bool) (a n : Nat) (s : State) : (snoopOut inv a n s).fabric = s.fabric := by
  unfold snoopOut; (try dsimp only); repeat' (first | with_reducible rfl | (simp; done) | split)
@[simp] theorem snoopOut_regions (inv : Bool) (a n : Nat) (s : State) : (snoopOut inv a n s).regions = s.regions := by
  unfold snoopOut; (try dsimp only); repeat' (first | with_reducible rfl | (simp; done) | split)
@[simp] theorem snoopOut_mgmt (inv : Bool) (a n : Nat) (s : State) : (snoopOut inv a n s).mgmt = s.mgmt := by
  unfold snoopOut; (try dsimp only); repeat' (first | with_reducible rfl | (simp; done) | split)
@[simp] theorem snoopOut_health (inv : Bool) (a n : Nat) (s : State) : (snoopOut inv a n s).health = s.health := by
  unfold snoopOut; (try dsimp only); repeat' (first | with_reducible rfl | (simp; done) | split)
@[simp] theorem noteDirty_pending (a n : Nat) (s : State) : (noteDirty a n s).pending = s.pending := by
  unfold noteDirty; (try dsimp only); repeat' (first | with_reducible rfl | (simp; done) | split)
@[simp] theorem noteDirty_out (a n : Nat) (s : State) : (noteDirty a n s).out = s.out := by
  unfold noteDirty; (try dsimp only); repeat' (first | with_reducible rfl | (simp; done) | split)
@[simp] theorem noteDirty_freeIx (a n : Nat) (s : State) : (noteDirty a n s).freeIx = s.freeIx := by
  unfold noteDirty; (try dsimp only); repeat' (first | with_reducible rfl | (simp; done) | split)
@[simp] theorem noteDirty_phase (a n : Nat) (s : State) : (noteDirty a n s).phase = s.phase := by
  unfold noteDirty; (try dsimp only); repeat' (first | with_reducible rfl | (simp; done) | split)
@[simp] theorem noteDirty_srEntry (a n : Nat) (s : State) : (noteDirty a n s).srEntry = s.srEntry := by
  unfold noteDirty; (try dsimp only); repeat' (first | with_reducible rfl | (simp; done) | split)
@[simp] theorem noteDirty_pins (a n : Nat) (s : State) : (noteDirty a n s).pins = s.pins := by
  unfold noteDirty; (try dsimp only); repeat' (first | with_reducible rfl | (simp; done) | split)
@[simp] theorem noteDirty_aon (a n : Nat) (s : State) : (noteDirty a n s).aon = s.aon := by
  unfold noteDirty; (try dsimp only); repeat' (first | with_reducible rfl | (simp; done) | split)
@[simp] theorem noteDirty_smb (a n : Nat) (s : State) : (noteDirty a n s).smb = s.smb := by
  unfold noteDirty; (try dsimp only); repeat' (first | with_reducible rfl | (simp; done) | split)
@[simp] theorem noteDirty_jrn (a n : Nat) (s : State) : (noteDirty a n s).jrn = s.jrn := by
  unfold noteDirty; (try dsimp only); repeat' (first | with_reducible rfl | (simp; done) | split)
@[simp] theorem noteDirty_sec (a n : Nat) (s : State) : (noteDirty a n s).sec = s.sec := by
  unfold noteDirty; (try dsimp only); repeat' (first | with_reducible rfl | (simp; done) | split)
@[simp] theorem noteDirty_mbx (a n : Nat) (s : State) : (noteDirty a n s).mbx = s.mbx := by
  unfold noteDirty; (try dsimp only); repeat' (first | with_reducible rfl | (simp; done) | split)
@[simp] theorem noteDirty_d2d (a n : Nat) (s : State) : (noteDirty a n s).d2d = s.d2d := by
  unfold noteDirty; (try dsimp only); repeat' (first | with_reducible rfl | (simp; done) | split)
@[simp] theorem noteDirty_mem (a n : Nat) (s : State) : (noteDirty a n s).mem = s.mem := by
  unfold noteDirty; (try dsimp only); repeat' (first | with_reducible rfl | (simp; done) | split)
@[simp] theorem noteDirty_hostMem (a n : Nat) (s : State) : (noteDirty a n s).hostMem = s.hostMem := by
  unfold noteDirty; (try dsimp only); repeat' (first | with_reducible rfl | (simp; done) | split)
@[simp] theorem noteDirty_flash (a n : Nat) (s : State) : (noteDirty a n s).flash = s.flash := by
  unfold noteDirty; (try dsimp only); repeat' (first | with_reducible rfl | (simp; done) | split)
@[simp] theorem noteDirty_facets (a n : Nat) (s : State) : (noteDirty a n s).facets = s.facets := by
  unfold noteDirty; (try dsimp only); repeat' (first | with_reducible rfl | (simp; done) | split)
@[simp] theorem noteDirty_mesh (a n : Nat) (s : State) : (noteDirty a n s).mesh = s.mesh := by
  unfold noteDirty; (try dsimp only); repeat' (first | with_reducible rfl | (simp; done) | split)
@[simp] theorem noteDirty_sectors (a n : Nat) (s : State) : (noteDirty a n s).sectors = s.sectors := by
  unfold noteDirty; (try dsimp only); repeat' (first | with_reducible rfl | (simp; done) | split)
@[simp] theorem noteDirty_owners (a n : Nat) (s : State) : (noteDirty a n s).owners = s.owners := by
  unfold noteDirty; (try dsimp only); repeat' (first | with_reducible rfl | (simp; done) | split)
@[simp] theorem noteDirty_jobs (a n : Nat) (s : State) : (noteDirty a n s).jobs = s.jobs := by
  unfold noteDirty; (try dsimp only); repeat' (first | with_reducible rfl | (simp; done) | split)
@[simp] theorem noteDirty_fabric (a n : Nat) (s : State) : (noteDirty a n s).fabric = s.fabric := by
  unfold noteDirty; (try dsimp only); repeat' (first | with_reducible rfl | (simp; done) | split)
@[simp] theorem noteDirty_regions (a n : Nat) (s : State) : (noteDirty a n s).regions = s.regions := by
  unfold noteDirty; (try dsimp only); repeat' (first | with_reducible rfl | (simp; done) | split)
@[simp] theorem noteDirty_mgmt (a n : Nat) (s : State) : (noteDirty a n s).mgmt = s.mgmt := by
  unfold noteDirty; (try dsimp only); repeat' (first | with_reducible rfl | (simp; done) | split)
@[simp] theorem noteDirty_health (a n : Nat) (s : State) : (noteDirty a n s).health = s.health := by
  unfold noteDirty; (try dsimp only); repeat' (first | with_reducible rfl | (simp; done) | split)
@[simp] theorem noteProgress_pending (a n : Nat) (s : State) : (noteProgress a n s).pending = s.pending := by
  unfold noteProgress; (try dsimp only); repeat' (first | with_reducible rfl | (simp; done) | split)
@[simp] theorem noteProgress_out (a n : Nat) (s : State) : (noteProgress a n s).out = s.out := by
  unfold noteProgress; (try dsimp only); repeat' (first | with_reducible rfl | (simp; done) | split)
@[simp] theorem noteProgress_freeIx (a n : Nat) (s : State) : (noteProgress a n s).freeIx = s.freeIx := by
  unfold noteProgress; (try dsimp only); repeat' (first | with_reducible rfl | (simp; done) | split)
@[simp] theorem noteProgress_phase (a n : Nat) (s : State) : (noteProgress a n s).phase = s.phase := by
  unfold noteProgress; (try dsimp only); repeat' (first | with_reducible rfl | (simp; done) | split)
@[simp] theorem noteProgress_srEntry (a n : Nat) (s : State) : (noteProgress a n s).srEntry = s.srEntry := by
  unfold noteProgress; (try dsimp only); repeat' (first | with_reducible rfl | (simp; done) | split)
@[simp] theorem noteProgress_pins (a n : Nat) (s : State) : (noteProgress a n s).pins = s.pins := by
  unfold noteProgress; (try dsimp only); repeat' (first | with_reducible rfl | (simp; done) | split)
@[simp] theorem noteProgress_aon (a n : Nat) (s : State) : (noteProgress a n s).aon = s.aon := by
  unfold noteProgress; (try dsimp only); repeat' (first | with_reducible rfl | (simp; done) | split)
@[simp] theorem noteProgress_smb (a n : Nat) (s : State) : (noteProgress a n s).smb = s.smb := by
  unfold noteProgress; (try dsimp only); repeat' (first | with_reducible rfl | (simp; done) | split)
@[simp] theorem noteProgress_jrn (a n : Nat) (s : State) : (noteProgress a n s).jrn = s.jrn := by
  unfold noteProgress; (try dsimp only); repeat' (first | with_reducible rfl | (simp; done) | split)
@[simp] theorem noteProgress_sec (a n : Nat) (s : State) : (noteProgress a n s).sec = s.sec := by
  unfold noteProgress; (try dsimp only); repeat' (first | with_reducible rfl | (simp; done) | split)
@[simp] theorem noteProgress_mbx (a n : Nat) (s : State) : (noteProgress a n s).mbx = s.mbx := by
  unfold noteProgress; (try dsimp only); repeat' (first | with_reducible rfl | (simp; done) | split)
@[simp] theorem noteProgress_d2d (a n : Nat) (s : State) : (noteProgress a n s).d2d = s.d2d := by
  unfold noteProgress; (try dsimp only); repeat' (first | with_reducible rfl | (simp; done) | split)
@[simp] theorem noteProgress_mem (a n : Nat) (s : State) : (noteProgress a n s).mem = s.mem := by
  unfold noteProgress; (try dsimp only); repeat' (first | with_reducible rfl | (simp; done) | split)
@[simp] theorem noteProgress_hostMem (a n : Nat) (s : State) : (noteProgress a n s).hostMem = s.hostMem := by
  unfold noteProgress; (try dsimp only); repeat' (first | with_reducible rfl | (simp; done) | split)
@[simp] theorem noteProgress_objs (a n : Nat) (s : State) : (noteProgress a n s).objs = s.objs := by
  unfold noteProgress; (try dsimp only); repeat' (first | with_reducible rfl | (simp; done) | split)
@[simp] theorem noteProgress_flash (a n : Nat) (s : State) : (noteProgress a n s).flash = s.flash := by
  unfold noteProgress; (try dsimp only); repeat' (first | with_reducible rfl | (simp; done) | split)
@[simp] theorem noteProgress_facets (a n : Nat) (s : State) : (noteProgress a n s).facets = s.facets := by
  unfold noteProgress; (try dsimp only); repeat' (first | with_reducible rfl | (simp; done) | split)
@[simp] theorem noteProgress_mesh (a n : Nat) (s : State) : (noteProgress a n s).mesh = s.mesh := by
  unfold noteProgress; (try dsimp only); repeat' (first | with_reducible rfl | (simp; done) | split)
@[simp] theorem noteProgress_sectors (a n : Nat) (s : State) : (noteProgress a n s).sectors = s.sectors := by
  unfold noteProgress; (try dsimp only); repeat' (first | with_reducible rfl | (simp; done) | split)
@[simp] theorem noteProgress_owners (a n : Nat) (s : State) : (noteProgress a n s).owners = s.owners := by
  unfold noteProgress; (try dsimp only); repeat' (first | with_reducible rfl | (simp; done) | split)
@[simp] theorem noteProgress_fabric (a n : Nat) (s : State) : (noteProgress a n s).fabric = s.fabric := by
  unfold noteProgress; (try dsimp only); repeat' (first | with_reducible rfl | (simp; done) | split)
@[simp] theorem noteProgress_regions (a n : Nat) (s : State) : (noteProgress a n s).regions = s.regions := by
  unfold noteProgress; (try dsimp only); repeat' (first | with_reducible rfl | (simp; done) | split)
@[simp] theorem noteProgress_mgmt (a n : Nat) (s : State) : (noteProgress a n s).mgmt = s.mgmt := by
  unfold noteProgress; (try dsimp only); repeat' (first | with_reducible rfl | (simp; done) | split)
@[simp] theorem noteProgress_health (a n : Nat) (s : State) : (noteProgress a n s).health = s.health := by
  unfold noteProgress; (try dsimp only); repeat' (first | with_reducible rfl | (simp; done) | split)
@[simp] theorem noteWrite_pending (a n : Nat) (s : State) : (noteWrite a n s).pending = s.pending := by
  unfold noteWrite; (try dsimp only); repeat' (first | with_reducible rfl | (simp; done) | split)
@[simp] theorem noteWrite_out (a n : Nat) (s : State) : (noteWrite a n s).out = s.out := by
  unfold noteWrite; (try dsimp only); repeat' (first | with_reducible rfl | (simp; done) | split)
@[simp] theorem noteWrite_freeIx (a n : Nat) (s : State) : (noteWrite a n s).freeIx = s.freeIx := by
  unfold noteWrite; (try dsimp only); repeat' (first | with_reducible rfl | (simp; done) | split)
@[simp] theorem noteWrite_phase (a n : Nat) (s : State) : (noteWrite a n s).phase = s.phase := by
  unfold noteWrite; (try dsimp only); repeat' (first | with_reducible rfl | (simp; done) | split)
@[simp] theorem noteWrite_srEntry (a n : Nat) (s : State) : (noteWrite a n s).srEntry = s.srEntry := by
  unfold noteWrite; (try dsimp only); repeat' (first | with_reducible rfl | (simp; done) | split)
@[simp] theorem noteWrite_pins (a n : Nat) (s : State) : (noteWrite a n s).pins = s.pins := by
  unfold noteWrite; (try dsimp only); repeat' (first | with_reducible rfl | (simp; done) | split)
@[simp] theorem noteWrite_aon (a n : Nat) (s : State) : (noteWrite a n s).aon = s.aon := by
  unfold noteWrite; (try dsimp only); repeat' (first | with_reducible rfl | (simp; done) | split)
@[simp] theorem noteWrite_smb (a n : Nat) (s : State) : (noteWrite a n s).smb = s.smb := by
  unfold noteWrite; (try dsimp only); repeat' (first | with_reducible rfl | (simp; done) | split)
@[simp] theorem noteWrite_jrn (a n : Nat) (s : State) : (noteWrite a n s).jrn = s.jrn := by
  unfold noteWrite; (try dsimp only); repeat' (first | with_reducible rfl | (simp; done) | split)
@[simp] theorem noteWrite_sec (a n : Nat) (s : State) : (noteWrite a n s).sec = s.sec := by
  unfold noteWrite; (try dsimp only); repeat' (first | with_reducible rfl | (simp; done) | split)
@[simp] theorem noteWrite_mbx (a n : Nat) (s : State) : (noteWrite a n s).mbx = s.mbx := by
  unfold noteWrite; (try dsimp only); repeat' (first | with_reducible rfl | (simp; done) | split)
@[simp] theorem noteWrite_d2d (a n : Nat) (s : State) : (noteWrite a n s).d2d = s.d2d := by
  unfold noteWrite; (try dsimp only); repeat' (first | with_reducible rfl | (simp; done) | split)
@[simp] theorem noteWrite_mem (a n : Nat) (s : State) : (noteWrite a n s).mem = s.mem := by
  unfold noteWrite; (try dsimp only); repeat' (first | with_reducible rfl | (simp; done) | split)
@[simp] theorem noteWrite_hostMem (a n : Nat) (s : State) : (noteWrite a n s).hostMem = s.hostMem := by
  unfold noteWrite; (try dsimp only); repeat' (first | with_reducible rfl | (simp; done) | split)
@[simp] theorem noteWrite_flash (a n : Nat) (s : State) : (noteWrite a n s).flash = s.flash := by
  unfold noteWrite; (try dsimp only); repeat' (first | with_reducible rfl | (simp; done) | split)
@[simp] theorem noteWrite_facets (a n : Nat) (s : State) : (noteWrite a n s).facets = s.facets := by
  unfold noteWrite; (try dsimp only); repeat' (first | with_reducible rfl | (simp; done) | split)
@[simp] theorem noteWrite_mesh (a n : Nat) (s : State) : (noteWrite a n s).mesh = s.mesh := by
  unfold noteWrite; (try dsimp only); repeat' (first | with_reducible rfl | (simp; done) | split)
@[simp] theorem noteWrite_sectors (a n : Nat) (s : State) : (noteWrite a n s).sectors = s.sectors := by
  unfold noteWrite; (try dsimp only); repeat' (first | with_reducible rfl | (simp; done) | split)
@[simp] theorem noteWrite_owners (a n : Nat) (s : State) : (noteWrite a n s).owners = s.owners := by
  unfold noteWrite; (try dsimp only); repeat' (first | with_reducible rfl | (simp; done) | split)
@[simp] theorem noteWrite_fabric (a n : Nat) (s : State) : (noteWrite a n s).fabric = s.fabric := by
  unfold noteWrite; (try dsimp only); repeat' (first | with_reducible rfl | (simp; done) | split)
@[simp] theorem noteWrite_regions (a n : Nat) (s : State) : (noteWrite a n s).regions = s.regions := by
  unfold noteWrite; (try dsimp only); repeat' (first | with_reducible rfl | (simp; done) | split)
@[simp] theorem noteWrite_mgmt (a n : Nat) (s : State) : (noteWrite a n s).mgmt = s.mgmt := by
  unfold noteWrite; (try dsimp only); repeat' (first | with_reducible rfl | (simp; done) | split)
@[simp] theorem noteWrite_health (a n : Nat) (s : State) : (noteWrite a n s).health = s.health := by
  unfold noteWrite; (try dsimp only); repeat' (first | with_reducible rfl | (simp; done) | split)
@[simp] theorem writeCells_pending (a n : Nat) (src : List Host.Cell) (s : State) : (writeCells a n src s).pending = s.pending := by
  unfold writeCells; (try dsimp only); repeat' (first | with_reducible rfl | (simp; done) | split)
@[simp] theorem writeCells_freeIx (a n : Nat) (src : List Host.Cell) (s : State) : (writeCells a n src s).freeIx = s.freeIx := by
  unfold writeCells; (try dsimp only); repeat' (first | with_reducible rfl | (simp; done) | split)
@[simp] theorem writeCells_phase (a n : Nat) (src : List Host.Cell) (s : State) : (writeCells a n src s).phase = s.phase := by
  unfold writeCells; (try dsimp only); repeat' (first | with_reducible rfl | (simp; done) | split)
@[simp] theorem writeCells_srEntry (a n : Nat) (src : List Host.Cell) (s : State) : (writeCells a n src s).srEntry = s.srEntry := by
  unfold writeCells; (try dsimp only); repeat' (first | with_reducible rfl | (simp; done) | split)
@[simp] theorem writeCells_pins (a n : Nat) (src : List Host.Cell) (s : State) : (writeCells a n src s).pins = s.pins := by
  unfold writeCells; (try dsimp only); repeat' (first | with_reducible rfl | (simp; done) | split)
@[simp] theorem writeCells_aon (a n : Nat) (src : List Host.Cell) (s : State) : (writeCells a n src s).aon = s.aon := by
  unfold writeCells; (try dsimp only); repeat' (first | with_reducible rfl | (simp; done) | split)
@[simp] theorem writeCells_smb (a n : Nat) (src : List Host.Cell) (s : State) : (writeCells a n src s).smb = s.smb := by
  unfold writeCells; (try dsimp only); repeat' (first | with_reducible rfl | (simp; done) | split)
@[simp] theorem writeCells_jrn (a n : Nat) (src : List Host.Cell) (s : State) : (writeCells a n src s).jrn = s.jrn := by
  unfold writeCells; (try dsimp only); repeat' (first | with_reducible rfl | (simp; done) | split)
@[simp] theorem writeCells_sec (a n : Nat) (src : List Host.Cell) (s : State) : (writeCells a n src s).sec = s.sec := by
  unfold writeCells; (try dsimp only); repeat' (first | with_reducible rfl | (simp; done) | split)
@[simp] theorem writeCells_mbx (a n : Nat) (src : List Host.Cell) (s : State) : (writeCells a n src s).mbx = s.mbx := by
  unfold writeCells; (try dsimp only); repeat' (first | with_reducible rfl | (simp; done) | split)
@[simp] theorem writeCells_d2d (a n : Nat) (src : List Host.Cell) (s : State) : (writeCells a n src s).d2d = s.d2d := by
  unfold writeCells; (try dsimp only); repeat' (first | with_reducible rfl | (simp; done) | split)
@[simp] theorem writeCells_hostMem (a n : Nat) (src : List Host.Cell) (s : State) : (writeCells a n src s).hostMem = s.hostMem := by
  unfold writeCells; (try dsimp only); repeat' (first | with_reducible rfl | (simp; done) | split)
@[simp] theorem writeCells_flash (a n : Nat) (src : List Host.Cell) (s : State) : (writeCells a n src s).flash = s.flash := by
  unfold writeCells; (try dsimp only); repeat' (first | with_reducible rfl | (simp; done) | split)
@[simp] theorem writeCells_facets (a n : Nat) (src : List Host.Cell) (s : State) : (writeCells a n src s).facets = s.facets := by
  unfold writeCells; (try dsimp only); repeat' (first | with_reducible rfl | (simp; done) | split)
@[simp] theorem writeCells_mesh (a n : Nat) (src : List Host.Cell) (s : State) : (writeCells a n src s).mesh = s.mesh := by
  unfold writeCells; (try dsimp only); repeat' (first | with_reducible rfl | (simp; done) | split)
@[simp] theorem writeCells_sectors (a n : Nat) (src : List Host.Cell) (s : State) : (writeCells a n src s).sectors = s.sectors := by
  unfold writeCells; (try dsimp only); repeat' (first | with_reducible rfl | (simp; done) | split)
@[simp] theorem writeCells_owners (a n : Nat) (src : List Host.Cell) (s : State) : (writeCells a n src s).owners = s.owners := by
  unfold writeCells; (try dsimp only); repeat' (first | with_reducible rfl | (simp; done) | split)
@[simp] theorem writeCells_fabric (a n : Nat) (src : List Host.Cell) (s : State) : (writeCells a n src s).fabric = s.fabric := by
  unfold writeCells; (try dsimp only); repeat' (first | with_reducible rfl | (simp; done) | split)
@[simp] theorem writeCells_regions (a n : Nat) (src : List Host.Cell) (s : State) : (writeCells a n src s).regions = s.regions := by
  unfold writeCells; (try dsimp only); repeat' (first | with_reducible rfl | (simp; done) | split)
@[simp] theorem writeCells_mgmt (a n : Nat) (src : List Host.Cell) (s : State) : (writeCells a n src s).mgmt = s.mgmt := by
  unfold writeCells; (try dsimp only); repeat' (first | with_reducible rfl | (simp; done) | split)
@[simp] theorem writeCells_health (a n : Nat) (src : List Host.Cell) (s : State) : (writeCells a n src s).health = s.health := by
  unfold writeCells; (try dsimp only); repeat' (first | with_reducible rfl | (simp; done) | split)
@[simp] theorem writeBytes_pending (a : Nat) (bs : List Byte) (s : State) : (writeBytes a bs s).pending = s.pending := by
  unfold writeBytes; (try dsimp only); repeat' (first | with_reducible rfl | (simp; done) | split)
@[simp] theorem writeBytes_freeIx (a : Nat) (bs : List Byte) (s : State) : (writeBytes a bs s).freeIx = s.freeIx := by
  unfold writeBytes; (try dsimp only); repeat' (first | with_reducible rfl | (simp; done) | split)
@[simp] theorem writeBytes_phase (a : Nat) (bs : List Byte) (s : State) : (writeBytes a bs s).phase = s.phase := by
  unfold writeBytes; (try dsimp only); repeat' (first | with_reducible rfl | (simp; done) | split)
@[simp] theorem writeBytes_srEntry (a : Nat) (bs : List Byte) (s : State) : (writeBytes a bs s).srEntry = s.srEntry := by
  unfold writeBytes; (try dsimp only); repeat' (first | with_reducible rfl | (simp; done) | split)
@[simp] theorem writeBytes_pins (a : Nat) (bs : List Byte) (s : State) : (writeBytes a bs s).pins = s.pins := by
  unfold writeBytes; (try dsimp only); repeat' (first | with_reducible rfl | (simp; done) | split)
@[simp] theorem writeBytes_aon (a : Nat) (bs : List Byte) (s : State) : (writeBytes a bs s).aon = s.aon := by
  unfold writeBytes; (try dsimp only); repeat' (first | with_reducible rfl | (simp; done) | split)
@[simp] theorem writeBytes_smb (a : Nat) (bs : List Byte) (s : State) : (writeBytes a bs s).smb = s.smb := by
  unfold writeBytes; (try dsimp only); repeat' (first | with_reducible rfl | (simp; done) | split)
@[simp] theorem writeBytes_jrn (a : Nat) (bs : List Byte) (s : State) : (writeBytes a bs s).jrn = s.jrn := by
  unfold writeBytes; (try dsimp only); repeat' (first | with_reducible rfl | (simp; done) | split)
@[simp] theorem writeBytes_sec (a : Nat) (bs : List Byte) (s : State) : (writeBytes a bs s).sec = s.sec := by
  unfold writeBytes; (try dsimp only); repeat' (first | with_reducible rfl | (simp; done) | split)
@[simp] theorem writeBytes_mbx (a : Nat) (bs : List Byte) (s : State) : (writeBytes a bs s).mbx = s.mbx := by
  unfold writeBytes; (try dsimp only); repeat' (first | with_reducible rfl | (simp; done) | split)
@[simp] theorem writeBytes_d2d (a : Nat) (bs : List Byte) (s : State) : (writeBytes a bs s).d2d = s.d2d := by
  unfold writeBytes; (try dsimp only); repeat' (first | with_reducible rfl | (simp; done) | split)
@[simp] theorem writeBytes_hostMem (a : Nat) (bs : List Byte) (s : State) : (writeBytes a bs s).hostMem = s.hostMem := by
  unfold writeBytes; (try dsimp only); repeat' (first | with_reducible rfl | (simp; done) | split)
@[simp] theorem writeBytes_flash (a : Nat) (bs : List Byte) (s : State) : (writeBytes a bs s).flash = s.flash := by
  unfold writeBytes; (try dsimp only); repeat' (first | with_reducible rfl | (simp; done) | split)
@[simp] theorem writeBytes_facets (a : Nat) (bs : List Byte) (s : State) : (writeBytes a bs s).facets = s.facets := by
  unfold writeBytes; (try dsimp only); repeat' (first | with_reducible rfl | (simp; done) | split)
@[simp] theorem writeBytes_mesh (a : Nat) (bs : List Byte) (s : State) : (writeBytes a bs s).mesh = s.mesh := by
  unfold writeBytes; (try dsimp only); repeat' (first | with_reducible rfl | (simp; done) | split)
@[simp] theorem writeBytes_sectors (a : Nat) (bs : List Byte) (s : State) : (writeBytes a bs s).sectors = s.sectors := by
  unfold writeBytes; (try dsimp only); repeat' (first | with_reducible rfl | (simp; done) | split)
@[simp] theorem writeBytes_owners (a : Nat) (bs : List Byte) (s : State) : (writeBytes a bs s).owners = s.owners := by
  unfold writeBytes; (try dsimp only); repeat' (first | with_reducible rfl | (simp; done) | split)
@[simp] theorem writeBytes_fabric (a : Nat) (bs : List Byte) (s : State) : (writeBytes a bs s).fabric = s.fabric := by
  unfold writeBytes; (try dsimp only); repeat' (first | with_reducible rfl | (simp; done) | split)
@[simp] theorem writeBytes_regions (a : Nat) (bs : List Byte) (s : State) : (writeBytes a bs s).regions = s.regions := by
  unfold writeBytes; (try dsimp only); repeat' (first | with_reducible rfl | (simp; done) | split)
@[simp] theorem writeBytes_mgmt (a : Nat) (bs : List Byte) (s : State) : (writeBytes a bs s).mgmt = s.mgmt := by
  unfold writeBytes; (try dsimp only); repeat' (first | with_reducible rfl | (simp; done) | split)
@[simp] theorem writeBytes_health (a : Nat) (bs : List Byte) (s : State) : (writeBytes a bs s).health = s.health := by
  unfold writeBytes; (try dsimp only); repeat' (first | with_reducible rfl | (simp; done) | split)
@[simp] theorem zeroRange_pending (a n : Nat) (s : State) : (zeroRange a n s).pending = s.pending := by
  unfold zeroRange; (try dsimp only); repeat' (first | with_reducible rfl | (simp; done) | split)
@[simp] theorem zeroRange_freeIx (a n : Nat) (s : State) : (zeroRange a n s).freeIx = s.freeIx := by
  unfold zeroRange; (try dsimp only); repeat' (first | with_reducible rfl | (simp; done) | split)
@[simp] theorem zeroRange_phase (a n : Nat) (s : State) : (zeroRange a n s).phase = s.phase := by
  unfold zeroRange; (try dsimp only); repeat' (first | with_reducible rfl | (simp; done) | split)
@[simp] theorem zeroRange_srEntry (a n : Nat) (s : State) : (zeroRange a n s).srEntry = s.srEntry := by
  unfold zeroRange; (try dsimp only); repeat' (first | with_reducible rfl | (simp; done) | split)
@[simp] theorem zeroRange_pins (a n : Nat) (s : State) : (zeroRange a n s).pins = s.pins := by
  unfold zeroRange; (try dsimp only); repeat' (first | with_reducible rfl | (simp; done) | split)
@[simp] theorem zeroRange_aon (a n : Nat) (s : State) : (zeroRange a n s).aon = s.aon := by
  unfold zeroRange; (try dsimp only); repeat' (first | with_reducible rfl | (simp; done) | split)
@[simp] theorem zeroRange_smb (a n : Nat) (s : State) : (zeroRange a n s).smb = s.smb := by
  unfold zeroRange; (try dsimp only); repeat' (first | with_reducible rfl | (simp; done) | split)
@[simp] theorem zeroRange_jrn (a n : Nat) (s : State) : (zeroRange a n s).jrn = s.jrn := by
  unfold zeroRange; (try dsimp only); repeat' (first | with_reducible rfl | (simp; done) | split)
@[simp] theorem zeroRange_sec (a n : Nat) (s : State) : (zeroRange a n s).sec = s.sec := by
  unfold zeroRange; (try dsimp only); repeat' (first | with_reducible rfl | (simp; done) | split)
@[simp] theorem zeroRange_mbx (a n : Nat) (s : State) : (zeroRange a n s).mbx = s.mbx := by
  unfold zeroRange; (try dsimp only); repeat' (first | with_reducible rfl | (simp; done) | split)
@[simp] theorem zeroRange_d2d (a n : Nat) (s : State) : (zeroRange a n s).d2d = s.d2d := by
  unfold zeroRange; (try dsimp only); repeat' (first | with_reducible rfl | (simp; done) | split)
@[simp] theorem zeroRange_hostMem (a n : Nat) (s : State) : (zeroRange a n s).hostMem = s.hostMem := by
  unfold zeroRange; (try dsimp only); repeat' (first | with_reducible rfl | (simp; done) | split)
@[simp] theorem zeroRange_flash (a n : Nat) (s : State) : (zeroRange a n s).flash = s.flash := by
  unfold zeroRange; (try dsimp only); repeat' (first | with_reducible rfl | (simp; done) | split)
@[simp] theorem zeroRange_facets (a n : Nat) (s : State) : (zeroRange a n s).facets = s.facets := by
  unfold zeroRange; (try dsimp only); repeat' (first | with_reducible rfl | (simp; done) | split)
@[simp] theorem zeroRange_mesh (a n : Nat) (s : State) : (zeroRange a n s).mesh = s.mesh := by
  unfold zeroRange; (try dsimp only); repeat' (first | with_reducible rfl | (simp; done) | split)
@[simp] theorem zeroRange_sectors (a n : Nat) (s : State) : (zeroRange a n s).sectors = s.sectors := by
  unfold zeroRange; (try dsimp only); repeat' (first | with_reducible rfl | (simp; done) | split)
@[simp] theorem zeroRange_owners (a n : Nat) (s : State) : (zeroRange a n s).owners = s.owners := by
  unfold zeroRange; (try dsimp only); repeat' (first | with_reducible rfl | (simp; done) | split)
@[simp] theorem zeroRange_fabric (a n : Nat) (s : State) : (zeroRange a n s).fabric = s.fabric := by
  unfold zeroRange; (try dsimp only); repeat' (first | with_reducible rfl | (simp; done) | split)
@[simp] theorem zeroRange_regions (a n : Nat) (s : State) : (zeroRange a n s).regions = s.regions := by
  unfold zeroRange; (try dsimp only); repeat' (first | with_reducible rfl | (simp; done) | split)
@[simp] theorem zeroRange_mgmt (a n : Nat) (s : State) : (zeroRange a n s).mgmt = s.mgmt := by
  unfold zeroRange; (try dsimp only); repeat' (first | with_reducible rfl | (simp; done) | split)
@[simp] theorem zeroRange_health (a n : Nat) (s : State) : (zeroRange a n s).health = s.health := by
  unfold zeroRange; (try dsimp only); repeat' (first | with_reducible rfl | (simp; done) | split)
@[simp] theorem setOwner_pending (g : Nat) (o : Owner) (s : State) : (setOwner g o s).pending = s.pending := rfl
@[simp] theorem setOwner_out (g : Nat) (o : Owner) (s : State) : (setOwner g o s).out = s.out := rfl
@[simp] theorem setOwner_freeIx (g : Nat) (o : Owner) (s : State) : (setOwner g o s).freeIx = s.freeIx := rfl
@[simp] theorem setOwner_phase (g : Nat) (o : Owner) (s : State) : (setOwner g o s).phase = s.phase := rfl
@[simp] theorem setOwner_srEntry (g : Nat) (o : Owner) (s : State) : (setOwner g o s).srEntry = s.srEntry := rfl
@[simp] theorem setOwner_pins (g : Nat) (o : Owner) (s : State) : (setOwner g o s).pins = s.pins := rfl
@[simp] theorem setOwner_aon (g : Nat) (o : Owner) (s : State) : (setOwner g o s).aon = s.aon := rfl
@[simp] theorem setOwner_smb (g : Nat) (o : Owner) (s : State) : (setOwner g o s).smb = s.smb := rfl
@[simp] theorem setOwner_jrn (g : Nat) (o : Owner) (s : State) : (setOwner g o s).jrn = s.jrn := rfl
@[simp] theorem setOwner_sec (g : Nat) (o : Owner) (s : State) : (setOwner g o s).sec = s.sec := rfl
@[simp] theorem setOwner_mbx (g : Nat) (o : Owner) (s : State) : (setOwner g o s).mbx = s.mbx := rfl
@[simp] theorem setOwner_d2d (g : Nat) (o : Owner) (s : State) : (setOwner g o s).d2d = s.d2d := rfl
@[simp] theorem setOwner_mem (g : Nat) (o : Owner) (s : State) : (setOwner g o s).mem = s.mem := rfl
@[simp] theorem setOwner_hostMem (g : Nat) (o : Owner) (s : State) : (setOwner g o s).hostMem = s.hostMem := rfl
@[simp] theorem setOwner_objs (g : Nat) (o : Owner) (s : State) : (setOwner g o s).objs = s.objs := rfl
@[simp] theorem setOwner_flash (g : Nat) (o : Owner) (s : State) : (setOwner g o s).flash = s.flash := rfl
@[simp] theorem setOwner_facets (g : Nat) (o : Owner) (s : State) : (setOwner g o s).facets = s.facets := rfl
@[simp] theorem setOwner_mesh (g : Nat) (o : Owner) (s : State) : (setOwner g o s).mesh = s.mesh := rfl
@[simp] theorem setOwner_sectors (g : Nat) (o : Owner) (s : State) : (setOwner g o s).sectors = s.sectors := rfl
@[simp] theorem setOwner_jobs (g : Nat) (o : Owner) (s : State) : (setOwner g o s).jobs = s.jobs := rfl
@[simp] theorem setOwner_fabric (g : Nat) (o : Owner) (s : State) : (setOwner g o s).fabric = s.fabric := rfl
@[simp] theorem setOwner_regions (g : Nat) (o : Owner) (s : State) : (setOwner g o s).regions = s.regions := rfl
@[simp] theorem setOwner_mgmt (g : Nat) (o : Owner) (s : State) : (setOwner g o s).mgmt = s.mgmt := rfl
@[simp] theorem setOwner_health (g : Nat) (o : Owner) (s : State) : (setOwner g o s).health = s.health := rfl
@[simp] theorem freeOwners_pending (p : Owner → Bool) (s : State) : (freeOwners p s).pending = s.pending := rfl
@[simp] theorem freeOwners_out (p : Owner → Bool) (s : State) : (freeOwners p s).out = s.out := rfl
@[simp] theorem freeOwners_freeIx (p : Owner → Bool) (s : State) : (freeOwners p s).freeIx = s.freeIx := rfl
@[simp] theorem freeOwners_phase (p : Owner → Bool) (s : State) : (freeOwners p s).phase = s.phase := rfl
@[simp] theorem freeOwners_srEntry (p : Owner → Bool) (s : State) : (freeOwners p s).srEntry = s.srEntry := rfl
@[simp] theorem freeOwners_pins (p : Owner → Bool) (s : State) : (freeOwners p s).pins = s.pins := rfl
@[simp] theorem freeOwners_aon (p : Owner → Bool) (s : State) : (freeOwners p s).aon = s.aon := rfl
@[simp] theorem freeOwners_smb (p : Owner → Bool) (s : State) : (freeOwners p s).smb = s.smb := rfl
@[simp] theorem freeOwners_jrn (p : Owner → Bool) (s : State) : (freeOwners p s).jrn = s.jrn := rfl
@[simp] theorem freeOwners_sec (p : Owner → Bool) (s : State) : (freeOwners p s).sec = s.sec := rfl
@[simp] theorem freeOwners_mbx (p : Owner → Bool) (s : State) : (freeOwners p s).mbx = s.mbx := rfl
@[simp] theorem freeOwners_d2d (p : Owner → Bool) (s : State) : (freeOwners p s).d2d = s.d2d := rfl
@[simp] theorem freeOwners_mem (p : Owner → Bool) (s : State) : (freeOwners p s).mem = s.mem := rfl
@[simp] theorem freeOwners_hostMem (p : Owner → Bool) (s : State) : (freeOwners p s).hostMem = s.hostMem := rfl
@[simp] theorem freeOwners_objs (p : Owner → Bool) (s : State) : (freeOwners p s).objs = s.objs := rfl
@[simp] theorem freeOwners_flash (p : Owner → Bool) (s : State) : (freeOwners p s).flash = s.flash := rfl
@[simp] theorem freeOwners_facets (p : Owner → Bool) (s : State) : (freeOwners p s).facets = s.facets := rfl
@[simp] theorem freeOwners_mesh (p : Owner → Bool) (s : State) : (freeOwners p s).mesh = s.mesh := rfl
@[simp] theorem freeOwners_sectors (p : Owner → Bool) (s : State) : (freeOwners p s).sectors = s.sectors := rfl
@[simp] theorem freeOwners_jobs (p : Owner → Bool) (s : State) : (freeOwners p s).jobs = s.jobs := rfl
@[simp] theorem freeOwners_fabric (p : Owner → Bool) (s : State) : (freeOwners p s).fabric = s.fabric := rfl
@[simp] theorem freeOwners_regions (p : Owner → Bool) (s : State) : (freeOwners p s).regions = s.regions := rfl
@[simp] theorem freeOwners_mgmt (p : Owner → Bool) (s : State) : (freeOwners p s).mgmt = s.mgmt := rfl
@[simp] theorem freeOwners_health (p : Owner → Bool) (s : State) : (freeOwners p s).health = s.health := rfl
@[simp] theorem ringError_pending (n : Fin 8) (code : BitVec 3) (s : State) : (ringError n code s).pending = s.pending := by
  unfold ringError; (try dsimp only); repeat' (first | with_reducible rfl | (simp; done) | split)
@[simp] theorem ringError_out (n : Fin 8) (code : BitVec 3) (s : State) : (ringError n code s).out = s.out := by
  unfold ringError; (try dsimp only); repeat' (first | with_reducible rfl | (simp; done) | split)
@[simp] theorem ringError_freeIx (n : Fin 8) (code : BitVec 3) (s : State) : (ringError n code s).freeIx = s.freeIx := by
  unfold ringError; (try dsimp only); repeat' (first | with_reducible rfl | (simp; done) | split)
@[simp] theorem ringError_phase (n : Fin 8) (code : BitVec 3) (s : State) : (ringError n code s).phase = s.phase := by
  unfold ringError; (try dsimp only); repeat' (first | with_reducible rfl | (simp; done) | split)
@[simp] theorem ringError_srEntry (n : Fin 8) (code : BitVec 3) (s : State) : (ringError n code s).srEntry = s.srEntry := by
  unfold ringError; (try dsimp only); repeat' (first | with_reducible rfl | (simp; done) | split)
@[simp] theorem ringError_pins (n : Fin 8) (code : BitVec 3) (s : State) : (ringError n code s).pins = s.pins := by
  unfold ringError; (try dsimp only); repeat' (first | with_reducible rfl | (simp; done) | split)
@[simp] theorem ringError_aon (n : Fin 8) (code : BitVec 3) (s : State) : (ringError n code s).aon = s.aon := by
  unfold ringError; (try dsimp only); repeat' (first | with_reducible rfl | (simp; done) | split)
@[simp] theorem ringError_smb (n : Fin 8) (code : BitVec 3) (s : State) : (ringError n code s).smb = s.smb := by
  unfold ringError; (try dsimp only); repeat' (first | with_reducible rfl | (simp; done) | split)
@[simp] theorem ringError_jrn (n : Fin 8) (code : BitVec 3) (s : State) : (ringError n code s).jrn = s.jrn := by
  unfold ringError; (try dsimp only); repeat' (first | with_reducible rfl | (simp; done) | split)
@[simp] theorem ringError_sec (n : Fin 8) (code : BitVec 3) (s : State) : (ringError n code s).sec = s.sec := by
  unfold ringError; (try dsimp only); repeat' (first | with_reducible rfl | (simp; done) | split)
@[simp] theorem ringError_d2d (n : Fin 8) (code : BitVec 3) (s : State) : (ringError n code s).d2d = s.d2d := by
  unfold ringError; (try dsimp only); repeat' (first | with_reducible rfl | (simp; done) | split)
@[simp] theorem ringError_mem (n : Fin 8) (code : BitVec 3) (s : State) : (ringError n code s).mem = s.mem := by
  unfold ringError; (try dsimp only); repeat' (first | with_reducible rfl | (simp; done) | split)
@[simp] theorem ringError_hostMem (n : Fin 8) (code : BitVec 3) (s : State) : (ringError n code s).hostMem = s.hostMem := by
  unfold ringError; (try dsimp only); repeat' (first | with_reducible rfl | (simp; done) | split)
@[simp] theorem ringError_objs (n : Fin 8) (code : BitVec 3) (s : State) : (ringError n code s).objs = s.objs := by
  unfold ringError; (try dsimp only); repeat' (first | with_reducible rfl | (simp; done) | split)
@[simp] theorem ringError_flash (n : Fin 8) (code : BitVec 3) (s : State) : (ringError n code s).flash = s.flash := by
  unfold ringError; (try dsimp only); repeat' (first | with_reducible rfl | (simp; done) | split)
@[simp] theorem ringError_facets (n : Fin 8) (code : BitVec 3) (s : State) : (ringError n code s).facets = s.facets := by
  unfold ringError; (try dsimp only); repeat' (first | with_reducible rfl | (simp; done) | split)
@[simp] theorem ringError_mesh (n : Fin 8) (code : BitVec 3) (s : State) : (ringError n code s).mesh = s.mesh := by
  unfold ringError; (try dsimp only); repeat' (first | with_reducible rfl | (simp; done) | split)
@[simp] theorem ringError_sectors (n : Fin 8) (code : BitVec 3) (s : State) : (ringError n code s).sectors = s.sectors := by
  unfold ringError; (try dsimp only); repeat' (first | with_reducible rfl | (simp; done) | split)
@[simp] theorem ringError_owners (n : Fin 8) (code : BitVec 3) (s : State) : (ringError n code s).owners = s.owners := by
  unfold ringError; (try dsimp only); repeat' (first | with_reducible rfl | (simp; done) | split)
@[simp] theorem ringError_jobs (n : Fin 8) (code : BitVec 3) (s : State) : (ringError n code s).jobs = s.jobs := by
  unfold ringError; (try dsimp only); repeat' (first | with_reducible rfl | (simp; done) | split)
@[simp] theorem ringError_fabric (n : Fin 8) (code : BitVec 3) (s : State) : (ringError n code s).fabric = s.fabric := by
  unfold ringError; (try dsimp only); repeat' (first | with_reducible rfl | (simp; done) | split)
@[simp] theorem ringError_regions (n : Fin 8) (code : BitVec 3) (s : State) : (ringError n code s).regions = s.regions := by
  unfold ringError; (try dsimp only); repeat' (first | with_reducible rfl | (simp; done) | split)
@[simp] theorem ringError_mgmt (n : Fin 8) (code : BitVec 3) (s : State) : (ringError n code s).mgmt = s.mgmt := by
  unfold ringError; (try dsimp only); repeat' (first | with_reducible rfl | (simp; done) | split)
@[simp] theorem ringError_health (n : Fin 8) (code : BitVec 3) (s : State) : (ringError n code s).health = s.health := by
  unfold ringError; (try dsimp only); repeat' (first | with_reducible rfl | (simp; done) | split)
@[simp] theorem failSlot_pending (n : Fin 8) (c : CplEnt) (s : State) : (failSlot n c s).pending = s.pending := by
  unfold failSlot; (try dsimp only); repeat' (first | with_reducible rfl | (simp; done) | split)
@[simp] theorem failSlot_out (n : Fin 8) (c : CplEnt) (s : State) : (failSlot n c s).out = s.out := by
  unfold failSlot; (try dsimp only); repeat' (first | with_reducible rfl | (simp; done) | split)
@[simp] theorem failSlot_freeIx (n : Fin 8) (c : CplEnt) (s : State) : (failSlot n c s).freeIx = s.freeIx := by
  unfold failSlot; (try dsimp only); repeat' (first | with_reducible rfl | (simp; done) | split)
@[simp] theorem failSlot_phase (n : Fin 8) (c : CplEnt) (s : State) : (failSlot n c s).phase = s.phase := by
  unfold failSlot; (try dsimp only); repeat' (first | with_reducible rfl | (simp; done) | split)
@[simp] theorem failSlot_srEntry (n : Fin 8) (c : CplEnt) (s : State) : (failSlot n c s).srEntry = s.srEntry := by
  unfold failSlot; (try dsimp only); repeat' (first | with_reducible rfl | (simp; done) | split)
@[simp] theorem failSlot_pins (n : Fin 8) (c : CplEnt) (s : State) : (failSlot n c s).pins = s.pins := by
  unfold failSlot; (try dsimp only); repeat' (first | with_reducible rfl | (simp; done) | split)
@[simp] theorem failSlot_aon (n : Fin 8) (c : CplEnt) (s : State) : (failSlot n c s).aon = s.aon := by
  unfold failSlot; (try dsimp only); repeat' (first | with_reducible rfl | (simp; done) | split)
@[simp] theorem failSlot_smb (n : Fin 8) (c : CplEnt) (s : State) : (failSlot n c s).smb = s.smb := by
  unfold failSlot; (try dsimp only); repeat' (first | with_reducible rfl | (simp; done) | split)
@[simp] theorem failSlot_jrn (n : Fin 8) (c : CplEnt) (s : State) : (failSlot n c s).jrn = s.jrn := by
  unfold failSlot; (try dsimp only); repeat' (first | with_reducible rfl | (simp; done) | split)
@[simp] theorem failSlot_sec (n : Fin 8) (c : CplEnt) (s : State) : (failSlot n c s).sec = s.sec := by
  unfold failSlot; (try dsimp only); repeat' (first | with_reducible rfl | (simp; done) | split)
@[simp] theorem failSlot_d2d (n : Fin 8) (c : CplEnt) (s : State) : (failSlot n c s).d2d = s.d2d := by
  unfold failSlot; (try dsimp only); repeat' (first | with_reducible rfl | (simp; done) | split)
@[simp] theorem failSlot_mem (n : Fin 8) (c : CplEnt) (s : State) : (failSlot n c s).mem = s.mem := by
  unfold failSlot; (try dsimp only); repeat' (first | with_reducible rfl | (simp; done) | split)
@[simp] theorem failSlot_hostMem (n : Fin 8) (c : CplEnt) (s : State) : (failSlot n c s).hostMem = s.hostMem := by
  unfold failSlot; (try dsimp only); repeat' (first | with_reducible rfl | (simp; done) | split)
@[simp] theorem failSlot_objs (n : Fin 8) (c : CplEnt) (s : State) : (failSlot n c s).objs = s.objs := by
  unfold failSlot; (try dsimp only); repeat' (first | with_reducible rfl | (simp; done) | split)
@[simp] theorem failSlot_flash (n : Fin 8) (c : CplEnt) (s : State) : (failSlot n c s).flash = s.flash := by
  unfold failSlot; (try dsimp only); repeat' (first | with_reducible rfl | (simp; done) | split)
@[simp] theorem failSlot_facets (n : Fin 8) (c : CplEnt) (s : State) : (failSlot n c s).facets = s.facets := by
  unfold failSlot; (try dsimp only); repeat' (first | with_reducible rfl | (simp; done) | split)
@[simp] theorem failSlot_mesh (n : Fin 8) (c : CplEnt) (s : State) : (failSlot n c s).mesh = s.mesh := by
  unfold failSlot; (try dsimp only); repeat' (first | with_reducible rfl | (simp; done) | split)
@[simp] theorem failSlot_sectors (n : Fin 8) (c : CplEnt) (s : State) : (failSlot n c s).sectors = s.sectors := by
  unfold failSlot; (try dsimp only); repeat' (first | with_reducible rfl | (simp; done) | split)
@[simp] theorem failSlot_owners (n : Fin 8) (c : CplEnt) (s : State) : (failSlot n c s).owners = s.owners := by
  unfold failSlot; (try dsimp only); repeat' (first | with_reducible rfl | (simp; done) | split)
@[simp] theorem failSlot_jobs (n : Fin 8) (c : CplEnt) (s : State) : (failSlot n c s).jobs = s.jobs := by
  unfold failSlot; (try dsimp only); repeat' (first | with_reducible rfl | (simp; done) | split)
@[simp] theorem failSlot_fabric (n : Fin 8) (c : CplEnt) (s : State) : (failSlot n c s).fabric = s.fabric := by
  unfold failSlot; (try dsimp only); repeat' (first | with_reducible rfl | (simp; done) | split)
@[simp] theorem failSlot_regions (n : Fin 8) (c : CplEnt) (s : State) : (failSlot n c s).regions = s.regions := by
  unfold failSlot; (try dsimp only); repeat' (first | with_reducible rfl | (simp; done) | split)
@[simp] theorem failSlot_mgmt (n : Fin 8) (c : CplEnt) (s : State) : (failSlot n c s).mgmt = s.mgmt := by
  unfold failSlot; (try dsimp only); repeat' (first | with_reducible rfl | (simp; done) | split)
@[simp] theorem failSlot_health (n : Fin 8) (c : CplEnt) (s : State) : (failSlot n c s).health = s.health := by
  unfold failSlot; (try dsimp only); repeat' (first | with_reducible rfl | (simp; done) | split)
@[simp] theorem writeSlot_pending (n : Fin 8) (c : CplEnt) (s : State) : (writeSlot n c s).pending = s.pending := by
  unfold writeSlot; (try dsimp only); repeat' (first | with_reducible rfl | (simp; done) | split)
@[simp] theorem writeSlot_freeIx (n : Fin 8) (c : CplEnt) (s : State) : (writeSlot n c s).freeIx = s.freeIx := by
  unfold writeSlot; (try dsimp only); repeat' (first | with_reducible rfl | (simp; done) | split)
@[simp] theorem writeSlot_phase (n : Fin 8) (c : CplEnt) (s : State) : (writeSlot n c s).phase = s.phase := by
  unfold writeSlot; (try dsimp only); repeat' (first | with_reducible rfl | (simp; done) | split)
@[simp] theorem writeSlot_srEntry (n : Fin 8) (c : CplEnt) (s : State) : (writeSlot n c s).srEntry = s.srEntry := by
  unfold writeSlot; (try dsimp only); repeat' (first | with_reducible rfl | (simp; done) | split)
@[simp] theorem writeSlot_pins (n : Fin 8) (c : CplEnt) (s : State) : (writeSlot n c s).pins = s.pins := by
  unfold writeSlot; (try dsimp only); repeat' (first | with_reducible rfl | (simp; done) | split)
@[simp] theorem writeSlot_aon (n : Fin 8) (c : CplEnt) (s : State) : (writeSlot n c s).aon = s.aon := by
  unfold writeSlot; (try dsimp only); repeat' (first | with_reducible rfl | (simp; done) | split)
@[simp] theorem writeSlot_smb (n : Fin 8) (c : CplEnt) (s : State) : (writeSlot n c s).smb = s.smb := by
  unfold writeSlot; (try dsimp only); repeat' (first | with_reducible rfl | (simp; done) | split)
@[simp] theorem writeSlot_jrn (n : Fin 8) (c : CplEnt) (s : State) : (writeSlot n c s).jrn = s.jrn := by
  unfold writeSlot; (try dsimp only); repeat' (first | with_reducible rfl | (simp; done) | split)
@[simp] theorem writeSlot_sec (n : Fin 8) (c : CplEnt) (s : State) : (writeSlot n c s).sec = s.sec := by
  unfold writeSlot; (try dsimp only); repeat' (first | with_reducible rfl | (simp; done) | split)
@[simp] theorem writeSlot_d2d (n : Fin 8) (c : CplEnt) (s : State) : (writeSlot n c s).d2d = s.d2d := by
  unfold writeSlot; (try dsimp only); repeat' (first | with_reducible rfl | (simp; done) | split)
@[simp] theorem writeSlot_mem (n : Fin 8) (c : CplEnt) (s : State) : (writeSlot n c s).mem = s.mem := by
  unfold writeSlot; (try dsimp only); repeat' (first | with_reducible rfl | (simp; done) | split)
@[simp] theorem writeSlot_hostMem (n : Fin 8) (c : CplEnt) (s : State) : (writeSlot n c s).hostMem = s.hostMem := by
  unfold writeSlot; (try dsimp only); repeat' (first | with_reducible rfl | (simp; done) | split)
@[simp] theorem writeSlot_objs (n : Fin 8) (c : CplEnt) (s : State) : (writeSlot n c s).objs = s.objs := by
  unfold writeSlot; (try dsimp only); repeat' (first | with_reducible rfl | (simp; done) | split)
@[simp] theorem writeSlot_flash (n : Fin 8) (c : CplEnt) (s : State) : (writeSlot n c s).flash = s.flash := by
  unfold writeSlot; (try dsimp only); repeat' (first | with_reducible rfl | (simp; done) | split)
@[simp] theorem writeSlot_facets (n : Fin 8) (c : CplEnt) (s : State) : (writeSlot n c s).facets = s.facets := by
  unfold writeSlot; (try dsimp only); repeat' (first | with_reducible rfl | (simp; done) | split)
@[simp] theorem writeSlot_mesh (n : Fin 8) (c : CplEnt) (s : State) : (writeSlot n c s).mesh = s.mesh := by
  unfold writeSlot; (try dsimp only); repeat' (first | with_reducible rfl | (simp; done) | split)
@[simp] theorem writeSlot_sectors (n : Fin 8) (c : CplEnt) (s : State) : (writeSlot n c s).sectors = s.sectors := by
  unfold writeSlot; (try dsimp only); repeat' (first | with_reducible rfl | (simp; done) | split)
@[simp] theorem writeSlot_owners (n : Fin 8) (c : CplEnt) (s : State) : (writeSlot n c s).owners = s.owners := by
  unfold writeSlot; (try dsimp only); repeat' (first | with_reducible rfl | (simp; done) | split)
@[simp] theorem writeSlot_jobs (n : Fin 8) (c : CplEnt) (s : State) : (writeSlot n c s).jobs = s.jobs := by
  unfold writeSlot; (try dsimp only); repeat' (first | with_reducible rfl | (simp; done) | split)
@[simp] theorem writeSlot_fabric (n : Fin 8) (c : CplEnt) (s : State) : (writeSlot n c s).fabric = s.fabric := by
  unfold writeSlot; (try dsimp only); repeat' (first | with_reducible rfl | (simp; done) | split)
@[simp] theorem writeSlot_regions (n : Fin 8) (c : CplEnt) (s : State) : (writeSlot n c s).regions = s.regions := by
  unfold writeSlot; (try dsimp only); repeat' (first | with_reducible rfl | (simp; done) | split)
@[simp] theorem writeSlot_mgmt (n : Fin 8) (c : CplEnt) (s : State) : (writeSlot n c s).mgmt = s.mgmt := by
  unfold writeSlot; (try dsimp only); repeat' (first | with_reducible rfl | (simp; done) | split)
@[simp] theorem writeSlot_health (n : Fin 8) (c : CplEnt) (s : State) : (writeSlot n c s).health = s.health := by
  unfold writeSlot; (try dsimp only); repeat' (first | with_reducible rfl | (simp; done) | split)
@[simp] theorem flushRing_pending (k : Nat) (n : Fin 8) (s : State) : (flushRing k n s).pending = s.pending := by
  induction k generalizing s with
  | zero => rfl
  | succ k ih =>
    unfold flushRing; split
    · rfl
    · split
      · rw [ih]; simp
      · rfl
@[simp] theorem pushCpl_pending (n : Fin 8) (c : CplEnt) (s : State) : (pushCpl n c s).pending = s.pending := by
  unfold pushCpl; (try dsimp only); repeat' (first | with_reducible rfl | (simp; done) | split)
@[simp] theorem flushRing_freeIx (k : Nat) (n : Fin 8) (s : State) : (flushRing k n s).freeIx = s.freeIx := by
  induction k generalizing s with
  | zero => rfl
  | succ k ih =>
    unfold flushRing; split
    · rfl
    · split
      · rw [ih]; simp
      · rfl
@[simp] theorem pushCpl_freeIx (n : Fin 8) (c : CplEnt) (s : State) : (pushCpl n c s).freeIx = s.freeIx := by
  unfold pushCpl; (try dsimp only); repeat' (first | with_reducible rfl | (simp; done) | split)
@[simp] theorem flushRing_phase (k : Nat) (n : Fin 8) (s : State) : (flushRing k n s).phase = s.phase := by
  induction k generalizing s with
  | zero => rfl
  | succ k ih =>
    unfold flushRing; split
    · rfl
    · split
      · rw [ih]; simp
      · rfl
@[simp] theorem pushCpl_phase (n : Fin 8) (c : CplEnt) (s : State) : (pushCpl n c s).phase = s.phase := by
  unfold pushCpl; (try dsimp only); repeat' (first | with_reducible rfl | (simp; done) | split)
@[simp] theorem flushRing_srEntry (k : Nat) (n : Fin 8) (s : State) : (flushRing k n s).srEntry = s.srEntry := by
  induction k generalizing s with
  | zero => rfl
  | succ k ih =>
    unfold flushRing; split
    · rfl
    · split
      · rw [ih]; simp
      · rfl
@[simp] theorem pushCpl_srEntry (n : Fin 8) (c : CplEnt) (s : State) : (pushCpl n c s).srEntry = s.srEntry := by
  unfold pushCpl; (try dsimp only); repeat' (first | with_reducible rfl | (simp; done) | split)
@[simp] theorem flushRing_pins (k : Nat) (n : Fin 8) (s : State) : (flushRing k n s).pins = s.pins := by
  induction k generalizing s with
  | zero => rfl
  | succ k ih =>
    unfold flushRing; split
    · rfl
    · split
      · rw [ih]; simp
      · rfl
@[simp] theorem pushCpl_pins (n : Fin 8) (c : CplEnt) (s : State) : (pushCpl n c s).pins = s.pins := by
  unfold pushCpl; (try dsimp only); repeat' (first | with_reducible rfl | (simp; done) | split)
@[simp] theorem flushRing_aon (k : Nat) (n : Fin 8) (s : State) : (flushRing k n s).aon = s.aon := by
  induction k generalizing s with
  | zero => rfl
  | succ k ih =>
    unfold flushRing; split
    · rfl
    · split
      · rw [ih]; simp
      · rfl
@[simp] theorem pushCpl_aon (n : Fin 8) (c : CplEnt) (s : State) : (pushCpl n c s).aon = s.aon := by
  unfold pushCpl; (try dsimp only); repeat' (first | with_reducible rfl | (simp; done) | split)
@[simp] theorem flushRing_smb (k : Nat) (n : Fin 8) (s : State) : (flushRing k n s).smb = s.smb := by
  induction k generalizing s with
  | zero => rfl
  | succ k ih =>
    unfold flushRing; split
    · rfl
    · split
      · rw [ih]; simp
      · rfl
@[simp] theorem pushCpl_smb (n : Fin 8) (c : CplEnt) (s : State) : (pushCpl n c s).smb = s.smb := by
  unfold pushCpl; (try dsimp only); repeat' (first | with_reducible rfl | (simp; done) | split)
@[simp] theorem flushRing_jrn (k : Nat) (n : Fin 8) (s : State) : (flushRing k n s).jrn = s.jrn := by
  induction k generalizing s with
  | zero => rfl
  | succ k ih =>
    unfold flushRing; split
    · rfl
    · split
      · rw [ih]; simp
      · rfl
@[simp] theorem pushCpl_jrn (n : Fin 8) (c : CplEnt) (s : State) : (pushCpl n c s).jrn = s.jrn := by
  unfold pushCpl; (try dsimp only); repeat' (first | with_reducible rfl | (simp; done) | split)
@[simp] theorem flushRing_sec (k : Nat) (n : Fin 8) (s : State) : (flushRing k n s).sec = s.sec := by
  induction k generalizing s with
  | zero => rfl
  | succ k ih =>
    unfold flushRing; split
    · rfl
    · split
      · rw [ih]; simp
      · rfl
@[simp] theorem pushCpl_sec (n : Fin 8) (c : CplEnt) (s : State) : (pushCpl n c s).sec = s.sec := by
  unfold pushCpl; (try dsimp only); repeat' (first | with_reducible rfl | (simp; done) | split)
@[simp] theorem flushRing_d2d (k : Nat) (n : Fin 8) (s : State) : (flushRing k n s).d2d = s.d2d := by
  induction k generalizing s with
  | zero => rfl
  | succ k ih =>
    unfold flushRing; split
    · rfl
    · split
      · rw [ih]; simp
      · rfl
@[simp] theorem pushCpl_d2d (n : Fin 8) (c : CplEnt) (s : State) : (pushCpl n c s).d2d = s.d2d := by
  unfold pushCpl; (try dsimp only); repeat' (first | with_reducible rfl | (simp; done) | split)
@[simp] theorem flushRing_mem (k : Nat) (n : Fin 8) (s : State) : (flushRing k n s).mem = s.mem := by
  induction k generalizing s with
  | zero => rfl
  | succ k ih =>
    unfold flushRing; split
    · rfl
    · split
      · rw [ih]; simp
      · rfl
@[simp] theorem pushCpl_mem (n : Fin 8) (c : CplEnt) (s : State) : (pushCpl n c s).mem = s.mem := by
  unfold pushCpl; (try dsimp only); repeat' (first | with_reducible rfl | (simp; done) | split)
@[simp] theorem flushRing_hostMem (k : Nat) (n : Fin 8) (s : State) : (flushRing k n s).hostMem = s.hostMem := by
  induction k generalizing s with
  | zero => rfl
  | succ k ih =>
    unfold flushRing; split
    · rfl
    · split
      · rw [ih]; simp
      · rfl
@[simp] theorem pushCpl_hostMem (n : Fin 8) (c : CplEnt) (s : State) : (pushCpl n c s).hostMem = s.hostMem := by
  unfold pushCpl; (try dsimp only); repeat' (first | with_reducible rfl | (simp; done) | split)
@[simp] theorem flushRing_objs (k : Nat) (n : Fin 8) (s : State) : (flushRing k n s).objs = s.objs := by
  induction k generalizing s with
  | zero => rfl
  | succ k ih =>
    unfold flushRing; split
    · rfl
    · split
      · rw [ih]; simp
      · rfl
@[simp] theorem pushCpl_objs (n : Fin 8) (c : CplEnt) (s : State) : (pushCpl n c s).objs = s.objs := by
  unfold pushCpl; (try dsimp only); repeat' (first | with_reducible rfl | (simp; done) | split)
@[simp] theorem flushRing_flash (k : Nat) (n : Fin 8) (s : State) : (flushRing k n s).flash = s.flash := by
  induction k generalizing s with
  | zero => rfl
  | succ k ih =>
    unfold flushRing; split
    · rfl
    · split
      · rw [ih]; simp
      · rfl
@[simp] theorem pushCpl_flash (n : Fin 8) (c : CplEnt) (s : State) : (pushCpl n c s).flash = s.flash := by
  unfold pushCpl; (try dsimp only); repeat' (first | with_reducible rfl | (simp; done) | split)
@[simp] theorem flushRing_facets (k : Nat) (n : Fin 8) (s : State) : (flushRing k n s).facets = s.facets := by
  induction k generalizing s with
  | zero => rfl
  | succ k ih =>
    unfold flushRing; split
    · rfl
    · split
      · rw [ih]; simp
      · rfl
@[simp] theorem pushCpl_facets (n : Fin 8) (c : CplEnt) (s : State) : (pushCpl n c s).facets = s.facets := by
  unfold pushCpl; (try dsimp only); repeat' (first | with_reducible rfl | (simp; done) | split)
@[simp] theorem flushRing_mesh (k : Nat) (n : Fin 8) (s : State) : (flushRing k n s).mesh = s.mesh := by
  induction k generalizing s with
  | zero => rfl
  | succ k ih =>
    unfold flushRing; split
    · rfl
    · split
      · rw [ih]; simp
      · rfl
@[simp] theorem pushCpl_mesh (n : Fin 8) (c : CplEnt) (s : State) : (pushCpl n c s).mesh = s.mesh := by
  unfold pushCpl; (try dsimp only); repeat' (first | with_reducible rfl | (simp; done) | split)
@[simp] theorem flushRing_sectors (k : Nat) (n : Fin 8) (s : State) : (flushRing k n s).sectors = s.sectors := by
  induction k generalizing s with
  | zero => rfl
  | succ k ih =>
    unfold flushRing; split
    · rfl
    · split
      · rw [ih]; simp
      · rfl
@[simp] theorem pushCpl_sectors (n : Fin 8) (c : CplEnt) (s : State) : (pushCpl n c s).sectors = s.sectors := by
  unfold pushCpl; (try dsimp only); repeat' (first | with_reducible rfl | (simp; done) | split)
@[simp] theorem flushRing_owners (k : Nat) (n : Fin 8) (s : State) : (flushRing k n s).owners = s.owners := by
  induction k generalizing s with
  | zero => rfl
  | succ k ih =>
    unfold flushRing; split
    · rfl
    · split
      · rw [ih]; simp
      · rfl
@[simp] theorem pushCpl_owners (n : Fin 8) (c : CplEnt) (s : State) : (pushCpl n c s).owners = s.owners := by
  unfold pushCpl; (try dsimp only); repeat' (first | with_reducible rfl | (simp; done) | split)
@[simp] theorem flushRing_jobs (k : Nat) (n : Fin 8) (s : State) : (flushRing k n s).jobs = s.jobs := by
  induction k generalizing s with
  | zero => rfl
  | succ k ih =>
    unfold flushRing; split
    · rfl
    · split
      · rw [ih]; simp
      · rfl
@[simp] theorem pushCpl_jobs (n : Fin 8) (c : CplEnt) (s : State) : (pushCpl n c s).jobs = s.jobs := by
  unfold pushCpl; (try dsimp only); repeat' (first | with_reducible rfl | (simp; done) | split)
@[simp] theorem flushRing_fabric (k : Nat) (n : Fin 8) (s : State) : (flushRing k n s).fabric = s.fabric := by
  induction k generalizing s with
  | zero => rfl
  | succ k ih =>
    unfold flushRing; split
    · rfl
    · split
      · rw [ih]; simp
      · rfl
@[simp] theorem pushCpl_fabric (n : Fin 8) (c : CplEnt) (s : State) : (pushCpl n c s).fabric = s.fabric := by
  unfold pushCpl; (try dsimp only); repeat' (first | with_reducible rfl | (simp; done) | split)
@[simp] theorem flushRing_regions (k : Nat) (n : Fin 8) (s : State) : (flushRing k n s).regions = s.regions := by
  induction k generalizing s with
  | zero => rfl
  | succ k ih =>
    unfold flushRing; split
    · rfl
    · split
      · rw [ih]; simp
      · rfl
@[simp] theorem pushCpl_regions (n : Fin 8) (c : CplEnt) (s : State) : (pushCpl n c s).regions = s.regions := by
  unfold pushCpl; (try dsimp only); repeat' (first | with_reducible rfl | (simp; done) | split)
@[simp] theorem flushRing_mgmt (k : Nat) (n : Fin 8) (s : State) : (flushRing k n s).mgmt = s.mgmt := by
  induction k generalizing s with
  | zero => rfl
  | succ k ih =>
    unfold flushRing; split
    · rfl
    · split
      · rw [ih]; simp
      · rfl
@[simp] theorem pushCpl_mgmt (n : Fin 8) (c : CplEnt) (s : State) : (pushCpl n c s).mgmt = s.mgmt := by
  unfold pushCpl; (try dsimp only); repeat' (first | with_reducible rfl | (simp; done) | split)
@[simp] theorem flushRing_health (k : Nat) (n : Fin 8) (s : State) : (flushRing k n s).health = s.health := by
  induction k generalizing s with
  | zero => rfl
  | succ k ih =>
    unfold flushRing; split
    · rfl
    · split
      · rw [ih]; simp
      · rfl
@[simp] theorem pushCpl_health (n : Fin 8) (c : CplEnt) (s : State) : (pushCpl n c s).health = s.health := by
  unfold pushCpl; (try dsimp only); repeat' (first | with_reducible rfl | (simp; done) | split)
@[simp] theorem emitCpl_pending (xid : W32) (total : Nat) (segs : List (Nat × Nat × List Byte)) (s : State) : (emitCpl xid total segs s).pending = s.pending := by
  unfold emitCpl; (try dsimp only); repeat' (first | with_reducible rfl | (simp; done) | split)
@[simp] theorem emitCpl_freeIx (xid : W32) (total : Nat) (segs : List (Nat × Nat × List Byte)) (s : State) : (emitCpl xid total segs s).freeIx = s.freeIx := by
  unfold emitCpl; (try dsimp only); repeat' (first | with_reducible rfl | (simp; done) | split)
@[simp] theorem emitCpl_phase (xid : W32) (total : Nat) (segs : List (Nat × Nat × List Byte)) (s : State) : (emitCpl xid total segs s).phase = s.phase := by
  unfold emitCpl; (try dsimp only); repeat' (first | with_reducible rfl | (simp; done) | split)
@[simp] theorem emitCpl_srEntry (xid : W32) (total : Nat) (segs : List (Nat × Nat × List Byte)) (s : State) : (emitCpl xid total segs s).srEntry = s.srEntry := by
  unfold emitCpl; (try dsimp only); repeat' (first | with_reducible rfl | (simp; done) | split)
@[simp] theorem emitCpl_pins (xid : W32) (total : Nat) (segs : List (Nat × Nat × List Byte)) (s : State) : (emitCpl xid total segs s).pins = s.pins := by
  unfold emitCpl; (try dsimp only); repeat' (first | with_reducible rfl | (simp; done) | split)
@[simp] theorem emitCpl_aon (xid : W32) (total : Nat) (segs : List (Nat × Nat × List Byte)) (s : State) : (emitCpl xid total segs s).aon = s.aon := by
  unfold emitCpl; (try dsimp only); repeat' (first | with_reducible rfl | (simp; done) | split)
@[simp] theorem emitCpl_smb (xid : W32) (total : Nat) (segs : List (Nat × Nat × List Byte)) (s : State) : (emitCpl xid total segs s).smb = s.smb := by
  unfold emitCpl; (try dsimp only); repeat' (first | with_reducible rfl | (simp; done) | split)
@[simp] theorem emitCpl_jrn (xid : W32) (total : Nat) (segs : List (Nat × Nat × List Byte)) (s : State) : (emitCpl xid total segs s).jrn = s.jrn := by
  unfold emitCpl; (try dsimp only); repeat' (first | with_reducible rfl | (simp; done) | split)
@[simp] theorem emitCpl_sec (xid : W32) (total : Nat) (segs : List (Nat × Nat × List Byte)) (s : State) : (emitCpl xid total segs s).sec = s.sec := by
  unfold emitCpl; (try dsimp only); repeat' (first | with_reducible rfl | (simp; done) | split)
@[simp] theorem emitCpl_mbx (xid : W32) (total : Nat) (segs : List (Nat × Nat × List Byte)) (s : State) : (emitCpl xid total segs s).mbx = s.mbx := by
  unfold emitCpl; (try dsimp only); repeat' (first | with_reducible rfl | (simp; done) | split)
@[simp] theorem emitCpl_d2d (xid : W32) (total : Nat) (segs : List (Nat × Nat × List Byte)) (s : State) : (emitCpl xid total segs s).d2d = s.d2d := by
  unfold emitCpl; (try dsimp only); repeat' (first | with_reducible rfl | (simp; done) | split)
@[simp] theorem emitCpl_mem (xid : W32) (total : Nat) (segs : List (Nat × Nat × List Byte)) (s : State) : (emitCpl xid total segs s).mem = s.mem := by
  unfold emitCpl; (try dsimp only); repeat' (first | with_reducible rfl | (simp; done) | split)
@[simp] theorem emitCpl_hostMem (xid : W32) (total : Nat) (segs : List (Nat × Nat × List Byte)) (s : State) : (emitCpl xid total segs s).hostMem = s.hostMem := by
  unfold emitCpl; (try dsimp only); repeat' (first | with_reducible rfl | (simp; done) | split)
@[simp] theorem emitCpl_objs (xid : W32) (total : Nat) (segs : List (Nat × Nat × List Byte)) (s : State) : (emitCpl xid total segs s).objs = s.objs := by
  unfold emitCpl; (try dsimp only); repeat' (first | with_reducible rfl | (simp; done) | split)
@[simp] theorem emitCpl_flash (xid : W32) (total : Nat) (segs : List (Nat × Nat × List Byte)) (s : State) : (emitCpl xid total segs s).flash = s.flash := by
  unfold emitCpl; (try dsimp only); repeat' (first | with_reducible rfl | (simp; done) | split)
@[simp] theorem emitCpl_facets (xid : W32) (total : Nat) (segs : List (Nat × Nat × List Byte)) (s : State) : (emitCpl xid total segs s).facets = s.facets := by
  unfold emitCpl; (try dsimp only); repeat' (first | with_reducible rfl | (simp; done) | split)
@[simp] theorem emitCpl_mesh (xid : W32) (total : Nat) (segs : List (Nat × Nat × List Byte)) (s : State) : (emitCpl xid total segs s).mesh = s.mesh := by
  unfold emitCpl; (try dsimp only); repeat' (first | with_reducible rfl | (simp; done) | split)
@[simp] theorem emitCpl_sectors (xid : W32) (total : Nat) (segs : List (Nat × Nat × List Byte)) (s : State) : (emitCpl xid total segs s).sectors = s.sectors := by
  unfold emitCpl; (try dsimp only); repeat' (first | with_reducible rfl | (simp; done) | split)
@[simp] theorem emitCpl_owners (xid : W32) (total : Nat) (segs : List (Nat × Nat × List Byte)) (s : State) : (emitCpl xid total segs s).owners = s.owners := by
  unfold emitCpl; (try dsimp only); repeat' (first | with_reducible rfl | (simp; done) | split)
@[simp] theorem emitCpl_jobs (xid : W32) (total : Nat) (segs : List (Nat × Nat × List Byte)) (s : State) : (emitCpl xid total segs s).jobs = s.jobs := by
  unfold emitCpl; (try dsimp only); repeat' (first | with_reducible rfl | (simp; done) | split)
@[simp] theorem emitCpl_fabric (xid : W32) (total : Nat) (segs : List (Nat × Nat × List Byte)) (s : State) : (emitCpl xid total segs s).fabric = s.fabric := by
  unfold emitCpl; (try dsimp only); repeat' (first | with_reducible rfl | (simp; done) | split)
@[simp] theorem emitCpl_regions (xid : W32) (total : Nat) (segs : List (Nat × Nat × List Byte)) (s : State) : (emitCpl xid total segs s).regions = s.regions := by
  unfold emitCpl; (try dsimp only); repeat' (first | with_reducible rfl | (simp; done) | split)
@[simp] theorem emitCpl_mgmt (xid : W32) (total : Nat) (segs : List (Nat × Nat × List Byte)) (s : State) : (emitCpl xid total segs s).mgmt = s.mgmt := by
  unfold emitCpl; (try dsimp only); repeat' (first | with_reducible rfl | (simp; done) | split)
@[simp] theorem emitCpl_health (xid : W32) (total : Nat) (segs : List (Nat × Nat × List Byte)) (s : State) : (emitCpl xid total segs s).health = s.health := by
  unfold emitCpl; (try dsimp only); repeat' (first | with_reducible rfl | (simp; done) | split)
@[simp] theorem sendCpl_pending (h : Hdr) (status : W16) (final : Bool) (result buf : List Byte) (s : State) : (sendCpl h status final result buf s).pending = s.pending := by
  unfold sendCpl; (try dsimp only); repeat' (first | with_reducible rfl | (simp; done) | split)
@[simp] theorem sendCpl_phase (h : Hdr) (status : W16) (final : Bool) (result buf : List Byte) (s : State) : (sendCpl h status final result buf s).phase = s.phase := by
  unfold sendCpl; (try dsimp only); repeat' (first | with_reducible rfl | (simp; done) | split)
@[simp] theorem sendCpl_srEntry (h : Hdr) (status : W16) (final : Bool) (result buf : List Byte) (s : State) : (sendCpl h status final result buf s).srEntry = s.srEntry := by
  unfold sendCpl; (try dsimp only); repeat' (first | with_reducible rfl | (simp; done) | split)
@[simp] theorem sendCpl_pins (h : Hdr) (status : W16) (final : Bool) (result buf : List Byte) (s : State) : (sendCpl h status final result buf s).pins = s.pins := by
  unfold sendCpl; (try dsimp only); repeat' (first | with_reducible rfl | (simp; done) | split)
@[simp] theorem sendCpl_aon (h : Hdr) (status : W16) (final : Bool) (result buf : List Byte) (s : State) : (sendCpl h status final result buf s).aon = s.aon := by
  unfold sendCpl; (try dsimp only); repeat' (first | with_reducible rfl | (simp; done) | split)
@[simp] theorem sendCpl_smb (h : Hdr) (status : W16) (final : Bool) (result buf : List Byte) (s : State) : (sendCpl h status final result buf s).smb = s.smb := by
  unfold sendCpl; (try dsimp only); repeat' (first | with_reducible rfl | (simp; done) | split)
@[simp] theorem sendCpl_jrn (h : Hdr) (status : W16) (final : Bool) (result buf : List Byte) (s : State) : (sendCpl h status final result buf s).jrn = s.jrn := by
  unfold sendCpl; (try dsimp only); repeat' (first | with_reducible rfl | (simp; done) | split)
@[simp] theorem sendCpl_sec (h : Hdr) (status : W16) (final : Bool) (result buf : List Byte) (s : State) : (sendCpl h status final result buf s).sec = s.sec := by
  unfold sendCpl; (try dsimp only); repeat' (first | with_reducible rfl | (simp; done) | split)
@[simp] theorem sendCpl_d2d (h : Hdr) (status : W16) (final : Bool) (result buf : List Byte) (s : State) : (sendCpl h status final result buf s).d2d = s.d2d := by
  unfold sendCpl; (try dsimp only); repeat' (first | with_reducible rfl | (simp; done) | split)
@[simp] theorem sendCpl_mem (h : Hdr) (status : W16) (final : Bool) (result buf : List Byte) (s : State) : (sendCpl h status final result buf s).mem = s.mem := by
  unfold sendCpl; (try dsimp only); repeat' (first | with_reducible rfl | (simp; done) | split)
@[simp] theorem sendCpl_hostMem (h : Hdr) (status : W16) (final : Bool) (result buf : List Byte) (s : State) : (sendCpl h status final result buf s).hostMem = s.hostMem := by
  unfold sendCpl; (try dsimp only); repeat' (first | with_reducible rfl | (simp; done) | split)
@[simp] theorem sendCpl_objs (h : Hdr) (status : W16) (final : Bool) (result buf : List Byte) (s : State) : (sendCpl h status final result buf s).objs = s.objs := by
  unfold sendCpl; (try dsimp only); repeat' (first | with_reducible rfl | (simp; done) | split)
@[simp] theorem sendCpl_flash (h : Hdr) (status : W16) (final : Bool) (result buf : List Byte) (s : State) : (sendCpl h status final result buf s).flash = s.flash := by
  unfold sendCpl; (try dsimp only); repeat' (first | with_reducible rfl | (simp; done) | split)
@[simp] theorem sendCpl_facets (h : Hdr) (status : W16) (final : Bool) (result buf : List Byte) (s : State) : (sendCpl h status final result buf s).facets = s.facets := by
  unfold sendCpl; (try dsimp only); repeat' (first | with_reducible rfl | (simp; done) | split)
@[simp] theorem sendCpl_mesh (h : Hdr) (status : W16) (final : Bool) (result buf : List Byte) (s : State) : (sendCpl h status final result buf s).mesh = s.mesh := by
  unfold sendCpl; (try dsimp only); repeat' (first | with_reducible rfl | (simp; done) | split)
@[simp] theorem sendCpl_sectors (h : Hdr) (status : W16) (final : Bool) (result buf : List Byte) (s : State) : (sendCpl h status final result buf s).sectors = s.sectors := by
  unfold sendCpl; (try dsimp only); repeat' (first | with_reducible rfl | (simp; done) | split)
@[simp] theorem sendCpl_owners (h : Hdr) (status : W16) (final : Bool) (result buf : List Byte) (s : State) : (sendCpl h status final result buf s).owners = s.owners := by
  unfold sendCpl; (try dsimp only); repeat' (first | with_reducible rfl | (simp; done) | split)
@[simp] theorem sendCpl_jobs (h : Hdr) (status : W16) (final : Bool) (result buf : List Byte) (s : State) : (sendCpl h status final result buf s).jobs = s.jobs := by
  unfold sendCpl; (try dsimp only); repeat' (first | with_reducible rfl | (simp; done) | split)
@[simp] theorem sendCpl_fabric (h : Hdr) (status : W16) (final : Bool) (result buf : List Byte) (s : State) : (sendCpl h status final result buf s).fabric = s.fabric := by
  unfold sendCpl; (try dsimp only); repeat' (first | with_reducible rfl | (simp; done) | split)
@[simp] theorem sendCpl_regions (h : Hdr) (status : W16) (final : Bool) (result buf : List Byte) (s : State) : (sendCpl h status final result buf s).regions = s.regions := by
  unfold sendCpl; (try dsimp only); repeat' (first | with_reducible rfl | (simp; done) | split)
@[simp] theorem sendCpl_health (h : Hdr) (status : W16) (final : Bool) (result buf : List Byte) (s : State) : (sendCpl h status final result buf s).health = s.health := by
  unfold sendCpl; (try dsimp only); repeat' (first | with_reducible rfl | (simp; done) | split)
@[simp] theorem answer_pending (h : Hdr) (status : W16) (final : Bool) (result buf : List Byte) (s : State) : (answer h status final result buf s).pending = s.pending := by
  unfold answer; (try dsimp only); repeat' (first | with_reducible rfl | (simp; done) | split)
@[simp] theorem answer_phase (h : Hdr) (status : W16) (final : Bool) (result buf : List Byte) (s : State) : (answer h status final result buf s).phase = s.phase := by
  unfold answer; (try dsimp only); repeat' (first | with_reducible rfl | (simp; done) | split)
@[simp] theorem answer_srEntry (h : Hdr) (status : W16) (final : Bool) (result buf : List Byte) (s : State) : (answer h status final result buf s).srEntry = s.srEntry := by
  unfold answer; (try dsimp only); repeat' (first | with_reducible rfl | (simp; done) | split)
@[simp] theorem answer_pins (h : Hdr) (status : W16) (final : Bool) (result buf : List Byte) (s : State) : (answer h status final result buf s).pins = s.pins := by
  unfold answer; (try dsimp only); repeat' (first | with_reducible rfl | (simp; done) | split)
@[simp] theorem answer_aon (h : Hdr) (status : W16) (final : Bool) (result buf : List Byte) (s : State) : (answer h status final result buf s).aon = s.aon := by
  unfold answer; (try dsimp only); repeat' (first | with_reducible rfl | (simp; done) | split)
@[simp] theorem answer_smb (h : Hdr) (status : W16) (final : Bool) (result buf : List Byte) (s : State) : (answer h status final result buf s).smb = s.smb := by
  unfold answer; (try dsimp only); repeat' (first | with_reducible rfl | (simp; done) | split)
@[simp] theorem answer_jrn (h : Hdr) (status : W16) (final : Bool) (result buf : List Byte) (s : State) : (answer h status final result buf s).jrn = s.jrn := by
  unfold answer; (try dsimp only); repeat' (first | with_reducible rfl | (simp; done) | split)
@[simp] theorem answer_sec (h : Hdr) (status : W16) (final : Bool) (result buf : List Byte) (s : State) : (answer h status final result buf s).sec = s.sec := by
  unfold answer; (try dsimp only); repeat' (first | with_reducible rfl | (simp; done) | split)
@[simp] theorem answer_d2d (h : Hdr) (status : W16) (final : Bool) (result buf : List Byte) (s : State) : (answer h status final result buf s).d2d = s.d2d := by
  unfold answer; (try dsimp only); repeat' (first | with_reducible rfl | (simp; done) | split)
@[simp] theorem answer_mem (h : Hdr) (status : W16) (final : Bool) (result buf : List Byte) (s : State) : (answer h status final result buf s).mem = s.mem := by
  unfold answer; (try dsimp only); repeat' (first | with_reducible rfl | (simp; done) | split)
@[simp] theorem answer_hostMem (h : Hdr) (status : W16) (final : Bool) (result buf : List Byte) (s : State) : (answer h status final result buf s).hostMem = s.hostMem := by
  unfold answer; (try dsimp only); repeat' (first | with_reducible rfl | (simp; done) | split)
@[simp] theorem answer_objs (h : Hdr) (status : W16) (final : Bool) (result buf : List Byte) (s : State) : (answer h status final result buf s).objs = s.objs := by
  unfold answer; (try dsimp only); repeat' (first | with_reducible rfl | (simp; done) | split)
@[simp] theorem answer_flash (h : Hdr) (status : W16) (final : Bool) (result buf : List Byte) (s : State) : (answer h status final result buf s).flash = s.flash := by
  unfold answer; (try dsimp only); repeat' (first | with_reducible rfl | (simp; done) | split)
@[simp] theorem answer_facets (h : Hdr) (status : W16) (final : Bool) (result buf : List Byte) (s : State) : (answer h status final result buf s).facets = s.facets := by
  unfold answer; (try dsimp only); repeat' (first | with_reducible rfl | (simp; done) | split)
@[simp] theorem answer_mesh (h : Hdr) (status : W16) (final : Bool) (result buf : List Byte) (s : State) : (answer h status final result buf s).mesh = s.mesh := by
  unfold answer; (try dsimp only); repeat' (first | with_reducible rfl | (simp; done) | split)
@[simp] theorem answer_sectors (h : Hdr) (status : W16) (final : Bool) (result buf : List Byte) (s : State) : (answer h status final result buf s).sectors = s.sectors := by
  unfold answer; (try dsimp only); repeat' (first | with_reducible rfl | (simp; done) | split)
@[simp] theorem answer_owners (h : Hdr) (status : W16) (final : Bool) (result buf : List Byte) (s : State) : (answer h status final result buf s).owners = s.owners := by
  unfold answer; (try dsimp only); repeat' (first | with_reducible rfl | (simp; done) | split)
@[simp] theorem answer_jobs (h : Hdr) (status : W16) (final : Bool) (result buf : List Byte) (s : State) : (answer h status final result buf s).jobs = s.jobs := by
  unfold answer; (try dsimp only); repeat' (first | with_reducible rfl | (simp; done) | split)
@[simp] theorem answer_fabric (h : Hdr) (status : W16) (final : Bool) (result buf : List Byte) (s : State) : (answer h status final result buf s).fabric = s.fabric := by
  unfold answer; (try dsimp only); repeat' (first | with_reducible rfl | (simp; done) | split)
@[simp] theorem answer_regions (h : Hdr) (status : W16) (final : Bool) (result buf : List Byte) (s : State) : (answer h status final result buf s).regions = s.regions := by
  unfold answer; (try dsimp only); repeat' (first | with_reducible rfl | (simp; done) | split)
@[simp] theorem answer_health (h : Hdr) (status : W16) (final : Bool) (result buf : List Byte) (s : State) : (answer h status final result buf s).health = s.health := by
  unfold answer; (try dsimp only); repeat' (first | with_reducible rfl | (simp; done) | split)
@[simp] theorem complete_pending (h : Hdr) (status : W16) (result : List Byte) (s : State) : (complete h status result s).pending = s.pending := by
  unfold complete; (try dsimp only); repeat' (first | with_reducible rfl | (simp; done) | split)
@[simp] theorem complete_phase (h : Hdr) (status : W16) (result : List Byte) (s : State) : (complete h status result s).phase = s.phase := by
  unfold complete; (try dsimp only); repeat' (first | with_reducible rfl | (simp; done) | split)
@[simp] theorem complete_srEntry (h : Hdr) (status : W16) (result : List Byte) (s : State) : (complete h status result s).srEntry = s.srEntry := by
  unfold complete; (try dsimp only); repeat' (first | with_reducible rfl | (simp; done) | split)
@[simp] theorem complete_pins (h : Hdr) (status : W16) (result : List Byte) (s : State) : (complete h status result s).pins = s.pins := by
  unfold complete; (try dsimp only); repeat' (first | with_reducible rfl | (simp; done) | split)
@[simp] theorem complete_aon (h : Hdr) (status : W16) (result : List Byte) (s : State) : (complete h status result s).aon = s.aon := by
  unfold complete; (try dsimp only); repeat' (first | with_reducible rfl | (simp; done) | split)
@[simp] theorem complete_smb (h : Hdr) (status : W16) (result : List Byte) (s : State) : (complete h status result s).smb = s.smb := by
  unfold complete; (try dsimp only); repeat' (first | with_reducible rfl | (simp; done) | split)
@[simp] theorem complete_jrn (h : Hdr) (status : W16) (result : List Byte) (s : State) : (complete h status result s).jrn = s.jrn := by
  unfold complete; (try dsimp only); repeat' (first | with_reducible rfl | (simp; done) | split)
@[simp] theorem complete_sec (h : Hdr) (status : W16) (result : List Byte) (s : State) : (complete h status result s).sec = s.sec := by
  unfold complete; (try dsimp only); repeat' (first | with_reducible rfl | (simp; done) | split)
@[simp] theorem complete_d2d (h : Hdr) (status : W16) (result : List Byte) (s : State) : (complete h status result s).d2d = s.d2d := by
  unfold complete; (try dsimp only); repeat' (first | with_reducible rfl | (simp; done) | split)
@[simp] theorem complete_mem (h : Hdr) (status : W16) (result : List Byte) (s : State) : (complete h status result s).mem = s.mem := by
  unfold complete; (try dsimp only); repeat' (first | with_reducible rfl | (simp; done) | split)
@[simp] theorem complete_hostMem (h : Hdr) (status : W16) (result : List Byte) (s : State) : (complete h status result s).hostMem = s.hostMem := by
  unfold complete; (try dsimp only); repeat' (first | with_reducible rfl | (simp; done) | split)
@[simp] theorem complete_objs (h : Hdr) (status : W16) (result : List Byte) (s : State) : (complete h status result s).objs = s.objs := by
  unfold complete; (try dsimp only); repeat' (first | with_reducible rfl | (simp; done) | split)
@[simp] theorem complete_flash (h : Hdr) (status : W16) (result : List Byte) (s : State) : (complete h status result s).flash = s.flash := by
  unfold complete; (try dsimp only); repeat' (first | with_reducible rfl | (simp; done) | split)
@[simp] theorem complete_facets (h : Hdr) (status : W16) (result : List Byte) (s : State) : (complete h status result s).facets = s.facets := by
  unfold complete; (try dsimp only); repeat' (first | with_reducible rfl | (simp; done) | split)
@[simp] theorem complete_mesh (h : Hdr) (status : W16) (result : List Byte) (s : State) : (complete h status result s).mesh = s.mesh := by
  unfold complete; (try dsimp only); repeat' (first | with_reducible rfl | (simp; done) | split)
@[simp] theorem complete_sectors (h : Hdr) (status : W16) (result : List Byte) (s : State) : (complete h status result s).sectors = s.sectors := by
  unfold complete; (try dsimp only); repeat' (first | with_reducible rfl | (simp; done) | split)
@[simp] theorem complete_owners (h : Hdr) (status : W16) (result : List Byte) (s : State) : (complete h status result s).owners = s.owners := by
  unfold complete; (try dsimp only); repeat' (first | with_reducible rfl | (simp; done) | split)
@[simp] theorem complete_jobs (h : Hdr) (status : W16) (result : List Byte) (s : State) : (complete h status result s).jobs = s.jobs := by
  unfold complete; (try dsimp only); repeat' (first | with_reducible rfl | (simp; done) | split)
@[simp] theorem complete_fabric (h : Hdr) (status : W16) (result : List Byte) (s : State) : (complete h status result s).fabric = s.fabric := by
  unfold complete; (try dsimp only); repeat' (first | with_reducible rfl | (simp; done) | split)
@[simp] theorem complete_regions (h : Hdr) (status : W16) (result : List Byte) (s : State) : (complete h status result s).regions = s.regions := by
  unfold complete; (try dsimp only); repeat' (first | with_reducible rfl | (simp; done) | split)
@[simp] theorem complete_health (h : Hdr) (status : W16) (result : List Byte) (s : State) : (complete h status result s).health = s.health := by
  unfold complete; (try dsimp only); repeat' (first | with_reducible rfl | (simp; done) | split)
@[simp] theorem defer_pending (h : Hdr) (result : List Byte) (s : State) : (defer h result s).pending = s.pending := by
  unfold defer; (try dsimp only); repeat' (first | with_reducible rfl | (simp; done) | split)
@[simp] theorem defer_phase (h : Hdr) (result : List Byte) (s : State) : (defer h result s).phase = s.phase := by
  unfold defer; (try dsimp only); repeat' (first | with_reducible rfl | (simp; done) | split)
@[simp] theorem defer_srEntry (h : Hdr) (result : List Byte) (s : State) : (defer h result s).srEntry = s.srEntry := by
  unfold defer; (try dsimp only); repeat' (first | with_reducible rfl | (simp; done) | split)
@[simp] theorem defer_pins (h : Hdr) (result : List Byte) (s : State) : (defer h result s).pins = s.pins := by
  unfold defer; (try dsimp only); repeat' (first | with_reducible rfl | (simp; done) | split)
@[simp] theorem defer_aon (h : Hdr) (result : List Byte) (s : State) : (defer h result s).aon = s.aon := by
  unfold defer; (try dsimp only); repeat' (first | with_reducible rfl | (simp; done) | split)
@[simp] theorem defer_smb (h : Hdr) (result : List Byte) (s : State) : (defer h result s).smb = s.smb := by
  unfold defer; (try dsimp only); repeat' (first | with_reducible rfl | (simp; done) | split)
@[simp] theorem defer_jrn (h : Hdr) (result : List Byte) (s : State) : (defer h result s).jrn = s.jrn := by
  unfold defer; (try dsimp only); repeat' (first | with_reducible rfl | (simp; done) | split)
@[simp] theorem defer_sec (h : Hdr) (result : List Byte) (s : State) : (defer h result s).sec = s.sec := by
  unfold defer; (try dsimp only); repeat' (first | with_reducible rfl | (simp; done) | split)
@[simp] theorem defer_d2d (h : Hdr) (result : List Byte) (s : State) : (defer h result s).d2d = s.d2d := by
  unfold defer; (try dsimp only); repeat' (first | with_reducible rfl | (simp; done) | split)
@[simp] theorem defer_mem (h : Hdr) (result : List Byte) (s : State) : (defer h result s).mem = s.mem := by
  unfold defer; (try dsimp only); repeat' (first | with_reducible rfl | (simp; done) | split)
@[simp] theorem defer_hostMem (h : Hdr) (result : List Byte) (s : State) : (defer h result s).hostMem = s.hostMem := by
  unfold defer; (try dsimp only); repeat' (first | with_reducible rfl | (simp; done) | split)
@[simp] theorem defer_objs (h : Hdr) (result : List Byte) (s : State) : (defer h result s).objs = s.objs := by
  unfold defer; (try dsimp only); repeat' (first | with_reducible rfl | (simp; done) | split)
@[simp] theorem defer_flash (h : Hdr) (result : List Byte) (s : State) : (defer h result s).flash = s.flash := by
  unfold defer; (try dsimp only); repeat' (first | with_reducible rfl | (simp; done) | split)
@[simp] theorem defer_facets (h : Hdr) (result : List Byte) (s : State) : (defer h result s).facets = s.facets := by
  unfold defer; (try dsimp only); repeat' (first | with_reducible rfl | (simp; done) | split)
@[simp] theorem defer_mesh (h : Hdr) (result : List Byte) (s : State) : (defer h result s).mesh = s.mesh := by
  unfold defer; (try dsimp only); repeat' (first | with_reducible rfl | (simp; done) | split)
@[simp] theorem defer_sectors (h : Hdr) (result : List Byte) (s : State) : (defer h result s).sectors = s.sectors := by
  unfold defer; (try dsimp only); repeat' (first | with_reducible rfl | (simp; done) | split)
@[simp] theorem defer_owners (h : Hdr) (result : List Byte) (s : State) : (defer h result s).owners = s.owners := by
  unfold defer; (try dsimp only); repeat' (first | with_reducible rfl | (simp; done) | split)
@[simp] theorem defer_jobs (h : Hdr) (result : List Byte) (s : State) : (defer h result s).jobs = s.jobs := by
  unfold defer; (try dsimp only); repeat' (first | with_reducible rfl | (simp; done) | split)
@[simp] theorem defer_fabric (h : Hdr) (result : List Byte) (s : State) : (defer h result s).fabric = s.fabric := by
  unfold defer; (try dsimp only); repeat' (first | with_reducible rfl | (simp; done) | split)
@[simp] theorem defer_regions (h : Hdr) (result : List Byte) (s : State) : (defer h result s).regions = s.regions := by
  unfold defer; (try dsimp only); repeat' (first | with_reducible rfl | (simp; done) | split)
@[simp] theorem defer_health (h : Hdr) (result : List Byte) (s : State) : (defer h result s).health = s.health := by
  unfold defer; (try dsimp only); repeat' (first | with_reducible rfl | (simp; done) | split)
@[simp] theorem startCmd_pending (h : Hdr) (s : State) : (startCmd h s).pending = s.pending := by
  unfold startCmd; (try dsimp only); repeat' (first | with_reducible rfl | (simp; done) | split)
@[simp] theorem startCmd_out (h : Hdr) (s : State) : (startCmd h s).out = s.out := by
  unfold startCmd; (try dsimp only); repeat' (first | with_reducible rfl | (simp; done) | split)
@[simp] theorem startCmd_freeIx (h : Hdr) (s : State) : (startCmd h s).freeIx = s.freeIx := by
  unfold startCmd; (try dsimp only); repeat' (first | with_reducible rfl | (simp; done) | split)
@[simp] theorem startCmd_phase (h : Hdr) (s : State) : (startCmd h s).phase = s.phase := by
  unfold startCmd; (try dsimp only); repeat' (first | with_reducible rfl | (simp; done) | split)
@[simp] theorem startCmd_srEntry (h : Hdr) (s : State) : (startCmd h s).srEntry = s.srEntry := by
  unfold startCmd; (try dsimp only); repeat' (first | with_reducible rfl | (simp; done) | split)
@[simp] theorem startCmd_pins (h : Hdr) (s : State) : (startCmd h s).pins = s.pins := by
  unfold startCmd; (try dsimp only); repeat' (first | with_reducible rfl | (simp; done) | split)
@[simp] theorem startCmd_aon (h : Hdr) (s : State) : (startCmd h s).aon = s.aon := by
  unfold startCmd; (try dsimp only); repeat' (first | with_reducible rfl | (simp; done) | split)
@[simp] theorem startCmd_smb (h : Hdr) (s : State) : (startCmd h s).smb = s.smb := by
  unfold startCmd; (try dsimp only); repeat' (first | with_reducible rfl | (simp; done) | split)
@[simp] theorem startCmd_jrn (h : Hdr) (s : State) : (startCmd h s).jrn = s.jrn := by
  unfold startCmd; (try dsimp only); repeat' (first | with_reducible rfl | (simp; done) | split)
@[simp] theorem startCmd_sec (h : Hdr) (s : State) : (startCmd h s).sec = s.sec := by
  unfold startCmd; (try dsimp only); repeat' (first | with_reducible rfl | (simp; done) | split)
@[simp] theorem startCmd_d2d (h : Hdr) (s : State) : (startCmd h s).d2d = s.d2d := by
  unfold startCmd; (try dsimp only); repeat' (first | with_reducible rfl | (simp; done) | split)
@[simp] theorem startCmd_mem (h : Hdr) (s : State) : (startCmd h s).mem = s.mem := by
  unfold startCmd; (try dsimp only); repeat' (first | with_reducible rfl | (simp; done) | split)
@[simp] theorem startCmd_hostMem (h : Hdr) (s : State) : (startCmd h s).hostMem = s.hostMem := by
  unfold startCmd; (try dsimp only); repeat' (first | with_reducible rfl | (simp; done) | split)
@[simp] theorem startCmd_objs (h : Hdr) (s : State) : (startCmd h s).objs = s.objs := by
  unfold startCmd; (try dsimp only); repeat' (first | with_reducible rfl | (simp; done) | split)
@[simp] theorem startCmd_flash (h : Hdr) (s : State) : (startCmd h s).flash = s.flash := by
  unfold startCmd; (try dsimp only); repeat' (first | with_reducible rfl | (simp; done) | split)
@[simp] theorem startCmd_facets (h : Hdr) (s : State) : (startCmd h s).facets = s.facets := by
  unfold startCmd; (try dsimp only); repeat' (first | with_reducible rfl | (simp; done) | split)
@[simp] theorem startCmd_mesh (h : Hdr) (s : State) : (startCmd h s).mesh = s.mesh := by
  unfold startCmd; (try dsimp only); repeat' (first | with_reducible rfl | (simp; done) | split)
@[simp] theorem startCmd_sectors (h : Hdr) (s : State) : (startCmd h s).sectors = s.sectors := by
  unfold startCmd; (try dsimp only); repeat' (first | with_reducible rfl | (simp; done) | split)
@[simp] theorem startCmd_owners (h : Hdr) (s : State) : (startCmd h s).owners = s.owners := by
  unfold startCmd; (try dsimp only); repeat' (first | with_reducible rfl | (simp; done) | split)
@[simp] theorem startCmd_jobs (h : Hdr) (s : State) : (startCmd h s).jobs = s.jobs := by
  unfold startCmd; (try dsimp only); repeat' (first | with_reducible rfl | (simp; done) | split)
@[simp] theorem startCmd_fabric (h : Hdr) (s : State) : (startCmd h s).fabric = s.fabric := by
  unfold startCmd; (try dsimp only); repeat' (first | with_reducible rfl | (simp; done) | split)
@[simp] theorem startCmd_regions (h : Hdr) (s : State) : (startCmd h s).regions = s.regions := by
  unfold startCmd; (try dsimp only); repeat' (first | with_reducible rfl | (simp; done) | split)
@[simp] theorem startCmd_mgmt (h : Hdr) (s : State) : (startCmd h s).mgmt = s.mgmt := by
  unfold startCmd; (try dsimp only); repeat' (first | with_reducible rfl | (simp; done) | split)
@[simp] theorem startCmd_health (h : Hdr) (s : State) : (startCmd h s).health = s.health := by
  unfold startCmd; (try dsimp only); repeat' (first | with_reducible rfl | (simp; done) | split)

end Sys2Proof.Machine
end

