-- ==== Sys2Proof/Laws/Mailbox.lean ====
section
/-! SUPPORT. Sys2Proof/Laws/Mailbox.lean: what running a mailbox command does (R107, R108, R115, R116), said once. -/

namespace Sys2Proof.Machine

/-- An accepted command starts, and its own rule decides. -/
theorem runCmd_accepted {c : Cat} {h : Hdr} {body : State → State} {s : State} (ha : accepted c h s = true) :
    runCmd c h body s = body (startCmd h s) := by
  simp only [accepted, Bool.and_eq_true, Option.isNone_iff_eq_none] at ha
  simp [runCmd, ha.1, ha.2]

/-- A command that is not the next to start leaves the state as it is (log 2). -/
theorem runCmd_notReady {c : Cat} {h : Hdr} {body : State → State} {s : State} (ha : cmdReady c h s = false) :
    runCmd c h body s = s := by
  simp [runCmd, ha]

/-- A command that fails a common check completes with that check's status and has no other effect (R115, R116, R119). -/
theorem runCmd_failed {c : Cat} {h : Hdr} {body : State → State} {s : State} {st : W16} (hr : cmdReady c h s = true)
    (hs : commonStatus c h (startCmd h s) = some st) : runCmd c h body s = complete h st [] (startCmd h s) := by
  simp [runCmd, hr, hs]

end Sys2Proof.Machine
end

