-- ==== Sys2Proof/Laws/Memory.lean ====
section
/-! SUPPORT. Sys2Proof/Laws/Memory.lean: every memory operation keeps the canonical form, a read after a write gives what was
written, a write leaves every other byte alone, and the laws of the vectors of `State`. -/

namespace Sys2Proof.Machine

/-! ### Vectors -/

theorem vupd_self {α : Type} {n : Nat} (v : Vector α n) (i : Fin n) (g : α → α) : (vupd v i g)[i] = g v[i] := by
  simp [vupd]

theorem vupd_ne {α : Type} {n : Nat} (v : Vector α n) (i j : Fin n) (g : α → α) (h : j ≠ i) : (vupd v i g)[j] = v[j] := by
  have : i.val ≠ j.val := fun e => h (Fin.ext e.symm)
  simp only [vupd]
  exact Vector.getElem_set_ne _ _ this

theorem vgen_get {α : Type} {n : Nat} (f : Fin n → α) (i : Fin n) : (vgen f)[i] = f i := by simp [vgen]

theorem vmap_get {α : Type} {n : Nat} (v : Vector α n) (f : Fin n → α → α) (i : Fin n) : (vmap v f)[i] = f i v[i] := by
  simp only [vmap, vgen_get]

theorem modFacet_self (f : Fin 96) (g : Facet → Facet) (s : State) : (modFacet f g s).facets[f] = g s.facets[f] := vupd_self ..

theorem modFacet_ne (f k : Fin 96) (g : Facet → Facet) (s : State) (h : k ≠ f) : (modFacet f g s).facets[k] = s.facets[k] :=
  vupd_ne _ _ _ _ h

theorem modSector_self (k : Fin 4) (g : Sector → Sector) (s : State) : (modSector k g s).sectors[k] = g s.sectors[k] := vupd_self ..

theorem modSector_ne (k j : Fin 4) (g : Sector → Sector) (s : State) (h : j ≠ k) : (modSector k g s).sectors[j] = s.sectors[j] :=
  vupd_ne _ _ _ _ h

/-! ### Sparse stores -/

/-- The canonical form as two facts: the keys rise strictly, and no default is listed. -/
theorem scanon_iff {α : Type} [DecidableEq α] (d : α) (m : List (Nat × α)) :
    scanon d m = true ↔ m.Pairwise (fun a b => a.1 < b.1) ∧ ∀ c ∈ m, c.2 ≠ d := by
  induction m with
  | nil => simp [scanon]
  | cons c m ih =>
    cases m with
    | nil => simp [scanon]
    | cons c' m =>
      simp only [scanon, Bool.and_eq_true, decide_eq_true_eq, ih, List.pairwise_cons, List.forall_mem_cons]
      constructor
      · rintro ⟨⟨h1, h2⟩, ⟨h3, h4⟩, h5⟩
        exact ⟨⟨⟨h2, fun x hx => lt_trans h2 (h3 x hx)⟩, h3, h4⟩, by simpa using h1, h5⟩
      · rintro ⟨⟨⟨h1, -⟩, h2, h3⟩, h4, h5⟩
        exact ⟨⟨by simpa using h4, h1⟩, ⟨h2, h3⟩, h5⟩

theorem mem_sins {α : Type} {m : List (Nat × α)} {k : Nat} {v : α} {c : Nat × α} (h : c ∈ sins m k v) : c = (k, v) ∨ c ∈ m := by
  induction m with
  | nil => simpa [sins] using h
  | cons x m ih =>
    obtain ⟨k', v'⟩ := x
    simp only [sins] at h
    split at h
    · simpa using h
    · split at h
      · rcases List.mem_cons.1 h with h | h
        · exact .inl h
        · exact .inr (List.mem_cons_of_mem _ h)
      · rcases List.mem_cons.1 h with h | h
        · exact .inr (by simp [h])
        · exact (ih h).imp id (List.mem_cons_of_mem _)

theorem sins_sorted {α : Type} {m : List (Nat × α)} (k : Nat) (v : α) (h : m.Pairwise fun a b => a.1 < b.1) :
    (sins m k v).Pairwise fun a b => a.1 < b.1 := by
  induction m with
  | nil => simp [sins]
  | cons x m ih =>
    obtain ⟨k', v'⟩ := x
    obtain ⟨h1, h2⟩ := List.pairwise_cons.1 h
    simp only [sins]
    split
    · next hk =>
        refine List.pairwise_cons.2 ⟨fun c hc => ?_, h⟩
        rcases List.mem_cons.1 hc with rfl | hc
        · exact hk
        · exact lt_trans hk (h1 c hc)
    · split
      · next hk => subst hk; exact List.pairwise_cons.2 ⟨h1, h2⟩
      · refine List.pairwise_cons.2 ⟨fun c hc => ?_, ih h2⟩
        rcases mem_sins hc with rfl | hc
        · simp only; omega
        · exact h1 c hc

theorem sins_wf {α : Type} [DecidableEq α] {d : α} {m : List (Nat × α)} (k : Nat) {v : α} (hv : v ≠ d) (h : scanon d m = true) :
    scanon d (sins m k v) = true := by
  rw [scanon_iff] at *
  exact ⟨sins_sorted k v h.1, fun c hc => (mem_sins hc).elim (fun e => e ▸ hv) (h.2 c)⟩

theorem filter_wf {α : Type} [DecidableEq α] {d : α} {m : List (Nat × α)} (p : Nat × α → Bool) (h : scanon d m = true) :
    scanon d (m.filter p) = true := by
  rw [scanon_iff] at *
  exact ⟨h.1.filter p, fun c hc => h.2 c (List.mem_of_mem_filter hc)⟩

theorem serase_wf {α : Type} [DecidableEq α] {d : α} {m : List (Nat × α)} (k : Nat) (h : scanon d m = true) :
    scanon d (serase m k) = true := filter_wf _ h

theorem sset_wf {α : Type} [DecidableEq α] {d : α} {m : List (Nat × α)} (k : Nat) (v : α) (h : scanon d m = true) :
    scanon d (sset d m k v) = true := by
  unfold sset
  split
  · exact serase_wf k h
  · next hv => exact sins_wf k hv h

theorem sclear_wf {α : Type} [DecidableEq α] {d : α} {m : List (Nat × α)} (a n : Nat) (h : scanon d m = true) :
    scanon d (sclear m a n) = true := filter_wf _ h

theorem splice_wf {α : Type} [DecidableEq α] {d : α} {m cs : List (Nat × α)} (a n : Nat) (h : scanon d m = true)
    (hc : scanon d cs = true) (hr : ∀ c ∈ cs, a ≤ c.1 ∧ c.1 < a + n) : scanon d (splice m a n cs) = true := by
  have h1 := filter_wf (d := d) (fun c => decide (c.1 < a)) h
  have h2 := filter_wf (d := d) (fun c => decide (a + n ≤ c.1)) h
  rw [scanon_iff] at *
  unfold splice
  refine ⟨List.pairwise_append.2 ⟨h1.1, List.pairwise_append.2 ⟨hc.1, h2.1, ?_⟩, ?_⟩, ?_⟩
  · intro x hx y hy
    have := (hr x hx).2
    have := (List.mem_filter.1 hy).2
    simp at this
    omega
  · intro x hx y hy
    have hx := (List.mem_filter.1 hx).2
    simp at hx
    rcases List.mem_append.1 hy with hy | hy
    · have := (hr y hy).1; omega
    · have := (List.mem_filter.1 hy).2; simp at this; omega
  · intro c hc'
    rcases List.mem_append.1 hc' with hc' | hc'
    · exact h1.2 c hc'
    · exact (List.mem_append.1 hc').elim (hc.2 c) (h2.2 c)

theorem scut_wf {α : Type} [DecidableEq α] {d : α} {m : List (Nat × α)} (a n b : Nat) (h : scanon d m = true) :
    scanon d (scut m a n b) = true := by
  have h1 := filter_wf (d := d) (fun c => decide (a ≤ c.1) && decide (c.1 < a + n)) h
  have hk : ∀ c ∈ m.filter (fun c => decide (a ≤ c.1) && decide (c.1 < a + n)), a ≤ c.1 := by
    intro c hc
    have := (List.mem_filter.1 hc).2
    simp at this
    exact this.1
  unfold scut
  generalize m.filter (fun c => decide (a ≤ c.1) && decide (c.1 < a + n)) = l at h1 hk
  rw [scanon_iff] at *
  refine ⟨List.pairwise_map.2 (h1.1.imp_of_mem fun {x y} hx hy hxy => ?_), ?_⟩
  · have := hk x hx
    have := hk y hy
    simp only
    omega
  · intro c hc
    obtain ⟨x, hx, rfl⟩ := List.mem_map.1 hc
    exact h1.2 x hx

theorem scut_range {α : Type} (m : List (Nat × α)) (a n b : Nat) : ∀ c ∈ scut m a n b, b ≤ c.1 ∧ c.1 < b + n := by
  intro c hc
  obtain ⟨x, hx, rfl⟩ := List.mem_map.1 hc
  have := (List.mem_filter.1 hx).2
  simp at this
  simp only
  omega

theorem scopy_wf {α : Type} [DecidableEq α] {d : α} {dst src : List (Nat × α)} (b a n : Nat) (h : scanon d dst = true)
    (hs : scanon d src = true) : scanon d (scopy dst b src a n) = true :=
  splice_wf _ _ h (scut_wf _ _ _ hs) (scut_range _ _ _ _)

/-! ### A read after a write -/

theorem sget_sins_self {α : Type} (d : α) (m : List (Nat × α)) (k : Nat) (v : α) : sget d (sins m k v) k = v := by
  induction m with
  | nil => simp [sins, sget]
  | cons x m ih =>
    simp only [sins]
    split
    · simp [sget]
    · split
      · simp [sget]
      · next h => simp only [sget]; rw [if_neg (Ne.symm h)]; exact ih

theorem sget_sins_ne {α : Type} (d : α) (m : List (Nat × α)) (k j : Nat) (v : α) (h : j ≠ k) :
    sget d (sins m k v) j = sget d m j := by
  induction m with
  | nil => simp [sins, sget, Ne.symm h]
  | cons x m ih =>
    simp only [sins]
    split
    · simp [sget, Ne.symm h]
    · split
      · next hk => subst hk; simp [sget, Ne.symm h]
      · simp only [sget]; rw [ih]

theorem sget_filter {α : Type} (d : α) (m : List (Nat × α)) (p : Nat → Bool) (j : Nat) :
    sget d (m.filter fun c => p c.1) j = if p j then sget d m j else d := by
  induction m with
  | nil => simp [sget]
  | cons x m ih =>
    by_cases hx : p x.1 = true
    · rw [List.filter_cons_of_pos (by simpa using hx)]
      by_cases hj : x.1 = j
      · subst hj; simp [sget, hx]
      · simp only [sget, if_neg hj, ih]
    · rw [List.filter_cons_of_neg (by simpa using hx), ih]
      by_cases hj : x.1 = j
      · subst hj; simp [hx]
      · simp only [sget, if_neg hj]

theorem sget_sset_self {α : Type} [DecidableEq α] (d : α) (m : List (Nat × α)) (k : Nat) (v : α) : sget d (sset d m k v) k = v := by
  unfold sset
  split
  · next h =>
      have := sget_filter d m (fun x => decide (x ≠ k)) k
      simp only [serase]; rw [this, h]; simp
  · exact sget_sins_self ..

theorem sget_sset_ne {α : Type} [DecidableEq α] (d : α) (m : List (Nat × α)) (k j : Nat) (v : α) (h : j ≠ k) :
    sget d (sset d m k v) j = sget d m j := by
  unfold sset
  split
  · have := sget_filter d m (fun x => decide (x ≠ k)) j
    simp only [serase]; rw [this]; simp [h]
  · exact sget_sins_ne _ _ _ _ _ h

theorem sget_append {α : Type} (d : α) (l r : List (Nat × α)) (j : Nat) (h : ∀ c ∈ l, c.1 ≠ j) :
    sget d (l ++ r) j = sget d r j := by
  induction l with
  | nil => rfl
  | cons x l ih =>
    rw [List.cons_append, sget, if_neg (h x (List.mem_cons_self ..))]
    exact ih fun c hc => h c (List.mem_cons_of_mem _ hc)

theorem sget_unlisted {α : Type} (d : α) (l : List (Nat × α)) (j : Nat) (h : ∀ c ∈ l, c.1 ≠ j) : sget d l j = d := by
  have := sget_append d l [] j h
  simpa [sget] using this

theorem sget_append_left {α : Type} (d : α) (l r : List (Nat × α)) (j : Nat) (h : ∀ c ∈ r, c.1 ≠ j) :
    sget d (l ++ r) j = sget d l j := by
  induction l with
  | nil =>
    have := sget_append d r [] j h
    simpa [sget] using this
  | cons x l ih => rw [List.cons_append, sget, sget, ih]

/-- Outside the replaced range a splice reads as before. -/
theorem sget_splice_out {α : Type} (d : α) (m cs : List (Nat × α)) (a n j : Nat) (hr : ∀ c ∈ cs, a ≤ c.1 ∧ c.1 < a + n)
    (h : j < a ∨ a + n ≤ j) : sget d (splice m a n cs) j = sget d m j := by
  have hcs : ∀ c ∈ cs, c.1 ≠ j := fun c hc e => by have := hr c hc; omega
  unfold splice
  rcases h with h | h
  · rw [sget_append_left, sget_filter d m (fun k => decide (k < a)) j]
    · simp [h]
    · intro c hc
      rcases List.mem_append.1 hc with hc | hc
      · exact hcs c hc
      · have := (List.mem_filter.1 hc).2; simp at this; omega
  · rw [sget_append, sget_append _ _ _ _ hcs, sget_filter d m (fun k => decide (a + n ≤ k)) j]
    · simp [h]
    · intro c hc
      have := (List.mem_filter.1 hc).2; simp at this; omega

/-- Inside the replaced range a splice reads as the new cells. -/
theorem sget_splice_in {α : Type} (d : α) (m cs : List (Nat × α)) (a n j : Nat) (h1 : a ≤ j) (h2 : j < a + n) :
    sget d (splice m a n cs) j = sget d cs j := by
  unfold splice
  rw [sget_append, sget_append_left]
  · intro c hc
    have := (List.mem_filter.1 hc).2; simp at this; omega
  · intro c hc
    have := (List.mem_filter.1 hc).2; simp at this; omega

/-! ### Bytes -/

theorem cellsAt_nil (a : Nat) : cellsAt a [] = [] := rfl

theorem cellsAt_cons (a : Nat) (b : Byte) (bs : List Byte) :
    cellsAt a (b :: bs) = if b = 0 then cellsAt (a + 1) bs else (a, b) :: cellsAt (a + 1) bs := by
  unfold cellsAt
  rw [List.zipIdx_cons]
  split
  · next h => rw [List.filterMap_cons_none]; simp [h]
  · next h => rw [List.filterMap_cons_some]; exact if_neg h

theorem cellsAt_range (bs : List Byte) (a : Nat) : ∀ c ∈ cellsAt a bs, a ≤ c.1 ∧ c.1 < a + bs.length := by
  induction bs generalizing a with
  | nil => simp [cellsAt_nil]
  | cons b bs ih =>
    intro c hc
    rw [cellsAt_cons] at hc
    have step : c ∈ cellsAt (a + 1) bs → a ≤ c.1 ∧ c.1 < a + (b :: bs).length := fun hc => by
      have := ih _ c hc
      simp only [List.length_cons]
      omega
    split at hc
    · exact step hc
    · rcases List.mem_cons.1 hc with rfl | hc
      · simp
      · exact step hc

theorem cellsAt_wf (bs : List Byte) (a : Nat) : memWf (cellsAt a bs) = true := by
  unfold memWf
  induction bs generalizing a with
  | nil => rfl
  | cons b bs ih =>
    rw [cellsAt_cons]
    split
    · exact ih _
    · next hb =>
      have h := ih (a + 1)
      rw [scanon_iff] at h ⊢
      refine ⟨List.pairwise_cons.2 ⟨fun c hc => (cellsAt_range _ _ c hc).1, h.1⟩, fun c hc => ?_⟩
      rcases List.mem_cons.1 hc with rfl | hc
      · exact hb
      · exact h.2 c hc

theorem mwrite_wf (bs : List Byte) {m : List Host.Cell} (a : Nat) (h : memWf m = true) : memWf (mwrite m a bs) = true :=
  splice_wf _ _ h (cellsAt_wf _ _) (cellsAt_range _ _)

theorem mget_mwrite_out (bs : List Byte) (m : List Host.Cell) (a j : Nat) (h : j < a ∨ a + bs.length ≤ j) :
    mget (mwrite m a bs) j = mget m j := sget_splice_out _ _ _ _ _ _ (cellsAt_range _ _) h

theorem mread_congr {m m' : List Host.Cell} (n a : Nat) (h : ∀ j, a ≤ j → j < a + n → mget m j = mget m' j) :
    mread m a n = mread m' a n := by
  induction n generalizing a with
  | zero => rfl
  | succ n ih => rw [mread, mread, h a (le_refl _) (by omega), ih (a + 1) fun j h1 h2 => h j (by omega) (by omega)]

theorem mread_cellsAt (bs : List Byte) (a : Nat) : mread (cellsAt a bs) a bs.length = bs := by
  induction bs generalizing a with
  | nil => rfl
  | cons b bs ih =>
    rw [List.length_cons, mread, cellsAt_cons]
    split
    · next hb =>
      rw [ih, hb]
      exact congrArg (· :: bs) (sget_unlisted _ _ _ fun c hc => by have := cellsAt_range _ _ c hc; omega)
    · rw [show mget ((a, b) :: cellsAt (a + 1) bs) a = b by simp [mget, sget]]
      refine congrArg (b :: ·) ((mread_congr _ _ fun j h1 _ => ?_).trans (ih _))
      simp only [mget, sget]
      rw [if_neg (by omega)]

theorem mread_mwrite (bs : List Byte) (m : List Host.Cell) (a : Nat) : mread (mwrite m a bs) a bs.length = bs :=
  (mread_congr _ _ fun _ h1 h2 => sget_splice_in _ _ _ _ _ _ h1 h2).trans (mread_cellsAt _ _)

/-! ### The operations of the memory system -/

theorem putSector_wf {m : MemSys} (k : Nat) (d : List Byte) (h : memWf m.cells = true) : memWf (putSector m k d).cells = true :=
  mwrite_wf d _ h

theorem putPoison_wf {m : MemSys} (k : Nat) (h : memWf m.cells = true) : memWf (putPoison m k).cells = true := by
  simpa only [putPoison] using putSector_wf k (zeros 32) h

theorem keepGranules_wf {m : MemSys} (p : Nat → Bool) (h : memWf m.cells = true) : memWf (keepGranules p m).cells = true :=
  filter_wf _ h

theorem snoopOut_cells (inv : Bool) (a n : Nat) (s : State) : (snoopOut inv a n s).mem.cells = s.mem.cells := by
  unfold snoopOut
  simp only [emits_mem]

theorem writeCells_cells (a n : Nat) (src : List Host.Cell) (s : State) :
    (writeCells a n src s).mem.cells = if rangeAbsent s a n then s.mem.cells else scopy s.mem.cells a src 0 n := by
  unfold writeCells
  split
  · rfl
  · simp only [noteWrite_mem, snoopOut_cells]

theorem writeBytes_cells (a : Nat) (bs : List Byte) (s : State) :
    (writeBytes a bs s).mem.cells = if rangeAbsent s a bs.length then s.mem.cells else mwrite s.mem.cells a bs := by
  unfold writeBytes
  split
  · rfl
  · simp only [noteWrite_mem, snoopOut_cells]

theorem zeroRange_cells (a n : Nat) (s : State) : (zeroRange a n s).mem.cells = sclear s.mem.cells a n := by
  simp only [zeroRange, noteWrite_mem, snoopOut_cells]

theorem writeCells_wf (a n : Nat) {src : List Host.Cell} {s : State} (h : memWf s.mem.cells = true) (hs : memWf src = true) :
    memWf (writeCells a n src s).mem.cells = true := by
  rw [writeCells_cells]
  split
  · exact h
  · exact scopy_wf _ _ _ h hs

theorem writeBytes_wf (a : Nat) (bs : List Byte) {s : State} (h : memWf s.mem.cells = true) :
    memWf (writeBytes a bs s).mem.cells = true := by
  rw [writeBytes_cells]
  split
  · exact h
  · exact mwrite_wf _ _ h

theorem zeroRange_wf (a n : Nat) {s : State} (h : memWf s.mem.cells = true) : memWf (zeroRange a n s).mem.cells = true := by
  rw [zeroRange_cells]
  exact sclear_wf _ _ h

/-- Reset memory lists nothing. -/
theorem reset_memWf : memWf State.reset.mem.cells = true := by decide

end Sys2Proof.Machine
end

