-- ==== Sys2Proof/Laws/PerInstr.lean ====
section
/-! SUPPORT. Sys2Proof/Laws/PerInstr.lean: the family Row, a statement about every row of the table as syntax: the word of a
well-formed facet instruction is one that Table 05-8 and Table 09-1 define. -/

namespace Sys2Proof.Laws

/-- The opcode of a joined word. -/
theorem wordOp_join (op : Byte) (i : Ins) : wordOp (joinIns op i) = op := by
  simp only [wordOp, joinIns]
  ext k hk
  simp only [BitVec.getElem_extractLsb', BitVec.getLsbD_append]
  simp [hk]

/-- The `X` field of a joined word. -/
theorem wordX_join (op : Byte) (i : Ins) : (wordIns (joinIns op i)).x = i.x := by
  simp only [wordIns, joinIns]
  ext k hk
  simp only [BitVec.getElem_extractLsb', BitVec.getLsbD_append]
  have h1 : ¬ 48 + k < 8 := by omega
  simp [hk, h1, show ¬ 48 + k - 8 < 8 by omega, show ¬ 48 + k - 8 - 8 < 8 by omega, show ¬ 48 + k - 8 - 8 - 8 < 8 by omega,
    show ¬ 48 + k - 8 - 8 - 8 - 8 < 8 by omega, show ¬ 48 + k - 8 - 8 - 8 - 8 - 8 < 8 by omega,
    show 48 + k - 8 - 8 - 8 - 8 - 8 - 8 = k by omega]

/-- The row's word, where it has one and its fields name the row, is defined (R142, R144, R156, R244). -/
def Row.Statement (c : Instr) : Prop := ∀ w, encodeFacet c = some w → c.wf = true → wordUndefined w = false

/-- A row without functions: its opcode is in Table 05-8. -/
theorem defined_plain (op : Byte) (i : Ins) (h : opcodeList.contains op = true) (h3 : op ≠ 0x03) (h32 : op ≠ 0x32) :
    wordUndefined (joinIns op i) = false := by
  simp only [wordUndefined, wordOp_join, h, Bool.not_true, Bool.false_or, Bool.or_eq_false_iff, Bool.and_eq_false_iff]
  exact ⟨.inl (by simpa using h3), .inl (by simpa using h32)⟩

/-- A row of `SALU`: its function code is one of the fifteen. -/
theorem defined_salu (i : Ins) (n : Nat) (hn : n < 15) (h : (i.x.toNat % 16 == n) = true) : wordUndefined (joinIns 0x03 i) = false := by
  have hx : (i.x.extractLsb' 0 4 == 0xF) = false := by
    rw [beq_eq_false_iff_ne]
    intro e
    have := congrArg BitVec.toNat e
    simp [BitVec.extractLsb'_toNat] at this
    simp at h
    omega
  simpa [wordUndefined, wordOp_join, wordX_join, opcodeList] using hx

/-- A row of `VE.OP`: its function code is in Table 09-1. -/
theorem defined_ve (i : Ins) (n : Nat) (hn : veFnList.contains (BitVec.ofNat 8 n) = true) (h : (i.x.toNat % 256 == n) = true) :
    wordUndefined (joinIns 0x32 i) = false := by
  have hx : i.x.extractLsb' 0 8 = BitVec.ofNat 8 n := by
    apply BitVec.eq_of_toNat_eq
    simp at h
    simp [BitVec.extractLsb'_toNat]
    omega
  have ho : opcodeList.contains (0x32 : Byte) = true := by decide
  simpa [wordUndefined, wordOp_join, wordX_join, hx, hn, -List.contains_eq_mem] using ho

/-- Every other row has no word. -/
theorem no_word {c : Instr} (h : encodeFacet c = none) : Row.Statement c := fun w hw _ => by rw [h] at hw; cases hw

theorem Row.selfRefreshEntryDone (n : Fin 4) : Row.Statement (.selfRefreshEntryDone n) := no_word rfl
theorem Row.mgmtStageEnd (p : Fin 2) (r : StageResult) : Row.Statement (.mgmtStageEnd p r) := no_word rfl
theorem Row.imageStageEnd (active : ImageReport) (other : ImageReport) (identA : Bool) (identB : Bool) : Row.Statement (.imageStageEnd active other identA identB) :=
  no_word rfl
theorem Row.varluxStageEnd (r : StageResult) : Row.Statement (.varluxStageEnd r) := no_word rfl
theorem Row.clocksStageEnd (prismPllFail : BitVec 4) (lvPll : StageResult) : Row.Statement (.clocksStageEnd prismPllFail lvPll) :=
  no_word rfl
theorem Row.d2dStageEnd (working : List Nat) : Row.Statement (.d2dStageEnd working) := no_word rfl
theorem Row.memStageEnd (n : Fin 4) (r : StageResult) (failedPairs : BitVec 8) (stream : Option (List (BitVec 8))) : Row.Statement (.memStageEnd n r failedPairs stream) :=
  no_word rfl
theorem Row.latticeStageEnd (r : StageResult) (failedColumns : BitVec 12) (stream : Option (List (BitVec 8))) : Row.Statement (.latticeStageEnd r failedColumns stream) :=
  no_word rfl
theorem Row.flashStageEnd (r : StageResult) (stream : Option (List (BitVec 8))) : Row.Statement (.flashStageEnd r stream) :=
  no_word rfl
theorem Row.fabricStageEnd (p : Fin 8) (r : StageResult) (mode : PortMode) (stream : Option (List (BitVec 8))) : Row.Statement (.fabricStageEnd p r mode stream) :=
  no_word rfl
theorem Row.readyStage (r : StageResult) : Row.Statement (.readyStage r) := no_word rfl
theorem Row.aonWdtCtrlWrite (v : BitVec 32) : Row.Statement (.aonWdtCtrlWrite v) := no_word rfl
theorem Row.aonWdtKick (v : BitVec 32) : Row.Statement (.aonWdtKick v) := no_word rfl
theorem Row.d2dFlitCheckFail (link : Fin 9) (module : Fin 4) : Row.Statement (.d2dFlitCheckFail link module) := no_word rfl
theorem Row.d2dModuleRemove (link : Fin 9) (module : Fin 4) : Row.Statement (.d2dModuleRemove link module) := no_word rfl
theorem Row.smbReadByte (off : BitVec 8) : Row.Statement (.smbReadByte off) := no_word rfl
theorem Row.smbReadWord (off : BitVec 8) : Row.Statement (.smbReadWord off) := no_word rfl
theorem Row.smbWriteByte (off : BitVec 8) (v : BitVec 8) : Row.Statement (.smbWriteByte off v) := no_word rfl
theorem Row.smbAlertResponse (won : Bool) : Row.Statement (.smbAlertResponse won) := no_word rfl
theorem Row.cxlMemRead (off : BitVec 64) : Row.Statement (.cxlMemRead off) := no_word rfl
theorem Row.cxlMemWrite (off : BitVec 64) (data : List Byte) (poison : Bool) : Row.Statement (.cxlMemWrite off data poison) :=
  no_word rfl
theorem Row.cxlMemNarrowWrite (off : BitVec 64) (data : List Byte) (enables : BitVec 64) (poison : Bool) : Row.Statement (.cxlMemNarrowWrite off data enables poison) :=
  no_word rfl
theorem Row.backInvalidateResponse (line : BitVec 64) : Row.Statement (.backInvalidateResponse line) := no_word rfl
theorem Row.registerWrite (off : BitVec 48) (size : Nat) (v : BitVec 64) : Row.Statement (.registerWrite off size v) :=
  no_word rfl
theorem Row.ringCtrlWrite (n : Fin 8) (v : BitVec 32) : Row.Statement (.ringCtrlWrite n v) := no_word rfl
theorem Row.ringSqTail (n : Fin 8) (v : BitVec 32) : Row.Statement (.ringSqTail n v) := no_word rfl
theorem Row.ringCqHead (n : Fin 8) (v : BitVec 32) : Row.Statement (.ringCqHead n v) := no_word rfl
theorem Row.mbxEventEnWrite (v : BitVec 32) : Row.Statement (.mbxEventEnWrite v) := no_word rfl
theorem Row.telPtimeLoRead (wide : Bool) : Row.Statement (.telPtimeLoRead wide) := no_word rfl
theorem Row.telemetryUpdate (powerW : BitVec 16) : Row.Statement (.telemetryUpdate powerW) := no_word rfl
theorem Row.commandFetch (n : Fin 8) (entry : List Byte) (bufFault : Bool) (cplFault : Bool) (readFail : Bool) : Row.Statement (.commandFetch n entry bufFault cplFault readFail) :=
  no_word rfl
theorem Row.mbxOpen (h : Hdr) (major : BitVec 8) (minMinor : BitVec 8) (maxMinor : BitVec 8) : Row.Statement (.mbxOpen h major minMinor maxMinor) :=
  no_word rfl
theorem Row.deviceInfo (h : Hdr) : Row.Statement (.deviceInfo h) := no_word rfl
theorem Row.deviceReset (h : Hdr) (kind : BitVec 8) : Row.Statement (.deviceReset h kind) := no_word rfl
theorem Row.gpioConfig (h : Hdr) (pin : BitVec 8) (func : BitVec 8) : Row.Statement (.gpioConfig h pin func) := no_word rfl
theorem Row.bootJournalRead (h : Hdr) : Row.Statement (.bootJournalRead h) := no_word rfl
theorem Row.bootJournalClear (h : Hdr) : Row.Statement (.bootJournalClear h) := no_word rfl
theorem Row.fwInstall (h : Hdr) (offset : BitVec 32) (flags : BitVec 8) (slot : BitVec 8) (chunk : List Byte) : Row.Statement (.fwInstall h offset flags slot chunk) :=
  no_word rfl
theorem Row.fwActivate (h : Hdr) (slot : BitVec 8) : Row.Statement (.fwActivate h slot) := no_word rfl
theorem Row.fwSvnCommit (h : Hdr) (flags : BitVec 8) (cut : Option Nat) : Row.Statement (.fwSvnCommit h flags cut) := no_word rfl
theorem Row.debugUnlock (h : Hdr) (token : List Byte) : Row.Statement (.debugUnlock h token) := no_word rfl
theorem Row.fuseBurn (h : Hdr) (token : List Byte) (cut : Option Nat) : Row.Statement (.fuseBurn h token cut) := no_word rfl
theorem Row.healthRead (h : Hdr) : Row.Statement (.healthRead h) := no_word rfl
theorem Row.healthConfig (h : Hdr) (threshold : BitVec 16) (hysteresis : BitVec 16) (dwell : BitVec 32) (budget : BitVec 16) (window : BitVec 32) : Row.Statement (.healthConfig h threshold hysteresis dwell budget window) :=
  no_word rfl
theorem Row.unitFence (h : Hdr) (unit : BitVec 8) (index : BitVec 8) (action : BitVec 8) : Row.Statement (.unitFence h unit index action) :=
  no_word rfl
theorem Row.rehearsalConfig (h : Hdr) (flags : BitVec 8) (period : BitVec 32) (mask : BitVec 64) : Row.Statement (.rehearsalConfig h flags period mask) :=
  no_word rfl
theorem Row.diagRun (h : Hdr) (testId : BitVec 16) (unit : BitVec 8) (index : BitVec 8) (result : BitVec 32) (duration : BitVec 32) : Row.Statement (.diagRun h testId unit index result duration) :=
  no_word rfl
theorem Row.memRegionMode (h : Hdr) (first : BitVec 32) (count : BitVec 32) (mode : BitVec 8) : Row.Statement (.memRegionMode h first count mode) :=
  no_word rfl
theorem Row.memErrorRead (h : Hdr) : Row.Statement (.memErrorRead h) := no_word rfl
theorem Row.memHdmWindow (h : Hdr) (first : BitVec 32) (size : BitVec 32) : Row.Statement (.memHdmWindow h first size) :=
  no_word rfl
theorem Row.fabricConfig (h : Hdr) (port : BitVec 8) (tDetect : BitVec 32) (addr : BitVec 128) : Row.Statement (.fabricConfig h port tDetect addr) :=
  no_word rfl
theorem Row.portStatus (h : Hdr) (port : BitVec 8) : Row.Statement (.portStatus h port) := no_word rfl
theorem Row.collectiveAbort (h : Hdr) (job : BitVec 32) : Row.Statement (.collectiveAbort h job) := no_word rfl
theorem Row.sectorCreate (h : Hdr) (columns : BitVec 16) (quota : BitVec 32) (weight : BitVec 16) (flags : BitVec 8) : Row.Statement (.sectorCreate h columns quota weight flags) :=
  no_word rfl
theorem Row.sectorDestroy (h : Hdr) : Row.Statement (.sectorDestroy h) := no_word rfl
theorem Row.arcLoad (h : Hdr) (image : List Byte) : Row.Statement (.arcLoad h image) := no_word rfl
theorem Row.arcStart (h : Hdr) (cadence : BitVec 32) : Row.Statement (.arcStart h cadence) := no_word rfl
theorem Row.arcStop (h : Hdr) : Row.Statement (.arcStop h) := no_word rfl
theorem Row.park (h : Hdr) (job : BitVec 32) : Row.Statement (.park h job) := no_word rfl
theorem Row.parkResume (job : BitVec 32) : Row.Statement (.parkResume job) := no_word rfl
theorem Row.unpark (h : Hdr) (job : BitVec 32) : Row.Statement (.unpark h job) := no_word rfl
theorem Row.objCreate (h : Hdr) (id : BitVec 64) (size : BitVec 64) (tier : BitVec 8) (job : BitVec 32) : Row.Statement (.objCreate h id size tier job) :=
  no_word rfl
theorem Row.objDestroy (h : Hdr) (id : BitVec 64) : Row.Statement (.objDestroy h id) := no_word rfl
theorem Row.objPromote (h : Hdr) (id : BitVec 64) (tier : BitVec 8) (flags : BitVec 8) : Row.Statement (.objPromote h id tier flags) :=
  no_word rfl
theorem Row.objEvict (h : Hdr) (id : BitVec 64) (tier : BitVec 8) : Row.Statement (.objEvict h id tier) := no_word rfl
theorem Row.objPin (h : Hdr) (id : BitVec 64) : Row.Statement (.objPin h id) := no_word rfl
theorem Row.objUnpin (h : Hdr) (id : BitVec 64) : Row.Statement (.objUnpin h id) := no_word rfl
theorem Row.evictionDequeue (id : BitVec 64) : Row.Statement (.evictionDequeue id) := no_word rfl
theorem Row.moveSwitch (id : BitVec 64) : Row.Statement (.moveSwitch id) := no_word rfl
theorem Row.moveFail (id : BitVec 64) (cause : MoveCause) : Row.Statement (.moveFail id cause) := no_word rfl
theorem Row.prefetchSchedule (h : Hdr) (job : BitVec 32) (buf : List Byte) : Row.Statement (.prefetchSchedule h job buf) :=
  no_word rfl
theorem Row.jobOpen (h : Hdr) (job : BitVec 32) (seed : BitVec 64) (rule : BitVec 8) : Row.Statement (.jobOpen h job seed rule) :=
  no_word rfl
theorem Row.jobClose (h : Hdr) (job : BitVec 32) : Row.Statement (.jobClose h job) := no_word rfl
theorem Row.layoutInstall (h : Hdr) (job : BitVec 32) (epoch : BitVec 16) (flags : BitVec 8) (buf : List Byte) : Row.Statement (.layoutInstall h job epoch flags buf) :=
  no_word rfl
theorem Row.layoutDrainDone (job : BitVec 32) : Row.Statement (.layoutDrainDone job) := no_word rfl
theorem Row.shardCommit (h : Hdr) (job : BitVec 32) (shard : BitVec 32) (gen : BitVec 64) (src : BitVec 64) : Row.Statement (.shardCommit h job shard gen src) :=
  no_word rfl
theorem Row.shardRead (h : Hdr) (job : BitVec 32) (shard : BitVec 32) (dest : BitVec 64) : Row.Statement (.shardRead h job shard dest) :=
  no_word rfl
theorem Row.stepArm (h : Hdr) (job : BitVec 32) (step : BitVec 64) (micro : BitVec 16) (epoch : BitVec 16) : Row.Statement (.stepArm h job step micro epoch) :=
  no_word rfl
theorem Row.stepStatus (h : Hdr) (job : BitVec 32) : Row.Statement (.stepStatus h job) := no_word rfl
theorem Row.ruleLoad (h : Hdr) (job : BitVec 32) (buf : List Byte) : Row.Statement (.ruleLoad h job buf) := no_word rfl
theorem Row.mirrorBind (h : Hdr) (job : BitVec 32) (degree : BitVec 8) (everyN : BitVec 16) (partner0 : BitVec 128) (partner1 : BitVec 128) : Row.Statement (.mirrorBind h job degree everyN partner0 partner1) :=
  no_word rfl
theorem Row.mirrorUnbind (h : Hdr) (job : BitVec 32) : Row.Statement (.mirrorUnbind h job) := no_word rfl
theorem Row.restore (h : Hdr) (job : BitVec 32) (partner : BitVec 128) (gen : BitVec 64) : Row.Statement (.restore h job partner gen) :=
  no_word rfl
theorem Row.mirrorQuery (h : Hdr) (job : BitVec 32) : Row.Statement (.mirrorQuery h job) := no_word rfl
theorem Row.spdmNegotiateAlgorithms (a : SpdmAlgs) (req : List (BitVec 8)) : Row.Statement (.spdmNegotiateAlgorithms a req) :=
  no_word rfl
theorem Row.spdmGetCertificate (slot : BitVec 8) (offset : BitVec 16) (length : BitVec 16) : Row.Statement (.spdmGetCertificate slot offset length) :=
  no_word rfl
theorem Row.spdmChallenge (slot : BitVec 8) (summary : BitVec 8) (nonce : BitVec 256) : Row.Statement (.spdmChallenge slot summary nonce) :=
  no_word rfl
theorem Row.spdmGetMeasurements (index : BitVec 8) (slot : BitVec 8) (signed : Bool) (nonce : BitVec 256) : Row.Statement (.spdmGetMeasurements index slot signed nonce) :=
  no_word rfl
theorem Row.spdmUnsupportedRequest (code : BitVec 8) : Row.Statement (.spdmUnsupportedRequest code) := no_word rfl
theorem Row.nop (f : Fin 96) (i : Ins) (e : Ecc) : Row.Statement (.nop f i e) := fun w hw _ => by
  cases hw; exact defined_plain 0x00 i (by decide) (by decide) (by decide)
theorem Row.halt (f : Fin 96) (i : Ins) (e : Ecc) : Row.Statement (.halt f i e) := fun w hw _ => by
  cases hw; exact defined_plain 0x01 i (by decide) (by decide) (by decide)
theorem Row.li (f : Fin 96) (i : Ins) (e : Ecc) : Row.Statement (.li f i e) := fun w hw _ => by
  cases hw; exact defined_plain 0x02 i (by decide) (by decide) (by decide)
theorem Row.saluAdd (f : Fin 96) (i : Ins) (e : Ecc) : Row.Statement (.saluAdd f i e) := fun w hw hf => by
  cases hw; exact defined_salu i 0 (by decide) hf
theorem Row.saluSub (f : Fin 96) (i : Ins) (e : Ecc) : Row.Statement (.saluSub f i e) := fun w hw hf => by
  cases hw; exact defined_salu i 1 (by decide) hf
theorem Row.saluAnd (f : Fin 96) (i : Ins) (e : Ecc) : Row.Statement (.saluAnd f i e) := fun w hw hf => by
  cases hw; exact defined_salu i 2 (by decide) hf
theorem Row.saluOr (f : Fin 96) (i : Ins) (e : Ecc) : Row.Statement (.saluOr f i e) := fun w hw hf => by
  cases hw; exact defined_salu i 3 (by decide) hf
theorem Row.saluXor (f : Fin 96) (i : Ins) (e : Ecc) : Row.Statement (.saluXor f i e) := fun w hw hf => by
  cases hw; exact defined_salu i 4 (by decide) hf
theorem Row.saluShl (f : Fin 96) (i : Ins) (e : Ecc) : Row.Statement (.saluShl f i e) := fun w hw hf => by
  cases hw; exact defined_salu i 5 (by decide) hf
theorem Row.saluShr (f : Fin 96) (i : Ins) (e : Ecc) : Row.Statement (.saluShr f i e) := fun w hw hf => by
  cases hw; exact defined_salu i 6 (by decide) hf
theorem Row.saluSra (f : Fin 96) (i : Ins) (e : Ecc) : Row.Statement (.saluSra f i e) := fun w hw hf => by
  cases hw; exact defined_salu i 7 (by decide) hf
theorem Row.saluMul (f : Fin 96) (i : Ins) (e : Ecc) : Row.Statement (.saluMul f i e) := fun w hw hf => by
  cases hw; exact defined_salu i 8 (by decide) hf
theorem Row.saluMulhu (f : Fin 96) (i : Ins) (e : Ecc) : Row.Statement (.saluMulhu f i e) := fun w hw hf => by
  cases hw; exact defined_salu i 9 (by decide) hf
theorem Row.saluMinu (f : Fin 96) (i : Ins) (e : Ecc) : Row.Statement (.saluMinu f i e) := fun w hw hf => by
  cases hw; exact defined_salu i 10 (by decide) hf
theorem Row.saluMaxu (f : Fin 96) (i : Ins) (e : Ecc) : Row.Statement (.saluMaxu f i e) := fun w hw hf => by
  cases hw; exact defined_salu i 11 (by decide) hf
theorem Row.saluSltu (f : Fin 96) (i : Ins) (e : Ecc) : Row.Statement (.saluSltu f i e) := fun w hw hf => by
  cases hw; exact defined_salu i 12 (by decide) hf
theorem Row.saluSlt (f : Fin 96) (i : Ins) (e : Ecc) : Row.Statement (.saluSlt f i e) := fun w hw hf => by
  cases hw; exact defined_salu i 13 (by decide) hf
theorem Row.saluSeq (f : Fin 96) (i : Ins) (e : Ecc) : Row.Statement (.saluSeq f i e) := fun w hw hf => by
  cases hw; exact defined_salu i 14 (by decide) hf
theorem Row.sld (f : Fin 96) (i : Ins) (e : Ecc) : Row.Statement (.sld f i e) := fun w hw _ => by
  cases hw; exact defined_plain 0x04 i (by decide) (by decide) (by decide)
theorem Row.sst (f : Fin 96) (i : Ins) (e : Ecc) : Row.Statement (.sst f i e) := fun w hw _ => by
  cases hw; exact defined_plain 0x05 i (by decide) (by decide) (by decide)
theorem Row.br (f : Fin 96) (i : Ins) (e : Ecc) : Row.Statement (.br f i e) := fun w hw _ => by
  cases hw; exact defined_plain 0x06 i (by decide) (by decide) (by decide)
theorem Row.loop (f : Fin 96) (i : Ins) (e : Ecc) : Row.Statement (.loop f i e) := fun w hw _ => by
  cases hw; exact defined_plain 0x07 i (by decide) (by decide) (by decide)
theorem Row.wait (f : Fin 96) (i : Ins) (e : Ecc) : Row.Statement (.wait f i e) := fun w hw _ => by
  cases hw; exact defined_plain 0x08 i (by decide) (by decide) (by decide)
theorem Row.csrr (f : Fin 96) (i : Ins) (e : Ecc) : Row.Statement (.csrr f i e) := fun w hw _ => by
  cases hw; exact defined_plain 0x09 i (by decide) (by decide) (by decide)
theorem Row.tdseta (f : Fin 96) (i : Ins) (e : Ecc) : Row.Statement (.tdseta f i e) := fun w hw _ => by
  cases hw; exact defined_plain 0x0A i (by decide) (by decide) (by decide)
theorem Row.tdsetm (f : Fin 96) (i : Ins) (e : Ecc) : Row.Statement (.tdsetm f i e) := fun w hw _ => by
  cases hw; exact defined_plain 0x0B i (by decide) (by decide) (by decide)
theorem Row.tdadd (f : Fin 96) (i : Ins) (e : Ecc) : Row.Statement (.tdadd f i e) := fun w hw _ => by
  cases hw; exact defined_plain 0x0C i (by decide) (by decide) (by decide)
theorem Row.mmaLdw (f : Fin 96) (i : Ins) (e : Ecc) : Row.Statement (.mmaLdw f i e) := fun w hw _ => by
  cases hw; exact defined_plain 0x10 i (by decide) (by decide) (by decide)
theorem Row.mmaRun (f : Fin 96) (i : Ins) (e : Ecc) : Row.Statement (.mmaRun f i e) := fun w hw _ => by
  cases hw; exact defined_plain 0x11 i (by decide) (by decide) (by decide)
theorem Row.accZero (f : Fin 96) (i : Ins) (e : Ecc) : Row.Statement (.accZero f i e) := fun w hw _ => by
  cases hw; exact defined_plain 0x20 i (by decide) (by decide) (by decide)
theorem Row.accCfg (f : Fin 96) (i : Ins) (e : Ecc) : Row.Statement (.accCfg f i e) := fun w hw _ => by
  cases hw; exact defined_plain 0x21 i (by decide) (by decide) (by decide)
theorem Row.accDrain (f : Fin 96) (i : Ins) (e : Ecc) : Row.Statement (.accDrain f i e) := fun w hw _ => by
  cases hw; exact defined_plain 0x22 i (by decide) (by decide) (by decide)
theorem Row.accLoad (f : Fin 96) (i : Ins) (e : Ecc) : Row.Statement (.accLoad f i e) := fun w hw _ => by
  cases hw; exact defined_plain 0x23 i (by decide) (by decide) (by decide)
theorem Row.veLd (f : Fin 96) (i : Ins) (e : Ecc) : Row.Statement (.veLd f i e) := fun w hw _ => by
  cases hw; exact defined_plain 0x30 i (by decide) (by decide) (by decide)
theorem Row.veSt (f : Fin 96) (i : Ins) (e : Ecc) : Row.Statement (.veSt f i e) := fun w hw _ => by
  cases hw; exact defined_plain 0x31 i (by decide) (by decide) (by decide)
theorem Row.veMov (f : Fin 96) (i : Ins) (e : Ecc) : Row.Statement (.veMov f i e) := fun w hw hf => by
  cases hw; exact defined_ve i 0x01 (by decide) hf
theorem Row.veAdd (f : Fin 96) (i : Ins) (e : Ecc) : Row.Statement (.veAdd f i e) := fun w hw hf => by
  cases hw; exact defined_ve i 0x02 (by decide) hf
theorem Row.veSub (f : Fin 96) (i : Ins) (e : Ecc) : Row.Statement (.veSub f i e) := fun w hw hf => by
  cases hw; exact defined_ve i 0x03 (by decide) hf
theorem Row.veMul (f : Fin 96) (i : Ins) (e : Ecc) : Row.Statement (.veMul f i e) := fun w hw hf => by
  cases hw; exact defined_ve i 0x04 (by decide) hf
theorem Row.veFma (f : Fin 96) (i : Ins) (e : Ecc) : Row.Statement (.veFma f i e) := fun w hw hf => by
  cases hw; exact defined_ve i 0x05 (by decide) hf
theorem Row.veFnma (f : Fin 96) (i : Ins) (e : Ecc) : Row.Statement (.veFnma f i e) := fun w hw hf => by
  cases hw; exact defined_ve i 0x06 (by decide) hf
theorem Row.veMax (f : Fin 96) (i : Ins) (e : Ecc) : Row.Statement (.veMax f i e) := fun w hw hf => by
  cases hw; exact defined_ve i 0x07 (by decide) hf
theorem Row.veMin (f : Fin 96) (i : Ins) (e : Ecc) : Row.Statement (.veMin f i e) := fun w hw hf => by
  cases hw; exact defined_ve i 0x08 (by decide) hf
theorem Row.veAbs (f : Fin 96) (i : Ins) (e : Ecc) : Row.Statement (.veAbs f i e) := fun w hw hf => by
  cases hw; exact defined_ve i 0x09 (by decide) hf
theorem Row.veNeg (f : Fin 96) (i : Ins) (e : Ecc) : Row.Statement (.veNeg f i e) := fun w hw hf => by
  cases hw; exact defined_ve i 0x0A (by decide) hf
theorem Row.veAddk (f : Fin 96) (i : Ins) (e : Ecc) : Row.Statement (.veAddk f i e) := fun w hw hf => by
  cases hw; exact defined_ve i 0x0B (by decide) hf
theorem Row.veMulk (f : Fin 96) (i : Ins) (e : Ecc) : Row.Statement (.veMulk f i e) := fun w hw hf => by
  cases hw; exact defined_ve i 0x0C (by decide) hf
theorem Row.veFmak (f : Fin 96) (i : Ins) (e : Ecc) : Row.Statement (.veFmak f i e) := fun w hw hf => by
  cases hw; exact defined_ve i 0x0D (by decide) hf
theorem Row.veClamp (f : Fin 96) (i : Ins) (e : Ecc) : Row.Statement (.veClamp f i e) := fun w hw hf => by
  cases hw; exact defined_ve i 0x0E (by decide) hf
theorem Row.veCmpgt (f : Fin 96) (i : Ins) (e : Ecc) : Row.Statement (.veCmpgt f i e) := fun w hw hf => by
  cases hw; exact defined_ve i 0x10 (by decide) hf
theorem Row.veCmpge (f : Fin 96) (i : Ins) (e : Ecc) : Row.Statement (.veCmpge f i e) := fun w hw hf => by
  cases hw; exact defined_ve i 0x11 (by decide) hf
theorem Row.veCmpeq (f : Fin 96) (i : Ins) (e : Ecc) : Row.Statement (.veCmpeq f i e) := fun w hw hf => by
  cases hw; exact defined_ve i 0x12 (by decide) hf
theorem Row.veSel (f : Fin 96) (i : Ins) (e : Ecc) : Row.Statement (.veSel f i e) := fun w hw hf => by
  cases hw; exact defined_ve i 0x13 (by decide) hf
theorem Row.veFloor (f : Fin 96) (i : Ins) (e : Ecc) : Row.Statement (.veFloor f i e) := fun w hw hf => by
  cases hw; exact defined_ve i 0x18 (by decide) hf
theorem Row.veRndi (f : Fin 96) (i : Ins) (e : Ecc) : Row.Statement (.veRndi f i e) := fun w hw hf => by
  cases hw; exact defined_ve i 0x19 (by decide) hf
theorem Row.veGetexp (f : Fin 96) (i : Ins) (e : Ecc) : Row.Statement (.veGetexp f i e) := fun w hw hf => by
  cases hw; exact defined_ve i 0x1A (by decide) hf
theorem Row.veGetmant (f : Fin 96) (i : Ins) (e : Ecc) : Row.Statement (.veGetmant f i e) := fun w hw hf => by
  cases hw; exact defined_ve i 0x1B (by decide) hf
theorem Row.veLdexp (f : Fin 96) (i : Ins) (e : Ecc) : Row.Statement (.veLdexp f i e) := fun w hw hf => by
  cases hw; exact defined_ve i 0x1C (by decide) hf
theorem Row.veCvtbf (f : Fin 96) (i : Ins) (e : Ecc) : Row.Statement (.veCvtbf f i e) := fun w hw hf => by
  cases hw; exact defined_ve i 0x1D (by decide) hf
theorem Row.veRmax (f : Fin 96) (i : Ins) (e : Ecc) : Row.Statement (.veRmax f i e) := fun w hw hf => by
  cases hw; exact defined_ve i 0x20 (by decide) hf
theorem Row.veRsum (f : Fin 96) (i : Ins) (e : Ecc) : Row.Statement (.veRsum f i e) := fun w hw hf => by
  cases hw; exact defined_ve i 0x21 (by decide) hf
theorem Row.veCsum (f : Fin 96) (i : Ins) (e : Ecc) : Row.Statement (.veCsum f i e) := fun w hw hf => by
  cases hw; exact defined_ve i 0x22 (by decide) hf
theorem Row.veBcast0 (f : Fin 96) (i : Ins) (e : Ecc) : Row.Statement (.veBcast0 f i e) := fun w hw hf => by
  cases hw; exact defined_ve i 0x23 (by decide) hf
theorem Row.veRcp (f : Fin 96) (i : Ins) (e : Ecc) : Row.Statement (.veRcp f i e) := fun w hw hf => by
  cases hw; exact defined_ve i 0x28 (by decide) hf
theorem Row.veRsqrt (f : Fin 96) (i : Ins) (e : Ecc) : Row.Statement (.veRsqrt f i e) := fun w hw hf => by
  cases hw; exact defined_ve i 0x29 (by decide) hf
theorem Row.veExp (f : Fin 96) (i : Ins) (e : Ecc) : Row.Statement (.veExp f i e) := fun w hw hf => by
  cases hw; exact defined_ve i 0x2A (by decide) hf
theorem Row.veRand (f : Fin 96) (i : Ins) (e : Ecc) : Row.Statement (.veRand f i e) := fun w hw hf => by
  cases hw; exact defined_ve i 0x30 (by decide) hf
theorem Row.dmaRd (f : Fin 96) (i : Ins) (e : Ecc) : Row.Statement (.dmaRd f i e) := fun w hw _ => by
  cases hw; exact defined_plain 0x40 i (by decide) (by decide) (by decide)
theorem Row.dmaWr (f : Fin 96) (i : Ins) (e : Ecc) : Row.Statement (.dmaWr f i e) := fun w hw _ => by
  cases hw; exact defined_plain 0x41 i (by decide) (by decide) (by decide)
theorem Row.dmaLinRead (f : Fin 96) (i : Ins) (e : Ecc) : Row.Statement (.dmaLinRead f i e) := fun w hw _ => by
  cases hw; exact defined_plain 0x42 i (by decide) (by decide) (by decide)
theorem Row.dmaLinWrite (f : Fin 96) (i : Ins) (e : Ecc) : Row.Statement (.dmaLinWrite f i e) := fun w hw _ => by
  cases hw; exact defined_plain 0x42 i (by decide) (by decide) (by decide)
theorem Row.dmaXfr (f : Fin 96) (i : Ins) (e : Ecc) : Row.Statement (.dmaXfr f i e) := fun w hw _ => by
  cases hw; exact defined_plain 0x43 i (by decide) (by decide) (by decide)
theorem Row.dmaChd (f : Fin 96) (i : Ins) (e : Ecc) : Row.Statement (.dmaChd f i e) := fun w hw _ => by
  cases hw; exact defined_plain 0x44 i (by decide) (by decide) (by decide)
theorem Row.dmaDsp (f : Fin 96) (i : Ins) (e : Ecc) : Row.Statement (.dmaDsp f i e) := fun w hw _ => by
  cases hw; exact defined_plain 0x45 i (by decide) (by decide) (by decide)
theorem Row.dmaStat (f : Fin 96) (i : Ins) (e : Ecc) : Row.Statement (.dmaStat f i e) := fun w hw _ => by
  cases hw; exact defined_plain 0x46 i (by decide) (by decide) (by decide)
theorem Row.tokSend (f : Fin 96) (i : Ins) (e : Ecc) : Row.Statement (.tokSend f i e) := fun w hw _ => by
  cases hw; exact defined_plain 0x50 i (by decide) (by decide) (by decide)
theorem Row.tokRecv (f : Fin 96) (i : Ins) (e : Ecc) : Row.Statement (.tokRecv f i e) := fun w hw _ => by
  cases hw; exact defined_plain 0x51 i (by decide) (by decide) (by decide)
theorem Row.tokPoll (f : Fin 96) (i : Ins) (e : Ecc) : Row.Statement (.tokPoll f i e) := fun w hw _ => by
  cases hw; exact defined_plain 0x52 i (by decide) (by decide) (by decide)
theorem Row.statClr (f : Fin 96) (i : Ins) (e : Ecc) : Row.Statement (.statClr f i e) := fun w hw _ => by
  cases hw; exact defined_plain 0x60 i (by decide) (by decide) (by decide)
theorem Row.statEmit (f : Fin 96) (i : Ins) (e : Ecc) : Row.Statement (.statEmit f i e) := fun w hw _ => by
  cases hw; exact defined_plain 0x61 i (by decide) (by decide) (by decide)
theorem Row.unitStart (f : Fin 96) (u : FacetUnit) (e : Ecc) : Row.Statement (.unitStart f u e) := no_word rfl
theorem Row.rowRetire (f : Fin 96) (e : Ecc) : Row.Statement (.rowRetire f e) := no_word rfl
theorem Row.dmaOpComplete (f : Fin 96) (k : Nat) (e : Ecc) : Row.Statement (.dmaOpComplete f k e) := no_word rfl
theorem Row.tokenArrival (src : Fin 96) (dst : Fin 96) (ch : Fin 16) : Row.Statement (.tokenArrival src dst ch) := no_word rfl
theorem Row.facetFaultStop (f : Fin 96) : Row.Statement (.facetFaultStop f) := no_word rfl
theorem Row.frameTick (sec : Fin 4) : Row.Statement (.frameTick sec) := no_word rfl
theorem Row.scrubBlock (n : Fin 4) (errs : List SymErr) : Row.Statement (.scrubBlock n errs) := no_word rfl
theorem Row.progressWrite (job : BitVec 32) : Row.Statement (.progressWrite job) := no_word rfl
theorem Row.ftlWearLevel (block : Nat) : Row.Statement (.ftlWearLevel block) := no_word rfl
theorem Row.ftlReadDisturb (block : Nat) : Row.Statement (.ftlReadDisturb block) := no_word rfl
theorem Row.ftlRetentionScan (block : Nat) (high : Bool) : Row.Statement (.ftlRetentionScan block high) := no_word rfl
theorem Row.chordData (p : ChordHdr) (payload : List Byte) : Row.Statement (.chordData p payload) := no_word rfl
theorem Row.credit (p : ChordHdr) (count : BitVec 32) : Row.Statement (.credit p count) := no_word rfl
theorem Row.rangeUpdate (job : BitVec 32) (shard : BitVec 32) (range : Nat) (hostFault : Bool) : Row.Statement (.rangeUpdate job shard range hostFault) :=
  no_word rfl
theorem Row.voteCast (job : BitVec 32) : Row.Statement (.voteCast job) := no_word rfl
theorem Row.vote (p : ChordHdr) (v : VoteRec) : Row.Statement (.vote p v) := no_word rfl
theorem Row.confirm (p : ChordHdr) (v : VoteRec) : Row.Statement (.confirm p v) := no_word rfl
theorem Row.workingCopyDerived (job : BitVec 32) : Row.Statement (.workingCopyDerived job) := no_word rfl
theorem Row.resolveTimeout (job : BitVec 32) : Row.Statement (.resolveTimeout job) := no_word rfl
theorem Row.abort (p : ChordHdr) (t : AbortTok) : Row.Statement (.abort p t) := no_word rfl
theorem Row.peerSilenceDetect (job : BitVec 32) (peer : BitVec 16) : Row.Statement (.peerSilenceDetect job peer) := no_word rfl
theorem Row.heartbeatSend (job : BitVec 32) (peer : BitVec 16) : Row.Statement (.heartbeatSend job peer) := no_word rfl
theorem Row.heartbeat (p : ChordHdr) (b : Heartbeat) : Row.Statement (.heartbeat p b) := no_word rfl
theorem Row.ack (p : ChordHdr) (map : BitVec 64) : Row.Statement (.ack p map) := no_word rfl
theorem Row.retransmitTimeout (job : BitVec 32) (peer : BitVec 16) (seq : BitVec 32) : Row.Statement (.retransmitTimeout job peer seq) :=
  no_word rfl
theorem Row.gatherReq (p : ChordHdr) (shard : BitVec 32) : Row.Statement (.gatherReq p shard) := no_word rfl
theorem Row.gatherData (p : ChordHdr) (payload : List Byte) : Row.Statement (.gatherData p payload) := no_word rfl
theorem Row.dispatch (p : ChordHdr) (payload : List Byte) : Row.Statement (.dispatch p payload) := no_word rfl
theorem Row.dispatchEnd (p : ChordHdr) (counts : List Nat) : Row.Statement (.dispatchEnd p counts) := no_word rfl
theorem Row.reshardReq (p : ChordHdr) (shard : BitVec 32) (gen : BitVec 64) : Row.Statement (.reshardReq p shard gen) :=
  no_word rfl
theorem Row.reshardData (p : ChordHdr) (payload : List Byte) : Row.Statement (.reshardData p payload) := no_word rfl
theorem Row.mirrorBindReq (p : ChordHdr) (bytes : BitVec 64) (entries : BitVec 32) (everyN : BitVec 16) : Row.Statement (.mirrorBindReq p bytes entries everyN) :=
  no_word rfl
theorem Row.mirrorBindAck (p : ChordHdr) (status : BitVec 16) (gib : BitVec 32) : Row.Statement (.mirrorBindAck p status gib) :=
  no_word rfl
theorem Row.snapshotBegin (job : BitVec 32) : Row.Statement (.snapshotBegin job) := no_word rfl
theorem Row.mirrorBegin (p : ChordHdr) (buffer : Fin 2) (d : CopyDesc) : Row.Statement (.mirrorBegin p buffer d) := no_word rfl
theorem Row.mirrorData (p : ChordHdr) (buffer : Fin 2) (payload : List Byte) : Row.Statement (.mirrorData p buffer payload) :=
  no_word rfl
theorem Row.mirrorEnd (p : ChordHdr) (buffer : Fin 2) (d : CopyDesc) : Row.Statement (.mirrorEnd p buffer d) := no_word rfl
theorem Row.mirrorDone (p : ChordHdr) (gen : BitVec 64) : Row.Statement (.mirrorDone p gen) := no_word rfl
theorem Row.mirrorFetchReq (p : ChordHdr) (gen : BitVec 64) : Row.Statement (.mirrorFetchReq p gen) := no_word rfl
theorem Row.mirrorFetchData (p : ChordHdr) (payload : List Byte) : Row.Statement (.mirrorFetchData p payload) := no_word rfl
theorem Row.mirrorFetchEnd (p : ChordHdr) (status : BitVec 16) (d : CopyDesc) : Row.Statement (.mirrorFetchEnd p status d) :=
  no_word rfl
theorem Row.mirrorUnbindOp (p : ChordHdr) : Row.Statement (.mirrorUnbindOp p) := no_word rfl
theorem Row.mirrorQueryOp (p : ChordHdr) : Row.Statement (.mirrorQueryOp p) := no_word rfl
theorem Row.mirrorQueryReply (p : ChordHdr) (region : BitVec 64) (flash : BitVec 64) : Row.Statement (.mirrorQueryReply p region flash) :=
  no_word rfl
theorem Row.flashCopyPersist (job : BitVec 32) (rank : BitVec 16) : Row.Statement (.flashCopyPersist job rank) := no_word rfl
theorem Row.flashCopySwitch (job : BitVec 32) (rank : BitVec 16) : Row.Statement (.flashCopySwitch job rank) := no_word rfl
theorem Row.portLinkLoss (p : Fin 8) : Row.Statement (.portLinkLoss p) := no_word rfl
theorem Row.portRetrainTimeout (p : Fin 8) : Row.Statement (.portRetrainTimeout p) := no_word rfl
theorem Row.pauseFrame (p : Fin 8) : Row.Statement (.pauseFrame p) := no_word rfl
theorem Row.neighborSolicitation (p : Via) (target : BitVec 128) (src : BitVec 128) : Row.Statement (.neighborSolicitation p target src) :=
  no_word rfl
theorem Row.routerAdvertisement (p : Via) (routerMac : BitVec 48) (prefix64 : BitVec 64) : Row.Statement (.routerAdvertisement p routerMac prefix64) :=
  no_word rfl
theorem Row.icmpv6Echo (p : Via) (src : BitVec 128) (body : List Byte) : Row.Statement (.icmpv6Echo p src body) := no_word rfl
theorem Row.mgmtCmd (m : MgmtMsg) (last : Bool) (data : List Byte) : Row.Statement (.mgmtCmd m last data) := no_word rfl
theorem Row.mgmtAck (xid : BitVec 32) (offset : BitVec 32) : Row.Statement (.mgmtAck xid offset) := no_word rfl
theorem Row.mgmtRetransmit (xid : BitVec 32) (offset : BitVec 32) : Row.Statement (.mgmtRetransmit xid offset) := no_word rfl
theorem Row.announceSend (job : BitVec 32) : Row.Statement (.announceSend job) := no_word rfl
theorem Row.announce (a : Announcement) : Row.Statement (.announce a) := no_word rfl
theorem Row.announceEntryExpiry (job : BitVec 32) (rank : BitVec 16) (serial : BitVec 64) : Row.Statement (.announceEntryExpiry job rank serial) :=
  no_word rfl
theorem Row.mgmtPortDown (p : Fin 2) : Row.Statement (.mgmtPortDown p) := no_word rfl
theorem Row.mgmtPortUp (p : Fin 2) : Row.Statement (.mgmtPortUp p) := no_word rfl
theorem Row.rehearsalInjection (bit : Fin 9) (target : BitVec 16) : Row.Statement (.rehearsalInjection bit target) := no_word rfl
theorem Row.rehearsalInjectionEnd (passed : Bool) : Row.Statement (.rehearsalInjectionEnd passed) := no_word rfl
theorem Row.fabricPortRetrained (p : Fin 8) : Row.Statement (.fabricPortRetrained p) := no_word rfl
theorem Row.silenceOutsideArmedStep (job : BitVec 32) (peer : BitVec 16) : Row.Statement (.silenceOutsideArmedStep job peer) :=
  no_word rfl
theorem Row.tempMaxUpdate (t : BitVec 8) : Row.Statement (.tempMaxUpdate t) := no_word rfl
theorem Row.jtagTapAccess (op : TapOp) : Row.Statement (.jtagTapAccess op) := no_word rfl
theorem Row.streamWindowGrowth (job : BitVec 32) (peer : BitVec 16) : Row.Statement (.streamWindowGrowth job peer) := no_word rfl
theorem Row.pwrEnAsserted : Row.Statement (.pwrEnAsserted) := no_word rfl
theorem Row.pgoodRise : Row.Statement (.pgoodRise) := no_word rfl
theorem Row.pwrEnDeasserted : Row.Statement (.pwrEnDeasserted) := no_word rfl
theorem Row.inputUndervoltage : Row.Statement (.inputUndervoltage) := no_word rfl
theorem Row.inputOvervoltage : Row.Statement (.inputOvervoltage) := no_word rfl
theorem Row.thermalTrip : Row.Statement (.thermalTrip) := no_word rfl
theorem Row.thermWarn : Row.Statement (.thermWarn) := no_word rfl
theorem Row.refclkLoss : Row.Statement (.refclkLoss) := no_word rfl
theorem Row.perstAsserted : Row.Statement (.perstAsserted) := no_word rfl
theorem Row.srEntryTimeout : Row.Statement (.srEntryTimeout) := no_word rfl
theorem Row.bootStart (f : JrnFaults) (torn : Option (RecKind × Cut)) : Row.Statement (.bootStart f torn) := no_word rfl
theorem Row.wdtFirstExpiry : Row.Statement (.wdtFirstExpiry) := no_word rfl
theorem Row.wdtSecondExpiry : Row.Statement (.wdtSecondExpiry) := no_word rfl
theorem Row.wdtBootExpiry : Row.Statement (.wdtBootExpiry) := no_word rfl
theorem Row.aonPtimeLoRead : Row.Statement (.aonPtimeLoRead) := no_word rfl
theorem Row.poweredTimeTick : Row.Statement (.poweredTimeTick) := no_word rfl
theorem Row.apexFatalError : Row.Statement (.apexFatalError) := no_word rfl
theorem Row.jtagResetRequest : Row.Statement (.jtagResetRequest) := no_word rfl
theorem Row.secSecurityEvent : Row.Statement (.secSecurityEvent) := no_word rfl
theorem Row.entropyHealthFail (startups : List (List (BitVec 8))) : Row.Statement (.entropyHealthFail startups) := no_word rfl
theorem Row.drbgReseed : Row.Statement (.drbgReseed) := no_word rfl
theorem Row.smbTimeout : Row.Statement (.smbTimeout) := no_word rfl
theorem Row.hostLinkUp : Row.Statement (.hostLinkUp) := no_word rfl
theorem Row.cxlConfigRequest (r : CfgReg) : Row.Statement (.cxlConfigRequest r) := no_word rfl
theorem Row.functionLevelReset : Row.Statement (.functionLevelReset) := no_word rfl
theorem Row.hotReset : Row.Statement (.hotReset) := no_word rfl
theorem Row.hostLinkDown : Row.Statement (.hostLinkDown) := no_word rfl
theorem Row.deviceResetTrigger : Row.Statement (.deviceResetTrigger) := no_word rfl
theorem Row.spdmGetVersion : Row.Statement (.spdmGetVersion) := no_word rfl
theorem Row.spdmGetCapabilities (req : List (BitVec 8)) : Row.Statement (.spdmGetCapabilities req) := no_word rfl
theorem Row.spdmGetDigests : Row.Statement (.spdmGetDigests) := no_word rfl
theorem Row.scoreUpdate : Row.Statement (.scoreUpdate) := no_word rfl
theorem Row.healthSecond : Row.Statement (.healthSecond) := no_word rfl
theorem Row.evidenceBucketChange : Row.Statement (.evidenceBucketChange) := no_word rfl
theorem Row.budgetWindowExpiry : Row.Statement (.budgetWindowExpiry) := no_word rfl
theorem Row.expulsionEffect : Row.Statement (.expulsionEffect) := no_word rfl
theorem Row.inputAboveRisingThreshold : Row.Statement (.inputAboveRisingThreshold) := no_word rfl
theorem Row.thermWarnRearm : Row.Statement (.thermWarnRearm) := no_word rfl

end Sys2Proof.Laws
end

