-- ==== Sys2Proof/Machine/Records.lean ====
section
/-! DEFINITION. Sys2Proof/Machine/Records.lean: the duplicated records as the journal memories hold them: their bytes and their offsets
(R23, R62, R307, R311, R438, R446, R448, R452). State holds what each record says; these functions say how it is spelled. -/

namespace Sys2Proof.Machine

/-- What every duplicated record but the boot journal's begins with: MAGIC, FORMAT 1, the two bytes after it, SEQ (Table 11-5). -/
def recHead (magic : Nat) (after : Byte) (seq : W64) : List Byte :=
  leBytes 4 magic ++ leBytes 2 1 ++ [after, 0] ++ leBytes 8 seq.toNat

/-- A remap entry in use (Table 11-2): VALID is set. -/
def remapBytes (e : RemapEntry) : List Byte :=
  leBytes 8 (e.sector.toNat + 2 ^ 30 * e.channel.toNat + 2 ^ 34 + 2 ^ 35 * bit e.cause + 2 ^ 48 * e.boot.toNat)

/-- The saved-parameter record of Prism `n` (Table 11-5). -/
def savedBytes (n : Nat) (r : SavedParams) : List Byte :=
  withCrc (layout 0x1FFC [
    (0x0000, recHead 0x50334D50 (BitVec.ofNat 8 n) r.seq), (0x0010, leBytes 2 r.channels.toNat), (0x0014, leBytes 4 r.trainedBoot.toNat),
    (0x0018, leBytes 1 r.remap.length), (0x0020, r.remap.flatMap remapBytes), (0x00A0, r.phy.take 8028)])

/-- The memory configuration record (Table 11-6). -/
def memCfgBytes (r : MemConfig) : List Byte :=
  withCrc (layout 0xFC [
    (0x00, recHead 0x50334D43 0 r.seq), (0x10, leBytes 4 r.hdmFirst.toNat ++ leBytes 4 r.hdmSize.toNat),
    (0x18, leBytes 144 ((r.mode1.map (2 ^ ·)).foldl (· + ·) 0))])

/-- An entry of the warm-restart directory (R438); an unused one is zero. -/
def dirEntryBytes (e : Option DirEntry) : List Byte :=
  match e with
  | none => zeros 32
  | some e => leBytes 4 e.job.toNat ++ leBytes 1 1 ++ leBytes 1 e.sector ++ [0, 0] ++ leBytes 8 e.dpa ++ zeros 16

/-- The warm-restart directory (R438). -/
def warmDirBytes (r : WarmDir) : List Byte :=
  withCrc (layout 0xFC [(0x00, recHead 0x50335752 0 r.seq), (0x20, (vlist r.entries).flatMap dirEntryBytes)])

/-- The fence map (Table 16-5). -/
def fenceBytes (r : FenceMap) : List Byte :=
  withCrc (layout 0xFC [
    (0x00, recHead 0x5033464D 0 r.seq), (0x10, leBytes 2 r.columns.toNat ++ leBytes 2 r.selftest.toNat ++ leBytes 4 r.pairs.toNat),
    (0x18, leBytes 4 r.pending.toNat ++ leBytes 1 r.prisms.toNat ++ [r.fabric] ++ leBytes 1 r.mgmt.toNat),
    (0x20, leBytes 2 r.liftColumns.toNat ++ [0, 0] ++ leBytes 4 r.liftPairs.toNat ++ leBytes 1 r.liftPrisms.toNat ++
      [r.liftFabric] ++ leBytes 1 r.liftMgmt.toNat)])

/-- The health configuration record (Table 16-3). -/
def hcfgBytes (r : HealthConfig) : List Byte :=
  withCrc (layout 0xFC [
    (0x00, recHead 0x50334843 0 r.seq), (0x10, leBytes 2 r.threshold ++ leBytes 2 r.hysteresis ++ leBytes 4 r.dwellS),
    (0x18, leBytes 2 r.budget ++ leBytes 1 (bit r.rehEnable)), (0x1C, leBytes 4 r.windowS ++ leBytes 4 r.periodS),
    (0x28, leBytes 8 r.mask.toNat)])

/-- The health state record (Table 16-2): the count of rate class 0x10 + c in bucket b lies at 0x100 + 48 * b + 4 * c. -/
def hstBytes (r : HealthState) : List Byte :=
  withCrc (layout 0x7FC [
    (0x000, recHead 0x50334853 0 r.seq),
    (0x010, leBytes 4 r.obsS ++ leBytes 4 r.belowS ++ leBytes 4 r.aboveS ++ leBytes 4 (bit r.replaceReq)),
    (0x020, leBytes 2 r.budgetUsed ++ [0, 0] ++ leBytes 4 r.windowEl ++ leBytes 4 r.refusals),
    (0x02C, leBytes 1 r.bucket), (0x030, leBytes 4 r.bucketEl),
    (0x100, (List.range 288).flatMap fun k => leBytes 4 (sget 0 r.counts k))])

/-- Where a journal memory holds each record and what stands there (R62, R307, R311, R438, R446, R448, R452): its copy in `JRN_A` or in
`JRN_B`, as `pick` says. A copy that is not valid is left out: the spec says of its bytes only that they are not valid. -/
def journalImage (pick : {α : Type} → Dup α → Option α) (j : Journal) : List (Nat × List Byte) :=
  let put := fun (o : Nat) (bs : Option (List Byte)) => (bs.map fun x => (o, x)).toList
  put 0x0000 ((pick j.bootDup).map bootBytes) ++
  ((List.range 4).flatMap fun n =>
    if hn : n < 4 then put (0x1000 + 0x2000 * n) ((pick (j.savedDup[n]'hn)).map (savedBytes n)) else []) ++
  put 0x9000 ((pick j.memDup).map memCfgBytes) ++ put 0xA000 ((pick j.dirDup).map warmDirBytes) ++
  put 0xB000 ((pick j.fenceDup).map fenceBytes) ++ put 0xB100 ((pick j.hcfgDup).map hcfgBytes) ++
  put 0xC000 ((pick j.hstDup).map hstBytes)

/-- What `JRN_A` holds. -/
def jrnA (j : Journal) : List (Nat × List Byte) := journalImage (fun d => d.a) j

/-- What `JRN_B` holds. -/
def jrnB (j : Journal) : List (Nat × List Byte) := journalImage (fun d => d.b) j

end Sys2Proof.Machine
end

