-- ==== Sys2Proof/Machine/Wire.lean ====
section
/-! DEFINITION. Sys2Proof/Machine/Wire.lean: what the module sends as it stands on the wire (R9): the headers of Tables 14-2 and 16-6,
most significant byte first, and the UDP and IPv6 headers of a Chord packet (R381). State and the rows carry the fields; these functions
say how the fields lie in bytes, and `readChordHdr` reads them back. -/

namespace Sys2Proof.Machine

/-! ### The Chord header -/

/-- The Chord header of a packet of type `kind` with `len` payload bytes (Table 14-2). -/
def chordHdrBytes (kind : BitVec 4) (h : ChordHdr) (len : Nat) : List Byte :=
  [0x1#4 ++ kind, BitVec.ofNat 8 (bit h.retx + 2 * bit h.ceEcho + 4 * bit h.final)] ++ beBytes 2 h.epoch.toNat ++
    beBytes 4 h.job.toNat ++ beBytes 8 h.step.toNat ++ beBytes 4 h.coll.toNat ++ beBytes 4 h.seq.toNat ++
    beBytes 2 h.srcRank.toNat ++ beBytes 2 h.dstRank.toNat ++ [h.ports, 0] ++ beBytes 2 len ++ beBytes 8 h.offset.toNat ++
    beBytes 4 h.ack.toNat ++ zeros 4

/-- The big-endian field of `n` bytes at offset `o`. -/
def beField (bs : List Byte) (o n : Nat) : Nat := beNat (slice bs o n)

/-- R382 drops the datagram for its bytes alone: `VERSION` or `TYPE` unknown, a reserved bit set, or `LEN` not the datagram's. -/
def chordMalformed (bs : List Byte) : Bool :=
  bs.length < 48 || field bs 0 1 / 16 != 1 || field bs 0 1 % 16 == 0 || 0xD < field bs 0 1 % 16 || 7 < field bs 1 1 ||
    field bs 0x1D 1 != 0 || beField bs 0x2C 4 != 0 || beField bs 0x1E 2 + 48 != bs.length

/-- The type, the header and the payload of a received Chord datagram: the interface, the sender's address and the CE mark come with
it from the lower layers. -/
def readChordHdr (via : Via) (src : Ip6) (ce : Bool) (bs : List Byte) : BitVec 4 × ChordHdr × List Byte :=
  (BitVec.ofNat 4 (field bs 0 1),
   { via := via, src := src, malformed := chordMalformed bs, ce := ce, retx := field bs 1 1 % 2 = 1, ceEcho := field bs 1 1 / 2 % 2 = 1,
     final := field bs 1 1 / 4 % 2 = 1, epoch := BitVec.ofNat 16 (beField bs 0x02 2), job := BitVec.ofNat 32 (beField bs 0x04 4),
     step := BitVec.ofNat 64 (beField bs 0x08 8), coll := BitVec.ofNat 32 (beField bs 0x10 4),
     seq := BitVec.ofNat 32 (beField bs 0x14 4), srcRank := BitVec.ofNat 16 (beField bs 0x18 2),
     dstRank := BitVec.ofNat 16 (beField bs 0x1A 2), ports := BitVec.ofNat 8 (field bs 0x1C 1),
     offset := BitVec.ofNat 64 (beField bs 0x20 8), ack := BitVec.ofNat 32 (beField bs 0x28 4) },
   bs.drop 48)

/-! ### UDP and IPv6 -/

/-- DSCP and ECN of a Chord packet: DSCP 46 for ABORT, VOTE, ACK, CREDIT and HEARTBEAT, else DSCP 26 with ECT(0) (R381). -/
def trafficClass (kind : BitVec 4) : Byte :=
  if kind = 0x2 ∨ kind = 0x3 ∨ kind = 0x4 ∨ kind = 0x5 ∨ kind = 0x6 then BitVec.ofNat 8 (4 * 46) else BitVec.ofNat 8 (4 * 26 + 2)

/-- The sum of big-endian 16-bit words, a last odd byte padded with zero. -/
def wordSum : List Byte → Nat
  | [] => 0
  | [a] => a.toNat * 256
  | a :: b :: rest => a.toNat * 256 + b.toNat + wordSum rest

/-- The Internet checksum: the complement of the ones' complement sum; zero is sent as all ones. -/
def udpChecksum (bs : List Byte) : Nat :=
  let v := wordSum bs % 65535
  let sum := if v = 0 ∧ wordSum bs ≠ 0 then 65535 else v
  if sum = 65535 then 65535 else 65535 - sum

/-- A UDP datagram with its checksum over the IPv6 pseudo-header. -/
def udpBytes (src dst : Ip6) (srcPort dstPort : Nat) (payload : List Byte) : List Byte :=
  let n := payload.length + 8
  let pseudo := beBytes 16 src.toNat ++ beBytes 16 dst.toNat ++ beBytes 4 n ++ [0, 0, 0, 17]
  let head := beBytes 2 srcPort ++ beBytes 2 dstPort ++ beBytes 2 n
  head ++ beBytes 2 (udpChecksum (pseudo ++ head ++ [0, 0] ++ payload)) ++ payload

/-- An IPv6 packet with a UDP datagram. The spec gives no flow label: it is the caller's. -/
def ip6Bytes (tc : Byte) (flow : BitVec 20) (hop : Byte) (src dst : Ip6) (udp : List Byte) : List Byte :=
  beBytes 4 (6 * 2 ^ 28 + tc.toNat * 2 ^ 20 + flow.toNat) ++ beBytes 2 udp.length ++ [17, hop] ++ beBytes 16 src.toNat ++
    beBytes 16 dst.toNat ++ udp

/-- A Chord packet as it stands on the wire (R381). -/
def chordBytes (flow : BitVec 20) (dst : Ip6) (kind : BitVec 4) (h : ChordHdr) (payload : List Byte) : List Byte :=
  ip6Bytes (trafficClass kind) flow 64 h.src dst
    (udpBytes h.src dst (0xC000 + h.seq.toNat % 2 ^ 14) 19330 (chordHdrBytes kind h payload.length ++ payload))

/-! ### Management messages -/

/-- A management message (Table 16-6): header and payload. -/
def mgmtBytes (type flags : Nat) (xid : W32) (offset total : Nat) (payload : List Byte) : List Byte :=
  [BitVec.ofNat 8 (0x10 + type), BitVec.ofNat 8 flags] ++ beBytes 2 payload.length ++ beBytes 4 xid.toNat ++ beBytes 4 offset ++
    beBytes 4 total ++ payload

/-- A CPL segment: the 32-byte completion stands before its buffer bytes. `LAST` is on the segment of the final
completion that reaches `TOTAL`: a DEFERRED completion ends no exchange (R463). -/
def cplMsg (xid : W32) (offset total : Nat) (retx : Bool) (payload : List Byte) : List Byte :=
  mgmtBytes 2 (bit (field payload 7 1 / 2 % 2 = 1 ∧ total ≤ offset + (payload.length - 32)) + 2 * bit retx) xid offset total payload

/-- An ACK: the type acknowledged, CMD, then three zero bytes. Its `TOTAL`, which the spec leaves unsaid, reads zero (log 111). -/
def ackMsg (xid offset : W32) : List Byte := mgmtBytes 3 0 xid offset.toNat 0 [1, 0, 0, 0]

/-- The ANNOUNCE payload (R464): numbers little-endian (R9 speaks of headers), addresses in network order. -/
def announceBytes (a : Announcement) : List Byte :=
  layout 192 [
    (0x00, leBytes 4 a.job.toNat ++ leBytes 2 a.rank.toNat ++ [a.portsUp, a.flags] ++ leBytes 8 a.serial.toNat ++
      leBytes 2 a.score.toNat ++ leBytes 2 a.conf.toNat),
    (0x20, (a.mgmtAddr.take 2).flatMap fun x => beBytes 16 x.toNat), (0x40, (a.fabAddr.take 8).flatMap fun x => beBytes 16 x.toNat)]

/-- An ANNOUNCE: it belongs to no exchange, and the fields that name one read zero (log 111). -/
def announceMsg (a : Announcement) : List Byte := mgmtBytes 4 0 0 0 0 (announceBytes a)

/-- A received management message's type, header fields and payload. -/
def readMgmt (bs : List Byte) : BitVec 4 × Bool × Bool × W32 × W32 × W32 × List Byte :=
  (BitVec.ofNat 4 (field bs 0 1), field bs 1 1 % 2 = 1, field bs 1 1 / 2 % 2 = 1, BitVec.ofNat 32 (beField bs 4 4),
    BitVec.ofNat 32 (beField bs 8 4), BitVec.ofNat 32 (beField bs 0xC 4), bs.drop 16)

/-- The bytes of a message that the module sent: the whole IPv6 packet of a Chord packet, the UDP payload of a management message;
none for what the spec gives no layout of. -/
def wireBytes (flow : BitVec 20) (e : Emit) : Option (List Byte) :=
  match e with
  | .chord _ _ dst kind h payload => some (chordBytes flow dst kind h payload)
  | .cpl _ xid offset total retx payload => some (cplMsg xid offset total retx payload)
  | .mgmtAck _ xid offset => some (ackMsg xid offset)
  | .announce _ a => some (announceMsg a)
  | _ => none

end Sys2Proof.Machine
end

