-- ==== Sys2Proof/Tests/Slice0.lean ====
section
/-! SUPPORT. Sys2Proof/Tests/Slice0.lean: ill-formed terms that the checks refuse, words written out from the spec's encodings, a
witness for the hypotheses of every statement, and small tests of single commands with values from the spec. -/

namespace Sys2Proof.Tests

open Sys2Proof Sys2Proof.Machine Sys2Proof.Claims

-- The tests evaluate in the kernel, one after another.
set_option Elab.async false

/-! ### Facet instructions: witnesses -/

/-- Facet 0 as `x`, running, with one instruction at its PC. -/
def held (x : Facet) (op : Byte) (i : Ins) : Facet := { x with st := .running, imem := [(x.pc.toNat, joinIns op i)] }

/-- The reset state with facet 0 as given. -/
def put0 (x : Facet) : State := { State.reset with facets := vupd State.reset.facets 0 fun _ => x }

/-- Facet 0, as `x`, can issue the instruction. -/
def ok (op : Byte) (u : Use) (i : Ins) (x : Facet) : Bool := issues 0 op u i Ecc.clean (put0 (held x op i))

/-- The fields of a word; those not named are zero. -/
def ins (d a b c : Byte) (x : W16) (imm : W64) (fl : Byte := 0) : Ins := ⟨fl, d, a, b, c, x, imm⟩

/-- A tile descriptor of `rows` by `cols` elements at `base`. -/
def tile (fmt rows cols stride base scaleBase : Nat) : BitVec 128 :=
  BitVec.ofNat 128 (base + 2 ^ 24 * scaleBase + 2 ^ 48 * stride + 2 ^ 64 * fmt + 2 ^ 72 * (rows - 1) + 2 ^ 80 * (cols - 1))

/-- Facet 0 with descriptor t0. -/
def withT (td : BitVec 128) : Facet := { t := vupd (Vector.replicate 16 0) 0 fun _ => td }

/-- Facet 0 with s1, s2 and s3. -/
def withS (a b c : W64) : Facet := { s := (#v[0, a, b, c] : Vector W64 4) ++ (Vector.replicate 28 0 : Vector W64 28) }

/-- `n` queued instructions. -/
def queue (n : Nat) (op : QOp) : List QEnt := (List.range n).map fun k => { op := op, seq := k, pc := 0 }

theorem witness_LiAndSaluSetDestination :
    ok 0x02 { d := .s, imm := 0xFFFFFFFFFFFFFFFF } (ins 31 0 0 0 0 0xFFFFFFFFFFFFFFFF) {} = true ∧
    saluRules.all (fun r => ok 0x03 (useSalu (ins 1 2 3 0 (BitVec.ofNat 16 r.code) 0)) (ins 1 2 3 0 (BitVec.ofNat 16 r.code) 0) {} &&
      ok 0x03 (useSalu (ins 31 31 0 0 (BitVec.ofNat 16 r.code) 5 1)) (ins 31 31 0 0 (BitVec.ofNat 16 r.code) 5 1) {}) = true := by
  decide +kernel

/-- A facet at instruction 4 of an innermost loop from 3 to 5 that has two more turns. -/
def inLoop (a : W64) : Facet := { withS a 0 0 with pc := 4, loops := [⟨3, 5, 2⟩] }

theorem witness_ControlFlowMoves :
    ok 0x00 {} (ins 0 0 0 0 0 0) {} = true ∧
    ok 0x08 { fl := 0x1F, x := 0xFF } (ins 0 0 0 0 0xFF 0 0x1F) {} = true ∧ unitsDone State.reset 0 {} 0x1F 0xFF = true ∧
    [(0, 0), (1, 0), (2, 1)].all (fun p : Nat × Nat => [3, 5].all fun t =>
      ok 0x06 { a := .s, x := 3, imm := 0xFFF } (ins 0 1 0 0 (BitVec.ofNat 16 p.1) t) (inLoop (BitVec.ofNat 64 p.2))) = true ∧
    [(1, 1), (2, 0)].all (fun p : Nat × Nat =>
      ok 0x06 { a := .s, x := 3, imm := 0xFFF } (ins 0 1 0 0 (BitVec.ofNat 16 p.1) 5) (inLoop (BitVec.ofNat 64 p.2))) = true ∧
    [0, 1].all (fun n : Nat => ok 0x07 { a := .s, imm := 0xFFF } (ins 0 1 0 0 0 5) (inLoop (BitVec.ofNat 64 n))) = true := by
  decide +kernel

theorem witness_HaltStopsFacet :
    ok 0x01 { imm := 0xFFFF } (ins 0 0 0 0 0 0xFFFF) {} = true ∧ unitsDone State.reset 0 {} 0x1F 0xFF = true ∧
    ok 0x01 { imm := 0xFFFF } (ins 0 0 0 0 0 0xFFFF) { veQ := queue 1 (.accZero 0) } = true ∧
    unitsDone State.reset 0 { veQ := queue 1 (.accZero 0) } 0x1F 0xFF = false := by
  decide +kernel

theorem witness_DescriptorsTakeTheirFields :
    ok 0x0A { d := .t, imm := 0xFFFFFFFFFFFFFFFF } (ins 0x2F 0 0 0 0 0xFFFFFFFFFFFFFFFF) {} = true ∧
    ok 0x0B { d := .t, imm := 0xFFFFFFFFFFFFFFFF } (ins 0x2F 0 0 0 0 0xFFFFFFFFFFFFFFFF) {} = true ∧
    ok 0x0C { fl := 1, d := .t, a := .s } (ins 0x2F 31 0 0 0 0) {} = true ∧
    ok 0x0C { fl := 1, d := .t, a := .s, b := .s } (ins 0x2F 31 31 0 0 0 1) {} = true := by
  decide +kernel

theorem witness_SequencerMovesAndUnits :
    ok 0x04 { d := .s, a := .s, imm := 0xFFFFFF } (ins 1 1 0 0 0 0x2FFFF8) {} = true ∧
    ok 0x05 { a := .s, b := .s, imm := 0xFFFFFF } (ins 0 1 2 0 0 8) (withS 0x2FFFF0 7 0) = true ∧
    [0, 1, 2, 3, 4, 5, 6, 7, 8, 9].all (fun k : Nat => ok 0x09 { d := .s, imm := 0xFFF } (ins 1 0 0 0 0 (BitVec.ofNat 64 k)) {}) = true ∧
    ok 0x46 { d := .s, x := 7 } (ins 1 0 0 0 7 0) {} = true ∧ ({} : Facet).races = [] ∧
    ok 0x51 { d := .s, x := 0xF } (ins 1 0 0 0 15 0) { chans := vupd (Vector.replicate 16 []) 15 fun _ => [9] } = true ∧
    ok 0x52 { d := .s, x := 0xF } (ins 1 0 0 0 15 0) {} = true ∧ ok 0x60 { x := 0xF } (ins 0 0 0 0 15 0) {} = true ∧
    ok 0x61 { fl := 1, a := .s, x := 0xF } (ins 0 1 0 0 15 0 1) (withS 0x2FFF00 0 0) = true ∧ noDrains {} = true := by
  decide +kernel

theorem witness_MatrixInstructionsQueue :
    (let w := tile 0 128 128 128 0 0x4000 + 2 ^ 68; let x := { withT w with mmaQ := queue 7 (.ldw 0) };
      ok 0x10 { a := .t } (ins 0 0x20 0 0 0 0) x = true ∧ tdError w = none ∧ tdSaxis w = true ∧ x.mmaQ.length < 8) ∧
    (let t := tile 6 128 128 256 0 0; let x := { withT t with unconsumed := some ⟨6, 128, 128⟩, issued := some ⟨6, 128, 1⟩ };
      ok 0x11 { fl := 0xF, d := .a, a := .t } (ins 0x47 0x20 0 0 0 0 0xF) x = true ∧ runError x t true true = none ∧
      runError x t false true = none ∧ runError x t true false = none) ∧
    ok 0x20 { d := .a } (ins 0x47 0 0 0 0 0) { accQ := queue 7 (.accZero 0) } = true ∧
    ok 0x21 { d := .a, imm := 0xFFFFFF } (ins 0x47 0 0 0 0 0xFFFFFF) {} = true ∧
    ok 0x22 { fl := 1, d := .t, a := .a } (ins 0x20 0x47 0 0 0 0 1) (withT (tile 7 1 1 32 0x2FFFC0 0)) = true ∧
    tdError (tile 7 1 1 32 0x2FFFC0 0) = none ∧
    ok 0x23 { d := .a, a := .t } (ins 0x47 0x20 0 0 0 0) (withT (tile 6 1 1 32 0 0)) = true ∧ tdError (tile 6 1 1 32 0 0) = none := by
  decide +kernel

theorem witness_VectorInstructionsQueue :
    (veRules.all fun r =>
      let i := ins 0x60 0x60 (if r.use.b then 31 else 0) (if r.use.c then 0x63 else 0) (r.fn.zeroExtend 16)
        (if r.use.k then 0xFFFFFFFF else 0);
      ok 0x32 (useVe r.use) i { veQ := queue 7 (.accZero 0) }) = true ∧
    (let i := ins 0x60 0x60 1 0 0x30 0x7FFFFFFF;
      ok 0x32 (useVe ⟨true, false, true⟩) i (withS 0x4B7FFFFF 0 0) = true) ∧
    (randCount 0x4B7FFFFF).isSome = true ∧
    ok 0x30 { d := .v, a := .t } (ins 0x63 0x20 0 0 0 0) (withT (tile 7 1 1 32 0x2FFFC0 0)) = true ∧
    ok 0x31 { d := .t, a := .v } (ins 0x20 0x63 0 0 0 0) (withT (tile 7 1 1 32 0x2FFFC0 0)) = true ∧
    tdError (tile 7 1 1 32 0x2FFFC0 0) = none := by
  decide +kernel

/-- A tile of one row of 128 FP32 elements. -/
def row32 : BitVec 128 := tile 7 1 128 512 0 0

/-- Facet 0 with that tile in t0, fifteen queued DMA instructions, and s1 to s3. -/
def dmaFacet : Facet := { withT row32 with dmaQ := queue 15 (.accZero 0), s := (withS 32 0x20 0x40).s }

theorem witness_DmaAndTokenInstructionsQueue :
    ok 0x40 { fl := 1, d := .t, b := .s, c := .s, x := 0x1F07 } (ins 0x20 0 2 3 0x0107 0 1) dmaFacet = true ∧
    ok 0x41 { fl := 1, a := .t, b := .s, c := .s, x := 0x1F07 } (ins 0 0x20 2 3 0x0107 0 1) dmaFacet = true ∧
    ok 0x44 { a := .t, b := .s, c := .s, x := 7 } (ins 0 0x20 2 3 7 0) dmaFacet = true ∧
    ok 0x45 { a := .t, b := .s, c := .s, x := 7 } (ins 0 0x20 2 3 7 0) dmaFacet = true ∧ tdError row32 = none ∧
    tdFmt row32 = 0x7 ∧ tdCols row32 = 128 ∧ spanOk (tdScaleBase row32) (roundUp (tdScaleLen row32) 32) = true ∧
    dpaError (rowRanges row32 0x20 0x40 (some 32)) = none ∧
    0x20 + dspWord (put0 dmaFacet) dmaFacet 0x40 * tdRows row32 ≤ 0x300000 ∧
    (let x := withS 0x2FFFE0 0x11FFFFFFFE0 32;
      ok 0x42 { fl := 1, a := .s, b := .s, c := .s, x := 7 } (ins 0 1 2 3 7 0) x = true ∧
      ok 0x42 { fl := 1, a := .s, b := .s, c := .s, x := 7 } (ins 0 1 2 3 7 0 1) x = true ∧ spanOk 0x2FFFE0 32 = true ∧
      dpaError [(0x11FFFFFFFE0, 32)] = none) ∧
    (let x := { withS 0 0 0x2FFFE0 with sector := some 3 };
      ok 0x43 { a := .s, b := .s, c := .s, x := 7, imm := 0x3FFFFF } (ins 0 1 2 3 7 32) x = true ∧ spanOk 0x2FFFE0 32 = true) ∧
    (let x := withS 95 1 0;
      ok 0x50 { a := .s, b := .s, x := 0xFF0F } (ins 0 1 2 0 0xFF0F 0) x = true) := by
  decide +kernel

/-- Facet 0 of sector 3, like facet 95, with one instruction at the front of every queue. -/
def starting (op : QOp) : State :=
  let q : QEnt := { op := op, seq := 9, pc := 4, mark := 2, after := [5] };
  let x : Facet :=
    { ldPipe := some q, runPipe := some q, accQ := [q], veQ := [q], dmaQ := [q], tokQ := [q], flight := queue 3 (.accZero 0), sector := some 3,
      active := some ⟨0, 1, 1, [], []⟩, acc := vupd (Vector.replicate 8 {}) 7 fun t => { t with retired := 2 } }
  { put0 x with facets := vupd (put0 x).facets 95 fun y => { y with sector := some 3 } }

theorem witness_UnitsPerformQueued :
    (let x := (starting (.accZero 7)).facets[(0 : Fin 96)]; let q : QEnt := { op := .accDrain row32 7 true, seq := 9, pc := 4 };
      x.shadow.isNone && !x.accQ.any (accNames 7 9) && decide (2 ≤ (x.acc[(7 : Fin 8)]).retired) && decide (x.flight.length < 4) &&
      !((x.flight ++ []).any fun z => [5].contains z.seq) && !drainHeld q x.veQ && !drainHeld q x.accQ) = true ∧
    (let s := starting (.tokSend (BitVec.ofNat 64 94) 1 15);
      (s.facets[(94 : Fin 96)]).sector != some 3) = true ∧
    (let s := starting (.tokSend (BitVec.ofNat 64 95) 1 15);
      let t := { s with sectors := vupd s.sectors 3 fun x => { x with st := .running, columns := 0x800, cadence := 1000,
                                                                      arc := some ⟨1, 7, 1000, 0, 0xFFFFFFFFFFFFFFFF⟩ } };
      tickIngress t 3 95 15) = true ∧
    (let s := starting (.tokSend (BitVec.ofNat 64 95) 1 15);
      !tokBlocked s 0 && (s.facets[(0 : Fin 96)]).sector == some 3 && (s.facets[(95 : Fin 96)]).sector == some 3 &&
      !tickIngress s 3 95 15) = true ∧
    retireCount ⟨0, tile 4 2 1 32 0 0, false, false, false, 0, ⟨0, 1, 1, [], []⟩, 0, 0, 0⟩ = 1 := by
  decide +kernel

/-- Facet 0 of sector 1 with one operation in flight. -/
def flying (op : QOp) : State :=
  { put0 { sector := some 1, flight := [{ op := op, seq := 0, pc := 0 }] } with mem.trained := 0xF, owners := [(1, .sector 1)] }

/-- The host may hold the first line of the window, which is granule 1. -/
def shared (s : State) : State := { s with mem.hdmFirst := 1, mem.hdmSize := 1, mem.snoop := [0] }

/-- R298: a read of a line that the host may hold sends BISnpData and stays in flight. -/
theorem test_dma_read_waits :
    (match exec (.dmaOpComplete 0 0 Ecc.clean) (shared (flying (.dmaLin false 0 0x40000000 64))) with
      | .next t => t.mem.bisnp == [(false, 0)] && (t.facets[(0 : Fin 96)]).flight.length == 1 && t.out == [.bisnp false 0]
      | _ => false) = true := by
  decide +kernel

/-- R298: once the host has answered, the read completes. -/
theorem test_dma_read_proceeds :
    (match exec (.backInvalidateResponse 0) { shared (flying (.dmaLin false 0 0x40000000 64)) with mem.bisnp := [(false, 0)] } with
      | .next t => match exec (.dmaOpComplete 0 0 Ecc.clean) t with
        | .next u => u.mem.bisnp == [] && (u.facets[(0 : Fin 96)]).flight.isEmpty && u.out == [] && u.mem.snoop == [0]
        | _ => false
      | _ => false) = true := by
  decide +kernel

theorem witness_DmaOperationsComplete :
    (let s := flying (.dmaLin true 0 0x40000000 64); let x := s.facets[(0 : Fin 96)];
      x.flight[0]? == some { op := .dmaLin true 0 0x40000000 64, seq := 0, pc := 0 } &&
      (granulesOf 0x40000000 64).all (fun g => grantOk s x true (g * 2 ^ 30) 32) && !mustSnoop true [(0x40000000, 0, 64)] s &&
      mustSnoop true [(0x40000000, 0, 64)] (shared s)) = true ∧
    (let td := tile 7 2 128 512 0 0; let s := flying (.dmaRows false td 0x40000000 512 none); let x := s.facets[(0 : Fin 96)];
      let spans := rowSpans td 0x40000000 512 none;
      x.flight[0]? == some { op := .dmaRows false td 0x40000000 512 none, seq := 0, pc := 0 } && spans.length == 2 &&
      (spans.flatMap fun y => granulesOf y.1 y.2.2).all (fun g => grantOk s x false (g * 2 ^ 30) 32) && !mustSnoop false spans s) = true ∧
    (let s := flying (.dmaLin false 0 0x7FFFFFE0 64); let x := s.facets[(0 : Fin 96)];
      (granulesOf 0x7FFFFFE0 64).find? (fun g => !grantOk s x false (g * 2 ^ 30) 32) == some 2) = true ∧
    ([.dmaXfr 0 95 32 64, .dmaChd row32 3 0 9, .dmaDsp row32 0 0x20 9] : List QOp).all (fun op =>
      ((flying op).facets[(0 : Fin 96)]).flight[0]? == some { op := op, seq := 0, pc := 0 }) = true := by
  decide +kernel

/-- A running sector 2 of column 0 whose facet 0 has faulted. -/
def faulted : State :=
  { put0 { sector := some 2, st := .faulted } with
    sectors := vupd State.reset.sectors 2 fun _ => { st := .running, columns := 1 } }

theorem witness_TokensArriveAndFaultsStop :
    [3, 4].all (fun n =>
      let m : MeshTok := ⟨1, 0, 15, 7, 0, 0⟩;
      let s := { State.reset with
        mesh := ([⟨1, 0, 14, 5, 0, 0⟩] : List MeshTok) ++ m :: [⟨1, 0, 15, 8, 0, 0⟩],
        facets := vupd State.reset.facets 0 fun x => { x with chans := vupd x.chans 15 fun _ => List.replicate n 0 } };
      s.mesh[1]? == some m && (s.facets[(0 : Fin 96)].chans[(15 : Fin 16)]).length == n) = true ∧
    (faulted.facets[(0 : Fin 96)]).sector = some 2 ∧ (faulted.facets[(0 : Fin 96)]).st = .faulted ∧
    (faulted.facets[(0 : Fin 96)]).reported = false ∧ (faulted.sectors[(2 : Fin 4)]).st = .running ∧
    (let s := modFacet 0 (fun y => { y with reported := true }) faulted; (s.facets[(0 : Fin 96)]).reported) = true ∧
    (let s := modSector 2 (fun y => { y with st := .loaded }) faulted; (s.sectors[(2 : Fin 4)]).st == .loaded) = true := by
  decide +kernel

theorem witness_VectorLanes :
    ∃ q : QEnt, (q.op = .veOp 0x0E 3 3 (.scal 0) (.buf 2) 0) ∧
      (put0 { veQ := [q] }).facets[(0 : Fin 96)].veQ = [q] ∧ (((put0 { veQ := [q] }).facets[(0 : Fin 96)]).ve[(3 : Fin 4)]).cols ≤ 128 :=
  ⟨{ op := .veOp 0x0E 3 3 (.scal 0) (.buf 2) 0, seq := 0, pc := 0 }, rfl, by decide +kernel, by decide +kernel⟩

/-! ### A module with a job: helpers -/

/-- The boot has ended with every Prism trained, the host link up and the mailbox open. -/
def up : State :=
  { State.reset with
    phase := .ready, mem.trained := 0xF, pins.perst := false, pins.fault := false, pins.txIdle := false, flash.present := true,
    mbx.isOpen := true, mbx.accept := true, mbx.ready := true, mbx.link := .l0 }

/-- A header on ring 0. -/
def hd (sector : Byte := 0) (len : Nat := 0) : Hdr := ⟨.ring 0, 0, 1, false, false, sector, 0, BitVec.ofNat 32 len, [], false, false, false⟩

/-- The command of the header is fetched and the next to start. -/
def cmd (c : Cat) (h : Hdr) (s : State) : State :=
  { s with mbx.rings := vupd s.mbx.rings 0 fun r => { r with outstanding := [⟨h, c.op, false, false, false, 0⟩] } }

/-- The sectors, one changed. -/
def sec (k : Fin 4) (x : Sector) : Vector Sector 4 := vupd (Vector.replicate 4 {}) k fun _ => x

/-- Own address and the peer's. -/
def ip0 : Ip6 := 0xFE800000000000000000000000000001
def ip1 : Ip6 := 0xFE800000000000000000000000000002

/-- A layout of two members: shard 5 of 32 elements is this member's, shard 6 the peer's; both contribute. -/
def layBytes : List Byte :=
  let member := fun (n : Nat) (a : Ip6) => layout 144 [(0, leBytes 2 n), (3, [1]), (4, leBytes 2 0xFFFF), (0x10, beBytes 16 a.toNat)]
  let shard := fun (id owner first w : Nat) => layout 96 [(0, leBytes 4 id), (4, leBytes 4 9), (0xC, leBytes 2 owner),
    (0x10, leBytes 8 first), (0x18, leBytes 8 32), (0x24, leBytes 4 32), (0x2E, leBytes 2 2), (0x30, leBytes 2 1),
    (0x38, leBytes 8 w), (0x48, leBytes 8 (w + 1))]
  layout 64 [(0, leBytes 4 0x50334C59), (4, leBytes 2 1), (8, leBytes 2 2), (0xC, leBytes 4 2), (0x10, leBytes 4 1),
    (0x14, leBytes 2 1), (0x16, leBytes 2 1), (0x18, leBytes 8 0x3000000), (0x20, leBytes 8 0x3100000), (0x28, leBytes 8 0x3200000)] ++
  member 0 ip0 ++ member 1 ip1 ++ shard 5 0 0 0x100 ++ shard 6 1 16384 0x200 ++
  layout 8 [(0, leBytes 4 3), (4, leBytes 4 9)] ++
  layout 32 [(0, leBytes 4 9), (8, leBytes 8 0x102)] ++
  layout 48 [(0, leBytes 2 1), (4, leBytes 2 2), (6, leBytes 2 1), (0xA, leBytes 2 1), (0xC, leBytes 2 4), (0xE, leBytes 2 32),
    (0x18, leBytes 8 0x103), (0x20, leBytes 8 0x104)]

/-- The layout of those bytes. -/
def lay0 : Layout := (parseLayout layBytes).getD ⟨0, 0, [], [], [], [], [], 0, 0, 0, 0, []⟩

/-- An object of job 7 in LPDDR6. -/
def obj (id : W64) (loc size : Nat) : Obj := ⟨id, 7, size, 0, loc, [], false, [], 0, 0, [], none, [], false, false⟩

/-- Job 7 in sector 0 with that layout. -/
def job7 : Job := { id := 7, sector := 0, seed := 1, rule := 0, recDpa := 0x200000000, epoch := 3, layout := some lay0 }

/-- The module with job 7, its objects and its sector as given. -/
def w7 (j : Job) (x : Sector := { st := .loaded, columns := 1 }) : State :=
  { up with
    jobs := [j], sectors := sec 0 x, owners := (List.range 8).map (fun g => (g, .sector 0)) ++ [(8, .device)],
    objs := [obj 0x100 0 0x200000, obj 0x101 0x200000 0x200000, obj 0x102 0x400000 0x200000, obj 0x103 0x600000 0x200000] ++
      [obj 0x104 0x800000 0x200000],
    fabric.ports := vmap (Vector.replicate 8 {}) fun p x => if p.val = 0 then { x with st := 4, addr := ip0, mode := none } else x }

/-- Its step 9 over generation 4, armed, with shard 5 accumulating. -/
def run9 : StepRun :=
  { st := .armed, step := 9, micro := 1, gen := 4, cmd := some (hd), params := [], ranges := [], outs := [], votes := [], confirms := [],
    shards := [⟨5, .accumulating, false, 0, 0, false, Vector.replicate 3 (0, 0, 0)⟩], ownVote := none, force := 0, gathers := [],
    begun := [], asked := [], got := [], disps := [] }

/-- Job 7 with a committed generation. -/
def jobC : Job := { job7 with commit := { epoch := 3, valid := true, gen := 4, step := 8 }, lastArmed := 8, lastStep := 8 }

/-- The committed shard 5 in LPDDR6. -/
def wC (j : Job) : State := match ownShards lay0 with
  | sh :: _ => putRec sh 0 ⟨4, 0, 8, 3, 0, true⟩ (w7 j)
  | [] => w7 j

/-! ### Sectors, jobs and steps: witnesses -/

theorem witness_SectorCreateAndDestroy :
    accepted catSectorCreate (hd 3) (cmd catSectorCreate (hd 3) up) = true ∧
    sectorCreateStatus 3 0xFFF 1152 1000 1 (startCmd (hd 3) (cmd catSectorCreate (hd 3) up)) = none ∧
    [SectorState.empty, .loaded, .faulted].all (fun st =>
      let s := cmd catSectorDestroy (hd 3) { up with sectors := sec 3 { st := st, columns := 0x800 } };
      accepted catSectorDestroy (hd 3) s && (sectorJob s 3).isNone && !sourceArmed s.sectors[(3 : Fin 4)] s) = true := by
  decide +kernel

/-- An Arc image of one column whose facet 0 has one instruction and takes the ticks. -/
def arcBytes : List Byte :=
  layout 96 [(0, leBytes 4 0x50334152), (4, leBytes 2 1), (8, [1]), (9, [0]), (0xA, leBytes 2 1), (0xC, leBytes 4 1000),
    (0x18, leBytes 8 0xFFFFFFFFFFFFFFFF), (64, [1, 0]), (64 + 8, leBytes 4 80), (64 + 12, leBytes 4 16), (80, [0x01])]

/-- What that image says of its Arc. -/
def arc0 : ArcInfo := ⟨1, 0, 1000, 0, 0xFFFFFFFFFFFFFFFF⟩

/-- Sector 3 of one column with that Arc, in state `st`, and its facets taking part. -/
def arcSector (st : SectorState) (cadence : W32) : State :=
  { up with
    sectors := sec 3 { st := st, columns := 0x800, arc := some arc0, cadence := cadence, tick := 1 },
    facets := vmap up.facets fun f x => if f.val = 88 then { x with sector := some 3, part := true, st := .running } else x }

theorem witness_ArcLoadStartStopAndTick :
    (match parseArc arcBytes with
      | some im => im.info == arc0 && !im.eval
      | none => false) = true ∧
    (let s := cmd catArcLoad (hd 3 96) (arcSector .faulted 0); let x := s.sectors[(3 : Fin 4)];
      accepted catArcLoad (hd 3 96) s && decide (1 ≤ popCount x.columns) && (sectorJob s 3).isNone && !x.eval) = true ∧
    (let s := cmd catArcLoad (hd 0 96) (w7 jobC);
      accepted catArcLoad (hd 0 96) s && (sectorJob s 0).isSome && decide (copyGranules 96 ≤ (quotaFree s 0).length) &&
      inQuota s 0 0x1C0000000 64) = true ∧
    (let s := cmd catArcStart (hd 3) (arcSector .loaded 0);
      accepted catArcStart (hd 3) s && (s.facets[(88 : Fin 96)]).part && !s.health.expelled && !anyFaulted 0x800 s) = true ∧
    accepted catArcStop (hd 3) (cmd catArcStop (hd 3) (arcSector .running 1000)) = true ∧
    ([999, 1000].all fun (now : W64) => let s := { arcSector .running 1000 with aon.ptime := now };
      decide ((s.sectors[(3 : Fin 4)]).t0 + (1000 : W64) ≤ s.aon.ptime) == (now == 1000) &&
      (s.facets[ingressOf s.sectors[(3 : Fin 4)] arc0].chans[(15 : Fin 16)]).isEmpty) = true ∧
    (let s := modFacet (ingressOf (arcSector .running 1000).sectors[(3 : Fin 4)] arc0)
        (fun x => { x with chans := vupd x.chans 15 fun _ => [0] }) { arcSector .running 1000 with aon.ptime := 1000 };
      !(s.facets[ingressOf s.sectors[(3 : Fin 4)] arc0].chans[(15 : Fin 16)]).isEmpty) = true := by
  decide +kernel

/-- A sector of LPDDR6 poisoned. -/
def spoilt (a : Nat) (s : State) : State := { s with mem := putPoison s.mem (a / 32) }

/-- What the facets of job 7 had started is finished. -/
def finished (s : State) : State := finishStarted s.sectors[(0 : Fin 4)].columns (stopArc 0 s)

/-- Job 7 while `PARK` goes on, at once and after a wait. -/
def parkingNow : State := modJob 7 (fun y => { y with parking := true, pend := some (.park (hd) false) }) (startCmd (hd) (cmd catPark (hd) (w7 jobC)))
def parkingLate : State := w7 { jobC with parking := true, pend := some (.park (hd) true) }

theorem witness_ParkingFollowsTheJob :
    (let j := { jobC with run := some run9 }; accepted catPark (hd) (cmd catPark (hd) (w7 j)) && !jobBusy j && armed j) = true ∧
    (let j := { jobC with snapNext := [4] };
      accepted catPark (hd) (cmd catPark (hd) (w7 j)) && !jobBusy j && !armed j && !j.snapNext.isEmpty) = true ∧
    (accepted catPark (hd) (cmd catPark (hd) (w7 jobC)) && !jobBusy jobC && !armed jobC) = true ∧
    ((vlist (finished parkingNow).facets).all (fun x => x.flight.isEmpty) &&
      (vlist (finished parkingLate).facets).all (fun x => x.flight.isEmpty)) = true ∧
    jobOf 7 (finished parkingNow) = jobOf 7 parkingNow ∧ jobOf 7 (finished parkingLate) = jobOf 7 parkingLate ∧
    (let j := { jobC with phase := .parked }; let s := { cmd catUnpark (hd 3) (w7 j {}) with sectors := sec 3 { st := .empty } };
      accepted catUnpark (hd 3) s && !jobBusy j && (sectorJob s 3).isNone && (readArc j (startCmd (hd 3) s)).2 == .absent &&
      (readScaleRec j (startCmd (hd 3) s)).2) = true ∧
    (let j := { jobC with phase := .parked, arcCopy := some ⟨[7], 96, 1⟩ }; let s := writeArcCopy [7] arcBytes (w7 j {});
      (match readArc j s with
        | (_, .image im b) => im.info == arc0 && b == arcBytes
        | _ => false) && (readArc j (spoilt (7 * 2 ^ 30) s)).2 == .unreadable) = true :=
  ⟨by decide +kernel, by decide +kernel, by decide +kernel, by decide +kernel, rfl, rfl, by decide +kernel, by decide +kernel⟩

theorem witness_JobOpenAndClose :
    (let s := cmd catJobOpen (hd 3) { up with sectors := sec 3 { st := .empty } };
      accepted catJobOpen (hd 3) s && (jobOf 7 s).isNone && sectorOpen 3 s && freeDirEntry s == some 0) = true ∧
    (let s := cmd catJobClose (hd) (w7 jobC);
      accepted catJobClose (hd) s && !armed jobC && !evalRunning 7 s && !jobBusy jobC) = true := by
  decide +kernel

/-- A schedule with one write of its progress sector, at its last position. -/
def sched1 : Sched := ⟨1, 2, 0x3300000, 0x3400000, [], [(9, 2)]⟩

theorem witness_StepArmStatusProgress :
    (let s := cmd catStepArm (hd) (wC jobC);
      accepted catStepArm (hd) s && (stepArmStatus 7 9 1 3 (startCmd (hd) s)).2.isNone && (jobOf 7 s).isSome) = true ∧
    accepted catStepStatus (hd) (cmd catStepStatus (hd) (w7 jobC)) = true ∧
    sched1.writes = [(9, 2)] ∧ sched1.positions ≤ 2 ∧ ({ sched1 with writes := [] } : Sched).writes = [] := by
  decide +kernel

/-- A rule of one operation that passes the checks of R373. -/
def ruleBytes : List Byte := leBytes 8 1

theorem witness_ShardsAndRule :
    (let s := cmd catShardCommit (hd) (w7 job7); let u := startCmd (hd) s;
      accepted catShardCommit (hd) s && (shardCommitStatus job7 5 4 0x102 u).isNone &&
      match ownShard job7 5, jobObjDpa u 7 0x102 with
      | some sh, some o => match readCells rqFold o.1 (imageLen 0 sh) (putRec sh (slotOf 4) ⟨4, 0, 0, 3, 0, false⟩ u) with
        | (v, some img) => (slotDigest rqFold 0 sh (slotOf 4) (putShardHeader 0 sh (putImage 0 sh (slotOf 4) img v))).2.isSome
        | _ => false
      | _, _ => false) = true ∧
    (let s := cmd catShardRead (hd) (wC jobC); let u := startCmd (hd) s;
      accepted catShardRead (hd) s && jobObjDpa u 7 0x102 == some (0x400000, 0x200000) &&
      match ownShard jobC 5 with
      | some sh => decide (imageLen 0 sh ≤ 0x200000) && !jobC.uncommitted.contains sh.id &&
        (match readRec rqFold sh (slotOf 4) u with
          | (t, .found r) => r.gen == 4 && (slotImage rqFold 0 sh (slotOf 4) r t).2.isSome
          | _ => false) &&
        (match readRec rqFold sh (slotOf 4) (spoilt 0 u) with
          | (_, .unreadable) => true
          | _ => false)
      | none => false) = true ∧
    (let j := { job7 with rule := 3 }; let s := cmd catRuleLoad (hd 0 8) (w7 j);
      accepted catRuleLoad (hd 0 8) s && (parseRule ruleBytes).isSome && !jobBusy j && !armed j) = true := by
  decide +kernel

theorem witness_LayoutInstallTakesEpoch :
    (let s := cmd catLayoutInstall (hd 0 layBytes.length) (w7 { job7 with layout := none });
      accepted catLayoutInstall (hd 0 layBytes.length) s && layoutOk s job7 lay0 && lay0.adopt == 0 && drainOver job7 && !openPackets job7 &&
      (parseLayout layBytes).isSome && !evalRunning 7 s) = true ∧
    (let j := { job7 with pend := some (.install (hd 0 layBytes.length) 4 layBytes) };
      layoutOk (w7 j) j lay0 && drainOver j && !evalRunning 7 (w7 j)) = true := by
  decide +kernel

/-! ### Steps and packets: witnesses -/

/-- Job 7 with step 9 as given. -/
def jobA (r : StepRun) : Job := { jobC with run := some r, lastArmed := 9 }

/-- A fabric packet of step 9 from the peer. -/
def pk : ChordHdr := ⟨.fabric 0, ip1, false, false, false, false, false, 3, 7, 9, 3, 1, 1, 0, 1, 0, 0⟩

/-- The packet is taken, for a job and a state that satisfy `f`. -/
def taken (p : ChordHdr) (kind : BitVec 4) (seqd : Bool) (ep early : Job → Bool) (f : Job → State → Bool) (s : State) : Bool :=
  match receive p kind seqd ep early s with
  | .take j t => f j t
  | .drop _ => false

/-- The peer's vote record of step 9, and this member's. -/
def vote1 : VoteRec := ⟨false, true, false, false, 3, 7, 9, 4, 1, 2, 0xFFFF, 1, 0, 0, 200, true⟩
def vote0 : VoteRec := { vote1 with rank := 0 }

theorem witness_DecisionFollowsTheRecords : [vote0, vote1].Perm [vote1, vote0] := List.Perm.swap _ _ _

theorem witness_VotesAndSettles :
    (let r := { run9 with force := 6 }; voteDue (jobA r) r) = true ∧
    (let r := { run9 with st := .resolving, votes := [vote0, vote1] }; r.votes.all (fun v => v.generation == r.gen)) = true ∧
    ({ jobC with derive := [], deriveCmd := some ⟨hd, none, []⟩ } : Job).derive = [] := by
  decide +kernel

theorem witness_AbortEndsUndecidedStep :
    (let s := cmd catCollectiveAbort (hd) (wC (jobA run9));
      accepted catCollectiveAbort (hd) s && (peers lay0).contains 1 && !(peers lay0).contains 0 && (stepOf (jobA run9)).isSome &&
      (stepOf (jobA { run9 with st := .voted })).isSome) = true ∧
    (accepted catCollectiveAbort (hd) (cmd catCollectiveAbort (hd) up) && (jobOf 7 up).isNone) = true ∧
    (stepOf jobC).isNone = true ∧ (jobA { run9 with st := .decided }).layout.isSome = true := by
  decide +kernel

/-- Shard 5 of the layout. -/
def shard5 : ShardEnt := ((ownShards lay0)[0]?).getD ⟨0, 0, 0, 0, 0, 0, 0, false, 0, 0, 0, 0, 0, 0, 0, 0, 0, 0, 0⟩

/-- A range of shard 5 whose two contributions are whole. -/
def whole5 : FoldRange := ⟨5, 0, [⟨0, [], 0, [], true⟩, ⟨1, [], 0, [], true⟩], [], false⟩

theorem witness_ContributionsReachTheFold :
    (viaUp (wC jobC) pk.via && oversized pk.via (96 + 8905) && !oversized pk.via (96 + 8904)) = true ∧
    taken pk ptData true (epochIs pk) noWait (fun j _ => decide (j.lastArmed < pk.step)) (wC jobC) = true ∧
    taken pk ptData true (epochIs pk) noWait (fun j t => !decide (j.lastArmed < pk.step) && (lateForAborted j pk t).isNone &&
      match stepOf j with
      | some r => r.step == 9 && r.st != .resolving && !contribDone (rangeOf r 5 0) 1
      | none => false) (wC (jobA run9)) = true ∧
    lay0.colls.find? (fun c => c.1 == 3) = some (3, 9) ∧
    ([0, 31].all fun off => let p := { pk with offset := off };
      (ownShards lay0).find? (fun sh => sh.tensor == 9 && decide (sh.first ≤ p.offset.toNat ∧ p.offset.toNat < sh.first + sh.count)) ==
        some shard5) = true ∧
    (contributors shard5).contains 1 = true ∧
    taken pk ptCredit false (fun _ => true) noWait (fun j _ => (stepOf j).isSome && pk.epoch == j.epoch) (wC (jobA run9)) = true ∧
    taken pk ptCredit false (fun _ => true) noWait (fun j _ => (stepOf j).isNone && decide (j.lastArmed < pk.step)) (wC jobC) = true ∧
    (let r := { run9 with ranges := [whole5] }; let j := jobA r;
      (shardRun r 5).any (·.st == .accumulating) && rangeComplete shard5 (rangeOf r 5 0) && mayStage j r.gen &&
      (openRanges j r shard5.prism).any (fun x => x.2.1.id == 5 && x.2.2 == 0) && decide (0 < rangeCount shard5) &&
      !(rangeOf r 5 0).updated) = true := by
  decide +kernel

theorem witness_RecordsAndTokensArrive :
    taken pk ptVote true (epochIs pk) noWait (fun j _ => voteOk pk vote1 && decide (j.lastArmed < pk.step) && j.early.isEmpty) (wC jobC) =
      true ∧
    taken pk ptVote true (epochIs pk) noWait (fun j t => !decide (j.lastArmed < pk.step) && (lateForAborted j pk t).isNone &&
      (stepOf j).any fun r => r.step == vote1.step && r.votes.isEmpty && r.confirms.isEmpty) (wC (jobA run9)) = true ∧
    voteOk pk { vote1 with commit := true } = true ∧
    ([StepState.armed, .voted, .decided, .resolving].all fun st =>
      taken pk ptAbort false (fun _ => true) noWait (fun j _ => (stepOf j).any fun r => r.step == 9 && r.st == st)
        (wC (jobA { run9 with st := st }))) = true ∧
    taken pk ptAbort false (fun _ => true) noWait (fun j _ => (stepOf j).isNone && decide (j.lastArmed < 9)) (wC jobC) = true := by
  decide +kernel

/-- An abort token of this member. -/
def tok9 : AbortTok := ⟨1, 2, 0, 0xFFFF⟩

/-- A packet sent and not acknowledged. -/
def sent1 : SentPkt := ⟨1, ptGatherReq, pk, [0, 0, 0, 5], true, some 0⟩

/-- The peer's region of job 7 here. -/
def region1 : Region := { job := 7, rank := 1, epoch := 3, gib := 1, entries := 2, dirBytes := dirLen 2, bufBytes := 0x1000000 }

theorem witness_HeartbeatsAndStreams :
    ((peers lay0).contains 1 && jobC.phase == .opened) = true ∧
    taken pk ptHeartbeat false (fun _ => true) noWait (fun j _ => (stepOf j).isSome) (wC (jobA run9)) = true ∧
    taken pk ptHeartbeat false (fun _ => true) noWait (fun j _ => (stepOf j).isNone) (wC jobC) = true ∧
    (w7 jobC).fabric.tDetect = 200 ∧
    (unacked (streamOf { jobC with streams := [{ peer := 1, onMgmt := false, sent := [sent1] }] } 1 false) 1).isSome = true ∧
    (let j := { jobC with streams := [{ peer := 1, onMgmt := true, sent := [sent1] }] };
      (unacked (streamOf j 1 true) 1).isSome && (unacked (streamOf j 1 false) 1).isNone) = true ∧
    mirrorPath pk true true (wC jobC) = .member ∧
    ([3, 4].all fun e => let p := { pk with epoch := e };
      taken p ptAck false (fun _ => true) noWait (fun j t => (p.epoch == j.epoch || p.epoch == j.epoch + 1) &&
        (hostStream t p.src (viaAddr (wC jobC) p.via) p.job).isNone) (wC jobC)) = true ∧
    (let s := { up with
        fabric.hostStreams := [(ip1, ip0, 7, { peer := 1, onMgmt := false, sent := [sent1] })],
        fabric.ports := (w7 jobC).fabric.ports, regions := [region1] };
      mirrorPath pk true true s == .copyHost && viaUp s pk.via && !pk.malformed &&
      (hostStream (countFrame pk.via s) pk.src (viaAddr s pk.via) 7).isSome) = true := by
  decide +kernel

theorem witness_GathersExchangesReshards :
    taken pk ptGatherReq true (epochIs pk) noWait (fun j _ => decide (j.lastArmed < pk.step)) (wC jobC) = true ∧
    taken pk ptGatherReq true (epochIs pk) noWait (fun j t => (lateForAborted j pk t).isNone && (stepOf j).isSome) (wC (jobA run9)) =
      true ∧
    taken pk ptGatherReq true (epochIs pk) noWait (fun j t => !decide (j.lastArmed < pk.step) && (lateForAborted j pk t).isNone &&
      (stepOf j).isNone) (wC { jobC with lastArmed := 9 }) = true ∧
    taken pk ptGatherReq true (epochIs pk) noWait (fun j t => !decide (j.lastArmed < pk.step) && (lateForAborted j pk t).isSome)
      (wC { jobC with lastArmed := 9, lastAbort := some (9, tok9) }) = true ∧
    (let p := { pk with coll := 9, offset := 16896 };
      taken p ptGatherData true (epochIs p) noWait (fun j _ => decide (j.lastArmed < p.step)) (wC jobC) &&
      taken p ptGatherData true (epochIs p) noWait (fun j t => (stepOf j).isSome && (objDpa t 0x102).isSome) (wC (jobA run9)) &&
      (tensorShards lay0 9).any (fun sh => gatherOffset lay0 sh == 16896 && workLen sh == 16896)) = true ∧
    (let p := { pk with coll := 1, offset := 7 };
      taken p ptDispatch true (epochIs p) noWait (fun j _ => decide (j.lastArmed < p.step)) (wC jobC) &&
      taken p ptDispatch true (epochIs p) noWait (fun j _ => (stepOf j).isSome) (wC (jobA run9)) &&
      taken p ptDispatchEnd true (epochIs p) noWait (fun j _ => decide (j.lastArmed < p.step)) (wC jobC) &&
      taken p ptDispatchEnd true (epochIs p) noWait (fun j _ => (stepOf j).isSome) (wC (jobA run9)) &&
      lay0.disps.any fun d => d.id == 1 && !d.combine && decide (7 < d.perRank * 2 * d.capacity) && 7 / d.capacity % 2 == 1 &&
        7 / d.capacity % 2 != lay0.rank.toNat) = true ∧
    (let p := { pk with coll := 1, offset := 3 };
      let lay := { lay0 with disps := lay0.disps.map fun d => { d with combine := true } };
      taken p ptDispatch true (epochIs p) noWait (fun j _ => (j.layout.any fun l => l.disps.all (·.combine)) && (stepOf j).isSome)
        (wC { jobA run9 with layout := some lay }) &&
      lay.disps.any fun d => d.id == 1 && d.combine && 3 / d.capacity % 2 == lay.rank.toNat) = true ∧
    (let p := { pk with epoch := 4 };
      taken p ptReshardReq true (fun j => p.epoch == j.epoch || p.epoch == j.epoch + 1) noWait (fun _ _ => true) (wC jobC) &&
      taken p ptReshardData true (fun j => p.epoch == j.epoch + 1) noWait (fun j _ => j.pend.isSome)
        (wC { jobC with pend := some (.fill (hd) lay0 4 [] [(1, 6, 100)] []) })) = true ∧
    taken pk ptReshardReq true (fun j => pk.epoch == j.epoch || pk.epoch == j.epoch + 1) noWait (fun j _ => j.prev.isSome)
      (wC { jobC with prev := some lay0 }) = true := by
  decide +kernel

/-! ### Objects, schedule and mirrors: witnesses -/

theorem witness_ObjectsCreateDestroyPin :
    ([0, 2].all fun tier =>
      let s := cmd catObjCreate (hd) (w7 jobC); accepted catObjCreate (hd) s && (createStatus 0x300 0x200000 tier 7 (startCmd (hd) s)).isNone) = true ∧
    (let s := cmd catObjCreate (hd) (w7 { jobC with hostPool := (0, 0x200000) });
      (createStatus 0x300 0x200000 1 7 (startCmd (hd) s)).isNone) = true ∧
    (let o := obj 0x300 0x800000 64; let s := { cmd catObjDestroy (hd) (w7 jobC) with objs := [o] };
      accepted catObjDestroy (hd) s && !namedIn layoutObjs o s && !keptOnly o s &&
      accepted catObjPin (hd) (cmd catObjPin (hd) s)) = true ∧
    (let o := { obj 0x300 0x800000 64 with userPins := 1 }; let s := cmd catObjUnpin (hd) { w7 jobC with objs := [o] };
      accepted catObjUnpin (hd) s && !keptOnly o s) = true := by
  decide +kernel

/-- Job 7 with only the object `o`. -/
def w1 (o : Obj) : State := { w7 { jobC with hostPool := (0, 0x200000) } with objs := [o] }

/-- That object in flash. -/
def objF : Obj := { obj 0x300 0 64 with tier := 2, backed := true, flash := [(0, 7)] }

/-- That object with a move under way, and the eviction of an object in LPDDR6. -/
def promoted (src dst : Nat) (h : Option Hdr) : Obj := { objF with tier := src, move := some ⟨src, dst, 0x200000, h, true, true, 0⟩ }

theorem witness_ObjectsMoveBetweenTiers :
    (let s := cmd catObjPromote (hd) (w1 objF); let v := cancelEvictionOf 0x300 (startCmd (hd) s);
      accepted catObjPromote (hd) s && !keptOnly objF s && !jobArmed 7 s && !promoting objF && (moveDest v objF 0).isSome &&
      (moveDest v objF 1).isSome) = true ∧
    (accepted catObjPromote (hd) (cmd catObjPromote (hd) (w1 (promoted 2 0 none))) && promoting (promoted 2 0 none) &&
      !promoting (promoted 0 2 none)) = true ∧
    (let o := obj 0x300 0 64; let s := cmd catObjEvict (hd) (w1 o);
      accepted catObjEvict (hd) s && !namedIn layoutShardObjs o s && !jobArmed 7 s && (moveDest (startCmd (hd) s) o 2).isSome) = true ∧
    (let o := { obj 0x300 0 64 with queue := [⟨2, some hd, 0⟩] };
      (moveDest (modObj 0x300 (fun x => { x with queue := [] }) (w1 o)) o 2).isSome && !residenceHeld o (w1 o) &&
      !namedIn layoutShardObjs o (w1 o)) = true ∧
    ([(0, 1), (0, 2), (1, 0), (1, 2), (2, 0), (2, 1)].all fun (m : Nat × Nat) => let o := promoted m.1 m.2 (some hd);
      match o.move with
      | some mv => match moveContent o mv (w1 o) with
        | (t, some c) => (objOf 0x300 (settleMove o mv c t)).isSome && !residenceHeld o (w1 o)
        | _ => false
      | none => false) = true := by
  decide +kernel

/-- A prefetch schedule of one entry at position 1, released at 0. -/
def schedBytes : List Byte :=
  layout 96 [(0, leBytes 4 0x50335053), (4, leBytes 2 1), (6, leBytes 2 1), (8, leBytes 4 1), (0xC, leBytes 2 2),
    (0x10, leBytes 8 0x3300000), (0x18, leBytes 8 0x3400000), (64, leBytes 8 0x102), (72, leBytes 2 1), (74, leBytes 2 0)]

/-- The module whose flash has a block that is worn and read often, one that is fresh, and the worn one's data. -/
def wearing : State :=
  { up with flash.blocks := [(0, ⟨7, 50000, true, false⟩), (1, ⟨308, 0, false, false⟩)], flash.map := [⟨.obj 0x300, 0, 0⟩] }

theorem witness_ScheduleAndFlashBlocks :
    (match parseSched schedBytes with
      | some (x, _, size) => size == 0 && x.entries.all (fun e => e.obj == 0x102 && e.release != e.position &&
          decide (x.lookahead + (e.release + x.positions - e.position) % x.positions ≤ x.positions)) &&
          inQuota (w7 jobC) 0 x.progress 32 && inQuota (w7 jobC) 0 x.status (32 * x.entries.length) && x.entries.length == 1 &&
          decide (x.progress + 32 ≤ x.status)
      | none => false) = true ∧
    accepted catPrefetchSchedule (hd 0 96) (cmd catPrefetchSchedule (hd 0 96) (w7 jobC)) = true ∧
    (wearing.flash.present && decide (300 < eraseSpread wearing) && leastWorn wearing 0 && !leastWorn wearing 1 &&
      (flashBlock wearing 0).programmed && decide (50000 ≤ (flashBlock wearing 0).reads) && !(flashBlock wearing 1).programmed &&
      erasedBlock wearing == some 2) = true ∧ (wearing.flash.blocks.map (·.1)).Nodup := by
  decide +kernel

/-- The descriptor of a complete copy of generation 4. -/
def desc4 : CopyDesc := ⟨4, 8, 0, true, true⟩

/-- The module hosts that region, with a complete copy in buffer 0. -/
def hosting (s : State) : State := putDesc region1 0 desc4
  { s with regions := [region1], owners := s.owners ++ [(9, .region 7 1)] }

/-- A snapshot of generation 4 that waits for the peer's DONE. -/
def snap4 : Snapshot := ⟨4, [(1, 0, true)], desc4⟩

theorem witness_MirrorsBindAndUnbind :
    (let s := cmd catMirrorBind (hd) (wC jobC);
      accepted catMirrorBind (hd) s && (bindStatus jobC lay0 1 1000 ip1 0 (startCmd (hd) s)).2.isNone &&
      (bindStatus jobC lay0 3 1000 ip1 0 (startCmd (hd) s)).2.isSome) = true ∧
    (match mirrorIn pk false false never (wC jobC) with
      | some (rank, t) => rank == 1 && (regionOf 7 1 t).isNone && (takeRegion region1 t).isSome &&
          (takeRegion { region1 with gib := 1153 } t).isNone && (jobOf 7 t).any fun j => j.layout.isSome
      | none => false) = true ∧
    (match mirrorIn pk false false never (hosting (wC jobC)) with
      | some (rank, t) => (regionOf 7 rank t).any fun o => decide (region1.gib ≤ o.gib)
      | none => false) = true ∧
    ([[(ip1, 1, none)], [(ip1, 1, none), (ip0, 2, none)]].all fun (ps : List (Ip6 × W16 × Option Nat)) =>
      match mirrorIn pk false false never (wC { jobC with pend := some (.bind (hd) 10 ps 1) }) with
      | some (rank, t) => rank == 1 && (jobOf 7 t).any fun j => j.pend == some (.bind (hd) 10 ps 1)
      | none => false) = true ∧
    ([0, 1].all fun (n : Nat) =>
      (updIf ([(ip1, 1, none)] : List (Ip6 × W16 × Option Nat)) (fun q => q.2.1 == 1) fun q => (q.1, q.2.1, some n)).all
        (fun q => q.2.2.any fun g => decide (1 ≤ g) == (n == 1))) = true ∧
    (mirrorIn pk true false never (hosting (wC jobC))).isSome = true ∧
    accepted catMirrorUnbind (hd) (cmd catMirrorUnbind (hd) (wC jobC)) = true ∧
    (let j := { jobC with snapNext := [5] }; accepted catMirrorUnbind (hd) (cmd catMirrorUnbind (hd) (wC j)) && !jobBusy j) = true ∧
    (jobBusy jobC || armed jobC) = false ∧ armed (jobA run9) = true := by
  decide +kernel

theorem witness_SnapshotsReachThePartners :
    (let j := { jobC with snapNext := [4], binding := some ⟨1, 1, [{ addr := ip1, rank := 1 }], 1⟩ };
      let u := modJob 7 (fun x => { x with snapNext := [] }) (wC j);
      (snapAreas j lay0 4 u).2.isSome && (snapAreas j lay0 4 (spoilt 0 u)).2.isNone) = true ∧
    (match mirrorIn pk false false never (hosting (wC jobC)) with
      | some (rank, t) => (regionOf 7 rank t).any fun r => (targetBuffer r t).2 == 1
      | none => false) = true ∧
    (let r := { region1 with target := some 1 }; let s := { hosting (wC jobC) with regions := [r] };
      (match mirrorIn pk false false never s with
       | some (rank, t) => regionOf 7 rank t == some r
       | none => false) &&
      match mirrorIn pk false false (dataEarly pk) s with
      | some (rank, t) => regionOf 7 rank t == some r && decide (pk.offset.toNat + 64 ≤ r.bufBytes) && !oversized pk.via (96 + 64)
      | none => false) = true ∧
    (let r := { region1 with target := some 1 }; let s := { hosting (wC jobC) with regions := [r] };
      let p := { pk with offset := BitVec.ofNat 64 r.bufBytes };
      match mirrorIn p false false (dataEarly p) s with
      | some _ => decide (r.bufBytes < p.offset.toNat + 1)
      | none => false) = true ∧
    ([none, some (.bindSnap (hd) 1)].all fun (x : Option Pend) =>
      match mirrorIn pk false false never (wC { jobC with snap := some snap4, pend := x }) with
      | some (rank, t) => (jobOf 7 t).any fun j => j.snap == some snap4 && j.pend == x && snap4.waiting == [(rank, 0, true)]
      | none => false) = true ∧
    (match mirrorIn pk false false never (wC { jobC with snap := some { snap4 with waiting := [(1, 0, true), (2, 0, true)] } }) with
      | some (rank, _) => rank == 1
      | none => false) = true ∧
    (let s := hosting (wC jobC);
      (newestCopy rqMove region1 s).2 == some (0, desc4) && (flashCopyOf 7 1 s).isNone &&
      flashRoom s (region1.dirBytes + region1.bufBytes)) = true ∧
    (let s := hosting (wC jobC); let a := 9 * 2 ^ 30; let head := fun u => regionRead rqMove region1 0 region1.dirBytes u;
      let body := fun u => (regionRead rqMove region1 (bufferOff region1 0) region1.bufBytes (head u).1).2;
      (head s).2.isSome && (body s).isSome && (head (spoilt a s)).2.isNone && (head (spoilt (a + region1.dirBytes) s)).2.isSome &&
      (body (spoilt (a + region1.dirBytes) s)).isNone) = true := by
  decide +kernel

/-- A restore of generation 4 that fetches from the peer. -/
def fetching (d : Option CopyDesc) : Job := { jobC with pend := some (.restoreFetch (hd) true 4 1 false [] d [] 0 0 4) }

/-- The module with job 7, whose shard 5 is committed with its digest. -/
def wD : State := putRec shard5 0 ⟨4, ((slotDigest rqFold 0 shard5 0 (w7 jobC)).2).getD 0, 8, 3, 0, true⟩ (w7 jobC)

/-- A flash copy of generation 4 of the peer. -/
def copy4 : FlashCopy := ⟨7, 1, desc4, 0x1002000, []⟩

/-- The same packet on the management network, and the module up there. -/
def pkm : ChordHdr := { pk with via := .mgmt 1 }
def onNet (s : State) : State := { s with mgmt.ports := vupd s.mgmt.ports 1 fun x => { x with up := true } }

theorem witness_CopiesAreFetchedBack :
    (match mirrorIn pk true false never (hosting (wC jobC)) with
      | some (rank, t) => rank == 1 && (regionOf 7 rank t).isSome && (newestCopy rqChord region1 t).2 == some (0, desc4) &&
          (readRegionCopy region1 0 desc4 t).2.isSome && (readRegionCopy region1 0 desc4 (spoilt (9 * 2 ^ 30 + 0x1000) t)).2.isNone
      | none => false) = true ∧
    (match mirrorIn pk true false never (wC jobC) with
      | some (rank, t) => (regionOf 7 rank t).isNone && (flashCopyOf 7 rank t).isNone
      | none => false) = true ∧
    ([some copy4, none].all fun (c : Option FlashCopy) =>
      match mirrorIn pkm true false never (onNet { wC jobC with flash := { (wC jobC).flash with copies := c.toList } }) with
      | some (rank, t) => rank == 1 && flashCopyOf 7 rank t == c && viaMgmt pkm.via && t.flash.present
      | none => false) = true ∧
    ([some desc4, none].all fun d => match mirrorIn pk false false never (wC (fetching d)) with
      | some (rank, t) => rank == 1 && (jobOf 7 t).any fun j => j.pend == (fetching d).pend
      | none => false) = true ∧
    ([[(2, false)], []].all fun (w : List (W16 × Bool)) =>
      match mirrorIn pk false true never (wC { jobC with query := some ⟨hd, (1, false) :: w, noGen, 3⟩ }) with
      | some (rank, _) => rank == 1 && !viaMgmt pk.via && !w.contains (1, false)
      | none => false) = true ∧
    (let s := cmd catRestore (hd) wD;
      accepted catRestore (hd) s && (missingShards jobC 4 4 (clearPend 7 (startCmd (hd) s))).2.isEmpty &&
      (allCommitted rqFold jobC (jobShards jobC) (missingShards jobC 4 4 (clearPend 7 (startCmd (hd) s))).1).2) = true ∧
    (let j := { jobC with snapNext := [5] }; accepted catRestore (hd) (cmd catRestore (hd) (wC j)) && !jobBusy j) = true ∧
    (let s := cmd catMirrorQuery (hd) (wC { jobC with binding := some ⟨1, 1, [{ addr := ip1, rank := 1 }], 1⟩ });
      accepted catMirrorQuery (hd) s && (sendQueries 7 [1] (startCmd (hd) s)).2 == [(1, false)]) = true ∧
    accepted catMirrorQuery (hd) (cmd catMirrorQuery (hd) (wC { jobC with phase := .preserved })) = true := by
  decide +kernel

/-! ### Fabric, management network and health: witnesses -/

/-- Port 3 in state `st` with an address, and management port 1 up. -/
def wF (st : Nat) : State :=
  { up with
    fabric.ports := vupd (Vector.replicate 8 {}) 3 fun x => { x with st := st, addr := 0x20010DB8000000000000000000000003 },
    mgmt.ports := vupd (Vector.replicate 2 {}) 1 fun x => { x with up := true } }

theorem witness_FabricPortsAndInterfaces :
    linkUp (wF 4) 3 = true ∧ ((wF 2).fabric.ports[(3 : Fin 8)]).st = 2 ∧ answering (wF 2) = true ∧ (wF 2).health.fabric.getLsbD 3 = false ∧
    (let s := cmd catFabricConfig (hd) (wF 4);
      accepted catFabricConfig (hd) s && globalUnicast 0x20010DB8000000000000000000000004 && !s.health.fabric.getLsbD 3 &&
      !s.jobs.any armed) = true ∧
    accepted catPortStatus (hd) (cmd catPortStatus (hd) (wF 4)) = true ∧
    viaLink (wF 4) (.fabric 3) = true ∧ viaLink (wF 4) (.mgmt 1) = true ∧ viaSends (wF 4) (.mgmt 1) = true ∧
    viaSends (wF 4) (.fabric 3) = true ∧
    (addrsOf (wF 4) (.fabric 3)).contains 0x20010DB8000000000000000000000003 = true := by
  decide +kernel

/-- The first segment of an exchange: the entry of a command with its buffer length, and buffer bytes. -/
def seg1 (op len : Nat) (bs : List Byte) : MgmtMsg × List Byte :=
  (⟨1, ip1, 0x77, 0, BitVec.ofNat 32 len⟩, layout 64 [(0, leBytes 2 op), (0x10, leBytes 4 len)] ++ bs)

/-- A later one. -/
def seg2 (off : Nat) : MgmtMsg := ⟨1, ip1, 0x77, BitVec.ofNat 32 off, 8⟩

/-- An exchange whose command has come, and whose only CPL segment awaits its acknowledgement; and one that goes on. -/
def exch : Exchange := ⟨0x77, ip1, 0x0002, { hd with path := .net, xid := 0x77 }, 0, [], true, [(0, 1, [1, 2])], 2⟩
def exchOpen : Exchange := { exch with next := 2, data := [1, 2], joined := false, unacked := [], total := 8 }

/-- An announcement of job 7. -/
def ann : Announcement := ⟨7, 1, 3, 0, 42, 1000, 0, [ip1], []⟩

theorem witness_ManagementExchanges :
    ([(0x0002, 0, []), (0x0103, 2, [1, 2])].all fun (x : Nat × Nat × List Byte) => let s := wF 4; let (m, data) := seg1 x.1 x.2.1 x.2.2;
      let e := parseEntry .net m.xid false false (data.take 64);
      (s.mgmt.ports[m.port]).up && s.mgmt.exchanges.isEmpty && e.1.toNat == x.1 && m.offset == 0 && m.total == e.2.bufLen &&
      (catOf e.1).any fun c => c.buf != .input || data.length == 64 + m.total.toNat) = true ∧
    (let (m, data) := seg1 0x0103 8 [1, 2]; m.offset == 0 && (data.drop 64).length == 2) = true ∧
    ([exch, exchOpen].all fun e => let s := { wF 4 with mgmt.exchanges := [e] };
      (s.mgmt.exchanges.find? fun x => x.xid == 0x77 && x.src == ip1) == some e) = true ∧
    (exch.joined && decide ((seg2 1).offset.toNat < exchOpen.next) && (seg2 2).offset.toNat == exchOpen.next &&
      !exchOpen.joined) = true ∧
    ({ wF 4 with mgmt.exchanges := [exch] }).mgmt.exchanges = [exch] ∧ exch.xid = 0x77 ∧ exch.unacked = (0, 1, [1, 2]) :: [] ∧
    ({ wF 4 with mgmt.ports := vupd (wF 4).mgmt.ports 0 fun x => { x with down := true } } : State).mgmt.ports[(0 : Fin 2)].down = true ∧
    (wF 4).health.mgmt.getLsbD 0 = false ∧
    (let s := { w7 jobC with mgmt.ports := (wF 4).mgmt.ports };
      answering s && inGroup s 7 && (s.mgmt.ports[(1 : Fin 2)]).up) = true := by
  decide +kernel

/-- The health state is as a poor module's after an hour and a day. -/
def sick : State :=
  { up with
    health.score := 100, health.conf := 500, health.published := true, health.granted := true,
    jrn.hst := { up.jrn.hst with bucketEl := 3600, windowEl := 2592000, belowS := 604800 } }

theorem witness_HealthFollowsTheClock :
    (let s := sick;
      answering s && varluxRuns s && decide (s.health.score < s.jrn.hcfg.threshold) && decide (s.jrn.hcfg.dwellS ≤ s.jrn.hst.belowS + 1) &&
      decide (s.jrn.hcfg.windowS ≤ s.jrn.hst.windowEl) && s.health.granted && s.phase == .ready && !s.jobs.any armed) = true := by
  decide +kernel

/-- Rehearsals of every class are enabled. -/
def rehearsing : State := { up with jrn.hcfg := { up.jrn.hcfg with rehEnable := true, mask := 0x1FF } }

theorem witness_HealthCommandsAndRehearsals :
    accepted catHealthRead (hd 0 4096) (cmd catHealthRead (hd 0 4096) up) = true ∧
    (let s := cmd catHealthConfig (hd) up; let c := s.jrn.hcfg;
      accepted catHealthConfig (hd) s && decide (keepField (0xFFFF : W16) c.threshold + keepField (100 : W16) c.hysteresis ≤ 1000) &&
      decide (1 ≤ keepField (0xFFFFFFFF : W32) c.dwellS) && decide (keepField (0xFFFF : W16) c.budget ≤ 65534) &&
      decide (60 ≤ keepField (60 : W32) c.windowS)) = true ∧
    (let s := cmd catUnitFence (hd) up;
      accepted catUnitFence (hd) s && floorUnits (setFenced 0 11 (startCmd (hd) s)) && floorUnits (setFenced 4 1 (startCmd (hd) s)) &&
      persistent (recordFence 1 31 s).jrn.fence 1 31 && accepted catUnitFence (hd) (cmd catUnitFence (hd) (recordFence 1 31 up))) = true ∧
    accepted catRehearsalConfig (hd) (cmd catRehearsalConfig (hd) rehearsing) = true ∧
    (let s := cmd catDiagRun (hd) up;
      accepted catDiagRun (hd) s && [(1, 0, 11), (2, 2, 3), (3, 3, 7), (4, 4, 1)].all fun (t, u, i) =>
        (diagStatus t u i (startCmd (hd) s)).isNone) = true ∧
    (let s := rehearsing;
      s.jrn.hcfg.rehEnable && s.jrn.hcfg.mask.getLsbD 2 && s.phase == .ready && !s.health.expelled && s.health.injection.isNone &&
      s.sec.fw.isNone && injectable s 2 8 && injectable s 5 95 && decide (s.jrn.hst.bucket < 24)) = true := by
  decide +kernel

/-! ### LPDDR6, the host port and the mailbox: witnesses -/

/-- A window of one granule from granule 4 on, which the host reaches; granule 8 is in mode 1. -/
def wM : State :=
  { up with mbx.memActive := true, mem.hdmFirst := 4, mem.hdmSize := 5, jrn.mem := { up.jrn.mem with mode1 := [8] } }

theorem witness_HostMemoryAndConfiguration :
    ([0, 0x13FFFFFC0].all fun (off : W64) => inWindow wM off && !absent wM (granule (lineDpa wM off)) &&
      (errSectors wM.mem (lineDpa wM off) 64).isEmpty) = true ∧ inWindow wM 0x140000000 = false ∧
    partialEn 1 = true ∧ partialEn 0x7FFFFFFF = true ∧ wM.jrn.mem.mode1.contains (granule (lineDpa wM 0)) = false ∧
    wM.jrn.mem.mode1.contains (granule (lineDpa wM 0x100000000)) = true ∧
    (classify (received wM.mem (lineDpa wM 0x100000000 / 32)) == .clean) = true ∧ prismOut wM 3 = false ∧
    ([false, true].all fun (kind : Bool) => let s := { wM with mem.bisnp := [(kind, 5)] };
      (s.mem.bisnp.find? fun p => p.2 == (5 : W64).toNat) == some (kind, 5)) = true ∧
    (errSectors { wM.mem with errs := wM.mem.errs ++ newErrors 3 [] wM } (blockDpa 3 wM.mem.scrub[(3 : Fin 4)]) 4096).isEmpty = true ∧
    accepted catMemRegionMode (hd) (cmd catMemRegionMode (hd) wM) = true ∧ deviceHeld wM 0 1152 = false ∧
    accepted catMemHdmWindow (hd) (cmd catMemHdmWindow (hd) wM) = true ∧ deviceHeld wM 896 256 = false ∧
    accepted catMemErrorRead (hd 0 64) (cmd catMemErrorRead (hd 0 64) wM) = true := by
  decide +kernel

/-- The module is powered and ready, with the power-on inputs good. -/
def on : State := { up with pins.pgood := true, pins.converters := true, pins.inputGood := true, pins.pwrEn := true, mem.cells := [(5, 6)] }

/-- A boot in which the entries of `es` have started. -/
def booting (es : List Nat) : State :=
  { on with
    phase := .booting, mbx.accept := false, mbx.ready := false,
    jrn.boot := { on.jrn.boot with stage := vgen fun e => { status := if es.contains e.val then .started else .none } } }

theorem witness_HostPortEvents :
    apexRuns up = true ∧ up.mbx.link = .l0 ∧ bootEnded up = true ∧ ({ up with mbx.cfgReady := true } : State).mbx.cfgReady = true ∧
    bootEnded (booting []) = false ∧
    ([Instr.functionLevelReset, .hotReset, .hostLinkDown].all fun c => match exec c up with
      | .next u => !u.mbx.isOpen
      | _ => false) = true := by
  decide +kernel

/-- Ring `n` enabled with 16 entries, of which one is to be fetched. -/
def wR (n : Fin 8) : State := { up with mbx.rings := vupd up.mbx.rings n fun x => { x with en := true, tail := 1 } }

theorem witness_RingAndBarRegisters :
    hostReach up = true ∧ (up.mbx.rings[(7 : Fin 8)]).en = false ∧ enableErr 7 (up.mbx.rings[(7 : Fin 8)]) up.mbx.isOpen = none ∧
    enableErr 7 (up.mbx.rings[(7 : Fin 8)]) false = some 5 ∧ enableErr 0 (up.mbx.rings[(0 : Fin 8)]) false = none ∧
    enableErr 0 { sqLog2 := 3 } true = some 1 ∧ enableErr 0 { sqLog2 := 5, cqLog2 := 4 } true = some 2 ∧
    ((wR 7).mbx.rings[(7 : Fin 8)]).en = true ∧ 15 < 2 ^ ((wR 7).mbx.rings[(7 : Fin 8)]).sqLog2.toNat ∧
    2 ^ ((wR 7).mbx.rings[(7 : Fin 8)]).sqLog2.toNat ≤ 16 ∧ ((wR 7).mbx.rings[(7 : Fin 8)]).waiting = [] ∧
    apexRuns up = true ∧ varluxRuns up = true := by
  decide +kernel

theorem witness_MailboxAndDeviceCommands :
    (let s := wR 7; let e := parseEntry (.ring 7) 0 false true (layout 64 [(0, leBytes 2 0x0803), (4, leBytes 2 5)]);
      s.mbx.accept && answering s && nextRing s == some 7 && !tagOutstanding e.2.tag s.mbx.rings[(7 : Fin 8)] && knownOp e.1) = true ∧
    (let s := cmd catMbxOpen (hd) { up with mbx.isOpen := false };
      accepted catMbxOpen (hd) s && (fins 8).all fun k => k == 0 || !ringRunning s.mbx.rings[k]) = true ∧
    accepted catDeviceInfo (hd 0 128) (cmd catDeviceInfo (hd 0 128) up) = true ∧
    (let s := cmd catBootJournalRead (hd 0 512) { up with jrn.bootDup := ⟨some up.jrn.boot, some up.jrn.boot⟩, jrn.selected := .a };
      accepted catBootJournalRead (hd 0 512) s && s.jrn.selected == .a && s.jrn.bootDup.a.isSome && s.jrn.bootDup.b.isSome) = true ∧
    (accepted catBootJournalClear (hd) (cmd catBootJournalClear (hd) up) && up.phase != .booting) = true ∧
    accepted catDeviceReset (hd) (cmd catDeviceReset (hd) up) = true ∧
    ([true, false].all fun w => let s := { up with mbx.resetPending := some w };
      resetAnswered s && s.phase != .unpowered && s.phase != .inReset && s.mbx.resetPending == some w) = true ∧
    (let s := { up with mbx.resetPending := some true, mbx.resetCmd := some (hd),
                        mbx.rings := vupd up.mbx.rings 0 fun r => { r with outstanding := [⟨hd, 0x0003, true, false, false, 0⟩] } };
      !resetAnswered s) = true ∧
    (let s := cmd catGpioConfig (hd) up;
      accepted catGpioConfig (hd) s && gpioStored s 0 == 0 && gpioStored s 1 == 0 && s.mbx.ready) = true := by
  decide +kernel

/-! ### Power, resets and the boot: witnesses -/

theorem witness_PowerComesAndGoes :
    on.pins.latchedOff = false ∧ on.pins.inputGood = true ∧ on.pins.pwrEn = true ∧ on.pins.converters = true ∧ on.pins.pgood = true ∧
    ({ on with pins.pgood := false } : State).pins.pgood = false := by
  decide +kernel

/-- That module with the watchdog's period over. -/
def late (boot again : Bool) : State := { on with aon := { on.aon with wdtEn := true, wdtBoot := boot, expired1 := again, ptime := 50000000 } }

theorem witness_ResetsBeginWithTheirCause :
    on.phase ∈ [Phase.booting, .recovery, .ready, .belowFloor] ∧ fullAccess { on with sec.unlocked := true } = true ∧
    (periodOver (late false true) && !(late false true).aon.wdtBoot && (late false true).aon.expired1) = true ∧
    (periodOver (late true false) && (late true false).aon.wdtBoot) = true ∧ (late true false).phase = .ready ∧
    ({ State.reset with srEntry := 8 } : State).phase = .inReset ∧
    ({ State.reset with srEntry := 8, aon.kind := 2 } : State).aon.kind = 2 ∧
    ({ State.reset with srEntry := 8 } : State).srEntry.getLsbD 3 = true := by
  decide +kernel

theorem witness_PoweredTimeAndWatchdog :
    on.pins.pgood = true ∧ (periodOver (late false false) && !(late false false).aon.wdtBoot && !(late false false).aon.expired1) = true ∧
    apexRuns on = true ∧ (0 : W32) ≠ 0x0000C35A := by
  decide +kernel

theorem witness_SmbusAndTemperature :
    on.pins.pgood = true ∧ ({ on with pins.alert := true } : State).pins.alert = true ∧ on.smb.warned = false ∧
    on.smb.alert.getLsbD 0 = false ∧ varluxRuns on = true ∧ on.jrn.hst.bucket < 24 := by
  decide +kernel

/-- Section 3 of the running image is recorded as of the byte 9. -/
def sectioned (type : Nat) (s : State) : State := { s with sec.sections := [(type, sha256N [9])] }

theorem witness_BootStartsAndPortsTrain :
    (let r := { State.reset.jrn.boot with bootCount := 3 };
      let s := { State.reset with aon.ptime := 100000, jrn.bootDup := ⟨some r, some r⟩ };
      bootMayStart s && lifecycleOk s.sec && decide (dupPick (·.seq) (foundRecords ⟨false, false, none, none⟩ none s.jrn).bootDup = some (.a, r)) &&
      decide (dupPick (·.seq) (foundRecords ⟨true, false, none, some 0⟩ none s.jrn).bootDup = some (.b, r)) && r.bootCount != 0xFFFFFFFF &&
      !lifecycleOk { s.sec with lifecycle := 0b010 }) = true ∧
    (stageRuns 1 (booting [1, 2]) && stageRuns 2 (booting [1, 2])) = true ∧
    (stageRuns (finOf (13 + 7)) (booting [13, 20]) && stageRuns (finOf (13 + 0)) (booting [13, 20])) = true ∧
    stageRuns 12 (booting [12]) = true ∧
    ([[9], [8]].all fun bs => sectionHolds 3 (some bs) (sectioned 3 (booting [12, 13, 20])) == (bs == [9])) = true := by
  decide +kernel

/-- A report of a factory image that verifies. -/
def image : ImageReport := ⟨true, 0, 1, 0x00010000, 7, 8, [(1, [2])]⟩

/-- Saved parameters of the Prisms with every channel. -/
def withSaved (s : State) : State := { s with jrn.savedDup := vmap s.jrn.savedDup fun _ _ => ⟨some { seq := 1, channels := 0xFFFF }, none⟩ }

theorem witness_RequiredStagesComplete :
    (let s := booting [3]; let f := slotFacts s.sec s.jrn.boot.activeB image;
      stageRuns 3 s && failsOf 3 s == 0 && f.verifies && f.reached && f.sections.length == 1) = true ∧
    stageRuns 4 (booting [4]) = true ∧ stageRuns 5 (booting [5]) = true ∧ stageRuns 6 (booting [6]) = true ∧
    (trainedLinks [4, 4, 4, 0, 1, 2, 2, 2, 9])[(4 : Fin 9)] ≠ 0 ∧
    (let s := withSaved (booting [10]); stageRuns (finOf (7 + 3)) s && sectionHolds 2 none s && (runMem 3 .ok 0 s).isSome &&
      memPath 3 s == .saved) = true ∧
    (let s := withSaved { booting [10] with aon := { on.aon with kind := 2, srDone := 8 } };
      stageRuns (finOf (7 + 3)) s && (runMem 3 .ok 0 s).isSome && memPath 3 s == .srExit) = true ∧
    (let s := booting [10]; let s := { s with jrn.boot.stage := vupd s.jrn.boot.stage 10 fun e => { e with fails := 1 } };
      stageRuns (finOf (7 + 3)) s && (runMem 3 .ok 0x80 s).isSome && memPath 3 s == .full) = true ∧
    (stageRuns 11 (booting [11]) && failsOf 11 (booting [11]) == 0 && sectionHolds 4 none (booting [11]) &&
      !sectionHolds 4 (some [8]) (sectioned 4 (booting [11]))) = true := by
  decide +kernel

theorem witness_ReadyAndDieToDieLinks :
    stageRuns 21 (booting [21]) = true ∧ floorOk (booting [21]) = true ∧
    floorOk { booting [21] with mbx.link := .detect } = false ∧ d2dTrained on = true ∧
    on.d2d.working[(8 : Fin 9)] ≠ 0 ∧ replaysOf 8 0 on = 0 ∧
    (let s := { on with d2d.working := vupd on.d2d.working 8 fun _ => 1 }; s.d2d.working[(8 : Fin 9)] == 1 && linkPrism 8 == some 3) = true ∧
    (let s := { on with d2d.recent := List.replicate 1025 (8, 0, 5) }; replaysOf 8 0 s == 1025) = true := by
  decide +kernel

/-! ### Firmware, tokens and SPDM: witnesses -/

/-- Signatures by the test key over the header of `img0`, and over the tokens of `debugToken` and `fuseToken`. -/
def sigImage : List Byte :=
  ([0x1b9621e35441a9be923d1e26bf0c8aff4cee39fc0a3a5fd456084c0ab0095ca5a15093b101ae652fafa853817c84ea8e,
    0xbc18033a3bbfeb8067fdd94c46e7df2ae993ec441771f100712c6600318afa4f4c0a892a0856b23e7d6d797375de4156,
    0x41f569d753c536af3c92f75f5a11edcb0339e692e2af5eb237c956acdad113512b76d02a079c0424092548d422cdfc52,
    0xb8fcf6287a2689d886c43f6512c7f14b5297b381069657a596a6393664bb73a0828bd135640e9839da3df1f28e97bcbf,
    0xf0f52f8f17f7fd39764fafd7355b6cf5f504832943724aa0f0ba5fa367e4912aed48c63c17bafb584d2664265227371d,
    0x51ce1a81e2cf3b395ce0f002e6afe8ec4e492c57de8550c7b2a5a6d00ca9fa0d57d110c26ca6f2e334c2509666b13720,
    0xcc463d754dc4582ab88fffb7e9cd4e25b4c3aaa468efd2cce097355fcd62c8ffc98890cf05c82db458bbd2458b61b2fe,
    0x1917f96542d1432c7053abd4d27e7368d8cdcf830b7a3d184e8bacc293c28ec5b16be939faeefd004c4bcda9b2890313] : List Nat).flatMap (beBytes 48)

def sigDebug : List Byte :=
  ([0x279453c7a5023123213b43976769b6abc526835b64ba43fae9df2ad224f06f6f3c78f8871f65e8d63bded1c2dfbb161a,
    0xa5529848b4d4718b74e637f48207ef615ebbc4951eb18f570b91057a74f23fc17051267ea87564126a97edadbe37317a,
    0xae05070416f24f151be0ead6029505008a32e6fd1f79d963cf8fa753b2e0ff24260637ed300e9444094d419d75f580f2,
    0x512b5e889a4a53df12245cabbad099c620ec8ae49d6f6899ee95fc92234b95c31a67e4be9659e235fff24245398b1337,
    0xaaabd5050ddb3ef829066148e9ee75f9ef069506046da49430006577d964ef1644874ab74a3258a916b17b9dc0cdb498,
    0x1d7f0cdf2d553d3b73c8379d6e26f9b3cd3355791e6e9a606349669c57f7d4444d01a4c9a149fc2ade913eeb92c73c4d,
    0x3fde0f5da4e8b28e60d019868c435807c0d84e40f7488162dd594f44d83bff1714acc3528bf215e9ee481ff643acc275,
    0x547a2caebac55ee06e1244a2c360dd830a122c12b832b3db7be639085a1300163033b004cebcc5571df2ace00fc57da5] : List Nat).flatMap (beBytes 48)

def sigFuse : List Byte :=
  ([0x9dd07fa76506ddb602643d38287ddf0180cfa3bcb8ec2ebef3cc73012435627019f321ade844e27fced0a2a08ba04539,
    0x02513f4db9848fb3a7cf33508f22c3adc982db2299adb6b90b7bdf479f5c0704d566b7de28c24fe85da1bc497cdb0b42,
    0x2e037ecba017635055789675bcf2b46c8e771fc9e1ef8542572986be21d97a54f463ec963f846f13bcda24c9556e655e,
    0x22da6596b3269dd9c83c5d9735ee23f14ff24766aa46930a3fb0907b8f36c1bd36ea4abed8be1169de3f43ed0288d43e,
    0xe5af64cfd1e8f82cdf7e074c039a156bff3205b86e53ab7d768f01361e1390e16a578361c41efdc02e86faa5c85ea031,
    0x5e42724d81985a8ecceed4f5cb36a523da3b4c3b5fe8cb032aa87db508a5fe48d33b47a7d309166697d5683cbc7b81c7,
    0x7be0031ad673f56911eda82da972ffc9f0666e469d1cf6cd234e7e2c51b545dd3f6b0b3813507086bb4059b44a463f67,
    0xed8dcd621f8ebd12499b2dfd9e3f52542a9f34043aeaab312de52558e35cbfc0129d8986540d55b8003158f15ab62293] : List Nat).flatMap (beBytes 48)

/-- A test key: the modulus is a prime, so that its signatures can be worked out. -/
def testKey : List Byte := beBytes 384 (2 ^ 3072 - 1103717) ++ leBytes 4 65537

/-- The signed part of a header of an image of two bytes with SVN 5 and key slot 0. -/
def head0 : List Byte :=
  layout 0x300 [(0, leBytes 4 0x50334657), (4, leBytes 2 1), (8, leBytes 4 5), (0x0C, leBytes 4 0x10002), (0x10, leBytes 4 2),
    (0x14, leBytes 4 2), (0x20, sha256 [0x5A, 0x5A]), (0x40, leBytes 4 1), (0x48, leBytes 4 1), (0x50, leBytes 4 4),
    (0x54, leBytes 4 1), (0x58, leBytes 4 1), (0x140, testKey)]

/-- Its header area. -/
def area0 : List Byte := head0 ++ sigImage

/-- That header area as cells. -/
def img0 : List Host.Cell := mwrite [] 0 area0

/-- The module with the digest of the test key fused in every slot, and that image running from slot B. -/
def keyed : State :=
  { up with
    jrn.boot := { up.jrn.boot with bootCount := 0, stage := vupd up.jrn.boot.stage 21 fun e => { e with status := .ok } },
    sec := { up.sec with keyHash := vgen fun _ => sha256N testKey, slotB := .written 0x1002 img0, svnA := 5,
                         running := some ⟨true, 0, 5, 0x10002⟩ } }

/-- A `DEBUG_UNLOCK` and a `FUSE_BURN` token (revoke slot 2), signed with key slot 0. -/
def debugToken : List Byte := layout 128 [(0, leBytes 4 0x50334442)] ++ sigDebug
def fuseToken : List Byte := layout 128 [(0, leBytes 4 0x50334655), (0x11, [3, 2])] ++ sigFuse

/-- An installation into slot A whose header area has arrived. -/
def installing : State := { keyed with sec := { keyed.sec with slotA := .erased 4096 [], fw := some ⟨false, false, 4096, img0⟩ } }

theorem area0_parts :
    area0.length = 0x480 ∧ headerOk area0 = true ∧ field area0 6 1 = 0 ∧ field area0 8 4 = 5 ∧ field area0 0x10 4 = 2 ∧
    slice area0 0x140 388 = testKey ∧ slice testKey 0 384 = slice area0 0x140 384 ∧ (sha256 [0x5A, 0x5A] != slice area0 0x20 32) = false := by
  decide +kernel

theorem area0_signed : pssVerify (slice area0 0x140 384) 65537 (slice area0 0 0x300) (slice area0 0x300 384) = true := by
  decide +kernel

theorem testKey_known : keyOk keyed.sec 0 testKey = true := by
  have e : keyed.sec.keyHash[(0 : Fin 4)] = sha256N testKey := vgen_get _ _
  change (true && !keyed.sec.keyRevoked.getLsbD 0 && sha256N testKey == keyed.sec.keyHash[(0 : Fin 4)]) = true
  rw [e, beq_self_eq_true]
  decide +kernel

/-- What the last chunk makes of the slot: the header area before its body. -/
theorem installed_reads :
    let p := putChunk [] img0 4096 [0x5A, 0x5A]
    slotHeader (scopy p.1 0 p.2 0 0x1000) = area0 ∧ slotBody false 4098 (scopy p.1 0 p.2 0 0x1000) = [0x5A, 0x5A] := by
  intro p
  have hd : slotHeader (scopy p.1 0 p.2 0 0x1000) = area0 := by
    have r : mread img0 0 0x480 = area0 := area0_parts.1 ▸ mread_mwrite area0 [] 0
    refine (mread_congr (m' := p.2) 0x480 0 fun j _ h2 => ?_).trans ((mread_congr (m' := img0) 0x480 0 fun j _ h2 => ?_).trans r)
    · rw [mget, scopy, sget_splice_in _ _ _ _ _ _ (by omega) (by omega)]
      have e : scut p.2 0 0x1000 0 = p.2.filter fun c => decide (c.1 < 0x1000) := by simp [scut]
      rw [e, sget_filter _ _ (fun k => decide (k < 0x1000))]
      simp only [show j < 0x1000 by omega, decide_true, if_true]
    · exact mget_mwrite_out _ _ _ _ (.inl (by omega))
  refine ⟨hd, ?_⟩
  unfold slotBody slotBytes
  rw [hd, area0_parts.2.2.2.2.1]
  change mread _ 0x1000 2 ++ [] = _
  rw [List.append_nil]
  exact (mread_congr 2 0x1000 fun j h1 _ => sget_splice_out _ _ _ _ _ _ (scut_range _ _ _ _) (.inr (by omega))).trans
    (mread_mwrite [0x5A, 0x5A] [] 0x1000)

theorem witness_FirmwareIsInstalledAndActivated :
    (let s := cmd catFwInstall (hd 0 4096) keyed;
      accepted catFwInstall (hd 0 4096) s && !chunkArg 0 0 0 (inBytes (hd 0 4096) (zeros 4096) (startCmd (hd 0 4096) s)) && !fwBusy s &&
      !slotHeld false s) = true ∧
    (let s := cmd catFwInstall (hd 0 4096) installing;
      accepted catFwInstall (hd 0 4096) s && !chunkArg 4096 0 0 (inBytes (hd 0 4096) (zeros 4096) (startCmd (hd 0 4096) s)) &&
      s.sec.fw.any fun q => !q.onNet && q.received == 4096 && !q.slotB) = true ∧
    (let h := hd 0 2; let s := cmd catFwInstall h installing; let bs := inBytes h [0x5A, 0x5A] (startCmd h s);
      accepted catFwInstall h s && !chunkArg 4096 1 0 bs && bs == [0x5A, 0x5A]) = true ∧
    (let s := cmd catFwInstall (hd 0 2) installing; let old := slotKnown (slotOfSec s.sec false);
      let p := putChunk old.2 img0 4096 [0x5A, 0x5A]; let img := scopy p.1 0 p.2 0 0x1000;
      verifyImage s.sec (slotHeader img) (slotBody false (max old.1 (4096 + 2)) img) = none) ∧
    (let p := putChunk [] [] 4096 [0x5A, 0x5A]; let img := scopy p.1 0 p.2 0 0x1000;
      (verifyImage installing.sec (slotHeader img) (slotBody false 4098 img)).isSome) = true ∧
    (let s := cmd catFwActivate (hd) { keyed with sec := { keyed.sec with passedA := true } };
      accepted catFwActivate (hd) s && !fwBusy s && !slotHeld false s && slotPassed s.sec false) = true ∧
    (let s := cmd catFwSvnCommit (hd) { keyed with jrn.boot := { keyed.jrn.boot with activeB := true } };
      accepted catFwSvnCommit (hd) s && !fwBusy s && readyReached s &&
      s.sec.running.any fun r => r.slotB == s.jrn.boot.activeB && decide (r.svn ≤ slotSvn s.sec (!r.slotB))) = true := by
  refine ⟨by decide +kernel, by decide +kernel, by decide +kernel, ?_, by decide +kernel, by decide +kernel, by decide +kernel⟩
  obtain ⟨-, hok, hslot, hsvn, hlen, hkey, -, hbody⟩ := area0_parts
  have e := installed_reads
  simp only [] at e ⊢
  change verifyImage installing.sec _ (slotBody false 4098 _) = _
  rw [show (slotKnown (slotOfSec (cmd catFwInstall (hd 0 2) installing).sec false)).2 = [] from rfl, e.1, e.2]
  have hk : keyOk installing.sec 0 testKey = true := testKey_known
  have hf : installing.sec.fuseSvn = 0 := rfl
  simp [verifyImage, imageHead, hok, hslot, hsvn, hkey, hk, area0_signed, hf]
  simpa using hbody

theorem testKey_found : keyBytes keyed.sec 0 = testKey := by
  have r : mread img0 0 0x480 = area0 := area0_parts.1 ▸ mread_mwrite area0 [] 0
  have e : slotHeader img0 = area0 := r
  simp only [keyBytes, keyed, up, State.reset, e, area0_parts.2.2.1, area0_parts.2.2.2.2.2.1, if_true]

/-- Samples that pass a start-up test whatever the source's cutoffs are. -/
def samples : List Byte := (List.range 1024).map fun i => if i = 0 then 0 else if i = 512 then 3 else BitVec.ofNat 8 (1 + i % 2)

theorem samples_pass : startupPasses samples = true := by
  unfold startupPasses Config.aptWindow
  generalize Config.binarySource = b
  revert b
  decide +kernel

theorem tokens_signed :
    pssVerify (slice testKey 0 384) 65537 (slice debugToken 0 0x80) (slice debugToken 0x80 384) = true ∧
    pssVerify (slice testKey 0 384) 65537 (slice fuseToken 0 0x80) (slice fuseToken 0x80 384) = true := by
  refine ⟨by decide +kernel, by decide +kernel⟩

theorem witness_TokensDebugAndEntropy :
    (let h := hd 0 512; let s := cmd catDebugUnlock h keyed; let b := inBytes h debugToken (startCmd h s);
      accepted catDebugUnlock h s && decide (512 ≤ b.length) && slice b 0x11 111 == zeros 111 && b == debugToken) = true ∧
    tokenAuth 0x50334442 debugToken (startCmd (hd 0 512) (cmd catDebugUnlock (hd 0 512) keyed)) = true ∧
    (let h := hd 0 512; let s := cmd catFuseBurn h keyed; let b := inBytes h fuseToken (startCmd h s);
      accepted catFuseBurn h s && !fuseArg b && !fwBusy s &&
      fuseApplies (field b 0x11 1) (field b 0x12 1) (field b 0x10 1) (startCmd h s) && b == fuseToken) = true ∧
    tokenAuth 0x50334655 fuseToken (startCmd (hd 0 512) (cmd catFuseBurn (hd 0 512) keyed)) = true ∧
    secRuns keyed = true ∧ fullAccess keyed = false ∧
    (let s := { keyed with sec := { keyed.sec with drbgReqs := 65536 } }; !s.sec.entDown && decide (65536 ≤ s.sec.drbgReqs)) = true ∧
    startupPasses samples = true ∧ startupPasses [] = false ∧
    (let s := { keyed with sec := { keyed.sec with entFails := 1 } }; !s.sec.entDown && s.sec.entFails == 1) = true := by
  have auth : ∀ magic b s, s.sec = keyed.sec → s.jrn = keyed.jrn → field b 0x10 1 = 0 → field b 0 4 = magic → field b 4 8 = 0 →
      field b 0xC 4 = 0 → pssVerify (slice testKey 0 384) 65537 (slice b 0 0x80) (slice b 0x80 384) = true →
      tokenAuth magic b s = true := by
    intro magic b s h1 h2 h3 h4 h5 h6 h7
    have e1 : keyed.sec.serial = 0 := rfl
    have e2 : keyed.jrn.boot.bootCount = 0 := rfl
    simp [tokenAuth, h1, h2, h3, h4, h5, h6, h7, testKey_found, testKey_known, e1, e2]
  refine ⟨by decide +kernel, auth _ _ _ rfl rfl ?_ ?_ ?_ ?_ tokens_signed.1, by decide +kernel, auth _ _ _ rfl rfl ?_ ?_ ?_ ?_ tokens_signed.2,
    by decide +kernel, by decide +kernel, by decide +kernel, samples_pass, by decide +kernel, by decide +kernel⟩ <;> decide +kernel

theorem test_interrupted_burn :
    let cut := fun (n : Nat) (l : BitVec 3) => (burnCut 2 0 n { fuses := { lifecycle := l } }).fuses.lifecycle
    cut 0 0b001 = 0b001 ∧ cut 1 0b001 = 0b001 ∧ cut 2 0b001 = 0b011 ∧ cut 2 0b011 = 0b111 ∧ cut 3 0b001 = 0b111 ∧
    (burnCut 2 0 1 {}).wrapBurnt = true ∧ (burnCut 2 0 3 { lifecycle := 0b001 }).lifecycle = 0b001 := by
  decide +kernel

theorem witness_SpdmAnswers :
    (let s := { keyed with sec := { keyed.sec with spdm := 3 } };
      spdmReach s && !s.sec.doeWaits && decide (3 ≤ s.sec.spdm) && !s.sec.entDown && identityUp s &&
      (measRecord 0 s).isSome && (measRecord 5 s).isSome && (measRecord 0xFF s).isSome) = true ∧
    spdmReach up = true ∧ up.sec.spdm < 3 ∧ ({ up with sec.doeWaits := true, sec.entDown := true } : State).sec.doeWaits = true := by
  decide +kernel

/-! ### The block as a whole: witnesses -/

theorem witness_StepRunsFrontCommand : State.reset.pending = [] := by decide

theorem witness_FacetWordsRoundTrip :
    facetRows.all (fun r => (List.range 256).any fun k => [0, 1].any fun fl => (r.ctor 95 (ins 0xFF 0xFF 0xFF 0xFF (BitVec.ofNat 16 k) 5 fl) Ecc.clean).wf) = true := by
  decide +kernel

/-- Facet 0, running at its last instruction, which is `w`. -/
def last (w : BitVec 128) : State := put0 { st := .running, pc := 4095, imem := [(4095, w)] }

theorem witness_IllegalWordsFault :
    wordUndefined (fetchWord (last 0x0D).facets[(0 : Fin 96)]) = true ∧
    wordUndefined (fetchWord (last (joinIns 0x32 (ins 0 0 0 0 0x17 0))).facets[(0 : Fin 96)]) = true ∧
    ([(ins 0 0 0 0 0 0 0x10), (ins 0 0 0 0 1 0), (ins 0 0 0 0 0 1), (ins 0x20 0 0 0 0 0), (ins 0x40 0x40 0 0 0 0), (ins 0x40 0x20 1 0 0 0),
      (ins 0x40 0x20 0 1 0 0), (ins 0x48 0x20 0 0 0 0), (ins 0x40 0x30 0 0 0 0)].all fun i =>
        let x := (last (joinIns 0x23 i)).facets[(0 : Fin 96)]
        let u : Use := { d := .a, a := .t }
        fetchWord x == joinIns 0x23 i && !wordUndefined (fetchWord x) && x.st == .running && decide (x.pc.toNat < 4096) &&
        (i.fl &&& ~~~ u.fl != 0 || i.x &&& ~~~ u.x != 0 || i.imm &&& ~~~ u.imm != 0 || !fileOk u.d i.d || !fileOk u.a i.a ||
          !fileOk u.b i.b || !fileOk u.c i.c || (useError u i != some 0x01 && !(idxOk i.d && idxOk i.a && idxOk i.b && idxOk i.c)))) = true := by
  decide +kernel

theorem witness_FacetInstructionsTouchTheirFacet :
    (match exec (.nop 0 (ins 0 0 0 0 0 0) Ecc.clean) (put0 (held {} 0x00 (ins 0 0 0 0 0 0))) with
      | .next t => (t.facets[(0 : Fin 96)]).pc == 1
      | _ => false) = true := by
  decide +kernel

theorem witness_OnlyApexAccessStops : stops (.jtagTapAccess (.apex 0)) { on with sec.unlocked := true } = true := by decide +kernel

theorem witness_CommandsTurnedAway :
    headerOf (.objPin (hd) 5) = some (catObjPin, hd) ∧ cmdReady catObjPin (hd) up = false ∧
    (let s := cmd catObjPin (hd 1) up;
      cmdReady catObjPin (hd 1) s && (commonStatus catObjPin (hd 1) (startCmd (hd 1) s)).isSome) = true ∧
    (let s := cmd catObjPin (hd) { up with phase := .belowFloor };
      cmdReady catObjPin (hd) s && (commonStatus catObjPin (hd) (startCmd (hd) s)).isSome) = true := by
  decide +kernel

theorem witness_EffectsLeaveTheQueue :
    (match exec .poweredTimeTick { on with pending := [.thermWarn] } with
      | .next t => t.pending == [.thermWarn]
      | _ => false) = true := by
  decide +kernel

theorem witness_FaultExcludesSpareReady :
    (let s := { on with pending := [.apexFatalError], pins.spareRdy := true };
      !(s.pins.fault && s.pins.spareRdy) && match step s with
        | .next t => t.pins.fault
        | _ => false) = true := by
  decide +kernel

theorem witness_FusesOnlyBurn :
    (let s := { on with pending := [.poweredTimeTick] };
      (match s.pending.head? with
        | some (.fwSvnCommit _ _ _) | some (.fuseBurn _ _ _) => false
        | _ => true) && match step s with
        | .next _ => true
        | _ => false) = true := by
  decide +kernel

/-! ### Ill-formed terms are refused -/

/-- A header on the management network. -/
def hn (xid : BitVec 32) : Hdr := { hd with path := .net, xid := xid }

theorem test_wf_refuses_commands :
    ([.mbxOpen { hd with xid := 1 } 1 0 0, .d2dStageEnd [4, 4], .cxlMemRead 32, .cxlMemWrite 1 (zeros 64) false, .cxlMemWrite 0 (zeros 63) false] ++
     [.cxlMemNarrowWrite 63 (zeros 64) 0 false, .cxlMemNarrowWrite 0 (zeros 65) 0 true, .registerWrite 0 3 0] ++
     [.commandFetch 1 (zeros 63) false false false] : List Instr).all (fun c => !c.wf) = true := by
  decide +kernel

theorem test_wf_refuses_buffers :
    ([.fwInstall (hd 0 2) 0 0 0 [1], .debugUnlock (hd 0 512) [], .fuseBurn (hd 0 1) [] none, .arcLoad (hd 0 1) []] ++
     [.prefetchSchedule (hd 0 1) 0 [], .layoutInstall (hd 0 1) 0 0 0 [], .ruleLoad (hd 0 1) 0 []] : List Instr).all (fun c => !c.wf) = true := by
  decide +kernel

theorem test_wf_refuses_words :
    ([.saluAdd 0 (ins 0 0 0 0 1 0) Ecc.clean, .veAdd 0 (ins 0 0 0 0 3 0) Ecc.clean, .dmaLinRead 0 (ins 0 0 0 0 0 0 1) Ecc.clean] ++
     [.dmaLinWrite 0 (ins 0 0 0 0 0 0) Ecc.clean, .scrubBlock 0 [⟨0, 0, 0, false⟩]] : List Instr).all (fun c => !c.wf) = true := by
  decide +kernel

theorem test_wf_refuses_segments :
    ([.mgmtCmd ⟨0, 0, 1, 0, 0⟩ true (zeros 1089), .mgmtCmd ⟨0, 0, 1, 0, 0⟩ true (zeros 63), .mgmtCmd ⟨0, 0, 1, 64, 0⟩ true (zeros 1025)] :
      List Instr).all (fun c => !c.wf) = true := by
  decide +kernel

/-- A command whose operand is not that of its entry's `PARAM` (Table 04-11: `OBJ_ID` at 0x18). -/
theorem test_wf_refuses_operands :
    (Instr.objPin { hd with param := [5] ++ zeros 39 } 6).wf = false ∧ (Instr.objPin { hd with param := [5] ++ zeros 39 } 5).wf = true := by
  decide +kernel

theorem test_wf_accepts :
    ([.mbxOpen { hn 1 with param := [1] ++ zeros 39 } 1 0 0, .d2dStageEnd [4, 4, 4, 4, 4, 2, 2, 2, 2], .cxlMemRead 64] ++
     [.fwInstall { hd 0 1 with param := zeros 40 } 0 0 0 [1], .mgmtCmd ⟨0, 0, 1, 0, 0⟩ true (zeros 1088)] ++
     [.commandFetch 1 (zeros 64) false false false, .dmaLinWrite 0 (ins 0 0 0 0 0 0 1) Ecc.clean] : List Instr).all (fun c => c.wf) = true := by
  decide +kernel

/-! ### Words of the spec -/

/-- Table 05-15, PC 10 to 21: the words are written out from the table's encodings. -/
theorem test_decode_words :
    ([(0x0000000000000A400000000000430021, .accCfg 0 (ins 0x43 0 0 0 0 0xA40) Ecc.clean),
      (0x20000010, .mmaLdw 0 (ins 0 0x20 0 0 0 0) Ecc.clean),
      (0x24430411, .mmaRun 0 (ins 0x43 0x24 0 0 0 0 4) Ecc.clean),
      (0x25430711, .mmaRun 0 (ins 0x43 0x25 0 0 0 0 7) Ecc.clean)] ++
     [(0x43280122, .accDrain 0 (ins 0x28 0x43 0 0 0 0 1) Ecc.clean),
      (0x00000208, .wait 0 (ins 0 0 0 0 0 0 2) Ecc.clean),
      (0x0001050428000044, .dmaChd 0 (ins 0 0x28 4 5 1 0) Ecc.clean)] : List (BitVec 128 × Instr)).all
        (fun p => decodeFacet 0 Ecc.clean p.1 == some p.2) = true := by
  decide +kernel

/-- Table 14-2: the header of a GATHER_REQ with four payload bytes, written out from the table, and read back. -/
theorem test_chord_header :
    let bytes : List Byte := [0x17, 0, 0, 3, 0, 0, 0, 7, 0, 0, 0, 0, 0, 0, 0, 9, 0, 0, 0, 3, 0, 0, 0, 1, 0, 1, 0, 0, 1, 0, 0, 4] ++ zeros 16
    chordHdrBytes 7 pk 4 = bytes ∧ (readChordHdr (.fabric 0) ip1 false (bytes ++ [0, 0, 0, 5])).2.1 = pk := by
  decide +kernel

/-- Table 06-1: the travelling sum depends on the order of its segments, and so does what `acc_add` leaves. -/
theorem test_travelling_sum :
    travel (([0x4B800000, 0x3F800000, 0x3F800000, 0xCB800000] : List W32).map fp32) = 0 ∧
    travel (([0x3F800000, 0x3F800000, 0x4B800000, 0xCB800000] : List W32).map fp32) = 0x40000000 ∧
    accAdd .rne 0x40000000 0x40000000 = 0x40800000 := by
  decide +kernel

/-- Table 07-3: a small product falls below the window of its segment, and alone it does not. -/
theorem test_segment_window :
    let e := fun (a w : Nat) => (fmtE4M3.dec a, fmtE4M3.dec w)
    toFp32 .trunc (segmentSum [e 0x7E 0x7E, e 0xFE 0x7E, e 0x08 0x09] 0x7F 0x7F) = 0x39800000 ∧
    toFp32 .trunc (segmentSum [e 0x08 0x09] 0x7F 0x7F) = 0x39900000 := by
  decide +kernel

/-- Table 07-7: one row drained to MXFP8 E4M3 under scale byte 0x83. -/
theorem test_convert_row :
    ([0x42C80000, 0xC2C80000, 0x45FA0000, 0x3E7E0000, 0x3E720000, 0x7FC00000] : List W32).map (toElem 0 0x83) =
      [(0x4C, false), (0xCC, false), (0x7E, true), (0x08, false), (0x00, false), (0x7F, false)] := by
  decide +kernel

/-- Table 09-4: the reciprocal of 3. -/
theorem test_reciprocal : frcp 0x40400000 = 0x3EAAAAAB := by decide +kernel

/-- R237's example: the norm of 3.0 and -0.5. -/
theorem test_norm : normRoot 0 (normAdd (normAdd (0, 0, 0) 0x40400000) 0xBF000000).2.2 = 0x4042A5FE := by decide +kernel

/-- Table 13-7: one element under SGD with momentum. -/
theorem test_sgd :
    let c := fun (i : Nat) => ([0x3C23D70A, 0x3F000000, 0, 0, 0, 0, 0, 0x3F800000] : List W32).getD i 0
    ruleSgd c (widen 0x3F80) (widen 0x3F00) 0x3E800000 = ⟨0x3F7EB852, 0x3F000000, 0⟩ ∧
    toBf16 (.sr 0x1C934E07) (fp32 0x3F7EB852) = 0x3F7F ∧ toBf16 (.sr 0xC0000000) (fp32 0x3F7EB852) = 0x3F7E := by
  decide +kernel

/-- The example of R285: one DPA before and after a fence of pair 10. -/
theorem test_dpa_map :
    mapDpa up 0x45A3D7F40 = (27, 9248506) ∧
    mapDpa { up with mem.pairs := 0xFFFFFBFF } 0x45A3D7F40 = (23, 10569722) := by
  decide +kernel

/-- The example of R289: 0x10 in byte 5 of a clean sector of zeros. -/
theorem test_sector_code : classify (zeros 5 ++ [0x10] ++ zeros 30) = .corrected 5 0x10 := by decide +kernel

end Sys2Proof.Tests
end

section
/-! The registers of the rings and of BAR0: what a host write does to a ring, to `MBX_EVENT` and its enable, and to the AON block
(R10, R49, R97 to R103, R110 to R112). -/

namespace Sys2Proof.Machine

/-! ### One ring of the state -/

@[simp] theorem modRing_self (n : Fin 8) (g : Ring → Ring) (s : State) : (modRing n g s).mbx.rings[n] = g s.mbx.rings[n] :=
  vupd_self ..

/-- Only the function's value at the ring itself counts. -/
theorem modRing_congr {n : Fin 8} {g k : Ring → Ring} {s : State} (h : g s.mbx.rings[n] = k s.mbx.rings[n]) :
    modRing n g s = modRing n k s := by
  simp only [modRing, vupd, h]

/-- A ring error sets `ERR` and clears `EN`, and leaves the rest of the ring (R111). -/
@[simp] theorem ringError_self (n : Fin 8) (c : BitVec 3) (s : State) :
    (ringError n c s).mbx.rings[n] = { s.mbx.rings[n] with err := c, en := false } :=
  modRing_self ..

/-! ### `RING_CTRL` (R111, R112) -/

/-- A ring with `INTR_EN` and `VECTOR` as a word of `RING_CTRL` has them: every write of the register sets these two. -/
def takeIntr (v : W32) (r : Ring) : Ring := { r with intrEn := v.getLsbD 1, vector := v.extractLsb' 4 4 }

theorem writeRingCtrl_disables {n : Fin 8} {v : W32} {s : State} (hv : v.getLsbD 0 = false) :
    (writeRingCtrl n v s).mbx.rings[n] = { takeIntr v s.mbx.rings[n] with en := false, err := 0 } := by
  simp only [writeRingCtrl, hv, Bool.not_false, if_true, modRing_self, takeIntr]

/-- A word with `EN` set asks a ring that is off to be enabled, and `enableErr` decides. -/
theorem writeRingCtrl_asks {n : Fin 8} {v : W32} {s : State} (hv : v.getLsbD 0 = true) (hr : s.mbx.rings[n].en = false) :
    writeRingCtrl n v s =
      (enableErr n s.mbx.rings[n] s.mbx.isOpen).elim (modRing n enableRing) (ringError n) (modRing n (takeIntr v) s) := by
  simp only [writeRingCtrl, hv, hr]
  cases enableErr n s.mbx.rings[n] s.mbx.isOpen <;> rfl

theorem writeRingCtrl_enables {n : Fin 8} {v : W32} {s : State} (hv : v.getLsbD 0 = true) (hr : s.mbx.rings[n].en = false)
    (he : enableErr n s.mbx.rings[n] s.mbx.isOpen = none) :
    (writeRingCtrl n v s).mbx.rings[n] = enableRing (takeIntr v s.mbx.rings[n]) := by
  rw [writeRingCtrl_asks hv hr, he, Option.elim_none, modRing_self, modRing_self]

theorem writeRingCtrl_forbidden {n : Fin 8} {v : W32} {s : State} {c : BitVec 3} (hv : v.getLsbD 0 = true)
    (hr : s.mbx.rings[n].en = false) (he : enableErr n s.mbx.rings[n] s.mbx.isOpen = some c) :
    (writeRingCtrl n v s).mbx.rings[n] = { takeIntr v s.mbx.rings[n] with err := c, en := false } := by
  rw [writeRingCtrl_asks hv hr, he, Option.elim_some, ringError_self, modRing_self]

/-! ### The doorbells of an enabled ring (R101, R110, R111) -/

theorem writeSqTail_of_lt {n : Fin 8} {v : W32} {s : State} (hr : s.mbx.rings[n].en = true)
    (hv : v.toNat % 4096 < 2 ^ s.mbx.rings[n].sqLog2.toNat) :
    writeSqTail n v s = modRing n (fun x => { x with tail := v.toNat % 4096 }) s := by
  simp only [writeSqTail, hr, Nat.not_le.2 hv, Bool.not_true, Bool.false_eq_true, if_false]

theorem writeSqTail_of_le {n : Fin 8} {v : W32} {s : State} (hr : s.mbx.rings[n].en = true)
    (hv : 2 ^ s.mbx.rings[n].sqLog2.toNat ≤ v.toNat % 4096) : writeSqTail n v s = ringError n 3 s := by
  simp only [writeSqTail, hr, hv, Bool.not_true, Bool.false_eq_true, if_false, if_true]

/-- With no completion waiting, a write of `RING_CQ_HEAD` only counts the slots that it releases. -/
theorem writeCqHead_of_none_waiting {n : Fin 8} {v : W32} {s : State} (hr : s.mbx.rings[n].en = true)
    (hw : s.mbx.rings[n].waiting = []) :
    writeCqHead n v s = modRing n (fun x => { x with
      cqHead := v.toNat % 4096, unconsumed := x.unconsumed - released s.mbx.rings[n] (v.toNat % 4096) }) s := by
  simp only [writeCqHead, hr, hw, Bool.true_or, Bool.not_true, Bool.false_eq_true, if_false, List.length_nil, flushRing]
  exact modRing_congr rfl

/-! ### `MBX_EVENT` and `MBX_EVENT_EN` (R99, R103) -/

/-- An interrupt, sent or left pending, leaves the event register. -/
@[simp] theorem sendMsix_event (k : BitVec 4) (s : State) : (sendMsix k s).mbx.event = s.mbx.event := by
  unfold sendMsix; split <;> rfl

/-- An interrupt, sent or left pending, leaves the events that are enabled. -/
@[simp] theorem sendMsix_eventEn (k : BitVec 4) (s : State) : (sendMsix k s).mbx.eventEn = s.mbx.eventEn := by
  unfold sendMsix; split <;> rfl

@[simp] theorem setEvents_event (ev en : BitVec 7) (s : State) : (setEvents ev en s).mbx.event = ev := by
  simp only [setEvents]; split <;> simp

@[simp] theorem setEvents_eventEn (ev en : BitVec 7) (s : State) : (setEvents ev en s).mbx.eventEn = en := by
  simp only [setEvents]; split <;> simp

/-! ### Writes through BAR0 and through the register window (R10, R49, R97, R98, R99) -/

theorem bar0Write_event (v : W32) (s : State) :
    bar0Write 0x10 v s = setEvents (s.mbx.event &&& ~~~ (v.truncate 7)) s.mbx.eventEn s := rfl

theorem bar0Write_eventEn (v : W32) (s : State) : bar0Write 0x14 v s = setEvents s.mbx.event (v.truncate 7) s := rfl

theorem bar0Write_eventVec (v : W32) (s : State) : bar0Write 0x18 v s = { s with mbx.eventVec := v.truncate 4 } := rfl

theorem windowWrite_wdtCtrl (v : W32) (a : Aon) : windowWrite 0x10010 v a = writeWdtCtrl v a := rfl

theorem windowWrite_wdtKick (v : W32) (a : Aon) : windowWrite 0x10014 v a = writeWdtKick v a := rfl

/-- An aligned 32-bit write at an offset `k` below the register window is the write of a BAR0 register. -/
theorem exec_registerWrite_bar0 {off : BitVec 48} {k : Nat} {v : W64} {s : State} (hs : hostReach s = true)
    (hoff : off.toNat = k) (hlow : k < 0xF00000000000) (hal : k % 4 = 0) :
    exec (.registerWrite off 4 v) s = .next (bar0Write k (v.truncate 32) s) := by
  simp [exec, execRegisterWrite, hs, hoff, hal, Nat.not_le.2 hlow]

/-- A write below the register window of a size other than 4 and 8 bytes is ignored. -/
theorem exec_registerWrite_size {off : BitVec 48} {size : Nat} {v : W64} {s : State} (hoff : off.toNat < 0xF00000000000)
    (h4 : size ≠ 4) (h8 : size ≠ 8) : exec (.registerWrite off size v) s = .next s := by
  simp [exec, execRegisterWrite, h4, h8, Nat.not_le.2 hoff]

/-- An aligned 32-bit write at offset `k` of the register window, which Apex reaches, is a write of the AON block. -/
theorem exec_registerWrite_window {off : BitVec 48} {k : Nat} {v : W64} {s : State} (hs : apexRuns s = true)
    (hoff : off.toNat = 0xF00000000000 + k) (hal : k % 4 = 0) :
    exec (.registerWrite off 4 v) s = .next { s with aon := windowWrite k (v.truncate 32) s.aon } := by
  have hal' : (0xF00000000000 + k) % 4 = 0 := by omega
  simp [exec, execRegisterWrite, hs, hoff, hal']

/-! ### The commands of a host that reaches BAR0 -/

section
variable {s : State} (hs : hostReach s = true)
include hs

theorem exec_ringCtrlWrite (n : Fin 8) (v : W32) : exec (.ringCtrlWrite n v) s = .next (writeRingCtrl n v s) := by
  simp [exec, execRingCtrlWrite, hs]

theorem exec_ringSqTail (n : Fin 8) (v : W32) : exec (.ringSqTail n v) s = .next (writeSqTail n v s) := by
  simp [exec, execRingSqTail, hs]

theorem exec_ringCqHead (n : Fin 8) (v : W32) : exec (.ringCqHead n v) s = .next (writeCqHead n v s) := by
  simp [exec, execRingCqHead, hs]

theorem exec_mbxEventEnWrite (v : W32) :
    exec (.mbxEventEnWrite v) s = .next (setEvents s.mbx.event (v.truncate 7) s) := by
  simp [exec, execMbxEventEnWrite, hs]

theorem exec_telPtimeLoRead_wide : exec (.telPtimeLoRead true) s = .next (emit (.read (now s)) s) := by
  simp [exec, execTelPtimeLoRead, hs]

theorem exec_telPtimeLoRead_latches : exec (.telPtimeLoRead false) s =
    .next (emit (.read (now s &&& 0xFFFFFFFF)) { s with mbx.telPtimeHi := (now s >>> 32).truncate 32 }) := by
  simp [exec, execTelPtimeLoRead, hs]

end

/-! ### The registers take their writes -/

/-- Settles O38: each command is the write of its register, and each register's own rule says what the write does. -/
theorem ringAndBarRegisters : Obligations.RingAndBarRegisters := by
  unfold Obligations.RingAndBarRegisters
  refine ⟨fun n v s hs => ⟨fun hv => ?disable, fun hv hr => ?enable,
      fun hr => ⟨fun ht => ?tail, fun ht => ?beyond, fun hw => ?head⟩⟩,
    fun v s => ⟨fun hs => ?bar0, fun ha => ?window, fun hx power => ?telemetry⟩⟩
  case disable =>
    refine ⟨_, exec_ringCtrlWrite hs n v, ?_⟩
    simp [writeRingCtrl_disables hv, takeIntr]
  case enable =>
    refine ⟨_, exec_ringCtrlWrite hs n v, fun he => ?_, fun c he => ?_⟩
    · simp [writeRingCtrl_enables hv hr he, enableRing]
    · simp [writeRingCtrl_forbidden hv hr he]
  case tail => rw [exec_ringSqTail hs, writeSqTail_of_lt hr ht]
  case beyond => rw [exec_ringSqTail hs, writeSqTail_of_le hr ht]; rfl
  case head => rw [exec_ringCqHead hs, writeCqHead_of_none_waiting hr hw]
  case bar0 =>
    have hword : ∀ k, k ≤ 32 → (v.truncate 32).truncate k = v.truncate k := fun _ => BitVec.setWidth_setWidth_of_le v
    refine ⟨⟨_, exec_registerWrite_bar0 (k := 0x10) hs rfl (by decide) (by decide), ?_⟩,
      ⟨_, exec_registerWrite_bar0 (k := 0x14) hs rfl (by decide) (by decide), ?_⟩,
      ⟨_, exec_mbxEventEnWrite hs _, ?_, setEvents_event ..⟩, ?_,
      fun off hoff => exec_registerWrite_size hoff (by decide) (by decide),
      exec_telPtimeLoRead_wide hs, ⟨_, exec_telPtimeLoRead_latches hs, rfl⟩⟩
    · rw [bar0Write_event, setEvents_event, hword 7 (by decide)]
    · rw [bar0Write_eventEn, setEvents_eventEn, hword 7 (by decide)]
    · rw [setEvents_eventEn, hword 7 (by decide)]
    · rw [exec_registerWrite_bar0 (k := 0x18) hs rfl (by decide) (by decide), bar0Write_eventVec, hword 4 (by decide)]
  case window =>
    constructor
    · rw [exec_registerWrite_window (k := 0x10014) ha rfl (by decide), windowWrite_wdtKick]
    · rw [exec_registerWrite_window (k := 0x10010) ha rfl (by decide), windowWrite_wdtCtrl]
  case telemetry =>
    have hrun : ¬ (!varluxRuns s) = true := by simp [hx]
    exact ⟨_, congrArg Host.Outcome.next (if_neg hrun), rfl, rfl, rfl, rfl, vgen_get (committedStep s)⟩

end Sys2Proof.Machine
end

section
/-! Facts that the statements on the module share: masks, alerts, evidence, the boot journal under a write, what sending changes,
and the trigger of a module reset. -/

namespace Sys2Proof.Machine

/-! ### Masks of units -/

theorem mem_fins {n : Nat} (i : Fin n) : i ∈ fins n := List.mem_ofFn.2 ⟨i, rfl⟩

/-- Setting a bit sets that bit of the mask and no other. -/
theorem getLsbD_setBit {w : Nat} (v : BitVec w) (k i : Nat) :
    (setBit v k true).getLsbD i = (v.getLsbD i || (decide (i < w) && decide (k = i))) := by
  simp only [setBit, if_true, BitVec.getLsbD_or, BitVec.getLsbD_ofNat, Nat.one_shiftLeft, Nat.testBit_two_pow]

/-- Setting a bit that is set changes nothing. -/
theorem setBit_eq_self {w k : Nat} {v : BitVec w} (h : v.getLsbD k = true) : setBit v k true = v := by
  refine BitVec.eq_of_getLsbD_eq fun i hi => ?_
  rw [getLsbD_setBit]
  by_cases hk : k = i
  · rw [← hk, h, Bool.true_or]
  · simp [hk]

/-- Setting the bits of a list of indices sets those bits. -/
theorem getLsbD_foldl_setBit {α : Type} {w : Nat} (ix : α → Nat) (l : List α) (v : BitVec w) {i : Nat} (hi : i < w) :
    (l.foldl (fun v a => setBit v (ix a) true) v).getLsbD i = (v.getLsbD i || l.any fun a => ix a == i) := by
  induction l generalizing v with
  | nil => simp
  | cons a l ih =>
    simp only [List.foldl_cons, ih, getLsbD_setBit, hi, decide_true, Bool.true_and, List.any_cons, Bool.or_assoc, beq_eq_decide]

/-- Setting the bits that a mask names adds the mask. -/
theorem foldl_setBit_eq_or {α : Type} {w : Nat} {ix : α → Nat} {l : List α} {m : BitVec w}
    (h : ∀ i < w, (∃ a ∈ l, ix a = i) ↔ m.getLsbD i = true) (v : BitVec w) :
    l.foldl (fun v a => setBit v (ix a) true) v = v ||| m := by
  refine BitVec.eq_of_getLsbD_eq fun i hi => ?_
  have hany : (l.any fun a => ix a == i) = m.getLsbD i := by
    rw [Bool.eq_iff_iff, ← h i hi, List.any_eq_true]
    simp only [beq_iff_eq]
  rw [getLsbD_foldl_setBit ix l v hi, hany, BitVec.getLsbD_or]

/-! ### `SB_ALERT` and `ALERT#` -/

/-- An alert that is raised is set. -/
theorem raiseAlert_alert {k : Nat} (s : State) (hk : k < 4) : (raiseAlert k s).smb.alert.getLsbD k = true := by
  unfold raiseAlert
  split
  · next h => exact h
  · rw [getLsbD_setBit]; simp [hk]

/-- An alert that was not set asserts `ALERT#`. -/
theorem raiseAlert_asserts {k : Nat} {s : State} (h : s.smb.alert.getLsbD k = false) : (raiseAlert k s).pins.alert = true := by
  simp [raiseAlert, h]

@[simp] theorem raiseAlert_warned (k : Nat) (s : State) : (raiseAlert k s).smb.warned = s.smb.warned := by
  unfold raiseAlert; split <;> rfl

/-! ### Evidence and counters (R443, R444, R472) -/

/-- The evidence window counts what its 24 buckets hold. -/
theorem windowCount_eq_sum (s : State) (c : Nat) :
    windowCount s c = ∑ b ∈ Finset.range 24, sget 0 s.jrn.hst.counts (12 * b + (c - 0x10)) := by
  rw [windowCount, ← List.sum_eq_foldl]; rfl

/-- An event of a rate class counts in its own cell of the current bucket, and in no other cell. -/
theorem evidence_counts (c n : Nat) (s : State) (k : Nat) :
    sget 0 (evidence c n s).jrn.hst.counts k =
      sget 0 s.jrn.hst.counts k + if k = 12 * s.jrn.hst.bucket + (c - 0x10) then n else 0 := by
  simp only [evidence]
  split
  · next h => rw [h, sget_sset_self]
  · next h => rw [sget_sset_ne _ _ _ _ _ h, Nat.add_zero]

/-- Events that fall in a bucket of the window raise the count of their class by as many (R443, R444). -/
theorem windowCount_evidence {s : State} (c n : Nat) (hb : s.jrn.hst.bucket < 24) :
    windowCount (evidence c n s) c = windowCount s c + n := by
  have hcell : ∀ b, (12 * b + (c - 0x10) = 12 * s.jrn.hst.bucket + (c - 0x10)) ↔ b = s.jrn.hst.bucket := by omega
  simp only [windowCount_eq_sum, evidence_counts, hcell, Finset.sum_add_distrib, Finset.sum_ite_eq', Finset.mem_range, hb,
    if_true]

/-- The evidence window is part of the journal. -/
theorem windowCount_congr {s t : State} {c : Nat} (h : s.jrn = t.jrn) : windowCount s c = windowCount t c := by
  simp only [windowCount, h]

theorem counter_counters (i n : Nat) (s : State) :
    sget 0 (counter i n s).health.counters i = sget 0 s.health.counters i + n := sget_sset_self ..

/-! ### The boot journal record under a write of the journal (R63, R64) -/

/-- After a record write the boot journal is as it was, but for the marks of bad copies and its sequence number. -/
theorem settleBad_boot (j : Journal) : ∃ a b q, (settleBad j).boot = { j.boot with aBad := a, bBad := b, seq := q } := by
  unfold settleBad
  dsimp only
  split
  · exact ⟨_, _, _, rfl⟩
  · exact ⟨_, _, _, rfl⟩

/-- A write of the boot journal leaves what it writes, but for the marks of bad copies and the sequence number. -/
theorem writeBoot_boot (g : BootRec → BootRec) (s : State) :
    ∃ a b q, (writeBoot g s).jrn.boot = { g s.jrn.boot with aBad := a, bBad := b, seq := q } := settleBad_boot _

@[simp] theorem writeBoot_stage (g : BootRec → BootRec) (s : State) : (writeBoot g s).jrn.boot.stage = (g s.jrn.boot).stage := by
  obtain ⟨_, _, _, h⟩ := writeBoot_boot g s; rw [h]

@[simp] theorem writeBoot_gpioFunc (g : BootRec → BootRec) (s : State) :
    (writeBoot g s).jrn.boot.gpioFunc = (g s.jrn.boot).gpioFunc := by
  obtain ⟨_, _, _, h⟩ := writeBoot_boot g s; rw [h]

/-! ### What sending changes -/

/-- `t` is `s` but for the jobs, which keep the streams, and for what has been sent. -/
def Sent (s t : State) : Prop := ∃ js es, t = { s with jobs := js, out := es }

theorem Sent.refl (s : State) : Sent s s := ⟨_, _, rfl⟩

theorem Sent.trans {s t u : State} (h : Sent s t) (k : Sent t u) : Sent s u := by
  obtain ⟨_, _, rfl⟩ := h
  obtain ⟨_, _, rfl⟩ := k
  exact ⟨_, _, rfl⟩

/-- Steps that each only send, one for each element of a list, only send. -/
theorem Sent.foldl {α : Type} {g : State → α → State} (hg : ∀ t a, Sent t (g t a)) (l : List α) (s : State) :
    Sent s (l.foldl g s) :=
  List.foldlRecOn l g (Sent.refl s) fun t ht a _ => ht.trans (hg t a)

theorem emitChord_sent (v : Via) (dst : Ip6) (kind : BitVec 4) (h : ChordHdr) (payload : List Byte) (s : State) :
    Sent s (emitChord v dst kind h payload s) := by
  unfold emitChord
  split
  · exact ⟨_, _, rfl⟩
  · split
    · exact ⟨_, _, rfl⟩
    · exact Sent.refl s

theorem sendVia_sent (j : Job) (peer : W16) (p : Fin 8) (kind : BitVec 4) (h : ChordHdr) (payload : List Byte) (s : State) :
    Sent s (sendVia j peer p kind h payload s) := by
  unfold sendVia
  split
  · exact emitChord_sent ..
  · exact Sent.refl s

theorem sendOn_sent (j : Job) (peer : W16) (onMgmt : Bool) (avoid : Option (Fin 8)) (kind : BitVec 4) (h : ChordHdr)
    (payload : List Byte) (s : State) : Sent s (sendOn j peer onMgmt avoid kind h payload s) := by
  unfold sendOn
  split
  · exact ⟨_, _, rfl⟩
  · split
    · exact (sendVia_sent ..).trans ⟨_, _, rfl⟩
    · exact Sent.refl s

theorem sendPlain_sent (job : W32) (peer : W16) (onMgmt : Bool) (kind : BitVec 4) (step : W64) (coll : W32) (offset : Nat)
    (payload : List Byte) (s : State) : Sent s (sendPlain job peer onMgmt kind step coll offset payload s) := by
  unfold sendPlain
  split
  · exact Sent.refl s
  · exact sendOn_sent ..

theorem sendAll_sent (job : W32) (peer : W16) (kind : BitVec 4) (step : W64) (payload : List Byte) (s : State) :
    Sent s (sendAll job peer kind step payload s) := by
  unfold sendAll
  split
  · exact Sent.refl s
  · exact Sent.foldl (fun _ _ => sendVia_sent ..) _ s

theorem floodToken_sent (job : W32) (lay : Layout) (step : W64) (tok : AbortTok) (s : State) :
    Sent s (floodToken job lay step tok s) :=
  Sent.foldl (fun _ _ => (sendAll_sent ..).trans (sendPlain_sent ..)) _ s

/-! ### Module resets -/

/-- A trigger puts a module that is powered and not in reset into one of its kind, with its source (R50, R52, R53). -/
theorem triggerReset_cause {s : State} (hu : s.phase ≠ .unpowered) (hi : s.phase ≠ .inReset) (kind : BitVec 2) (source : Byte) :
    (triggerReset kind source s).phase = .inReset ∧ (triggerReset kind source s).aon.kind = kind ∧
      (triggerReset kind source s).aon.source = source := by
  have hbegin : triggerReset kind source s = beginReset kind source s := by
    simp only [triggerReset, hu, hi, false_and, if_false]
  rw [hbegin]
  exact ⟨rfl, rfl, rfl⟩

end Sys2Proof.Machine
end

section
/-! The module in reset: what it holds right after the power-on trigger (R29, R49, R50, R99, R100, R173). -/

namespace Sys2Proof.Machine

theorem reset_ring (n : Fin 8) : State.reset.mbx.rings[n] = {} := Vector.getElem_replicate ..

theorem reset_facet (f : Fin 96) : State.reset.facets[f] = {} := Vector.getElem_replicate ..

theorem reset_sector (k : Fin 4) : State.reset.sectors[k] = {} := Vector.getElem_replicate ..

/-- Settles O51: each value is a default of the state's own fields, and the rings, facets and sectors are all alike. -/
theorem resetHoldsTheSpecValues : Obligations.ResetHoldsTheSpecValues := by
  unfold Obligations.ResetHoldsTheSpecValues
  refine ⟨rfl, rfl, rfl, rfl, rfl, rfl, rfl, rfl, rfl, rfl, rfl, rfl, fun n => ?ring,
    fun f => ?facet, fun k => ?sector, rfl, rfl, rfl⟩
  case ring => rw [reset_ring]; exact ⟨rfl, rfl, rfl⟩
  case facet => rw [reset_facet]; exact ⟨rfl, rfl⟩
  case sector => rw [reset_sector]

end Sys2Proof.Machine
end

section
/-! Power comes and goes (R24, R32, R35, R44, R50, R479): what a departure sends, and what a loss of power leaves. -/

namespace Sys2Proof.Machine

/-! ### Departure (R35) -/

/-- A departing module sends its abort tokens, and changes nothing else (R35). -/
theorem departTokens_sent (s : State) : Sent s (departTokens s) := by
  unfold departTokens
  split
  · exact Sent.refl s
  · refine Sent.foldl (fun t j => ?_) _ s
    split
    · split
      · exact Sent.refl t
      · exact floodToken_sent ..
    · exact Sent.refl t

theorem departTokens_pins (s : State) : (departTokens s).pins = s.pins := by
  obtain ⟨_, _, h⟩ := departTokens_sent s; rw [h]

theorem departTokens_jrn (s : State) : (departTokens s).jrn = s.jrn := by
  obtain ⟨_, _, h⟩ := departTokens_sent s; rw [h]

/-! ### The converters -/

theorem startConverters_of_free {s : State} (hen : s.pins.pwrEn = true) (hin : s.pins.inputGood = true)
    (hlatch : s.pins.latchedOff = false) : startConverters s = { s with pins.converters := true } := by
  simp [startConverters, hen, hin, hlatch]

/-- What a module without power has: its outputs read released, and nothing volatile is left; the journal memories keep theirs
(R24, R32). -/
structure Dark (s t : State) : Prop where
  phase : t.phase = .unpowered
  converters : t.pins.converters = false
  pgood : t.pins.pgood = false
  fault : t.pins.fault = true
  spareRdy : t.pins.spareRdy = false
  thermTrip : t.pins.thermTrip = true
  jobs : t.jobs = []
  cells : t.mem.cells = []
  facets : t.facets = Vector.replicate 96 {}
  boot : t.jrn.boot = s.jrn.boot

/-- A loss of power leaves the module dark. -/
theorem powerOff_dark {s t : State} (h : t.jrn.boot = s.jrn.boot) : Dark s (powerOff t) :=
  ⟨rfl, rfl, rfl, rfl, rfl, rfl, rfl, rfl, rfl, h⟩

/-- Neither the latch nor what has been sent is part of it. -/
theorem Dark.latch {s t : State} (h : Dark s t) (b : Bool) (es : List Emit) : Dark s { t with pins.latchedOff := b, out := es } :=
  ⟨h.phase, h.converters, h.pgood, h.fault, h.spareRdy, h.thermTrip, h.jobs, h.cells, h.facets, h.boot⟩

/-- Each of the four events that stop the converters leaves the module dark, and two of them latch (R479, R487). -/
theorem exec_power_lost {c : Instr} {s : State}
    (hc : c ∈ [Instr.pwrEnDeasserted, .inputUndervoltage, .inputOvervoltage, .thermalTrip]) (hconv : s.pins.converters = true) (hp : s.pins.pgood = true) :
    ∃ u, exec c s = .next u ∧ Dark s u ∧ (u.pins.latchedOff = true ↔ c = .inputOvervoltage ∨ c = .thermalTrip) := by
  simp only [List.mem_cons, List.not_mem_nil, or_false] at hc
  rcases hc with rfl | rfl | rfl | rfl
  · refine ⟨_, congrArg Host.Outcome.next (if_pos hconv), powerOff_dark ?_, ?_⟩
    · rw [departTokens_jrn]
    · simp [powerOff, releasePins, dropVolatile, departTokens_pins]
  · refine ⟨_, congrArg Host.Outcome.next (if_pos hconv), powerOff_dark rfl, ?_⟩
    simp [powerOff, releasePins, dropVolatile]
  · exact ⟨_, congrArg Host.Outcome.next (if_pos hconv), (powerOff_dark rfl).latch true _, by simp⟩
  · refine ⟨_, congrArg Host.Outcome.next (if_pos hp), (powerOff_dark ?_).latch true _, by simp⟩
    rw [setFault_jrn, setSbState_jrn]

/-- Settles O40: what starts the converters, what `PGOOD` begins, and the four events that leave the module dark. -/
theorem powerComesAndGoes : Obligations.PowerComesAndGoes := by
  unfold Obligations.PowerComesAndGoes
  refine fun s => ⟨fun hl => ⟨fun hin => ?enabled, fun hen => ?input⟩, fun hp hc => ?pgood, fun c hc hconv hp => ?stop⟩
  case enabled => exact congrArg Host.Outcome.next (startConverters_of_free (s := { s with pins.pwrEn := true }) rfl hin hl)
  case input => exact congrArg Host.Outcome.next (startConverters_of_free (s := { s with pins.inputGood := true }) hen rfl hl)
  case pgood =>
    have hrise : ¬ (s.pins.pgood = true ∨ (!s.pins.converters) = true) := by simp [hp, hc]
    exact ⟨_, congrArg Host.Outcome.next (if_neg hrise), rfl, rfl, rfl, rfl, rfl, rfl, rfl⟩
  case stop =>
    obtain ⟨u, hu, hd, hl⟩ := exec_power_lost hc hconv hp
    exact ⟨u, hu, hd.phase, hd.converters, hd.pgood, hd.fault, hd.spareRdy, hd.thermTrip, hd.jobs, hd.cells, hd.facets,
      hd.boot, hl⟩

end Sys2Proof.Machine
end

section
/-! The SMBus target and the temperature alerts (R28, R29, R486, R487). -/

namespace Sys2Proof.Machine

/-! ### The thermal warning (R487) -/

/-- What a thermal warning leaves in the SMBus block: the alert is set, and no further warning comes until the re-arm (R487). -/
def warn (s : State) : State := raiseAlert alTherm { s with smb.warned := true }

/-- The first warning sets the alert; Apex, where it runs, raises the event, and Varlux, where it runs, counts the warning. -/
theorem exec_thermWarn {s : State} (hp : s.pins.pgood = true) (hw : s.smb.warned = false) :
    ∃ u, exec .thermWarn s = .next u ∧ u.smb = (warn s).smb ∧ u.pins = (warn s).pins ∧
      (varluxRuns s = true → u.jrn = (evidence 0x19 1 s).jrn) := by
  have hrun : exec .thermWarn s = .next (let t := if apexRuns s then raiseEvent evTherm (warn s) else warn s
      if varluxRuns s then evidence 0x19 1 t else t) := by
    show execThermWarn s = _
    simp only [execThermWarn, hp, hw, warn, Bool.not_true, Bool.or_false, Bool.false_eq_true, if_false]
  refine ⟨_, hrun, ?_, ?_, fun hv => ?_⟩
  · cases varluxRuns s <;> cases apexRuns s <;> simp
  · cases varluxRuns s <;> cases apexRuns s <;> simp
  · cases apexRuns s <;> simp [hv, evidence, warn]

/-! ### The target's transactions -/

theorem smbAnswer_of_pgood {s : State} (hp : s.pins.pgood = true) (v : W16) : smbAnswer v s = emit (.smb (some v)) s := by
  simp [smbAnswer, hp]

/-- The target acknowledges a write at any offset; `SB_ALERT` alone takes it. -/
theorem exec_smbWriteByte {s : State} (hp : s.pins.pgood = true) (off v : Byte) :
    exec (.smbWriteByte off v) s =
      .next (emit (.smbAck true) (if off = 0x03 then clearAlert (v.truncate 4) s else s)) := by
  show execSmbWriteByte off v s = _
  simp only [execSmbWriteByte, hp, if_true]

/-- The target that wins the alert response's arbitration answers its address and releases `ALERT#` (R28, R29). -/
theorem exec_smbAlertResponse_won {s : State} (hp : s.pins.pgood = true) (ha : s.pins.alert = true) :
    exec (.smbAlertResponse true) s = .next (emit (.smb (some (smbAddress s))) { s with pins.alert := false }) := by
  have hwon : (s.pins.pgood && s.pins.alert && true) = true := by simp [hp, ha]
  exact congrArg Host.Outcome.next ((if_pos hwon).trans (smbAnswer_of_pgood (s := { s with pins.alert := false }) hp _))

/-- One that loses it answers nothing and keeps `ALERT#`. -/
theorem exec_smbAlertResponse_lost (s : State) : exec (.smbAlertResponse false) s = .next (emit (.smb none) s) := by
  have hlost : ¬ (s.pins.pgood && s.pins.alert && false) = true := by simp
  exact congrArg Host.Outcome.next (if_neg hlost)

/-- Settles O43: one clause a transaction, and the warning's by what it does to `SB_ALERT`, to Apex and to Varlux in turn. -/
theorem smbusAndTemperature : Obligations.SmbusAndTemperature := by
  unfold Obligations.SmbusAndTemperature
  refine fun s hp => ⟨fun off => ?read, fun v => ⟨?clear, fun off ho => ?ignored⟩, fun ha => ?won, ?lost, rfl,
    fun hw => ?warned, ?rearm, fun t => ?temp⟩
  case read => exact ⟨congrArg _ (smbAnswer_of_pgood hp _), congrArg _ (smbAnswer_of_pgood hp _)⟩
  case clear => exact ⟨_, exec_smbWriteByte hp _ v, rfl, rfl, rfl⟩
  case ignored => rw [exec_smbWriteByte hp, if_neg ho]
  case won => exact exec_smbAlertResponse_won hp ha
  case lost => exact exec_smbAlertResponse_lost s
  case warned =>
    obtain ⟨u, hu, hsmb, hpins, hjrn⟩ := exec_thermWarn hp hw
    refine ⟨u, hu, ?_, ?_, fun ha => ?_, fun hv hb => ?_⟩
    · rw [hsmb, warn, raiseAlert_warned]
    · rw [hsmb]; exact raiseAlert_alert _ (by decide)
    · rw [hpins]; exact raiseAlert_asserts ha
    · rw [windowCount_congr (hjrn hv), windowCount_evidence 0x19 1 hb]
  case rearm => exact congrArg _ (if_pos hp)
  case temp => exact congrArg _ (if_pos hp)

end Sys2Proof.Machine
end

section
/-! The host port (R34, R91, R99, R113, R296, R298): what its events reset, and what a configuration request meets. -/

namespace Sys2Proof.Machine

/-! ### Host-port events -/

@[simp] theorem eraseSlot_spdm (b : Bool) (x : Sec) : (eraseSlot b x).spdm = x.spdm := by
  cases b <;> rfl

@[simp] theorem eraseSlot_doeWaits (b : Bool) (x : Sec) : (eraseSlot b x).doeWaits = x.doeWaits := by
  cases b <;> rfl

/-- A ring at a host-port event is off, holds back no completion, and discards those of the commands that run on (R113). -/
theorem quiesceRing_discards (r : Ring) :
    (quiesceRing r).en = false ∧ (quiesceRing r).waiting = [] ∧ (quiesceRing r).outstanding.all (·.discard) = true := by
  refine ⟨rfl, rfl, ?_⟩
  simp [quiesceRing]

/-- What a host-port event leaves of `s`, whatever becomes of the link (R34, R91, R99, R113). -/
structure Quiesced (s u : State) : Prop where
  isOpen : u.mbx.isOpen = false
  eventEn : u.mbx.eventEn = 0
  eventVec : u.mbx.eventVec = 0
  event : u.mbx.event = s.mbx.event
  spdm : u.sec.spdm = 0
  doeWaits : u.sec.doeWaits = false
  rings : ∀ n : Fin 8, u.mbx.rings[n] = quiesceRing s.mbx.rings[n]
  cells : u.mem.cells = s.mem.cells

/-- Ending an installation touches the slot alone. -/
theorem Quiesced.dropInstall {s u : State} (h : Quiesced s u) (b : Bool) : Quiesced s (dropInstall b u) :=
  ⟨h.isOpen, h.eventEn, h.eventVec, h.event, (eraseSlot_spdm b u.sec).trans h.spdm, (eraseSlot_doeWaits b u.sec).trans h.doeWaits,
    h.rings, h.cells⟩

theorem Quiesced.linkLost {s u : State} (h : Quiesced s u) : Quiesced s (linkLost u) :=
  ⟨h.isOpen, h.eventEn, h.eventVec, h.event, h.spdm, h.doeWaits, h.rings, h.cells⟩

theorem hostEvent_quiesced (s : State) : Quiesced s (hostEvent s) := by
  have hrings : ∀ n : Fin 8, (vmap s.mbx.rings fun _ r => quiesceRing r)[n] = quiesceRing s.mbx.rings[n] := fun n => vmap_get _ _ n
  unfold hostEvent
  dsimp only
  split
  · split
    · exact ⟨rfl, rfl, rfl, rfl, rfl, rfl, hrings, rfl⟩
    · refine Quiesced.dropInstall ?_ _
      exact ⟨rfl, rfl, rfl, rfl, rfl, rfl, hrings, rfl⟩
  · exact ⟨rfl, rfl, rfl, rfl, rfl, rfl, hrings, rfl⟩

@[simp] theorem hostEvent_link (s : State) : (hostEvent s).mbx.link = s.mbx.link := by
  unfold hostEvent
  dsimp only
  split
  · split <;> rfl
  · rfl

section
variable {s : State} (hl : s.mbx.link = .l0)
include hl

theorem exec_functionLevelReset : exec .functionLevelReset s = .next (hostEvent s) := congrArg Host.Outcome.next (if_pos hl)

theorem exec_hotReset : exec .hotReset s = .next (linkLost (hostEvent s)) := congrArg Host.Outcome.next (if_pos hl)

theorem exec_hostLinkDown : exec .hostLinkDown s = .next (linkLost (hostEvent s)) := congrArg Host.Outcome.next (if_pos hl)

/-- A hot reset and a lost link are one event at the device: the link leaves L0. -/
theorem exec_link_lost {c : Instr} (hc : c ∈ [Instr.hotReset, .hostLinkDown]) : exec c s = .next (linkLost (hostEvent s)) := by
  simp only [List.mem_cons, List.not_mem_nil, or_false] at hc
  rcases hc with rfl | rfl
  · exact exec_hotReset hl
  · exact exec_hostLinkDown hl

/-- Each of the three events quiesces the port. -/
theorem exec_event_quiesced {c : Instr} {u : State} (hc : c ∈ [Instr.functionLevelReset, .hotReset, .hostLinkDown])
    (hu : exec c s = .next u) : Quiesced s u := by
  rcases List.mem_cons.1 hc with rfl | hc
  · rw [exec_functionLevelReset hl] at hu
    cases hu
    exact hostEvent_quiesced s
  · rw [exec_link_lost hl hc] at hu
    cases hu
    exact (hostEvent_quiesced s).linkLost

/-! ### Configuration requests (R34) -/

/-- Once the port has answered with success, or the boot has ended, a configuration request meets success. -/
theorem exec_cxlConfigRequest_ready (r : CfgReg) (hr : bootEnded s = true ∨ s.mbx.cfgReady = true) :
    exec (.cxlConfigRequest r) s = .next (emit (.config false (cfgRead r s)) (cfgAct r { s with mbx.cfgReady := true })) := by
  have hready : (s.mbx.cfgReady || bootEnded s || decide (cfgReadyMax ≤ (now s).toNat - s.jrn.boot.bootPtime.toNat)) = true := by
    rcases hr with h | h <;> simp [h]
  exact congrArg Host.Outcome.next ((if_neg (by simp [hl])).trans (if_pos hready))

/-- It meets success or retry status; retry status reads nothing and leaves the port as it is. -/
theorem exec_cxlConfigRequest_answers (r : CfgReg) : ∃ u b v, exec (.cxlConfigRequest r) s = .next (emit (.config b v) u) ∧
    (b = true → u.mbx = s.mbx ∧ v = none) := by
  have hlink : ¬ s.mbx.link ≠ .l0 := by simp [hl]
  show ∃ u b v, execCxlConfigRequest s r = _ ∧ _
  simp only [execCxlConfigRequest, if_neg hlink]
  split
  · exact ⟨_, false, _, rfl, by simp⟩
  · split
    · exact ⟨_, false, _, rfl, by simp⟩
    · exact ⟨_, true, _, rfl, fun _ => ⟨rfl, rfl⟩⟩

end

/-- The high word of the range's size: the window's GiB in units of 4 (R296). -/
theorem cfgRead_rangeSizeHigh (s : State) : cfgRead .rangeSizeHigh s = some (BitVec.ofNat 32 (s.mem.hdmSize / 4)) := by
  have hsize : s.mem.hdmSize * 2 ^ 30 / 2 ^ 32 = s.mem.hdmSize / 4 := by omega
  simp only [cfgRead, hsize]

/-- Settles O37: each event quiesces the port, two of them lose the link, and a request is answered by whether the port is ready. -/
theorem hostPortEvents : Obligations.HostPortEvents := by
  unfold Obligations.HostPortEvents
  refine fun s => ⟨fun ha => congrArg Host.Outcome.next (if_pos ha), fun hl => ⟨fun r hr => exec_cxlConfigRequest_ready hl r hr,
    fun r => exec_cxlConfigRequest_answers hl r, ⟨cfgRead_rangeSizeHigh s, rfl, fun r hr => if_neg hr⟩, fun c u hc hu => ?event,
    ⟨_, exec_functionLevelReset hl, (hostEvent_link s).trans hl⟩, fun c hc => ⟨_, exec_link_lost hl hc, rfl, rfl⟩⟩⟩
  case event =>
    have hq := exec_event_quiesced hl hc hu
    exact ⟨hq.isOpen, hq.eventEn, hq.eventVec, hq.event, hq.spdm, hq.doeWaits,
      fun n => hq.rings n ▸ quiesceRing_discards _, hq.cells⟩

end Sys2Proof.Machine
end

section
/-! The mailbox and device commands (R30, R65, R104, R107, R109, R111, R115, R121, R124). -/

namespace Sys2Proof.Machine

/-! ### The boot journal (R65) -/

/-- `zeroFails` clears the counts and leaves the statuses (R65). -/
theorem zeroFails_stage (s : State) (e : Fin 22) :
    (zeroFails s).jrn.boot.stage[e] = { s.jrn.boot.stage[e] with fails := 0 } := by
  simp only [zeroFails, writeBoot_stage, vmap_get]

/-! ### The start of a command -/

/-- An accepted command has its own effect on the state in which it has started. -/
theorem exec_accepted {c : Instr} {k : Cat} {h : Hdr} {body : State → State} {s : State} (hc : exec c s = .next (runCmd k h body s))
    (ha : accepted k h s = true) : exec c s = .next (body (startCmd h s)) := by
  rw [hc, runCmd_accepted ha]

theorem markStart_running (l : List Waiting) : ((markStart l).any fun w => !w.discard) = l.any fun w => !w.discard := by
  induction l with
  | nil => rfl
  | cons w ws ih =>
    simp only [markStart]
    split
    · simp only [List.any_cons, ih]
    · rfl

/-- The start of a command leaves `RUNNING` of every ring as it is. -/
@[simp] theorem startCmd_running (h : Hdr) (s : State) (k : Fin 8) :
    ringRunning (startCmd h s).mbx.rings[k] = ringRunning s.mbx.rings[k] := by
  unfold startCmd
  split
  · next n _ =>
    by_cases hk : k = n
    · subst hk
      simp only [modRing_self, ringRunning, markStart_running]
    · exact congrArg ringRunning (vupd_ne _ _ _ _ hk)
  · rfl

@[simp] theorem startCmd_ready (h : Hdr) (s : State) : (startCmd h s).mbx.ready = s.mbx.ready := by
  unfold startCmd; split <;> rfl

/-! ### Fetch (R104, R107, R111) -/

/-- The fetch of an entry as the device begins it: the turn passes to the next ring. -/
theorem exec_commandFetch {s : State} {n : Fin 8} (ha : s.mbx.accept = true) (hb : answering s = true) (hn : nextRing s = some n)
    (entry : List Byte) (bf cf readFail : Bool) :
    exec (.commandFetch n entry bf cf readFail) s = .next
      (if readFail then ringError n 0b100 { s with mbx.rr := finOf (n.val + 1) }
       else takeEntry n (parseEntry (.ring n) 0 bf cf entry).1 (parseEntry (.ring n) 0 bf cf entry).2
         (modRing n (fun r => { r with sqHead := (r.sqHead + 1) % 2 ^ r.sqLog2.toNat }) { s with mbx.rr := finOf (n.val + 1) })) := by
  have hgo : ¬ (!(s.mbx.accept && answering s && nextRing s == some n)) = true := by simp [ha, hb, hn]
  exact congrArg Host.Outcome.next (if_neg hgo)

/-- An entry with a new tag and an opcode of the catalogue becomes outstanding, last in the acceptance order (R107, R109). -/
theorem takeEntry_joins {n : Fin 8} {op : W16} {h : Hdr} {s : State} (ht : tagOutstanding h.tag s.mbx.rings[n] = false)
    (hk : knownOp op = true) : takeEntry n op h s =
      { modRing n (fun r => { r with outstanding := r.outstanding ++ [⟨h, op, false, false, false, s.mbx.accepted⟩] }) s with
        mbx.accepted := s.mbx.accepted + 1 } := by
  simp only [takeEntry, ht, hk, Bool.not_true, Bool.false_eq_true, if_false]

/-! ### The commands' own effects -/

/-- `MBX_OPEN` of version 1.0, with no other ring running, opens the mailbox (R115). -/
theorem mbxOpenBody_opens {h : Hdr} {s : State} (hr : ∀ k : Fin 8, k ≠ 0 → ringRunning s.mbx.rings[k] = false)
    (maxMinor : Nat) :
    mbxOpenBody h 1 0 maxMinor s = complete h stOk [0x01, 0x00] { s with mbx.isOpen := true, mbx.minor := 0 } := by
  have hidle : (List.range 7).any (fun k => ringRunning s.mbx.rings[(finOf (k + 1) : Fin 8)]) = false := by
    refine List.any_eq_false.2 fun k hk => ?_
    have hne : (finOf (k + 1) : Fin 8) ≠ 0 := by
      have := List.mem_range.1 hk
      simp only [finOf, ne_eq, Fin.ext_iff, Fin.val_zero]
      omega
    exact Bool.eq_false_iff.1 (hr _ hne)
  have hversion : ¬ (1 ≠ 1 ∨ 0 ≠ 0 ∨ maxMinor < 0) := by omega
  simp only [mbxOpenBody, hidle, Bool.false_eq_true, if_false, if_neg hversion]

/-- With both copies valid and A selected, `BOOT_JOURNAL_READ` answers with the two records as stored (R65). -/
theorem bootJournalReadBody_valid {h : Hdr} {s : State} {a b : BootRec} (hd : s.jrn.bootDup = ⟨some a, some b⟩)
    (hsel : s.jrn.selected = .a) : bootJournalReadBody h s = answer h stOk true
      (leBytes 1 0 ++ leBytes 1 (bit s.jrn.boot.aBad + 2 * bit s.jrn.boot.bBad)) (bootBytes a ++ bootBytes b) s := by
  simp only [bootJournalReadBody, copyBytes, hd, hsel]

/-- `GPIO_CONFIG` gives a free pin a function (R30). -/
theorem gpioConfigBody_sets {h : Hdr} {pin func : Nat} {s : State} (hp : pin ≤ 1) (hf : func ≤ 3) (h0 : func ≠ 0)
    (hs : gpioStored s pin = 0) :
    gpioConfigBody h pin func s = complete h stOk [(setGpio pin func s).jrn.boot.gpioFunc] (setGpio pin func s) := by
  have harg : ¬ (1 < pin ∨ 3 < func) := by omega
  have hnew : ¬ gpioStored s pin = func := by omega
  have hfree : ¬ (func ≠ 0 ∧ gpioStored s pin ≠ 0) := by omega
  simp only [gpioConfigBody, if_neg harg, if_neg hnew, if_neg hfree]

@[simp] theorem setGpio_gpioFunc (pin func : Nat) (s : State) : (setGpio pin func s).jrn.boot.gpioFunc =
    BitVec.ofNat 8 (if pin = 0 then s.jrn.boot.gpioFunc.toNat / 16 * 16 + func else s.jrn.boot.gpioFunc.toNat % 16 + 16 * func) := by
  unfold setGpio
  cases s.mbx.ready <;> simp

/-- The function stored at a pin is the one given. -/
theorem gpioStored_setGpio {pin func : Nat} (s : State) (hp : pin ≤ 1) (hf : func ≤ 3) :
    gpioStored (setGpio pin func s) pin = func := by
  have hg := s.jrn.boot.gpioFunc.isLt
  simp only [gpioStored, setGpio_gpioFunc, BitVec.toNat_ofNat]
  obtain rfl | rfl : pin = 0 ∨ pin = 1 := by omega
  · simp only [if_true]; omega
  · simp only [one_ne_zero, if_false]; omega

/-- Once the boot has reached the floor the pin is driven. -/
theorem setGpio_drives {pin func : Nat} {s : State} (hr : s.mbx.ready = true) :
    (setGpio pin func s).pins.gpio[(finOf pin : Fin 2)] = BitVec.ofNat 4 func := by
  simp only [setGpio, hr, if_true]
  exact vupd_self ..

/-! ### `DEVICE_RESET` -/

/-- The reset of an answered `DEVICE_RESET` is a warm one or a cold one, as its kind said (R121). -/
theorem exec_deviceResetTrigger_warm {s : State} (hr : resetAnswered s = true) (hp : s.mbx.resetPending = some true) :
    exec .deviceResetTrigger s = .next (warmReset 0x04 s) := by
  show execDeviceResetTrigger s = _
  simp only [execDeviceResetTrigger, hr, hp, if_true]

theorem exec_deviceResetTrigger_cold {s : State} (hr : resetAnswered s = true) (hp : s.mbx.resetPending = some false) :
    exec .deviceResetTrigger s = .next (coldReset 0x03 s) := by
  show execDeviceResetTrigger s = _
  simp only [execDeviceResetTrigger, hr, hp, if_true]

/-- Settles O39: a fetch by its two outcomes, and each command by its own effect once the common checks are passed. -/
theorem mailboxAndDeviceCommands : Obligations.MailboxAndDeviceCommands := by
  unfold Obligations.MailboxAndDeviceCommands
  refine fun h s => ⟨fun n entry bf cf ha hb hn => ⟨fun ht hk => ?fetch, ?failed⟩, fun maxMinor ha hr => ?opened,
    fun ha => ?info, fun a b ha hd hsel => ?read, fun ha hb => ?clear, fun kind ha hk => ?reset,
    fun hr hu hi => ⟨fun hp => ?warm, fun hp => ?cold⟩, fun hr => ?waits, fun pin func ha hp hf h0 hs => ?gpio⟩
  case fetch =>
    refine ⟨_, exec_commandFetch ha hb hn entry bf cf false, ?_⟩
    rw [if_neg Bool.false_ne_true, takeEntry_joins (by rw [modRing_self]; exact ht) hk]
    refine ⟨rfl, ?_, rfl, ?_⟩
    · exact congrArg Ring.outstanding ((modRing_self ..).trans (congrArg _ (modRing_self ..)))
    · exact congrArg Ring.sqHead ((modRing_self ..).trans (congrArg _ (modRing_self ..)))
  case failed =>
    refine ⟨_, exec_commandFetch ha hb hn entry bf cf true, ?_⟩
    rw [if_pos rfl, ringError_self]
    exact ⟨rfl, rfl, rfl, rfl⟩
  case opened =>
    have hidle : ∀ k : Fin 8, k ≠ 0 → ringRunning (startCmd h s).mbx.rings[k] = false := fun k hk =>
      (startCmd_running h s k).trans (hr k hk)
    exact (exec_accepted rfl ha).trans (congrArg Host.Outcome.next (mbxOpenBody_opens hidle _))
  case info => rw [exec_accepted rfl ha]; rfl
  case read =>
    rw [exec_accepted rfl ha, bootJournalReadBody_valid (a := a) (b := b) (by rw [startCmd_jrn]; exact hd)
      (by rw [startCmd_jrn]; exact hsel), startCmd_jrn]
    rfl
  case clear =>
    refine ⟨zeroFails (startCmd h s), _, ?_, rfl, fun e => ?_⟩
    · rw [exec_accepted rfl ha, bootJournalClearBody, if_neg (by rw [startCmd_phase]; exact hb)]
      rfl
    · rw [complete_jrn, zeroFails_stage, startCmd_jrn]
      exact ⟨rfl, rfl⟩
  case reset =>
    have hkind : (kind.toNat == 1) = (kind == 1) := by
      rw [Bool.eq_iff_iff, beq_iff_eq, beq_iff_eq, ← BitVec.toNat_inj]; rfl
    rw [exec_accepted rfl ha, deviceResetBody, if_neg (Nat.not_lt.2 hk), hkind]
    rfl
  case warm =>
    exact ⟨_, exec_deviceResetTrigger_warm hr hp, triggerReset_cause hu hi ..⟩
  case cold =>
    exact ⟨_, exec_deviceResetTrigger_cold hr hp, triggerReset_cause hu hi ..⟩
  case waits => exact congrArg Host.Outcome.next (if_neg (by simp [hr]))
  case gpio =>
    have hs' : gpioStored (startCmd h s) pin.toNat = 0 := by rw [gpioStored, startCmd_jrn]; exact hs
    have h0' : func.toNat ≠ 0 := fun e => h0 (BitVec.eq_of_toNat_eq e)
    have hrun := (exec_accepted (c := .gpioConfig h pin func) rfl ha).trans
      (congrArg Host.Outcome.next (gpioConfigBody_sets (h := h) hp hf h0' hs'))
    refine ⟨setGpio pin.toNat func.toNat (startCmd h s), _, hrun, ?_, ?_, fun hr => ?_⟩
    · rw [complete_jrn]; rfl
    · rw [gpioStored, complete_jrn]; exact gpioStored_setGpio _ hp hf
    · rw [complete_pins]; exact setGpio_drives ((startCmd_ready h s).trans hr)

end Sys2Proof.Machine
end

section
/-! What fails and what a fence sets going leaves every unit as it is: the die-to-die links and the units in service change by the
fences and the links' own rows alone (R19, R20, R449, R451). -/

namespace Sys2Proof.Machine

/-- The die-to-die links and the fenced units of a state. -/
def unitsOf (s : State) : D2d × BitVec 12 × W32 × BitVec 4 × Byte × BitVec 2 :=
  (s.d2d, s.health.columns, s.health.pairs, s.health.prisms, s.health.fabric, s.health.mgmt)

theorem unitsOf_d2d {s t : State} (h : unitsOf t = unitsOf s) : t.d2d = s.d2d := congrArg Prod.fst h

theorem unitsOf_prisms {s t : State} (h : unitsOf t = unitsOf s) : t.health.prisms = s.health.prisms :=
  congrArg (fun u => u.2.2.2.1) h

/-- Steps that each leave the units leave them together. -/
theorem unitsOf_foldl {α : Type} {g : State → α → State} (hg : ∀ t a, unitsOf (g t a) = unitsOf t) (l : List α) (s : State) :
    unitsOf (l.foldl g s) = unitsOf s :=
  List.foldlRecOn (motive := fun t => unitsOf t = unitsOf s) l g rfl fun t ht a _ => (hg t a).trans ht

/-! ### The shared operations -/

@[simp] theorem unitsOf_answer (h : Hdr) (st : W16) (final : Bool) (r buf : List Byte) (s : State) :
    unitsOf (answer h st final r buf s) = unitsOf s := by simp [unitsOf]

@[simp] theorem unitsOf_modJob (j : W32) (g : Job → Job) (s : State) : unitsOf (modJob j g s) = unitsOf s := rfl

@[simp] theorem unitsOf_modRun (j : W32) (g : StepRun → StepRun) (s : State) : unitsOf (modRun j g s) = unitsOf s := rfl

@[simp] theorem unitsOf_modObj (o : W64) (g : Obj → Obj) (s : State) : unitsOf (modObj o g s) = unitsOf s := rfl

@[simp] theorem unitsOf_modFacet (f : Fin 96) (g : Facet → Facet) (s : State) : unitsOf (modFacet f g s) = unitsOf s := rfl

@[simp] theorem unitsOf_modSector (k : Fin 4) (g : Sector → Sector) (s : State) : unitsOf (modSector k g s) = unitsOf s := rfl

@[simp] theorem unitsOf_writeBytes (a : Nat) (bs : List Byte) (s : State) : unitsOf (writeBytes a bs s) = unitsOf s := by
  simp [unitsOf]

@[simp] theorem unitsOf_raiseEvent (k : Nat) (s : State) : unitsOf (raiseEvent k s) = unitsOf s := by simp [unitsOf]

@[simp] theorem unitsOf_evidence (c n : Nat) (s : State) : unitsOf (evidence c n s) = unitsOf s := rfl

@[simp] theorem unitsOf_logHealth (kind : Byte) (unit ix info : Nat) (s : State) :
    unitsOf (logHealth kind unit ix info s) = unitsOf s := by simp only [unitsOf, logHealth]

@[simp] theorem unitsOf_writeHst (s : State) : unitsOf (writeHst s) = unitsOf s := by simp [unitsOf]

@[simp] theorem unitsOf_setSbState (v : BitVec 3) (s : State) : unitsOf (setSbState v s) = unitsOf s := by simp [unitsOf]

@[simp] theorem unitsOf_settleSideband (s : State) : unitsOf (settleSideband s) = unitsOf s := by simp [unitsOf]

/-! ### Objects that lose their place (R310, R320) -/

@[simp] theorem unitsOf_answerEntry (e : EvEntry) (st : W16) (r : List Byte) (s : State) :
    unitsOf (answerEntry e st r s) = unitsOf s := by
  unfold answerEntry; split <;> simp

@[simp] theorem unitsOf_answerPromo (p : Option Hdr × Nat × Bool) (st : W16) (s : State) :
    unitsOf (answerPromo p st s) = unitsOf s := by
  unfold answerPromo; split <;> simp

@[simp] theorem unitsOf_setEntry (job : W32) (i : Nat) (g : SchedEnt → SchedEnt) (s : State) :
    unitsOf (setEntry job i g s) = unitsOf s := by
  unfold setEntry
  dsimp only
  split
  · split <;> simp
  · simp

@[simp] theorem unitsOf_setHolders (id : W64) (g : SchedEnt → SchedEnt) (s : State) : unitsOf (setHolders id g s) = unitsOf s := by
  refine unitsOf_foldl (fun t j => ?_) _ s
  split
  · next x _ =>
    refine List.foldlRecOn (motive := fun (p : State × Nat) => unitsOf p.1 = unitsOf t) _ _ rfl fun p hp e _ => ?_
    dsimp only
    split <;> simp [hp]
  · rfl

@[simp] theorem unitsOf_holdersSee (id : W64) (code : W16) (s : State) : unitsOf (holdersSee id code s) = unitsOf s := by
  unfold holdersSee
  dsimp only
  split
  · split
    · simp
    · split <;> simp
  · simp

@[simp] theorem unitsOf_dropPin (id : W64) (pin : Bool) (st : W16) (s : State) : unitsOf (dropPin id pin st s) = unitsOf s := by
  unfold dropPin; split <;> simp

@[simp] theorem unitsOf_startMove (id : W64) (m : Move) (s : State) : unitsOf (startMove id m s) = unitsOf s := rfl

@[simp] theorem unitsOf_promoteResident (h : Hdr) (id : W64) (u : Nat) (pin : Bool) (s : State) :
    unitsOf (promoteResident h id u pin s) = unitsOf s := by
  unfold promoteResident
  split
  · rfl
  · split
    · simp
    · split
      · simp
      · split <;> simp

@[simp] theorem unitsOf_schedPromote (id : W64) (s : State) : unitsOf (schedPromote id s).1 = unitsOf s := by
  unfold schedPromote
  split
  · rfl
  · split
    · rfl
    · split
      · rfl
      · split
        · rfl
        · split <;> simp

@[simp] theorem unitsOf_actPromo (id : W64) (s : State) (p : Option Hdr × Nat × Bool) : unitsOf (actPromo id s p) = unitsOf s := by
  unfold actPromo
  split
  · rfl
  · split
    · simp
    · split
      · split <;> simp
      · split <;> simp

@[simp] theorem unitsOf_failMove (id : W64) (st : W16) (damage : Bool) (s : State) :
    unitsOf (failMove id st damage s) = unitsOf s := by
  unfold failMove
  split
  · rfl
  · split
    · rfl
    · refine (unitsOf_foldl (fun t p => unitsOf_actPromo id t p) _ _).trans ?_
      split
      · simp
      · split <;> simp

@[simp] theorem unitsOf_endObject (id : W64) (st : W16) (s : State) : unitsOf (endObject id st s) = unitsOf s := by
  unfold endObject
  split
  · rfl
  · dsimp only
    rw [unitsOf_setHolders, unitsOf_foldl fun t e => unitsOf_answerEntry e st [] t,
      unitsOf_foldl fun t p => unitsOf_answerPromo p st t]
    split
    · split
      · rw [unitsOf_answer]; rfl
      · rfl
    · rfl

@[simp] theorem unitsOf_fallBack (id : W64) (st : W16) (s : State) : unitsOf (fallBack id st s) = unitsOf s := by
  unfold fallBack
  split
  · rfl
  · dsimp only
    rw [unitsOf_setHolders, unitsOf_foldl fun t p => unitsOf_answerPromo p st t]
    split
    · split <;> simp
    · rfl

@[simp] theorem unitsOf_endLostObjects (s : State) : unitsOf (endLostObjects s) = unitsOf s := by
  refine unitsOf_foldl (fun t o => ?_) _ s
  split
  · split <;> simp
  · split
    · split <;> simp
    · rfl

/-! ### Steps that fail (R175, R366, R402) -/

/-- Sending keeps the units. -/
theorem Sent.unitsOf {s t : State} (h : Sent s t) : unitsOf t = unitsOf s := by
  obtain ⟨_, _, rfl⟩ := h; rfl

@[simp] theorem unitsOf_evalProposal (s : State) : unitsOf (evalProposal s) = unitsOf s := by
  unfold evalProposal
  split
  · rfl
  · split
    · rfl
    · split
      · rw [unitsOf_writeHst]; rfl
      · split
        · rfl
        · rw [unitsOf_raiseEvent, unitsOf_logHealth, unitsOf_writeHst]; rfl

@[simp] theorem unitsOf_failGathers (job : W32) (s : State) : unitsOf (failGathers job s) = unitsOf s := by
  unfold failGathers
  split
  · rfl
  · split
    · exact unitsOf_foldl (fun t i => unitsOf_writeBytes ..) _ s
    · rfl

@[simp] theorem unitsOf_restoreScales (j : Job) (s : State) : unitsOf (restoreScales j s) = unitsOf s := by
  unfold restoreScales; split <;> rfl

@[simp] theorem unitsOf_setFcsrStep (cols : BitVec 12) (v : W64) (s : State) : unitsOf (setFcsrStep cols v s) = unitsOf s := rfl

@[simp] theorem unitsOf_settleNot (job : W32) (aborted : Bool) (s : State) : unitsOf (settleNot job aborted s) = unitsOf s := by
  have hcount : ∀ t : State, unitsOf (if aborted then { t with mbx.aborts := t.mbx.aborts + 1 }
      else { t with mbx.skips := t.mbx.skips + 1 }) = unitsOf t := fun t => by cases aborted <;> rfl
  have hgather : unitsOf (if aborted then failGathers job s else s) = unitsOf s := by cases aborted <;> simp
  unfold settleNot
  split
  · rfl
  · split
    · rfl
    · dsimp only
      rw [unitsOf_evalProposal]
      split
      · rw [unitsOf_answer, unitsOf_modJob, hcount, unitsOf_setFcsrStep, unitsOf_restoreScales, hgather]
      · rw [unitsOf_modJob, hcount, unitsOf_setFcsrStep, unitsOf_restoreScales, hgather]

@[simp] theorem unitsOf_abortStep (job : W32) (cause : Byte) (origin : Option W16) (detected : W16) (s : State) :
    unitsOf (abortStep job cause origin detected s) = unitsOf s := by
  have hcount : ∀ t : State, unitsOf (if cause = cauLocal then evidence 0x17 1 t else t) = unitsOf t := fun t => by split <;> rfl
  have hfacets : ∀ (v : Vector Facet 96) (t : State), unitsOf { t with facets := v } = unitsOf t := fun _ _ => rfl
  unfold abortStep
  split
  · rfl
  · split
    · split
      · rfl
      · dsimp only
        split
        · rw [unitsOf_modRun, unitsOf_modJob, hcount, unitsOf_raiseEvent, hfacets, (floodToken_sent ..).unitsOf]
        · rw [unitsOf_settleNot, unitsOf_modJob, hcount, unitsOf_raiseEvent, hfacets, (floodToken_sent ..).unitsOf]
    · rfl

@[simp] theorem unitsOf_localFailure (job : W32) (cause : Nat) (s : State) : unitsOf (localFailure job cause s) = unitsOf s := by
  unfold localFailure
  split
  · rfl
  · split
    · rfl
    · dsimp only
      split <;> simp

@[simp] theorem unitsOf_failLostShards (s : State) : unitsOf (failLostShards s) = unitsOf s := by
  refine unitsOf_foldl (fun t j => unitsOf_foldl (fun t sh => ?_) _ t) _ s
  split
  · split
    · split
      · exact unitsOf_localFailure ..
      · rfl
    · rfl
  · rfl

@[simp] theorem unitsOf_endDma (f : Fin 96) (q : QEnt) (st : W16) (s : State) : unitsOf (endDma f q st s) = unitsOf s := by
  unfold endDma; split <;> simp

@[simp] theorem unitsOf_failFlights (n : Nat) (s : State) : unitsOf (failFlights n s) = unitsOf s := by
  refine unitsOf_foldl (fun t f => unitsOf_foldl (fun t q => ?_) _ t) _ s
  dsimp only
  split
  · split <;> simp
  · split <;> simp
  · rfl

/-- The loss of a Prism's LPDDR6 changes no unit: the Prism was fenced by then (R310, R451). -/
@[simp] theorem unitsOf_losePrism (n : Nat) (s : State) : unitsOf (losePrism n s) = unitsOf s := by
  simp only [losePrism, unitsOf_endLostObjects, unitsOf_failLostShards, unitsOf_failFlights]
  rfl

/-! ### Below the floor (R455) -/

@[simp] theorem unitsOf_stopSectorFacets (k : Fin 4) (s : State) : unitsOf (stopSectorFacets k s) = unitsOf s :=
  unitsOf_foldl (g := fun t f => modFacet f stopFacet t) (fun _ _ => rfl) _ s

@[simp] theorem unitsOf_stopArcs (s : State) : unitsOf (stopArcs s) = unitsOf s := by
  refine unitsOf_foldl (fun t k => ?_) _ s
  split <;> simp

@[simp] theorem unitsOf_enterBelowFloor (s : State) : unitsOf (enterBelowFloor s) = unitsOf s := by
  have hfail : ∀ (t : State) (j : Job), unitsOf (if (stepOf j).isSome then localFailure j.id 7 t else t) = unitsOf t := by
    intro t j; split <;> simp
  simp only [enterBelowFloor, unitsOf_settleSideband, unitsOf_stopArcs, unitsOf_foldl hfail, unitsOf_logHealth, unitsOf_setSbState]
  rfl

@[simp] theorem unitsOf_checkFloor (s : State) : unitsOf (checkFloor s) = unitsOf s := by
  unfold checkFloor; split <;> simp

end Sys2Proof.Machine
end

section
/-! The required boot stages (R56, R58, R60, R80 to R82, R308, R453): how each ends and what it fences. -/

namespace Sys2Proof.Machine

/-! ### Fences in a boot (R449, R451) -/

@[simp] theorem setFenced_d2d (unit ix : Nat) (s : State) : (setFenced unit ix s).d2d = s.d2d := by
  unfold setFenced; split <;> rfl

@[simp] theorem setFenced_jrn (unit ix : Nat) (s : State) : (setFenced unit ix s).jrn = s.jrn := by
  unfold setFenced; split <;> rfl

@[simp] theorem bootFence_d2d (unit ix : Nat) (s : State) : (bootFence unit ix s).d2d = s.d2d := by
  unfold bootFence; split <;> simp

@[simp] theorem bootFence_jrn (unit ix : Nat) (s : State) : (bootFence unit ix s).jrn = s.jrn := by
  unfold bootFence; split <;> simp

/-- A Prism's fence sets its bit, and finds it set where the Prism is fenced. -/
@[simp] theorem bootFence_prisms (n : Nat) (s : State) : (bootFence 2 n s).health.prisms = setBit s.health.prisms n true := by
  unfold bootFence
  split
  · next h => exact (setBit_eq_self h).symm
  · rw [raiseEvent_health]; simp only [logHealth, setFenced]

@[simp] theorem bootFence_columns (c : Nat) (s : State) : (bootFence 0 c s).health.columns = setBit s.health.columns c true := by
  unfold bootFence
  split
  · next h => exact (setBit_eq_self h).symm
  · rw [raiseEvent_health]; simp only [logHealth, setFenced]

/-- Fencing the Prisms of a mask adds the mask. -/
theorem foldl_bootFence_prisms (m : BitVec 4) (s : State) :
    (((fins 4).filter fun n => m.getLsbD n.val).foldl (fun t n => bootFence 2 n.val t) s).health.prisms = s.health.prisms ||| m := by
  rw [← List.foldl_hom (g₂ := fun v (n : Fin 4) => setBit v n.val true) (fun t : State => t.health.prisms)
    fun t n => (bootFence_prisms n.val t).symm]
  refine foldl_setBit_eq_or (ix := Fin.val) (fun i hi => ?_) _
  simp only [List.mem_filter, mem_fins, true_and]
  exact ⟨fun ⟨a, ha, hai⟩ => hai ▸ ha, fun h => ⟨⟨i, hi⟩, h, rfl⟩⟩

/-- Fencing the columns of a mask adds the mask. -/
theorem foldl_bootFence_columns (m : BitVec 12) (s : State) :
    (((List.range 12).filter fun c => m.getLsbD c).foldl (fun t c => bootFence 0 c t) s).health.columns = s.health.columns ||| m := by
  rw [← List.foldl_hom (g₂ := fun v c => setBit v c true) (fun t : State => t.health.columns)
    fun t c => (bootFence_columns c t).symm]
  refine foldl_setBit_eq_or (ix := id) (fun i hi => ?_) _
  simp only [List.mem_filter, List.mem_range, id_eq]
  exact ⟨fun ⟨a, ha, hai⟩ => hai ▸ ha.2, fun h => ⟨i, ⟨hi, h⟩, rfl⟩⟩

theorem foldl_bootFence_jrn (unit : Nat) (l : List Nat) (s : State) : (l.foldl (fun t k => bootFence unit k t) s).jrn = s.jrn :=
  List.foldlRecOn (motive := fun t => t.jrn = s.jrn) l _ rfl fun t ht k _ => (bootFence_jrn unit k t).trans ht

/-! ### Die-to-die links at the end of their training (R19, R20) -/

/-- The Prism of a link that is down is fenced. -/
def fenceLink (t : State) (l : Fin 9) : State :=
  match linkPrism l.val with
  | some n => if t.d2d.working[l] = 0 then bootFence 2 n t else t
  | none => t

theorem fenceLinks_eq (s : State) : fenceLinks s = (fins 9).foldl fenceLink s := rfl

@[simp] theorem fenceLink_d2d (t : State) (l : Fin 9) : (fenceLink t l).d2d = t.d2d := by
  unfold fenceLink
  split
  · split <;> simp
  · rfl

theorem fenceLink_prisms (t : State) (l : Fin 9) {i : Nat} (hi : i < 4) : (fenceLink t l).health.prisms.getLsbD i =
    (t.health.prisms.getLsbD i || (linkPrism l.val == some i && t.d2d.working[l] == 0)) := by
  unfold fenceLink
  split
  · next n hn =>
    split
    · next h0 => rw [bootFence_prisms, getLsbD_setBit, hn, h0]; simp [hi, beq_eq_decide]
    · next h0 => rw [hn, beq_false_of_ne h0, Bool.and_false, Bool.or_false]
  · next hn => simp [hn]

/-- A Prism is fenced then that was, or whose link is down. -/
theorem foldl_fenceLink (l : List (Fin 9)) (s : State) : (l.foldl fenceLink s).d2d = s.d2d ∧ ∀ i < 4,
    (l.foldl fenceLink s).health.prisms.getLsbD i =
      (s.health.prisms.getLsbD i || l.any fun k => linkPrism k.val == some i && s.d2d.working[k] == 0) := by
  induction l generalizing s with
  | nil => exact ⟨rfl, fun i _ => by simp⟩
  | cons k l ih =>
    obtain ⟨hd, hp⟩ := ih (fenceLink s k)
    refine ⟨hd.trans (fenceLink_d2d s k), fun i hi => ?_⟩
    rw [List.foldl_cons, hp i hi, fenceLink_prisms s k hi, fenceLink_d2d, List.any_cons, Bool.or_assoc]

/-- Prism `n` is joined by the links `n` and `n + 5` (R20). -/
theorem linkPrism_eq_some {k : Fin 9} {n : Fin 4} : linkPrism k.val = some n.val ↔ k = finOf n.val ∨ k = finOf (n.val + 5) := by
  revert k n; decide

theorem any_link_of_prism (p : Fin 9 → Bool) (n : Fin 4) :
    ((fins 9).any fun k => linkPrism k.val == some n.val && p k) = (p (finOf n.val) || p (finOf (n.val + 5))) := by
  rw [Bool.eq_iff_iff]
  simp only [List.any_eq_true, mem_fins, true_and, Bool.and_eq_true, beq_iff_eq, linkPrism_eq_some, Bool.or_eq_true, or_and_right,
    exists_or, exists_eq_left]

/-- After the `D2D` stage exactly those Prisms are fenced that were, or one of whose two links is down. -/
theorem isFenced_fenceLinks (s : State) (n : Fin 4) : isFenced 2 n.val (fenceLinks s) =
    (isFenced 2 n.val s || s.d2d.working[(finOf n.val : Fin 9)] == 0 || s.d2d.working[(finOf (n.val + 5) : Fin 9)] == 0) := by
  rw [fenceLinks_eq, isFenced, (foldl_fenceLink (fins 9) s).2 n.val n.isLt, any_link_of_prism, isFenced, Bool.or_assoc]

theorem fenceLinks_d2d (s : State) : (fenceLinks s).d2d = s.d2d := (foldl_fenceLink (fins 9) s).1

/-! ### The fence map (R452, R453) -/

@[simp] theorem writeFence_selftest (g : FenceMap → FenceMap) (s : State) :
    (writeFence g s).jrn.fence.selftest = (g s.jrn.fence).selftest := by
  simp only [writeFence, settleBad]
  split <;> rfl

/-- The map holds the failures of the last self-test, whether or not they change it. -/
theorem changeFence_selftest (m : BitVec 12) (s : State) :
    (changeFence (fun x => { x with selftest := m }) s).jrn.fence.selftest = m := by
  unfold changeFence
  split
  · next h => exact (congrArg FenceMap.selftest h).symm
  · exact writeFence_selftest ..

@[simp] theorem changeFence_health (g : FenceMap → FenceMap) (s : State) : (changeFence g s).health = s.health := by
  unfold changeFence; split <;> simp

/-! ### Stage entries -/

@[simp] theorem setStage_phase (e : Fin 22) (st : StageStatus) (fails : Nat) (s : State) :
    (setStage e st fails s).phase = s.phase := rfl

theorem stageRuns_booting {e : Fin 22} {s : State} (h : stageRuns e s = true) : s.phase = .booting := by
  simp only [stageRuns, Bool.and_eq_true, beq_iff_eq] at h
  exact h.1

/-- A required stage that fails makes a warm reset with source 0x07 (R58). -/
theorem failReset_cause {s : State} (e : Fin 22) (h : s.phase = .booting) :
    (failReset e s).phase = .inReset ∧ (failReset e s).aon.kind = 2 ∧ (failReset e s).aon.source = 0x07 := by
  have hp : (failStage e s).phase = .booting := (setStage_phase ..).trans h
  exact triggerReset_cause (by rw [hp]; decide) (by rw [hp]; decide) kindWarm 0x07

/-! ### `IMAGE` (R80, R82, R88) -/

/-- The state in which SEC has read the active slot on the primary path: sections 0x01 and 0x06 are in Apex SRAM, the identity is
judged, and the SVNs are those it found. -/
def imageRead (a b : ImageReport) (ia ib : Bool) (s : State) : State :=
  let f := slotFacts s.sec s.jrn.boot.activeB a
  let g := slotFacts s.sec (!s.jrn.boot.activeB) b
  { s with sec := { loadApex f s.sec with
    identDown := identityLost ia ib s.sec
    svnA := if s.jrn.boot.activeB then g.svn else f.svn
    svnB := if s.jrn.boot.activeB then f.svn else g.svn } }

/-- On the primary path the active image runs where it verifies. -/
theorem exec_imageStageEnd {s : State} {a b : ImageReport} {ia ib : Bool} (hr : stageRuns 3 s = true) (h0 : failsOf 3 s = 0)
    (hv : (slotFacts s.sec s.jrn.boot.activeB a).verifies = true) : exec (.imageStageEnd a b ia ib) s =
      .next (advanceBoot 3 (setStage 3 .ok 0 (runImage s.jrn.boot.activeB (slotFacts s.sec s.jrn.boot.activeB a)
        (imageRead a b ia ib s)))) := by
  have hprimary : decide (1 ≤ failsOf 3 s) = false := by rw [h0]; rfl
  show execImageStageEnd a b ia ib s = _
  simp only [execImageStageEnd, hr, hprimary, hv, Bool.bne_false, Bool.not_true, Bool.false_eq_true, if_false, if_true]
  rw [← h0]
  rfl

@[simp] theorem passSlot_identDown (b : Bool) (svn : Nat) (x : Sec) : (passSlot b svn x).identDown = x.identDown := by
  cases b <;> rfl

@[simp] theorem passSlot_apex (b : Bool) (svn : Nat) (x : Sec) : (passSlot b svn x).apex = x.apex := by
  cases b <;> rfl

/-- The image is recorded as the running one with its sections (R80, R82), and what else SEC holds but its slots and
measurements stays. -/
theorem runImage_sec (b : Bool) (f : SlotFacts) (s : State) :
    (runImage b f s).sec.running = some ⟨b, f.keySlot, f.svn, f.version⟩ ∧
      (runImage b f s).sec.sections = f.sections.map (fun y => (y.1, sha256N y.2)) ∧
      (runImage b f s).sec.identDown = s.sec.identDown ∧ (runImage b f s).sec.apex = s.sec.apex := by
  simp only [runImage, extendMeas, recordSections, passSlot_identDown, passSlot_apex, and_self]

/-- Measurement register 2 takes the image, and what extends the registers after it leaves it (R88). -/
theorem runImage_meas2 (b : Bool) (f : SlotFacts) (s : State) : (runImage b f s).sec.meas[(1 : Fin 5)] = f.meas2 := by
  simp only [runImage, extendMeas]
  rw [vupd_ne _ _ _ _ (by decide), vupd_ne _ _ _ _ (by decide), vupd_self]

/-! ### `VARLUX` (R447) -/

@[simp] theorem raiseAlert_replaceReq (k : Nat) (s : State) : (raiseAlert k s).smb.replaceReq = s.smb.replaceReq := by
  unfold raiseAlert; split <;> rfl

/-- The sideband's copy of `REPLACE_REQ` follows its record. -/
def showReplace (s : State) : State :=
  if s.smb.replaceReq = s.jrn.hst.replaceReq then s
  else raiseEvent evReplace (raiseAlert alReplace { s with smb.replaceReq := s.jrn.hst.replaceReq })

theorem showReplace_replaceReq (s : State) : (showReplace s).smb.replaceReq = s.jrn.hst.replaceReq := by
  unfold showReplace
  split
  · assumption
  · rw [raiseEvent_smb, raiseAlert_replaceReq]

/-! ### The ends of the stages -/

section
variable {s : State}

theorem exec_varluxStageEnd (hr : stageRuns 4 s = true) :
    exec (.varluxStageEnd .ok) s = .next (advanceBoot 4 (setStage 4 .ok 0 (showReplace s))) :=
  congrArg Host.Outcome.next (if_neg (by simp [hr]))

theorem exec_clocksStageEnd (hr : stageRuns 5 s = true) (m : BitVec 4) : exec (.clocksStageEnd m .ok) s =
    .next (advanceBoot 5 (setStage 5 .ok 0 (((fins 4).filter fun n => m.getLsbD n.val).foldl (fun t n => bootFence 2 n.val t) s))) :=
  congrArg Host.Outcome.next (if_neg (by simp [hr]))

/-- With a module of Lattice-Vertex working the stage succeeds, whatever Prisms it fences. -/
theorem exec_d2dStageEnd (hr : stageRuns 6 s = true) {w : List Nat} (hw : (trainedLinks w)[(4 : Fin 9)] ≠ 0) :
    exec (.d2dStageEnd w) s = .next (advanceBoot 6 (setStage 6 .ok 0 (fenceLinks { s with d2d.working := trainedLinks w }))) := by
  have hup : ¬ (fenceLinks { s with d2d.working := trainedLinks w }).d2d.working[(4 : Fin 9)] = 0 := by
    rw [fenceLinks_d2d]; exact hw
  show execD2dStageEnd w s = _
  simp only [execD2dStageEnd, hr, Bool.not_true, Bool.false_eq_true, if_false, if_neg hup, passStage]

end

theorem sectionHolds_holdDest {type : Nat} {stream : Option (List Byte)} {s : State} (h : sectionHolds type stream s = true)
    (e : Fin 22) : holdDest e type stream s = s := if_pos h

theorem withSection_of_holds {type : Nat} {stream : Option (List Byte)} {s : State} (h : sectionHolds type stream s = true)
    (r : StageResult) : withSection type stream r s = r := if_pos h

/-- A Prism whose path succeeds ends its stage OK, or OK_ALT after full training (R308). -/
theorem exec_memStageEnd {s t : State} {n : Fin 4} {fp : BitVec 8} {stream : Option (List Byte)}
    (hr : stageRuns (finOf (7 + n.val)) s = true) (hs : sectionHolds 2 stream s = true) (hm : runMem n .ok fp s = some t) :
    exec (.memStageEnd n .ok fp stream) s = .next (advanceBoot (finOf (7 + n.val))
      (setStage (finOf (7 + n.val)) (if memPath n s = .full then .okAlt else .ok) 0 t)) := by
  show execMemStageEnd n .ok fp s stream = _
  simp only [execMemStageEnd, hr, sectionHolds_holdDest hs, withSection_of_holds hs, hm, Bool.not_true, Bool.false_eq_true, if_false]

/-- The columns that fail their self-test are recorded and fenced (R453). -/
theorem exec_latticeStageEnd_ok {s : State} {m : BitVec 12} {stream : Option (List Byte)} (hr : stageRuns 11 s = true)
    (hs : sectionHolds 4 stream s = true) (h0 : failsOf 11 s = 0) : exec (.latticeStageEnd .ok m stream) s =
      .next (advanceBoot 11 (setStage 11 .ok 0 (((List.range 12).filter fun c => m.getLsbD c).foldl (fun t c => bootFence 0 c t)
        (changeFence (fun x => { x with selftest := m }) s)))) := by
  have hprimary : decide (1 ≤ failsOf 11 s) = false := by rw [h0]; rfl
  show execLatticeStageEnd .ok m s stream = _
  simp only [execLatticeStageEnd, hr, sectionHolds_holdDest hs, withSection_of_holds hs, hprimary, Bool.not_true, Bool.false_eq_true,
    if_false, passStage]

/-- Microcode that does not hash to its recorded value is a failure of the stage, whatever it reports (R81). -/
theorem exec_latticeStageEnd_mismatch {s : State} {m : BitVec 12} {stream : Option (List Byte)} (hr : stageRuns 11 s = true)
    (hs : sectionHolds 4 stream s = false) (r : StageResult) :
    exec (.latticeStageEnd r m stream) s = .next (failReset 11 { s with sec.held := s.sec.held ++ [11] }) := by
  have hhold : holdDest 11 4 stream s = { s with sec.held := s.sec.held ++ [11] } := if_neg (by simp [hs])
  have hfail : withSection 4 stream r { s with sec.held := s.sec.held ++ [11] } = .fail := if_neg (fun h => by
    have : sectionHolds 4 stream s = true := h
    simp [this] at hs)
  show execLatticeStageEnd r m s stream = _
  simp only [execLatticeStageEnd, hr, hhold, hfail, Bool.not_true, Bool.false_eq_true, if_false]

/-- Settles O45: each stage's end by its own lemma, and the fences of a mask as the mask added to those in force. -/
theorem requiredStagesComplete : Obligations.RequiredStagesComplete := by
  unfold Obligations.RequiredStagesComplete
  refine fun s => ⟨fun a b ia ib f hr h0 hf hv => ?image, fun hr => ?varlux, fun m hr => ?clocks, fun w hr hw => ?d2d,
    fun n fp t stream hr hs hm => exec_memStageEnd hr hs hm, fun m stream hr => ⟨fun hs h0 => ?lattice, fun hs r => ?mismatch⟩⟩
  case image =>
    subst hf
    obtain ⟨hrun, hsec, hident, hapex⟩ :=
      runImage_sec s.jrn.boot.activeB (slotFacts s.sec s.jrn.boot.activeB a) (imageRead a b ia ib s)
    refine ⟨_, exec_imageStageEnd hr h0 hv, hrun, runImage_meas2 .., hident, hsec, fun hreach => ?_⟩
    rw [hapex]
    simp only [imageRead, loadApex, hreach, if_true]
  case varlux => exact ⟨_, exec_varluxStageEnd hr, showReplace_replaceReq s⟩
  case clocks => exact ⟨_, exec_clocksStageEnd hr m, foldl_bootFence_prisms m s⟩
  case d2d => exact ⟨_, exec_d2dStageEnd hr hw, congrArg D2d.working (fenceLinks_d2d _), isFenced_fenceLinks _⟩
  case lattice =>
    refine ⟨_, exec_latticeStageEnd_ok hr hs h0, ?_, ?_⟩
    · rw [foldl_bootFence_columns, changeFence_health]
    · rw [foldl_bootFence_jrn, changeFence_selftest]
  case mismatch =>
    obtain ⟨hphase, -, hsource⟩ := failReset_cause (s := { s with sec.held := s.sec.held ++ [11] }) 11 (stageRuns_booting hr)
    exact ⟨_, exec_latticeStageEnd_mismatch hr hs r, hphase, hsource⟩

end Sys2Proof.Machine
end

section
/-! The end of the boot (R54, R58, R61) and the die-to-die links of a running module (R19, R20). -/

namespace Sys2Proof.Machine

/-! ### How the boot ends -/

/-- What the end of a boot decides: the phase, `ACCEPT` and `READY`, `SB_STATE.STATE`, and the watchdog's single-stage mode. -/
def bootEnd (s : State) : Phase × Bool × Bool × BitVec 3 × Bool :=
  (s.phase, s.mbx.accept, s.mbx.ready, s.smb.state, s.aon.wdtBoot)

@[simp] theorem sendMsix_accept (v : BitVec 4) (s : State) : (sendMsix v s).mbx.accept = s.mbx.accept := by
  unfold sendMsix; split <;> rfl

@[simp] theorem sendMsix_ready (v : BitVec 4) (s : State) : (sendMsix v s).mbx.ready = s.mbx.ready := by
  unfold sendMsix; split <;> rfl

@[simp] theorem raiseEvent_accept (k : Nat) (s : State) : (raiseEvent k s).mbx.accept = s.mbx.accept := by
  simp only [raiseEvent, setEvents]; split <;> simp

@[simp] theorem raiseEvent_ready (k : Nat) (s : State) : (raiseEvent k s).mbx.ready = s.mbx.ready := by
  simp only [raiseEvent, setEvents]; split <;> simp

@[simp] theorem raiseAlert_state (k : Nat) (s : State) : (raiseAlert k s).smb.state = s.smb.state := by
  unfold raiseAlert; split <;> rfl

@[simp] theorem setFault_state (b : Bool) (s : State) : (setFault b s).smb.state = s.smb.state := by
  unfold setFault; split <;> simp

@[simp] theorem setSbState_state (v : BitVec 3) (s : State) : (setSbState v s).smb.state = v := by
  have halert : (if s.smb.state = v then s else raiseAlert alState { s with smb.state := v }).smb.state = v := by
    split
    · assumption
    · rw [raiseAlert_state]
  unfold setSbState
  dsimp only
  split
  · exact halert
  · rw [raiseEvent_smb]; exact halert

@[simp] theorem bootEnd_raiseEvent (k : Nat) (s : State) : bootEnd (raiseEvent k s) = bootEnd s := by simp [bootEnd]

@[simp] theorem bootEnd_logHealth (kind : Byte) (unit ix info : Nat) (s : State) :
    bootEnd (logHealth kind unit ix info s) = bootEnd s := by simp [bootEnd]

@[simp] theorem bootEnd_writeHst (s : State) : bootEnd (writeHst s) = bootEnd s := by simp [bootEnd]

@[simp] theorem bootEnd_settleSideband (s : State) : bootEnd (settleSideband s) = bootEnd s := by
  simp [bootEnd, settleSideband]

@[simp] theorem bootEnd_evalProposal (s : State) : bootEnd (evalProposal s) = bootEnd s := by
  unfold evalProposal
  split
  · rfl
  · split
    · rfl
    · split
      · rw [bootEnd_writeHst]; rfl
      · split
        · rfl
        · rw [bootEnd_raiseEvent, bootEnd_logHealth, bootEnd_writeHst]; rfl

/-- A score that is published changes nothing of it. -/
@[simp] theorem bootEnd_publishScore (s : State) : bootEnd (publishScore s) = bootEnd s := by
  have hevent : ∀ (c : Prop) [Decidable c] (t : State), bootEnd (if c then raiseEvent evHealth t else t) = bootEnd t := by
    intro c _ t; split <;> simp
  unfold publishScore
  dsimp only
  split
  · rw [bootEnd_evalProposal, hevent]; rfl
  · rw [hevent]; rfl

@[simp] theorem writeWdtCtrl_wdtBoot (v : W32) (a : Aon) : (writeWdtCtrl v a).wdtBoot = v.getLsbD 18 := by
  unfold writeWdtCtrl
  dsimp only
  split <;> rfl

/-- At the end of the boot the watchdog leaves its single-stage mode, with a period of a second (R54). -/
theorem setWdt_second (s : State) : (setWdt 1000 false s).aon.wdtBoot = false := writeWdtCtrl_wdtBoot ..

/-- `READY` with the floor met ends the boot ready, answering commands (R61). -/
theorem bootEnd_endReady (s : State) : bootEnd (endReady s) = (.ready, true, true, 3, false) := by
  unfold endReady
  dsimp only
  rw [bootEnd_settleSideband, bootEnd_publishScore]
  simp only [bootEnd, settleDegraded, setSbState_phase, setSbState_state, setSbState_aon, setWdt_second]
  rfl

/-- Below the floor the boot ends in the below-floor state, answering commands (R61). -/
theorem bootEnd_endBelow (s : State) : ∃ ready, bootEnd (endBelow s) = (.belowFloor, true, ready, 4, false) := by
  unfold endBelow
  dsimp only
  rw [bootEnd_settleSideband, bootEnd_publishScore, bootEnd_logHealth]
  simp only [bootEnd, settleDegraded, setSbState_phase, setSbState_state, setSbState_aon, setWdt_second]
  exact ⟨_, rfl⟩

/-- `FAULT` follows its condition (R459). -/
theorem settleSideband_fault (s : State) : (settleSideband s).pins.fault = faultCond s := by
  simp only [settleSideband, setFault]
  split
  · assumption
  · simp only [raiseAlert]
    split <;> rfl

/-- The sideband shows `FAULT` below the floor (R459). -/
theorem endBelow_fault (s : State) : (endBelow s).pins.fault = true := by
  obtain ⟨_, hend⟩ := bootEnd_endBelow s
  simp only [endBelow, bootEnd_settleSideband] at hend ⊢
  simp only [bootEnd, Prod.mk.injEq] at hend
  rw [settleSideband_fault, faultCond, hend.1]

/-! ### `READY` -/

section
variable {s : State} (hr : stageRuns 21 s = true)
include hr

theorem exec_readyStage_ready (hf : floorOk s = true) : exec (.readyStage .ok) s = .next (endReady (setStage 21 .ok 0 s)) := by
  show execReadyStage .ok s = _
  simp only [execReadyStage, hr, hf, Bool.not_true, Bool.false_eq_true, if_false, if_true]

/-- A failed floor check is no stage failure: the boot ends below the floor (R58, R61). -/
theorem exec_readyStage_below (hf : floorOk s = false) :
    exec (.readyStage .ok) s = .next (endBelow (setStage 21 .failed (failsOf 21 s) s)) := by
  show execReadyStage .ok s = _
  simp only [execReadyStage, hr, hf, Bool.not_true, Bool.false_eq_true, if_false]

theorem exec_readyStage_fail : exec (.readyStage .fail) s = .next (failReset 21 s) := by
  show execReadyStage .fail s = _
  simp only [execReadyStage, hr, Bool.not_true, Bool.false_eq_true, if_false]

end

/-! ### Replays (R19) -/

/-- The replay is noted with its time, beside those of the 1 ms before it. -/
theorem noteReplay_recent (l : Fin 9) (k : Fin 4) (s : State) : (l, k, now s) ∈ (noteReplay l k s).d2d.recent ∧
    ∀ x ∈ s.d2d.recent, (now s).toNat < x.2.2.toNat + 1000 → x ∈ (noteReplay l k s).d2d.recent := by
  simp only [noteReplay]
  refine ⟨List.mem_append_right _ (List.mem_singleton.2 rfl), fun x hx hlate => ?_⟩
  refine List.mem_append_left _ (List.mem_filter.2 ⟨hx, ?_⟩)
  simp [hlate]

/-- A flit that fails its check on a working module is replayed; the replay is counted and is evidence of class 0x12. -/
theorem exec_d2dFlitCheckFail {l : Fin 9} {k : Fin 4} {s : State} (ht : d2dTrained s = true) (hk : k.val < s.d2d.working[l]) :
    exec (.d2dFlitCheckFail l k) s =
      .next (noteReplay l k (counter 0 1 (evidence 0x12 1 { s with d2d.replays := s.d2d.replays + 1 }))) := by
  have hworks : (d2dTrained s && decide (k.val < s.d2d.working[l])) = true := by rw [ht, decide_eq_true hk]; rfl
  exact congrArg Host.Outcome.next (if_pos hworks)

/-! ### A link that goes down (R20) -/

theorem linkPrism_lt {l n : Nat} (hl : l < 9) (h : linkPrism l = some n) : n < 4 := by
  unfold linkPrism at h
  split at h
  · injection h; omega
  · split at h
    · cases h
    · injection h; omega

@[simp] theorem unitsOf_publishScore (s : State) : unitsOf (publishScore s) = unitsOf s := by
  have hevent : ∀ (c : Prop) [Decidable c] (t : State), unitsOf (if c then raiseEvent evHealth t else t) = unitsOf t := by
    intro c _ t; split <;> simp
  unfold publishScore
  dsimp only
  split
  · rw [unitsOf_evalProposal, hevent]; rfl
  · rw [hevent]; rfl

@[simp] theorem unitsOf_applyClear (s : State) : unitsOf (applyClear s) = unitsOf s := by
  unfold applyClear
  split
  · simp [unitsOf, zeroFails]
  · rfl

/-- The end of the boot below the floor changes no unit. -/
@[simp] theorem unitsOf_endBelow (s : State) : unitsOf (endBelow s) = unitsOf s := by
  unfold endBelow
  dsimp only
  rw [unitsOf_settleSideband, unitsOf_publishScore, unitsOf_logHealth]
  exact (unitsOf_setSbState ..).trans (unitsOf_applyClear s)

theorem unitsOf_degraded (b : Bool) (s : State) : unitsOf { s with smb.degraded := b } = unitsOf s := rfl

/-- A Prism fenced while the device runs: the fence flag is all that changes among the units (R451). -/
theorem unitsOf_fenceUnit_prism {n : Nat} {s : State} (h : isFenced 2 n s = false) :
    unitsOf (fenceUnit 2 n s) = unitsOf (setFenced 2 n s) := by
  unfold fenceUnit
  rw [h, if_neg Bool.false_ne_true]
  dsimp only
  rw [unitsOf_checkFloor, unitsOf_raiseEvent, unitsOf_logHealth, unitsOf_degraded]
  exact unitsOf_losePrism ..

theorem fenceUnit_prism_d2d (n : Nat) (s : State) : (fenceUnit 2 n s).d2d = s.d2d := by
  cases h : isFenced 2 n s
  · exact (unitsOf_d2d (unitsOf_fenceUnit_prism h)).trans (setFenced_d2d ..)
  · rw [fenceUnit, if_pos h]

theorem fenceUnit_prisms (n : Nat) (s : State) : (fenceUnit 2 n s).health.prisms = setBit s.health.prisms n true := by
  cases h : isFenced 2 n s
  · exact unitsOf_prisms (unitsOf_fenceUnit_prism h)
  · rw [fenceUnit, if_pos h]
    exact (setBit_eq_self h).symm

/-- A link that is down leaves every link's modules as they are. -/
theorem linkDown_d2d (l : Fin 9) (s : State) : (linkDown l s).d2d = s.d2d := by
  unfold linkDown
  split
  · split
    · exact bootFence_d2d ..
    · exact fenceUnit_prism_d2d ..
  · split
    · exact unitsOf_d2d (unitsOf_endBelow s)
    · split
      · exact unitsOf_d2d (unitsOf_enterBelowFloor s)
      · rfl

/-- It fences the Prism that it joins. -/
theorem linkDown_fences {l : Fin 9} {n : Nat} (s : State) (h : linkPrism l.val = some n) :
    (linkDown l s).health.prisms.getLsbD n = true := by
  have hn : n < 4 := linkPrism_lt l.isLt h
  have hset : (setBit s.health.prisms n true).getLsbD n = true := by rw [getLsbD_setBit]; simp [hn]
  simp only [linkDown, h]
  split
  · rw [bootFence_prisms, hset]
  · rw [fenceUnit_prisms, hset]

/-- The state in which a module has left its link: the link has one module less, and those above it move down. -/
def dropModule (l : Fin 9) (k : Fin 4) (s : State) : State :=
  { s with d2d.working := vupd s.d2d.working l fun n => n - 1, d2d.recent := closeGap l k s.d2d.recent }

theorem dropModule_working (l : Fin 9) (k : Fin 4) (s : State) : (dropModule l k s).d2d.working[l] = s.d2d.working[l] - 1 :=
  vupd_self ..

section
variable {l : Fin 9} {k : Fin 4} {s : State}

/-- A module with too many replays leaves its link, which goes down with its last module (R19, R20). -/
theorem exec_d2dModuleRemove (ht : d2dTrained s = true) (hk : k.val < s.d2d.working[l]) (hr : 1024 < replaysOf l k s) :
    exec (.d2dModuleRemove l k) s =
      .next (if (dropModule l k s).d2d.working[l] = 0 then linkDown l (dropModule l k s) else dropModule l k s) := by
  have hworn : (d2dTrained s && decide (k.val < s.d2d.working[l]) && decide (1024 < replaysOf l k s)) = true := by
    rw [ht, decide_eq_true hk, decide_eq_true hr]; rfl
  exact congrArg Host.Outcome.next (if_pos hworn)

theorem exec_d2dModuleRemove_stays (hr : replaysOf l k s ≤ 1024) : exec (.d2dModuleRemove l k) s = .next s := by
  have hwell : ¬ (d2dTrained s && decide (k.val < s.d2d.working[l]) && decide (1024 < replaysOf l k s)) = true := by
    simp [Nat.not_lt.2 hr]
  exact congrArg Host.Outcome.next (if_neg hwell)

end

/-- Settles O46: `READY` by its three ends, and a die-to-die link by the replay that is noted and the module that is dropped. -/
theorem readyAndDieToDieLinks : Obligations.ReadyAndDieToDieLinks := by
  unfold Obligations.ReadyAndDieToDieLinks
  refine ⟨fun s hr => ⟨fun hf => ?ready, fun hf => ?below, ?fail⟩,
    fun l k s ht hk => ⟨?replay, fun hw => ?remove, fun hw => exec_d2dModuleRemove_stays hw⟩⟩
  case ready =>
    refine ⟨_, exec_readyStage_ready hr hf, ?_⟩
    simpa only [bootEnd, Prod.mk.injEq] using bootEnd_endReady (setStage 21 .ok 0 s)
  case below =>
    obtain ⟨_, hend⟩ := bootEnd_endBelow (setStage 21 .failed (failsOf 21 s) s)
    simp only [bootEnd, Prod.mk.injEq] at hend
    obtain ⟨hphase, haccept, -, hstate, -⟩ := hend
    exact ⟨_, exec_readyStage_below hr hf, hphase, haccept, hstate, endBelow_fault _⟩
  case fail => exact ⟨_, exec_readyStage_fail hr, failReset_cause 21 (stageRuns_booting hr)⟩
  case replay => exact ⟨_, exec_d2dFlitCheckFail ht hk, rfl, rfl, counter_counters 0 1 _, noteReplay_recent l k _⟩
  case remove =>
    refine ⟨_, exec_d2dModuleRemove ht hk hw, ?_, fun n h1 hn => ?_⟩
    · split
      · exact (congrArg (fun d : D2d => d.working[l]) (linkDown_d2d ..)).trans (dropModule_working l k s)
      · exact dropModule_working l k s
    · have h0 : (dropModule l k s).d2d.working[l] = 0 := by rw [dropModule_working, h1]
      rw [if_pos h0]
      exact linkDown_fences _ hn

end Sys2Proof.Machine
end

section
/-! Powered time and the watchdog (R44, R49, R54). -/

namespace Sys2Proof.Machine

/-- The first expiry, of a period that is over in the two-stage mode: a further period begins. -/
theorem exec_wdtFirstExpiry {s : State} (hp : periodOver s = true) (hb : s.aon.wdtBoot = false) (he : s.aon.expired1 = false) :
    exec .wdtFirstExpiry s =
      .next (counter 16 1 { s with aon.expired1 := true, aon.nmi := true, aon.wdtStart := s.aon.ptime }) := by
  have hfirst : (periodOver s && !s.aon.wdtBoot && !s.aon.expired1) = true := by rw [hp, hb, he]; rfl
  exact congrArg Host.Outcome.next (if_pos hfirst)

/-- `AON_WDT_CTRL` takes a period in its range and keeps the one it has otherwise. -/
theorem writeWdtCtrl_periodMs (v : W32) (a : Aon) : (writeWdtCtrl v a).periodMs =
    if 10 ≤ (v.truncate 16 : W16).toNat ∧ (v.truncate 16 : W16).toNat ≤ 20000 then v.truncate 16 else a.periodMs := by
  unfold writeWdtCtrl
  cases v.getLsbD 17 <;> simp [clearExpired]

/-- `EN` is only ever set. -/
theorem writeWdtCtrl_wdtEn (v : W32) (a : Aon) : (writeWdtCtrl v a).wdtEn = (a.wdtEn || v.getLsbD 16) := by
  unfold writeWdtCtrl
  cases v.getLsbD 17 <;> rfl

/-- `EXPIRED1` is cleared by a write of 1 to it. -/
theorem writeWdtCtrl_expired1 (v : W32) (a : Aon) : (writeWdtCtrl v a).expired1 = (a.expired1 && !v.getLsbD 17) := by
  unfold writeWdtCtrl
  cases v.getLsbD 17 <;> simp [clearExpired]

/-- Powered time is no field of it. -/
theorem writeWdtCtrl_ptime (v : W32) (a : Aon) : (writeWdtCtrl v a).ptime = a.ptime := by
  unfold writeWdtCtrl
  cases v.getLsbD 17 <;> rfl

theorem writeWdtKick_of_ne {v : W32} (hv : v ≠ 0x0000C35A) (a : Aon) : writeWdtKick v a = a := if_neg hv

/-! ### The registers of the AON block, which Apex reaches (R49) -/

section
variable {s : State} (ha : apexRuns s = true)
include ha

theorem exec_aonWdtCtrlWrite (v : W32) : exec (.aonWdtCtrlWrite v) s = .next { s with aon := writeWdtCtrl v s.aon } :=
  congrArg Host.Outcome.next (if_pos ha)

theorem exec_aonWdtKick (v : W32) : exec (.aonWdtKick v) s = .next { s with aon := writeWdtKick v s.aon } :=
  congrArg Host.Outcome.next (if_pos ha)

theorem exec_aonPtimeLoRead : exec .aonPtimeLoRead s =
    .next (emit (.read (s.aon.ptime &&& 0xFFFFFFFF)) { s with aon.ptimeHi := (s.aon.ptime >>> 32).truncate 32 }) :=
  congrArg Host.Outcome.next (if_pos ha)

end

/-- Settles O42: the tick, the first expiry, and each register of the AON block by its own rule. -/
theorem poweredTimeAndWatchdog : Obligations.PoweredTimeAndWatchdog := by
  unfold Obligations.PoweredTimeAndWatchdog
  refine fun s => ⟨fun hp => ?tick, fun hp hb he => ?first, fun ha => ⟨fun v => ?ctrl, ?kick, fun v hv => ?other, ?latch⟩⟩
  case tick => exact congrArg Host.Outcome.next (if_pos hp)
  case first => exact ⟨_, exec_wdtFirstExpiry hp hb he, counter_aon .., counter_phase ..⟩
  case ctrl =>
    exact ⟨exec_aonWdtCtrlWrite ha v, writeWdtCtrl_periodMs v _, writeWdtCtrl_wdtEn v _, writeWdtCtrl_wdtBoot v _,
      writeWdtCtrl_expired1 v _⟩
  case kick => exact exec_aonWdtKick ha _
  case other => rw [exec_aonWdtKick ha, writeWdtKick_of_ne hv]
  case latch => exact exec_aonPtimeLoRead ha

end Sys2Proof.Machine
end

section
/-! The triggers of a module reset, and what a reset does to the Prisms (R50 to R54, R69, R70, R92, R485). -/

namespace Sys2Proof.Machine

/-! ### What a trigger leaves -/

@[simp] theorem sendMsix_resetPending (v : BitVec 4) (s : State) : (sendMsix v s).mbx.resetPending = s.mbx.resetPending := by
  unfold sendMsix; split <;> rfl

@[simp] theorem setEvents_resetPending (ev en : BitVec 7) (s : State) :
    (setEvents ev en s).mbx.resetPending = s.mbx.resetPending := by
  simp only [setEvents]; split <;> simp

/-- A new `SB_STATE` sends its event through the mailbox, and leaves a `DEVICE_RESET` to come. -/
@[simp] theorem setSbState_resetPending (v : BitVec 3) (s : State) :
    (setSbState v s).mbx.resetPending = s.mbx.resetPending := by
  have halert : (if s.smb.state = v then s else raiseAlert alState { s with smb.state := v }).mbx = s.mbx := by
    split <;> simp
  unfold setSbState
  dsimp only
  split
  · rw [halert]
  · simp only [raiseEvent, setEvents_resetPending, halert]

/-- `FAULT` has the level that it takes. -/
@[simp] theorem setFault_fault (b : Bool) (s : State) : (setFault b s).pins.fault = b := by
  unfold setFault
  split
  · assumption
  · unfold raiseAlert; split <;> rfl

/-- What a reset of a kind, from a source, holds of the module `s` that it found (R50 to R53, R70). -/
structure ResetFrom (kind : BitVec 2) (source : Byte) (s u : State) : Prop where
  phase : u.phase = .inReset
  aon : u.aon = aonAtReset kind source s.aon
  fault : u.pins.fault = true
  spareRdy : u.pins.spareRdy = false
  sbState : u.smb.state = 1
  facets : u.facets = Vector.replicate 96 {}
  sectors : u.sectors = Vector.replicate 4 {}
  mbx : u.mbx = { resetPending := u.mbx.resetPending }
  boot : u.jrn.boot = s.jrn.boot
  pending : u.mbx.resetPending ≠ none →
    kind = kindWarm ∧ u.mbx.resetPending = some false ∧ s.mbx.resetPending = some false
  lifecycle : u.sec.lifecycle = s.sec.fuses.lifecycle
  keyRevoked : u.sec.keyRevoked = s.sec.fuses.keyRevoked
  fuseSvn : u.sec.fuseSvn = s.sec.fuses.svn
  srEntry : u.srEntry = if kind = kindWarm then s.mem.trained else 0
  cells : u.mem.cells = if kind = kindWarm then s.mem.cells else []

/-- What `dropVolatile` leaves pending is a cold `DEVICE_RESET`, and only within a warm reset (R52, R121). -/
theorem dropVolatile_resetPending {warm : Bool} {s : State} (h : (dropVolatile warm s).mbx.resetPending ≠ none) :
    warm = true ∧ (dropVolatile warm s).mbx.resetPending = some false ∧ s.mbx.resetPending = some false := by
  have hcond : (warm && resetAnswered s && s.mbx.resetPending == some false) = true := by
    by_contra hno
    exact h (if_neg hno)
  have hleft : (dropVolatile warm s).mbx.resetPending = some false := if_pos hcond
  simp only [Bool.and_eq_true, beq_iff_eq] at hcond
  obtain ⟨⟨hwarm, -⟩, hfound⟩ := hcond
  exact ⟨hwarm, hleft, hfound⟩

/-- The module as a reset finds it once it has departed: `FAULT` asserted, and `SB_STATE` in reset. -/
def departed (s : State) : State := releasePins (setFault true (setSbState 0b001 (departTokens s)))

theorem beginReset_eq (kind : BitVec 2) (source : Byte) (s : State) : beginReset kind source s =
    { dropVolatile (kind == kindWarm) (departed s) with
      phase := .inReset, aon := aonAtReset kind source (departed s).aon
      srEntry := if kind == kindWarm then s.mem.trained else 0 } := rfl

/-- A departure leaves the AON block, the boot journal, the fuses, LPDDR6 and a `DEVICE_RESET` to come. -/
theorem departed_keeps (s : State) : (departed s).aon = s.aon ∧ (departed s).jrn = s.jrn ∧ (departed s).sec = s.sec ∧
    (departed s).mem = s.mem ∧ (departed s).mbx.resetPending = s.mbx.resetPending := by
  obtain ⟨_, _, hsent⟩ := departTokens_sent s
  simp only [departed, releasePins, setFault_aon, setSbState_aon, setFault_jrn, setSbState_jrn, setFault_sec, setSbState_sec,
    setFault_mem, setSbState_mem, setFault_mbx, setSbState_resetPending, hsent, and_self]

theorem departed_shows (s : State) : (departed s).pins.fault = true ∧ (departed s).pins.spareRdy = false ∧
    (departed s).smb.state = 1 := by
  simp only [departed, releasePins, setFault_fault, setFault_state, setSbState_state, and_self]

theorem beginReset_resetFrom (kind : BitVec 2) (source : Byte) (s : State) :
    ResetFrom kind source s (beginReset kind source s) := by
  obtain ⟨haon, hjrn, hsec, hmem, hpending⟩ := departed_keeps s
  obtain ⟨hfault, hspare, hstate⟩ := departed_shows s
  have hfuses : (departed s).sec.fuses = s.sec.fuses := congrArg Sec.fuses hsec
  rw [beginReset_eq]
  refine ⟨rfl, ?_, hfault, hspare, hstate, rfl, rfl, rfl, ?_, fun h => ?_, ?_, ?_, ?_, ?_, ?_⟩
  · rw [haon]
  · exact congrArg Journal.boot hjrn
  · obtain ⟨hwarm, hleft, hfound⟩ := dropVolatile_resetPending h
    exact ⟨beq_iff_eq.1 hwarm, hleft, hpending ▸ hfound⟩
  · exact congrArg Fuses.lifecycle hfuses
  · exact congrArg Fuses.keyRevoked hfuses
  · exact congrArg Fuses.svn hfuses
  · simp only [beq_iff_eq]
  · simp only [dropVolatile, memAfterReset, hmem, beq_iff_eq]

/-- A trigger that finds the module powered and not in reset begins its reset (R52). -/
theorem triggerReset_begins {s : State} (hu : s.phase ≠ .unpowered) (hi : s.phase ≠ .inReset) (kind : BitVec 2) (source : Byte) :
    triggerReset kind source s = beginReset kind source s := by
  simp only [triggerReset, hu, hi, false_and, if_false]

/-! ### Triggers in a running module (Table 02-4) -/

/-- The triggers with the kind and the source of the reset that each begins, and what must hold for it to come. -/
def Triggers (c : Instr) (kind : BitVec 2) (source : Byte) (s : State) : Prop :=
  (c, kind, source) ∈ [(Instr.perstAsserted, (2 : BitVec 2), (0x02 : Byte)), (.apexFatalError, 2, 0x08), (.secSecurityEvent, 1, 0x0A)] ∨
  (c, kind, source) = (.jtagResetRequest, 1, 0x09) ∧ fullAccess s = true ∨
  (c, kind, source) = (.wdtSecondExpiry, 2, 0x05) ∧ periodOver s = true ∧ s.aon.wdtBoot = false ∧ s.aon.expired1 = true ∨
  (c, kind, source) = (.wdtBootExpiry, 2, 0x06) ∧ periodOver s = true ∧ s.aon.wdtBoot = true

/-- Each trigger begins the reset of its kind and source; `PERST#` alone changes its level with it. -/
theorem exec_triggers {c : Instr} {kind : BitVec 2} {source : Byte} {s : State}
    (hrun : s.phase ∈ [Phase.booting, .recovery, .ready, .belowFloor]) (hc : Triggers c kind source s) :
    ∃ b, exec c s = .next (beginReset kind source { s with pins.perst := b }) := by
  have hu : s.phase ≠ .unpowered := fun h => by simp [h] at hrun
  have hi : s.phase ≠ .inReset := fun h => by simp [h] at hrun
  have ha : apexRuns s = true := by
    have hst : s.phase ≠ .stopped := fun h => by simp [h] at hrun
    simp [apexRuns, hu, hi, hst]
  have hbegin : ∀ {p : Prop} [Decidable p], p → ∀ k src,
      Host.Outcome.next (φ := Fault) (ρ := Refusal) (if p then triggerReset k src s else s) = .next (beginReset k src s) :=
    fun hp k src => congrArg Host.Outcome.next ((if_pos hp).trans (triggerReset_begins hu hi k src))
  simp only [Triggers, List.mem_cons, List.not_mem_nil, or_false, Prod.mk.injEq] at hc
  rcases hc with (⟨rfl, rfl, rfl⟩ | ⟨rfl, rfl, rfl⟩ | ⟨rfl, rfl, rfl⟩) | ⟨⟨rfl, rfl, rfl⟩, hfull⟩ | ⟨⟨rfl, rfl, rfl⟩, hover, hmode, hexp⟩ |
    ⟨⟨rfl, rfl, rfl⟩, hover, hmode⟩
  · exact ⟨true, congrArg Host.Outcome.next (triggerReset_begins (s := { s with pins.perst := true }) hu hi _ _)⟩
  · exact ⟨_, hbegin ha kindWarm 0x08⟩
  · exact ⟨_, congrArg Host.Outcome.next (triggerReset_begins hu hi _ _)⟩
  · exact ⟨_, hbegin hfull kindCold 0x09⟩
  · have hsecond : (periodOver s && !s.aon.wdtBoot && s.aon.expired1) = true := by rw [hover, hmode, hexp]; rfl
    exact ⟨_, hbegin hsecond kindWarm 0x05⟩
  · have hboot : (periodOver s && s.aon.wdtBoot) = true := by rw [hover, hmode]; rfl
    exact ⟨_, hbegin hboot kindWarm 0x06⟩

/-! ### A stopped reference clock (R485) -/

theorem exec_refclkLoss_ready {s : State} (hr : s.phase = .ready) : exec .refclkLoss s =
    .next { dropVolatile true { s with pins.refclk := false } with
      phase := .stopped, mem.trained := s.mem.trained, pins.txIdle := true } := by
  have hfed : ¬ (s.phase = .unpowered ∨ s.phase = .inReset ∨ s.phase = .stopped) := by simp [hr]
  exact congrArg Host.Outcome.next (if_neg hfed)

/-! ### Within a reset (R52, R53; log 79) -/

/-- A warm trigger within a reset is absorbed. -/
theorem triggerReset_absorbed {s : State} (hi : s.phase = .inReset) (source : Byte) : triggerReset kindWarm source s = s := by
  simp [triggerReset, hi]

/-- A cold trigger replaces a warm reset. -/
theorem triggerReset_replaces {s : State} (hi : s.phase = .inReset) (hw : s.aon.kind = kindWarm) (source : Byte) :
    triggerReset kindCold source s = beginReset kindCold source s := by
  have hrank : ¬ (kindCold = kindWarm ∨ s.aon.kind ≠ kindWarm) := by rw [hw]; decide
  simp [triggerReset, hi, hrank]

theorem exec_selfRefreshEntryDone {s : State} {n : Fin 4} (hi : s.phase = .inReset) (hn : s.srEntry.getLsbD n.val = true) :
    exec (.selfRefreshEntryDone n) s = .next { s with srEntry := setBit s.srEntry n.val false
                                                      aon.srDone := setBit s.aon.srDone n.val true
                                                      mem.inSr := setBit s.mem.inSr n.val true } :=
  congrArg Host.Outcome.next (if_pos ⟨hi, hn⟩)

/-- A byte of a Prism that is lost reads zero, and every other byte as before. -/
theorem losePrisms_mget (lost : BitVec 4) (s : State) (x : Nat) :
    mget (losePrisms lost s).mem.cells x = if lost.getLsbD (granule x % 4) then 0 else mget s.mem.cells x := by
  refine (sget_filter 0 s.mem.cells (fun k => !lost.getLsbD (granule k % 4)) x).trans ?_
  cases lost.getLsbD (granule x % 4) <;> rfl

/-- Of the Prisms those stay that are in self-refresh (R53). -/
theorem losePrisms_not_inSr (s : State) (x : Nat) : mget (losePrisms (~~~ s.mem.inSr) s).mem.cells x =
    if s.mem.inSr.getLsbD (granule x % 4) then mget s.mem.cells x else 0 := by
  have hprism : granule x % 4 < 4 := Nat.mod_lt _ (by decide)
  rw [losePrisms_mget, BitVec.getLsbD_not, decide_eq_true hprism, Bool.true_and]
  cases s.mem.inSr.getLsbD (granule x % 4) <;> rfl

/-- Settles O41: a trigger by the reset that it begins, the loss of `REFCLK`, and what comes within a reset. -/
theorem resetsBeginWithTheirCause : Obligations.ResetsBeginWithTheirCause := by
  unfold Obligations.ResetsBeginWithTheirCause
  refine fun s => ⟨fun c kind source hrun hc => ?trigger, fun hr => ⟨_, exec_refclkLoss_ready hr, rfl, rfl, rfl, rfl, rfl⟩,
    fun hi => ⟨?absorbed, fun hw => ?replaced, fun n hn => ⟨_, exec_selfRefreshEntryDone hi hn, rfl, rfl, rfl⟩, ?timeout⟩⟩
  case trigger =>
    obtain ⟨b, hu⟩ := exec_triggers hrun hc
    have hreset := beginReset_resetFrom kind source { s with pins.perst := b }
    exact ⟨_, hu, hreset.phase, hreset.aon, hreset.fault, hreset.spareRdy, hreset.sbState, hreset.facets, hreset.sectors, hreset.mbx,
      hreset.boot, hreset.pending, hreset.lifecycle, hreset.keyRevoked, hreset.fuseSvn, hreset.srEntry,
      fun hwarm => hreset.cells.trans (if_pos hwarm)⟩
  case absorbed => exact congrArg Host.Outcome.next (triggerReset_absorbed (s := { s with pins.perst := true }) hi _)
  case replaced =>
    have hreset := beginReset_resetFrom kindCold 0x0A s
    exact ⟨_, congrArg Host.Outcome.next (triggerReset_replaces hi hw _), hreset.phase, hreset.aon, hreset.srEntry, hreset.cells⟩
  case timeout => exact ⟨_, congrArg Host.Outcome.next (if_pos hi), rfl, losePrisms_not_inSr s⟩

end Sys2Proof.Machine
end

section
/-! The start of a boot (R52, R55, R56, R63, R64, R70, R88) and the ends of its optional stages (R59, R81). -/

namespace Sys2Proof.Machine

/-! ### What a boot keeps of the journal as its `JOURNAL` stage left it (R64) -/

/-- The journal `k` is of the same boot as `j`: its time and its count are the same, a copy marked bad stays marked, and a copy whose
writes never fail is not marked. -/
structure SameBoot (j k : Journal) : Prop where
  ptime : k.boot.bootPtime = j.boot.bootPtime
  count : k.boot.bootCount = j.boot.bootCount
  badA : j.boot.aBad = true → k.boot.aBad = true
  badB : j.boot.bBad = true → k.boot.bBad = true
  goodA : j.lifeA = none → k.lifeA = none ∧ k.boot.aBad = j.boot.aBad
  goodB : j.lifeB = none → k.lifeB = none ∧ k.boot.bBad = j.boot.bBad

/-- Journals that agree in these fields of the boot record and in the fates of the copies. -/
theorem SameBoot.of_eq {j k : Journal} (hptime : k.boot.bootPtime = j.boot.bootPtime) (hcount : k.boot.bootCount = j.boot.bootCount)
    (ha : k.boot.aBad = j.boot.aBad) (hb : k.boot.bBad = j.boot.bBad) (hla : k.lifeA = j.lifeA) (hlb : k.lifeB = j.lifeB) :
    SameBoot j k :=
  ⟨hptime, hcount, ha.trans, hb.trans, fun h => ⟨hla.trans h, ha⟩, fun h => ⟨hlb.trans h, hb⟩⟩

theorem SameBoot.refl (j : Journal) : SameBoot j j := .of_eq rfl rfl rfl rfl rfl rfl

theorem SameBoot.after {i j k : Journal} (g : SameBoot j k) (h : SameBoot i j) : SameBoot i k where
  ptime := g.ptime.trans h.ptime
  count := g.count.trans h.count
  badA := g.badA ∘ h.badA
  badB := g.badB ∘ h.badB
  goodA hi := by
    obtain ⟨hlife, hmark⟩ := h.goodA hi
    exact (g.goodA hlife).imp_right (·.trans hmark)
  goodB hi := by
    obtain ⟨hlife, hmark⟩ := h.goodB hi
    exact (g.goodB hlife).imp_right (·.trans hmark)

/-- A record write marks the copies whose write failed, and counts the writes that the others still take. -/
theorem settleBad_marks (j : Journal) : (settleBad j).boot.aBad = (j.boot.aBad || j.lifeA == some 0) ∧
    (settleBad j).boot.bBad = (j.boot.bBad || j.lifeB == some 0) ∧
    (settleBad j).lifeA = j.lifeA.map (· - 1) ∧ (settleBad j).lifeB = j.lifeB.map (· - 1) := by
  unfold settleBad
  dsimp only
  split
  · next h =>
    obtain ⟨ha, hb⟩ := h
    exact ⟨ha.symm, hb.symm, rfl, rfl⟩
  · exact ⟨rfl, rfl, rfl, rfl⟩

theorem sameBoot_settleBad (j : Journal) : SameBoot j (settleBad j) := by
  obtain ⟨_, _, _, hboot⟩ := settleBad_boot j
  obtain ⟨ha, hb, hla, hlb⟩ := settleBad_marks j
  refine ⟨by rw [hboot], by rw [hboot], fun h => ?_, fun h => ?_, fun h => ?_, fun h => ?_⟩
  · rw [ha, h, Bool.true_or]
  · rw [hb, h, Bool.true_or]
  · rw [hla, ha, h]; simp
  · rw [hlb, hb, h]; simp

/-! ### What a boot's operations leave -/

/-- The input pins that a boot reads as it starts (R55). -/
def bootPins (s : State) : Bool × Bool := (s.pins.perst, s.pins.refclk)

/-- `t` is a later state of the boot of `s`: the same boot in the journal, with SEC and those pins as they were. -/
structure Boots (s t : State) : Prop where
  jrn : SameBoot s.jrn t.jrn
  sec : t.sec = s.sec
  pins : bootPins t = bootPins s

theorem Boots.of_jrn {s t : State} (hj : t.jrn = s.jrn) (hs : t.sec = s.sec) (hp : bootPins t = bootPins s) : Boots s t :=
  ⟨hj ▸ .refl _, hs, hp⟩

theorem Boots.refl (s : State) : Boots s s := .of_jrn rfl rfl rfl

/-- An operation follows others: the last one is named first, as it stands in the model's terms. -/
theorem Boots.after {s t u : State} (g : Boots t u) (h : Boots s t) : Boots s u :=
  ⟨g.jrn.after h.jrn, g.sec.trans h.sec, g.pins.trans h.pins⟩

/-- What changes neither the journal nor SEC nor those pins may follow. -/
theorem Boots.update {s t u : State} (h : Boots s t) (hj : u.jrn = t.jrn) (hs : u.sec = t.sec) (hp : bootPins u = bootPins t) :
    Boots s u := .after (.of_jrn hj hs hp) h

theorem Boots.foldl {α : Type} {g : State → α → State} (hg : ∀ t a, Boots t (g t a)) (l : List α) (s : State) :
    Boots s (l.foldl g s) :=
  List.foldlRecOn l g (Boots.refl s) fun t ht a _ => (hg t a).after ht

theorem Boots.ite {s t u : State} {c : Prop} [Decidable c] (ht : Boots s t) (hu : Boots s u) : Boots s (if c then t else u) := by
  split
  · exact ht
  · exact hu

/-! ### Records and stage entries -/

/-- A write of the boot record that changes its stage entries alone. -/
theorem boots_writeBoot {g : BootRec → BootRec} {v : Vector StageEntry 22} (s : State)
    (hg : g s.jrn.boot = { s.jrn.boot with stage := v }) : Boots s (writeBoot g s) := by
  refine ⟨SameBoot.after (sameBoot_settleBad _) ?_, writeBoot_sec .., rfl⟩
  exact .of_eq (by rw [hg]) (by rw [hg]) (by rw [hg]) (by rw [hg]) rfl rfl

theorem boots_writeFence (g : FenceMap → FenceMap) (s : State) : Boots s (writeFence g s) :=
  ⟨.after (sameBoot_settleBad _) (.of_eq rfl rfl rfl rfl rfl rfl), rfl, rfl⟩

theorem boots_writeHst (s : State) : Boots s (writeHst s) :=
  ⟨.after (sameBoot_settleBad _) (.of_eq rfl rfl rfl rfl rfl rfl), rfl, rfl⟩

theorem boots_changeFence (g : FenceMap → FenceMap) (s : State) : Boots s (changeFence g s) :=
  .ite (.refl s) (boots_writeFence g s)

theorem boots_emit (x : Emit) (s : State) : Boots s (emit x s) := .of_jrn rfl rfl rfl

theorem boots_setStage (e : Fin 22) (st : StageStatus) (fails : Nat) (s : State) : Boots s (setStage e st fails s) :=
  .after (boots_emit ..) (boots_writeBoot s rfl)

theorem boots_applyClear (s : State) : Boots s (applyClear s) := by
  have hdone : ∀ t, Boots t { t with jrn.clearFails := false } := fun _ => ⟨.of_eq rfl rfl rfl rfl rfl rfl, rfl, rfl⟩
  exact .ite (.after (hdone _) (boots_writeBoot s rfl)) (.refl s)

theorem boots_evidence (c n : Nat) (s : State) : Boots s (evidence c n s) :=
  ⟨.of_eq rfl rfl rfl rfl rfl rfl, rfl, rfl⟩

/-! ### Events, alerts and fences -/

theorem boots_raiseEvent (k : Nat) (s : State) : Boots s (raiseEvent k s) :=
  .of_jrn (raiseEvent_jrn ..) (raiseEvent_sec ..) (by simp only [bootPins, raiseEvent_pins])

theorem boots_raiseAlert (k : Nat) (s : State) : Boots s (raiseAlert k s) :=
  .ite (.refl s) (.of_jrn rfl rfl rfl)

/-- The AON block is no part of what a boot keeps. -/
theorem boots_aon (a : Aon) (s : State) : Boots s { s with aon := a } := .of_jrn rfl rfl rfl

theorem boots_setWdt (ms : Nat) (boot : Bool) (s : State) : Boots s (setWdt ms boot s) := boots_aon ..

theorem boots_logHealth (kind : Byte) (unit ix info : Nat) (s : State) : Boots s (logHealth kind unit ix info s) :=
  .of_jrn rfl rfl rfl

theorem boots_setSbState (v : BitVec 3) (s : State) : Boots s (setSbState v s) := by
  have halert : Boots s (if s.smb.state = v then s else raiseAlert alState { s with smb.state := v }) :=
    .ite (.refl s) (.after (boots_raiseAlert ..) (.of_jrn rfl rfl rfl))
  exact .after (.ite (.refl _) (.after (boots_raiseEvent ..) (.of_jrn rfl rfl rfl))) halert

theorem boots_settleSideband (s : State) : Boots s (settleSideband s) := by
  have hfault : Boots s (setFault (faultCond s) s) :=
    .ite (.refl s) (.after (boots_raiseAlert ..) (.of_jrn rfl rfl rfl))
  exact hfault.update rfl rfl rfl

theorem boots_mapFence (unit ix : Nat) (s : State) : Boots s (mapFence unit ix s) := by
  have hfenced : Boots s (setFenced unit ix s) := by
    unfold setFenced
    split <;> exact .of_jrn rfl rfl rfl
  exact hfenced.update rfl rfl rfl

theorem boots_mapFences (unit count : Nat) (held : Nat → Bool) (s : State) : Boots s (mapFences unit count held s) :=
  .foldl (fun t k => boots_mapFence unit k t) _ s

theorem boots_bootFence (unit ix : Nat) (s : State) : Boots s (bootFence unit ix s) :=
  .ite (.refl s) (.after (boots_raiseEvent ..) (.after (boots_logHealth ..) (boots_mapFence unit ix s)))

/-! ### The ends of a boot -/

theorem boots_evalProposal (s : State) : Boots s (evalProposal s) := by
  have hcounted : ∀ h x, Boots s { s with health := h, jrn.hst := x } := fun _ _ => ⟨.of_eq rfl rfl rfl rfl rfl rfl, rfl, rfl⟩
  unfold evalProposal
  refine .ite (.refl s) (.ite (.of_jrn rfl rfl rfl) (.ite ?granted (.ite (.refl s) ?refused)))
  case granted => exact .after (boots_writeHst _) (hcounted _ _)
  case refused => exact .after (boots_raiseEvent ..) (.after (boots_logHealth ..) (.after (boots_writeHst _) (hcounted _ _)))

theorem boots_publishScore (s : State) : Boots s (publishScore s) :=
  .after (.ite (boots_evalProposal _) (.refl _)) (.after (.ite (boots_raiseEvent ..) (.refl _)) (.of_jrn rfl rfl rfl))

theorem boots_endBelow (s : State) : Boots s (endBelow s) := by
  have hcleared : Boots s { applyClear s with phase := .belowFloor } := (boots_applyClear s).update rfl rfl rfl
  have hanswers : ∀ t, Boots t (settleDegraded { t with mbx.accept := true }) := fun _ => .of_jrn rfl rfl rfl
  exact .after (boots_settleSideband _) (.after (boots_publishScore _) (.after (boots_logHealth ..)
    (.after (hanswers _) (.after (boots_setSbState ..) (.after (boots_setWdt ..) hcleared)))))

theorem boots_enterRecovery (s : State) : Boots s (enterRecovery s) := by
  have hcleared : Boots s { applyClear s with phase := .recovery } := (boots_applyClear s).update rfl rfl rfl
  exact .after (boots_settleSideband _) (.after (boots_setSbState ..) (.after (boots_setWdt ..) hcleared))

/-! ### The stage engine (R54, R56) -/

theorem boots_markStarted (e : Fin 22) (s : State) : Boots s (markStarted e s) := boots_setStage ..

theorem boots_markSkipped (e : Fin 22) (s : State) : Boots s (markSkipped e s) := boots_setStage ..

theorem boots_modPort (p : Fin 8) (g : FabPort → FabPort) (s : State) : Boots s (modPort p g s) := .of_jrn rfl rfl rfl

theorem boots_startRequired (e : Fin 22) (s : State) : Boots s (startRequired e s) :=
  .ite (boots_endBelow s) (boots_markStarted e s)

theorem boots_startMgmt (p : Nat) (e : Fin 22) (s : State) : Boots s (startMgmt p e s) :=
  .after (.ite (.after (boots_markSkipped ..) (boots_mapFence ..)) (.ite (boots_markSkipped ..) (boots_markStarted ..)))
    (boots_changeFence ..)

theorem boots_startFabric (p : Nat) (e : Fin 22) (s : State) : Boots s (startFabric p e s) :=
  .after (.ite (.after (boots_markSkipped ..) (.after (boots_modPort ..) (boots_mapFence ..)))
    (.ite (.after (boots_markSkipped ..) (.after (boots_modPort ..) (boots_bootFence ..)))
      (.after (boots_markStarted ..) (boots_modPort ..)))) (boots_changeFence ..)

theorem boots_applyMem (n : Fin 4) (s : State) : Boots s (applyMem n s) :=
  .after (.ite (boots_mapFence ..) (.ite (boots_mapFences ..) (.after (boots_mapFences ..) (boots_changeFence ..))))
    (boots_changeFence ..)

theorem boots_startMem (n : Fin 4) (e : Fin 22) (s : State) : Boots s (startMem n e s) :=
  .after (.ite (boots_markSkipped ..) (.ite (.after (boots_markSkipped ..) (boots_bootFence ..)) (boots_markStarted ..)))
    (boots_applyMem n s)

theorem boots_startEntry (s : State) (e : Fin 22) : Boots s (startEntry s e) := by
  unfold startEntry
  refine .ite (.refl s) ?_
  split
  · exact boots_startMgmt ..
  · exact boots_startMgmt ..
  · exact .ite (boots_enterRecovery s) (boots_markStarted ..)
  · exact .after (boots_startRequired ..) (.of_jrn rfl rfl rfl)
  iterate 4 exact boots_startMem ..
  · exact .after (boots_startRequired ..) (.after (boots_mapFences ..) (boots_changeFence ..))
  · exact .ite (boots_markSkipped ..) (boots_markStarted ..)
  iterate 8 exact boots_startFabric ..
  · exact boots_startRequired ..

theorem boots_afterGroup (es : List (Fin 22)) (s : State) : Boots s (afterGroup es s) :=
  .ite (.of_jrn rfl rfl rfl) (.refl s)

/-- The entries of a group after their start (R54, R56). -/
def groupStarted (g : List (Fin 22) × Nat) (s : State) : State := g.1.foldl startEntry (setWdt g.2 true s)

theorem startGroups_cons (g : List (Fin 22) × Nat) (gs : List (List (Fin 22) × Nat)) (s : State) : startGroups (g :: gs) s =
    if (groupStarted g s).phase ≠ .booting ∨ g.1.any (fun e => stageRuns e (groupStarted g s)) then groupStarted g s
    else startGroups gs (afterGroup g.1 (groupStarted g s)) := rfl

theorem boots_groupStarted (g : List (Fin 22) × Nat) (s : State) : Boots s (groupStarted g s) :=
  .after (.foldl boots_startEntry _ _) (boots_setWdt ..)

/-- However far the stages go, it is the same boot. -/
theorem boots_startGroups (gs : List (List (Fin 22) × Nat)) (s : State) : Boots s (startGroups gs s) := by
  induction gs generalizing s with
  | nil => exact .refl s
  | cons g gs ih =>
    rw [startGroups_cons]
    exact .after (.ite (.refl _) (.after (ih _) (boots_afterGroup g.1 _))) (boots_groupStarted g s)

/-! ### `BOOT_START` (R52, R55, R63, R64, R70, R88) -/

/-- The record of a boot has its powered time, and the marks of the copies that take no write (R62, R64). -/
theorem bootRecord_marks (badA badB : Bool) (d : Dup BootRec) (a : Aon) : (bootRecord badA badB d a).2.bootPtime = a.ptime ∧
    (bootRecord badA badB d a).2.aBad = badA ∧ (bootRecord badA badB d a).2.bBad = badB := by
  unfold bootRecord
  dsimp only
  split <;> exact ⟨rfl, rfl, rfl⟩

/-- The boot count is one higher than the one found, short of its last value (R47). -/
theorem bootRecord_count {badA badB : Bool} {d : Dup BootRec} {a : Aon} {sel : Selected} {r : BootRec}
    (hd : dupPick (·.seq) d = some (sel, r)) (hc : r.bootCount ≠ 0xFFFFFFFF) :
    (bootRecord badA badB d a).2.bootCount = r.bootCount + 1 := by
  simp only [bootRecord, hd, if_neg hc]

/-- The state in which the `JOURNAL` stage has read the records and has written none. -/
def journalRead (f : JrnFaults) (torn : Option (RecKind × Cut)) (s : State) : State :=
  let badA := f.lifeA == some 0
  let badB := f.lifeB == some 0
  let j := foundRecords f torn s.jrn
  let found := bootRecord badA badB j.bootDup s.aon
  { s with jrn := { loadRecords badA badB j with
    boot := found.2, bootDup := spoil badA badB (heal badA badB (·.seq) j.bootDup), selected := found.1,
    lifeA := f.lifeA, lifeB := f.lifeB } }

/-- What the stage takes from the records that it finds, and the fates of the two memories. -/
theorem journalRead_jrn (f : JrnFaults) (torn : Option (RecKind × Cut)) (s : State) :
    (journalRead f torn s).jrn.boot =
        (bootRecord (f.lifeA == some 0) (f.lifeB == some 0) (foundRecords f torn s.jrn).bootDup s.aon).2 ∧
      (journalRead f torn s).jrn.lifeA = f.lifeA ∧ (journalRead f torn s).jrn.lifeB = f.lifeB :=
  ⟨rfl, rfl, rfl⟩

theorem journalRead_sec (f : JrnFaults) (torn : Option (RecKind × Cut)) (s : State) : (journalRead f torn s).sec = s.sec := rfl

theorem journalRead_bootPins (f : JrnFaults) (torn : Option (RecKind × Cut)) (s : State) :
    bootPins (journalRead f torn s) = bootPins s := rfl

theorem boots_journalStage (f : JrnFaults) (torn : Option (RecKind × Cut)) (s : State) :
    Boots (journalRead f torn s) (journalStage f torn s) :=
  .after (boots_setStage ..) (.after (boots_markStarted ..) (.after (boots_emit ..) (.after (boots_applyClear _)
    (boots_writeBoot (journalRead f torn s) rfl))))

/-- The state in which a boot's `JOURNAL` stage begins: SEC runs with the boot ROM measured, and the pins show a module that boots. -/
def bootBegun (s : State) : State :=
  let t := losePrisms (~~~ s.mem.inSr) s
  setWdt 50 true (setSbState 0b010 { t with
    phase := .booting, srEntry := 0, mbx.resetPending := none, mbx.resetCmd := none, pins.perst := false, pins.refclk := true,
    pins.txIdle := false, pins.thermTrip := false,
    sec := { seedDrbg t.sec with meas := vupd t.sec.meas 0 fun _ => Config.bootRomHash } })

/-- The journal and powered time are those of the reset, and measurement register 1 is the boot ROM's (R88). -/
theorem bootBegun_keeps (s : State) : (bootBegun s).jrn = s.jrn ∧ (bootBegun s).aon.ptime = s.aon.ptime ∧
    (bootBegun s).sec.meas[(0 : Fin 5)] = Config.bootRomHash := by
  refine ⟨?_, ?_, ?_⟩
  · simp only [bootBegun, setWdt, setSbState_jrn, losePrisms]
  · simp only [bootBegun, setWdt, setSbState_aon, writeWdtCtrl_ptime, losePrisms]
  · simp only [bootBegun, setWdt, setSbState_sec]
    exact vupd_self ..

/-- `PERST#` is deasserted and `REFCLK` meets its limits (R55). -/
theorem bootBegun_pins (s : State) : bootPins (bootBegun s) = (false, true) :=
  (Boots.after (boots_setWdt ..) (boots_setSbState ..)).pins

section
variable {s : State} (hm : bootMayStart s = true)
include hm

/-- A lifecycle that Table 03-1 names lets the boot go on with its stages, from what the journal memories hold. -/
theorem exec_bootStart (hl : lifecycleOk s.sec = true) (f : JrnFaults) (torn : Option (RecKind × Cut)) :
    ∃ u, exec (.bootStart f torn) s = .next u ∧ Boots (journalRead f torn (bootBegun s)) u := by
  have hstart : exec (.bootStart f torn) s = .next (startGroups groups
      (if 0x05 ≤ s.aon.source.toNat ∧ s.aon.source.toNat ≤ 0x08 then evidence 0x18 1 (journalStage f torn (bootBegun s))
        else journalStage f torn (bootBegun s))) := by
    show execBootStart f torn s = _
    simp only [execBootStart, hm, hl, Bool.not_true, Bool.false_eq_true, if_false]
    rfl
  exact ⟨_, hstart, .after (boots_startGroups ..) (.after (.ite (boots_evidence ..) (.refl _)) (boots_journalStage ..))⟩

/-- Any other lifecycle is a SEC security event (R69, R70). -/
theorem exec_bootStart_lifecycle (hl : lifecycleOk s.sec = false) (f : JrnFaults) (torn : Option (RecKind × Cut)) :
    exec (.bootStart f torn) s = .next (beginReset kindCold 0x0A s) := by
  show execBootStart f torn s = _
  simp only [execBootStart, hm, hl, Bool.not_true, Bool.not_false, Bool.false_eq_true, if_false, if_true]

end

/-! ### A stage entry that ends while its group goes on (R56, R58, R59) -/

@[simp] theorem setStage_sec (e : Fin 22) (st : StageStatus) (fails : Nat) (s : State) : (setStage e st fails s).sec = s.sec := by
  simp only [setStage, emit_sec, writeBoot_sec]

@[simp] theorem setStage_fabric (e : Fin 22) (st : StageStatus) (fails : Nat) (s : State) :
    (setStage e st fails s).fabric = s.fabric := by
  simp only [setStage, emit_fabric, writeBoot_fabric]

@[simp] theorem setStage_mgmt (e : Fin 22) (st : StageStatus) (fails : Nat) (s : State) :
    (setStage e st fails s).mgmt = s.mgmt := by
  simp only [setStage, emit_mgmt, writeBoot_mgmt]

@[simp] theorem setStage_health (e : Fin 22) (st : StageStatus) (fails : Nat) (s : State) :
    (setStage e st fails s).health = s.health := by
  simp only [setStage, emit_health, writeBoot_health]

theorem setStage_entry_self (e : Fin 22) (st : StageStatus) (fails : Nat) (s : State) :
    statusOf e (setStage e st fails s) = st ∧ failsOf e (setStage e st fails s) = min 255 fails := by
  have hentry : ∀ dt, (vupd s.jrn.boot.stage e fun _ => (⟨st, BitVec.ofNat 8 (min 255 fails), dt⟩ : StageEntry))[e] =
      ⟨st, BitVec.ofNat 8 (min 255 fails), dt⟩ := fun dt => vupd_self ..
  simp only [setStage, statusOf, failsOf, emit_jrn, writeBoot_stage, hentry, BitVec.toNat_ofNat, true_and]
  omega

theorem stageRuns_setStage_ne {x e : Fin 22} (hne : x ≠ e) (st : StageStatus) (fails : Nat) (s : State) :
    stageRuns x (setStage e st fails s) = stageRuns x s := by
  have hstatus : statusOf x (setStage e st fails s) = statusOf x s := by
    simp only [setStage, statusOf, emit_jrn, writeBoot_stage]
    rw [vupd_ne _ _ _ _ hne]
  rw [stageRuns, setStage_phase, hstatus, stageRuns]

/-- Whether a stage runs is for the phase and the journal to say. -/
theorem stageRuns_congr {s t : State} (x : Fin 22) (hp : t.phase = s.phase) (hj : t.jrn = s.jrn) : stageRuns x t = stageRuns x s := by
  simp only [stageRuns, statusOf, hp, hj]

/-- While another entry of its group runs, the end of an entry starts nothing. -/
theorem advanceBoot_setStage {e x : Fin 22} {g : List (Fin 22) × Nat} {gs : List (List (Fin 22) × Nat)} {s : State}
    (hg : groups.dropWhile (fun g => !g.1.contains e) = g :: gs) (hx : x ∈ g.1) (hne : x ≠ e) (hr : stageRuns x s = true)
    (st : StageStatus) (fails : Nat) : advanceBoot e (setStage e st fails s) = setStage e st fails s := by
  have hphase : (setStage e st fails s).phase = .booting := (setStage_phase ..).trans (stageRuns_booting hr)
  have hruns : (g.1.any fun y => stageRuns y (setStage e st fails s)) = true :=
    List.any_eq_true.2 ⟨x, hx, (stageRuns_setStage_ne hne ..).trans hr⟩
  simp only [advanceBoot, hphase, hg, hruns, ne_eq, not_true_eq_false, if_false, if_true]

/-- The group of the management ports is the first one. -/
theorem mgmt_group (p : Fin 2) : groups.dropWhile (fun g => !g.1.contains (finOf (1 + p.val))) = ([1, 2], 200) :: groups.tail := by
  revert p; decide

theorem mgmt_peer (p : Fin 2) : (finOf (2 - p.val) : Fin 22) ∈ [1, 2] ∧ (finOf (2 - p.val) : Fin 22) ≠ finOf (1 + p.val) := by
  revert p; decide

/-- The group of the fabric ports is the last one before `READY`. -/
theorem fabric_group (p : Fin 8) : groups.dropWhile (fun g => !g.1.contains (finOf (13 + p.val))) =
    ([13, 14, 15, 16, 17, 18, 19, 20], 2000) :: [([21], 100)] := by
  revert p; decide

theorem fabric_peer {p q : Fin 8} (h : p ≠ q) : (finOf (13 + q.val) : Fin 22) ∈ [13, 14, 15, 16, 17, 18, 19, 20] ∧
    (finOf (13 + q.val) : Fin 22) ≠ finOf (13 + p.val) := by
  revert p q; decide

/-! ### `MGMT` -/

/-- The state in which a management port has trained. -/
def mgmtTrained (p : Fin 2) (s : State) : State :=
  { s with mgmt.ports := vupd s.mgmt.ports p fun x => { x with up := true } }

theorem mgmtTrained_up (p : Fin 2) (s : State) : ((mgmtTrained p s).mgmt.ports[p]).up = true :=
  congrArg MgmtPort.up (vupd_self ..)

section
variable {p : Fin 2} {s : State} (hr : stageRuns (finOf (1 + p.val)) s = true) (hq : stageRuns (finOf (2 - p.val)) s = true)
include hr hq

theorem exec_mgmtStageEnd_ok :
    exec (.mgmtStageEnd p .ok) s = .next (setStage (finOf (1 + p.val)) .ok 0 (mgmtTrained p s)) := by
  obtain ⟨hmem, hne⟩ := mgmt_peer p
  have hq' : stageRuns (finOf (2 - p.val)) (mgmtTrained p s) = true := (stageRuns_congr _ rfl rfl).trans hq
  rw [← advanceBoot_setStage (mgmt_group p) hmem hne hq']
  exact congrArg Host.Outcome.next (if_neg (by simp [hr]))

theorem exec_mgmtStageEnd_fail : exec (.mgmtStageEnd p .fail) s = .next (failStage (finOf (1 + p.val)) s) := by
  obtain ⟨hmem, hne⟩ := mgmt_peer p
  rw [failStage, ← advanceBoot_setStage (mgmt_group p) hmem hne hq]
  exact congrArg Host.Outcome.next (if_neg (by simp [hr]))

end

/-! ### `FABRIC` and the sections that stream through SEC (R81) -/

/-- A solicitation only sends. -/
theorem solicit_sent (p : Fin 8) (s : State) : Sent s (solicit p s) := by
  have hemit : ∀ x t, Sent t (emit x t) := fun _ _ => ⟨_, _, rfl⟩
  have hrouter : ∀ (c : Prop) [Decidable c] x, Sent s (if c then s else emit x s) := by
    intro c _ x
    split
    · exact Sent.refl s
    · exact hemit x s
  unfold solicit
  dsimp only
  split
  · exact Sent.refl s
  · split
    · exact hrouter ..
    · exact (hrouter ..).trans (hemit ..)

/-- A stage whose section does not match reports failure, whatever its hardware does. -/
theorem withSection_holdDest_fail {type : Nat} {stream : Option (List Byte)} {r : StageResult} {s : State} (e : Fin 22)
    (h : r = .fail ∨ sectionHolds type stream s = false) : withSection type stream r (holdDest e type stream s) = .fail := by
  have hsame : sectionHolds type stream (holdDest e type stream s) = sectionHolds type stream s := by
    unfold holdDest
    split <;> rfl
  unfold withSection
  rw [hsame]
  rcases h with rfl | hs
  · exact ite_self _
  · simp [hs]

/-- The destination of a section that does not match is held, and nothing else changes. -/
theorem holdDest_mismatch {type : Nat} {stream : Option (List Byte)} {s : State} (e : Fin 22)
    (h : sectionHolds type stream s = false) : holdDest e type stream s = { s with sec.held := s.sec.held ++ [e] } :=
  if_neg (by simp [h])

theorem holdDest_phase (e : Fin 22) (type : Nat) (stream : Option (List Byte)) (s : State) :
    (holdDest e type stream s).phase = s.phase := by
  unfold holdDest; split <;> rfl

theorem holdDest_jrn (e : Fin 22) (type : Nat) (stream : Option (List Byte)) (s : State) :
    (holdDest e type stream s).jrn = s.jrn := by
  unfold holdDest; split <;> rfl

@[simp] theorem bootFence_phase (unit ix : Nat) (s : State) : (bootFence unit ix s).phase = s.phase := by
  unfold bootFence setFenced
  split
  · rfl
  · split <;> simp

@[simp] theorem bootFence_sec (unit ix : Nat) (s : State) : (bootFence unit ix s).sec = s.sec := (boots_bootFence ..).sec

/-- A fabric port's fence sets its bit, and finds it set where the port is fenced. -/
theorem bootFence_fabricPort {p : Fin 8} (s : State) : isFenced 3 p.val (bootFence 3 p.val s) = true := by
  unfold bootFence
  split
  · next h => exact h
  · simp only [isFenced, raiseEvent_health, logHealth, setFenced, getLsbD_setBit, p.isLt, decide_true, Bool.and_self, Bool.or_true]

/-- The state in which a fabric port has trained: its link is up, with or without an address (R376, R380). -/
def fabricTrained (p : Fin 8) (mode : PortMode) (s : State) : State :=
  solicit p (modPort p (fun x => { x with st := if x.addr = 0 then 3 else 4, mode := some mode }) s)

theorem fabricTrained_sent (p : Fin 8) (mode : PortMode) (s : State) :
    Sent (modPort p (fun x => { x with st := if x.addr = 0 then 3 else 4, mode := some mode }) s) (fabricTrained p mode s) :=
  solicit_sent ..

theorem fabricTrained_port (p : Fin 8) (mode : PortMode) (s : State) :
    (fabricTrained p mode s).fabric.ports[p] =
      { s.fabric.ports[p] with st := if (s.fabric.ports[p]).addr = 0 then 3 else 4, mode := some mode } := by
  obtain ⟨_, _, h⟩ := fabricTrained_sent p mode s
  rw [h]
  exact vupd_self ..

theorem stageRuns_fabricTrained (x : Fin 22) (p : Fin 8) (mode : PortMode) (s : State) :
    stageRuns x (fabricTrained p mode s) = stageRuns x s := by
  obtain ⟨_, _, h⟩ := fabricTrained_sent p mode s
  rw [h]
  exact stageRuns_congr x rfl rfl

/-- The state in which a fabric port has failed to train: it is fenced, and has no link (R59). -/
def fabricLost (p : Fin 8) (s : State) : State := modPort p (fun x => { x with st := 0 }) (bootFence 3 p.val s)

theorem fabricLost_st (p : Fin 8) (s : State) : ((fabricLost p s).fabric.ports[p]).st = 0 :=
  congrArg FabPort.st (vupd_self ..)

theorem fabricLost_fenced (p : Fin 8) (s : State) : isFenced 3 p.val (fabricLost p s) = true := by
  rw [fabricLost, isFenced, modPort_health]
  exact bootFence_fabricPort s

theorem fabricLost_sec (p : Fin 8) (s : State) : (fabricLost p s).sec = s.sec := by
  rw [fabricLost, modPort_sec, bootFence_sec]

theorem stageRuns_fabricLost (x : Fin 22) (p : Fin 8) (s : State) : stageRuns x (fabricLost p s) = stageRuns x s := by
  refine stageRuns_congr x ?_ ?_
  · rw [fabricLost, modPort_phase, bootFence_phase]
  · rw [fabricLost, modPort_jrn, bootFence_jrn]

section
variable {p q : Fin 8} {s : State} {stream : Option (List Byte)} (hpq : p ≠ q) (hr : stageRuns (finOf (13 + p.val)) s = true)
  (hq : stageRuns (finOf (13 + q.val)) s = true)
include hpq hr hq

theorem exec_fabricStageEnd_ok (mode : PortMode) (hs : sectionHolds 3 stream s = true) :
    exec (.fabricStageEnd p .ok mode stream) s = .next (setStage (finOf (13 + p.val)) .ok 0 (fabricTrained p mode s)) := by
  obtain ⟨hmem, hne⟩ := fabric_peer hpq
  rw [← advanceBoot_setStage (fabric_group p) hmem hne ((stageRuns_fabricTrained ..).trans hq)]
  show execFabricStageEnd p .ok mode s stream = _
  simp only [execFabricStageEnd, hr, sectionHolds_holdDest hs, withSection_of_holds hs, Bool.not_true, Bool.false_eq_true, if_false]
  rfl

theorem exec_fabricStageEnd_fail {r : StageResult} (mode : PortMode) (hf : r = .fail ∨ sectionHolds 3 stream s = false) :
    exec (.fabricStageEnd p r mode stream) s =
      .next (failStage (finOf (13 + p.val)) (fabricLost p (holdDest (finOf (13 + p.val)) 3 stream s))) := by
  obtain ⟨hmem, hne⟩ := fabric_peer hpq
  have hq' : stageRuns (finOf (13 + q.val)) (fabricLost p (holdDest (finOf (13 + p.val)) 3 stream s)) = true :=
    (stageRuns_fabricLost ..).trans ((stageRuns_congr _ (holdDest_phase ..) (holdDest_jrn ..)).trans hq)
  rw [failStage, ← advanceBoot_setStage (fabric_group p) hmem hne hq']
  show execFabricStageEnd p r mode s stream = _
  simp only [execFabricStageEnd, hr, withSection_holdDest_fail _ hf, Bool.not_true, Bool.false_eq_true, if_false]
  rfl

end

/-! ### `FLASH` -/

section
variable {s : State} (hr : stageRuns 12 s = true)
include hr

theorem exec_flashStageEnd_ok {stream : Option (List Byte)} (hs : sectionHolds 3 stream s = true) :
    exec (.flashStageEnd .ok stream) s = .next (advanceBoot 12 (setStage 12 .ok 0 { s with flash.present := true })) := by
  show execFlashStageEnd .ok s stream = _
  simp only [execFlashStageEnd, hr, sectionHolds_holdDest hs, withSection_of_holds hs, Bool.not_true, Bool.false_eq_true, if_false,
    passStage]

theorem exec_flashStageEnd_fail {r : StageResult} {stream : Option (List Byte)} (hf : r = .fail ∨ sectionHolds 3 stream s = false) :
    exec (.flashStageEnd r stream) s = .next (advanceBoot 12 (failStage 12 (holdDest 12 3 stream s))) := by
  show execFlashStageEnd r s stream = _
  simp only [execFlashStageEnd, hr, withSection_holdDest_fail _ hf, Bool.not_true, Bool.false_eq_true, if_false]

end

/-- Settles O44: the boot that starts is the one that the journal read, and each optional stage by its two ends. -/
theorem bootStartsAndPortsTrain : Obligations.BootStartsAndPortsTrain := by
  unfold Obligations.BootStartsAndPortsTrain
  refine fun s => ⟨fun hm => ⟨fun hl f torn => ?start, fun hl f torn => ?lifecycle⟩, fun p hr hq => ⟨?mgmtOk, ?mgmtFail⟩,
    fun p q mode hpq hr hq => ⟨?fabricOk, fun r stream hf => ?fabricFail⟩,
    fun hr stream => ⟨fun hs => ⟨exec_flashStageEnd_ok hr hs, ?flashFail⟩, fun hs r => ?flashMismatch⟩⟩
  case start =>
    obtain ⟨u, hu, ⟨hsame, hsec, hpins⟩⟩ := exec_bootStart hm hl f torn
    obtain ⟨hptime, hcount, hbadA, hbadB, hgoodA, hgoodB⟩ := hsame
    obtain ⟨hjrn, hnow, hmeas⟩ := bootBegun_keeps s
    obtain ⟨hread, hlifeA, hlifeB⟩ := journalRead_jrn f torn (bootBegun s)
    obtain ⟨htime, hmarkA, hmarkB⟩ := bootRecord_marks (f.lifeA == some 0) (f.lifeB == some 0)
      (foundRecords f torn (bootBegun s).jrn).bootDup (bootBegun s).aon
    rw [hread] at hptime hcount hbadA hbadB hgoodA hgoodB
    rw [journalRead_bootPins, bootBegun_pins] at hpins
    obtain ⟨hperst, hrefclk⟩ := Prod.mk.inj hpins
    refine ⟨u, hu, hptime.trans (htime.trans hnow), ?_, hperst, hrefclk, fun h => hbadA (hmarkA.trans ?_),
      fun h => hbadB (hmarkB.trans ?_), fun h => ?_, fun h => ?_, fun sel r hd hc => ?_⟩
    · rw [hsec, journalRead_sec, hmeas]
    · rw [h]; rfl
    · rw [h]; rfl
    · rw [(hgoodA (hlifeA.trans h)).2, hmarkA, h]; rfl
    · rw [(hgoodB (hlifeB.trans h)).2, hmarkB, h]; rfl
    · rw [hcount, hjrn, bootRecord_count hd hc]
  case lifecycle =>
    have hreset := beginReset_resetFrom kindCold 0x0A s
    refine ⟨_, exec_bootStart_lifecycle hm hl f torn, hreset.phase, ?_, ?_⟩
    · rw [hreset.aon]; rfl
    · rw [hreset.aon]; rfl
  case mgmtOk =>
    refine ⟨_, exec_mgmtStageEnd_ok hr hq, ?_, setStage_entry_self ..⟩
    rw [setStage_mgmt]; exact mgmtTrained_up p s
  case mgmtFail => exact ⟨_, exec_mgmtStageEnd_fail hr hq, setStage_entry_self ..⟩
  case fabricOk =>
    obtain ⟨hstatus, -⟩ := setStage_entry_self (finOf (13 + p.val)) .ok 0 (fabricTrained p mode s)
    refine ⟨_, exec_fabricStageEnd_ok hpq hr hq mode rfl, ?_, ?_, hstatus⟩
    · rw [setStage_fabric, fabricTrained_port]
    · rw [setStage_fabric, fabricTrained_port]
  case fabricFail =>
    refine ⟨_, exec_fabricStageEnd_fail hpq hr hq mode hf, ?_, ?_, ?_, fun hs => ?_⟩
    · rw [failStage, setStage_fabric]; exact fabricLost_st p _
    · rw [failStage, isFenced, setStage_health]; exact fabricLost_fenced p _
    · exact (setStage_entry_self ..).left
    · rw [failStage, setStage_sec, fabricLost_sec, holdDest_mismatch _ hs]
      exact List.mem_append_right _ (List.mem_singleton.2 rfl)
  case flashFail => rw [exec_flashStageEnd_fail hr (.inl rfl), sectionHolds_holdDest hs]; rfl
  case flashMismatch => rw [exec_flashStageEnd_fail hr (.inr hs), holdDest_mismatch _ hs]; rfl

end Sys2Proof.Machine
end

section
/-! What every shared operation of the model leaves alone: the queue of waiting commands and the fuses (R71), one lemma per
operation, in the order of the model. -/

namespace Sys2Proof.Machine

variable {b : Bool}

/-- The queue of waiting commands and the fuses, the key wrap's among them: what no shared operation of the model changes. With
`b` the sectors too, which what a facet has in flight does not change. -/
def steadyOf (b : Bool) (s : State) : List Instr × Fuses × Bool × Option (Vector Sector 4) :=
  (s.pending, s.sec.fuses, s.sec.wrapBurnt, if b then some s.sectors else none)

/-- A state put together from parts keeps what its queue, its `SEC` part and its sectors say. -/
@[simp] theorem steadyOf_mk (pending out freeIx phase srEntry pins aon smb jrn sec mbx d2d mem hostMem objs flash facets mesh
    sectors owners jobs fabric regions mgmt health) :
    steadyOf b ⟨pending, out, freeIx, phase, srEntry, pins, aon, smb, jrn, sec, mbx, d2d, mem, hostMem, objs, flash, facets, mesh,
      sectors, owners, jobs, fabric, regions, mgmt, health⟩ =
      (pending, sec.fuses, sec.wrapBurnt, if b then some sectors else none) := rfl

@[simp] theorem steadyOf_parts (s : State) :
    (s.pending, s.sec.fuses, s.sec.wrapBurnt, if b then some s.sectors else none) = steadyOf b s := rfl

@[simp] theorem steadyOf_parts_false (s : State) : (s.pending, s.sec.fuses, s.sec.wrapBurnt, none) = steadyOf false s := rfl

@[simp] theorem steadyOf_ite (c : Prop) [Decidable c] (x y : State) :
    steadyOf b (if c then x else y) = if c then steadyOf b x else steadyOf b y := apply_ite ..

@[simp] theorem steadyOf_fst_ite {α : Type} (c : Prop) [Decidable c] (x y : State × α) :
    steadyOf b (if c then x else y).1 =
      if c then steadyOf b x.1 else steadyOf b y.1 := apply_ite (fun p : State × α => steadyOf b p.1) ..

@[simp] theorem steadyOf_snd_ite {α : Type} (c : Prop) [Decidable c] (x y : α × State) :
    steadyOf b (if c then x else y).2 =
      if c then steadyOf b x.2 else steadyOf b y.2 := apply_ite (fun p : α × State => steadyOf b p.2) ..

/-- Steps that each keep it keep it together. -/
@[simp] theorem steadyOf_foldl {α : Type} {g : State → α → State} {l : List α} {s : State}
    (hg : ∀ t a, steadyOf b (g t a) = steadyOf b t) : steadyOf b (l.foldl g s) = steadyOf b s :=
  List.foldlRecOn (motive := fun t => steadyOf b t = steadyOf b s) l g rfl fun t ht a _ => (hg t a).trans ht

/-- Steps that carry a value along keep it together where each of them does. -/
@[simp] theorem steadyOf_foldl_fst {α β : Type} {g : State × β → α → State × β} {l : List α} {p : State × β}
    (hg : ∀ q a, steadyOf b (g q a).1 = steadyOf b q.1) : steadyOf b (l.foldl g p).1 = steadyOf b p.1 :=
  List.foldlRecOn (motive := fun q => steadyOf b q.1 = steadyOf b p.1) l g rfl fun q hq a _ => (hg q a).trans hq

theorem steadyOf_fst_of_eq {α : Type} {p : State × α} {t : State} {a : α} (h : p = (t, a)) :
    steadyOf b t = steadyOf b p.1 := by rw [h]

/-! ### Flags -/

@[simp] theorem steadyOf_emit (e : Emit) (s : State) : steadyOf b (emit e s) = steadyOf b s := by simp [emit]

@[simp] theorem steadyOf_emits (es : List Emit) (s : State) : steadyOf b (emits es s) = steadyOf b s := by simp [emits]

@[simp] theorem steadyOf_freeVal (s : State) : steadyOf b (freeVal s).2 = steadyOf b s := by simp [freeVal]

@[simp] theorem steadyOf_sendMsix (v : BitVec 4) (s : State) : steadyOf b (sendMsix v s) = steadyOf b s := by simp [sendMsix]

@[simp] theorem steadyOf_setEvents (ev en : BitVec 7) (s : State) :
    steadyOf b (setEvents ev en s) = steadyOf b s := by simp [setEvents]

@[simp] theorem steadyOf_raiseEvent (k : Nat) (s : State) : steadyOf b (raiseEvent k s) = steadyOf b s := by simp [raiseEvent]

@[simp] theorem steadyOf_raiseAlert (k : Nat) (s : State) :
    steadyOf false (raiseAlert k s) = steadyOf false s := by simp [raiseAlert]

@[simp] theorem steadyOf_clearAlert (m : BitVec 4) (s : State) :
    steadyOf false (clearAlert m s) = steadyOf false s := by simp [clearAlert]

@[simp] theorem steadyOf_setSbState (v : BitVec 3) (s : State) :
    steadyOf false (setSbState v s) = steadyOf false s := by simp [setSbState]

@[simp] theorem steadyOf_setFault (b : Bool) (s : State) :
    steadyOf false (setFault b s) = steadyOf false s := by simp [setFault]

@[simp] theorem steadyOf_settleSideband (s : State) :
    steadyOf false (settleSideband s) = steadyOf false s := by simp [settleSideband]

@[simp] theorem steadyOf_setReplaceReq (b : Bool) (s : State) :
    steadyOf false (setReplaceReq b s) = steadyOf false s := by simp [setReplaceReq]

/-! ### Ops -/

@[simp] theorem steadyOf_modFacet (f : Fin 96) (g : Facet → Facet) (s : State) :
    steadyOf b (modFacet f g s) = steadyOf b s := by simp [modFacet]

@[simp] theorem steadyOf_modSector (n : Fin 4) (g : Sector → Sector) (s : State) :
    steadyOf false (modSector n g s) = steadyOf false s := by simp [modSector]

@[simp] theorem steadyOf_modRing (n : Fin 8) (g : Ring → Ring) (s : State) :
    steadyOf b (modRing n g s) = steadyOf b s := by simp [modRing]

@[simp] theorem steadyOf_modPort (p : Fin 8) (g : FabPort → FabPort) (s : State) :
    steadyOf false (modPort p g s) = steadyOf false s := by simp [modPort]

@[simp] theorem steadyOf_modJob (j : W32) (g : Job → Job) (s : State) :
    steadyOf b (modJob j g s) = steadyOf b s := by simp [modJob]

@[simp] theorem steadyOf_modRun (j : W32) (g : StepRun → StepRun) (s : State) :
    steadyOf b (modRun j g s) = steadyOf b s := by simp [modRun]

@[simp] theorem steadyOf_modObj (o : W64) (g : Obj → Obj) (s : State) :
    steadyOf false (modObj o g s) = steadyOf false s := by simp [modObj]

@[simp] theorem steadyOf_writeBoot (g : BootRec → BootRec) (s : State) :
    steadyOf false (writeBoot g s) = steadyOf false s := by simp [writeBoot]

@[simp] theorem steadyOf_writeFence (g : FenceMap → FenceMap) (s : State) :
    steadyOf b (writeFence g s) = steadyOf b s := by simp [writeFence]

@[simp] theorem steadyOf_writeHcfg (g : HealthConfig → HealthConfig) (s : State) :
    steadyOf false (writeHcfg g s) = steadyOf false s := by simp [writeHcfg]

@[simp] theorem steadyOf_writeHst (s : State) : steadyOf b (writeHst s) = steadyOf b s := by simp [writeHst]

@[simp] theorem steadyOf_writeMemCfg (g : MemConfig → MemConfig) (s : State) :
    steadyOf false (writeMemCfg g s) = steadyOf false s := by simp [writeMemCfg]

@[simp] theorem steadyOf_writeDir (g : WarmDir → WarmDir) (s : State) :
    steadyOf false (writeDir g s) = steadyOf false s := by simp [writeDir]

@[simp] theorem steadyOf_writeSaved (n : Fin 4) (g : SavedParams → SavedParams) (s : State) :
    steadyOf b (writeSaved n g s) = steadyOf b s := by simp [writeSaved]

@[simp] theorem steadyOf_evidence (c n : Nat) (s : State) : steadyOf b (evidence c n s) = steadyOf b s := by simp [evidence]

@[simp] theorem steadyOf_counter (i n : Nat) (s : State) :
    steadyOf false (counter i n s) = steadyOf false s := by simp [counter]

@[simp] theorem steadyOf_logHealth (kind : Byte) (unit : Nat) (index : Nat) (info : Nat) (s : State) :
    steadyOf b (logHealth kind unit index info s) = steadyOf b s := by simp [logHealth]

@[simp] theorem steadyOf_logReh (r : RehRec) (s : State) : steadyOf false (logReh r s) = steadyOf false s := by simp [logReh]

@[simp] theorem steadyOf_logMem (kind : Byte) (req : Byte) (dpa : Nat) (hasSector : Bool) (sym : Nat) (s : State) :
    steadyOf b (logMem kind req dpa hasSector sym s) = steadyOf b s := by simp [logMem]

@[simp] theorem steadyOf_pendPair (k : Nat) (s : State) : steadyOf b (pendPair k s) = steadyOf b s := by simp [pendPair]

@[simp] theorem steadyOf_pairUncorr (k : Nat) (s : State) : steadyOf b (pairUncorr k s) = steadyOf b s := by simp [pairUncorr]

@[simp] theorem steadyOf_pairExhaust (k : Nat) (s : State) :
    steadyOf b (pairExhaust k s) = steadyOf b s := by simp [pairExhaust]

@[simp] theorem steadyOf_remapSector (k : Nat) (cause : Bool) (req : Byte) (s : State) :
    steadyOf b (remapSector k cause req s) = steadyOf b s := by simp [remapSector]

@[simp] theorem steadyOf_readSector (req : Byte) (k : Nat) (s : State) :
    steadyOf b (readSector req k s).1 = steadyOf b s := by
  unfold readSector; dsimp only; split <;> simp

@[simp] theorem steadyOf_snoopOut (inv : Bool) (a n : Nat) (s : State) :
    steadyOf b (snoopOut inv a n s) = steadyOf b s := by simp [snoopOut]

@[simp] theorem steadyOf_readRange (req : Byte) (a n : Nat) (s : State) :
    steadyOf b (readRange req a n s).1 = steadyOf b s := by
  refine (steadyOf_foldl_fst fun p k => ?_).trans (by simp)
  split <;> next h => simp [steadyOf_fst_of_eq h]

@[simp] theorem steadyOf_readCells (req : Byte) (a n : Nat) (s : State) :
    steadyOf b (readCells req a n s).1 = steadyOf b s := by
  unfold readCells
  split
  · rfl
  · split <;> next h => simp [steadyOf_fst_of_eq h]

@[simp] theorem steadyOf_readBytes (req : Byte) (a n : Nat) (s : State) :
    steadyOf b (readBytes req a n s).1 = steadyOf b s := by
  unfold readBytes
  split <;> next h => simp [steadyOf_fst_of_eq h]

@[simp] theorem steadyOf_noteDirty (a n : Nat) (s : State) :
    steadyOf b (noteDirty a n s) = steadyOf b s := by simp [noteDirty]

@[simp] theorem steadyOf_noteProgress (a n : Nat) (s : State) :
    steadyOf b (noteProgress a n s) = steadyOf b s := by simp [noteProgress]

@[simp] theorem steadyOf_noteWrite (a n : Nat) (s : State) :
    steadyOf b (noteWrite a n s) = steadyOf b s := by simp [noteWrite]

@[simp] theorem steadyOf_writeCells (a n : Nat) (src : List Host.Cell) (s : State) :
    steadyOf b (writeCells a n src s) = steadyOf b s := by simp [writeCells]

@[simp] theorem steadyOf_writeBytes (a : Nat) (bs : List Byte) (s : State) :
    steadyOf b (writeBytes a bs s) = steadyOf b s := by simp [writeBytes]

@[simp] theorem steadyOf_zeroRange (a n : Nat) (s : State) :
    steadyOf false (zeroRange a n s) = steadyOf false s := by simp [zeroRange]

@[simp] theorem steadyOf_setOwner (g : Nat) (o : Owner) (s : State) :
    steadyOf false (setOwner g o s) = steadyOf false s := by simp [setOwner]

@[simp] theorem steadyOf_freeOwners (p : Owner → Bool) (s : State) :
    steadyOf false (freeOwners p s) = steadyOf false s := by simp [freeOwners]

/-! ### Mailbox -/

@[simp] theorem steadyOf_ringError (n : Fin 8) (code : BitVec 3) (s : State) :
    steadyOf b (ringError n code s) = steadyOf b s := by simp [ringError]

@[simp] theorem steadyOf_failSlot (n : Fin 8) (c : CplEnt) (s : State) :
    steadyOf b (failSlot n c s) = steadyOf b s := by simp [failSlot]

@[simp] theorem steadyOf_writeSlot (n : Fin 8) (c : CplEnt) (s : State) :
    steadyOf b (writeSlot n c s) = steadyOf b s := by simp [writeSlot]

@[simp] theorem steadyOf_flushRing (fuel : Nat) (n : Fin 8) (s : State) : steadyOf b (flushRing fuel n s) = steadyOf b s := by
  simp only [steadyOf, flushRing_pending, flushRing_sec, flushRing_sectors]

@[simp] theorem steadyOf_pushCpl (n : Fin 8) (c : CplEnt) (s : State) :
    steadyOf b (pushCpl n c s) = steadyOf b s := by simp [pushCpl]

@[simp] theorem steadyOf_emitCpl (xid : W32) (total : Nat) (segs : List (Nat × Nat × List Byte)) (s : State) :
    steadyOf b (emitCpl xid total segs s) = steadyOf b s := by simp [emitCpl]

@[simp] theorem steadyOf_sendCpl (h : Hdr) (status : W16) (final : Bool) (result buf : List Byte) (s : State) :
    steadyOf b (sendCpl h status final result buf s) = steadyOf b s := by simp [sendCpl]

@[simp] theorem steadyOf_answer (h : Hdr) (status : W16) (final : Bool) (result buf : List Byte) (s : State) :
    steadyOf b (answer h status final result buf s) = steadyOf b s := by
  unfold answer; split <;> simp

@[simp] theorem steadyOf_startCmd (h : Hdr) (s : State) : steadyOf false (startCmd h s) = steadyOf false s := by
  unfold startCmd; split <;> simp

@[simp] theorem steadyOf_runCmd (c : Cat) (h : Hdr) (body : State → State) (s : State)
    (hb : ∀ t, steadyOf false (body t) = steadyOf false t) :
    steadyOf false (runCmd c h body s) = steadyOf false s := by
  unfold runCmd; dsimp only; (repeat' split) <;> simp [hb]

/-! ### FacetOps -/

@[simp] theorem steadyOf_stopSectorFacets (n : Fin 4) (s : State) :
    steadyOf false (stopSectorFacets n s) = steadyOf false s := by simp [stopSectorFacets]

@[simp] theorem steadyOf_facetError (f : Fin 96) (code : Byte) (precise : Bool) (pc detail : Nat) (s : State) :
    steadyOf b (facetError f code precise pc detail s) = steadyOf b s := by simp [facetError]

@[simp] theorem steadyOf_eccCorrected (f : Fin 96) (spm arr : Nat) (s : State) :
    steadyOf b (eccCorrected f spm arr s) = steadyOf b s := by simp [eccCorrected]

@[simp] theorem steadyOf_issue (f : Fin 96) (op : Byte) (i : Ins) (e : Ecc) (u : Use) (row : Bool)
    (body : State → Facet → Issue) (s : State) :
    steadyOf false (issue f op i e u row body s) = steadyOf false s := by
  unfold issue; dsimp only; (repeat' split) <;> simp

@[simp] theorem steadyOf_viewSpent (fi : Fin 96) (r : SpmReader) (seq : Nat) (s t : State) :
    steadyOf b (viewSpent fi r seq s t) = steadyOf b t := by simp [viewSpent]

/-! ### FacetUnits -/

@[simp] theorem steadyOf_issueVe (fn : Byte) (u : VeUse) (f : Fin 96) (i : Ins) (e : Ecc) (s : State) :
    steadyOf false (issueVe fn u f i e s) = steadyOf false s := by simp [issueVe]

@[simp] theorem steadyOf_eccMark (fi : Fin 96) (e : Ecc) (a : Option (Fin 8)) (v : Option (Fin 4)) (s : State) :
    steadyOf b (eccMark fi e a v s) = steadyOf b s := by simp [eccMark]

@[simp] theorem steadyOf_eccFault (fi : Fin 96) (e : Ecc) (pc : Nat) (s : State) :
    steadyOf b (eccFault fi e pc s) = steadyOf b s := by
  unfold eccFault; split <;> simp

@[simp] theorem steadyOf_withEcc (fi : Fin 96) (e : Ecc) (pc : Nat) (a : Option (Fin 8)) (v : Option (Fin 4))
    (op : State → Facet → Facet) (s : State) :
    steadyOf false (withEcc fi e pc a v op s) = steadyOf false s := by simp [withEcc]

@[simp] theorem steadyOf_startLoad (fi : Fin 96) (e : Ecc) (s : State) :
    steadyOf false (startLoad fi e s) = steadyOf false s := by
  unfold startLoad; dsimp only; (repeat' split) <;> simp

@[simp] theorem steadyOf_startRun (fi : Fin 96) (s : State) : steadyOf false (startRun fi s) = steadyOf false s := by
  unfold startRun; dsimp only; (repeat' split) <;> simp

@[simp] theorem steadyOf_startAcc (fi : Fin 96) (e : Ecc) (s : State) :
    steadyOf false (startAcc fi e s) = steadyOf false s := by
  unfold startAcc; dsimp only; (repeat' split) <;> simp

@[simp] theorem steadyOf_startVe (fi : Fin 96) (e : Ecc) (s : State) :
    steadyOf false (startVe fi e s) = steadyOf false s := by
  unfold startVe; dsimp only; (repeat' split) <;> simp

@[simp] theorem steadyOf_startDma (fi : Fin 96) (s : State) : steadyOf false (startDma fi s) = steadyOf false s := by
  unfold startDma; dsimp only; split <;> simp

@[simp] theorem steadyOf_startTok (fi : Fin 96) (s : State) : steadyOf false (startTok fi s) = steadyOf false s := by
  unfold startTok; dsimp only; (repeat' split) <;> simp

/-! ### FoldOps -/

@[simp] theorem steadyOf_readLoc (req : Byte) (loc n : Nat) (s : State) :
    steadyOf b (readLoc req loc n s).1 = steadyOf b s := by simp [readLoc]

@[simp] theorem steadyOf_writeLoc (loc n : Nat) (src : List Host.Cell) (s : State) :
    steadyOf b (writeLoc loc n src s) = steadyOf b s := by simp [writeLoc]

@[simp] theorem steadyOf_readRec (req : Byte) (sh : ShardEnt) (b : Nat) (s : State) :
    steadyOf false (readRec req sh b s).1 = steadyOf false s := by
  unfold readRec
  split
  · rfl
  · split <;> next h => simp [steadyOf_fst_of_eq h]

@[simp] theorem steadyOf_putRec (sh : ShardEnt) (b : Nat) (r : CommitRec) (s : State) :
    steadyOf false (putRec sh b r s) = steadyOf false s := by
  unfold putRec; split <;> simp

@[simp] theorem steadyOf_putShardHeader (rule : Nat) (sh : ShardEnt) (s : State) :
    steadyOf false (putShardHeader rule sh s) = steadyOf false s := by
  unfold putShardHeader; split <;> simp

@[simp] theorem steadyOf_writeCommit (job : W32) (c : CommitSector) (s : State) :
    steadyOf false (writeCommit job c s) = steadyOf false s := by
  unfold writeCommit; split <;> simp

@[simp] theorem steadyOf_readCommitted (req : Byte) (j : Job) (sh : ShardEnt) (s : State) :
    steadyOf false (readCommitted req j sh s).1 = steadyOf false s := by
  unfold readCommitted
  split
  · rfl
  · split <;> next h => simp [steadyOf_fst_of_eq h]

@[simp] theorem steadyOf_allCommitted (req : Byte) (j : Job) (shs : List ShardEnt) (s : State) :
    steadyOf false (allCommitted req j shs s).1 = steadyOf false s := by simp [allCommitted]

@[simp] theorem steadyOf_readPart (req : Byte) (rule : Nat) (sh : ShardEnt) (b o n : Nat) (s : State) :
    steadyOf false (readPart req rule sh b o n s).1 = steadyOf false s := by
  unfold readPart
  split
  · rfl
  · extract_lets rd f p₁ p₂ p₃
    have hrd : ∀ loc k p, steadyOf false (rd loc k p).1 = steadyOf false p.1 := by
      intro loc k p
      simp only [rd]
      split
      · rfl
      · split
        · rfl
        · split
          · rfl
          · split <;> next h => simp [steadyOf_fst_of_eq h]
    clear_value rd
    dsimp only
    split <;> next h => simp [steadyOf_fst_of_eq h, hrd, p₁, p₂, p₃]

@[simp] theorem steadyOf_mergeLoc (req : Byte) (loc n : Nat) (src : List Host.Cell) (s : State) :
    steadyOf b (mergeLoc req loc n src s).1 = steadyOf b s := by
  unfold mergeLoc
  dsimp only
  split
  · rfl
  · split
    · simp
    · split
      · next h => simp [steadyOf_fst_of_eq h]
      · next h => split <;> next k => simp [steadyOf_fst_of_eq k, steadyOf_fst_of_eq h]

@[simp] theorem steadyOf_putVals (loc : Nat) (vs : List W16) (s : State) :
    steadyOf false (putVals loc vs s) = steadyOf false s := by simp [putVals]

@[simp] theorem steadyOf_writePart (rule : Nat) (sh : ShardEnt) (b o : Nat) (p : SlotPart) (s : State) :
    steadyOf false (writePart rule sh b o p s).1 = steadyOf false s := by
  unfold writePart; split <;> simp

@[simp] theorem steadyOf_slotDigest (req : Byte) (rule : Nat) (sh : ShardEnt) (b : Nat) (s : State) :
    steadyOf false (slotDigest req rule sh b s).1 = steadyOf false s := by
  unfold slotDigest
  split <;> next h => simp [steadyOf_fst_of_eq h]

@[simp] theorem steadyOf_slotVerifies (req : Byte) (rule : Nat) (sh : ShardEnt) (b : Nat) (s : State) :
    steadyOf false (slotVerifies req rule sh b s).1 = steadyOf false s := by
  unfold slotVerifies
  split
  · next h => split <;> next k => simp [steadyOf_fst_of_eq k, steadyOf_fst_of_eq h]
  · next h => simp [steadyOf_fst_of_eq h]

@[simp] theorem steadyOf_slotImage (req : Byte) (rule : Nat) (sh : ShardEnt) (b : Nat) (r : CommitRec) (s : State) :
    steadyOf false (slotImage req rule sh b r s).1 = steadyOf false s := by
  unfold slotImage
  split
  · rfl
  · split
    · next h => simp [steadyOf_fst_of_eq h]
    · next h => split <;> next k => simp [steadyOf_fst_of_eq k, steadyOf_fst_of_eq h]

@[simp] theorem steadyOf_putImage (rule : Nat) (sh : ShardEnt) (b : Nat) (img : List Host.Cell) (s : State) :
    steadyOf false (putImage rule sh b img s) = steadyOf false s := by
  unfold putImage; split <;> simp

@[simp] theorem steadyOf_deriveShard (rule : Nat) (sh : ShardEnt) (b : Nat) (s : State) :
    steadyOf false (deriveShard rule sh b s).1 = steadyOf false s := by
  unfold deriveShard; split <;> simp

@[simp] theorem steadyOf_giveScales (cols : BitVec 12) (es : List (Nat × ScaleEntry)) (s : State) :
    steadyOf false (giveScales cols es s) = steadyOf false s := by simp [giveScales]

@[simp] theorem steadyOf_giveScalesOf (had cols : BitVec 12) (es : List (Nat × ScaleEntry)) (s : State) :
    steadyOf b (giveScalesOf had cols es s) = steadyOf b s := by simp [giveScalesOf]

@[simp] theorem steadyOf_mapScales (cols : BitVec 12) (g : ScaleEntry → ScaleEntry) (s : State) :
    steadyOf false (mapScales cols g s) = steadyOf false s := by simp [mapScales]

@[simp] theorem steadyOf_corrAll (cols : BitVec 12) (s : State) :
    steadyOf false (corrAll cols s) = steadyOf false s := by simp [corrAll]

@[simp] theorem steadyOf_writeRec (dpa : Nat) (bs : List Byte) (s : State) :
    steadyOf false (writeRec dpa bs s) = steadyOf false s := by simp [writeRec]

@[simp] theorem steadyOf_writeJobRecord (job : W32) (s : State) :
    steadyOf false (writeJobRecord job s) = steadyOf false s := by
  unfold writeJobRecord; split <;> simp

@[simp] theorem steadyOf_writeArmed (job : W32) (step gen : W64) (epoch : W16) (s : State) :
    steadyOf false (writeArmed job step gen epoch s) = steadyOf false s := by
  unfold writeArmed; split <;> simp

@[simp] theorem steadyOf_writeScaleRec (job : W32) (tag : W64) (es : List (Nat × ScaleEntry)) (s : State) :
    steadyOf false (writeScaleRec job tag es s) = steadyOf false s := by
  unfold writeScaleRec; split <;> simp

/-! ### ChordOps -/

@[simp] theorem steadyOf_modStream (job : W32) (peer : W16) (onMgmt : Bool) (g : Stream → Stream) (s : State) :
    steadyOf b (modStream job peer onMgmt g s) = steadyOf b s := by simp [modStream]

@[simp] theorem steadyOf_emitChord (v : Via) (dst : Ip6) (kind : BitVec 4) (h : ChordHdr) (payload : List Byte) (s : State) :
    steadyOf b (emitChord v dst kind h payload s) = steadyOf b s := by
  unfold emitChord; (repeat' split) <;> simp

@[simp] theorem steadyOf_sendVia (j : Job) (peer : W16) (p : Fin 8) (kind : BitVec 4) (h : ChordHdr) (payload : List Byte)
    (s : State) :
    steadyOf b (sendVia j peer p kind h payload s) = steadyOf b s := by
  unfold sendVia; split <;> simp

@[simp] theorem steadyOf_sendOn (j : Job) (peer : W16) (onMgmt : Bool) (avoid : Option (Fin 8)) (kind : BitVec 4)
    (h : ChordHdr) (payload : List Byte) (s : State) :
    steadyOf b (sendOn j peer onMgmt avoid kind h payload s) = steadyOf b s := by
  unfold sendOn; (repeat' split) <;> simp

@[simp] theorem steadyOf_sendPlain (job : W32) (peer : W16) (onMgmt : Bool) (kind : BitVec 4) (step : W64) (coll : W32)
    (offset : Nat) (payload : List Byte) (s : State) :
    steadyOf b (sendPlain job peer onMgmt kind step coll offset payload s) = steadyOf b s := by
  unfold sendPlain; split <;> simp

@[simp] theorem steadyOf_sendAll (job : W32) (peer : W16) (kind : BitVec 4) (step : W64) (payload : List Byte) (s : State) :
    steadyOf b (sendAll job peer kind step payload s) = steadyOf b s := by
  unfold sendAll; split <;> simp

@[simp] theorem steadyOf_pumpStream (fuel : Nat) (job : W32) (peer : W16) (onMgmt : Bool) (s : State) :
    steadyOf b (pumpStream fuel job peer onMgmt s) = steadyOf b s := by
  induction fuel generalizing s with
  | zero => rfl
  | succ fuel ih =>
    unfold pumpStream
    split
    · rfl
    · dsimp only
      split
      · rfl
      · simp [ih]

@[simp] theorem steadyOf_sendSeq (job : W32) (peer : W16) (onMgmt : Bool) (kind : BitVec 4) (step : W64) (coll : W32)
    (offset : Nat) (final : Bool) (payload : List Byte) (s : State) :
    steadyOf b (sendSeq job peer onMgmt kind step coll offset final payload s) = steadyOf b s := by
  unfold sendSeq; split <;> simp

@[simp] theorem steadyOf_sendBytes (job : W32) (peer : W16) (onMgmt : Bool) (kind : BitVec 4) (step : W64) (coll : W32)
    (offset : Nat) (bs : List Byte) (s : State) :
    steadyOf false (sendBytes job peer onMgmt kind step coll offset bs s) = steadyOf false s := by simp [sendBytes]

@[simp] theorem steadyOf_takeAck (job : W32) (peer : W16) (onMgmt : Bool) (ack : W32) (map : W64) (echo : Bool) (s : State) :
    steadyOf false (takeAck job peer onMgmt ack map echo s) = steadyOf false s := by
  unfold takeAck; dsimp only; split <;> simp

@[simp] theorem steadyOf_sendAck (job : W32) (peer : W16) (onMgmt echo : Bool) (s : State) :
    steadyOf false (sendAck job peer onMgmt echo s) = steadyOf false s := by
  unfold sendAck; split <;> simp

@[simp] theorem steadyOf_answerAbort (job : W32) (peer : W16) (onMgmt : Bool) (step : W64) (tok : AbortTok) (s : State) :
    steadyOf false (answerAbort job peer onMgmt step tok s) = steadyOf false s := by
  unfold answerAbort; split <;> simp

@[simp] theorem steadyOf_answerStale (p : ChordHdr) (tok : AbortTok) (s : State) :
    steadyOf false (answerStale p tok s) = steadyOf false s := by
  unfold answerStale; split <;> simp

@[simp] theorem steadyOf_countFrame (v : Via) (s : State) : steadyOf false (countFrame v s) = steadyOf false s := by
  unfold countFrame; split <;> simp

@[simp] theorem steadyOf_countStale (v : Via) (s : State) : steadyOf false (countStale v s) = steadyOf false s := by
  unfold countStale; split <;> simp

@[simp] theorem steadyOf_sized (p : ChordHdr) (n : Nat) (g : State → State) (s : State)
    (hg : ∀ t, steadyOf false (g t) = steadyOf false t) :
    steadyOf false (sized p n g s) = steadyOf false s := by simp [sized, hg]

@[simp] theorem steadyOf_onNext (job : W32) (g : State → State) (s : State)
    (hg : ∀ t, steadyOf false (g t) = steadyOf false t) :
    steadyOf false (onNext job g s) = steadyOf false s := by simp [onNext, hg]

@[simp] theorem steadyOf_onPrev (job : W32) (g : State → State) (s : State)
    (hg : ∀ t, steadyOf false (g t) = steadyOf false t) :
    steadyOf false (onPrev job g s) = steadyOf false s := by simp [onPrev, hg]

/-- The state that the transport leaves of a packet. -/
def Recv.after : Recv → State
  | .drop s => s
  | .take _ s => s

theorem steadyOf_after_recv_ite {c : Prop} [Decidable c] {x y : Recv} {s : State} (hx : steadyOf b x.after = steadyOf b s)
    (hy : steadyOf b y.after = steadyOf b s) : steadyOf b (if c then x else y).after = steadyOf b s := by
  split <;> assumption

@[simp] theorem steadyOf_receive (p : ChordHdr) (kind : BitVec 4) (seqd : Bool) (epochOk early : Job → Bool) (s : State) :
    steadyOf false (receive p kind seqd epochOk early s).after = steadyOf false s := by
  unfold receive
  refine steadyOf_after_recv_ite rfl ?_
  extract_lets t mine known mg stale
  have ht : steadyOf false t = steadyOf false s := steadyOf_countFrame ..
  have hstale : steadyOf false stale = steadyOf false s := by simp [stale, ht]
  have dropped : steadyOf false (Recv.drop (counter 4 1 t)).after = steadyOf false s := by simp [Recv.after, ht]
  split
  · exact dropped
  · extract_lets opened before here next run u
    have hrun : ∀ g v, (∀ w, steadyOf false (g w) = steadyOf false w) → steadyOf false (run g v) = steadyOf false v := by
      intro g v hg
      simp [run, hg]
    have hu : steadyOf false u = steadyOf false s := by simp [u, hrun, ht]
    refine steadyOf_after_recv_ite dropped (steadyOf_after_recv_ite ?_ (steadyOf_after_recv_ite dropped
      (steadyOf_after_recv_ite hu (steadyOf_after_recv_ite ?_ hu))))
    · exact steadyOf_after_recv_ite (by simp [Recv.after, hstale]) hstale
    · split
      · exact hu
      · extract_lets r v
        have hv : steadyOf false v = steadyOf false s := by simp [v, hrun, hu]
        exact steadyOf_after_recv_ite hv hv

theorem steadyOf_lateForAborted {j : Job} {p : ChordHdr} {s t : State} (h : lateForAborted j p s = some t) :
    steadyOf false t = steadyOf false s := by
  unfold lateForAborted at h
  split at h
  · split at h
    · cases h; simp
    · cases h
  · cases h

/-! ### StepOps -/

@[simp] theorem steadyOf_evalProposal (s : State) : steadyOf b (evalProposal s) = steadyOf b s := by simp [evalProposal]

@[simp] theorem steadyOf_setFcsrStep (cols : BitVec 12) (v : W64) (s : State) :
    steadyOf b (setFcsrStep cols v s) = steadyOf b s := by simp [setFcsrStep]

@[simp] theorem steadyOf_modShard (job : W32) (sh : W32) (g : ShardRun → ShardRun) (s : State) :
    steadyOf false (modShard job sh g s) = steadyOf false s := by simp [modShard]

@[simp] theorem steadyOf_modRange (job : W32) (sh : W32) (ix : Nat) (g : FoldRange → FoldRange) (s : State) :
    steadyOf b (modRange job sh ix g s) = steadyOf b s := by simp [modRange]

@[simp] theorem steadyOf_addContrib (job : W32) (sh : W32) (ix len rank : Nat) (els : List (Nat × W32)) (s : State) :
    steadyOf b (addContrib job sh ix len rank els s) = steadyOf b s := by simp [addContrib]

@[simp] theorem steadyOf_modOut (job : W32) (sh : W32) (ix : Nat) (g : OutContrib → OutContrib) (s : State) :
    steadyOf b (modOut job sh ix g s) = steadyOf b s := by simp [modOut]

@[simp] theorem steadyOf_admitOwn (job : W32) (lay : Layout) (step : W64) (x : W32 × ShardEnt × Nat) (c : Nat) (s : State) :
    steadyOf b (admitOwn job lay step x c s) = steadyOf b s := by simp [admitOwn]

@[simp] theorem steadyOf_grantCredits (job : W32) (s : State) : steadyOf b (grantCredits job s) = steadyOf b s := by
  unfold grantCredits; (repeat' split) <;> simp

@[simp] theorem steadyOf_pumpOuts (fuel : Nat) (job : W32) (s : State) : steadyOf b (pumpOuts fuel job s) = steadyOf b s := by
  induction fuel generalizing s with
  | zero => rfl
  | succ fuel ih =>
    unfold pumpOuts
    split
    · rfl
    · split
      · split
        · rfl
        · split
          · rfl
          · simp [ih]
      · rfl

@[simp] theorem steadyOf_pumpRounds (fuel : Nat) (job : W32) (s : State) :
    steadyOf b (pumpRounds fuel job s) = steadyOf b s := by
  induction fuel generalizing s with
  | zero => rfl
  | succ fuel ih =>
    unfold pumpRounds
    split
    · dsimp only
      split <;> simp [ih]
    · rfl

@[simp] theorem steadyOf_pumpStep (job : W32) (s : State) : steadyOf b (pumpStep job s) = steadyOf b s := by
  unfold pumpStep; split <;> simp

@[simp] theorem steadyOf_sendRecord (job : W32) (v : VoteRec) (confirm : Bool) (s : State) :
    steadyOf false (sendRecord job v confirm s) = steadyOf false s := by
  unfold sendRecord; split <;> simp

@[simp] theorem steadyOf_restoreScales (j : Job) (s : State) : steadyOf b (restoreScales j s) = steadyOf b s := by
  unfold restoreScales; split <;> simp

@[simp] theorem steadyOf_gatherStatus (dpa i : Nat) (loc : W64) (step : W64) (state : Nat) (code : W16) (s : State) :
    steadyOf b (gatherStatus dpa i loc step state code s) = steadyOf b s := by simp [gatherStatus]

@[simp] theorem steadyOf_failGathers (job : W32) (s : State) : steadyOf b (failGathers job s) = steadyOf b s := by
  unfold failGathers; (repeat' split) <;> simp

@[simp] theorem steadyOf_settleNot (job : W32) (aborted : Bool) (s : State) :
    steadyOf b (settleNot job aborted s) = steadyOf b s := by
  unfold settleNot; (repeat' split) <;> simp

@[simp] theorem steadyOf_settleCommit (job : W32) (s : State) : steadyOf false (settleCommit job s) = steadyOf false s := by
  unfold settleCommit; (repeat' split) <;> simp

@[simp] theorem steadyOf_floodToken (job : W32) (lay : Layout) (step : W64) (tok : AbortTok) (s : State) :
    steadyOf b (floodToken job lay step tok s) = steadyOf b s := by simp [floodToken]

@[simp] theorem steadyOf_abortStep (job : W32) (cause : Byte) (origin : Option W16) (detected : W16) (s : State) :
    steadyOf b (abortStep job cause origin detected s) = steadyOf b s := by
  unfold abortStep; (repeat' split) <;> simp

@[simp] theorem steadyOf_afterConfirms (job : W32) (s : State) : steadyOf false (afterConfirms job s) = steadyOf false s := by
  unfold afterConfirms; (repeat' split) <;> simp

@[simp] theorem steadyOf_castVote (job : W32) (s : State) : steadyOf false (castVote job s) = steadyOf false s := by
  unfold castVote; (repeat' split) <;> simp

@[simp] theorem steadyOf_afterVotes (job : W32) (s : State) : steadyOf false (afterVotes job s) = steadyOf false s := by
  unfold afterVotes; (repeat' split) <;> simp

@[simp] theorem steadyOf_localFailure (job : W32) (cause : Nat) (s : State) :
    steadyOf b (localFailure job cause s) = steadyOf b s := by
  unfold localFailure; (repeat' split) <;> simp

@[simp] theorem steadyOf_failShard (job sh : W32) (cause : Nat) (s : State) :
    steadyOf false (failShard job sh cause s) = steadyOf false s := by simp [failShard]

@[simp] theorem steadyOf_failLostShards (s : State) : steadyOf false (failLostShards s) = steadyOf false s := by
  refine steadyOf_foldl fun t j => steadyOf_foldl fun t sh => ?_
  split
  · split <;> simp
  · rfl

@[simp] theorem steadyOf_stageRange (job : W32) (sh : ShardEnt) (ix : Nat) (s : State) :
    steadyOf false (stageRange job sh ix s) = steadyOf false s := by
  unfold stageRange
  split
  · rfl
  · split
    · extract_lets g b0 b1 fr gs t o
      have ht : steadyOf false t = steadyOf false s := by
        simp only [t]; split <;> simp
      split
      · next h => simp [steadyOf_fst_of_eq h, ht]
      · next u p h =>
        have hu : steadyOf false u = steadyOf false s := by simp [steadyOf_fst_of_eq h, ht]
        split
        split
        next hw =>
        have hv : steadyOf false _ = steadyOf false s := (steadyOf_fst_of_eq hw).trans (by simp [hu])
        split
        · simp [hv]
        · extract_lets v w
          have hw : steadyOf false w = steadyOf false s := by simp [w, v, hv]
          split
          · split
            · split
              · next h => simp [steadyOf_fst_of_eq h, hw]
              · next h => simp [steadyOf_fst_of_eq h, hw]
              · next h => simp [steadyOf_fst_of_eq h, hw]
            · exact hw
          · exact hw
    · rfl

@[simp] theorem steadyOf_faultSector (k : Fin 4) (s : State) :
    steadyOf false (faultSector k s) = steadyOf false s := by simp [faultSector]

/-! ### DmaEngine -/

@[simp] theorem steadyOf_modDisp (job : W32) (id : Nat) (g : DispRun → DispRun) (s : State) :
    steadyOf b (modDisp job id g s) = steadyOf b s := by simp [modDisp]

@[simp] theorem steadyOf_writeObj (job : W32) (o : W64) (off : Nat) (bs : List Byte) (s : State) :
    steadyOf b (writeObj job o off bs s) = steadyOf b s := by
  unfold writeObj
  split
  · rfl
  · split
    · rfl
    · split <;> next h => simp [steadyOf_fst_of_eq h]

@[simp] theorem steadyOf_recvHeader (job : W32) (d : DispEnt) (step : W64) (sources : Nat) (s : State) :
    steadyOf b (recvHeader job d step sources s) = steadyOf b s := by simp [recvHeader]

@[simp] theorem steadyOf_settleEnds (job : W32) (d : DispEnt) (members : Nat) (step : W64) (s : State) :
    steadyOf b (settleEnds job d members step s) = steadyOf b s := by
  unfold settleEnds
  split
  · rfl
  · split
    · rfl
    · refine steadyOf_foldl fun t e => ?_
      dsimp only
      split <;> simp

@[simp] theorem steadyOf_settleCombines (job : W32) (s : State) :
    steadyOf false (settleCombines job s) = steadyOf false s := by
  unfold settleCombines; (repeat' split) <;> simp

@[simp] theorem steadyOf_takeRow (job : W32) (d : DispEnt) (members : Nat) (step : W64) (src slot : Nat) (row : List Byte)
    (s : State) :
    steadyOf b (takeRow job d members step src slot row s) = steadyOf b s := by simp [takeRow]

@[simp] theorem steadyOf_takeBack (job : W32) (d : DispEnt) (route : W64) (members owner slot : Nat) (row : List Byte)
    (s : State) :
    steadyOf b (takeBack job d route members owner slot row s) = steadyOf b s := by
  unfold takeBack
  split
  · rfl
  · dsimp only
    split <;> next h => simp [steadyOf_fst_of_eq h]

@[simp] theorem steadyOf_takeEnd (job : W32) (d : DispEnt) (members : Nat) (step : W64) (src : Nat) (counts : List Nat)
    (seq : Option W32) (s : State) :
    steadyOf b (takeEnd job d members step src counts seq s) = steadyOf b s := by simp [takeEnd]

@[simp] theorem steadyOf_dispatchRow (job : W32) (lay : Layout) (d : DispEnt) (step : W64) (expert : Nat) (row : List Byte)
    (s : State) :
    steadyOf b (dispatchRow job lay d step expert row s) = steadyOf b s := by
  unfold dispatchRow; split <;> simp

@[simp] theorem steadyOf_combineRow (job : W32) (lay : Layout) (d : DispEnt) (step : W64) (slot : Nat) (row : List Byte)
    (s : State) :
    steadyOf b (combineRow job lay d step slot row s) = steadyOf b s := by simp [combineRow]

@[simp] theorem steadyOf_sendEnds (job : W32) (lay : Layout) (d : DispEnt) (step : W64) (s : State) :
    steadyOf b (sendEnds job lay d step s) = steadyOf b s := by
  unfold sendEnds; split <;> simp

@[simp] theorem steadyOf_routeHeader (job : W32) (d : DispEnt) (step : W64) (s : State) :
    steadyOf b (routeHeader job d step s) = steadyOf b s := by
  unfold routeHeader; split <;> simp

/-- The state that an engine's answer leaves. -/
def Took.after (s : State) : Took → State
  | .wait => s
  | .done _ t => t

@[simp] theorem after_refuse (job : W32) (s : State) : (refuse job s).after s = localFailure job 8 s := rfl

theorem steadyOf_after_ite {c : Prop} [Decidable c] {x y : Took} {s : State} (hx : steadyOf b (x.after s) = steadyOf b s)
    (hy : steadyOf b (y.after s) = steadyOf b s) : steadyOf b ((if c then x else y).after s) = steadyOf b s := by
  split <;> assumption

@[simp] theorem steadyOf_takeChd (f : Facet) (td : BitVec 128) (coll : W32) (offset : Nat) (step : W64) (s : State) :
    steadyOf b ((takeChd f td coll offset step s).after s) = steadyOf b s := by
  unfold takeChd
  refine steadyOf_after_ite rfl ?_
  split
  · rfl
  · next j r lay _ =>
    have refused : steadyOf b ((refuse j.id s).after s) = steadyOf b s := steadyOf_localFailure ..
    split
    · exact refused
    · refine steadyOf_after_ite refused (steadyOf_after_ite (steadyOf_after_ite (steadyOf_abortStep ..) rfl) ?_)
      dsimp only
      split
      · exact refused
      · simp [Took.after]

@[simp] theorem steadyOf_takeDsp (f : Facet) (td : BitVec 128) (ids disp : Nat) (step : W64) (s : State) :
    steadyOf b ((takeDsp f td ids disp step s).after s) = steadyOf b s := by
  unfold takeDsp
  refine steadyOf_after_ite rfl ?_
  split
  · rfl
  · next j r lay _ =>
    have refused : steadyOf b ((refuse j.id s).after s) = steadyOf b s := steadyOf_localFailure ..
    extract_lets fin rows runs
    split
    · exact refused
    · extract_lets word t u
      have ht : steadyOf b t = steadyOf b s := steadyOf_foldl fun v i => by simp
      have hu : steadyOf b u = steadyOf b s := by simp [u, ht]
      exact steadyOf_after_ite refused (steadyOf_after_ite rfl (steadyOf_after_ite refused
        (steadyOf_after_ite hu (by simp [Took.after, hu]))))

@[simp] theorem steadyOf_pull (f : Fin 96) (tag : Fin 8) (spans : List (Nat × Nat × Nat)) (s : State) :
    steadyOf b (pull f tag spans s).1 = steadyOf b s := by simp [pull]

@[simp] theorem steadyOf_push (f : Fin 96) (seq : Nat) (spans : List (Nat × Nat × Nat)) (s : State) :
    steadyOf b (push f seq spans s) = steadyOf b s := by simp [push]

@[simp] theorem steadyOf_endDma (f : Fin 96) (q : QEnt) (st : W16) (s : State) :
    steadyOf b (endDma f q st s) = steadyOf b s := by simp [endDma]

@[simp] theorem steadyOf_snoopSpans (inv : Bool) (spans : List (Nat × Nat × Nat)) (s : State) :
    steadyOf b (snoopSpans inv spans s) = steadyOf b s := by simp [snoopSpans]

@[simp] theorem steadyOf_transfer (f : Fin 96) (q : QEnt) (write : Bool) (spans : List (Nat × Nat × Nat)) (s : State) :
    steadyOf b (transfer f q write spans s) = steadyOf b s := by
  unfold transfer; split <;> simp

@[simp] theorem steadyOf_moveEcc (f : Fin 96) (q : QEnt) (write : Bool) (spans : List (Nat × Nat × Nat)) (e : Ecc)
    (s : State) :
    steadyOf b (moveEcc f q write spans e s) = steadyOf b s := by simp [moveEcc]

@[simp] theorem steadyOf_finishTook (f : Fin 96) (q : QEnt) (s : State) (x : Took) :
    steadyOf b (finishTook f q s x) = steadyOf b (x.after s) := by
  cases x <;> simp [finishTook, Took.after]

@[simp] theorem steadyOf_engineTakes {take : Facet → State → Took} {s : State}
    (ht : ∀ x, steadyOf b ((take x s).after s) = steadyOf b s) (f : Fin 96) (q : QEnt) :
    steadyOf b (engineTakes f q take s) = steadyOf b s := by
  simp [engineTakes, ht]

@[simp] theorem steadyOf_completeDma (f : Fin 96) (q : QEnt) (e : Ecc) (s : State) :
    steadyOf b (completeDma f q e s) = steadyOf b s := by
  unfold completeDma
  dsimp only
  split <;> simp

@[simp] theorem steadyOf_finishFlights (f : Fin 96) (s : State) :
    steadyOf b (finishFlights f s) = steadyOf b s := by simp [finishFlights]

@[simp] theorem steadyOf_finishStarted (cols : BitVec 12) (s : State) :
    steadyOf b (finishStarted cols s) = steadyOf b s := by simp [finishStarted]

/-! ### FtlOps -/

@[simp] theorem steadyOf_modBlock (k : Nat) (g : FlashBlock → FlashBlock) (s : State) :
    steadyOf false (modBlock k g s) = steadyOf false s := by simp [modBlock]

@[simp] theorem steadyOf_eraseBlock (k : Nat) (s : State) :
    steadyOf false (eraseBlock k s) = steadyOf false s := by simp [eraseBlock]

@[simp] theorem steadyOf_settleReadOnly (s : State) :
    steadyOf false (settleReadOnly s) = steadyOf false s := by simp [settleReadOnly]

@[simp] theorem steadyOf_commitFlash (map : List FtlEnt) (freed : List Nat) (s : State) :
    steadyOf false (commitFlash map freed s) = steadyOf false s := by simp [commitFlash]

@[simp] theorem steadyOf_programExtent (p : State × List FtlEnt) (o : FtlOwner) (ext : Nat) :
    steadyOf false (programExtent p o ext).1 = steadyOf false p.1 := by
  unfold programExtent; split <;> simp

@[simp] theorem steadyOf_ftlWrite (o : FtlOwner) (exts : List Nat) (s : State) :
    steadyOf false (ftlWrite o exts s) = steadyOf false s := by
  simp [ftlWrite]

@[simp] theorem steadyOf_ftlDrop (o : FtlOwner) (s : State) :
    steadyOf false (ftlDrop o s) = steadyOf false s := by simp [ftlDrop]

@[simp] theorem steadyOf_ftlRead (o : FtlOwner) (s : State) :
    steadyOf false (ftlRead o s) = steadyOf false s := by simp [ftlRead]

@[simp] theorem steadyOf_relocate (block : Nat) (s : State) : steadyOf false (relocate block s) = steadyOf false s := by
  unfold relocate; split <;> simp

/-! ### ObjOps -/

@[simp] theorem steadyOf_flashWrote (n : Nat) (s : State) :
    steadyOf false (flashWrote n s) = steadyOf false s := by simp [flashWrote]

@[simp] theorem steadyOf_setEntry (job : W32) (i : Nat) (g : SchedEnt → SchedEnt) (s : State) :
    steadyOf false (setEntry job i g s) = steadyOf false s := by
  unfold setEntry; dsimp only; (repeat' split) <;> simp

@[simp] theorem steadyOf_setHolders (id : W64) (g : SchedEnt → SchedEnt) (s : State) :
    steadyOf false (setHolders id g s) = steadyOf false s := by
  refine steadyOf_foldl fun t j => ?_
  split <;> simp

@[simp] theorem steadyOf_holdersSee (id : W64) (code : W16) (s : State) :
    steadyOf false (holdersSee id code s) = steadyOf false s := by
  unfold holdersSee; split <;> simp

@[simp] theorem steadyOf_startMove (id : W64) (m : Move) (s : State) :
    steadyOf false (startMove id m s) = steadyOf false s := by simp [startMove]

@[simp] theorem steadyOf_cancelEviction (o : Obj) (s : State) : steadyOf false (cancelEviction o s) = steadyOf false s := by
  unfold cancelEviction; (repeat' split) <;> simp

@[simp] theorem steadyOf_cancelEvictionOf (id : W64) (s : State) :
    steadyOf false (cancelEvictionOf id s) = steadyOf false s := by
  unfold cancelEvictionOf; split <;> simp

@[simp] theorem steadyOf_dropPin (id : W64) (pin : Bool) (st : W16) (s : State) :
    steadyOf false (dropPin id pin st s) = steadyOf false s := by simp [dropPin]

@[simp] theorem steadyOf_promoteResident (h : Hdr) (id : W64) (u : Nat) (pin : Bool) (s : State) :
    steadyOf false (promoteResident h id u pin s) = steadyOf false s := by
  unfold promoteResident; (repeat' split) <;> simp

@[simp] theorem steadyOf_schedPromote (id : W64) (s : State) : steadyOf false (schedPromote id s).1 = steadyOf false s := by
  unfold schedPromote; (repeat' split) <;> simp

@[simp] theorem steadyOf_actPromo (id : W64) (s : State) (p : Option Hdr × Nat × Bool) :
    steadyOf false (actPromo id s p) = steadyOf false s := by
  unfold actPromo; dsimp only; (repeat' split) <;> simp

@[simp] theorem steadyOf_answerEntry (e : EvEntry) (st : W16) (result : List Byte) (s : State) :
    steadyOf false (answerEntry e st result s) = steadyOf false s := by
  unfold answerEntry; split <;> simp

@[simp] theorem steadyOf_answerPromo (p : Option Hdr × Nat × Bool) (st : W16) (s : State) :
    steadyOf false (answerPromo p st s) = steadyOf false s := by
  unfold answerPromo; split <;> simp

@[simp] theorem steadyOf_endObject (id : W64) (st : W16) (s : State) :
    steadyOf false (endObject id st s) = steadyOf false s := by
  unfold endObject; (repeat' split) <;> simp

@[simp] theorem steadyOf_fallBack (id : W64) (st : W16) (s : State) :
    steadyOf false (fallBack id st s) = steadyOf false s := by
  unfold fallBack; (repeat' split) <;> simp

@[simp] theorem steadyOf_failMove (id : W64) (st : W16) (damage : Bool) (s : State) :
    steadyOf false (failMove id st damage s) = steadyOf false s := by
  unfold failMove; (repeat' split) <;> simp

@[simp] theorem steadyOf_endLostObjects (s : State) : steadyOf false (endLostObjects s) = steadyOf false s := by
  refine steadyOf_foldl fun t o => ?_
  split
  · simp
  · split <;> simp

@[simp] theorem steadyOf_objContent (o : Obj) (s : State) : steadyOf false (objContent o s).1 = steadyOf false s := by
  unfold objContent; split <;> simp

@[simp] theorem steadyOf_dirtyContent (o : Obj) (s : State) : steadyOf false (dirtyContent o s).1 = steadyOf false s := by
  unfold dirtyContent
  obtain ⟨n, hn⟩ : ∃ n, n = extBytes := ⟨_, rfl⟩
  rw [← hn]
  refine steadyOf_foldl_fst fun p k => ?_
  split
  · rfl
  · split <;> next h => simp [steadyOf_fst_of_eq h]

@[simp] theorem steadyOf_moveContent (o : Obj) (m : Move) (s : State) :
    steadyOf false (moveContent o m s).1 = steadyOf false s := by simp [moveContent]

@[simp] theorem steadyOf_settleMove (o : Obj) (m : Move) (c : List Host.Cell) (s : State) :
    steadyOf false (settleMove o m c s) = steadyOf false s := by
  unfold settleMove; split <;> simp

@[simp] theorem steadyOf_switchMove (id : W64) (s : State) : steadyOf false (switchMove id s) = steadyOf false s := by
  unfold switchMove
  split
  · rfl
  · split
    · rfl
    · split
      · rfl
      · split
        · next h => simp [steadyOf_fst_of_eq h]
        · next h =>
          dsimp only
          split <;> simp [steadyOf_fst_of_eq h]

@[simp] theorem steadyOf_dequeue (fuel : Nat) (id : W64) (s : State) :
    steadyOf false (dequeue fuel id s) = steadyOf false s := by
  induction fuel generalizing s with
  | zero => rfl
  | succ fuel ih =>
    unfold dequeue
    split
    · rfl
    · split
      · rfl
      · dsimp only
        split
        · rfl
        · split
          · simp [ih]
          · split
            · rfl
            · split
              · simp [ih]
              · split
                · simp
                · split <;> simp

@[simp] theorem steadyOf_takeHold (id : W64) (s : State) : steadyOf false (takeHold id s).1 = steadyOf false s := by
  unfold takeHold; split <;> simp

@[simp] theorem steadyOf_evalEntry (job : W32) (st : W64) (p : Nat) (s : State) (i : Nat) :
    steadyOf false (evalEntry job st p s i) = steadyOf false s := by
  unfold evalEntry; (repeat' split) <;> simp

@[simp] theorem steadyOf_evalSchedule (job : W32) (st : W64) (p : Nat) (s : State) :
    steadyOf false (evalSchedule job st p s) = steadyOf false s := by
  unfold evalSchedule; split <;> simp

@[simp] theorem steadyOf_dropHolds (job : W32) (s : State) : steadyOf false (dropHolds job s) = steadyOf false s := by
  unfold dropHolds; split <;> simp

/-! ### MirrorOps -/

@[simp] theorem steadyOf_sendMirror (job : W32) (peer : W16) (onMgmt : Bool) (op buffer offset : Nat) (payload : List Byte)
    (s : State) :
    steadyOf false (sendMirror job peer onMgmt op buffer offset payload s) = steadyOf false s := by simp [sendMirror]

@[simp] theorem steadyOf_setHostStream (a b : Ip6) (job : W32) (x : Stream) (s : State) :
    steadyOf false (setHostStream a b job x s) = steadyOf false s := by simp [setHostStream]

@[simp] theorem steadyOf_pumpHost (fuel : Nat) (a b : Ip6) (job : W32) (s : State) :
    steadyOf false (pumpHost fuel a b job s) = steadyOf false s := by
  induction fuel generalizing s with
  | zero => rfl
  | succ fuel ih =>
    unfold pumpHost
    split
    · rfl
    · split
      · rfl
      · simp [ih]

@[simp] theorem steadyOf_hostSend (v : Via) (a : Ip6) (job : W32) (peer : W16) (h : Stream → ChordHdr) (payload : List Byte)
    (s : State) :
    steadyOf false (hostSend v a job peer h payload s) = steadyOf false s := by simp [hostSend]

@[simp] theorem steadyOf_sendRequest (job : W32) (peer : W16) (onMgmt : Bool) (op : Nat) (payload : List Byte) (s : State) :
    steadyOf false (sendRequest job peer onMgmt op payload s) = steadyOf false s := by
  unfold sendRequest; (repeat' split) <;> simp

@[simp] theorem steadyOf_regionWrite (r : Region) (off : Nat) (bs : List Byte) (s : State) :
    steadyOf false (regionWrite r off bs s) = steadyOf false s := by simp [regionWrite]

@[simp] theorem steadyOf_regionRead (req : Byte) (r : Region) (off n : Nat) (s : State) :
    steadyOf false (regionRead req r off n s).1 = steadyOf false s := by
  refine steadyOf_foldl_fst fun p x => ?_
  split
  · rfl
  · split <;> next h => simp [steadyOf_fst_of_eq h]

@[simp] theorem steadyOf_regionDesc (req : Byte) (r : Region) (b : Fin 2) (s : State) :
    steadyOf false (regionDesc req r b s).1 = steadyOf false s := by
  unfold regionDesc
  split <;> next h => simp [steadyOf_fst_of_eq h]

@[simp] theorem steadyOf_putDesc (r : Region) (b : Fin 2) (d : CopyDesc) (s : State) :
    steadyOf false (putDesc r b d s) = steadyOf false s := by simp [putDesc]

@[simp] theorem steadyOf_copiesOf (req : Byte) (r : Region) (s : State) :
    steadyOf false (copiesOf req r s).1 = steadyOf false s := by
  refine steadyOf_foldl_fst fun p b => ?_
  split <;> next h => simp [steadyOf_fst_of_eq h]

@[simp] theorem steadyOf_newestCopy (req : Byte) (r : Region) (s : State) :
    steadyOf false (newestCopy req r s).1 = steadyOf false s := by
  obtain ⟨newest, hn⟩ : ∃ f, f = newestCopy := ⟨_, rfl⟩
  rw [← hn]
  delta newestCopy at hn
  obtain ⟨copies, hc⟩ : ∃ f, f = copiesOf := ⟨_, rfl⟩
  have h := steadyOf_copiesOf req r s
  rw [← hc] at h hn
  subst hn
  exact h

@[simp] theorem steadyOf_targetBuffer (r : Region) (s : State) : steadyOf false (targetBuffer r s).1 = steadyOf false s := by
  unfold targetBuffer
  rcases h : newestCopy rqSnap r s with ⟨t, _ | x⟩
  · split <;> simp [steadyOf_fst_of_eq h]
  · split <;> simp [steadyOf_fst_of_eq h]

@[simp] theorem steadyOf_endRegion (job : W32) (rank : W16) (s : State) :
    steadyOf false (endRegion job rank s) = steadyOf false s := by simp [endRegion]

@[simp] theorem steadyOf_freeFlashCopy (job : W32) (rank : W16) (s : State) :
    steadyOf false (freeFlashCopy job rank s) = steadyOf false s := by simp [freeFlashCopy]

@[simp] theorem steadyOf_loadScales (k : Fin 4) (es : List (Nat × ScaleEntry)) (s : State) :
    steadyOf false (loadScales k es s) = steadyOf false s := by simp [loadScales]

@[simp] theorem steadyOf_noteOldTag (job : W32) (s : State) :
    steadyOf false (noteOldTag job s) = steadyOf false s := by simp [noteOldTag]

@[simp] theorem steadyOf_clearPend (job : W32) (s : State) :
    steadyOf false (clearPend job s) = steadyOf false s := by simp [clearPend]

@[simp] theorem steadyOf_localHolds (j : Job) (before g : W64) (sh : ShardEnt) (s : State) :
    steadyOf false (localHolds j before g sh s).1 = steadyOf false s := by
  unfold localHolds
  dsimp only
  split
  · rfl
  · split <;> next h => simp [steadyOf_fst_of_eq h]

@[simp] theorem steadyOf_missingShards (j : Job) (before g : W64) (s : State) :
    steadyOf false (missingShards j before g s).1 = steadyOf false s := by
  refine steadyOf_foldl_fst fun p sh => ?_
  split <;> next h => simp [steadyOf_fst_of_eq h]

@[simp] theorem steadyOf_restoreScaleState (j : Job) (g before : W64) (copy : Option (List (Nat × ScaleEntry))) (s : State) :
    steadyOf false (restoreScaleState j g before copy s) = steadyOf false s := by
  unfold restoreScaleState; dsimp only; (repeat' split) <;> simp

@[simp] theorem steadyOf_finishRestore (job : W32) (h : Hdr) (g step : W64) (moved : Nat) (before : W64)
    (copy : Option (List (Nat × ScaleEntry))) (s : State) :
    steadyOf false (finishRestore job h g step moved before copy s) = steadyOf false s := by
  unfold finishRestore; split <;> simp

@[simp] theorem steadyOf_failRestore (job : W32) (h : Hdr) (moved : Nat) (s : State) :
    steadyOf false (failRestore job h moved s) = steadyOf false s := by
  unfold failRestore; split <;> simp

@[simp] theorem steadyOf_restoreLocal (job : W32) (h : Hdr) (g : W64) (moved : Nat) (before : W64) (s : State) :
    steadyOf false (restoreLocal job h g moved before s) = steadyOf false s := by
  unfold restoreLocal
  split
  · rfl
  · split
    next k =>
      have hk : steadyOf false _ = steadyOf false s := (steadyOf_fst_of_eq k).trans (by simp)
      split
      · simp [hk]
      · split
        next l =>
          rw [steadyOf_finishRestore, steadyOf_fst_of_eq l]
          split
          · split <;> next m => simp [steadyOf_fst_of_eq m, hk]
          · exact hk

@[simp] theorem steadyOf_localGens (j : Job) (before : W64) (s : State) :
    steadyOf false (localGens j before s).1 = steadyOf false s := by
  unfold localGens
  split
  · rfl
  · refine steadyOf_foldl_fst fun p g => ?_
    split <;> next h => simp [steadyOf_fst_of_eq h]

@[simp] theorem steadyOf_nextSource (fuel : Nat) (job : W32) (h : Hdr) (explicit : Bool) (gen : W64)
    (left : List (W16 × Bool × W64)) (moved : Nat) (before : W64) (s : State) :
    steadyOf false (nextSource fuel job h explicit gen left moved before s) = steadyOf false s := by
  induction fuel generalizing s left with
  | zero => simp [nextSource]
  | succ fuel ih =>
    have known : ∀ j : Job, steadyOf false (if explicit then (s, []) else localGens j before s).1 = steadyOf false s := by simp
    unfold nextSource
    split
    · rfl
    · next j _ =>
      dsimp only
      split
      · simp
      · split
        · next k => simp [steadyOf_fst_of_eq k]
        · next k =>
          split
          · simp [steadyOf_fst_of_eq k]
          · simp [steadyOf_fst_of_eq k, ih]

@[simp] theorem steadyOf_failSource (job : W32) (s : State) : steadyOf false (failSource job s) = steadyOf false s := by
  unfold failSource; split <;> simp

@[simp] theorem steadyOf_openSlots (job : W32) (g before : W64) (s : State) :
    steadyOf false (openSlots job g before s) = steadyOf false s := by
  unfold openSlots; split <;> simp

@[simp] theorem steadyOf_fillShard (j : Job) (g step : W64) (got : List Host.Cell) (as : List Area) (sh : ShardEnt)
    (s : State) :
    steadyOf false (fillShard j g step got as sh s).1 = steadyOf false s := by
  unfold fillShard; (repeat' split) <;> simp

@[simp] theorem steadyOf_decodeRestore (job : W32) (s : State) : steadyOf false (decodeRestore job s) = steadyOf false s := by
  unfold decodeRestore; dsimp only; (repeat' split) <;> simp

@[simp] theorem steadyOf_chooseRestore (job : W32) (h : Hdr) (partners : List W16) (offers : List (W16 × Bool × W64))
    (s : State) :
    steadyOf false (chooseRestore job h partners offers s) = steadyOf false s := by
  unfold chooseRestore; split <;> simp

@[simp] theorem steadyOf_sendQueries (job : W32) (partners : List W16) (s : State) :
    steadyOf false (sendQueries job partners s).1 = steadyOf false s := by
  refine steadyOf_foldl_fst fun p r => ?_
  split <;> simp

@[simp] theorem steadyOf_startRestore (job : W32) (h : Hdr) (addr : Ip6) (gen : W64) (s : State) :
    steadyOf false (startRestore job h addr gen s) = steadyOf false s := by
  unfold startRestore
  split
  · rfl
  · dsimp only
    split
    · split <;> next h => simp [steadyOf_fst_of_eq h]
    · simp

@[simp] theorem steadyOf_finishUnbind (job : W32) (h : Hdr) (s : State) :
    steadyOf false (finishUnbind job h s) = steadyOf false s := by
  unfold finishUnbind; split <;> simp

@[simp] theorem steadyOf_afterSnapshot (job : W32) (s : State) : steadyOf false (afterSnapshot job s) = steadyOf false s := by
  unfold afterSnapshot; (repeat' split) <;> simp

@[simp] theorem steadyOf_failBindSnap (job : W32) (s : State) : steadyOf false (failBindSnap job s) = steadyOf false s := by
  unfold failBindSnap; split <;> simp

@[simp] theorem steadyOf_settleSnapshot (job : W32) (s : State) :
    steadyOf false (settleSnapshot job s) = steadyOf false s := by
  unfold settleSnapshot; (repeat' split) <;> simp

@[simp] theorem steadyOf_failSnapshot (job : W32) (s : State) :
    steadyOf false (failSnapshot job s) = steadyOf false s := by simp [failSnapshot]

@[simp] theorem steadyOf_snapProgress (job : W32) (s : State) : steadyOf false (snapProgress job s) = steadyOf false s := by
  unfold snapProgress; (repeat' split) <;> simp

@[simp] theorem steadyOf_removePartner (job : W32) (peer : W16) (s : State) :
    steadyOf false (removePartner job peer s) = steadyOf false s := by
  unfold removePartner; (repeat' split) <;> simp

@[simp] theorem steadyOf_snapAreas (j : Job) (lay : Layout) (g : W64) (s : State) :
    steadyOf false (snapAreas j lay g s).1 = steadyOf false s := by
  unfold snapAreas
  extract_lets as body
  have hbody : steadyOf false body.1 = steadyOf false s := by
    refine steadyOf_foldl_fst fun p sh => ?_
    split
    · rfl
    · split
      · next h =>
        dsimp only
        split <;> next k => simp [steadyOf_fst_of_eq k, steadyOf_fst_of_eq h]
      · next h => simp [steadyOf_fst_of_eq h]
  clear_value body
  split <;> exact hbody

@[simp] theorem steadyOf_sendAreas (job : W32) (peer : W16) (b : Fin 2) (d : CopyDesc)
    (areas : List (Nat × List Byte × List Byte)) (s : State) :
    steadyOf false (sendAreas job peer b d areas s) = steadyOf false s := by simp [sendAreas]

@[simp] theorem steadyOf_beginSnapshot (job : W32) (s : State) : steadyOf false (beginSnapshot job s) = steadyOf false s := by
  unfold beginSnapshot
  split
  · rfl
  · split
    · split
      · rfl
      · dsimp only
        split <;> next h => simp [steadyOf_fst_of_eq h]
    · rfl

@[simp] theorem steadyOf_endQuery (job : W32) (s : State) : steadyOf false (endQuery job s) = steadyOf false s := by
  unfold endQuery; dsimp only; (repeat' split) <;> simp

@[simp] theorem steadyOf_dropQuery (job : W32) (who : W16 × Bool) (s : State) :
    steadyOf false (dropQuery job who s) = steadyOf false s := by
  unfold dropQuery; dsimp only; split <;> simp

@[simp] theorem steadyOf_dropAsk (job : W32) (who : W16 × Bool) (new : List (W16 × Bool × W64)) (s : State) :
    steadyOf false (dropAsk job who new s) = steadyOf false s := by
  unfold dropAsk; split <;> simp

@[simp] theorem steadyOf_askAgain (job : W32) (peer : W16) (s : State) :
    steadyOf false (askAgain job peer s) = steadyOf false s := by
  unfold askAgain; split <;> simp

@[simp] theorem steadyOf_peerGone (job : W32) (peer : W16) (detected : Bool) (s : State) :
    steadyOf false (peerGone job peer detected s) = steadyOf false s := by
  unfold peerGone; dsimp only; (repeat' split) <;> simp

/-! ### ChordCmd -/

@[simp] theorem steadyOf_endFill (job : W32) (st : W16) (s : State) :
    steadyOf false (endFill job st s) = steadyOf false s := by
  unfold endFill; (repeat' split) <;> simp

@[simp] theorem steadyOf_losePeer (job : W32) (peer : W16) (detected : Bool) (s : State) :
    steadyOf false (losePeer job peer detected s) = steadyOf false s := by
  unfold losePeer; dsimp only; split <;> simp

@[simp] theorem steadyOf_endInjection (outcome : Nat) (s : State) :
    steadyOf false (endInjection outcome s) = steadyOf false s := by
  unfold endInjection; split <;> simp

@[simp] theorem steadyOf_endDrop (s : State) : steadyOf false (endDrop s) = steadyOf false s := by
  unfold endDrop; split <;> simp

@[simp] theorem steadyOf_detectNoPort (job : W32) (peer : W16) (s : State) :
    steadyOf false (detectNoPort job peer s) = steadyOf false s := by
  unfold detectNoPort; dsimp only; split <;> simp

@[simp] theorem steadyOf_detectNoPorts (s : State) : steadyOf false (detectNoPorts s) = steadyOf false s := by
  refine steadyOf_foldl fun t j => ?_
  split <;> simp

@[simp] theorem steadyOf_onPacket {body : Job → State → State} (hb : ∀ j t, steadyOf false (body j t) = steadyOf false t)
    (p : ChordHdr) (kind : BitVec 4) (seqd : Bool) (epochOk early : Job → Bool) (s : State) :
    steadyOf false (onPacket p kind seqd epochOk early body s) = steadyOf false s := by
  unfold onPacket
  extract_lets t u
  have ht : steadyOf false t = steadyOf false s := by
    rw [← steadyOf_receive p kind seqd epochOk early s]
    simp only [t]
    split <;> next h => simp [h, Recv.after, hb]
  simp [u, ht]

@[simp] theorem steadyOf_onStepPacket {body : Job → StepRun → Layout → State → State}
    (hb : ∀ j r lay t, steadyOf false (body j r lay t) = steadyOf false t) (p : ChordHdr) (kind : BitVec 4) (keep : HeldPkt)
    (s : State) :
    steadyOf false (onStepPacket p kind keep body s) = steadyOf false s := by
  refine steadyOf_onPacket (fun j t => ?_) ..
  split
  · simp
  · split
    · next h => exact steadyOf_lateForAborted h
    · split
      · simp [hb]
      · rfl

@[simp] theorem steadyOf_dataBody (p : ChordHdr) (payload : List Byte) (j : Job) (r : StepRun) (lay : Layout) (t : State) :
    steadyOf false (dataBody p payload j r lay t) = steadyOf false t := by
  unfold dataBody; dsimp only; (repeat' split) <;> simp

@[simp] theorem steadyOf_takeCredit (job : W32) (lay : Layout) (owner : Option W16) (coll : W32) (first count : Nat)
    (s : State) :
    steadyOf false (takeCredit job lay owner coll first count s) = steadyOf false s := by
  unfold takeCredit; split <;> simp

@[simp] theorem steadyOf_countFirst (p : ChordHdr) (s : State) :
    steadyOf false (countFirst p s) = steadyOf false s := by simp [countFirst]

@[simp] theorem steadyOf_collectiveAbortBody (h : Hdr) (job : W32) (s : State) :
    steadyOf false (collectiveAbortBody h job s) = steadyOf false s := by
  unfold collectiveAbortBody; split <;> simp

@[simp] theorem steadyOf_askShard (job : W32) (sh : ShardEnt) (s : State) :
    steadyOf false (askShard job sh s) = steadyOf false s := by
  unfold askShard; (repeat' split) <;> simp

@[simp] theorem steadyOf_serveGather (job : W32) (peer : W16) (shard : W32) (s : State) :
    steadyOf false (serveGather job peer shard s) = steadyOf false s := by
  unfold serveGather
  split
  · rfl
  · split
    · split
      · rfl
      · dsimp only
        split
        · split
          · rfl
          · split <;> next h => simp [steadyOf_fst_of_eq h]
        · simp
    · rfl

@[simp] theorem steadyOf_finishGathers (job : W32) (s : State) : steadyOf false (finishGathers job s) = steadyOf false s := by
  unfold finishGathers
  split
  · rfl
  · split
    · refine steadyOf_foldl fun t i => ?_
      split <;> simp
    · rfl

@[simp] theorem steadyOf_shardGathered (job : W32) (shard : W32) (s : State) :
    steadyOf false (shardGathered job shard s) = steadyOf false s := by
  unfold shardGathered; (repeat' split) <;> simp

@[simp] theorem steadyOf_copyGather (job : W32) (lay : Layout) (sh : ShardEnt) (src dst : W64) (s : State) :
    steadyOf false (copyGather job lay sh src dst s) = steadyOf false s := by
  unfold copyGather
  split
  · split <;> next h => simp [steadyOf_fst_of_eq h]
  · rfl

@[simp] theorem steadyOf_startGather (job : W32) (i : Nat) (s : State) :
    steadyOf false (startGather job i s) = steadyOf false s := by
  unfold startGather
  split
  · rfl
  · split
    · split
      · rfl
      · split
        · rfl
        · dsimp only
          rw [steadyOf_finishGathers]
          refine (steadyOf_foldl fun t sh => ?_).trans (by simp)
          split
          · split
            · split <;> next h => simp [steadyOf_fst_of_eq h]
            · rfl
          · simp
    · rfl

@[simp] theorem steadyOf_gatherBody (p : ChordHdr) (payload : List Byte) (j : Job) (r : StepRun) (lay : Layout) (t : State) :
    steadyOf false (gatherBody p payload j r lay t) = steadyOf false t := by
  unfold gatherBody
  extract_lets tensor o u
  have hu : steadyOf false u = steadyOf false t := by
    refine steadyOf_foldl fun w g => ?_
    split <;> simp
  split
  · rfl
  · simp [hu]

@[simp] theorem steadyOf_rowBody (p : ChordHdr) (payload : List Byte) (j : Job) (r : StepRun) (lay : Layout) (t : State) :
    steadyOf false (rowBody p payload j r lay t) = steadyOf false t := by
  unfold rowBody; split <;> simp

@[simp] theorem steadyOf_rowsEndBody (p : ChordHdr) (counts : List Nat) (j : Job) (r : StepRun) (lay : Layout) (t : State) :
    steadyOf false (rowsEndBody p counts j r lay t) = steadyOf false t := by
  unfold rowsEndBody; split <;> simp

@[simp] theorem steadyOf_takeHeld (job : W32) (s : State) (q : HeldPkt) :
    steadyOf false (takeHeld job s q) = steadyOf false s := by
  unfold takeHeld; (repeat' split) <;> simp

/-! ### FenceOps -/

@[simp] theorem steadyOf_stopArcs (s : State) : steadyOf false (stopArcs s) = steadyOf false s := by simp [stopArcs]

@[simp] theorem steadyOf_enterBelowFloor (s : State) :
    steadyOf false (enterBelowFloor s) = steadyOf false s := by simp [enterBelowFloor]

@[simp] theorem steadyOf_checkFloor (s : State) : steadyOf false (checkFloor s) = steadyOf false s := by simp [checkFloor]

@[simp] theorem steadyOf_setFenced (unit ix : Nat) (s : State) : steadyOf false (setFenced unit ix s) = steadyOf false s := by
  unfold setFenced; split <;> simp

@[simp] theorem steadyOf_recordFence (unit ix : Nat) (s : State) :
    steadyOf false (recordFence unit ix s) = steadyOf false s := by simp [recordFence]

@[simp] theorem steadyOf_sectorFailure (k : Fin 4) (s : State) : steadyOf false (sectorFailure k s) = steadyOf false s := by
  unfold sectorFailure; split <;> simp

@[simp] theorem steadyOf_dropColumn (c : Nat) (s : State) : steadyOf false (dropColumn c s) = steadyOf false s := by
  unfold dropColumn; split <;> simp

@[simp] theorem steadyOf_failFlights (n : Nat) (s : State) : steadyOf false (failFlights n s) = steadyOf false s := by
  refine steadyOf_foldl fun t f => steadyOf_foldl fun t q => ?_
  dsimp only
  split <;> simp

@[simp] theorem steadyOf_losePrism (n : Nat) (s : State) :
    steadyOf false (losePrism n s) = steadyOf false s := by simp [losePrism]

@[simp] theorem steadyOf_mgmtLost (p : Fin 2) (s : State) : steadyOf false (mgmtLost p s) = steadyOf false s := by
  unfold mgmtLost; dsimp only; split <;> simp

@[simp] theorem steadyOf_fenceUnit (unit ix : Nat) (s : State) : steadyOf false (fenceUnit unit ix s) = steadyOf false s := by
  unfold fenceUnit; (repeat' split) <;> simp

@[simp] theorem steadyOf_judgeColumn (c : Nat) (s : State) :
    steadyOf false (judgeColumn c s) = steadyOf false s := by simp [judgeColumn]

/-! ### ObjCmd -/

@[simp] theorem steadyOf_objCreateBody (h : Hdr) (id : W64) (size tier : Nat) (job : W32) (s : State) :
    steadyOf false (objCreateBody h id size tier job s) = steadyOf false s := by
  unfold objCreateBody; (repeat' split) <;> simp

@[simp] theorem steadyOf_objDestroyBody (h : Hdr) (id : W64) (s : State) :
    steadyOf false (objDestroyBody h id s) = steadyOf false s := by
  unfold objDestroyBody; split <;> simp

@[simp] theorem steadyOf_objPromoteBody (h : Hdr) (id : W64) (tier flags : Nat) (s : State) :
    steadyOf false (objPromoteBody h id tier flags s) = steadyOf false s := by
  unfold objPromoteBody; (repeat' split) <;> simp

@[simp] theorem steadyOf_objEvictBody (h : Hdr) (id : W64) (tier : Nat) (s : State) :
    steadyOf false (objEvictBody h id tier s) = steadyOf false s := by
  unfold objEvictBody; (repeat' split) <;> simp

@[simp] theorem steadyOf_objPinBody (h : Hdr) (id : W64) (s : State) :
    steadyOf false (objPinBody h id s) = steadyOf false s := by
  unfold objPinBody; dsimp only; (repeat' split) <;> simp

@[simp] theorem steadyOf_objUnpinBody (h : Hdr) (id : W64) (s : State) :
    steadyOf false (objUnpinBody h id s) = steadyOf false s := by
  unfold objUnpinBody; dsimp only; (repeat' split) <;> simp

@[simp] theorem steadyOf_prefetchBody (h : Hdr) (job : W32) (buf : List Byte) (s : State) :
    steadyOf false (prefetchBody h job buf s) = steadyOf false s := by
  unfold prefetchBody; (repeat' split) <;> simp

/-! ### ArcCmd -/

@[simp] theorem steadyOf_takeGranules (k : Fin 4) (gs : List Nat) (s : State) :
    steadyOf false (takeGranules k gs s) = steadyOf false s := by simp [takeGranules]

@[simp] theorem steadyOf_giveFacets (cols : BitVec 12) (k : Option (Fin 4)) (s : State) :
    steadyOf false (giveFacets cols k s) = steadyOf false s := by simp [giveFacets]

@[simp] theorem steadyOf_sectorCreateBody (h : Hdr) (columns : W16) (quota weight flags : Nat) (s : State) :
    steadyOf false (sectorCreateBody h columns quota weight flags s) = steadyOf false s := by
  unfold sectorCreateBody; dsimp only; split <;> simp

@[simp] theorem steadyOf_sectorDestroyBody (h : Hdr) (s : State) :
    steadyOf false (sectorDestroyBody h s) = steadyOf false s := by simp [sectorDestroyBody]

@[simp] theorem steadyOf_jobControls (k : Fin 4) (s : State) :
    steadyOf false (jobControls k s) = steadyOf false s := by simp [jobControls]

@[simp] theorem steadyOf_loadArc (k : Fin 4) (im : ArcImage) (b : List Byte) (s : State) :
    steadyOf false (loadArc k im b s) = steadyOf false s := by
  unfold loadArc; dsimp only; (repeat' split) <;> simp

@[simp] theorem steadyOf_writeArcCopy (gs : List Nat) (b : List Byte) (s : State) :
    steadyOf false (writeArcCopy gs b s) = steadyOf false s := by simp [writeArcCopy]

@[simp] theorem steadyOf_arcLoadBody (h : Hdr) (b : List Byte) (s : State) :
    steadyOf false (arcLoadBody h b s) = steadyOf false s := by
  unfold arcLoadBody; dsimp only; (repeat' split) <;> simp

@[simp] theorem steadyOf_arcStartBody (h : Hdr) (c : Nat) (s : State) :
    steadyOf false (arcStartBody h c s) = steadyOf false s := by
  unfold arcStartBody; dsimp only; split <;> simp

@[simp] theorem steadyOf_stopArc (k : Fin 4) (s : State) :
    steadyOf false (stopArc k s) = steadyOf false s := by simp [stopArc]

@[simp] theorem steadyOf_arcStopBody (h : Hdr) (s : State) :
    steadyOf false (arcStopBody h s) = steadyOf false s := by simp [arcStopBody]

@[simp] theorem steadyOf_jobDigest (j : Job) (s : State) : steadyOf false (jobDigest j s).1 = steadyOf false s := by
  unfold jobDigest
  split
  · rfl
  · refine steadyOf_foldl_fst fun p sh => ?_
    split <;> next h => simp [steadyOf_fst_of_eq h]

@[simp] theorem steadyOf_releasePark (job : W32) (h : Hdr) (s : State) :
    steadyOf false (releasePark job h s) = steadyOf false s := by
  unfold releasePark; split <;> simp

@[simp] theorem steadyOf_finishPark (job : W32) (h : Hdr) (s : State) :
    steadyOf false (finishPark job h s) = steadyOf false s := by
  unfold finishPark; split <;> simp

@[simp] theorem steadyOf_parkBody (h : Hdr) (job : W32) (s : State) :
    steadyOf false (parkBody h job s) = steadyOf false s := by
  unfold parkBody; split <;> simp

@[simp] theorem steadyOf_readArcCopy (c : ArcCopy) (s : State) : steadyOf false (readArcCopy c s).1 = steadyOf false s := by
  unfold readArcCopy
  obtain ⟨gib, hg⟩ : ∃ n, n = 2 ^ 30 := ⟨_, rfl⟩
  rw [← hg]
  refine steadyOf_foldl_fst fun p g => ?_
  dsimp only
  split <;> next h => simp [steadyOf_fst_of_eq h]

@[simp] theorem steadyOf_readArc (j : Job) (s : State) : steadyOf false (readArc j s).1 = steadyOf false s := by
  unfold readArc
  split
  · rfl
  · split <;> next h => simp [steadyOf_fst_of_eq h]

@[simp] theorem steadyOf_readScaleRec (j : Job) (s : State) : steadyOf false (readScaleRec j s).1 = steadyOf false s := by
  unfold readScaleRec
  rcases h : readCells rqVarlux (j.recDpa + 0x1000) 786432 s with ⟨t, _ | m⟩
  · split <;> simp [steadyOf_fst_of_eq h]
  · split <;> simp [steadyOf_fst_of_eq h]

@[simp] theorem steadyOf_finishUnpark (h : Hdr) (job : W32) (im : Option (ArcImage × List Byte)) (s : State) :
    steadyOf false (finishUnpark h job im s) = steadyOf false s := by
  unfold finishUnpark; dsimp only; (repeat' split) <;> simp

@[simp] theorem steadyOf_unparkBody (h : Hdr) (job : W32) (s : State) :
    steadyOf false (unparkBody h job s) = steadyOf false s := by
  unfold unparkBody; dsimp only; (repeat' split) <;> simp

/-! ### SecOps -/

@[simp] theorem steadyOf_extendMeas (i : Fin 5) (data : List Byte) (s : State) :
    steadyOf false (extendMeas i data s) = steadyOf false s := by simp [extendMeas]

@[simp] theorem seedDrbg_fuses (x : Sec) : (seedDrbg x).fuses = x.fuses := rfl
@[simp] theorem seedDrbg_wrapBurnt (x : Sec) : (seedDrbg x).wrapBurnt = x.wrapBurnt := rfl

@[simp] theorem reseedDrbg_fuses (x : Sec) : (reseedDrbg x).fuses = x.fuses := by unfold reseedDrbg; split <;> rfl
@[simp] theorem reseedDrbg_wrapBurnt (x : Sec) : (reseedDrbg x).wrapBurnt = x.wrapBurnt := by unfold reseedDrbg; split <;> rfl

@[simp] theorem steadyOf_randomBytes (s : State) : steadyOf b (randomBytes s).2 = steadyOf b s := by
  unfold randomBytes
  dsimp only
  split <;> rfl

/-! ### FwOps -/

@[simp] theorem steadyOf_holdDest (e : Fin 22) (type : Nat) (stream : Option (List Byte)) (s : State) :
    steadyOf false (holdDest e type stream s) = steadyOf false s := by simp [holdDest]

/-! ### HealthOps -/

@[simp] theorem steadyOf_publishScore (s : State) :
    steadyOf false (publishScore s) = steadyOf false s := by simp [publishScore]

@[simp] theorem steadyOf_changeReplace (b : Bool) (s : State) :
    steadyOf false (changeReplace b s) = steadyOf false s := by simp [changeReplace]

/-! ### ResetOps -/

@[simp] theorem steadyOf_departTokens (s : State) : steadyOf false (departTokens s) = steadyOf false s := by
  unfold departTokens
  split
  · rfl
  · refine steadyOf_foldl fun t j => ?_
    split <;> simp

@[simp] theorem steadyOf_dropVolatile (warm : Bool) (s : State) :
    steadyOf false (dropVolatile warm s) = steadyOf false s := rfl

@[simp] theorem steadyOf_releasePins (s : State) : steadyOf false (releasePins s) = steadyOf false s := by simp [releasePins]

@[simp] theorem steadyOf_beginReset (kind : BitVec 2) (source : Byte) (s : State) :
    steadyOf false (beginReset kind source s) = steadyOf false s := by simp [beginReset]

@[simp] theorem steadyOf_triggerReset (kind : BitVec 2) (source : Byte) (s : State) :
    steadyOf false (triggerReset kind source s) = steadyOf false s := by simp [triggerReset]

@[simp] theorem steadyOf_powerOff (s : State) : steadyOf false (powerOff s) = steadyOf false s := by simp [powerOff]

@[simp] theorem steadyOf_losePrisms (lost : BitVec 4) (s : State) :
    steadyOf false (losePrisms lost s) = steadyOf false s := by simp [losePrisms]

/-! ### PowerCmd -/

@[simp] theorem steadyOf_startConverters (s : State) :
    steadyOf false (startConverters s) = steadyOf false s := by simp [startConverters]

@[simp] theorem steadyOf_smbAnswer (v : W16) (s : State) :
    steadyOf false (smbAnswer v s) = steadyOf false s := by simp [smbAnswer]

/-! ### BootOps -/

@[simp] theorem steadyOf_setStage (e : Fin 22) (st : StageStatus) (fails : Nat) (s : State) :
    steadyOf false (setStage e st fails s) = steadyOf false s := by simp [setStage]

@[simp] theorem steadyOf_failStage (e : Fin 22) (s : State) :
    steadyOf false (failStage e s) = steadyOf false s := by simp [failStage]

@[simp] theorem steadyOf_setWdt (ms : Nat) (boot : Bool) (s : State) :
    steadyOf false (setWdt ms boot s) = steadyOf false s := by simp [setWdt]

@[simp] theorem steadyOf_bootFence (unit ix : Nat) (s : State) :
    steadyOf false (bootFence unit ix s) = steadyOf false s := by simp [bootFence]

@[simp] theorem steadyOf_mapFence (unit ix : Nat) (s : State) :
    steadyOf false (mapFence unit ix s) = steadyOf false s := by simp [mapFence]

@[simp] theorem steadyOf_changeFence (g : FenceMap → FenceMap) (s : State) :
    steadyOf false (changeFence g s) = steadyOf false s := by simp [changeFence]

@[simp] theorem steadyOf_mapFences (unit count : Nat) (held : Nat → Bool) (s : State) :
    steadyOf false (mapFences unit count held s) = steadyOf false s := by simp [mapFences]

@[simp] theorem steadyOf_applyMem (n : Fin 4) (s : State) :
    steadyOf false (applyMem n s) = steadyOf false s := by simp [applyMem]

@[simp] theorem steadyOf_zeroFails (s : State) : steadyOf false (zeroFails s) = steadyOf false s := by simp [zeroFails]

@[simp] theorem steadyOf_applyClear (s : State) : steadyOf false (applyClear s) = steadyOf false s := by simp [applyClear]

@[simp] theorem steadyOf_settleDegraded (s : State) :
    steadyOf false (settleDegraded s) = steadyOf false s := by simp [settleDegraded]

@[simp] theorem steadyOf_endBelow (s : State) : steadyOf false (endBelow s) = steadyOf false s := by simp [endBelow]

@[simp] theorem steadyOf_enterRecovery (s : State) :
    steadyOf false (enterRecovery s) = steadyOf false s := by simp [enterRecovery]

@[simp] theorem steadyOf_partOk (dpa len : Nat) (s : State) : steadyOf false (partOk dpa len s).1 = steadyOf false s := by
  unfold partOk
  split
  · rfl
  · split <;> next h => simp [steadyOf_fst_of_eq h]

@[simp] theorem steadyOf_recordWhole (dpa : Nat) (s : State) : steadyOf false (recordWhole dpa s).1 = steadyOf false s := by
  unfold recordWhole
  obtain ⟨a, ha⟩ : ∃ a, a = dpa + 0x101000 := ⟨_, rfl⟩
  obtain ⟨b, hb⟩ : ∃ b, b = dpa + 0x2101000 := ⟨_, rfl⟩
  obtain ⟨c, hc⟩ : ∃ c, c = dpa + 0x2902000 := ⟨_, rfl⟩
  rw [← ha, ← hb, ← hc]
  rcases h : readBytes rqVarlux (dpa + 0x40) 192 s with ⟨t, _ | x⟩ <;> simp [steadyOf_fst_of_eq h]

@[simp] theorem steadyOf_entryPreserved (e : DirEntry) (s : State) :
    steadyOf false (entryPreserved e s).1 = steadyOf false s := by simp [entryPreserved]

@[simp] theorem steadyOf_examine (i : Fin 4) (s : State) : steadyOf false (examine i s) = steadyOf false s := by
  unfold examine
  split
  · rfl
  · split <;> next h => simp [steadyOf_fst_of_eq h]

@[simp] theorem steadyOf_dropUnlisted (s : State) :
    steadyOf false (dropUnlisted s) = steadyOf false s := by simp [dropUnlisted]

@[simp] theorem steadyOf_holdRecords (s : State) : steadyOf false (holdRecords s) = steadyOf false s := by
  unfold holdRecords; dsimp only; split <;> simp

@[simp] theorem steadyOf_endReady (s : State) : steadyOf false (endReady s) = steadyOf false s := by simp [endReady]

@[simp] theorem steadyOf_markStarted (e : Fin 22) (s : State) :
    steadyOf false (markStarted e s) = steadyOf false s := by simp [markStarted]

@[simp] theorem steadyOf_markSkipped (e : Fin 22) (s : State) :
    steadyOf false (markSkipped e s) = steadyOf false s := by simp [markSkipped]

@[simp] theorem steadyOf_startRequired (e : Fin 22) (s : State) :
    steadyOf false (startRequired e s) = steadyOf false s := by simp [startRequired]

@[simp] theorem steadyOf_startMgmt (p : Nat) (e : Fin 22) (s : State) :
    steadyOf false (startMgmt p e s) = steadyOf false s := by simp [startMgmt]

@[simp] theorem steadyOf_startFabric (p : Nat) (e : Fin 22) (s : State) :
    steadyOf false (startFabric p e s) = steadyOf false s := by simp [startFabric]

@[simp] theorem steadyOf_startMem (n : Fin 4) (e : Fin 22) (s : State) :
    steadyOf false (startMem n e s) = steadyOf false s := by simp [startMem]

@[simp] theorem steadyOf_startEntry (s : State) (e : Fin 22) : steadyOf false (startEntry s e) = steadyOf false s := by
  unfold startEntry; (repeat' split) <;> simp

@[simp] theorem steadyOf_afterGroup (es : List (Fin 22)) (s : State) :
    steadyOf false (afterGroup es s) = steadyOf false s := by simp [afterGroup]

@[simp] theorem steadyOf_startGroups (gs : List (List (Fin 22) × Nat)) (s : State) :
    steadyOf false (startGroups gs s) = steadyOf false s := by
  induction gs generalizing s with
  | nil => rfl
  | cons g gs ih => simp [startGroups, ih]

@[simp] theorem steadyOf_advanceBoot (e : Fin 22) (s : State) : steadyOf false (advanceBoot e s) = steadyOf false s := by
  unfold advanceBoot; (repeat' split) <;> simp

@[simp] theorem steadyOf_journalStage (f : JrnFaults) (torn : Option (RecKind × Cut)) (s : State) :
    steadyOf false (journalStage f torn s) = steadyOf false s := by simp [journalStage]

/-! ### FabricCmd -/

@[simp] theorem steadyOf_solicit (p : Fin 8) (s : State) :
    steadyOf false (solicit p s) = steadyOf false s := by simp [solicit]

@[simp] theorem steadyOf_fabricConfigBody (h : Hdr) (port : Byte) (tDetect : W32) (addr : Ip6) (s : State) :
    steadyOf false (fabricConfigBody h port tDetect addr s) = steadyOf false s := by simp [fabricConfigBody]

@[simp] theorem steadyOf_portStatusBody (h : Hdr) (port : Byte) (s : State) :
    steadyOf false (portStatusBody h port s) = steadyOf false s := by simp [portStatusBody]

/-! ### BootCmd -/

@[simp] theorem steadyOf_passStage (e : Fin 22) (s : State) :
    steadyOf false (passStage e s) = steadyOf false s := by simp [passStage]

@[simp] theorem steadyOf_failReset (e : Fin 22) (s : State) :
    steadyOf false (failReset e s) = steadyOf false s := by simp [failReset]

@[simp] theorem passSlot_fuses (b : Bool) (svn : Nat) (x : Sec) : (passSlot b svn x).fuses = x.fuses := by cases b <;> rfl
@[simp] theorem passSlot_wrapBurnt (b : Bool) (svn : Nat) (x : Sec) : (passSlot b svn x).wrapBurnt = x.wrapBurnt := by
  cases b <;> rfl

@[simp] theorem loadApex_fuses (f : SlotFacts) (x : Sec) : (loadApex f x).fuses = x.fuses := by unfold loadApex; split <;> rfl
@[simp] theorem loadApex_wrapBurnt (f : SlotFacts) (x : Sec) : (loadApex f x).wrapBurnt = x.wrapBurnt := by
  unfold loadApex; split <;> rfl

@[simp] theorem steadyOf_runImage (b : Bool) (f : SlotFacts) (s : State) :
    steadyOf false (runImage b f s) = steadyOf false s := by
  simp [runImage, recordSections]

@[simp] theorem steadyOf_fenceLinks (s : State) : steadyOf false (fenceLinks s) = steadyOf false s := by
  refine steadyOf_foldl fun t l => ?_
  split <;> simp

@[simp] theorem steadyOf_initPrism (n : Fin 4) (pairs : W32) (entries : List RemapEntry) (s : State) :
    steadyOf false (initPrism n pairs entries s) = steadyOf false s := by simp [initPrism]

@[simp] theorem steadyOf_initSaved (n : Fin 4) (r : SavedParams) (s : State) :
    steadyOf false (initSaved n r s) = steadyOf false s := by simp [initSaved]

@[simp] theorem steadyOf_fullTrain (n : Fin 4) (failedPairs : Byte) (s : State) :
    steadyOf false (fullTrain n failedPairs s) = steadyOf false s := by simp [fullTrain]

@[simp] theorem steadyOf_exitSr (n : Fin 4) (s : State) : steadyOf false (exitSr n s) = steadyOf false s := by simp [exitSr]

theorem steadyOf_runMem {n : Fin 4} {r : StageResult} {failedPairs : Byte} {s t : State}
    (h : runMem n r failedPairs s = some t) :
    steadyOf false t = steadyOf false s := by
  unfold runMem at h
  split at h
  · cases h
  · cases h; simp
  · cases h; simp
  · split at h
    · cases h; simp
    · cases h
  · cases h

@[simp] theorem steadyOf_noteReplay (link : Fin 9) (k : Fin 4) (s : State) :
    steadyOf false (noteReplay link k s) = steadyOf false s := by simp [noteReplay]

@[simp] theorem steadyOf_linkDown (l : Fin 9) (s : State) : steadyOf false (linkDown l s) = steadyOf false s := by
  unfold linkDown; split <;> simp

@[simp] theorem steadyOf_copyBytes (c : Option BootRec) (s : State) :
    steadyOf false (copyBytes c s).2 = steadyOf false s := by
  unfold copyBytes; split <;> simp

@[simp] theorem steadyOf_bootJournalReadBody (h : Hdr) (s : State) :
    steadyOf false (bootJournalReadBody h s) = steadyOf false s := by simp [bootJournalReadBody]

@[simp] theorem steadyOf_bootJournalClearBody (h : Hdr) (s : State) :
    steadyOf false (bootJournalClearBody h s) = steadyOf false s := by simp [bootJournalClearBody]

/-! ### FacetScalar -/

@[simp] theorem steadyOf_issueSalu (code : BitVec 4) (op : W64 → W64 → W64) (f : Fin 96) (i : Ins) (e : Ecc) (s : State) :
    steadyOf false (issueSalu code op f i e s) = steadyOf false s := by simp [issueSalu]

@[simp] theorem steadyOf_sectorHalted (f : Fin 96) (s : State) : steadyOf false (sectorHalted f s) = steadyOf false s := by
  unfold sectorHalted; split <;> simp

/-! ### FwCmd -/

@[simp] theorem setSlot_fuses (b : Bool) (c : SlotContent) (x : Sec) : (setSlot b c x).fuses = x.fuses := by cases b <;> rfl
@[simp] theorem setSlot_wrapBurnt (b : Bool) (c : SlotContent) (x : Sec) : (setSlot b c x).wrapBurnt = x.wrapBurnt := by
  cases b <;> rfl

@[simp] theorem eraseSlot_fuses (b : Bool) (x : Sec) : (eraseSlot b x).fuses = x.fuses := by cases b <;> rfl
@[simp] theorem eraseSlot_wrapBurnt (b : Bool) (x : Sec) : (eraseSlot b x).wrapBurnt = x.wrapBurnt := by cases b <;> rfl

@[simp] theorem steadyOf_dropInstall (b : Bool) (s : State) : steadyOf false (dropInstall b s) = steadyOf false s := by
  simp [dropInstall]

@[simp] theorem steadyOf_finishInstall (h : Hdr) (b : Bool) (known : Nat) (cells hdr : List Host.Cell) (total : Nat)
    (s : State) :
    steadyOf false (finishInstall h b known cells hdr total s) = steadyOf false s := by
  unfold finishInstall
  dsimp only
  split <;> simp

@[simp] theorem steadyOf_takeChunk (h : Hdr) (offset : Nat) (last b : Bool) (bs : List Byte) (hdr : List Host.Cell)
    (s : State) :
    steadyOf false (takeChunk h offset last b bs hdr s) = steadyOf false s := by
  simp [takeChunk]

@[simp] theorem steadyOf_fwInstallBody (h : Hdr) (offset flags slot : Nat) (bs : List Byte) (s : State) :
    steadyOf false (fwInstallBody h offset flags slot bs s) = steadyOf false s := by
  unfold fwInstallBody
  dsimp only
  split
  · simp
  · split <;> simp

@[simp] theorem steadyOf_activate (b : Bool) (s : State) :
    steadyOf false (activate b s) = steadyOf false s := by simp [activate]

@[simp] theorem steadyOf_fwActivateBody (h : Hdr) (slot : Nat) (s : State) :
    steadyOf false (fwActivateBody h slot s) = steadyOf false s := by simp [fwActivateBody]

@[simp] theorem steadyOf_debugUnlockBody (h : Hdr) (b : List Byte) (s : State) :
    steadyOf false (debugUnlockBody h b s) = steadyOf false s := by simp [debugUnlockBody]

/-! ### HealthCmd -/

@[simp] theorem steadyOf_uncounted (g : State → State) (s : State) (hg : ∀ t, steadyOf false (g t) = steadyOf false t) :
    steadyOf false (uncounted g s) = steadyOf false s := by simp [uncounted, hg]

@[simp] theorem steadyOf_inject (b : Fin 9) (target : Nat) (s : State) :
    steadyOf false (inject b target s) = steadyOf false s := by
  unfold inject; dsimp only; (repeat' split) <;> simp

@[simp] theorem steadyOf_healthReadBody (h : Hdr) (s : State) :
    steadyOf false (healthReadBody h s) = steadyOf false s := by simp [healthReadBody]

@[simp] theorem steadyOf_healthConfigBody (h : Hdr) (threshold hysteresis : W16) (dwell : W32) (budget : W16) (window : W32)
    (s : State) :
    steadyOf false (healthConfigBody h threshold hysteresis dwell budget window s) = steadyOf false s := by
  simp [healthConfigBody]

@[simp] theorem steadyOf_markLift (unit ix : Nat) (s : State) :
    steadyOf false (markLift unit ix s) = steadyOf false s := by simp [markLift]

@[simp] theorem steadyOf_unitFenceBody (h : Hdr) (unit index action : Nat) (s : State) :
    steadyOf false (unitFenceBody h unit index action s) = steadyOf false s := by simp [unitFenceBody]

@[simp] theorem steadyOf_rehearsalConfigBody (h : Hdr) (flags : Byte) (period : W32) (mask : W64) (s : State) :
    steadyOf false (rehearsalConfigBody h flags period mask s) = steadyOf false s := by simp [rehearsalConfigBody]

@[simp] theorem steadyOf_diagRunBody (h : Hdr) (test unit index : Nat) (result duration : W32) (s : State) :
    steadyOf false (diagRunBody h test unit index result duration s) = steadyOf false s := by
  unfold diagRunBody; (repeat' split) <;> simp

/-! ### JobCmd -/

@[simp] theorem steadyOf_setDir (i : Fin 4) (e : Option DirEntry) (s : State) :
    steadyOf false (setDir i e s) = steadyOf false s := by simp [setDir]

@[simp] theorem steadyOf_rejoin (job : W32) (s : State) : steadyOf false (rejoin job s) = steadyOf false s := by simp [rejoin]

@[simp] theorem steadyOf_openJob (h : Hdr) (job : W32) (seed : W64) (rule : Nat) (i : Fin 4) (s : State) :
    steadyOf false (openJob h job seed rule i s) = steadyOf false s := by simp [openJob]

@[simp] theorem steadyOf_readObjTable (dpa : Nat) (s : State) : steadyOf false (readObjTable dpa s).1 = steadyOf false s := by
  unfold readObjTable
  split
  · next h =>
    dsimp only
    split <;> next k => simp [steadyOf_fst_of_eq k, steadyOf_fst_of_eq h]
  · next h => simp [steadyOf_fst_of_eq h]

@[simp] theorem steadyOf_reinstate (job : W32) (s : State) (e : W64 × Nat × Nat) :
    steadyOf false (reinstate job s e) = steadyOf false s := by
  unfold reinstate; dsimp only; split <;> simp

@[simp] theorem steadyOf_adoptJob (h : Hdr) (j : Job) (s : State) : steadyOf false (adoptJob h j s) = steadyOf false s := by
  unfold adoptJob
  extract_lets k t u
  split
  next tab hu =>
  have ht : steadyOf false _ = steadyOf false s := (steadyOf_fst_of_eq hu).trans (by simp [u, t])
  extract_lets v w
  split
  next bad hb =>
  have hv : steadyOf false _ = steadyOf false s := (steadyOf_fst_of_eq hb).trans <|
    (steadyOf_foldl_fst fun p sh => by
      split
      · next l => split; next m => simp [steadyOf_fst_of_eq m, steadyOf_fst_of_eq l]
      · next l => simp [steadyOf_fst_of_eq l]).trans (by simp [w, v, ht])
  extract_lets x y z
  have hy : steadyOf false y = steadyOf false s := by
    simp only [y]
    split
    · simp [x, hv]
    · split <;> simp [x, hv]
  have hz : steadyOf false z = steadyOf false s := by
    simp only [z]
    split <;> simp [hy]
  simp [hz]

@[simp] theorem steadyOf_jobOpenBody (h : Hdr) (job : W32) (seed : W64) (rule : Nat) (s : State) :
    steadyOf false (jobOpenBody h job seed rule s) = steadyOf false s := by
  unfold jobOpenBody; (repeat' split) <;> simp

@[simp] theorem steadyOf_endJobObjects (job : W32) (s : State) :
    steadyOf false (endJobObjects job s) = steadyOf false s := by simp [endJobObjects]

@[simp] theorem steadyOf_jobCloseBody (h : Hdr) (job : W32) (s : State) :
    steadyOf false (jobCloseBody h job s) = steadyOf false s := by
  unfold jobCloseBody; dsimp only; (repeat' split) <;> simp

@[simp] theorem steadyOf_shardCommitBody (h : Hdr) (job shard : W32) (gen src : W64) (s : State) :
    steadyOf false (shardCommitBody h job shard gen src s) = steadyOf false s := by
  unfold shardCommitBody
  split
  · simp
  · split
    · simp
    · dsimp only
      split
      · next h => simp [steadyOf_fst_of_eq h]
      · next h => split <;> next k => simp [steadyOf_fst_of_eq k, steadyOf_fst_of_eq h]
    · simp

@[simp] theorem steadyOf_shardReadBody (h : Hdr) (job shard : W32) (dest : W64) (s : State) :
    steadyOf false (shardReadBody h job shard dest s) = steadyOf false s := by
  unfold shardReadBody
  split
  · simp
  · split
    · simp
    · split
      · split
        · simp
        · split
          · simp
          · dsimp only
            split
            · next h => simp [steadyOf_fst_of_eq h]
            · next h => simp [steadyOf_fst_of_eq h]
            · next h =>
              split
              · simp [steadyOf_fst_of_eq h]
              · split <;> next k => simp [steadyOf_fst_of_eq k, steadyOf_fst_of_eq h]
      · simp

@[simp] theorem steadyOf_stepArmStatus (job : W32) (step : W64) (micro epoch : W16) (s : State) :
    steadyOf false (stepArmStatus job step micro epoch s).1 = steadyOf false s := by
  unfold stepArmStatus
  split
  · rfl
  · split
    · rfl
    · split
      · rfl
      · split
        · rfl
        · split
          · rfl
          · split <;> next h => simp [steadyOf_fst_of_eq h]

@[simp] theorem steadyOf_armScales (j : Job) (s : State) :
    steadyOf false (armScales j s) = steadyOf false s := by simp [armScales]

@[simp] theorem steadyOf_serveEarly (job : W32) (s : State) : steadyOf false (serveEarly job s) = steadyOf false s := by
  unfold serveEarly; dsimp only; (repeat' split) <;> simp

@[simp] theorem steadyOf_stepArmBody (h : Hdr) (job : W32) (step : W64) (micro epoch : W16) (s : State) :
    steadyOf false (stepArmBody h job step micro epoch s) = steadyOf false s := by
  unfold stepArmBody
  split
  · next k => simp [steadyOf_fst_of_eq k]
  · next k _ => simp [steadyOf_fst_of_eq k]
  · next k _ =>
    dsimp only
    simp only [steadyOf_answer, steadyOf_serveEarly, steadyOf_setFcsrStep, steadyOf_modJob, steadyOf_writeArmed, steadyOf_armScales]
    split <;> next l => simp [steadyOf_fst_of_eq l, steadyOf_fst_of_eq k]

@[simp] theorem steadyOf_stepStatusBody (h : Hdr) (job : W32) (s : State) :
    steadyOf false (stepStatusBody h job s) = steadyOf false s := by
  unfold stepStatusBody; split <;> simp

@[simp] theorem steadyOf_ruleLoadBody (h : Hdr) (job : W32) (b : List Byte) (s : State) :
    steadyOf false (ruleLoadBody h job b s) = steadyOf false s := by
  unfold ruleLoadBody; (repeat' split) <;> simp

@[simp] theorem steadyOf_startGathers (job : W32) (step : W64) (p : Nat) (s : State) :
    steadyOf false (startGathers job step p s) = steadyOf false s := by
  unfold startGathers; (repeat' split) <;> simp

/-! ### LayoutCmd -/

@[simp] theorem steadyOf_partnersStay (j : Job) (new : Layout) (r : Region) (s : State) :
    steadyOf false (partnersStay j new r s).1 = steadyOf false s := by
  unfold partnersStay; split <;> simp

@[simp] theorem steadyOf_regionsAcross (j : Job) (new : Layout) (epoch : W16) (s : State) :
    steadyOf false (regionsAcross j new epoch s) = steadyOf false s := by simp [regionsAcross]

@[simp] theorem steadyOf_installLayout (job : W32) (h : Hdr) (lay : Layout) (epoch : W16) (filled : List W32) (s : State) :
    steadyOf false (installLayout job h lay epoch filled s) = steadyOf false s := by
  unfold installLayout; split <;> simp

@[simp] theorem steadyOf_fillIncoming (j : Job) (epoch : W16) (srcs : List (ShardEnt × List Host.Cell)) (sh : ShardEnt)
    (s : State) :
    steadyOf false (fillIncoming j epoch srcs sh s).1 = steadyOf false s := by simp [fillIncoming]

@[simp] theorem steadyOf_finishFill (job : W32) (s : State) : steadyOf false (finishFill job s) = steadyOf false s := by
  unfold finishFill; (repeat' split) <;> simp

@[simp] theorem steadyOf_askSources (fuel : Nat) (job : W32) (s : State) :
    steadyOf false (askSources fuel job s) = steadyOf false s := by
  induction fuel generalizing s with
  | zero => simp [askSources]
  | succ fuel ih =>
    unfold askSources
    split
    · rfl
    · split
      · split
        · simp
        · simp [ih]
      · rfl

@[simp] theorem steadyOf_ownSources (j : Job) (shs : List ShardEnt) (s : State) :
    steadyOf false (ownSources j shs s).1 = steadyOf false s := by
  refine steadyOf_foldl_fst fun p sh => ?_
  split
  · rfl
  · split
    · next h => simp [steadyOf_fst_of_eq h]
    · next h => simp [steadyOf_fst_of_eq h]
    · next h => split <;> next k => simp [steadyOf_fst_of_eq k, steadyOf_fst_of_eq h]

@[simp] theorem steadyOf_continueInstall (job : W32) (h : Hdr) (epoch : W16) (buf : List Byte) (s : State) :
    steadyOf false (continueInstall job h epoch buf s) = steadyOf false s := by
  unfold continueInstall
  split
  · rfl
  · split
    · simp
    · split
      · simp
      · dsimp only
        split
        · simp
        · split <;> next h => simp [steadyOf_fst_of_eq h]

@[simp] theorem steadyOf_layoutInstallBody (h : Hdr) (job : W32) (epoch : W16) (flags : Nat) (buf : List Byte) (s : State) :
    steadyOf false (layoutInstallBody h job epoch flags buf s) = steadyOf false s := by
  unfold layoutInstallBody; dsimp only; (repeat' split) <;> simp

@[simp] theorem steadyOf_serveReshard (job : W32) (peer : W16) (shard : W32) (gen : W64) (s : State) :
    steadyOf false (serveReshard job peer shard gen s) = steadyOf false s := by
  unfold serveReshard
  split
  · rfl
  · dsimp only
    split
    · simp
    · split
      · rfl
      · split
        · next h => simp [steadyOf_fst_of_eq h]
        · next h => simp [steadyOf_fst_of_eq h]
        · next h => split <;> next k => simp [steadyOf_fst_of_eq k, steadyOf_fst_of_eq h]

/-! ### MboxCmd -/

@[simp] theorem steadyOf_takeEntry (n : Fin 8) (opcode : W16) (h : Hdr) (s : State) :
    steadyOf false (takeEntry n opcode h s) = steadyOf false s := by simp [takeEntry]

@[simp] theorem steadyOf_mbxOpenBody (h : Hdr) (major minMinor maxMinor : Nat) (s : State) :
    steadyOf false (mbxOpenBody h major minMinor maxMinor s) = steadyOf false s := by simp [mbxOpenBody]

@[simp] theorem steadyOf_deviceResetBody (h : Hdr) (kind : Nat) (s : State) :
    steadyOf false (deviceResetBody h kind s) = steadyOf false s := by simp [deviceResetBody]

@[simp] theorem steadyOf_setGpio (pin func : Nat) (s : State) :
    steadyOf false (setGpio pin func s) = steadyOf false s := by simp [setGpio]

@[simp] theorem steadyOf_gpioConfigBody (h : Hdr) (pin func : Nat) (s : State) :
    steadyOf false (gpioConfigBody h pin func s) = steadyOf false s := by simp [gpioConfigBody]

/-! ### MemCmd -/

@[simp] theorem steadyOf_admitLine (l : Nat) (s : State) : steadyOf false (admitLine l s) = steadyOf false s := by
  unfold admitLine; dsimp only; (repeat' split) <;> simp

@[simp] theorem steadyOf_hostPut (k : Nat) (d : List Byte) (s : State) :
    steadyOf false (hostPut k d s) = steadyOf false s := by simp [hostPut]

@[simp] theorem steadyOf_hostPoison (k : Nat) (s : State) :
    steadyOf false (hostPoison k s) = steadyOf false s := by simp [hostPoison]

@[simp] theorem steadyOf_narrowSector (k : Nat) (d : List Byte) (en : W32) (mode1 poison : Bool) (s : State) :
    steadyOf false (narrowSector k d en mode1 poison s) = steadyOf false s := by
  unfold narrowSector
  split
  · rfl
  · split
    · simp
    · split
      · rfl
      · split
        · simp
        · split <;> next h => simp [steadyOf_fst_of_eq h]

@[simp] theorem steadyOf_memRegionModeBody (h : Hdr) (first count mode : Nat) (s : State) :
    steadyOf false (memRegionModeBody h first count mode s) = steadyOf false s := by simp [memRegionModeBody]

@[simp] theorem steadyOf_memHdmWindowBody (h : Hdr) (first size : W32) (s : State) :
    steadyOf false (memHdmWindowBody h first size s) = steadyOf false s := by simp [memHdmWindowBody]

@[simp] theorem steadyOf_memErrorReadBody (h : Hdr) (s : State) :
    steadyOf false (memErrorReadBody h s) = steadyOf false s := by simp [memErrorReadBody]

/-! ### MgmtCmd -/

@[simp] theorem steadyOf_dropExchanges (s : State) :
    steadyOf false (dropExchanges s) = steadyOf false s := by simp [dropExchanges]

@[simp] theorem steadyOf_ackSegment (m : MgmtMsg) (s : State) :
    steadyOf false (ackSegment m s) = steadyOf false s := by simp [ackSegment]

@[simp] theorem steadyOf_joinCommand (m : MgmtMsg) (e : Exchange) (s : State) :
    steadyOf false (joinCommand m e s) = steadyOf false s := by
  unfold joinCommand; split <;> simp

@[simp] theorem steadyOf_takeSegment (m : MgmtMsg) (last : Bool) (data : List Byte) (s : State) :
    steadyOf false (takeSegment m last data s) = steadyOf false s := by
  unfold takeSegment; split <;> simp

/-! ### MirrorCmd -/

@[simp] theorem steadyOf_hostReply (p : ChordHdr) (op buffer offset : Nat) (payload : List Byte) (s : State) :
    steadyOf false (hostReply p op buffer offset payload s) = steadyOf false s := by simp [hostReply]

@[simp] theorem steadyOf_hostAccept (p : ChordHdr) (s : State) :
    steadyOf false (hostAccept p s).1 = steadyOf false s := by simp [hostAccept]

@[simp] theorem steadyOf_onMirror_viaHost {body : W16 → State → State}
    (hb : ∀ r t, steadyOf false (body r t) = steadyOf false t) (p : ChordHdr) (s : State) (rank : W16) :
    steadyOf false (onMirror.viaHost p body s rank) = steadyOf false s := by
  unfold onMirror.viaHost
  split
  · rfl
  · split
    · simp
    · split <;> next h => simp [steadyOf_fst_of_eq h, hb]

@[simp] theorem steadyOf_onMirror {body : W16 → State → State} (hb : ∀ r t, steadyOf false (body r t) = steadyOf false t)
    (p : ChordHdr) (hosted reply : Bool) (early : State → Job → Bool) (s : State) :
    steadyOf false (onMirror p hosted reply early body s) = steadyOf false s := by
  unfold onMirror
  split <;> simp [hb]

@[simp] theorem steadyOf_mirrorReply (p : ChordHdr) (op buffer offset : Nat) (payload : List Byte) (s : State) :
    steadyOf false (mirrorReply p op buffer offset payload s) = steadyOf false s := by
  unfold mirrorReply; split <;> simp

@[simp] theorem steadyOf_bindStatus (j : Job) (lay : Layout) (degree everyN : Nat) (p0 p1 : Ip6) (s : State) :
    steadyOf false (bindStatus j lay degree everyN p0 p1 s).1 = steadyOf false s := by simp [bindStatus]

@[simp] theorem steadyOf_mirrorBindBody (h : Hdr) (job : W32) (degree everyN : Nat) (p0 p1 : Ip6) (s : State) :
    steadyOf false (mirrorBindBody h job degree everyN p0 p1 s) = steadyOf false s := by
  unfold mirrorBindBody
  obtain ⟨g, hg⟩ : ∃ g, g = 2 ^ 30 := ⟨_, rfl⟩
  rw [← hg]
  split
  · simp
  · split
    · simp
    · split
      · simp
      · split
        · simp
        · split <;> next h => simp [steadyOf_fst_of_eq h]

theorem steadyOf_takeRegion {r : Region} {s t : State} (h : takeRegion r s = some t) :
    steadyOf false t = steadyOf false s := by
  simp only [takeRegion] at h
  split at h
  · cases h
  · cases h; simp

@[simp] theorem steadyOf_freshRegion (r : Region) (as : List Area) (s : State) :
    steadyOf false (freshRegion r as s) = steadyOf false s := by simp [freshRegion]

@[simp] theorem steadyOf_moveBuffers (o r : Region) (s : State) : steadyOf false (moveBuffers o r s) = steadyOf false s := by
  unfold moveBuffers
  split
  · rfl
  · refine (steadyOf_foldl fun t x => ?_).trans (by simp)
    split <;> simp

@[simp] theorem steadyOf_reuseRegion (o r : Region) (as : List Area) (s : State) :
    steadyOf false (reuseRegion o r as s) = steadyOf false s := by simp [reuseRegion]

@[simp] theorem steadyOf_bindAnswered (job : W32) (s : State) : steadyOf false (bindAnswered job s) = steadyOf false s := by
  unfold bindAnswered; (repeat' split) <;> simp

@[simp] theorem steadyOf_modRegion (job : W32) (rank : W16) (g : Region → Region) (s : State) :
    steadyOf false (modRegion job rank g s) = steadyOf false s := by simp [modRegion]

@[simp] theorem steadyOf_copyPieces {rd : Nat → Nat → State → State × Option (List Host.Cell)}
    (hr : ∀ a n t, steadyOf false (rd a n t).1 = steadyOf false t) (as : List Area) (s : State) :
    steadyOf false (copyPieces rd as s).1 = steadyOf false s := by
  refine steadyOf_foldl_fst fun p a => ?_
  split
  · rfl
  · split
    · next h => simp [steadyOf_fst_of_eq h, hr]
    · next h =>
      dsimp only
      split <;> next k => simp [steadyOf_fst_of_eq k, steadyOf_fst_of_eq h, hr]

@[simp] theorem steadyOf_readRegionCopy (r : Region) (b : Fin 2) (d : CopyDesc) (s : State) :
    steadyOf false (readRegionCopy r b d s).1 = steadyOf false s := by
  unfold readRegionCopy
  split
  · next h => simp [steadyOf_fst_of_eq h]
  · next h => split <;> next k => simp [steadyOf_fst_of_eq k, steadyOf_fst_of_eq h]

@[simp] theorem steadyOf_mirrorUnbindBody (h : Hdr) (job : W32) (s : State) :
    steadyOf false (mirrorUnbindBody h job s) = steadyOf false s := by
  unfold mirrorUnbindBody; split <;> simp

@[simp] theorem steadyOf_restoreBody (h : Hdr) (job : W32) (addr : Ip6) (gen : W64) (s : State) :
    steadyOf false (restoreBody h job addr gen s) = steadyOf false s := by
  unfold restoreBody; (repeat' split) <;> simp

@[simp] theorem steadyOf_mirrorQueryBody (h : Hdr) (job : W32) (s : State) :
    steadyOf false (mirrorQueryBody h job s) = steadyOf false s := by
  unfold mirrorQueryBody; split <;> simp

@[simp] theorem steadyOf_pumpPeer (job : W32) (peer : W16) (s : State) :
    steadyOf false (pumpPeer job peer s) = steadyOf false s := by
  unfold pumpPeer; split <;> simp

/-! ### SpdmCmd -/

@[simp] theorem steadyOf_spdmSend (bs : List Byte) (s : State) :
    steadyOf false (spdmSend bs s) = steadyOf false s := by simp [spdmSend]

@[simp] theorem steadyOf_spdmError (code data : Byte) (s : State) :
    steadyOf false (spdmError code data s) = steadyOf false s := by simp [spdmError]

@[simp] theorem steadyOf_spdmReply (bs : List Byte) (s : State) :
    steadyOf false (spdmReply bs s) = steadyOf false s := by simp [spdmReply]

@[simp] theorem steadyOf_spdmTurn (body : State → State) (s : State) (hb : ∀ t, steadyOf false (body t) = steadyOf false t) :
    steadyOf false (spdmTurn body s) = steadyOf false s := by simp [spdmTurn, hb]

@[simp] theorem steadyOf_spdmRefuse (code data : Byte) (s : State) :
    steadyOf false (spdmRefuse code data s) = steadyOf false s := by simp [spdmRefuse]

@[simp] theorem steadyOf_spdmAt (n : Nat) (body : State → State) (s : State)
    (hb : ∀ t, steadyOf false (body t) = steadyOf false t) :
    steadyOf false (spdmAt n body s) = steadyOf false s := by simp [spdmAt, hb]

@[simp] theorem steadyOf_nonce (s : State) : steadyOf b (nonce s).2 = steadyOf b s := by simp [nonce]

@[simp] theorem steadyOf_spdmSign (context : String) (transcript : List Byte) (s : State) :
    steadyOf false (spdmSign context transcript s).2 = steadyOf false s := by simp [spdmSign]

@[simp] theorem steadyOf_talkB (req resp : List Byte) (s : State) :
    steadyOf false (talkB req resp s) = steadyOf false s := by simp [talkB]

@[simp] theorem steadyOf_summaryHash (kind : Byte) (s : State) :
    steadyOf false (summaryHash kind s).2 = steadyOf false s := by simp [summaryHash]

end Sys2Proof.Machine
end

section
/-! What every command but the two burning ones leaves alone, one lemma per command. -/

namespace Sys2Proof.Machine

/-- An outcome whose next state, where it has one, keeps the waiting commands and the fuses. -/
def Steady (s : State) (o : Host.Outcome State Fault Refusal) : Prop := ∀ t, o = .next t → steadyOf false t = steadyOf false s

@[simp] theorem steady_next {s t : State} : Steady s (.next t) ↔ steadyOf false t = steadyOf false s :=
  ⟨fun h => h t rfl, fun h u hu => by cases hu; exact h⟩

@[simp] theorem steadyOf_optGet_lateForAborted (j : Job) (p : ChordHdr) (t : State) :
    steadyOf false (optGet t (lateForAborted j p t)) = steadyOf false t := by
  rcases h : lateForAborted j p t with _ | u
  · rfl
  · exact steadyOf_lateForAborted h

/-! ### FacetUnits -/

@[simp] theorem steady_execMmaLdw (f : Fin 96) (i : Ins) (e : Ecc) (s : State) : Steady s (execMmaLdw f i e s) := by
  simp [execMmaLdw]

@[simp] theorem steady_execMmaRun (f : Fin 96) (i : Ins) (e : Ecc) (s : State) : Steady s (execMmaRun f i e s) := by
  simp [execMmaRun]

@[simp] theorem steady_execAccZero (f : Fin 96) (i : Ins) (e : Ecc) (s : State) : Steady s (execAccZero f i e s) := by
  simp [execAccZero]

@[simp] theorem steady_execAccCfg (f : Fin 96) (i : Ins) (e : Ecc) (s : State) : Steady s (execAccCfg f i e s) := by
  simp [execAccCfg]

@[simp] theorem steady_execAccDrain (f : Fin 96) (i : Ins) (e : Ecc) (s : State) : Steady s (execAccDrain f i e s) := by
  simp [execAccDrain]

@[simp] theorem steady_execAccLoad (f : Fin 96) (i : Ins) (e : Ecc) (s : State) : Steady s (execAccLoad f i e s) := by
  simp [execAccLoad]

@[simp] theorem steady_execVeLd (f : Fin 96) (i : Ins) (e : Ecc) (s : State) :
    Steady s (execVeLd f i e s) := by simp [execVeLd]

@[simp] theorem steady_execVeSt (f : Fin 96) (i : Ins) (e : Ecc) (s : State) :
    Steady s (execVeSt f i e s) := by simp [execVeSt]

@[simp] theorem steady_execVeMov (f : Fin 96) (i : Ins) (e : Ecc) (s : State) : Steady s (execVeMov f i e s) := by
  simp [execVeMov]

@[simp] theorem steady_execVeAdd (f : Fin 96) (i : Ins) (e : Ecc) (s : State) : Steady s (execVeAdd f i e s) := by
  simp [execVeAdd]

@[simp] theorem steady_execVeSub (f : Fin 96) (i : Ins) (e : Ecc) (s : State) : Steady s (execVeSub f i e s) := by
  simp [execVeSub]

@[simp] theorem steady_execVeMul (f : Fin 96) (i : Ins) (e : Ecc) (s : State) : Steady s (execVeMul f i e s) := by
  simp [execVeMul]

@[simp] theorem steady_execVeFma (f : Fin 96) (i : Ins) (e : Ecc) (s : State) : Steady s (execVeFma f i e s) := by
  simp [execVeFma]

@[simp] theorem steady_execVeFnma (f : Fin 96) (i : Ins) (e : Ecc) (s : State) : Steady s (execVeFnma f i e s) := by
  simp [execVeFnma]

@[simp] theorem steady_execVeMax (f : Fin 96) (i : Ins) (e : Ecc) (s : State) : Steady s (execVeMax f i e s) := by
  simp [execVeMax]

@[simp] theorem steady_execVeMin (f : Fin 96) (i : Ins) (e : Ecc) (s : State) : Steady s (execVeMin f i e s) := by
  simp [execVeMin]

@[simp] theorem steady_execVeAbs (f : Fin 96) (i : Ins) (e : Ecc) (s : State) : Steady s (execVeAbs f i e s) := by
  simp [execVeAbs]

@[simp] theorem steady_execVeNeg (f : Fin 96) (i : Ins) (e : Ecc) (s : State) : Steady s (execVeNeg f i e s) := by
  simp [execVeNeg]

@[simp] theorem steady_execVeAddk (f : Fin 96) (i : Ins) (e : Ecc) (s : State) : Steady s (execVeAddk f i e s) := by
  simp [execVeAddk]

@[simp] theorem steady_execVeMulk (f : Fin 96) (i : Ins) (e : Ecc) (s : State) : Steady s (execVeMulk f i e s) := by
  simp [execVeMulk]

@[simp] theorem steady_execVeFmak (f : Fin 96) (i : Ins) (e : Ecc) (s : State) : Steady s (execVeFmak f i e s) := by
  simp [execVeFmak]

@[simp] theorem steady_execVeClamp (f : Fin 96) (i : Ins) (e : Ecc) (s : State) : Steady s (execVeClamp f i e s) := by
  simp [execVeClamp]

@[simp] theorem steady_execVeCmpgt (f : Fin 96) (i : Ins) (e : Ecc) (s : State) : Steady s (execVeCmpgt f i e s) := by
  simp [execVeCmpgt]

@[simp] theorem steady_execVeCmpge (f : Fin 96) (i : Ins) (e : Ecc) (s : State) : Steady s (execVeCmpge f i e s) := by
  simp [execVeCmpge]

@[simp] theorem steady_execVeCmpeq (f : Fin 96) (i : Ins) (e : Ecc) (s : State) : Steady s (execVeCmpeq f i e s) := by
  simp [execVeCmpeq]

@[simp] theorem steady_execVeSel (f : Fin 96) (i : Ins) (e : Ecc) (s : State) : Steady s (execVeSel f i e s) := by
  simp [execVeSel]

@[simp] theorem steady_execVeFloor (f : Fin 96) (i : Ins) (e : Ecc) (s : State) : Steady s (execVeFloor f i e s) := by
  simp [execVeFloor]

@[simp] theorem steady_execVeRndi (f : Fin 96) (i : Ins) (e : Ecc) (s : State) : Steady s (execVeRndi f i e s) := by
  simp [execVeRndi]

@[simp] theorem steady_execVeGetexp (f : Fin 96) (i : Ins) (e : Ecc) (s : State) : Steady s (execVeGetexp f i e s) := by
  simp [execVeGetexp]

@[simp] theorem steady_execVeGetmant (f : Fin 96) (i : Ins) (e : Ecc) (s : State) : Steady s (execVeGetmant f i e s) := by
  simp [execVeGetmant]

@[simp] theorem steady_execVeLdexp (f : Fin 96) (i : Ins) (e : Ecc) (s : State) : Steady s (execVeLdexp f i e s) := by
  simp [execVeLdexp]

@[simp] theorem steady_execVeCvtbf (f : Fin 96) (i : Ins) (e : Ecc) (s : State) : Steady s (execVeCvtbf f i e s) := by
  simp [execVeCvtbf]

@[simp] theorem steady_execVeRmax (f : Fin 96) (i : Ins) (e : Ecc) (s : State) : Steady s (execVeRmax f i e s) := by
  simp [execVeRmax]

@[simp] theorem steady_execVeRsum (f : Fin 96) (i : Ins) (e : Ecc) (s : State) : Steady s (execVeRsum f i e s) := by
  simp [execVeRsum]

@[simp] theorem steady_execVeCsum (f : Fin 96) (i : Ins) (e : Ecc) (s : State) : Steady s (execVeCsum f i e s) := by
  simp [execVeCsum]

@[simp] theorem steady_execVeBcast0 (f : Fin 96) (i : Ins) (e : Ecc) (s : State) : Steady s (execVeBcast0 f i e s) := by
  simp [execVeBcast0]

@[simp] theorem steady_execVeRcp (f : Fin 96) (i : Ins) (e : Ecc) (s : State) : Steady s (execVeRcp f i e s) := by
  simp [execVeRcp]

@[simp] theorem steady_execVeRsqrt (f : Fin 96) (i : Ins) (e : Ecc) (s : State) : Steady s (execVeRsqrt f i e s) := by
  simp [execVeRsqrt]

@[simp] theorem steady_execVeExp (f : Fin 96) (i : Ins) (e : Ecc) (s : State) : Steady s (execVeExp f i e s) := by
  simp [execVeExp]

@[simp] theorem steady_execVeRand (f : Fin 96) (i : Ins) (e : Ecc) (s : State) : Steady s (execVeRand f i e s) := by
  simp [execVeRand]

@[simp] theorem steady_execDmaRd (f : Fin 96) (i : Ins) (e : Ecc) (s : State) : Steady s (execDmaRd f i e s) := by
  simp [execDmaRd]

@[simp] theorem steady_execDmaWr (f : Fin 96) (i : Ins) (e : Ecc) (s : State) : Steady s (execDmaWr f i e s) := by
  simp [execDmaWr]

@[simp] theorem steady_execDmaLinRead (f : Fin 96) (i : Ins) (e : Ecc) (s : State) : Steady s (execDmaLinRead f i e s) := by
  simp [execDmaLinRead]

@[simp] theorem steady_execDmaLinWrite (f : Fin 96) (i : Ins) (e : Ecc) (s : State) : Steady s (execDmaLinWrite f i e s) := by
  simp [execDmaLinWrite]

@[simp] theorem steady_execDmaXfr (f : Fin 96) (i : Ins) (e : Ecc) (s : State) : Steady s (execDmaXfr f i e s) := by
  simp [execDmaXfr]

@[simp] theorem steady_execDmaChd (f : Fin 96) (i : Ins) (e : Ecc) (s : State) : Steady s (execDmaChd f i e s) := by
  simp [execDmaChd]

@[simp] theorem steady_execDmaDsp (f : Fin 96) (i : Ins) (e : Ecc) (s : State) : Steady s (execDmaDsp f i e s) := by
  simp [execDmaDsp]

@[simp] theorem steady_execTokSend (f : Fin 96) (i : Ins) (e : Ecc) (s : State) : Steady s (execTokSend f i e s) := by
  simp [execTokSend]

@[simp] theorem steady_execUnitStart (f : Fin 96) (u : FacetUnit) (e : Ecc) (s : State) :
    Steady s (execUnitStart f u e s) := by
  unfold execUnitStart; (repeat' split) <;> simp

@[simp] theorem steady_execRowRetire (f : Fin 96) (e : Ecc) (s : State) : Steady s (execRowRetire f e s) := by
  unfold execRowRetire; (repeat' split) <;> simp

@[simp] theorem steady_execTokenArrival (src dst : Fin 96) (ch : Fin 16) (s : State) :
    Steady s (execTokenArrival src dst ch s)
    := by
  unfold execTokenArrival; (repeat' split) <;> simp

/-! ### DmaEngine -/

@[simp] theorem steady_execDmaOpComplete (f : Fin 96) (k : Nat) (e : Ecc) (s : State) :
    Steady s (execDmaOpComplete f k e s) :=
    by
  unfold execDmaOpComplete; (repeat' split) <;> simp

/-! ### ChordCmd -/

@[simp] theorem steady_execChordData (p : ChordHdr) (payload : List Byte) (s : State) :
    Steady s (execChordData p payload s) :=
    by
  simp [execChordData]

@[simp] theorem steady_execCredit (p : ChordHdr) (count : BitVec 32) (s : State) :
    Steady s (execCredit p count s) := by
  simp only [execCredit, steady_next]
  refine steadyOf_onPacket (fun j t => ?_) ..
  split
  · split
    · simp
    · split <;> simp
  · split <;> simp

@[simp] theorem steady_execRangeUpdate (job shard : BitVec 32) (range : Nat) (hostFault : Bool) (s : State) : Steady s
    (execRangeUpdate job shard range hostFault s) := by
  unfold execRangeUpdate; (repeat' split) <;> simp

@[simp] theorem steady_execVoteCast (job : BitVec 32) (s : State) : Steady s (execVoteCast job s) := by
  unfold execVoteCast; (repeat' split) <;> simp

@[simp] theorem steady_execVote (p : ChordHdr) (v : VoteRec) (s : State) :
    Steady s (execVote p v s) := by
  simp only [execVote, steady_next]
  refine steadyOf_onPacket (fun j t => ?_) ..
  split
  · rfl
  · split
    · split <;> simp
    · split
      · next h => exact steadyOf_lateForAborted h
      · split
        · split <;> simp
        · rfl

@[simp] theorem steady_execConfirm (p : ChordHdr) (v : VoteRec) (s : State) :
    Steady s (execConfirm p v s) := by
  simp only [execConfirm, steady_next]
  refine steadyOf_onPacket (fun j t => ?_) ..
  split
  · rfl
  · split
    · split <;> simp
    · split
      · split <;> simp
      · simp

@[simp] theorem steady_execWorkingCopyDerived (job : BitVec 32) (s : State) :
    Steady s (execWorkingCopyDerived job s) := by
  unfold execWorkingCopyDerived
  rw [steady_next]
  split
  · rfl
  · next j _ =>
    extract_lets b shs
    split
    next u bad hu =>
    have hu : steadyOf false u = steadyOf false s := (steadyOf_fst_of_eq hu).trans (steadyOf_foldl_fst fun p sh => by simp)
    split
    · simp [hu]
    · split
      · refine (steadyOf_answer ..).trans ((steadyOf_foldl fun v sh => ?_).trans (by simp [hu]))
        split <;> next h => simp [steadyOf_fst_of_eq h]
      · simp [hu]

@[simp] theorem steady_execResolveTimeout (job : BitVec 32) (s : State) : Steady s (execResolveTimeout job s) := by
  unfold execResolveTimeout; (repeat' split) <;> simp

@[simp] theorem steady_execAbort (p : ChordHdr) (tok : AbortTok) (s : State) :
    Steady s (execAbort p tok s) := by
  simp only [execAbort, steady_next]
  refine steadyOf_onPacket (fun j t => ?_) ..
  split
  · split
    · split <;> simp
    · rfl
  · split
    · split
      · split <;> simp
      · split <;> simp
    · split <;> simp

@[simp] theorem steady_execPeerSilenceDetect (job : BitVec 32) (peer : BitVec 16) (s : State) :
    Steady s (execPeerSilenceDetect
    job peer s) := by
  unfold execPeerSilenceDetect; (repeat' split) <;> simp

@[simp] theorem steady_execCollectiveAbort (h : Hdr) (job : BitVec 32) (s : State) : Steady s (execCollectiveAbort h job s) :=
    by
  simp [execCollectiveAbort]

@[simp] theorem steady_execHeartbeatSend (job : BitVec 32) (peer : BitVec 16) (s : State) :
    Steady s (execHeartbeatSend job peer
    s) := by
  unfold execHeartbeatSend; (repeat' split) <;> simp

@[simp] theorem steady_execHeartbeat (p : ChordHdr) (b : Heartbeat) (s : State) :
    Steady s (execHeartbeat p b s) := by
  simp only [execHeartbeat, steady_next]
  refine steadyOf_onPacket (fun j t => ?_) ..
  split
  · split
    · rfl
    · split
      · simp
      · split <;> simp
  · rfl

@[simp] theorem steady_execGatherReq (p : ChordHdr) (shard : BitVec 32) (s : State) :
    Steady s (execGatherReq p shard s) := by
  simp only [execGatherReq, steady_next]
  refine steadyOf_onPacket (fun j t => ?_) ..
  split
  · simp
  · split
    · next h => exact steadyOf_lateForAborted h
    · split
      · split <;> simp
      · simp

@[simp] theorem steady_execGatherData (p : ChordHdr) (payload : List Byte) (s : State) : Steady s (execGatherData p payload s)
    := by
  simp [execGatherData]

@[simp] theorem steady_execDispatch (p : ChordHdr) (payload : List Byte) (s : State) :
    Steady s (execDispatch p payload s) := by
  simp [execDispatch]

@[simp] theorem steady_execDispatchEnd (p : ChordHdr) (counts : List Nat) (s : State) :
    Steady s (execDispatchEnd p counts s) :=
    by
  simp [execDispatchEnd]

/-! ### FenceOps -/

@[simp] theorem steady_execFacetFaultStop (f : Fin 96) (s : State) : Steady s (execFacetFaultStop f s) := by
  simp [execFacetFaultStop]; (repeat' split) <;> simp

/-! ### ObjCmd -/

@[simp] theorem steady_execObjCreate (h : Hdr) (id size : BitVec 64) (tier : BitVec 8) (job : BitVec 32) (s : State) :
    Steady s
    (execObjCreate h id size tier job s) := by
  simp [execObjCreate]

@[simp] theorem steady_execObjDestroy (h : Hdr) (id : BitVec 64) (s : State) : Steady s (execObjDestroy h id s) := by
  simp [execObjDestroy]

@[simp] theorem steady_execObjPromote (h : Hdr) (id : BitVec 64) (tier flags : BitVec 8) (s : State) :
    Steady s (execObjPromote
    h id tier flags s) := by
  simp [execObjPromote]

@[simp] theorem steady_execObjEvict (h : Hdr) (id : BitVec 64) (tier : BitVec 8) (s : State) :
    Steady s (execObjEvict h id tier
    s) := by
  simp [execObjEvict]

@[simp] theorem steady_execObjPin (h : Hdr) (id : BitVec 64) (s : State) :
    Steady s (execObjPin h id s) := by simp [execObjPin]

@[simp] theorem steady_execObjUnpin (h : Hdr) (id : BitVec 64) (s : State) : Steady s (execObjUnpin h id s) := by
  simp [execObjUnpin]

@[simp] theorem steady_execEvictionDequeue (id : BitVec 64) (s : State) : Steady s (execEvictionDequeue id s) := by
  unfold execEvictionDequeue; (repeat' split) <;> simp

@[simp] theorem steady_execMoveSwitch (id : BitVec 64) (s : State) :
    Steady s (execMoveSwitch id s) := by simp [execMoveSwitch]

@[simp] theorem steady_execMoveFail (id : BitVec 64) (cause : MoveCause) (s : State) :
    Steady s (execMoveFail id cause s) := by
  unfold execMoveFail; (repeat' split) <;> simp

@[simp] theorem steady_execPrefetchSchedule (h : Hdr) (job : BitVec 32) (buf : List Byte) (s : State) : Steady s
    (execPrefetchSchedule h job buf s) := by
  simp [execPrefetchSchedule]

@[simp] theorem steady_execFtlWearLevel (block : Nat) (s : State) : Steady s (execFtlWearLevel block s) := by
  simp [execFtlWearLevel]

@[simp] theorem steady_execFtlReadDisturb (block : Nat) (s : State) : Steady s (execFtlReadDisturb block s) := by
  simp [execFtlReadDisturb]

@[simp] theorem steady_execFtlRetentionScan (block : Nat) (high : Bool) (s : State) :
    Steady s (execFtlRetentionScan block high
    s) := by
  simp [execFtlRetentionScan]

/-! ### ArcCmd -/

@[simp] theorem steady_execSectorCreate (h : Hdr) (columns : BitVec 16) (quota : BitVec 32) (weight : BitVec 16)
    (flags : BitVec 8) (s : State) :
    Steady s (execSectorCreate h columns quota weight flags s) := by
  simp [execSectorCreate]

@[simp] theorem steady_execSectorDestroy (h : Hdr) (s : State) :
    Steady s (execSectorDestroy h s) := by simp [execSectorDestroy]

@[simp] theorem steady_execArcLoad (h : Hdr) (image : List Byte) (s : State) : Steady s (execArcLoad h image s) := by
  simp [execArcLoad]

@[simp] theorem steady_execArcStart (h : Hdr) (cadence : BitVec 32) (s : State) : Steady s (execArcStart h cadence s) := by
  simp [execArcStart]

@[simp] theorem steady_execArcStop (h : Hdr) (s : State) : Steady s (execArcStop h s) := by simp [execArcStop]

@[simp] theorem steady_execFrameTick (k : Fin 4) (s : State) : Steady s (execFrameTick k s) := by
  simp [execFrameTick]; (repeat' split) <;> simp

@[simp] theorem steady_execPark (h : Hdr) (job : BitVec 32) (s : State) : Steady s (execPark h job s) := by simp [execPark]

@[simp] theorem steady_execParkResume (job : BitVec 32) (s : State) : Steady s (execParkResume job s) := by
  unfold execParkResume; (repeat' split) <;> simp

@[simp] theorem steady_execUnpark (h : Hdr) (job : BitVec 32) (s : State) : Steady s (execUnpark h job s) := by
  simp [execUnpark]

/-! ### PowerCmd -/

@[simp] theorem steady_execPwrEnAsserted (s : State) : Steady s (execPwrEnAsserted s) := by simp [execPwrEnAsserted]

@[simp] theorem steady_execInputAboveRisingThreshold (s : State) : Steady s (execInputAboveRisingThreshold s) := by
  simp [execInputAboveRisingThreshold]

@[simp] theorem steady_execPgoodRise (s : State) : Steady s (execPgoodRise s) := by simp [execPgoodRise]

@[simp] theorem steady_execPwrEnDeasserted (s : State) : Steady s (execPwrEnDeasserted s) := by simp [execPwrEnDeasserted]

@[simp] theorem steady_execInputUndervoltage (s : State) :
    Steady s (execInputUndervoltage s) := by simp [execInputUndervoltage]

@[simp] theorem steady_execInputOvervoltage (s : State) : Steady s (execInputOvervoltage s) := by simp [execInputOvervoltage]

@[simp] theorem steady_execThermalTrip (s : State) : Steady s (execThermalTrip s) := by simp [execThermalTrip]

@[simp] theorem steady_execThermWarn (s : State) : Steady s (execThermWarn s) := by simp [execThermWarn]

@[simp] theorem steady_execThermWarnRearm (s : State) : Steady s (execThermWarnRearm s) := by simp [execThermWarnRearm]

@[simp] theorem steady_execTempMaxUpdate (t : BitVec 8) (s : State) : Steady s (execTempMaxUpdate t s) := by
  simp [execTempMaxUpdate]

@[simp] theorem steady_execRefclkLoss (s : State) : Steady s (execRefclkLoss s) := by simp [execRefclkLoss]

@[simp] theorem steady_execPerstAsserted (s : State) : Steady s (execPerstAsserted s) := by simp [execPerstAsserted]

@[simp] theorem steady_execSelfRefreshEntryDone (n : Fin 4) (s : State) : Steady s (execSelfRefreshEntryDone n s) := by
  simp [execSelfRefreshEntryDone]

@[simp] theorem steady_execSrEntryTimeout (s : State) : Steady s (execSrEntryTimeout s) := by simp [execSrEntryTimeout]

@[simp] theorem steady_execApexFatalError (s : State) : Steady s (execApexFatalError s) := by simp [execApexFatalError]

@[simp] theorem steady_execSecSecurityEvent (s : State) : Steady s (execSecSecurityEvent s) := by simp [execSecSecurityEvent]

@[simp] theorem steady_execJtagResetRequest (s : State) : Steady s (execJtagResetRequest s) := by simp [execJtagResetRequest]

@[simp] theorem steady_execPoweredTimeTick (s : State) : Steady s (execPoweredTimeTick s) := by simp [execPoweredTimeTick]

@[simp] theorem steady_execWdtFirstExpiry (s : State) : Steady s (execWdtFirstExpiry s) := by simp [execWdtFirstExpiry]

@[simp] theorem steady_execWdtSecondExpiry (s : State) : Steady s (execWdtSecondExpiry s) := by simp [execWdtSecondExpiry]

@[simp] theorem steady_execWdtBootExpiry (s : State) : Steady s (execWdtBootExpiry s) := by simp [execWdtBootExpiry]

@[simp] theorem steady_execAonWdtCtrlWrite (v : BitVec 32) (s : State) : Steady s (execAonWdtCtrlWrite v s) := by
  simp [execAonWdtCtrlWrite]

@[simp] theorem steady_execAonWdtKick (v : BitVec 32) (s : State) : Steady s (execAonWdtKick v s) := by simp [execAonWdtKick]

@[simp] theorem steady_execAonPtimeLoRead (s : State) : Steady s (execAonPtimeLoRead s) := by simp [execAonPtimeLoRead]

@[simp] theorem steady_execSmbReadByte (off : BitVec 8) (s : State) : Steady s (execSmbReadByte off s) := by
  simp [execSmbReadByte]

@[simp] theorem steady_execSmbReadWord (off : BitVec 8) (s : State) : Steady s (execSmbReadWord off s) := by
  simp [execSmbReadWord]

@[simp] theorem steady_execSmbWriteByte (off v : BitVec 8) (s : State) : Steady s (execSmbWriteByte off v s) := by
  simp [execSmbWriteByte]

@[simp] theorem steady_execSmbAlertResponse (won : Bool) (s : State) : Steady s (execSmbAlertResponse won s) := by
  simp [execSmbAlertResponse]

@[simp] theorem steady_execSmbTimeout (s : State) : Steady s (execSmbTimeout s) := by simp [execSmbTimeout]

/-! ### FabricCmd -/

@[simp] theorem steady_execPortLinkLoss (p : Fin 8) (s : State) :
    Steady s (execPortLinkLoss p s) := by simp [execPortLinkLoss]

@[simp] theorem steady_execFabricPortRetrained (p : Fin 8) (s : State) : Steady s (execFabricPortRetrained p s) := by
  simp [execFabricPortRetrained]

@[simp] theorem steady_execPortRetrainTimeout (p : Fin 8) (s : State) : Steady s (execPortRetrainTimeout p s) := by
  simp [execPortRetrainTimeout]

@[simp] theorem steady_execPauseFrame (p : Fin 8) (s : State) : Steady s (execPauseFrame p s) := by simp [execPauseFrame]

@[simp] theorem steady_execNeighborSolicitation (p : Via) (target src : BitVec 128) (s : State) : Steady s
    (execNeighborSolicitation p target src s) := by
  simp [execNeighborSolicitation]

@[simp] theorem steady_execRouterAdvertisement (p : Via) (routerMac : BitVec 48) (prefix64 : BitVec 64) (s : State) : Steady s
    (execRouterAdvertisement p routerMac prefix64 s) := by
  unfold execRouterAdvertisement; (repeat' split) <;> simp

@[simp] theorem steady_execIcmpv6Echo (p : Via) (src : BitVec 128) (body : List Byte) (s : State) : Steady s (execIcmpv6Echo p
    src body s) := by
  simp [execIcmpv6Echo]

@[simp] theorem steady_execFabricConfig (h : Hdr) (port : BitVec 8) (tDetect : BitVec 32) (addr : BitVec 128) (s : State) :
    Steady s (execFabricConfig h port tDetect addr s) := by
  simp [execFabricConfig]

@[simp] theorem steady_execPortStatus (h : Hdr) (port : BitVec 8) (s : State) : Steady s (execPortStatus h port s) := by
  simp [execPortStatus]

/-! ### BootCmd -/

@[simp] theorem steady_execBootStart (f : JrnFaults) (torn : Option (RecKind × Cut)) (s : State) :
    Steady s (execBootStart f torn s) := by
  simp [execBootStart]

@[simp] theorem steady_execMgmtStageEnd (p : Fin 2) (r : StageResult) (s : State) : Steady s (execMgmtStageEnd p r s) := by
  unfold execMgmtStageEnd; (repeat' split) <;> simp

@[simp] theorem steady_execImageStageEnd (active other : ImageReport) (identA identB : Bool) (s : State) :
    Steady s (execImageStageEnd active other identA identB s) := by
  simp [execImageStageEnd]

@[simp] theorem steady_execVarluxStageEnd (r : StageResult) (s : State) : Steady s (execVarluxStageEnd r s) := by
  unfold execVarluxStageEnd; (repeat' split) <;> simp

@[simp] theorem steady_execClocksStageEnd (prismPllFail : BitVec 4) (lvPll : StageResult) (s : State) : Steady s
    (execClocksStageEnd prismPllFail lvPll s) := by
  unfold execClocksStageEnd; (repeat' split) <;> simp

@[simp] theorem steady_execD2dStageEnd (working : List Nat) (s : State) : Steady s (execD2dStageEnd working s) := by
  simp [execD2dStageEnd]

@[simp] theorem steady_execMemStageEnd (n : Fin 4) (r : StageResult) (failedPairs : BitVec 8) (s : State)
    (stream : Option (List (BitVec 8))) :
    Steady s (execMemStageEnd n r failedPairs s stream) := by
  simp only [execMemStageEnd, steady_next]
  split
  · rfl
  · split
    · next h => simp [steadyOf_runMem h]
    · simp

@[simp] theorem steady_execLatticeStageEnd (r : StageResult) (failedColumns : BitVec 12) (s : State)
    (stream : Option (List (BitVec 8))) :
    Steady s (execLatticeStageEnd r failedColumns s stream) := by
  simp [execLatticeStageEnd]; (repeat' split) <;> simp

@[simp] theorem steady_execFlashStageEnd (r : StageResult) (s : State) (stream : Option (List (BitVec 8))) : Steady s
    (execFlashStageEnd r s stream) := by
  simp [execFlashStageEnd]; (repeat' split) <;> simp

@[simp] theorem steady_execFabricStageEnd (p : Fin 8) (r : StageResult) (mode : PortMode) (s : State)
    (stream : Option (List (BitVec 8))) :
    Steady s (execFabricStageEnd p r mode s stream) := by
  simp [execFabricStageEnd]; (repeat' split) <;> simp

@[simp] theorem steady_execReadyStage (r : StageResult) (s : State) : Steady s (execReadyStage r s) := by
  unfold execReadyStage; (repeat' split) <;> simp

@[simp] theorem steady_execD2dFlitCheckFail (link : Fin 9) (s : State) (module : Fin 4) :
    Steady s (execD2dFlitCheckFail link s
    module) := by
  simp [execD2dFlitCheckFail]

@[simp] theorem steady_execD2dModuleRemove (link : Fin 9) (s : State) (module : Fin 4) : Steady s (execD2dModuleRemove link s
    module) := by
  simp [execD2dModuleRemove]

@[simp] theorem steady_execBootJournalRead (h : Hdr) (s : State) : Steady s (execBootJournalRead h s) := by
  simp [execBootJournalRead]

@[simp] theorem steady_execBootJournalClear (h : Hdr) (s : State) : Steady s (execBootJournalClear h s) := by
  simp [execBootJournalClear]

/-! ### FacetScalar -/

@[simp] theorem steady_execSaluAdd (f : Fin 96) (i : Ins) (e : Ecc) (s : State) : Steady s (execSaluAdd f i e s) := by
  simp [execSaluAdd]

@[simp] theorem steady_execSaluSub (f : Fin 96) (i : Ins) (e : Ecc) (s : State) : Steady s (execSaluSub f i e s) := by
  simp [execSaluSub]

@[simp] theorem steady_execSaluAnd (f : Fin 96) (i : Ins) (e : Ecc) (s : State) : Steady s (execSaluAnd f i e s) := by
  simp [execSaluAnd]

@[simp] theorem steady_execSaluOr (f : Fin 96) (i : Ins) (e : Ecc) (s : State) : Steady s (execSaluOr f i e s) := by
  simp [execSaluOr]

@[simp] theorem steady_execSaluXor (f : Fin 96) (i : Ins) (e : Ecc) (s : State) : Steady s (execSaluXor f i e s) := by
  simp [execSaluXor]

@[simp] theorem steady_execSaluShl (f : Fin 96) (i : Ins) (e : Ecc) (s : State) : Steady s (execSaluShl f i e s) := by
  simp [execSaluShl]

@[simp] theorem steady_execSaluShr (f : Fin 96) (i : Ins) (e : Ecc) (s : State) : Steady s (execSaluShr f i e s) := by
  simp [execSaluShr]

@[simp] theorem steady_execSaluSra (f : Fin 96) (i : Ins) (e : Ecc) (s : State) : Steady s (execSaluSra f i e s) := by
  simp [execSaluSra]

@[simp] theorem steady_execSaluMul (f : Fin 96) (i : Ins) (e : Ecc) (s : State) : Steady s (execSaluMul f i e s) := by
  simp [execSaluMul]

@[simp] theorem steady_execSaluMulhu (f : Fin 96) (i : Ins) (e : Ecc) (s : State) : Steady s (execSaluMulhu f i e s) := by
  simp [execSaluMulhu]

@[simp] theorem steady_execSaluMinu (f : Fin 96) (i : Ins) (e : Ecc) (s : State) : Steady s (execSaluMinu f i e s) := by
  simp [execSaluMinu]

@[simp] theorem steady_execSaluMaxu (f : Fin 96) (i : Ins) (e : Ecc) (s : State) : Steady s (execSaluMaxu f i e s) := by
  simp [execSaluMaxu]

@[simp] theorem steady_execSaluSltu (f : Fin 96) (i : Ins) (e : Ecc) (s : State) : Steady s (execSaluSltu f i e s) := by
  simp [execSaluSltu]

@[simp] theorem steady_execSaluSlt (f : Fin 96) (i : Ins) (e : Ecc) (s : State) : Steady s (execSaluSlt f i e s) := by
  simp [execSaluSlt]

@[simp] theorem steady_execSaluSeq (f : Fin 96) (i : Ins) (e : Ecc) (s : State) : Steady s (execSaluSeq f i e s) := by
  simp [execSaluSeq]

@[simp] theorem steady_execNop (f : Fin 96) (i : Ins) (e : Ecc) (s : State) : Steady s (execNop f i e s) := by simp [execNop]

@[simp] theorem steady_execLi (f : Fin 96) (i : Ins) (e : Ecc) (s : State) : Steady s (execLi f i e s) := by simp [execLi]

@[simp] theorem steady_execHalt (f : Fin 96) (i : Ins) (e : Ecc) (s : State) :
    Steady s (execHalt f i e s) := by simp [execHalt]

@[simp] theorem steady_execSld (f : Fin 96) (i : Ins) (e : Ecc) (s : State) : Steady s (execSld f i e s) := by simp [execSld]

@[simp] theorem steady_execSst (f : Fin 96) (i : Ins) (e : Ecc) (s : State) : Steady s (execSst f i e s) := by simp [execSst]

@[simp] theorem steady_execBr (f : Fin 96) (i : Ins) (e : Ecc) (s : State) : Steady s (execBr f i e s) := by simp [execBr]

@[simp] theorem steady_execLoop (f : Fin 96) (i : Ins) (e : Ecc) (s : State) :
    Steady s (execLoop f i e s) := by simp [execLoop]

@[simp] theorem steady_execWait (f : Fin 96) (i : Ins) (e : Ecc) (s : State) :
    Steady s (execWait f i e s) := by simp [execWait]

@[simp] theorem steady_execCsrr (f : Fin 96) (i : Ins) (e : Ecc) (s : State) :
    Steady s (execCsrr f i e s) := by simp [execCsrr]

@[simp] theorem steady_execTdseta (f : Fin 96) (i : Ins) (e : Ecc) (s : State) : Steady s (execTdseta f i e s) := by
  simp [execTdseta]

@[simp] theorem steady_execTdsetm (f : Fin 96) (i : Ins) (e : Ecc) (s : State) : Steady s (execTdsetm f i e s) := by
  simp [execTdsetm]

@[simp] theorem steady_execTdadd (f : Fin 96) (i : Ins) (e : Ecc) (s : State) : Steady s (execTdadd f i e s) := by
  simp [execTdadd]

@[simp] theorem steady_execDmaStat (f : Fin 96) (i : Ins) (e : Ecc) (s : State) : Steady s (execDmaStat f i e s) := by
  simp [execDmaStat]

@[simp] theorem steady_execTokRecv (f : Fin 96) (i : Ins) (e : Ecc) (s : State) : Steady s (execTokRecv f i e s) := by
  simp [execTokRecv]

@[simp] theorem steady_execTokPoll (f : Fin 96) (i : Ins) (e : Ecc) (s : State) : Steady s (execTokPoll f i e s) := by
  simp [execTokPoll]

@[simp] theorem steady_execStatClr (f : Fin 96) (i : Ins) (e : Ecc) (s : State) : Steady s (execStatClr f i e s) := by
  simp [execStatClr]

@[simp] theorem steady_execStatEmit (f : Fin 96) (i : Ins) (e : Ecc) (s : State) : Steady s (execStatEmit f i e s) := by
  simp [execStatEmit]

/-! ### FwCmd -/

@[simp] theorem steady_execFwInstall (h : Hdr) (offset : BitVec 32) (flags slot : BitVec 8) (chunk : List Byte) (s : State) :
    Steady s (execFwInstall h offset flags slot chunk s) := by
  simp [execFwInstall]

@[simp] theorem steady_execFwActivate (h : Hdr) (slot : BitVec 8) (s : State) : Steady s (execFwActivate h slot s) := by
  simp [execFwActivate]

@[simp] theorem steady_execDebugUnlock (h : Hdr) (token : List Byte) (s : State) : Steady s (execDebugUnlock h token s) := by
  simp [execDebugUnlock]

@[simp] theorem runStartups_fuses (bs : List (List Byte)) (x : Sec) : (runStartups bs x).fuses = x.fuses := by
  induction bs generalizing x with
  | nil => rfl
  | cons b bs ih =>
    simp only [runStartups]
    split
    · rfl
    · split <;> simp [ih, healthFailure]

@[simp] theorem runStartups_wrapBurnt (bs : List (List Byte)) (x : Sec) : (runStartups bs x).wrapBurnt = x.wrapBurnt := by
  induction bs generalizing x with
  | nil => rfl
  | cons b bs ih =>
    simp only [runStartups]
    split
    · rfl
    · split <;> simp [ih, healthFailure]

@[simp] theorem steady_execEntropyHealthFail (s : State) (startups : List (List (BitVec 8))) :
    Steady s (execEntropyHealthFail s startups) := by
  simp [execEntropyHealthFail, healthFailure]

@[simp] theorem steady_execDrbgReseed (s : State) :
    Steady s (execDrbgReseed s) := by
  simp [execDrbgReseed]

/-! ### HealthCmd -/

@[simp] theorem steady_execScoreUpdate (s : State) : Steady s (execScoreUpdate s) := by simp [execScoreUpdate]

@[simp] theorem steady_execHealthSecond (s : State) : Steady s (execHealthSecond s) := by simp [execHealthSecond]

@[simp] theorem steady_execEvidenceBucketChange (s : State) : Steady s (execEvidenceBucketChange s) := by
  simp [execEvidenceBucketChange]

@[simp] theorem steady_execBudgetWindowExpiry (s : State) : Steady s (execBudgetWindowExpiry s) := by
  simp [execBudgetWindowExpiry]

@[simp] theorem steady_execExpulsionEffect (s : State) : Steady s (execExpulsionEffect s) := by simp [execExpulsionEffect]

@[simp] theorem steady_execRehearsalInjection (bit : Fin 9) (target : BitVec 16) (s : State) :
    Steady s (execRehearsalInjection
    bit target s) := by
  simp [execRehearsalInjection]

@[simp] theorem steady_execRehearsalInjectionEnd (passed : Bool) (s : State) :
    Steady s (execRehearsalInjectionEnd passed s) :=
    by
  simp [execRehearsalInjectionEnd]

@[simp] theorem steady_execHealthRead (h : Hdr) (s : State) : Steady s (execHealthRead h s) := by simp [execHealthRead]

@[simp] theorem steady_execHealthConfig (h : Hdr) (threshold hysteresis : BitVec 16) (dwell : BitVec 32)
    (budget : BitVec 16) (window : BitVec 32) (s : State) :
    Steady s (execHealthConfig h threshold hysteresis dwell budget window s) := by
  simp [execHealthConfig]

@[simp] theorem steady_execUnitFence (h : Hdr) (unit index action : BitVec 8) (s : State) :
    Steady s (execUnitFence h unit index
    action s) := by
  simp [execUnitFence]

@[simp] theorem steady_execRehearsalConfig (h : Hdr) (flags : BitVec 8) (period : BitVec 32) (mask : BitVec 64) (s : State) :
    Steady s (execRehearsalConfig h flags period mask s) := by
  simp [execRehearsalConfig]

@[simp] theorem steady_execDiagRun (h : Hdr) (testId : BitVec 16) (unit index : BitVec 8) (result duration : BitVec 32)
    (s : State) :
    Steady s (execDiagRun h testId unit index result duration s) := by
  simp [execDiagRun]

/-! ### JobCmd -/

@[simp] theorem steady_execJobOpen (h : Hdr) (job : BitVec 32) (seed : BitVec 64) (rule : BitVec 8) (s : State) : Steady s
    (execJobOpen h job seed rule s) := by
  simp [execJobOpen]

@[simp] theorem steady_execJobClose (h : Hdr) (job : BitVec 32) (s : State) : Steady s (execJobClose h job s) := by
  simp [execJobClose]

@[simp] theorem steady_execShardCommit (h : Hdr) (job shard : BitVec 32) (gen src : BitVec 64) (s : State) : Steady s
    (execShardCommit h job shard gen src s) := by
  simp [execShardCommit]

@[simp] theorem steady_execShardRead (h : Hdr) (job shard : BitVec 32) (dest : BitVec 64) (s : State) :
    Steady s (execShardRead
    h job shard dest s) := by
  simp [execShardRead]

@[simp] theorem steady_execStepArm (h : Hdr) (job : BitVec 32) (step : BitVec 64) (micro epoch : BitVec 16) (s : State) :
    Steady
    s (execStepArm h job step micro epoch s) := by
  simp [execStepArm]

@[simp] theorem steady_execStepStatus (h : Hdr) (job : BitVec 32) (s : State) : Steady s (execStepStatus h job s) := by
  simp [execStepStatus]

@[simp] theorem steady_execRuleLoad (h : Hdr) (job : BitVec 32) (buf : List Byte) (s : State) :
    Steady s (execRuleLoad h job buf
    s) := by
  simp [execRuleLoad]

@[simp] theorem steady_execProgressWrite (job : BitVec 32) (s : State) : Steady s (execProgressWrite job s) := by
  unfold execProgressWrite; (repeat' split) <;> simp

/-! ### LayoutCmd -/

@[simp] theorem steady_execLayoutInstall (h : Hdr) (job : BitVec 32) (epoch : BitVec 16) (flags : BitVec 8)
    (buf : List Byte) (s : State) :
    Steady s (execLayoutInstall h job epoch flags buf s) := by
  simp [execLayoutInstall]

@[simp] theorem steady_execLayoutDrainDone (job : BitVec 32) (s : State) : Steady s (execLayoutDrainDone job s) := by
  unfold execLayoutDrainDone; (repeat' split) <;> simp

@[simp] theorem steady_execReshardReq (p : ChordHdr) (shard : BitVec 32) (gen : BitVec 64) (s : State) : Steady s
    (execReshardReq p shard gen s) := by
  simp [execReshardReq]

@[simp] theorem steady_execReshardData (p : ChordHdr) (payload : List Byte) (s : State) :
    Steady s (execReshardData p payload s) := by
  simp only [execReshardData, steady_next]
  refine steadyOf_sized _ _ _ _ fun u => steadyOf_onPacket (fun j t => ?_) ..
  split
  · split
    · rfl
    · simp
  · rfl

/-! ### MboxCmd -/

@[simp] theorem steady_execCommandFetch (n : Fin 8) (entry : List Byte) (bufFault cplFault : Bool) (s : State)
    (readFail : Bool) :
    Steady s (execCommandFetch n entry bufFault cplFault s readFail) := by
  simp [execCommandFetch]

@[simp] theorem steady_execMbxOpen (h : Hdr) (major minMinor maxMinor : BitVec 8) (s : State) : Steady s (execMbxOpen h major
    minMinor maxMinor s) := by
  simp [execMbxOpen]

@[simp] theorem steady_execDeviceInfo (h : Hdr) (s : State) : Steady s (execDeviceInfo h s) := by simp [execDeviceInfo]

@[simp] theorem steady_execDeviceReset (h : Hdr) (kind : BitVec 8) (s : State) : Steady s (execDeviceReset h kind s) := by
  simp [execDeviceReset]

@[simp] theorem steady_execDeviceResetTrigger (s : State) : Steady s (execDeviceResetTrigger s) := by
  unfold execDeviceResetTrigger; (repeat' split) <;> simp

@[simp] theorem steady_execGpioConfig (h : Hdr) (pin func : BitVec 8) (s : State) :
    Steady s (execGpioConfig h pin func s) := by
  simp [execGpioConfig]

/-! ### MemCmd -/

@[simp] theorem steady_execScrubBlock (n : Fin 4) (errs : List SymErr) (s : State) : Steady s (execScrubBlock n errs s) := by
  simp [execScrubBlock]

@[simp] theorem steady_execCxlMemRead (off : BitVec 64) (s : State) : Steady s (execCxlMemRead off s) := by
  simp [execCxlMemRead]

@[simp] theorem steady_execCxlMemWrite (off : BitVec 64) (data : List Byte) (poison : Bool) (s : State) : Steady s
    (execCxlMemWrite off data poison s) := by
  simp [execCxlMemWrite]

@[simp] theorem steady_execCxlMemNarrowWrite (off : BitVec 64) (data : List Byte) (enables : BitVec 64) (s : State)
    (poison : Bool) :
    Steady s (execCxlMemNarrowWrite off data enables s poison) := by
  simp [execCxlMemNarrowWrite]

@[simp] theorem steady_execBackInvalidateResponse (line : BitVec 64) (s : State) :
    Steady s (execBackInvalidateResponse line s)
    := by
  unfold execBackInvalidateResponse; (repeat' split) <;> simp

@[simp] theorem steady_execMemRegionMode (h : Hdr) (first count : BitVec 32) (mode : BitVec 8) (s : State) : Steady s
    (execMemRegionMode h first count mode s) := by
  simp [execMemRegionMode]

@[simp] theorem steady_execMemHdmWindow (h : Hdr) (first size : BitVec 32) (s : State) :
    Steady s (execMemHdmWindow h first size
    s) := by
  simp [execMemHdmWindow]

@[simp] theorem steady_execMemErrorRead (h : Hdr) (s : State) : Steady s (execMemErrorRead h s) := by simp [execMemErrorRead]

/-! ### MgmtCmd -/

@[simp] theorem steady_execMgmtCmd (m : MgmtMsg) (last : Bool) (data : List Byte) (s : State) : Steady s (execMgmtCmd m last
    data s) := by
  simp [execMgmtCmd]

@[simp] theorem steady_execMgmtAck (xid offset : BitVec 32) (s : State) : Steady s (execMgmtAck xid offset s) := by
  simp [execMgmtAck]

@[simp] theorem steady_execMgmtRetransmit (xid offset : BitVec 32) (s : State) : Steady s (execMgmtRetransmit xid offset s) :=
    by
  unfold execMgmtRetransmit; (repeat' split) <;> simp

@[simp] theorem steady_execAnnounceSend (job : BitVec 32) (s : State) : Steady s (execAnnounceSend job s) := by
  simp [execAnnounceSend]

@[simp] theorem steady_execAnnounce (a : Announcement) (s : State) : Steady s (execAnnounce a s) := by simp [execAnnounce]

@[simp] theorem steady_execAnnounceEntryExpiry (job : BitVec 32) (rank : BitVec 16) (serial : BitVec 64) (s : State) :
    Steady s
    (execAnnounceEntryExpiry job rank serial s) := by
  simp [execAnnounceEntryExpiry]

@[simp] theorem steady_execMgmtPortDown (p : Fin 2) (s : State) :
    Steady s (execMgmtPortDown p s) := by simp [execMgmtPortDown]

@[simp] theorem steady_execMgmtPortUp (p : Fin 2) (s : State) : Steady s (execMgmtPortUp p s) := by simp [execMgmtPortUp]

/-! ### MirrorCmd -/

@[simp] theorem steady_execMirrorBind (h : Hdr) (job : BitVec 32) (degree : BitVec 8) (everyN : BitVec 16)
    (partner0 partner1 : BitVec 128) (s : State) :
    Steady s (execMirrorBind h job degree everyN partner0 partner1 s) := by
  simp [execMirrorBind]

@[simp] theorem steady_execMirrorBindReq (p : ChordHdr) (bytes : BitVec 64) (entries : BitVec 32) (everyN : BitVec 16)
    (s : State) :
    Steady s (execMirrorBindReq p bytes entries everyN s) := by
  unfold execMirrorBindReq
  obtain ⟨gib, hg⟩ : ∃ n, n = 2 ^ 30 := ⟨_, rfl⟩
  rw [← hg, steady_next]
  refine steadyOf_onMirror (fun r t => ?_) ..
  split
  · rfl
  · dsimp only
    split
    · split
      · simp
      · split
        · next h => simp [steadyOf_takeRegion h]
        · simp
    · split
      · next h => simp [steadyOf_takeRegion h]
      · simp

@[simp] theorem steady_execMirrorBindAck (p : ChordHdr) (status : BitVec 16) (gib : BitVec 32) (s : State) : Steady s
    (execMirrorBindAck p status gib s) := by
  simp [execMirrorBindAck]

@[simp] theorem steady_execSnapshotBegin (job : BitVec 32) (s : State) : Steady s (execSnapshotBegin job s) := by
  simp [execSnapshotBegin]

@[simp] theorem steady_execMirrorBegin (p : ChordHdr) (_buffer : Fin 2) (d : CopyDesc) (s : State) :
    Steady s (execMirrorBegin p _buffer d s) := by
  simp only [execMirrorBegin, steady_next]
  refine steadyOf_onMirror (fun r t => ?_) ..
  split
  · split
    · simp
    · rfl
  · rfl

@[simp] theorem steady_execMirrorData (p : ChordHdr) (_buffer : Fin 2) (payload : List Byte) (s : State) :
    Steady s (execMirrorData p _buffer payload s) := by
  simp only [execMirrorData, steady_next]
  refine steadyOf_sized _ _ _ _ fun u => steadyOf_onMirror (fun r t => ?_) ..
  split
  · split
    · split <;> simp
    · rfl
  · rfl

@[simp] theorem steady_execMirrorEnd (p : ChordHdr) (_buffer : Fin 2) (d : CopyDesc) (s : State) :
    Steady s (execMirrorEnd p _buffer d s) := by
  simp only [execMirrorEnd, steady_next]
  refine steadyOf_onMirror (fun r t => ?_) ..
  split
  · split <;> simp
  · rfl

@[simp] theorem steady_execMirrorDone (p : ChordHdr) (gen : BitVec 64) (s : State) : Steady s (execMirrorDone p gen s) := by
  simp [execMirrorDone]

@[simp] theorem steady_execMirrorFetchReq (p : ChordHdr) (gen : BitVec 64) (s : State) :
    Steady s (execMirrorFetchReq p gen s) := by
  unfold execMirrorFetchReq
  obtain ⟨copies, hc⟩ : ∃ f, f = copiesOf := ⟨_, rfl⟩
  have h := steadyOf_copiesOf
  rw [← hc] at h ⊢
  rw [steady_next]
  refine steadyOf_onMirror (fun r t => ?_) ..
  dsimp only
  split
  · split
    · split <;> simp
    · simp
  · split
    · simp
    · split
      · simp [h]
      · split <;> next k => simp [steadyOf_fst_of_eq k, h]

@[simp] theorem steady_execMirrorFetchData (p : ChordHdr) (payload : List Byte) (s : State) :
    Steady s (execMirrorFetchData p payload s) := by
  simp only [execMirrorFetchData, steady_next]
  refine steadyOf_sized _ _ _ _ fun u => steadyOf_onMirror (fun r t => ?_) ..
  split
  · split <;> simp
  · rfl

@[simp] theorem steady_execMirrorFetchEnd (p : ChordHdr) (status : BitVec 16) (d : CopyDesc) (s : State) :
    Steady s (execMirrorFetchEnd p status d s) := by
  simp only [execMirrorFetchEnd, steady_next]
  refine steadyOf_onMirror (fun r t => ?_) ..
  split
  · split
    · rfl
    · split <;> simp
  · rfl

@[simp] theorem steady_execMirrorUnbindOp (p : ChordHdr) (s : State) : Steady s (execMirrorUnbindOp p s) := by
  simp [execMirrorUnbindOp]

@[simp] theorem steady_execMirrorQueryOp (p : ChordHdr) (s : State) :
    Steady s (execMirrorQueryOp p s) := by
  unfold execMirrorQueryOp
  obtain ⟨newest, hn⟩ : ∃ f, f = newestCopy := ⟨_, rfl⟩
  have hk := steadyOf_newestCopy
  rw [← hn] at hk ⊢
  rw [steady_next]
  refine steadyOf_onMirror (fun r t => ?_) ..
  split
  next u best h =>
  rw [steadyOf_mirrorReply, steadyOf_fst_of_eq h]
  split <;> simp [hk]

@[simp] theorem steady_execMirrorQueryReply (p : ChordHdr) (region flash : BitVec 64) (s : State) : Steady s
    (execMirrorQueryReply p region flash s) := by
  simp [execMirrorQueryReply]

@[simp] theorem steady_execMirrorUnbind (h : Hdr) (job : BitVec 32) (s : State) : Steady s (execMirrorUnbind h job s) := by
  simp [execMirrorUnbind]

@[simp] theorem steady_execRestore (h : Hdr) (job : BitVec 32) (partner : BitVec 128) (gen : BitVec 64) (s : State) : Steady s
    (execRestore h job partner gen s) := by
  simp [execRestore]

@[simp] theorem steady_execMirrorQuery (h : Hdr) (job : BitVec 32) (s : State) : Steady s (execMirrorQuery h job s) := by
  simp [execMirrorQuery]

@[simp] theorem steady_execFlashCopyPersist (job : BitVec 32) (rank : BitVec 16) (s : State) :
    Steady s (execFlashCopyPersist job rank s) := by
  unfold execFlashCopyPersist
  obtain ⟨newest, hn⟩ : ∃ f, f = newestCopy := ⟨_, rfl⟩
  have hk := steadyOf_newestCopy
  rw [← hn] at hk ⊢
  rw [steady_next]
  dsimp only
  split
  · rfl
  · split <;> next h => simp [steadyOf_fst_of_eq h, hk]

@[simp] theorem steady_execFlashCopySwitch (job : BitVec 32) (rank : BitVec 16) (s : State) :
    Steady s (execFlashCopySwitch job rank s) := by
  simp only [execFlashCopySwitch, steady_next]
  split
  · split
    · next h => simp [steadyOf_fst_of_eq h]
    · next h => split <;> next k => simp [steadyOf_fst_of_eq k, steadyOf_fst_of_eq h]
  · rfl

@[simp] theorem steady_execSilenceOutsideArmedStep (job : BitVec 32) (peer : BitVec 16) (s : State) : Steady s
    (execSilenceOutsideArmedStep job peer s) := by
  unfold execSilenceOutsideArmedStep; (repeat' split) <;> simp

@[simp] theorem steady_execAck (p : ChordHdr) (map : BitVec 64) (s : State) :
    Steady s (execAck p map s) := by
  unfold execAck
  extract_lets b host
  have hhost : ∀ t, steadyOf false (host t) = steadyOf false t := by
    intro t
    simp only [host]
    split <;> simp
  rw [steady_next]
  split
  · refine steadyOf_onPacket (fun j t => ?_) ..
    simp [hhost]
  · simp
  · simp [hhost]
  · simp [hhost]

@[simp] theorem steady_execRetransmitTimeout (job : BitVec 32) (peer : BitVec 16) (seq : BitVec 32) (s : State) :
    Steady s (execRetransmitTimeout job peer seq s) := by
  unfold execRetransmitTimeout
  extract_lets again hosted
  have hagain : ∀ mg p t, steadyOf false (again mg p t) = steadyOf false t := by
    intro mg p t
    simp only [again]
    split <;> simp
  have hhosted : ∀ t, steadyOf false (hosted t) = steadyOf false t := by
    intro t
    simp only [hosted]
    split
    · split <;> simp
    · rfl
  rw [steady_next]
  split
  · extract_lets n
    split <;> simp [hagain, hhosted]
  · exact hhosted s

@[simp] theorem steady_execStreamWindowGrowth (job : BitVec 32) (peer : BitVec 16) (s : State) : Steady s
    (execStreamWindowGrowth job peer s) := by
  simp [execStreamWindowGrowth]

/-! ### SpdmCmd -/

@[simp] theorem steady_execSpdmGetVersion (s : State) : Steady s (execSpdmGetVersion s) := by simp [execSpdmGetVersion]

@[simp] theorem steady_execSpdmGetCapabilities (s : State) (req : List (BitVec 8)) :
    Steady s (execSpdmGetCapabilities s req) :=
    by
  simp [execSpdmGetCapabilities]

@[simp] theorem steady_execSpdmNegotiateAlgorithms (a : SpdmAlgs) (s : State) (req : List (BitVec 8)) : Steady s
    (execSpdmNegotiateAlgorithms a s req) := by
  simp [execSpdmNegotiateAlgorithms]

@[simp] theorem steady_execSpdmGetDigests (s : State) : Steady s (execSpdmGetDigests s) := by simp [execSpdmGetDigests]

@[simp] theorem steady_execSpdmGetCertificate (slot : BitVec 8) (offset length : BitVec 16) (s : State) : Steady s
    (execSpdmGetCertificate slot offset length s) := by
  simp [execSpdmGetCertificate]

@[simp] theorem steady_execSpdmChallenge (slot summary : BitVec 8) (nonce : BitVec 256) (s : State) : Steady s
    (execSpdmChallenge slot summary nonce s) := by
  simp [execSpdmChallenge]

@[simp] theorem steady_execSpdmGetMeasurements (index slot : BitVec 8) (signed : Bool) (s : State) (nonce : BitVec 256) :
    Steady s (execSpdmGetMeasurements index slot signed s nonce) := by
  unfold execSpdmGetMeasurements
  obtain ⟨sign, hs⟩ : ∃ f, f = spdmSign := ⟨_, rfl⟩
  have hk := steadyOf_spdmSign
  rw [← hs] at hk ⊢
  rw [steady_next]
  refine steadyOf_spdmAt _ _ _ fun t => ?_
  split
  · simp
  · simp [hk]

@[simp] theorem steady_execSpdmUnsupportedRequest (code : BitVec 8) (s : State) : Steady s (execSpdmUnsupportedRequest code s)
    := by
  simp [execSpdmUnsupportedRequest]

/-! ### The host port -/

@[simp] theorem steadyOf_cfgAct (r : CfgReg) (s : State) : steadyOf false (cfgAct r s) = steadyOf false s := by simp [cfgAct]

@[simp] theorem steadyOf_hostEvent (s : State) : steadyOf false (hostEvent s) = steadyOf false s := by
  unfold hostEvent
  dsimp only
  split
  · split <;> simp
  · simp

@[simp] theorem steadyOf_linkLost (s : State) : steadyOf false (linkLost s) = steadyOf false s := by simp [linkLost]

@[simp] theorem steadyOf_writeRingCtrl (n : Fin 8) (v : W32) (s : State) :
    steadyOf false (writeRingCtrl n v s) = steadyOf false s := by
  unfold writeRingCtrl
  dsimp only
  split
  · simp
  · split
    · simp
    · split <;> simp

@[simp] theorem steadyOf_writeSqTail (n : Fin 8) (v : W32) (s : State) :
    steadyOf false (writeSqTail n v s) = steadyOf false s := by
  simp [writeSqTail]

@[simp] theorem steadyOf_writeCqHead (n : Fin 8) (v : W32) (s : State) :
    steadyOf false (writeCqHead n v s) = steadyOf false s := by
  simp [writeCqHead]

@[simp] theorem steadyOf_writeRingBase (n : Fin 8) (o : Nat) (v : W32) (s : State) :
    steadyOf false (writeRingBase n o v s) = steadyOf false s := by
  simp [writeRingBase]

@[simp] theorem steadyOf_writeMsix (k : Fin 16) (o : Nat) (v : W32) (s : State) :
    steadyOf false (writeMsix k o v s) = steadyOf false s := by
  simp [writeMsix]

@[simp] theorem steadyOf_bar0Write (o : Nat) (v : W32) (s : State) : steadyOf false (bar0Write o v s) = steadyOf false s := by
  unfold bar0Write
  dsimp only
  split
  · split
    · simp
    · split <;> simp
  · split
    · split <;> simp
    · split
      · simp
      · split <;> simp

@[simp] theorem steady_execHostLinkUp (s : State) : Steady s (execHostLinkUp s) := by
  simp [execHostLinkUp]

@[simp] theorem steady_execCxlConfigRequest (s : State) (r : CfgReg) : Steady s (execCxlConfigRequest s r) := by
  unfold execCxlConfigRequest
  rw [steady_next]
  split
  · rfl
  · split
    · simp
    · dsimp only
      split <;> simp

@[simp] theorem steady_execFunctionLevelReset (s : State) : Steady s (execFunctionLevelReset s) := by
  simp [execFunctionLevelReset]

@[simp] theorem steady_execHotReset (s : State) : Steady s (execHotReset s) := by
  simp [execHotReset]

@[simp] theorem steady_execHostLinkDown (s : State) : Steady s (execHostLinkDown s) := by
  simp [execHostLinkDown]

@[simp] theorem steady_execRegisterWrite (off : BitVec 48) (size : Nat) (v : BitVec 64) (s : State) :
    Steady s (execRegisterWrite off size v s) := by
  unfold execRegisterWrite
  obtain ⟨window, hw⟩ : ∃ n, n = 0xF00000000000 := ⟨_, rfl⟩
  rw [← hw, steady_next]
  dsimp only
  split
  · split <;> simp
  · split
    · rfl
    · split
      · simp
      · split <;> simp

@[simp] theorem steady_execRingCtrlWrite (n : Fin 8) (v : BitVec 32) (s : State) : Steady s (execRingCtrlWrite n v s) := by
  simp [execRingCtrlWrite]

@[simp] theorem steady_execRingSqTail (n : Fin 8) (v : BitVec 32) (s : State) : Steady s (execRingSqTail n v s) := by
  simp [execRingSqTail]

@[simp] theorem steady_execRingCqHead (n : Fin 8) (v : BitVec 32) (s : State) : Steady s (execRingCqHead n v s) := by
  simp [execRingCqHead]

@[simp] theorem steady_execMbxEventEnWrite (v : BitVec 32) (s : State) : Steady s (execMbxEventEnWrite v s) := by
  simp [execMbxEventEnWrite]

@[simp] theorem steady_execTelPtimeLoRead (wide : Bool) (s : State) : Steady s (execTelPtimeLoRead wide s) := by
  simp [execTelPtimeLoRead]

@[simp] theorem steady_execTelemetryUpdate (powerW : BitVec 16) (s : State) : Steady s (execTelemetryUpdate powerW s) := by
  simp [execTelemetryUpdate]

@[simp] theorem steady_execJtagTapAccess (op : TapOp) (s : State) : Steady s (execJtagTapAccess op s) := by
  cases op with
  | idcode => simp [execJtagTapAccess]
  | bypass => simp [execJtagTapAccess]
  | apex a =>
    intro t ht
    simp only [execJtagTapAccess] at ht
    split at ht
    · cases ht
    · cases ht; rfl

end Sys2Proof.Machine
end

section
/-! The fuses over every step (O59): `FW_SVN_COMMIT` and `FUSE_BURN` burn, all else keeps them. -/

namespace Sys2Proof.Machine

/-! ### The two commands that burn fuses -/

/-- The fuses of `y` are those of `x` with the SVN raised. -/
def SvnRises (x y : Sec) : Prop :=
  ∃ n, x.fuses.svn ≤ n ∧ y.fuses = { x.fuses with svn := n } ∧ y.wrapBurnt = x.wrapBurnt

/-- The fuses of `y` are those of `x` with bits of the lifecycle, of the revoked keys and of the key wrap burnt. -/
def BitsBurn (x y : Sec) : Prop :=
  ∃ l k, x.fuses.lifecycle &&& l = x.fuses.lifecycle ∧ x.fuses.keyRevoked &&& k = x.fuses.keyRevoked ∧
    y.fuses = { x.fuses with lifecycle := l, keyRevoked := k } ∧ (x.wrapBurnt = true → y.wrapBurnt = true)

theorem sec_of_steadyOf {s t : State} (h : steadyOf false t = steadyOf false s) :
    t.sec.fuses = s.sec.fuses ∧ t.sec.wrapBurnt = s.sec.wrapBurnt := by
  simp only [steadyOf, Prod.mk.injEq] at h
  obtain ⟨-, hf, hw, -⟩ := h
  exact ⟨hf, hw⟩

theorem svnRises_of_steadyOf {s t : State} (h : steadyOf false t = steadyOf false s) : SvnRises s.sec t.sec := by
  obtain ⟨hf, hw⟩ := sec_of_steadyOf h
  exact ⟨_, le_rfl, hf, hw⟩

theorem bitsBurn_of_steadyOf {s t : State} (h : steadyOf false t = steadyOf false s) : BitsBurn s.sec t.sec := by
  obtain ⟨hf, hw⟩ := sec_of_steadyOf h
  exact ⟨_, _, BitVec.and_self, BitVec.and_self, hf, fun hb => hw.trans hb⟩

/-- A command runs its own effect or keeps the fuses. -/
theorem runCmd_runs_or_steady (c : Cat) (h : Hdr) (body : State → State) (s : State) :
    runCmd c h body s = body (startCmd h s) ∨ steadyOf false (runCmd c h body s) = steadyOf false s := by
  unfold runCmd
  dsimp only
  split
  · split
    · exact .inr (by simp)
    · exact .inl rfl
  · exact .inr rfl

theorem svnRises_fwSvnCommitBody (h : Hdr) (flags : Nat) (cut : Option Nat) (s : State) :
    SvnRises s.sec (fwSvnCommitBody h flags cut s).sec := by
  have kept (st : W16) : SvnRises s.sec (complete h st [] s).sec := svnRises_of_steadyOf (steadyOf_answer ..)
  unfold fwSvnCommitBody
  split
  · exact kept _
  · split
    · exact kept _
    · split
      · exact kept _
      · split
        · exact kept _
        · dsimp only
          split
          · exact ⟨_, le_max_left _ _, rfl, rfl⟩
          · rw [answer_sec]
            exact ⟨_, le_max_left _ _, rfl, rfl⟩

theorem bits_and_or_self {w : Nat} (v m : BitVec w) : v &&& (v ||| m) = v := by
  ext i hi
  cases hv : v[i] <;> simp [hv]

theorem bitsBurn_lifecycle {x y : Sec} (m : BitVec 3) (hy : y.fuses = { x.fuses with lifecycle := x.fuses.lifecycle ||| m })
    (hw : x.wrapBurnt = true → y.wrapBurnt = true) : BitsBurn x y :=
  ⟨_, _, bits_and_or_self .., BitVec.and_self, hy, hw⟩

theorem and_setBit_self {w : Nat} (v : BitVec w) (k : Nat) : v &&& setBit v k true = v := bits_and_or_self ..

theorem bitsBurn_burnArray (op slot : Nat) (x : Sec) : BitsBurn x (burnArray op slot x) := by
  unfold burnArray
  split
  · exact bitsBurn_lifecycle _ rfl id
  · exact bitsBurn_lifecycle _ rfl fun _ => rfl
  · exact ⟨_, _, BitVec.and_self, and_setBit_self .., rfl, id⟩

theorem bitsBurn_burnCut (op slot n : Nat) (x : Sec) : BitsBurn x (burnCut op slot n x) := by
  unfold burnCut
  dsimp only
  split
  · exact bitsBurn_lifecycle 0 (by simp) id
  · split
    · split
      · exact bitsBurn_lifecycle 0 (by simp) fun _ => rfl
      · split
        · exact bitsBurn_lifecycle _ rfl fun _ => rfl
        · exact bitsBurn_lifecycle _ rfl fun _ => rfl
    · exact bitsBurn_burnArray ..

theorem bitsBurn_fuseBurnBody (h : Hdr) (b : List Byte) (cut : Option Nat) (s : State) :
    BitsBurn s.sec (fuseBurnBody h b cut s).sec := by
  have kept (st : W16) : BitsBurn s.sec (complete h st [] s).sec := bitsBurn_of_steadyOf (steadyOf_answer ..)
  unfold fuseBurnBody
  dsimp only
  split
  · exact kept _
  · split
    · exact kept _
    · split
      · exact kept _
      · split
        · exact kept _
        · split
          · exact bitsBurn_burnCut ..
          · rw [answer_sec]
            exact bitsBurn_burnArray ..

theorem svnRises_execFwSvnCommit {h : Hdr} {flags : Byte} {cut : Option Nat} {s t : State}
    (ht : execFwSvnCommit h flags cut s = .next t) : SvnRises s.sec t.sec := by
  cases ht
  rcases runCmd_runs_or_steady catFwSvnCommit h (fwSvnCommitBody h flags.toNat cut) s with hr | hr
  · rw [hr]
    simpa using svnRises_fwSvnCommitBody h flags.toNat cut (startCmd h s)
  · exact svnRises_of_steadyOf hr

theorem bitsBurn_execFuseBurn {h : Hdr} {token : List Byte} {cut : Option Nat} {s t : State}
    (ht : execFuseBurn h token cut s = .next t) : BitsBurn s.sec t.sec := by
  cases ht
  rcases runCmd_runs_or_steady catFuseBurn h (fun t => fuseBurnBody h (inBytes h token t) cut t) s with hr | hr
  · rw [hr]
    simpa using bitsBurn_fuseBurnBody h (inBytes h token (startCmd h s)) cut (startCmd h s)
  · exact bitsBurn_of_steadyOf hr

/-! ### Every command -/

/-- No other command changes a fuse: each by its own lemma. -/
theorem steady_exec (c : Instr) (s : State) (hsvn : ∀ h f n, c ≠ .fwSvnCommit h f n) (hburn : ∀ h b n, c ≠ .fuseBurn h b n) :
    Steady s (exec c s) := by
  cases c
  case fwSvnCommit => exact absurd rfl (hsvn _ _ _)
  case fuseBurn => exact absurd rfl (hburn _ _ _)
  all_goals simp [exec]

/-- Settles O59: `FW_SVN_COMMIT` raises the SVN only, `FUSE_BURN` burns bits of the other fuses only, and every other command
keeps the fuses. -/
theorem fusesOnlyBurn : Obligations.FusesOnlyBurn := by
  unfold Obligations.FusesOnlyBurn
  intro s t hst
  rcases hp : s.pending with _ | ⟨c, rest⟩
  · simp only [step, hp, Host.Outcome.next.injEq] at hst
    simp [hst]
  have hexec : exec c { s with pending := rest } = .next t := by simpa only [step, hp] using hst
  by_cases hsvn : ∃ h f n, c = .fwSvnCommit h f n
  · obtain ⟨h, f, n, rfl⟩ := hsvn
    obtain ⟨v, hv, hf, hw⟩ := svnRises_execFwSvnCommit hexec
    simp_all
  by_cases hburn : ∃ h b n, c = .fuseBurn h b n
  · obtain ⟨h, b, n, rfl⟩ := hburn
    obtain ⟨l, k, hl, hk, hf, hw⟩ := bitsBurn_execFuseBurn hexec
    simp_all
  · push Not at hsvn hburn
    obtain ⟨hf, hw⟩ := sec_of_steadyOf (steady_exec c _ hsvn hburn t hexec)
    simp_all

end Sys2Proof.Machine
end

section
/-! The commands that stop the block (O55). -/

namespace Sys2Proof.Machine

/-! ### Commands that stop the block -/

/-- Every command but an access to the TAP completes: its arm of the dispatch is a next state. -/
theorem exec_completes (c : Instr) (s : State) (hc : ∀ op, c ≠ .jtagTapAccess op) : ∃ t, exec c s = .next t := by
  cases c
  case jtagTapAccess => exact absurd rfl (hc _)
  all_goals exact ⟨_, rfl⟩

theorem stops_of_ne {c : Instr} {s : State} (hc : ∀ op, c ≠ .jtagTapAccess op) : stops c s = false := by
  unfold stops
  split
  · exact absurd rfl (hc _)
  · rfl

theorem stops_apex (a : BitVec 64) (s : State) : stops (.jtagTapAccess (.apex a)) s = fullAccess s := rfl

/-- An Apex debug operation faults with full access, and does nothing without it. -/
theorem execJtagTapAccess_apex (a : BitVec 64) (s : State) :
    execJtagTapAccess (.apex a) s = if fullAccess s then .fault .apexDebug else .next s := rfl

/-- Settles O55: the access to the TAP is the one command with an outcome that is not a next state. -/
theorem onlyApexAccessStops : Obligations.OnlyApexAccessStops := by
  unfold Obligations.OnlyApexAccessStops
  intro c s
  by_cases hc : ∃ op, c = .jtagTapAccess op
  · obtain ⟨op, rfl⟩ := hc
    cases op with
    | idcode => simp [exec, execJtagTapAccess, stops]
    | bypass => simp [exec, execJtagTapAccess, stops]
    | apex a => cases hf : fullAccess s <;> simp [exec, execJtagTapAccess_apex, stops_apex, hf]
  · push Not at hc
    obtain ⟨t, ht⟩ := exec_completes c s hc
    simp [ht, stops_of_ne hc]

end Sys2Proof.Machine
end

section
/-! Shards and the rule (O17): each command past its checks, and what recording a job leaves of its rule. -/

namespace Sys2Proof.Machine

@[simp] theorem jobOf_startCmd (job : W32) (h : Hdr) (s : State) : jobOf job (startCmd h s) = jobOf job s := by
  simp only [jobOf, startCmd_jobs]

theorem genOf_of_valid {j : Job} (hv : j.commit.valid = true) : genOf j = j.commit.gen := by
  simp only [genOf, hv, if_true]

/-! ### `SHARD_COMMIT` and `SHARD_READ` -/

section
variable {h : Hdr} {job shard : W32} {j : Job} {sh : ShardEnt} {o : Nat × Nat} {s : State} (hj : jobOf job s = some j)
  (hsh : ownShard j shard = some sh)
include hj hsh

/-- A shard committed in place (R371), from a source that reads whole. -/
theorem shardCommitBody_commits {gen src d : W64} {img : List Host.Cell} {v w : State}
    (hc : shardCommitStatus j shard gen src s = none) (ho : jobObjDpa s job src = some o)
    (hr : readCells rqFold o.1 (imageLen j.rule sh) (putRec sh (slotOf gen) ⟨gen, 0, 0, j.epoch, j.rule, false⟩ s) = (v, some img))
    (hd : slotDigest rqFold j.rule sh (slotOf gen) (putShardHeader j.rule sh (putImage j.rule sh (slotOf gen) img v)) = (w, some d)) :
    let t := putRec sh (slotOf gen) ⟨gen, d, 0, j.epoch, j.rule, true⟩ w
    shardCommitBody h job shard gen src s = modJob job (fun x => { x with
        uncommitted := x.uncommitted.filter (· != shard), derive := [shard],
        deriveCmd := some ⟨h, some shard, leBytes 8 d.toNat⟩ })
      (if j.commit.valid then t else writeCommit job ⟨j.epoch, true, gen, 0, t.jrn.boot.bootCount⟩ t) := by
  simp only [shardCommitBody, hj, hc, hsh, ho, hr, hd]

section
variable {dest : W64} {t : State} (hp : j.phase ≠ .preserved) (ho : jobObjDpa s job dest = some o)
  (hn : imageLen j.rule sh ≤ o.2) (hv : j.commit.valid = true) (hu : j.uncommitted.contains sh.id = false)
include hp ho hn hv hu

/-- A committed shard read whole (R372). -/
theorem shardReadBody_found {r : CommitRec} {img : List Host.Cell} {v : State}
    (hr : readRec rqFold sh (slotOf j.commit.gen) s = (t, .found r)) (hg : r.gen = j.commit.gen)
    (hi : slotImage rqFold j.rule sh (slotOf j.commit.gen) r t = (v, some img)) :
    shardReadBody h job shard dest s = complete h stOk (leBytes 8 r.gen.toNat ++ leBytes 8 r.digest.toNat)
      (writeCells o.1 (imageLen j.rule sh) img v) := by
  simp only [shardReadBody, hj, hp, hsh, ho, hn.not_gt, hv, hu, genOf_of_valid hv, hr, hg, hi, if_false, Bool.not_true, Bool.or_self,
    Bool.false_eq_true, ne_eq, not_true_eq_false]

/-- A shard whose record cannot be read (R303, R372). -/
theorem shardReadBody_unreadable (hr : readRec rqFold sh (slotOf j.commit.gen) s = (t, .unreadable)) :
    shardReadBody h job shard dest s = complete h stMemUncorr [] t := by
  simp only [shardReadBody, hj, hp, hsh, ho, hn.not_gt, hv, hu, genOf_of_valid hv, hr, if_false, Bool.not_true, Bool.or_self,
    Bool.false_eq_true]

end
end

/-! ### `RULE_LOAD` -/

/-- The rule operations of each job. -/
def rulesOf (s : State) : List (W32 × Option (List W64)) := s.jobs.map fun j => (j.id, j.ruleOps)

theorem jobOf_ruleOps_congr {job : W32} {s t : State} (h : rulesOf t = rulesOf s) :
    (jobOf job t).map (·.ruleOps) = (jobOf job s).map (·.ruleOps) := by
  have key (u : State) : (jobOf job u).map (·.ruleOps) = ((rulesOf u).find? fun p => p.1 == job).map (·.2) := by
    simp only [jobOf, rulesOf, List.find?_map, Option.map_map]
    rfl
  rw [key, key, h]

@[simp] theorem rulesOf_noteProgress (a n : Nat) (s : State) : rulesOf (noteProgress a n s) = rulesOf s := by
  simp only [rulesOf, noteProgress, List.map_map]
  rfl

@[simp] theorem rulesOf_writeBytes (a : Nat) (bs : List Byte) (s : State) : rulesOf (writeBytes a bs s) = rulesOf s := by
  unfold writeBytes
  split
  · rfl
  · simp only [noteWrite, rulesOf_noteProgress]
    simp only [rulesOf, noteDirty_jobs, snoopOut_jobs]

@[simp] theorem rulesOf_writeJobRecord (job : W32) (s : State) : rulesOf (writeJobRecord job s) = rulesOf s := by
  unfold writeJobRecord
  split
  · rfl
  · simp only [writeRec, rulesOf_writeBytes]

@[simp] theorem writeJobRecord_sec (job : W32) (s : State) : (writeJobRecord job s).sec = s.sec := by
  unfold writeJobRecord
  split
  · rfl
  · simp only [writeRec, writeBytes_sec]

/-- A job changed with its id kept is found changed. -/
theorem jobOf_modJob {job : W32} {g : Job → Job} (hg : ∀ j, (g j).id = j.id) (s : State) :
    jobOf job (modJob job g s) = (jobOf job s).map g := by
  have hid (x : Job) : ((if x.id == job then g x else x).id == job) = (x.id == job) := by
    split <;> simp [hg]
  simp only [jobOf, modJob, updIf, List.find?_map, Function.comp_def, hid]
  cases hf : s.jobs.find? fun x => x.id == job with
  | none => rfl
  | some x => simp only [Option.map_some, List.find?_some hf, if_true]

/-- Well-formed operations taken by a job (R88, R373). -/
theorem ruleLoadBody_takes {h : Hdr} {job : W32} {b : List Byte} {ops : List W64} {j : Job} {s : State}
    (hj : jobOf job s = some j) (hops : parseRule b = some ops) (hp : j.phase = .opened) (hb : jobBusy j = false)
    (ha : armed j = false) (hr : j.rule = 3) :
    ruleLoadBody h job b s = complete h stOk (leBytes 1 ops.length) (writeJobRecord job
      (modJob job (fun x => { x with ruleOps := some ops }) (extendMeas 4 (sha256 b) s))) := by
  simp only [ruleLoadBody, hj, hp, hb, hops, ha, hr, ne_eq, not_true_eq_false, if_false, Bool.false_eq_true, or_self]

/-- Settles O17: each command runs its own effect past its checks. -/
theorem shardsAndRule : Obligations.ShardsAndRule := by
  unfold Obligations.ShardsAndRule
  intro h job j s hj
  have hj' : jobOf job (startCmd h s) = some j := (jobOf_startCmd ..).trans hj
  refine ⟨?_, ?_, ?_⟩
  · intro shard gen src sh o img d v w ha hc hsh ho hr hd
    exact (congrArg Host.Outcome.next (runCmd_accepted ha)).trans
      (congrArg Host.Outcome.next (shardCommitBody_commits hj' hsh hc ho hr hd))
  · intro shard dest sh o t ha hp hsh ho hn hv hu
    constructor
    · intro r img v hr hg hi
      exact (congrArg Host.Outcome.next (runCmd_accepted ha)).trans
        (congrArg Host.Outcome.next (shardReadBody_found hj' hsh hp ho hn hv hu hr hg hi))
    · intro hr
      exact (congrArg Host.Outcome.next (runCmd_accepted ha)).trans
        (congrArg Host.Outcome.next (shardReadBody_unreadable hj' hsh hp ho hn hv hu hr))
  · intro b ops ha hlen hops hp hb harm hr
    have hrun : exec (.ruleLoad h job b) s = .next (ruleLoadBody h job b (startCmd h s)) := by
      have hbuf : bufBytes h b = b := if_pos hlen
      exact congrArg Host.Outcome.next ((runCmd_accepted ha).trans (by rw [hbuf]))
    rw [ruleLoadBody_takes hj' hops hp hb harm hr] at hrun
    refine ⟨_, _, hrun, rfl, ?_, ?_⟩
    · rw [jobOf, answer_jobs, ← jobOf, jobOf_ruleOps_congr (rulesOf_writeJobRecord ..),
        jobOf_modJob (g := fun x => { x with ruleOps := some ops }) fun _ => rfl]
      show ((jobOf job (startCmd h s)).map _).map _ = _
      rw [hj']
      rfl
    · rw [answer_sec, writeJobRecord_sec, modJob_sec]
      simp only [extendMeas, startCmd_sec]

end Sys2Proof.Machine
end

section
/-! Making and removing a sector (O12): what giving facets to a sector does to the facets and leaves of the sectors. -/

namespace Sys2Proof.Machine

theorem sectors_of_steadyOf {s t : State} (h : steadyOf true t = steadyOf true s) : t.sectors = s.sectors := by
  simp only [steadyOf, if_true, Prod.mk.injEq, Option.some.injEq] at h
  obtain ⟨-, -, -, hs⟩ := h
  exact hs

@[simp] theorem takeGranules_facets (k : Fin 4) (gs : List Nat) (s : State) : (takeGranules k gs s).facets = s.facets :=
  List.foldlRecOn (motive := fun t : State => t.facets = s.facets) gs _ rfl fun t ht g _ => by simp [ht]

@[simp] theorem takeGranules_sectors (k : Fin 4) (gs : List Nat) (s : State) : (takeGranules k gs s).sectors = s.sectors :=
  List.foldlRecOn (motive := fun t : State => t.sectors = s.sectors) gs _ rfl fun t ht g _ => by simp [ht]

/-- No facet of the columns has an operation in flight. -/
def NoneInFlight (cols : BitVec 12) (s : State) : Prop :=
  ∀ f : Fin 96, cols.getLsbD (facetCol f) = true → s.facets[f].flight = []

/-- Where nothing is in flight, nothing is left to finish. -/
theorem finishStarted_of_noneInFlight {cols : BitVec 12} {s : State} (hi : NoneInFlight cols s) : finishStarted cols s = s :=
  List.foldlRecOn (motive := fun t : State => t = s) (facetsOf cols) _ rfl fun t ht f hf => by
    have hcol : cols.getLsbD (facetCol f) = true := (List.mem_filter.1 hf).2
    rw [ht, finishFlights, hi f hcol]
    rfl

@[simp] theorem giveFacets_sectors (cols : BitVec 12) (k : Option (Fin 4)) (s : State) :
    (giveFacets cols k s).sectors = s.sectors :=
  sectors_of_steadyOf (steadyOf_finishStarted cols s)

theorem giveFacets_given {cols : BitVec 12} {f : Fin 96} (hf : cols.getLsbD (facetCol f) = true) (k : Option (Fin 4))
    (s : State) : (giveFacets cols k s).facets[f] = { sector := k } := by
  simp only [giveFacets, vmap_get, hf, if_true, clearFacet]

theorem giveFacets_other {cols : BitVec 12} {f : Fin 96} {s : State} (hf : cols.getLsbD (facetCol f) = false)
    (hi : NoneInFlight cols s) (k : Option (Fin 4)) : (giveFacets cols k s).facets[f] = s.facets[f] := by
  simp only [giveFacets, finishStarted_of_noneInFlight hi, vmap_get, hf, Bool.false_eq_true, if_false]

/-- `SECTOR_CREATE` whose checks pass (R256, R257). -/
theorem sectorCreateBody_made {h : Hdr} {columns : W16} {quota weight flags : Nat} {s : State}
    (hs : sectorCreateStatus (secNo h) columns quota weight flags s = none) :
    sectorCreateBody h columns quota weight flags s = complete h stOk [] (settleSideband (modSector (secNo h)
      (fun _ => { st := .empty, columns := columns.truncate 12, weight := BitVec.ofNat 16 weight, eval := flags == 1 })
      (giveFacets (columns.truncate 12) (some (secNo h)) (takeGranules (secNo h) ((freeGranules s).take quota) s)))) := by
  simp only [sectorCreateBody, hs]

/-- `SECTOR_DESTROY` of a sector that is not in use (R259). -/
theorem sectorDestroyBody_removed {h : Hdr} {s : State} (hst : s.sectors[secNo h].st ∈ [.empty, .loaded, .faulted])
    (hjob : sectorJob s (secNo h) = none) (harm : sourceArmed s.sectors[secNo h] s = false) :
    sectorDestroyBody h s = complete h stOk [] (settleSideband (modSector (secNo h) (fun _ => {})
      (freeOwners (fun o => o == .sector (secNo h)) (giveFacets s.sectors[secNo h].columns none s)))) := by
  have hfree : ¬(s.sectors[secNo h].st = .none ∨ s.sectors[secNo h].st = .running ∨ s.sectors[secNo h].st = .parked ∨
      (sectorJob s (secNo h)).isSome ∨ sourceArmed s.sectors[secNo h] s) := by
    simp only [List.mem_cons, List.not_mem_nil, or_false] at hst
    rcases hst with e | e | e <;>
      simp only [e, hjob, harm, Option.isSome_none, reduceCtorEq, Bool.false_eq_true, or_self, not_false_eq_true]
  simp only [sectorDestroyBody, if_neg hfree]

@[simp] theorem sectorJob_startCmd (h : Hdr) (s : State) (k : Fin 4) : sectorJob (startCmd h s) k = sectorJob s k := by
  simp only [sectorJob, startCmd_jobs]

@[simp] theorem sourceArmed_startCmd (x : Sector) (h : Hdr) (s : State) : sourceArmed x (startCmd h s) = sourceArmed x s := by
  simp only [sourceArmed, jobArmed, jobOf, startCmd_jobs]

/-- Settles O12: both commands give the columns' facets and change their own sector. -/
theorem sectorCreateAndDestroy : Obligations.SectorCreateAndDestroy := by
  unfold Obligations.SectorCreateAndDestroy
  intro h s k idle
  constructor
  · intro columns quota weight flags ha hs c
    have hrun : exec (.sectorCreate h columns quota weight flags) s = .next (sectorCreateBody h columns quota.toNat weight.toNat
        flags.toNat (startCmd h s)) := congrArg Host.Outcome.next (runCmd_accepted ha)
    rw [sectorCreateBody_made hs] at hrun
    refine ⟨_, _, hrun, rfl, ?_, fun j hj => ?_, fun f => ⟨fun hf => ?_, fun hf hi => ?_⟩⟩
    · simp only [answer_sectors, settleSideband_sectors]
      exact (modSector_self ..).trans (by simp only [BitVec.ofNat_toNat, BitVec.setWidth_eq, c])
    · simp only [answer_sectors, settleSideband_sectors]
      rw [modSector_ne _ _ _ _ hj]
      simp only [giveFacets_sectors, takeGranules_sectors, startCmd_sectors]
    · simp only [answer_facets, settleSideband_facets, modSector_facets]
      exact giveFacets_given hf ..
    · simp only [answer_facets, settleSideband_facets, modSector_facets]
      rw [giveFacets_other hf fun g hg => by simpa only [takeGranules_facets, startCmd_facets] using hi g hg]
      simp only [takeGranules_facets, startCmd_facets]
  · intro ha hst hjob harm c
    have hrun : exec (.sectorDestroy h) s = .next (sectorDestroyBody h (startCmd h s)) :=
      congrArg Host.Outcome.next (runCmd_accepted ha)
    rw [sectorDestroyBody_removed (by simpa only [startCmd_sectors] using hst) ((sectorJob_startCmd ..).trans hjob)
      (by simpa only [startCmd_sectors, sourceArmed_startCmd] using harm), startCmd_sectors] at hrun
    refine ⟨_, _, hrun, rfl, ?_, fun j hj => ?_, fun f => ⟨fun hf => ?_, fun hf hi => ?_⟩⟩
    · simp only [answer_sectors, settleSideband_sectors]
      exact modSector_self ..
    · simp only [answer_sectors, settleSideband_sectors]
      rw [modSector_ne _ _ _ _ hj]
      simp only [freeOwners_sectors, giveFacets_sectors, startCmd_sectors]
    · simp only [answer_facets, settleSideband_facets, modSector_facets, freeOwners_facets]
      exact giveFacets_given hf ..
    · simp only [answer_facets, settleSideband_facets, modSector_facets, freeOwners_facets]
      rw [giveFacets_other hf fun g hg => by simpa only [startCmd_facets] using hi g hg]
      simp only [startCmd_facets]

end Sys2Proof.Machine
end

section
/-! Firmware (O47): what an image slot holds after each change, the chunks of an installation, and the commands past their
checks. -/

namespace Sys2Proof.Machine

/-! ### Image slots -/

@[simp] theorem slotOfSec_setSlot (b : Bool) (c : SlotContent) (x : Sec) : slotOfSec (setSlot b c x) b = c := by
  cases b <;> rfl

@[simp] theorem slotPassed_setSlot (b : Bool) (c : SlotContent) (x : Sec) : slotPassed (setSlot b c x) b = false := by
  cases b <;> rfl

@[simp] theorem slotOfSec_passSlot (b : Bool) (svn : Nat) (x : Sec) : slotOfSec (passSlot b svn x) b = slotOfSec x b := by
  cases b <;> rfl

@[simp] theorem slotPassed_passSlot (b : Bool) (svn : Nat) (x : Sec) : slotPassed (passSlot b svn x) b = true := by
  cases b <;> rfl

@[simp] theorem slotSvn_passSlot (b : Bool) (svn : Nat) (x : Sec) : slotSvn (passSlot b svn x) b = svn := by
  cases b <;> rfl

/-- An erased header leaves the bytes known of the slot. -/
theorem slotOfSec_eraseSlot (b : Bool) (x : Sec) :
    slotOfSec (eraseSlot b x) b = .erased (slotKnown (slotOfSec x b)).1 (slotKnown (slotOfSec x b)).2 := by
  cases b <;> rfl

@[simp] theorem slotPassed_eraseSlot (b : Bool) (x : Sec) : slotPassed (eraseSlot b x) b = false := by
  cases b <;> rfl

/-- Table 03-3 reads the fuses only, which a slot's content is no part of. -/
theorem verifyImage_setSlot (b : Bool) (c : SlotContent) (q : Option FwSeq) (x : Sec) (head body : List Byte) :
    verifyImage { setSlot b c x with fw := q } head body = verifyImage x head body := by
  cases b <;> rfl

/-! ### Chunks -/

/-- The state that takes a chunk in sequence: the slot's header erased, its bytes known as far as the chunk goes, and the
header area held back (R83). -/
def chunkTaken (h : Hdr) (offset : Nat) (b : Bool) (bs : List Byte) (hdr : List Host.Cell) (s : State) : State :=
  let old := slotKnown (slotOfSec s.sec b)
  let p := putChunk old.2 hdr offset bs
  { s with sec := { setSlot b (.erased (max old.1 (offset + bs.length)) p.1) s.sec with
      fw := some ⟨h.path == .net, b, offset + bs.length, p.2⟩ } }

theorem takeChunk_more (h : Hdr) (offset : Nat) (b : Bool) (bs : List Byte) (hdr : List Host.Cell) (s : State) :
    takeChunk h offset false b bs hdr s = complete h stOk (leBytes 4 (offset + bs.length)) (chunkTaken h offset b bs hdr s) := rfl

theorem takeChunk_last (h : Hdr) (offset : Nat) (b : Bool) (bs : List Byte) (hdr : List Host.Cell) (s : State) :
    let old := slotKnown (slotOfSec s.sec b)
    let p := putChunk old.2 hdr offset bs
    takeChunk h offset true b bs hdr s = finishInstall h b (max old.1 (offset + bs.length)) p.1 p.2 (offset + bs.length)
      (chunkTaken h offset b bs hdr s) := by
  intro old p
  simp only [takeChunk, if_true]
  rfl

/-- Of a chunk taken the sequence knows its path, its slot and how far it has come. -/
theorem chunkTaken_fw (h : Hdr) (offset : Nat) (b : Bool) (bs : List Byte) (hdr : List Host.Cell) (s : State) :
    (chunkTaken h offset b bs hdr s).sec.fw.map (fun q => (q.onNet, q.slotB, q.received)) =
      some (h.path == .net, b, offset + bs.length) := rfl

theorem slotOfSec_chunkTaken (h : Hdr) (offset : Nat) (b : Bool) (bs : List Byte) (hdr : List Host.Cell) (s : State) :
    slotOfSec (chunkTaken h offset b bs hdr s).sec b = .erased (max (slotKnown (slotOfSec s.sec b)).1 (offset + bs.length))
      (putChunk (slotKnown (slotOfSec s.sec b)).2 hdr offset bs).1 := slotOfSec_setSlot ..

theorem slotPassed_chunkTaken (h : Hdr) (offset : Nat) (b : Bool) (bs : List Byte) (hdr : List Host.Cell) (s : State) :
    slotPassed (chunkTaken h offset b bs hdr s).sec b = false := slotPassed_setSlot ..

theorem verifyImage_chunkTaken (h : Hdr) (offset : Nat) (b : Bool) (bs : List Byte) (hdr : List Host.Cell) (s : State)
    (head body : List Byte) : verifyImage (chunkTaken h offset b bs hdr s).sec head body = verifyImage s.sec head body :=
  verifyImage_setSlot ..

section
variable {h : Hdr} {b : Bool} {known total : Nat} {cells hdr : List Host.Cell} {s : State}

theorem finishInstall_passed
    (hv : verifyImage s.sec (slotHeader (scopy cells 0 hdr 0 0x1000)) (slotBody b known (scopy cells 0 hdr 0 0x1000)) = none) :
    finishInstall h b known cells hdr total s = complete h stOk (leBytes 4 total) { s with sec := {
      passSlot b (field (slotHeader (scopy cells 0 hdr 0 0x1000)) 8 4)
        (setSlot b (.written known (scopy cells 0 hdr 0 0x1000)) s.sec) with fw := none } } := by
  unfold finishInstall
  extract_lets img head
  rw [show verifyImage s.sec head (slotBody b known img) = none from hv]

theorem finishInstall_failed {st : W16}
    (hv : verifyImage s.sec (slotHeader (scopy cells 0 hdr 0 0x1000)) (slotBody b known (scopy cells 0 hdr 0 0x1000)) = some st) :
    finishInstall h b known cells hdr total s = complete h st [] (dropInstall b s) := by
  unfold finishInstall
  extract_lets img head
  rw [show verifyImage s.sec head (slotBody b known img) = some st from hv]

end

/-! ### The commands -/

theorem exec_fwInstall {h : Hdr} {s : State} (ha : accepted catFwInstall h s = true) {offset : W32} {flags : Byte} {o f : Nat}
    (ho : offset.toNat = o) (hf : flags.toNat = f) (slot : Byte) (chunk : List Byte) :
    exec (.fwInstall h offset flags slot chunk) s =
      .next (fwInstallBody h o f slot.toNat (inBytes h chunk (startCmd h s)) (startCmd h s)) := by
  subst ho hf
  exact congrArg Host.Outcome.next (runCmd_accepted ha)

theorem received_ne_zero {offset : W32} {n : Nat} (h0 : offset ≠ 0) (ho : offset.toNat = n) : n ≠ 0 :=
  fun hn => h0 (BitVec.eq_of_toNat_eq (ho.trans hn))

@[simp] theorem fwBusy_startCmd (h : Hdr) (s : State) : fwBusy (startCmd h s) = fwBusy s := by
  simp only [fwBusy, startCmd_sec]

@[simp] theorem slotHeld_startCmd (b : Bool) (h : Hdr) (s : State) : slotHeld b (startCmd h s) = slotHeld b s := by
  simp only [slotHeld, startCmd_sec, startCmd_phase]

/-- The first chunk of a free slot (R83). -/
theorem fwInstallBody_first {h : Hdr} {flags slot : Nat} {bs : List Byte} {s : State} (hc : chunkArg 0 flags slot bs = false)
    (hf : flags < 2) (hb : fwBusy s = false) (hs : slotHeld (slot == 1) s = false) :
    fwInstallBody h 0 flags slot bs s =
      takeChunk h 0 (flags % 2 == 1) (slot == 1) bs [] { s with sec := eraseSlot (slot == 1) s.sec } := by
  have hn : s.sec.fw = none := by
    simp only [fwBusy, Bool.or_eq_false_iff, Option.isSome_eq_false_iff, Option.isNone_iff_eq_none] at hb
    exact hb.1
  simp only [fwInstallBody, hc, hn, hb, hf.not_ge, hs, Bool.false_eq_true, if_false, ne_eq, not_true_eq_false]

/-- A further chunk in sequence (R83, R122). -/
theorem fwInstallBody_next {h : Hdr} {flags slot : Nat} {bs : List Byte} {s : State} {q : FwSeq}
    (hc : chunkArg q.received flags slot bs = false) (hf : flags < 2) (hq : s.sec.fw = some q) (hn : q.onNet = (h.path == .net))
    (h0 : q.received ≠ 0) (hs : q.slotB = (slot == 1)) :
    fwInstallBody h q.received flags slot bs s = takeChunk h q.received (flags % 2 == 1) (slot == 1) bs q.header s := by
  simp only [fwInstallBody, hc, hq, hn, hf.not_ge, h0, hs, bne_self_eq_false, Bool.false_eq_true, if_false, ne_eq,
    not_true_eq_false, or_self]

/-- `FW_ACTIVATE` of a slot that passed (R84). -/
theorem fwActivateBody_activates {h : Hdr} {slot : Nat} {s : State} (hs : slot ≤ 1) (hb : fwBusy s = false)
    (hh : slotHeld (slot == 1) s = false) (hp : slotPassed s.sec (slot == 1) = true) :
    fwActivateBody h slot s = complete h stOk (leBytes 1 slot) (activate (slot == 1) s) := by
  simp only [fwActivateBody, hs.not_gt, hb, hh, hp, Bool.false_eq_true, if_false, Bool.not_true, Bool.or_self]

theorem activate_boot (b : Bool) (s : State) : (activate b s).jrn.boot.activeB = b ∧
    ((activate b s).jrn.boot.stage[(3 : Fin 22)]).fails = 0 := by
  obtain ⟨x, y, z, hr⟩ := writeBoot_boot (fun r => { r with
    activeB := b, stage := vupd r.stage 3 fun e => { e with fails := 0 } }) s
  rw [activate, hr]
  exact ⟨rfl, by rw [vupd_self]⟩

section
variable {h : Hdr} {flags : Nat} {s : State} {r : Running} (hf : flags ≤ 1) (hb : fwBusy s = false)
  (hr : s.sec.running = some r) (ha : r.slotB = s.jrn.boot.activeB) (hd : readyReached s = true)
  (hv : r.svn ≤ slotSvn s.sec (!r.slotB) ∨ flags = 1)
include ha hd hv

/-- No case of E_STATE (R85). -/
theorem svnCommit_allowed :
    ¬(r.slotB ≠ s.jrn.boot.activeB ∨ readyReached s = false ∨ (slotSvn s.sec (!r.slotB) < r.svn ∧ flags = 0)) := by
  simp only [ha, hd, ne_eq, not_true_eq_false, Bool.true_eq_false, false_or]
  rw [← ha]
  omega

include hf hb hr

/-- `FW_SVN_COMMIT` past its checks (R85). -/
theorem fwSvnCommitBody_commits : fwSvnCommitBody h flags none s =
    complete h stOk (leBytes 1 (max s.sec.fuseSvn r.svn)) { s with
      sec.fuses.svn := max s.sec.fuses.svn (max s.sec.fuseSvn r.svn), sec.fuseSvn := max s.sec.fuseSvn r.svn } := by
  simp only [fwSvnCommitBody, hf.not_gt, hb, hr, if_neg (svnCommit_allowed ha hd hv), if_false, Bool.false_eq_true]

/-- A burn of the SVN that a reset interrupts (R71). -/
theorem fwSvnCommitBody_cut (n : Nat) : fwSvnCommitBody h flags (some n) s = { s with sec := { s.sec with
    fuses.svn := max s.sec.fuses.svn (min (max s.sec.fuseSvn r.svn) (s.sec.fuses.svn + n)), burning := some true } } := by
  simp only [fwSvnCommitBody, hf.not_gt, hb, hr, if_neg (svnCommit_allowed ha hd hv), if_false, Bool.false_eq_true]

end

/-- Settles O47: each command past its checks, by the lemmas above. -/
theorem firmwareIsInstalledAndActivated : Obligations.FirmwareIsInstalledAndActivated := by
  unfold Obligations.FirmwareIsInstalledAndActivated
  intro h slot s b s'
  have hsec : s'.sec = s.sec := startCmd_sec h s
  refine ⟨?_, ?_, ?_, ?_⟩
  · intro offset chunk ha hc bs
    constructor
    · rintro hb rfl hh
      have hbody := (fwInstallBody_first (h := h) (s := s') hc (by decide) ((fwBusy_startCmd ..).trans hb)
        ((slotHeld_startCmd ..).trans hh)).trans (takeChunk_more ..)
      rw [Nat.zero_add] at hbody
      refine ⟨_, _, (exec_fwInstall ha rfl rfl slot chunk).trans (congrArg Host.Outcome.next hbody), rfl, ?_, ?_⟩
      · rw [answer_sec, chunkTaken_fw, Nat.zero_add]
      · rw [answer_sec, slotPassed_chunkTaken]
    · intro q hq hn h0 ho hs
      rw [ho] at hc ⊢
      have hbody := (fwInstallBody_next hc (by decide) (hsec ▸ hq) hn (received_ne_zero h0 ho) hs).trans (takeChunk_more ..)
      refine ⟨_, _, (exec_fwInstall ha ho rfl slot chunk).trans (congrArg Host.Outcome.next hbody), rfl, ?_⟩
      rw [answer_sec, chunkTaken_fw]
  · intro offset chunk q ha hq hn h0 ho hs hc old p img total known
    rw [ho] at hc
    have hbody := (fwInstallBody_next hc (by decide) (hsec ▸ hq) hn (received_ne_zero h0 ho) hs).trans (takeChunk_last ..)
    rw [← ho, hsec] at hbody
    have hrun := (exec_fwInstall ha (flags := 1) rfl rfl slot chunk).trans (congrArg Host.Outcome.next hbody)
    have hsame := verifyImage_chunkTaken h offset.toNat b (inBytes h chunk s') q.header s' (slotHeader img) (slotBody b known img)
    rw [hsec] at hsame
    constructor
    · intro hv
      refine ⟨_, _, hrun.trans (congrArg Host.Outcome.next (finishInstall_passed (hsame.trans hv))), rfl, ?_, ?_, ?_, ?_⟩
      · rw [answer_sec]
      · rw [answer_sec]; exact (slotOfSec_passSlot ..).trans (slotOfSec_setSlot ..)
      · rw [answer_sec]; exact slotPassed_passSlot ..
      · rw [answer_sec]; exact slotSvn_passSlot ..
    · intro st hv
      refine ⟨_, _, hrun.trans (congrArg Host.Outcome.next (finishInstall_failed (hsame.trans hv))), rfl, ?_, ?_, ?_⟩
      · rw [answer_sec]; rfl
      · rw [answer_sec]
        refine (slotOfSec_eraseSlot ..).trans ?_
        rw [slotOfSec_chunkTaken, hsec]
        rfl
      · rw [answer_sec]; exact slotPassed_eraseSlot ..
  · intro ha hs hb hh hp
    have hrun : exec (.fwActivate h slot) s = .next (fwActivateBody h slot.toNat s') :=
      congrArg Host.Outcome.next (runCmd_accepted ha)
    rw [fwActivateBody_activates hs ((fwBusy_startCmd ..).trans hb) ((slotHeld_startCmd ..).trans hh) (by rwa [hsec])] at hrun
    have hbytes : leBytes 1 slot.toNat = [slot] := by simp only [leBytes, BitVec.ofNat_toNat, BitVec.setWidth_eq]
    rw [hbytes] at hrun
    obtain ⟨hactive, hfails⟩ := activate_boot b s'
    refine ⟨_, _, hrun, rfl, ?_, ?_⟩
    · rw [answer_jrn]; exact hactive
    · rw [answer_jrn]; exact hfails
  · intro flags r ha hf hb hr hact hd hv
    have hrun (cut : Option Nat) : exec (.fwSvnCommit h flags cut) s = .next (fwSvnCommitBody h flags.toNat cut s') :=
      congrArg Host.Outcome.next (runCmd_accepted ha)
    have hr' : s'.sec.running = some r := hsec ▸ hr
    have hv' : r.svn ≤ slotSvn s'.sec (!r.slotB) ∨ flags.toNat = 1 := by
      rw [hsec]
      exact hv.imp_right fun h1 => by rw [h1]; rfl
    have hact' : r.slotB = s'.jrn.boot.activeB := hact.trans (congrArg (·.boot.activeB) (startCmd_jrn h s).symm)
    have hd' : readyReached s' = true := by rwa [readyReached, startCmd_jrn]
    have hb' : fwBusy s' = false := (fwBusy_startCmd ..).trans hb
    constructor
    · rw [hrun, fwSvnCommitBody_commits hf hb' hr' hact' hd' hv', hsec]
      rfl
    · intro n
      refine ⟨_, hrun (some n), ?_⟩
      rw [fwSvnCommitBody_cut hf hb' hr' hact' hd' hv' n, hsec]
      exact ⟨startCmd_out h s, by simp [fwBusy], rfl, le_max_left _ _, max_le_max le_rfl (min_le_left _ _)⟩

end Sys2Proof.Machine
end

section
/-! Tokens, the TAP and the entropy source (O48). -/

namespace Sys2Proof.Machine

/-! ### Tokens -/

/-- `DEBUG_UNLOCK` of a token that is well formed and signed (R88, R93). -/
theorem debugUnlockBody_unlocks {h : Hdr} {b : List Byte} {s : State} (hn : 512 ≤ b.length)
    (hz : slice b 0x11 111 = zeros 111) (ha : tokenAuth 0x50334442 b s = true) :
    debugUnlockBody h b s = complete h stOk [] (extendMeas 3 (configRecord { s with sec.unlocked := true })
      { s with sec.unlocked := true }) := by
  have hform : (decide (b.length < 512) || slice b 0x11 111 != zeros 111) = false := by simp [hz, hn]
  simp only [debugUnlockBody, hform, ha, Bool.false_eq_true, if_false, Bool.not_true]

section
variable {h : Hdr} {b : List Byte} {s : State} (hf : fuseArg b = false) (hb : fwBusy s = false)
  (ha : tokenAuth 0x50334655 b s = true) (hp : fuseApplies (field b 0x11 1) (field b 0x12 1) (field b 0x10 1) s = true)
include hf hb ha hp

/-- `FUSE_BURN` of a token that is well formed and signed, whose operation applies (R72). -/
theorem fuseBurnBody_burns : let x := burn (field b 0x11 1) (field b 0x12 1) s.sec
    fuseBurnBody h b none s = complete h stOk (leBytes 1 x.lifecycle.toNat ++ leBytes 1 x.keyRevoked.toNat)
      { s with sec := x } := by
  simp only [fuseBurnBody, hf, hb, ha, hp, Bool.false_eq_true, if_false, Bool.not_true]

/-- A burn that a reset interrupts (R72). -/
theorem fuseBurnBody_cut (n : Nat) : fuseBurnBody h b (some n) s =
    { s with sec := { burnCut (field b 0x11 1) (field b 0x12 1) n s.sec with burning := some false } } := by
  simp only [fuseBurnBody, hf, hb, ha, hp, Bool.false_eq_true, if_false, Bool.not_true]

end

theorem burnArray_shadow (op slot : Nat) (x : Sec) :
    (burnArray op slot x).lifecycle = x.lifecycle ∧ (burnArray op slot x).keyRevoked = x.keyRevoked := by
  unfold burnArray
  split <;> exact ⟨rfl, rfl⟩

/-- The shadow stays until a burn verifies. -/
theorem burnCut_shadow (op slot n : Nat) (x : Sec) :
    (burnCut op slot n x).lifecycle = x.lifecycle ∧ (burnCut op slot n x).keyRevoked = x.keyRevoked := by
  unfold burnCut
  dsimp only
  split
  · exact ⟨rfl, rfl⟩
  · split
    · exact ⟨rfl, rfl⟩
    · exact burnArray_shadow ..

theorem burn_lifecycle (op slot : Nat) (x : Sec) :
    (burn op slot x).fuses.lifecycle = (burnArray op slot x).fuses.lifecycle := rfl

/-- The lifecycle of an interrupted burn is the old one, the old one with bit 1, or the new one. -/
theorem burnCut_lifecycle (op slot n : Nat) (x : Sec) :
    (burnCut op slot n x).fuses.lifecycle = x.fuses.lifecycle ∨
      (burnCut op slot n x).fuses.lifecycle = x.fuses.lifecycle ||| 0b010 ∨
      (burnCut op slot n x).fuses.lifecycle = (burn op slot x).fuses.lifecycle := by
  rw [burn_lifecycle]
  unfold burnCut
  dsimp only
  split
  · exact .inl rfl
  · split
    next hop =>
      obtain ⟨rfl, -⟩ := hop
      split
      · exact .inl rfl
      · split
        · exact .inr (.inr rfl)
        · exact .inr (.inl rfl)
    · exact .inr (.inr rfl)

/-- Bit 2 of the lifecycle is burnt after the key wrap only. -/
theorem burnArray_wrapBurnt {op slot : Nat} {x : Sec} (hn : (burnArray op slot x).fuses.lifecycle &&& 0b100 ≠ 0)
    (hx : x.fuses.lifecycle &&& 0b100 = 0) : (burnArray op slot x).wrapBurnt = true := by
  unfold burnArray at hn ⊢
  split at hn
  · exact absurd (by rw [BitVec.and_or_distrib_right, hx]; rfl) hn
  · rfl
  · exact absurd hx hn

theorem burnCut_wrapBurnt {op slot n : Nat} {x : Sec} (hn : (burnCut op slot n x).fuses.lifecycle &&& 0b100 ≠ 0)
    (hx : x.fuses.lifecycle &&& 0b100 = 0) : (burnCut op slot n x).wrapBurnt = true := by
  unfold burnCut at hn ⊢
  dsimp only at hn ⊢
  split at hn
  · exact absurd hx hn
  · next h0 =>
    split at hn
    · next hop => rw [if_neg h0, if_pos hop]
    · next hop =>
      rw [if_neg h0, if_neg hop]
      exact burnArray_wrapBurnt hn hx

/-! ### The entropy source -/

theorem exec_entropyHealthFail {s : State} (hs : secRuns s = true) (bs : List (List Byte)) :
    exec (.entropyHealthFail bs) s = .next { s with sec := runStartups bs (healthFailure s.sec) } :=
  congrArg Host.Outcome.next (if_pos hs)

/-- Fewer than three failures in a row leave the source up (R68). -/
theorem healthFailure_up {x : Sec} (hd : x.entDown = false) (hf : x.entFails < 2) : (healthFailure x).entDown = false := by
  simp only [healthFailure, hd, Bool.false_or, decide_eq_false_iff_not]
  omega

/-- The third failure in a row ends the source (R68). -/
theorem healthFailure_down {x : Sec} (hf : 2 ≤ x.entFails) : (healthFailure x).entDown = true := by
  simp only [healthFailure, Bool.or_eq_true, decide_eq_true_eq]
  omega

theorem runStartups_pass {b : List Byte} {bs : List (List Byte)} {x : Sec} (hd : x.entDown = false)
    (hp : startupPasses b = true) : runStartups (b :: bs) x = { x with entFails := 0 } := by
  simp only [runStartups, hd, hp, Bool.false_eq_true, if_false, if_true]

theorem runStartups_fail {b : List Byte} {bs : List (List Byte)} {x : Sec} (hd : x.entDown = false)
    (hp : startupPasses b = false) : runStartups (b :: bs) x = runStartups bs (healthFailure x) := by
  simp only [runStartups, hd, hp, Bool.false_eq_true, if_false]

theorem exec_drbgReseed {s : State} (hs : secRuns s = true) (hd : s.sec.entDown = false) (hr : 65536 ≤ s.sec.drbgReqs) :
    exec .drbgReseed s = .next { s with sec := { reseedDrbg s.sec with entFails := 0 } } := by
  have hdue : (secRuns s && !s.sec.entDown && decide (reseedAfter ≤ s.sec.drbgReqs)) = true := by
    simp only [hs, hd, Bool.not_false, Bool.and_self, Bool.true_and, decide_eq_true_eq]
    exact hr
  exact congrArg Host.Outcome.next (if_pos hdue)

/-- A reseed takes one more piece of entropy and starts the count of requests again (R67). -/
theorem reseedDrbg_counts (x : Sec) : (reseedDrbg x).drbgReqs = 0 ∧ (reseedDrbg x).seedIx = x.seedIx + 1 := by
  unfold reseedDrbg
  split <;> exact ⟨rfl, rfl⟩

/-- Settles O48: the two tokens past their checks, the TAP, and the entropy source, by the lemmas above. -/
theorem tokensDebugAndEntropy : Obligations.TokensDebugAndEntropy := by
  unfold Obligations.TokensDebugAndEntropy
  intro h token s s' b
  have hsec : s'.sec = s.sec := startCmd_sec h s
  refine ⟨?_, ?_, ?_⟩
  · intro ha hn hz hauth t
    exact congrArg Host.Outcome.next ((runCmd_accepted ha).trans (debugUnlockBody_unlocks hn hz hauth))
  · intro ha hf hb hauth hp x
    have hb' : fwBusy s' = false := (fwBusy_startCmd ..).trans hb
    have hrun (cut : Option Nat) : exec (.fuseBurn h token cut) s = .next (fuseBurnBody h b cut s') :=
      congrArg Host.Outcome.next (runCmd_accepted ha)
    constructor
    · rw [hrun, fuseBurnBody_burns hf hb' hauth hp, hsec]
      rfl
    · intro n
      refine ⟨_, hrun (some n), ?_⟩
      rw [fuseBurnBody_cut hf hb' hauth hp, hsec]
      obtain ⟨hl, hk⟩ := burnCut_shadow (field b 0x11 1) (field b 0x12 1) n s.sec
      exact ⟨startCmd_out h s, by simp [fwBusy], hl, hk, burnCut_lifecycle .., burnCut_wrapBurnt⟩
  · intro hs
    refine ⟨?_, rfl, fun w hw => ?_, ?_, ?_, ?_, ?_⟩
    · exact congrArg Host.Outcome.next (if_pos hs)
    · exact (execJtagTapAccess_apex w s).trans (if_neg (by simp [hw]))
    · exact ⟨_, exec_entropyHealthFail hs [], rfl, rfl⟩
    · intro b bs hd hf hp
      refine ⟨_, exec_entropyHealthFail hs (b :: bs), ?_⟩
      rw [runStartups_pass (healthFailure_up hd hf) hp]
      exact ⟨rfl, healthFailure_up hd hf⟩
    · intro b hd hf hp
      refine ⟨_, exec_entropyHealthFail hs [b], ?_⟩
      rw [runStartups_fail (healthFailure_up hd (by omega)) hp]
      exact healthFailure_down (by simp only [healthFailure, hf, le_refl])
    · intro hd hr
      obtain ⟨hreqs, hseed⟩ := reseedDrbg_counts s.sec
      exact ⟨_, exec_drbgReseed hs hd hr, hreqs, rfl, hseed⟩

end Sys2Proof.Machine
end

section
/-! The SPDM responder (O49): the length of what it sends, its turn, and each request's answer. -/

namespace Sys2Proof.Machine

open Sys2Proof.Claims

/-! ### Lengths -/

@[simp] theorem length_leBytes (n v : Nat) : (leBytes n v).length = n := by
  induction n generalizing v with
  | zero => rfl
  | succ n ih => simp only [leBytes, List.length_cons, ih]

@[simp] theorem length_beBytes (n v : Nat) : (beBytes n v).length = n := by
  simp only [beBytes, List.length_reverse, length_leBytes]

@[simp] theorem length_sha256 (m : List Byte) : (sha256 m).length = 32 := by
  unfold sha256
  simp

@[simp] theorem length_slice (bs : List Byte) (o n : Nat) : (slice bs o n).length = n := by
  simp only [slice, zeros, List.length_append, List.length_replicate, List.length_take]
  omega

/-! ### Random bytes -/

@[simp] theorem length_randomBytes (s : State) : (randomBytes s).1.length = 32 := length_sha256 _

/-- A request to the DRBG leaves of SEC all but the DRBG. -/
theorem randomBytes_sec (s : State) : ∃ d k n, (randomBytes s).2.sec = { s.sec with drbg := some d, seedIx := k, drbgReqs := n } := by
  unfold randomBytes seedDrbg
  split
  · exact ⟨_, _, _, rfl⟩
  · exact ⟨_, _, _, rfl⟩

@[simp] theorem randomBytes_meas (s : State) : (randomBytes s).2.sec.meas = s.sec.meas := by
  obtain ⟨_, _, _, h⟩ := randomBytes_sec s; rw [h]

@[simp] theorem randomBytes_serial (s : State) : (randomBytes s).2.sec.serial = s.sec.serial := by
  obtain ⟨_, _, _, h⟩ := randomBytes_sec s; rw [h]

theorem randomBytes_seeded (s : State) : (randomBytes s).2.sec.drbg.isSome = true := rfl

/-- A request to a DRBG that is seeded counts one (R67). -/
theorem randomBytes_drbgReqs {s : State} (hd : s.sec.drbg.isSome = true) :
    (randomBytes s).2.sec.drbgReqs = s.sec.drbgReqs + 1 := by
  simp only [randomBytes, hd, if_true]

@[simp] theorem measAll_randomBytes (s : State) : measAll (randomBytes s).2 = measAll s := by
  have hblock : measBlock (randomBytes s).2 = measBlock s := funext fun i => by simp only [measBlock, randomBytes_meas]
  simp only [measAll, hblock]

/-! ### The responder's turn -/

section
variable {s : State} (hr : spdmReach s = true)
include hr

/-- While a response is pending a request is answered with Busy (R91; log 96). -/
theorem spdmTurn_pending (hd : s.sec.doeWaits = true) (body : State → State) :
    spdmTurn body s = emit (.spdm (spdmHdr 0x7F 0x03 0)) s := by
  simp only [spdmTurn, hr, hd, Bool.not_true, Bool.false_eq_true, if_false, if_true]
  rfl

section
variable (hd : s.sec.doeWaits = false)
include hd

theorem spdmTurn_free (body : State → State) : spdmTurn body s = body s := by
  simp only [spdmTurn, hr, hd, Bool.not_true, Bool.false_eq_true, if_false]

/-- A request whose turn has come. -/
theorem spdmAt_reached {n : Nat} (hn : n ≤ s.sec.spdm) (body : State → State) : spdmAt n body s = body s :=
  (spdmTurn_free hr hd _).trans (if_neg hn.not_gt)

/-- A request before its turn (R91). -/
theorem spdmAt_early {n : Nat} (hn : s.sec.spdm < n) (body : State → State) :
    spdmAt n body s = spdmReply (spdmHdr 0x7F 0x04 0) s :=
  (spdmTurn_free hr hd _).trans (if_pos hn)

end
end

theorem tells_of_reply {c : Instr} {s t : State} {m : List Byte} {p : State → Prop} (hc : exec c s = .next (spdmReply m t))
    (ho : t.out = s.out) (hp : p (spdmReply m t)) : tells c s m p :=
  ⟨_, hc, congrArg (fun l => l ++ [Emit.spdm m]) ho, rfl, hp⟩

/-! ### Challenges and measurements -/

section
variable {s : State} (hr : spdmReach s = true) (hd : s.sec.doeWaits = false) (hn : 3 ≤ s.sec.spdm)
include hr hd hn

/-- A challenge without entropy (R68). -/
theorem execSpdmChallenge_down (he : s.sec.entDown = true) (n : BitVec 256) :
    execSpdmChallenge 0 0xFF n s = .next (spdmReply (spdmHdr 0x7F 0x05 0) s) := by
  unfold execSpdmChallenge
  rw [spdmAt_reached hr hd hn, if_neg (by decide), if_pos (by rw [he]; rfl)]
  rfl

theorem execSpdmChallenge_signed (he : s.sec.entDown = false) (hi : identityUp s = true) (n : BitVec 256) :
    let t := (nonce s).2
    let msg := spdmHdr 0x03 0 0x01 ++ sha256 (certChain t.sec.serial) ++ (nonce s).1 ++ sha256 (measAll t) ++ [0x00, 0x00]
    let g := spdmSign "responder-challenge_auth signing"
      (t.sec.talkA ++ t.sec.talkB ++ [0x12, 0x83, 0, 0xFF] ++ beBytes 32 n.toNat ++ msg) t
    execSpdmChallenge 0 0xFF n s =
      .next (spdmReply (msg ++ g.1) { g.2 with sec := { g.2.sec with talkB := [], talkL := [] } }) := by
  unfold execSpdmChallenge
  rw [spdmAt_reached hr hd hn, if_neg (by decide), if_neg (by simp [he, hi])]
  rfl

/-- Measurements of an index, unsigned (R90). -/
theorem execSpdmGetMeasurements_unsigned (he : s.sec.entDown = false) {ix : Byte} {k : Nat} {rec_ : List Byte}
    (hm : measRecord ix s = some (k, rec_)) (sl : Byte) (n : BitVec 256) : ∃ l,
    let t := (nonce s).2
    execSpdmGetMeasurements ix sl false s n = .next (spdmReply (spdmHdr 0x60 (if ix = 0 then 5 else 0) 0 ++ leBytes 1 k ++
      leBytes 3 rec_.length ++ rec_ ++ (nonce s).1 ++ [0x00, 0x00]) { t with sec := { t.sec with talkB := [], talkL := l } }) := by
  unfold execSpdmGetMeasurements
  rw [spdmAt_reached hr hd hn, hm]
  dsimp only
  rw [if_neg (by simp), if_neg (by simp [he])]
  exact ⟨_, rfl⟩

/-- Measurements of an index, signed over the negotiation and the messages since the last signature (R90). -/
theorem execSpdmGetMeasurements_signed (he : s.sec.entDown = false) (hi : identityUp s = true) {ix : Byte} {k : Nat}
    {rec_ : List Byte} (hm : measRecord ix s = some (k, rec_)) (n : BitVec 256) : ∃ m l,
    let t := (nonce s).2
    let g := spdmSign "responder-measurements signing" (t.sec.talkA ++ l) t
    execSpdmGetMeasurements ix 0 true s n =
      .next (spdmReply (m ++ g.1) { g.2 with sec := { g.2.sec with talkB := [], talkL := [] } }) := by
  unfold execSpdmGetMeasurements
  rw [spdmAt_reached hr hd hn, hm]
  dsimp only
  rw [if_neg (by simp), if_neg (by simp [he, hi])]
  exact ⟨_, _, rfl⟩

/-- A portion of the certificate chain (R90). -/
theorem execSpdmGetCertificate_portion {off : W16} (ho : off.toNat < (certChain s.sec.serial).length) (len : W16) : ∃ req,
    let chain := certChain s.sec.serial
    let p := (chain.drop off.toNat).take (min len.toNat 1024)
    let m := spdmHdr 0x02 0 0 ++ leBytes 2 p.length ++ leBytes 2 (chain.length - off.toNat - p.length) ++ p
    execSpdmGetCertificate 0 off len s = .next (spdmReply m (talkB req m s)) := by
  unfold execSpdmGetCertificate
  rw [spdmAt_reached hr hd hn]
  dsimp only
  rw [if_neg (by simp [ho])]
  exact ⟨_, rfl⟩

/-- An offset past the chain (R90). -/
theorem execSpdmGetCertificate_past {off : W16} (ho : ¬off.toNat < (certChain s.sec.serial).length) (len : W16) :
    execSpdmGetCertificate 0 off len s = .next (spdmReply (spdmHdr 0x7F 0x01 0) s) := by
  unfold execSpdmGetCertificate
  rw [spdmAt_reached hr hd hn]
  dsimp only
  rw [if_pos (.inr (Nat.le_of_not_lt ho))]
  rfl

end

@[simp] theorem length_spdmSign (context : String) (l : List Byte) (s : State) : (spdmSign context l s).1.length = 384 :=
  length_slice ..

/-- Where a CHALLENGE_AUTH message has the chain's digest and the measurements' summary. -/
theorem challenge_fields {a b x m z : List Byte} (ha : a.length = 4) (hb : b.length = 32) (hx : x.length = 32)
    (hm : m.length = 32) :
    (a ++ b ++ x ++ m ++ z).take 36 = a ++ b ∧ ((a ++ b ++ x ++ m ++ z).drop 68).take 32 = m := by
  have hab : (a ++ b).length = 36 := by rw [List.length_append, ha, hb]
  have habx : (a ++ b ++ x).length = 68 := by rw [List.length_append, hab, hx]
  constructor
  · rw [List.append_assoc, List.append_assoc, List.take_left' hab]
  · rw [List.append_assoc (a ++ b ++ x), List.drop_left' habx, List.take_left' hm]

/-- Other algorithms than those of R90 are not accepted. -/
theorem algorithms_refused {a : SpdmAlgs} (ha : a ≠ ⟨true, true, true⟩) : (a.dmtf && a.pss3072 && a.sha256) = false := by
  rw [Bool.eq_false_iff]
  intro hall
  simp only [Bool.and_eq_true] at hall
  obtain ⟨⟨hdmtf, hpss⟩, hsha⟩ := hall
  cases a
  subst hdmtf hpss hsha
  exact ha rfl

/-- Settles O49: each request by its turn and its answer, above. -/
theorem spdmAnswers : Obligations.SpdmAnswers := by
  unfold Obligations.SpdmAnswers
  intro s hr chain
  constructor
  · intro hd c req a sl su ix code off len n sg hc
    simp only [List.mem_cons, List.not_mem_nil, or_false] at hc
    rcases hc with rfl | rfl | rfl | rfl | rfl | rfl | rfl | rfl <;>
      exact congrArg Host.Outcome.next (spdmTurn_pending hr hd _)
  intro hd
  refine ⟨?_, ?_, ?_, ?_, ?_, ?_, ?_⟩
  · exact tells_of_reply (congrArg Host.Outcome.next (spdmTurn_free hr hd _)) rfl ⟨rfl, rfl, rfl⟩
  · intro req hn
    refine ⟨_, tells_of_reply (congrArg Host.Outcome.next (spdmAt_reached hr hd hn _)) rfl ⟨rfl, rfl⟩⟩
  · intro req hn
    exact ⟨_, tells_of_reply (congrArg Host.Outcome.next (spdmAt_reached hr hd hn _)) rfl ⟨rfl, rfl⟩⟩
  · intro a req hn ha
    refine tells_of_reply (t := s) (congrArg Host.Outcome.next ((spdmAt_reached hr hd hn _).trans ?_)) rfl rfl
    exact if_neg (by rw [algorithms_refused ha]; decide)
  · intro hn
    exact tells_of_reply (congrArg Host.Outcome.next (spdmAt_early hr hd hn _)) rfl rfl
  · intro hn
    refine ⟨?_, ?_, ?_, ?_⟩
    · exact tells_of_reply (congrArg Host.Outcome.next (spdmAt_reached hr hd hn _)) rfl rfl
    · intro off len p
      by_cases ho : off.toNat < chain.length
      · obtain ⟨req, hc⟩ := execSpdmGetCertificate_portion hr hd hn ho len
        rw [if_pos ho]
        exact tells_of_reply hc rfl rfl
      · rw [if_neg ho]
        exact tells_of_reply (execSpdmGetCertificate_past hr hd hn ho len) rfl rfl
    · intro he n
      exact tells_of_reply (execSpdmChallenge_down hr hd hn he n) rfl rfl
    · intro he
      constructor
      · intro n hi
        obtain ⟨hhead, hsummary⟩ := challenge_fields (a := spdmHdr 0x03 0 0x01) (z := [0x00, 0x00]) rfl
          (length_sha256 (certChain (nonce s).2.sec.serial)) (length_randomBytes s) (length_sha256 (measAll (nonce s).2))
        refine ⟨_, _, tells_of_reply (execSpdmChallenge_signed hr hd hn he hi n) rfl fun hs => ?_, length_spdmSign ..,
          hhead.trans ?_, hsummary.trans ?_⟩
        · exact (randomBytes_drbgReqs (randomBytes_seeded s)).trans (congrArg (· + 1) (randomBytes_drbgReqs hs))
        · rw [nonce, randomBytes_serial]
        · rw [nonce, measAll_randomBytes]
      · intro ix sl n k rec_ hm
        constructor
        · obtain ⟨l, hc⟩ := execSpdmGetMeasurements_unsigned hr hd hn he hm sl n
          exact ⟨_, length_randomBytes s, tells_of_reply hc rfl rfl⟩
        · intro hi
          obtain ⟨m, l, hc⟩ := execSpdmGetMeasurements_signed hr hd hn he hi hm n
          exact ⟨_, _, length_spdmSign .., tells_of_reply hc rfl rfl⟩
  · intro code
    exact tells_of_reply (congrArg Host.Outcome.next (spdmTurn_free hr hd _)) rfl rfl

end Sys2Proof.Machine
end

section
/-! Mailbox commands that a common check turns away (O56). -/

namespace Sys2Proof.Machine

/-- Every command that has a header runs by way of the common checks (R107, R115, R116). -/
theorem exec_runCmd_of_headerOf {c : Instr} {k : Cat} {h : Hdr} (s : State) (hc : headerOf c = some (k, h)) :
    ∃ body, exec c s = .next (runCmd k h body s) := by
  unfold headerOf at hc
  split at hc
  all_goals cases hc
  all_goals exact ⟨_, rfl⟩

/-- Settles O56: a mailbox command runs by way of the common checks, and those alone decide here. -/
theorem commandsTurnedAway : Obligations.CommandsTurnedAway := by
  unfold Obligations.CommandsTurnedAway
  intro c k h s hc
  obtain ⟨body, hexec⟩ := exec_runCmd_of_headerOf s hc
  exact ⟨fun hr => hexec.trans (congrArg Host.Outcome.next (runCmd_notReady hr)),
    fun st hr hs => hexec.trans (congrArg Host.Outcome.next (runCmd_failed hr hs))⟩

end Sys2Proof.Machine
end

section
/-! Management exchanges, the state of the management ports, and announcements (O33). -/

namespace Sys2Proof.Machine

/-! ### Segments of a command (R107, R463) -/

/-- What acknowledging a CMD segment sends. -/
def segmentAck (m : MgmtMsg) (s : State) : List Emit := if mgmtUp s m.port then [.mgmtAck m.port m.xid m.offset] else []

@[simp] theorem ackSegment_out (m : MgmtMsg) (s : State) : (ackSegment m s).out = s.out ++ segmentAck m s := by
  unfold ackSegment segmentAck
  split
  · rfl
  · rw [List.append_nil]

@[simp] theorem ackSegment_mgmt (m : MgmtMsg) (s : State) : (ackSegment m s).mgmt = s.mgmt := by
  unfold ackSegment; split <;> rfl

@[simp] theorem ackSegment_mbx (m : MgmtMsg) (s : State) : (ackSegment m s).mbx = s.mbx := by
  unfold ackSegment; split <;> rfl

theorem exec_mgmtCmd {m : MgmtMsg} {s : State} (hup : (s.mgmt.ports[m.port]).up = true) (last : Bool) (data : List Byte) :
    exec (.mgmtCmd m last data) s = .next (takeSegment m last data s) := congrArg Host.Outcome.next (if_pos hup)

section
variable {m : MgmtMsg} {last : Bool} {data : List Byte} {s : State}

/-- The first segment begins an exchange with the command entry. -/
theorem takeSegment_first {op : W16} {h : Hdr} (hf : (s.mgmt.exchanges.find? fun e => e.xid == m.xid && e.src == m.src) = none)
    (ho : m.offset = 0) (hn : s.mgmt.exchanges.length < 8) (hp : parseEntry .net m.xid false false (data.take 64) = (op, h)) :
    let e : Exchange := ⟨m.xid, m.src, op, h, (data.drop 64).length, data.drop 64, false, [], 0⟩
    let t := ackSegment m { s with mgmt.exchanges := s.mgmt.exchanges ++ [e] }
    takeSegment m last data s = if last then joinCommand m e t else t := by
  simp only [takeSegment, hf, ho, ne_eq, not_true_eq_false, if_false, hp, hn.not_ge]

/-- A segment that came before, or one of a command that is complete, is acknowledged again. -/
theorem takeSegment_repeated {e : Exchange} (hf : (s.mgmt.exchanges.find? fun e => e.xid == m.xid && e.src == m.src) = some e)
    (ho : m.offset.toNat < e.next ∨ e.joined = true) : takeSegment m last data s = ackSegment m s := by
  simp only [takeSegment, hf, ho, if_true]

/-- A segment in sequence adds its bytes. -/
theorem takeSegment_next {e : Exchange} (hf : (s.mgmt.exchanges.find? fun e => e.xid == m.xid && e.src == m.src) = some e)
    (ho : m.offset.toNat = e.next) (hj : e.joined = false) :
    let e' := { e with next := e.next + data.length, data := e.data ++ data }
    let l := updIf s.mgmt.exchanges (fun x => x.xid == m.xid && x.src == m.src) fun _ => e'
    takeSegment m false data s = ackSegment m { s with mgmt.exchanges := l } := by
  simp only [takeSegment, hf, ho, hj, lt_irrefl, Bool.false_eq_true, or_self, if_false, ne_eq, not_true_eq_false]

/-- A complete command of the catalogue whose buffer is whole joins the acceptance order. -/
theorem joinCommand_joins {e : Exchange} {c : Cat} (hc : catOf e.opcode = some c) (ht : m.total = e.h.bufLen)
    (hb : c.buf = .input → e.data.length = m.total.toNat) : (joinCommand m e s).out = s.out ∧
    (joinCommand m e s).mbx.netOut = s.mbx.netOut ++ [⟨e.h, e.opcode, false, false, false, s.mbx.accepted⟩] := by
  have hwhole : ¬(m.total ≠ e.h.bufLen ∨ (c.buf = .input ∧ e.data.length ≠ m.total.toNat)) := by tauto
  simp only [joinCommand, hc, if_neg hwhole, and_self]

end

/-- Where every element that `p` finds is replaced by one that `p` finds too, `p` finds the new one. -/
theorem find?_updIf_const {α : Type} {l : List α} {p : α → Bool} {x y : α} (hx : l.find? p = some x) (hy : p y = true) :
    (updIf l p fun _ => y).find? p = some y := by
  have hp (z : α) : p (if p z then y else z) = p z := by split <;> simp_all
  simp only [updIf, List.find?_map, Function.comp_def, hp, hx, Option.map_some, List.find?_some hx, if_true]

section
variable {m : MgmtMsg} {data : List Byte} {s : State} (hup : (s.mgmt.ports[m.port]).up = true)
include hup

section
variable {op : W16} {h : Hdr} (hf : (s.mgmt.exchanges.find? fun e => e.xid == m.xid && e.src == m.src) = none)
  (ho : m.offset = 0) (hn : s.mgmt.exchanges.length < 8) (hp : parseEntry .net m.xid false false (data.take 64) = (op, h))
include hf ho hn hp

/-- A command whose first segment is its last one joins the acceptance order. -/
theorem exec_mgmtCmd_joins {c : Cat} (hc : catOf op = some c) (ht : m.total = h.bufLen)
    (hb : c.buf = .input → data.length = 64 + m.total.toNat) : ∃ u, exec (.mgmtCmd m true data) s = .next u ∧
      u.out = s.out ++ segmentAck m s ∧ u.mbx.netOut = s.mbx.netOut ++ [⟨h, op, false, false, false, s.mbx.accepted⟩] := by
  obtain ⟨hout, hnet⟩ := joinCommand_joins
    (e := ⟨m.xid, m.src, op, h, (data.drop 64).length, data.drop 64, false, [], 0⟩) hc ht (fun hi => by simp [hb hi])
  refine ⟨_, (exec_mgmtCmd hup true data).trans (congrArg _ (takeSegment_first hf ho hn hp)), hout.trans (ackSegment_out ..), ?_⟩
  exact hnet.trans (by rw [ackSegment_mbx])

/-- The first segment of several is acknowledged and begins an exchange. -/
theorem exec_mgmtCmd_begins : ∃ u, exec (.mgmtCmd m false data) s = .next u ∧ u.mbx = s.mbx ∧ u.out = s.out ++ segmentAck m s ∧
    u.mgmt.exchanges =
      s.mgmt.exchanges ++ [⟨m.xid, m.src, op, h, (data.drop 64).length, data.drop 64, false, [], 0⟩] :=
  ⟨_, (exec_mgmtCmd hup false data).trans (congrArg _ (takeSegment_first hf ho hn hp)), ackSegment_mbx .., ackSegment_out ..,
    congrArg Mgmt.exchanges (ackSegment_mgmt ..)⟩

end

section
variable {e : Exchange} (hf : (s.mgmt.exchanges.find? fun e => e.xid == m.xid && e.src == m.src) = some e)
include hf

/-- A segment that came before is only acknowledged again. -/
theorem exec_mgmtCmd_repeats (ho : m.offset.toNat < e.next ∨ e.joined = true) (last : Bool) :
    ∃ u, exec (.mgmtCmd m last data) s = .next u ∧ u.out = s.out ++ segmentAck m s ∧ u.mgmt = s.mgmt ∧ u.mbx = s.mbx :=
  ⟨_, (exec_mgmtCmd hup last data).trans (congrArg _ (takeSegment_repeated hf ho)), ackSegment_out .., ackSegment_mgmt ..,
    ackSegment_mbx ..⟩

/-- A segment in sequence is acknowledged, and the exchange takes its bytes. -/
theorem exec_mgmtCmd_continues (ho : m.offset.toNat = e.next) (hj : e.joined = false) :
    ∃ u, exec (.mgmtCmd m false data) s = .next u ∧ u.out = s.out ++ segmentAck m s ∧ u.mbx = s.mbx ∧
      (u.mgmt.exchanges.find? fun e => e.xid == m.xid && e.src == m.src) =
        some { e with next := e.next + data.length, data := e.data ++ data } := by
  have hmine := List.find?_some hf
  refine ⟨_, (exec_mgmtCmd hup false data).trans (congrArg _ (takeSegment_next hf ho hj)), ackSegment_out .., ackSegment_mbx .., ?_⟩
  rw [ackSegment_mgmt]
  exact find?_updIf_const hf hmine

end
end

/-! ### Segments of a completion (R463) -/

section
variable {xid offset : W32} {e : Exchange} {g : Nat × Nat × List Byte} {r : List (Nat × Nat × List Byte)} {s : State}
  (hs : s.mgmt.exchanges = [e]) (hx : e.xid = xid) (hu : e.unacked = g :: r) (hg : g.1 = offset.toNat)
include hs hx hu hg

/-- The acknowledged segment leaves, and with the last one the exchange of a complete command. -/
theorem execMgmtAck_exchanges : ∃ u, exec (.mgmtAck xid offset) s = .next u ∧
    u.mgmt.exchanges = if exchangeOver s { e with unacked := r } then [] else [{ e with unacked := r }] := by
  have hack : ackOne offset.toNat e.unacked = r := by simp [ackOne, hu, hg, List.findIdx?_cons]
  refine ⟨_, rfl, ?_⟩
  simp only [dropExchanges, hs, updIf, List.map_cons, List.map_nil, hx, beq_self_eq_true, if_true, hack, List.filter_cons,
    List.filter_nil, Bool.not_eq_true', ← Bool.not_eq_true, ite_not]
  rfl

/-- A segment that has been sent less than eight times again goes out with `RETX`, and is counted. -/
theorem execMgmtRetransmit_again (hn : g.2.1 < 8) : ∃ l, exec (.mgmtRetransmit xid offset) s =
    .next (counter 14 1 (emitCpl xid e.total [(g.1, g.2.1 + 1, g.2.2)] { s with mgmt.exchanges := l })) := by
  have he : (s.mgmt.exchanges.find? fun e => e.xid == xid) = some e := by simp [hs, hx]
  have hf : (e.unacked.find? fun x => x.1 = offset.toNat) = some g := by simp [hu, hg]
  exact ⟨_, by simp only [exec, execMgmtRetransmit, he, hf, hn, if_true]; rfl⟩

end

/-- A CPL segment that is sent again goes out with `RETX` on every port that can send. -/
theorem emitCpl_again (xid : W32) (total o n : Nat) (b : List Byte) (s : State) : (emitCpl xid total [(o, n + 1, b)] s).out =
    s.out ++ ((fins 2).filter (mgmtUp s)).map fun q => .cpl q xid o total true b :=
  congrArg (s.out ++ ·) List.map_eq_flatMap.symm

/-- A CPL segment unacknowledged for its time is sent again and counted. -/
theorem execMgmtRetransmit_sends {xid offset : W32} {e : Exchange} {g : Nat × Nat × List Byte} {r : List (Nat × Nat × List Byte)}
    {s : State} (hs : s.mgmt.exchanges = [e]) (hx : e.xid = xid) (hu : e.unacked = g :: r) (hg : g.1 = offset.toNat)
    (hn : g.2.1 < 8) : ∃ u, exec (.mgmtRetransmit xid offset) s = .next u ∧
      u.out = s.out ++ ((fins 2).filter (mgmtUp s)).map (fun q => .cpl q xid g.1 e.total true g.2.2) ∧
      sget 0 u.health.counters 14 = sget 0 s.health.counters 14 + 1 := by
  obtain ⟨l, hexec⟩ := execMgmtRetransmit_again hs hx hu hg hn
  refine ⟨_, hexec, ?_, ?_⟩
  · rw [counter_out, emitCpl_again]
    rfl
  · rw [counter_counters, emitCpl_health]

/-! ### Ports (R466, R472) -/

/-- The event logged last is the newest one. -/
theorem logHealth_newest (kind : Byte) (unit ix info : Nat) (s : State) : (logHealth kind unit ix info s).health.events.getLast? =
    some ⟨now s, kind, BitVec.ofNat 8 unit, BitVec.ofNat 16 ix, BitVec.ofNat 32 info⟩ := by
  have hlen : ¬s.health.events.length + 1 ≤ s.health.events.length + 1 - 64 := by omega
  simp only [logHealth, List.getLast?_drop, List.length_append, List.length_singleton, if_neg hlen, List.getLast?_concat]

theorem endInjection_mgmtUp (n : Nat) (p : Fin 2) (s : State) : ((endInjection n s).mgmt.ports[p]).up = (s.mgmt.ports[p]).up := by
  have hup : ((vmap s.mgmt.ports fun _ x => { x with silent := false })[p]).up = (s.mgmt.ports[p]).up := by rw [vmap_get]
  unfold endInjection
  split
  · rfl
  · dsimp only
    split <;> exact hup

@[simp] theorem endInjection_aon (n : Nat) (s : State) : (endInjection n s).aon = s.aon := by
  unfold endInjection
  split
  · rfl
  · dsimp only
    split <;> rfl

theorem mgmtLost_down (p : Fin 2) (s : State) : ((mgmtLost p s).mgmt.ports[p]).up = false := by
  have hdown : ((vupd s.mgmt.ports p fun x => { x with up := false })[p]).up = false := by rw [vupd_self]
  unfold mgmtLost
  dsimp only
  split
  · split
    · exact hdown
    · exact (endInjection_mgmtUp ..).trans hdown
  · exact hdown

@[simp] theorem mgmtLost_aon (p : Fin 2) (s : State) : (mgmtLost p s).aon = s.aon := by
  unfold mgmtLost
  dsimp only
  split
  · split
    · rfl
    · exact endInjection_aon ..
  · rfl

theorem execMgmtPortDown_logged {p : Fin 2} {s : State} (hup : (s.mgmt.ports[p]).up = true) :
    ∃ u, exec (.mgmtPortDown p) s = .next u ∧ (u.mgmt.ports[p]).up = false ∧ (u.mgmt.ports[p]).down = true ∧
      u.health.events.getLast? = some ⟨now s, 0x0C, BitVec.ofNat 8 p.val, 0, 0⟩ := by
  refine ⟨_, congrArg Host.Outcome.next (if_pos hup), ?_, ?_, ?_⟩
  · simp only [logHealth_mgmt, vupd_self, mgmtLost_down]
  · simp only [logHealth_mgmt, vupd_self]
  · simp [logHealth_newest, now]

theorem execMgmtPortUp_logged {p : Fin 2} {s : State} (hd : (s.mgmt.ports[p]).down = true)
    (hf : s.health.mgmt.getLsbD p.val = false) :
    ∃ u, exec (.mgmtPortUp p) s = .next u ∧ (u.mgmt.ports[p]).up = true ∧ (u.mgmt.ports[p]).down = false ∧
      u.health.events.getLast? = some ⟨now s, 0x0D, BitVec.ofNat 8 p.val, 0, 0⟩ := by
  refine ⟨_, congrArg Host.Outcome.next (if_pos (by rw [hd, hf]; rfl)), ?_, ?_, ?_⟩
  · simp only [logHealth_mgmt, vupd_self]
  · simp only [logHealth_mgmt, vupd_self]
  · exact logHealth_newest ..

/-! ### Announcements (R464) -/

/-- The module's own entry goes out on each management port that can send. -/
theorem exec_announceSend {job : W32} {s : State} (ha : answering s = true) (hg : inGroup s job = true) :
    exec (.announceSend job) s =
      .next (emits (((fins 2).filter (mgmtUp s)).map fun p => .announce p (ownAnnounce s job)) s) :=
  congrArg Host.Outcome.next (if_pos (by rw [ha, hg]; rfl))

/-- An `ANNOUNCE` of a job whose group exists takes the place of what was known of its sender, and of nothing else. -/
theorem exec_announce {a : Announcement} {s : State} (ha : answering s = true) (hg : inGroup s a.job = true)
    (hp : (s.mgmt.ports[(0 : Fin 2)]).up = true ∨ (s.mgmt.ports[(1 : Fin 2)]).up = true) :
    ∃ u, exec (.announce a) s = .next u ∧ u.mgmt.known.filter (fun x => x.job == a.job && x.serial == a.serial) = [a] ∧
      ∀ x ∈ s.mgmt.known, (x.job ≠ a.job ∨ x.serial ≠ a.serial) → x ∈ u.mgmt.known := by
  have hany : ((fins 2).any fun p => (s.mgmt.ports[p]).up) = true :=
    List.any_eq_true.2 (hp.elim (fun h => ⟨0, mem_fins 0, h⟩) fun h => ⟨1, mem_fins 1, h⟩)
  refine ⟨_, congrArg Host.Outcome.next (if_pos (by rw [ha, hg, hany]; rfl)), ?_, fun x hx hne => ?_⟩
  · simp [List.filter_append, List.filter_filter]
  · refine List.mem_append_left _ (List.mem_filter.2 ⟨hx, ?_⟩)
    simpa [← not_and_or] using hne

/-- Settles O33: each clause is the rule of its exchange, port or announcement above. -/
theorem managementExchanges : Obligations.ManagementExchanges := by
  unfold Obligations.ManagementExchanges
  refine ⟨fun m last data p s => ⟨fun hup => ⟨fun op h hf ho hn hp => ⟨?_, ?_⟩, fun e hf => ⟨?_, ?_⟩⟩, ?_, ?_, ?_⟩,
    fun job a s => ⟨exec_announceSend, exec_announce, fun rank serial => ⟨_, rfl, rfl⟩⟩⟩
  · rintro c rfl hc ht hb
    exact exec_mgmtCmd_joins hup hf ho hn hp hc ht hb
  · rintro rfl
    exact exec_mgmtCmd_begins hup hf ho hn hp
  · exact fun hrep => exec_mgmtCmd_repeats hup hf hrep last
  · rintro hnext hj rfl
    exact exec_mgmtCmd_continues hup hf hnext hj
  · intro xid offset e hs hx g r hu hg
    exact ⟨execMgmtAck_exchanges hs hx hu hg, execMgmtRetransmit_sends hs hx hu hg⟩
  · exact execMgmtPortDown_logged
  · exact execMgmtPortUp_logged

end Sys2Proof.Machine
end

section
/-! Mirrors: the MIRROR packets that reach their operation, binding and unbinding (O29). -/

namespace Sys2Proof.Machine

/-! ### MIRROR packets (R425, R426) -/

theorem onMirror_viaHost_of_fromHost {p : ChordHdr} {body : W16 → State → State} {r rank : W16} {s t : State}
    (h : mirrorIn.fromHost p s r = some (rank, t)) : onMirror.viaHost p body s r = body rank t := by
  unfold mirrorIn.fromHost at h
  unfold onMirror.viaHost
  by_cases hup : (viaUp s p.via && !p.malformed) = true
  · rw [if_pos hup] at h
    rw [Bool.and_eq_true, Bool.not_eq_true'] at hup
    obtain ⟨hlink, hformed⟩ := hup
    rw [hlink, hformed, if_neg (by decide), if_neg (by decide)]
    rcases hacc : hostAccept p (countFrame p.via s) with ⟨u, _ | _⟩
    · rw [hacc] at h
      cases h
    · rw [hacc] at h
      cases h
      rfl
  · rw [if_neg hup] at h
    cases h

/-- The operation of a MIRROR packet that the transport gives to the module acts on the state then (R425). -/
theorem onMirror_of_mirrorIn {p : ChordHdr} {hosted reply : Bool} {early : State → Job → Bool} {s t : State} {rank : W16}
    (h : mirrorIn p hosted reply early s = some (rank, t)) (body : W16 → State → State) :
    onMirror p hosted reply early body s = mirrorOut p hosted reply s (body rank t) := by
  unfold mirrorIn at h
  unfold onMirror mirrorOut
  split at h
  · next hpath =>
    split at h
    · next hr =>
      cases h
      simp only [hpath, onPacket, hr, if_true]
      rfl
    · cases h
  · next hpath => simpa [hpath] using onMirror_viaHost_of_fromHost h
  · next hpath => simpa [hpath] using onMirror_viaHost_of_fromHost h
  · cases h

/-! ### Binding at the source (R123, R416) -/

section
variable {h : Hdr} {job : W32} {j : Job} {lay : Layout} {degree everyN : Nat} {p0 p1 : Ip6} {s v : State}
  (hj : jobOf job s = some j) (hl : j.layout = some lay) (ho : j.phase = .opened) (hb : jobBusy j = false)
include hj hl ho hb

/-- A binding whose checks pass waits, and a BIND_REQ goes to every partner. -/
theorem mirrorBindBody_asks (hs : bindStatus j lay degree everyN p0 p1 s = (v, none)) :
    let as := areasOf j.rule lay lay.rank
    let gib := (regionLen as + 2 ^ 30 - 1) / 2 ^ 30
    let ps := (if degree = 2 then [p0, p1] else [p0]).map fun a => (a, optGet 0 (rankOfAddr lay a), (none : Option Nat))
    mirrorBindBody h job degree everyN p0 p1 s = ps.foldl
      (fun t q => sendMirror job q.2.1 false mopBindReq 0 0
        (beBytes 8 (regionLen as) ++ beBytes 4 as.length ++ beBytes 2 everyN ++ zeros 2) t)
      (modJob job (fun x => { x with pend := some (.bind h everyN ps gib) }) v) := by
  simp only [mirrorBindBody, hj, hl, ho, hb, hs, reduceCtorEq, Bool.false_eq_true, if_false]

/-- A check that fails ends `MIRROR_BIND` with its status. -/
theorem mirrorBindBody_ends {c : W16} (hs : bindStatus j lay degree everyN p0 p1 s = (v, some c)) :
    mirrorBindBody h job degree everyN p0 p1 s = complete h c [] v := by
  simp only [mirrorBindBody, hj, hl, ho, hb, hs, reduceCtorEq, Bool.false_eq_true, if_false]

end

/-! ### Jobs -/

theorem jobOf_congr {s t : State} (job : W32) (h : t.jobs = s.jobs) : jobOf job t = jobOf job s := by rw [jobOf, h, jobOf]

theorem jobOf_clearPend (job : W32) (s : State) :
    jobOf job (clearPend job s) = (jobOf job s).map fun x => { x with pend := none } :=
  jobOf_modJob (g := fun x => { x with pend := none }) (fun _ => rfl) s

/-! ### The partners' answers (R416) -/

/-- The partners of a binding, with the answer of `rank` taken in: `n` GiB. -/
def noteAnswer (rank : W16) (n : Nat) (ps : List (Ip6 × W16 × Option Nat)) : List (Ip6 × W16 × Option Nat) :=
  updIf ps (fun q => q.2.1 == rank) fun q => (q.1, q.2.1, some n)

@[simp] theorem length_noteAnswer (rank : W16) (n : Nat) (ps : List (Ip6 × W16 × Option Nat)) :
    (noteAnswer rank n ps).length = ps.length := List.length_map ..

/-- An answer changes no partner's address or rank. -/
theorem map_noteAnswer {α : Type} (g : Ip6 → W16 → α) (rank : W16) (n : Nat) (ps : List (Ip6 × W16 × Option Nat)) :
    ((noteAnswer rank n ps).map fun q => g q.1 q.2.1) = ps.map fun q => g q.1 q.2.1 := by
  simp only [noteAnswer, updIf, List.map_map]
  refine List.map_congr_left fun q _ => ?_
  simp only [Function.comp_apply]
  split <;> rfl

section
variable {job : W32} {j : Job} {h : Hdr} {everyN gib : Nat} {qs : List (Ip6 × W16 × Option Nat)} {s : State}
  (hj : jobOf job s = some j) (hp : j.pend = some (.bind h everyN qs gib))
include hj hp

/-- Where a partner has still to answer, the binding waits. -/
theorem bindAnswered_waits (hq : qs.any (fun q => q.2.2.isNone) = true) : bindAnswered job s = s := by
  simp only [bindAnswered, hj, hp, hq, if_true]

/-- Where every partner has room, the binding stands and its initial snapshot waits. -/
theorem jobOf_bindAnswered_binds (hq : qs.all (fun q => q.2.2.any fun g => decide (gib ≤ g)) = true) :
    jobOf job (bindAnswered job s) = some { j with
      pend := some (.bindSnap h gib), snapNext := [genOf j],
      binding := some ⟨qs.length, everyN, qs.map fun q => ⟨q.1, q.2.1, none⟩, gib⟩ } := by
  have hroom : ∀ q ∈ qs, ∃ g, q.2.2 = some g ∧ gib ≤ g := by simpa [Option.any_eq_true] using hq
  have hsome : qs.any (fun q => q.2.2.isNone) = false := by
    rw [List.any_eq_false]
    intro q hmem
    obtain ⟨g, hg, -⟩ := hroom q hmem
    simp [hg]
  have hlarge : qs.any (fun q => decide (optGet 0 q.2.2 < gib)) = false := by
    rw [List.any_eq_false]
    intro q hmem
    obtain ⟨g, hg, hle⟩ := hroom q hmem
    simpa [hg, optGet] using hle
  simp only [bindAnswered, hj, hp, hsome, hlarge, Bool.false_eq_true, if_false]
  rw [jobOf_modJob, hj, Option.map_some]
  exact fun _ => rfl

/-- Where all have answered and one has too little room, `MIRROR_BIND` ends with E_NO_SPACE. -/
theorem bindAnswered_noSpace (ha : qs.all (fun q => q.2.2.isSome) = true)
    (hq : qs.any (fun q => q.2.2.any fun g => decide (g < gib)) = true) :
    bindAnswered job s = complete h stNoSpace [] (clearPend job s) := by
  have hsome : qs.any (fun q => q.2.2.isNone) = false := by
    simpa only [List.any_eq_false, List.all_eq_true, Option.not_isSome, Bool.not_eq_true, Option.isNone_eq_false_iff] using ha
  have hsmall : qs.any (fun q => decide (optGet 0 q.2.2 < gib)) = true := by
    rw [List.any_eq_true] at hq ⊢
    obtain ⟨q, hmem, hlt⟩ := hq
    obtain ⟨g, hg, hlt⟩ := (Option.any_eq_true _ _).1 hlt
    exact ⟨q, hmem, by simpa [hg, optGet] using hlt⟩
  simp only [bindAnswered, hj, hp, hsome, hsmall, Bool.false_eq_true, if_false, if_true]

end

/-! ### The region at a partner (R418) -/

/-- The region that a BIND_REQ asks for. -/
def askedRegion (p : ChordHdr) (bytes : W64) (entries : W32) (rank : W16) (j : Job) : Region :=
  { job := p.job, rank := rank, epoch := j.epoch, gib := (bytes.toNat + 2 ^ 30 - 1) / 2 ^ 30, entries := entries.toNat,
    dirBytes := dirLen entries.toNat, bufBytes := (bytes.toNat - dirLen entries.toNat) / 2 }

/-- The answer to a BIND_REQ: its status and the GiB held. -/
def bindAck (p : ChordHdr) (st gib : Nat) (s : State) : State :=
  mirrorReply p mopBindAck 0 0 (beBytes 2 st ++ zeros 2 ++ beBytes 4 gib) s

section
variable {p : ChordHdr} {bytes : W64} {entries : W32} {rank : W16} {s t : State} {j : Job} {lay : Layout}
  (hin : mirrorIn p false false never s = some (rank, t)) (hj : jobOf p.job t = some j) (hl : j.layout = some lay)
include hin hj hl

/-- A hosted region that is large enough is reused. -/
theorem exec_mirrorBindReq_reuses {o : Region} (ho : regionOf p.job rank t = some o)
    (hle : (askedRegion p bytes entries rank j).gib ≤ o.gib) (everyN : W16) :
    exec (.mirrorBindReq p bytes entries everyN) s = .next (mirrorOut p false false s (bindAck p 0 o.gib
      (reuseRegion o (askedRegion p bytes entries rank j) (areasOf j.rule lay rank) t))) := by
  refine (congrArg Host.Outcome.next (onMirror_of_mirrorIn hin _)).trans ?_
  unfold askedRegion at hle ⊢
  obtain ⟨k, hk⟩ : ∃ k, k = 2 ^ 30 := ⟨_, rfl⟩
  rw [← hk] at hle ⊢
  simp only [hj, hl, ho, hle, if_true]
  rfl

/-- Where no hosted region is large enough, one is taken, or the answer is E_NO_SPACE with the GiB held. -/
theorem exec_mirrorBindReq_takes (ho : ∀ o, regionOf p.job rank t = some o → o.gib < (askedRegion p bytes entries rank j).gib)
    (everyN : W16) : let r := askedRegion p bytes entries rank j
    exec (.mirrorBindReq p bytes entries everyN) s = .next (mirrorOut p false false s ((takeRegion r t).elim
      (bindAck p stNoSpace.toNat (((regionOf p.job rank t).map (·.gib)).getD 0) t)
      fun v => bindAck p 0 r.gib (freshRegion r (areasOf j.rule lay rank) v))) := by
  refine (congrArg Host.Outcome.next (onMirror_of_mirrorIn hin _)).trans ?_
  unfold askedRegion at ho ⊢
  obtain ⟨k, hk⟩ : ∃ k, k = 2 ^ 30 := ⟨_, rfl⟩
  simp only [← hk] at ho ⊢
  rcases hheld : regionOf p.job rank t with _ | o
  · simp only [hj, hl]
    split
    all_goals next htake => simp only [htake]; rfl
  · simp only [hj, hl, (ho o hheld).not_ge, if_false]
    split
    all_goals next htake => simp only [htake]; rfl

end

/-- A BIND_ACK is noted as its sender's answer, E_NO_SPACE as no GiB held, and the answers are counted. -/
theorem exec_mirrorBindAck {p : ChordHdr} {st : W16} {n : W32} {rank : W16} {s t : State} {j : Job} {h : Hdr} {everyN gib : Nat}
    {ps : List (Ip6 × W16 × Option Nat)} (hin : mirrorIn p false false never s = some (rank, t)) (hj : jobOf p.job t = some j)
    (hp : j.pend = some (.bind h everyN ps gib)) :
    ∃ u, exec (.mirrorBindAck p st n) s = .next (mirrorOut p false false s (bindAnswered p.job u)) ∧ jobOf p.job u =
      some { j with pend := some (.bind h everyN (noteAnswer rank (if st = 0 then n.toNat else 0) ps) gib) } := by
  refine ⟨_, congrArg Host.Outcome.next (onMirror_of_mirrorIn hin _), ?_⟩
  rw [jobOf_modJob, hj, Option.map_some, hp]
  · rfl
  · exact fun _ => rfl

/-! ### What a module hosts, and the bindings of its jobs (R418, R420, R431) -/

/-- The regions and flash copies that the module hosts, and its jobs. -/
def hostedOf (s : State) : List Region × List FlashCopy × List Job := (s.regions, s.flash.copies, s.jobs)

/-- What each step keeps, the steps keep together. -/
theorem get_foldl_of_step {α β : Type} {get : State → β} {g : State → α → State} (hg : ∀ t a, get (g t a) = get t) (l : List α)
    (s : State) : get (l.foldl g s) = get s :=
  List.foldlRecOn (motive := fun t => get t = get s) l g rfl fun t ht a _ => (hg t a).trans ht

theorem hostedOf_eraseBlock (k : Nat) (s : State) : hostedOf (eraseBlock k s) = hostedOf s := by
  unfold eraseBlock
  dsimp only
  split <;> rfl

theorem hostedOf_settleReadOnly (s : State) : hostedOf (settleReadOnly s) = hostedOf s := by
  unfold settleReadOnly
  split <;> rfl

/-- The FTL frees blocks; what is hosted is not its to change. -/
theorem hostedOf_ftlDrop (o : FtlOwner) (s : State) : hostedOf (ftlDrop o s) = hostedOf s :=
  (hostedOf_settleReadOnly _).trans ((get_foldl_of_step (fun t k => hostedOf_eraseBlock k t) _ _).trans rfl)

@[simp] theorem freeFlashCopy_copies (job : W32) (rank : W16) (s : State) :
    (freeFlashCopy job rank s).flash.copies = s.flash.copies.filter fun c => !(c.job == job && c.rank == rank) := by
  unfold freeFlashCopy
  split
  · exact congrArg (·.2.1) (hostedOf_ftlDrop ..)
  · next hnone =>
    rw [Bool.not_eq_true, Option.isSome_eq_false_iff, Option.isNone_iff_eq_none, flashCopyOf, List.find?_eq_none] at hnone
    exact (List.filter_eq_self.2 fun c hc => by rw [Bool.eq_false_of_not_eq_true (hnone c hc)]; rfl).symm

@[simp] theorem freeFlashCopy_regions (job : W32) (rank : W16) (s : State) : (freeFlashCopy job rank s).regions = s.regions := by
  unfold freeFlashCopy
  split
  · exact congrArg (·.1) (hostedOf_ftlDrop ..)
  · rfl

@[simp] theorem freeFlashCopy_jobs (job : W32) (rank : W16) (s : State) : (freeFlashCopy job rank s).jobs = s.jobs := by
  unfold freeFlashCopy
  split
  · exact congrArg (·.2.2) (hostedOf_ftlDrop ..)
  · rfl

@[simp] theorem endRegion_regions (job : W32) (rank : W16) (s : State) :
    (endRegion job rank s).regions = s.regions.filter fun r => !(r.job == job && r.rank == rank) := rfl

@[simp] theorem endRegion_copies (job : W32) (rank : W16) (s : State) : (endRegion job rank s).flash.copies = s.flash.copies := rfl

@[simp] theorem endRegion_jobs (job : W32) (rank : W16) (s : State) : (endRegion job rank s).jobs = s.jobs := rfl

theorem find?_filter_not {α : Type} (l : List α) (p : α → Bool) : (l.filter fun x => !p x).find? p = none := by
  rw [List.find?_eq_none]
  intro x hx
  simpa using (List.mem_filter.1 hx).2

/-- UNBIND frees the sender's region and flash copy. -/
theorem exec_mirrorUnbindOp {p : ChordHdr} {rank : W16} {s t : State} (hin : mirrorIn p true false never s = some (rank, t)) :
    ∃ v, exec (.mirrorUnbindOp p) s = .next (mirrorOut p true false s v) ∧ regionOf p.job rank v = none ∧
      flashCopyOf p.job rank v = none := by
  refine ⟨_, congrArg Host.Outcome.next (onMirror_of_mirrorIn hin _), ?_, ?_⟩
  · rw [regionOf, freeFlashCopy_regions, endRegion_regions, find?_filter_not]
  · rw [flashCopyOf, freeFlashCopy_copies, find?_filter_not]

/-- A field whose elements are dropped one by one, each with those of the same rank, keeps none of those that were to go. -/
theorem foldl_drop_mine {α : Type} {get : State → List α} {mine : α → Bool} {same : α → α → Bool} {g : State → α → State}
    (hg : ∀ t a, get (g t a) = (get t).filter fun x => !(mine x && same x a)) (hs : ∀ x, same x x = true) (s : State) :
    get (((get s).filter mine).foldl g s) = (get s).filter fun x => !mine x := by
  have hdrop (l : List α) : ∀ t, get (l.foldl g t) = (get t).filter fun x => !(mine x && l.any (same x)) := by
    induction l with
    | nil => simp
    | cons a l ih =>
      intro t
      rw [List.foldl_cons, ih, hg, List.filter_filter]
      refine List.filter_congr fun x _ => ?_
      rw [List.any_cons]
      cases mine x <;> cases same x a <;> cases l.any (same x) <;> rfl
  rw [hdrop]
  refine List.filter_congr fun x hx => ?_
  cases hm : mine x
  · rfl
  · rw [List.any_eq_true.2 ⟨x, List.mem_filter.2 ⟨hx, hm⟩, hs x⟩]
    rfl

/-- The binding of each job. -/
def bindingsOf (s : State) : List (W32 × Option Binding) := s.jobs.map fun j => (j.id, j.binding)

theorem jobOf_binding_congr {s t : State} (job : W32) (h : bindingsOf t = bindingsOf s) :
    (jobOf job t).bind (·.binding) = (jobOf job s).bind (·.binding) := by
  have key (u : State) : (jobOf job u).bind (·.binding) = ((bindingsOf u).find? fun p => p.1 == job).bind (·.2) := by
    simp only [jobOf, bindingsOf, List.find?_map, Option.bind_map]
    rfl
  rw [key, key, h]

theorem bindingsOf_congr {s t : State} (h : t.jobs = s.jobs) : bindingsOf t = bindingsOf s := by rw [bindingsOf, h, bindingsOf]

theorem bindingsOf_modJob {g : Job → Job} (hg : ∀ x, ((g x).id, (g x).binding) = (x.id, x.binding)) (job : W32) (s : State) :
    bindingsOf (modJob job g s) = bindingsOf s := by
  simp only [bindingsOf, modJob, updIf, List.map_map]
  refine List.map_congr_left fun x _ => ?_
  simp only [Function.comp_apply]
  split
  · exact hg x
  · rfl

theorem bindingsOf_clearPend (job : W32) (s : State) : bindingsOf (clearPend job s) = bindingsOf s :=
  bindingsOf_modJob (g := fun x => { x with pend := none }) (fun _ => rfl) job s

@[simp] theorem bindingsOf_modStream (job : W32) (peer : W16) (onMgmt : Bool) (g : Stream → Stream) (s : State) :
    bindingsOf (modStream job peer onMgmt g s) = bindingsOf s :=
  bindingsOf_modJob (fun x => by dsimp only; split <;> rfl) job s

@[simp] theorem emitChord_jobs (v : Via) (dst : Ip6) (kind : BitVec 4) (h : ChordHdr) (payload : List Byte) (s : State) :
    (emitChord v dst kind h payload s).jobs = s.jobs := by
  unfold emitChord
  split
  · rfl
  · split <;> rfl

@[simp] theorem bindingsOf_sendOn (j : Job) (peer : W16) (onMgmt : Bool) (avoid : Option (Fin 8)) (kind : BitVec 4) (h : ChordHdr)
    (payload : List Byte) (s : State) : bindingsOf (sendOn j peer onMgmt avoid kind h payload s) = bindingsOf s := by
  unfold sendOn
  split
  · rfl
  · split
    · rw [bindingsOf_modStream, sendVia]
      split
      · exact bindingsOf_congr (emitChord_jobs ..)
      · rfl
    · rfl

@[simp] theorem bindingsOf_pumpStream (fuel : Nat) (job : W32) (peer : W16) (onMgmt : Bool) (s : State) :
    bindingsOf (pumpStream fuel job peer onMgmt s) = bindingsOf s := by
  induction fuel generalizing s with
  | zero => rfl
  | succ fuel ih =>
    unfold pumpStream
    split
    · rfl
    · dsimp only
      split
      · rfl
      · split
        · rfl
        · rw [ih, bindingsOf_modStream, bindingsOf_sendOn]

@[simp] theorem bindingsOf_sendMirror (job : W32) (peer : W16) (onMgmt : Bool) (op buffer offset : Nat) (payload : List Byte)
    (s : State) : bindingsOf (sendMirror job peer onMgmt op buffer offset payload s) = bindingsOf s := by
  unfold sendMirror sendSeq
  split
  · rfl
  · exact (bindingsOf_pumpStream ..).trans (bindingsOf_modStream ..)

@[simp] theorem pumpHost_jobs (fuel : Nat) (a b : Ip6) (job : W32) (s : State) : (pumpHost fuel a b job s).jobs = s.jobs := by
  induction fuel generalizing s with
  | zero => rfl
  | succ fuel ih =>
    unfold pumpHost
    split
    · rfl
    · split
      · rfl
      · split
        · rfl
        · exact (ih _).trans (emitChord_jobs ..)

/-- A request to a partner leaves the bindings as they are. -/
@[simp] theorem bindingsOf_sendRequest (job : W32) (peer : W16) (onMgmt : Bool) (op : Nat) (payload : List Byte) (s : State) :
    bindingsOf (sendRequest job peer onMgmt op payload s) = bindingsOf s := by
  unfold sendRequest
  split
  · rfl
  · split
    · exact bindingsOf_sendMirror ..
    · exact bindingsOf_congr (pumpHost_jobs ..)

/-! ### `MIRROR_UNBIND` (R420) -/

/-- This member's binding of a job has ended, and nothing of the job waits. -/
def unbound (job : W32) (s : State) : State :=
  match (jobOf job s).bind (·.binding) with
  | some b => b.partners.foldl (fun t p => sendRequest job p.rank false mopUnbind [] t)
      (modJob job (fun x => { x with binding := none, snapNext := [], pend := none }) s)
  | none => clearPend job s

theorem jobOf_unbound (job : W32) (s : State) : (jobOf job (unbound job s)).bind (·.binding) = none := by
  unfold unbound
  split
  · rw [jobOf_binding_congr job (get_foldl_of_step (get := bindingsOf) (fun _ _ => bindingsOf_sendRequest ..) _ _), jobOf_modJob]
    · cases jobOf job s <;> rfl
    · exact fun _ => rfl
  · next hnone =>
    rw [jobOf_binding_congr job (bindingsOf_clearPend job s), hnone]

/-- Every region and flash copy that the module hosts for a job is freed. -/
def unhosted (job : W32) (s : State) : State :=
  let t := (s.regions.filter fun r => r.job == job).foldl (fun t r => endRegion job r.rank t) s
  (t.flash.copies.filter fun c => c.job == job).foldl (fun t c => freeFlashCopy job c.rank t) t

theorem finishUnbind_eq (job : W32) (h : Hdr) (s : State) :
    finishUnbind job h s = complete h stOk [] (unhosted job (unbound job s)) := rfl

theorem unhosted_regions (job : W32) (s : State) : (unhosted job s).regions = s.regions.filter fun r => !(r.job == job) :=
  (get_foldl_of_step (fun _ _ => freeFlashCopy_regions ..) _ _).trans
    (foldl_drop_mine (get := State.regions) (same := fun x r => x.rank == r.rank) (fun _ _ => rfl) (fun _ => beq_self_eq_true _) s)

theorem unhosted_copies (job : W32) (s : State) : (unhosted job s).flash.copies = s.flash.copies.filter fun c => !(c.job == job) :=
  (foldl_drop_mine (get := fun s => s.flash.copies) (same := fun x c => x.rank == c.rank) (fun _ _ => freeFlashCopy_copies ..)
    (fun _ => beq_self_eq_true _) _).trans
    (congrArg _ (get_foldl_of_step (get := fun s => s.flash.copies) (fun _ _ => endRegion_copies ..) _ s))

theorem unhosted_jobs (job : W32) (s : State) : (unhosted job s).jobs = s.jobs :=
  (get_foldl_of_step (fun _ _ => freeFlashCopy_jobs ..) _ _).trans (get_foldl_of_step (fun _ _ => endRegion_jobs ..) _ s)

/-- What `MIRROR_UNBIND` leaves once it takes effect. -/
theorem finishUnbind_unbinds (job : W32) (h : Hdr) (s : State) : let v := finishUnbind job h s
    (jobOf job v).bind (·.binding) = none ∧ v.regions.all (fun r => r.job != job) = true ∧
      v.flash.copies.all (fun c => c.job != job) = true := by
  refine ⟨?_, ?_, ?_⟩
  · rw [finishUnbind_eq, jobOf_congr job ((answer_jobs ..).trans (unhosted_jobs ..)), jobOf_unbound]
  · rw [finishUnbind_eq, answer_regions, unhosted_regions]
    exact List.all_eq_true.2 fun r hr => (List.mem_filter.1 hr).2
  · rw [finishUnbind_eq, answer_flash, unhosted_copies]
    exact List.all_eq_true.2 fun c hc => (List.mem_filter.1 hc).2

section
variable {h : Hdr} {job : W32} {s : State} (hb : ∀ j, jobOf job s = some j → jobBusy j = false)
include hb

/-- Without a snapshot that runs or waits, `MIRROR_UNBIND` takes effect at once. -/
theorem mirrorUnbindBody_finishes (hs : ∀ j, jobOf job s = some j → j.snap = none ∧ j.snapNext = []) :
    mirrorUnbindBody h job s = finishUnbind job h s := by
  unfold mirrorUnbindBody
  split
  · rfl
  · next j hj =>
    obtain ⟨hsnap, hnext⟩ := hs j hj
    simp [hb j hj, hsnap, hnext]

/-- A snapshot that runs or waits holds `MIRROR_UNBIND` up. -/
theorem mirrorUnbindBody_waits {j : Job} (hj : jobOf job s = some j) (hs : j.snap.isSome = true ∨ j.snapNext ≠ []) :
    mirrorUnbindBody h job s = modJob job (fun x => { x with pend := some (.unbindWait h) }) s := by
  have hrun : j.snap.isSome = true ∨ (!j.snapNext.isEmpty) = true := by simpa using hs
  simp only [mirrorUnbindBody, hj, hb j hj, Bool.false_eq_true, if_false, if_pos hrun]

end

/-- Settles O29: each clause is the rule of its command or packet above. -/
theorem mirrorsBindAndUnbind : Obligations.MirrorsBindAndUnbind := by
  unfold Obligations.MirrorsBindAndUnbind
  intro h job p s t rank
  refine ⟨?_, fun hin => ⟨?_, ?_⟩, exec_mirrorUnbindOp, fun ha hb => ⟨?_, ?_⟩, ?_⟩
  · intro degree everyN p0 p1 j lay v st ha hj hl ho hb hs
    have hj' : jobOf job (startCmd h s) = some j := (jobOf_startCmd ..).trans hj
    constructor
    · rintro rfl
      exact (exec_accepted rfl ha).trans (congrArg Host.Outcome.next (mirrorBindBody_asks hj' hl ho hb hs))
    · rintro c rfl
      exact (exec_accepted rfl ha).trans (congrArg Host.Outcome.next (mirrorBindBody_ends hj' hl ho hb hs))
  · intro bytes entries everyN j lay hj hl
    refine ⟨fun o ho hle => exec_mirrorBindReq_reuses hin hj hl ho hle everyN, fun ho => ⟨fun v hv => ?_, fun hv => ?_⟩⟩
    all_goals
      refine (exec_mirrorBindReq_takes hin hj hl ho everyN).trans ?_
      unfold askedRegion
      rw [hv]
      rfl
  · intro st n j everyN ps gib hj hp
    obtain ⟨u, hexec, hu⟩ := exec_mirrorBindAck (st := st) (n := n) hin hj hp
    refine ⟨_, hexec, fun hq => ?_, fun hq => ?_, fun hsome hq => ?_⟩
    · rw [bindAnswered_waits hu rfl hq, hu]
      rfl
    · rw [jobOf_bindAnswered_binds hu rfl hq]
      refine ⟨rfl, ?_⟩
      rw [length_noteAnswer, map_noteAnswer fun a r => (⟨a, r, none⟩ : Partner)]
      rfl
    · rw [bindAnswered_noSpace hu rfl hsome hq]
      refine ⟨⟨_, rfl⟩, ?_⟩
      rw [jobOf_congr p.job (answer_jobs ..), jobOf_clearPend, hu]
      rfl
  · intro hs
    have hbody : mirrorUnbindBody h job (startCmd h s) = finishUnbind job h (startCmd h s) :=
      mirrorUnbindBody_finishes (by simpa using hb) (by simpa using hs)
    exact ⟨_, _, (exec_accepted rfl ha).trans (congrArg Host.Outcome.next hbody), finishUnbind_eq .., finishUnbind_unbinds ..⟩
  · intro j hj hs
    exact (exec_accepted rfl ha).trans (congrArg Host.Outcome.next
      (mirrorUnbindBody_waits (by simpa using hb) ((jobOf_startCmd ..).trans hj) hs))
  · intro peer j hj
    simp only [exec, execSilenceOutsideArmedStep, hj]

end Sys2Proof.Machine
end

section
/-! The words of the facet instructions (R140 to R144, R244): what encoding and decoding do with each row of Table 05-8. -/

namespace Sys2Proof.Machine

open Claims

/-- The fields of a joined word are the fields it was joined from. -/
theorem wordIns_join (op : Byte) (i : Ins) : wordIns (joinIns op i) = i := by
  obtain ⟨fl, d, a, b, c, x, imm⟩ := i
  simp only [wordIns, joinIns, Ins.mk.injEq]
  refine ⟨?_, ?_, ?_, ?_, ?_, ?_, ?_⟩ <;> ext k hk <;> simp only [BitVec.getElem_extractLsb', BitVec.getLsbD_append] <;> grind

/-- How the words name a row of `facetRows`: its fields name it where they are well formed, its word joins its opcode and its
fields, and the opcode with such fields is the row. -/
structure Spelled (r : FacetRow) : Prop where
  wf : ∀ f i e, (r.ctor f i e).wf = r.mine i
  encode : ∀ f i e, encodeFacet (r.ctor f i e) = some (joinIns r.op i)
  opRow : ∀ f i e, r.mine i = true → opRow f i e r.op.toNat = some (r.ctor f i e)

/-- A row that its opcode alone names, and a row that a function or direction field names too, are spelled alike. -/
theorem spelled_facetRows : ∀ r ∈ facetRows, Spelled r := by
  simp only [facetRows, List.forall_mem_append, List.forall_mem_cons, List.not_mem_nil, false_implies, implies_true, and_true,
    and_assoc]
  repeat' refine And.intro ?_ ?_
  all_goals exact ⟨fun _ _ _ => rfl, fun _ _ _ => rfl, fun f i e h => by simp_all [opRow, saluRow, veRow]⟩

/-- Settles O52: the word of a row gives back its opcode and its fields, and these name the row. -/
theorem facetWordsRoundTrip : Obligations.FacetWordsRoundTrip := by
  unfold Obligations.FacetWordsRoundTrip
  intro r hr f i e hwf
  have hrow := spelled_facetRows r hr
  have hmine : r.mine i = true := (hrow.wf f i e).symm.trans hwf
  have hdecode : decodeFacet f e (joinIns r.op i) = some (r.ctor f i e) := by
    rw [decodeFacet, wordIns_join, Laws.wordOp_join, hrow.opRow f i e hmine]
  exact ⟨joinIns r.op i, hrow.encode f i e, hdecode, Laws.wordOp_join .., wordIns_join ..⟩

end Sys2Proof.Machine
end

section
/-! The rows of Table 05-8 as issues: what each row of the table does beside its own effect (R137, R138), and the words that fault
(R141, R142, R173). -/

namespace Sys2Proof.Machine

open Claims

/-! ### Every row is an issue (R137) -/

/-- What may follow an issue in a row of the table: free values taken (`SLD`, `CSRR`), and the end of an Arc (`HALT`). -/
structure AfterIssue (op : Byte) (u t : State) : Prop where
  rest : t = { u with sectors := t.sectors, freeIx := t.freeIx }
  sectors : op ≠ 0x01 → t.sectors = u.sectors

theorem AfterIssue.refl (op : Byte) (u : State) : AfterIssue op u u := ⟨rfl, fun _ => rfl⟩

/-- The row issues its word as `issue` says, under the checks of Table 05-8, and only `AfterIssue` follows. -/
def IssueRow (r : FacetRow) : Prop := ∀ f i e s, ∃ body t, exec (r.ctor f i e) s = .next t ∧
    AfterIssue r.op (issue f r.op i e (r.use i) (r.mine i) body s) t

/-- A row that is an issue and no more, whose function field `row` tests. -/
theorem IssueRow.of_exec {r : FacetRow} {row : Ins → Bool} {body : Fin 96 → Ins → Ecc → State → Facet → Issue}
    (h : ∀ f i e s, exec (r.ctor f i e) s = .next (issue f r.op i e (r.use i) (row i) (body f i e) s))
    (hrow : ∀ i, row i = r.mine i) : IssueRow r := fun f i e s =>
  ⟨body f i e, _, h f i e s, by rw [hrow]; exact .refl ..⟩

/-- The low bits of a field are a code where the field is that code modulo the number of codes. -/
theorem extractLsb'_beq {w n : Nat} (x : BitVec w) (c : BitVec n) :
    (x.extractLsb' 0 n == c) = (x.toNat % 2 ^ n == c.toNat) := by
  rw [Bool.eq_iff_iff, beq_iff_eq, beq_iff_eq, ← BitVec.toNat_inj, BitVec.extractLsb'_toNat, Nat.shiftRight_zero]

/-- The end of an Arc changes its sector. -/
theorem sectorHalted_after (f : Fin 96) (s : State) : AfterIssue 0x01 s (sectorHalted f s) := by
  refine ⟨?_, fun h => absurd rfl h⟩
  unfold sectorHalted
  split
  · rfl
  · split <;> rfl

theorem freeIx_after {op : Byte} {u : State} {n : Nat} : AfterIssue op u { u with freeIx := n } := ⟨rfl, fun _ => rfl⟩

theorem freeIx_after_ite {op : Byte} {u : State} {c : Prop} [Decidable c] {n : Nat} :
    AfterIssue op u (if c then { u with freeIx := n } else u) := by
  split
  · exact freeIx_after
  · exact .refl ..

/-- Every row of the table is its issue; `HALT` may then end the Arc, and `SLD` and `CSRR` take free values. -/
theorem issueRow_facetRows : ∀ r ∈ facetRows, IssueRow r := by
  simp only [facetRows, List.forall_mem_append, List.forall_mem_cons, List.not_mem_nil, false_implies, implies_true, and_true,
    and_assoc]
  refine ⟨?_, ?halt, ?_, ?_, ?_, ?_, ?_, ?_, ?_, ?_, ?_, ?_, ?_, ?_, ?_, ?_, ?_, ?_, ?sld, ?_, ?_, ?_, ?_, ?csrr, ?_⟩
  case halt => exact fun f i e s => ⟨_, _, rfl, sectorHalted_after ..⟩
  case sld => exact fun f i e s => ⟨_, _, rfl, freeIx_after⟩
  case csrr => exact fun f i e s => ⟨_, _, rfl, freeIx_after_ite⟩
  repeat' refine And.intro ?_ ?_
  all_goals exact .of_exec (fun _ _ _ _ => rfl) fun i => by simp [extractLsb'_beq]

/-! ### What an issue leaves alone (R126, R138) -/

/-- `t` is `s` but for the facet `f` and for the health records of its errors. -/
def FacetOnly (f : Fin 96) (s t : State) : Prop :=
  (∃ v h w, t = { s with facets := v, health := h, jrn := { s.jrn with hst := w } }) ∧
    ∀ g : Fin 96, g ≠ f → t.facets[g] = s.facets[g]

theorem FacetOnly.refl (f : Fin 96) (s : State) : FacetOnly f s s := ⟨⟨_, _, _, rfl⟩, fun _ _ => rfl⟩

theorem FacetOnly.trans {f : Fin 96} {s t u : State} (h : FacetOnly f s t) (k : FacetOnly f t u) : FacetOnly f s u := by
  obtain ⟨⟨_, _, _, rfl⟩, hothers⟩ := h
  obtain ⟨⟨_, _, _, rfl⟩, kothers⟩ := k
  exact ⟨⟨_, _, _, rfl⟩, fun g hg => (kothers g hg).trans (hothers g hg)⟩

theorem modFacet_facetOnly (f : Fin 96) (g : Facet → Facet) (s : State) : FacetOnly f s (modFacet f g s) :=
  ⟨⟨_, _, _, rfl⟩, fun k hk => modFacet_ne f k g s hk⟩

theorem evidence_facetOnly (f : Fin 96) (c n : Nat) (s : State) : FacetOnly f s (evidence c n s) :=
  ⟨⟨_, _, _, rfl⟩, fun _ _ => rfl⟩

theorem eccCorrected_facetOnly (f : Fin 96) (spm arr : Nat) (s : State) : FacetOnly f s (eccCorrected f spm arr s) := by
  unfold eccCorrected
  split
  · exact .refl ..
  · exact (modFacet_facetOnly ..).trans (evidence_facetOnly ..)

theorem facetError_facetOnly (f : Fin 96) (code : Byte) (precise : Bool) (pc detail : Nat) (s : State) :
    FacetOnly f s (facetError f code precise pc detail s) := by
  unfold facetError
  split
  · exact .refl ..
  · dsimp only
    split
    · exact ⟨⟨_, _, _, rfl⟩, fun k hk => modFacet_ne f k _ s hk⟩
    · exact modFacet_facetOnly ..

/-- Whatever an issue does, it does to its facet. -/
theorem issue_facetOnly (f : Fin 96) (op : Byte) (i : Ins) (e : Ecc) (u : Use) (row : Bool) (body : State → Facet → Issue)
    (s : State) : FacetOnly f s (issue f op i e u row body s) := by
  have herror : ∀ code pc detail, FacetOnly f s (facetError f code true pc detail (eccCorrected f (bit e.imemCorr) 0 s)) :=
    fun _ _ _ => (eccCorrected_facetOnly ..).trans (facetError_facetOnly ..)
  unfold issue
  dsimp only
  split
  · exact .refl ..
  · split
    · exact facetError_facetOnly ..
    · split
      · exact facetError_facetOnly ..
      · split
        · exact herror ..
        · split
          · exact .refl ..
          · split
            · exact herror ..
            · split
              · exact .refl ..
              · exact herror ..
              · exact (modFacet_facetOnly ..).trans (eccCorrected_facetOnly ..)

/-- Settles O54: an issue changes its facet and the health records, and what follows it in a row changes at most the sectors. -/
theorem facetInstructionsTouchTheirFacet : Obligations.FacetInstructionsTouchTheirFacet := by
  unfold Obligations.FacetInstructionsTouchTheirFacet
  intro r hr f i e s t ht
  obtain ⟨body, t', hexec, hafter⟩ := issueRow_facetRows r hr f i e s
  obtain rfl : t' = t := Host.Outcome.next.inj (hexec.symm.trans ht)
  have honly := issue_facetOnly f r.op i e (r.use i) (r.mine i) body s
  generalize issue f r.op i e (r.use i) (r.mine i) body s = u at hafter honly
  obtain ⟨⟨v, h, w, rfl⟩, hothers⟩ := honly
  obtain ⟨hrest, hsectors⟩ := hafter
  rw [hrest]
  exact ⟨hothers, rfl, rfl, rfl, hsectors, rfl, rfl, rfl, rfl, rfl, rfl, rfl, rfl, rfl, rfl, rfl, rfl, rfl, rfl, rfl, rfl⟩

/-! ### Words that fault (R141, R142, R173) -/

section
variable {f : Fin 96} {op : Byte} {i : Ins} {e : Ecc} {u : Use} {row : Bool} {body : State → Facet → Issue} {s : State}
variable (hst : s.facets[f].st = .running) (hpc : s.facets[f].pc.toNat < 4096) (hecc : e.imemBad = false)
include hst hpc hecc

/-- An undefined word at the PC faults, whatever instruction was to issue. -/
theorem issue_of_wordUndefined (hw : wordUndefined (fetchWord s.facets[f]) = true) :
    issue f op i e u row body s =
      facetError f feOpcode true s.facets[f].pc.toNat 0 (eccCorrected f (bit e.imemCorr) 0 s) := by
  have hend : ¬ 4096 ≤ s.facets[f].pc.toNat := Nat.not_le.2 hpc
  simp only [issue, hst, hend, hecc, hw, ne_eq, not_true_eq_false, if_false, Bool.false_eq_true, if_true]

/-- A word whose fields break the encoding rules of its row faults with the code of the broken rule. -/
theorem issue_of_useError (hw : wordUndefined (joinIns op i) = false) (hf : fetchWord s.facets[f] = joinIns op i)
    (hrow : row = true) {c : Byte} (hu : useError u i = some c) :
    issue f op i e u row body s = facetError f c true s.facets[f].pc.toNat 0 (eccCorrected f (bit e.imemCorr) 0 s) := by
  have hend : ¬ 4096 ≤ s.facets[f].pc.toNat := Nat.not_le.2 hpc
  simp only [issue, hst, hend, hecc, hw, hf, hrow, hu, ne_eq, not_true_eq_false, if_false, Bool.false_eq_true, Bool.not_true,
    or_self]

end

/-- A facet error of a running facet, seen at the facet (R173). -/
theorem facetError_self {f : Fin 96} {s : State} (h : s.facets[f].st = .running) (code : Byte) (precise : Bool)
    (pc detail : Nat) :
    (facetError f code precise pc detail s).facets[f] =
      { discardQueues s.facets[f] with st := .faulted, err := errWord code precise pc detail } := by
  have hrun : ¬ s.facets[f].st ≠ .running := not_not_intro h
  simp only [facetError, if_neg hrun]
  split <;> exact modFacet_self ..

/-- The counts of corrected errors are all of a facet that they change (R128). -/
theorem eccCorrected_self (f : Fin 96) (spm arr : Nat) (s : State) :
    ∃ a b, (eccCorrected f spm arr s).facets[f] = { s.facets[f] with eccSpm := a, eccArr := b } := by
  unfold eccCorrected
  split
  · exact ⟨_, _, rfl⟩
  · exact ⟨_, _, modFacet_self ..⟩

/-- A reserved bit that is set is FE_OPCODE (R142). -/
theorem useError_of_reserved {u : Use} {i : Ins} (h : i.fl &&& ~~~ u.fl ≠ 0 ∨ i.x &&& ~~~ u.x ≠ 0 ∨ i.imm &&& ~~~ u.imm ≠ 0) :
    useError u i = some feOpcode := if_pos h

/-- A file that the row does not allow is FE_OPCODE (R141). -/
theorem useError_of_file {u : Use} {i : Ins}
    (h : fileOk u.d i.d = false ∨ fileOk u.a i.a = false ∨ fileOk u.b i.b = false ∨ fileOk u.c i.c = false) :
    useError u i = some feOpcode := by
  have hfile : (fileOk u.d i.d && fileOk u.a i.a && fileOk u.b i.b && fileOk u.c i.c) = false := by
    rcases h with h | h | h | h <;> simp only [h, Bool.false_and, Bool.and_false]
  simp only [useError, hfile, Bool.not_false, if_true, ite_self]

/-- Where the bits and files are right, an index beyond its file is FE_OPERAND (R141). -/
theorem useError_of_index {u : Use} {i : Ins} (hop : useError u i ≠ some feOpcode)
    (h : (idxOk i.d && idxOk i.a && idxOk i.b && idxOk i.c) = false) : useError u i = some feOperand := by
  unfold useError at hop ⊢
  simp only [h, Bool.not_false, if_true] at hop ⊢
  split_ifs at hop ⊢
  · exact absurd rfl hop
  · exact absurd rfl hop
  · rfl

/-- Settles O53: each rule broken gives the row's issue its error, and a facet error stops the facet where it stands. -/
theorem illegalWordsFault : Obligations.IllegalWordsFault := by
  unfold Obligations.IllegalWordsFault
  intro r hr f i e s x u fault hst hpc hecc
  obtain ⟨body, t, hexec, hafter⟩ := issueRow_facetRows r hr f i e s
  have hfault : ∀ code, issue f r.op i e (r.use i) (r.mine i) body s =
      facetError f code true x.pc.toNat 0 (eccCorrected f (bit e.imemCorr) 0 s) → fault code := by
    intro code hissue
    obtain ⟨a, b, hself⟩ := eccCorrected_self f (bit e.imemCorr) 0 s
    have hrun : (eccCorrected f (bit e.imemCorr) 0 s).facets[f].st = .running := by rw [hself]; exact hst
    have hfacet : t.facets = (facetError f code true x.pc.toNat 0 (eccCorrected f (bit e.imemCorr) 0 s)).facets := by
      rw [hafter.rest, hissue]
    refine ⟨t, hexec, ?_⟩
    rw [hfacet, facetError_self hrun, hself]
    exact ⟨rfl, rfl, rfl⟩
  refine ⟨fun hw => hfault _ (issue_of_wordUndefined hst hpc hecc hw), fun hf hw hmine => ?_⟩
  have huse : ∀ code, useError u i = some code → fault code := fun code hu =>
    hfault code (issue_of_useError hst hpc hecc hw hf hmine hu)
  exact ⟨fun h => huse _ (useError_of_reserved h), fun h => huse _ (useError_of_file h),
    fun hop h => huse _ (useError_of_index hop h)⟩

end Sys2Proof.Machine
end

section
/-! The instructions that the sequencer executes itself (R143 to R149, R136, R164, R166, R168): each one's effect, once it can
issue. -/

namespace Sys2Proof.Machine

open Claims

/-- A row that is an issue and no more: where it can issue and its own rule answers `done`, it leaves the facet so. -/
theorem exec_issued {c : Instr} {f : Fin 96} {op : Byte} {u : Use} {i : Ins} {e : Ecc} {row : Bool}
    {body : State → Facet → Issue} {s : State} {y : Facet} (hc : exec c s = .next (issue f op i e u row body s))
    (h : issues f op u i e s = true) (hop : op ≠ 0x04) (hrow : row = true) (hb : body s s.facets[f] = .done y) :
    exec c s = .next (issued f e 0 y s) := by
  rw [hc, issue_done h hrow hb, if_neg hop]

theorem issued_facetOnly (f : Fin 96) (e : Ecc) (n : Nat) (y : Facet) (s : State) : FacetOnly f s (issued f e n y s) :=
  (modFacet_facetOnly ..).trans (eccCorrected_facetOnly ..)

theorem AfterIssue.facets {op : Byte} {u t : State} (h : AfterIssue op u t) : t.facets = u.facets := by rw [h.rest]

/-- What is outside the facets stays through an issue and what follows it. -/
theorem AfterIssue.outside {op : Byte} {f : Fin 96} {s u t : State} (h : AfterIssue op u t) (hu : FacetOnly f s u) :
    t.mem = s.mem ∧ t.mesh = s.mesh ∧ t.out = s.out := by
  obtain ⟨⟨_, _, _, rfl⟩, -⟩ := hu
  rw [h.rest]
  exact ⟨rfl, rfl, rfl⟩

theorem FacetOnly.freeIx {f : Fin 96} {s t : State} (h : FacetOnly f s t) : t.freeIx = s.freeIx := by
  obtain ⟨⟨_, _, _, rfl⟩, -⟩ := h; rfl

/-! ### `SALU` (R144) -/

/-- A row of `SALU` is the common form with a code and a function. -/
def SaluRow (r : SaluRule) : Prop :=
  ∃ code : BitVec 4, (∀ f i e s, exec (r.ctor f i e) s = .next (issueSalu code r.op f i e s)) ∧ code.toNat = r.code

theorem saluMinu_eq : saluMinu = fun a b => BitVec.ofNat 64 (min a.toNat b.toNat) := by
  funext a b
  simp only [saluMinu, BitVec.ult, decide_eq_true_eq]
  split
  · next h => rw [min_eq_left h.le, BitVec.ofNat_toNat, BitVec.setWidth_eq]
  · next h => rw [min_eq_right (not_lt.1 h), BitVec.ofNat_toNat, BitVec.setWidth_eq]

theorem saluMaxu_eq : saluMaxu = fun a b => BitVec.ofNat 64 (max a.toNat b.toNat) := by
  funext a b
  simp only [saluMaxu, BitVec.ult, decide_eq_true_eq]
  split
  · next h => rw [max_eq_right h.le, BitVec.ofNat_toNat, BitVec.setWidth_eq]
  · next h => rw [max_eq_left (not_lt.1 h), BitVec.ofNat_toNat, BitVec.setWidth_eq]

theorem saluSltu_eq : saluSltu = fun a b => if a.toNat < b.toNat then 1 else 0 := by
  funext a b; simp only [saluSltu, BitVec.ult, decide_eq_true_eq]

theorem saluSlt_eq : saluSlt = fun a b => if a.toInt < b.toInt then 1 else 0 := by
  funext a b; simp only [saluSlt, BitVec.slt, decide_eq_true_eq]

/-- Each row has the function that R144 gives it: for four of them the model compares words, the rule numbers. -/
theorem saluRow_saluRules : ∀ r ∈ saluRules, SaluRow r := by
  simp only [saluRules, List.forall_mem_append, List.forall_mem_cons, List.not_mem_nil, false_implies, implies_true, and_true,
    and_assoc, ← saluMinu_eq, ← saluMaxu_eq, ← saluSltu_eq, ← saluSlt_eq]
  repeat' refine And.intro ?_ ?_
  all_goals exact ⟨_, fun _ _ _ _ => rfl, rfl⟩

theorem exec_salu {r : SaluRule} (hr : r ∈ saluRules) {f : Fin 96} {i : Ins} {e : Ecc} {s : State}
    (h : issues f 0x03 (useSalu i) i e s = true) (hx : i.x.toNat = r.code) :
    exec (r.ctor f i e) s = .next (issued f e 0
      (advance (setS s.facets[f] i.d (r.op (sReg s.facets[f] i.a) (saluB s.facets[f] i)))) s) := by
  obtain ⟨code, hexec, hcode⟩ := saluRow_saluRules r hr
  have hrow : (i.x.extractLsb' 0 4 == code) = true := by
    rw [extractLsb'_beq, beq_iff_eq, hx, hcode, ← hcode]
    exact Nat.mod_eq_of_lt code.isLt
  exact exec_issued (hexec f i e s) h (by decide) hrow rfl

/-- Settles O1: `LI` and the fifteen rows of `SALU`, whose functions are those of R144. -/
theorem liAndSaluSetDestination : Obligations.LiAndSaluSetDestination := by
  unfold Obligations.LiAndSaluSetDestination
  exact fun f i e s => ⟨fun h => exec_issued rfl h (by decide) rfl rfl, fun r hr h hx => exec_salu hr h hx⟩

/-! ### `BR` and `LOOP` (R146) -/

/-- A `BR` whose condition holds is taken, and its condition is not the reserved one (R146). -/
theorem brTaken_eq_true {x : Facet} {i : Ins}
    (h : i.x = 0 ∨ (i.x = 1 ∧ sReg x i.a = 0) ∨ (i.x = 2 ∧ sReg x i.a ≠ 0)) : i.x ≠ 3 ∧ brTaken x i = true := by
  rcases h with hx | ⟨hx, ha⟩ | ⟨hx, ha⟩
  · simp [brTaken, hx]
  · simp [brTaken, hx, ha]
  · simpa [brTaken, hx] using ha

/-- A `BR` whose condition fails is not taken, and its condition is not the reserved one (R146). -/
theorem brTaken_eq_false {x : Facet} {i : Ins} (h : (i.x = 1 ∧ sReg x i.a ≠ 0) ∨ (i.x = 2 ∧ sReg x i.a = 0)) :
    i.x ≠ 3 ∧ brTaken x i = false := by
  rcases h with ⟨hx, ha⟩ | ⟨hx, ha⟩
  · simpa [brTaken, hx] using ha
  · simp [brTaken, hx, ha]

/-- The target of a `BR`, the last instruction of a `LOOP`. -/
def insTarget (i : Ins) : BitVec 13 := (i.imm.extractLsb' 0 12).zeroExtend 13

section
variable {f : Fin 96} {i : Ins} {e : Ecc} {s : State}

theorem exec_br_taken (h : issues f 0x06 { a := .s, x := 3, imm := 0xFFF } i e s = true) (hx : i.x ≠ 3)
    (ht : brTaken s.facets[f] i = true)
    (hl : ∀ l ls, s.facets[f].loops = l :: ls → l.start ≤ insTarget i ∧ insTarget i ≤ l.last) :
    exec (.br f i e) s = .next (issued f e 0 { s.facets[f] with pc := insTarget i, seqNo := s.facets[f].seqNo + 1 } s) := by
  refine exec_issued rfl h (by decide) rfl ?_
  simp only [if_neg hx, ht, if_true]
  split
  · next l ls hloops => exact if_pos (hl l ls hloops)
  · rfl

theorem exec_br_untaken (h : issues f 0x06 { a := .s, x := 3, imm := 0xFFF } i e s = true) (hx : i.x ≠ 3)
    (ht : brTaken s.facets[f] i = false) : exec (.br f i e) s = .next (issued f e 0 (advance s.facets[f]) s) :=
  exec_issued rfl h (by decide) rfl (by simp only [if_neg hx, ht, Bool.false_eq_true, if_false])

/-- Past its checks, a `LOOP` leaves the facet that its count and the depth of the stack say. -/
theorem exec_loop {y : Facet} (h : issues f 0x07 { a := .s, imm := 0xFFF } i e s = true) (hpc : s.facets[f].pc < insTarget i)
    (hl : ∀ l ls, s.facets[f].loops = l :: ls → insTarget i ≤ l.last)
    (hy : (if sReg s.facets[f] i.a = 0 then
        Issue.done { s.facets[f] with pc := insTarget i + 1, seqNo := s.facets[f].seqNo + 1 }
      else if 4 ≤ s.facets[f].loops.length then .error feLoop 0
      else .done { s.facets[f] with
        pc := s.facets[f].pc + 1, seqNo := s.facets[f].seqNo + 1,
        loops := ⟨s.facets[f].pc + 1, insTarget i, sReg s.facets[f] i.a⟩ :: s.facets[f].loops }) = .done y) :
    exec (.loop f i e) s = .next (issued f e 0 y s) := by
  refine exec_issued rfl h (by decide) rfl ((if_neg ?_).trans hy)
  rw [← insTarget, decide_eq_false (BitVec.not_le.2 hpc), Bool.false_or]
  split
  · next l ls hloops => simpa using hl l ls hloops
  · exact Bool.false_ne_true

end


/-- Settles O2: each form of the control instructions is its issue, past the checks that the clause names. -/
theorem controlFlowMoves : Obligations.ControlFlowMoves := by
  unfold Obligations.ControlFlowMoves
  intro f i e s x tgt
  refine ⟨fun h => ?nop, fun h hdone => ?wait, fun h hx hl => ?taken, fun h hx => ?untaken, fun h hpc hl ha => ?none,
    fun h hpc hl ha hdepth => ?enter⟩
  case nop => exact exec_issued rfl h (by decide) rfl rfl
  case wait => exact exec_issued rfl h (by decide) rfl (if_pos hdone)
  case taken => exact exec_br_taken h (brTaken_eq_true hx).1 (brTaken_eq_true hx).2 hl
  case untaken => exact exec_br_untaken h (brTaken_eq_false hx).1 (brTaken_eq_false hx).2
  case none => exact exec_loop h hpc hl (if_pos ha)
  case enter => exact exec_loop h hpc hl ((if_neg ha).trans (if_neg (Nat.not_le.2 hdepth)))

/-! ### `HALT` (R148) -/

/-- While its facet runs, no Arc ends. -/
theorem sectorHalted_of_running {f : Fin 96} {s : State} (h : s.facets[f].st = .running) : sectorHalted f s = s := by
  unfold sectorHalted
  split
  · rfl
  · exact if_neg fun ⟨_, hhalted, _⟩ => absurd (h.symm.trans hhalted) (by decide)

/-- Settles O3: `HALT` stalls, or issues and may then end its sector's Arc. -/
theorem haltStopsFacet : Obligations.HaltStopsFacet := by
  unfold Obligations.HaltStopsFacet
  intro f i e s h
  have hexec : exec (.halt f i e) s = .next (sectorHalted f (issue f 0x01 i e { imm := 0xFFFF } true (fun s x =>
    if unitsDone s f x 0x1F 0xFF then .done { x with halt := i.imm.extractLsb' 0 16, st := .halted } else .stall) s)) := rfl
  constructor
  · intro hbusy
    rw [hexec, issue_stall h (if_neg (by rw [hbusy]; exact Bool.false_ne_true)),
      sectorHalted_of_running (issues_fetches h).1]
  · intro hdone
    rw [issue_done h rfl (if_pos hdone)] at hexec
    exact ⟨_, hexec, (sectorHalted_after ..).facets, (sectorHalted_after ..).outside (issued_facetOnly ..)⟩

/-! ### Tile descriptors (R149) -/

/-- With 0 added to its `SCALE_BASE`, only the lowest slice of a descriptor is replaced. -/
theorem tdadd_base (td : BitVec 128) (base : BitVec 24) :
    td.extractLsb' 48 80 ++ (td.extractLsb' 24 24 + 0) ++ base = td.extractLsb' 24 104 ++ base := by
  have hslices : td.extractLsb' 48 80 ++ td.extractLsb' 24 24 = td.extractLsb' 24 104 :=
    BitVec.extractLsb'_append_extractLsb'_eq_extractLsb' rfl
  have hzero : td.extractLsb' 24 24 + 0 = td.extractLsb' 24 24 := BitVec.add_zero _
  rw [hzero, hslices]

/-- Settles O4: the three instructions always answer `done`, with a descriptor put together from slices. -/
theorem descriptorsTakeTheirFields : Obligations.DescriptorsTakeTheirFields := by
  unfold Obligations.DescriptorsTakeTheirFields
  intro f i e s x td
  refine ⟨fun h => ?a, fun h => ?m, fun h hb => ?base, fun h hb => ?both⟩
  case a => exact exec_issued rfl h (by decide) rfl rfl
  case m => exact exec_issued rfl h (by decide) rfl rfl
  case base =>
    have huse : issues f 0x0C (if i.fl.getLsbD 0 then { fl := 1, d := .t, a := .s, b := .s } else { fl := 1, d := .t, a := .s })
        i e s = true := by rwa [if_neg (by rw [hb]; exact Bool.false_ne_true)]
    refine exec_issued rfl huse (by decide) rfl (congrArg (fun v => Issue.done (advance (setT x i.d v))) ?_)
    rw [if_neg (by rw [hb]; exact Bool.false_ne_true)]
    exact tdadd_base ..
  case both =>
    have huse : issues f 0x0C (if i.fl.getLsbD 0 then { fl := 1, d := .t, a := .s, b := .s } else { fl := 1, d := .t, a := .s })
        i e s = true := by rwa [if_pos hb]
    refine exec_issued rfl huse (by decide) rfl (congrArg (fun v => Issue.done (advance (setT x i.d v))) ?_)
    rw [if_pos hb]

/-! ### The scratchpad, the control registers and the units' state (R136, R145, R164, R166, R168) -/

/-- Where no write races, the sequencer finds the scratchpad itself. -/
theorem spmView_of_no_races (s : State) {x : Facet} (r : SpmReader) (n : Nat) (h : x.races = []) : spmView s x r n = x.spm := by
  simp only [spmView, racesFor, h, List.filter_nil, List.foldl_nil]

theorem sldOk_of {a : Nat} (h8 : a % 8 = 0) (hend : a < 0x300000) : sldOk a = true := by
  simp [sldOk, spmEnd, h8, hend]

section
variable {f : Fin 96} {i : Ins} {e : Ecc} {s : State}

theorem exec_sld (h : issues f 0x04 { d := .s, a := .s, imm := 0xFFFFFF } i e s = true)
    (ha : sldOk (sldAddr s.facets[f] i) = true) (hb : e.spmBad = none) :
    exec (.sld f i e) s = .next (viewSpent f .seq s.facets[f].seqNo s (issued f e e.spmCorr (advance (setS s.facets[f] i.d
      (BitVec.ofNat 64 (leNat (mread (spmView s s.facets[f] .seq s.facets[f].seqNo) (sldAddr s.facets[f] i) 8))))) s)) := by
  refine congrArg (fun t => Host.Outcome.next (viewSpent f .seq s.facets[f].seqNo s t)) (issue_done h rfl ?_)
  simp only [ha, hb, Bool.not_true, Bool.false_eq_true, if_false]

/-- `CSRR`'s own rule: the register goes to sD, and a read of `FCSR_CYCLE` leaves there what it gave. -/
def csrrBody (f : Fin 96) (i : Ins) (s : State) (x : Facet) : Issue :=
  let c := (i.imm.extractLsb' 0 12).toNat
  match fcsr s f x (cycleNow s x) c with
  | some v => .done (advance { setS x i.d v with cycle := if c = 5 then v else x.cycle })
  | none => .error feOperand 0

theorem exec_csrr_eq (f : Fin 96) (i : Ins) (e : Ecc) (s : State) :
    exec (.csrr f i e) s = .next (
      let t := issue f 0x09 i e { d := .s, imm := 0xFFF } true (csrrBody f i) s
      if (i.imm.extractLsb' 0 12).toNat = 5 ∧ fetches s.facets[f] 0x09 i e then { t with freeIx := t.freeIx + 1 } else t) := rfl

/-- A read of a control register other than `FCSR_CYCLE` gives its value. -/
theorem exec_csrr {k : Nat} {v : W64} (h : issues f 0x09 { d := .s, imm := 0xFFF } i e s = true)
    (hk : (i.imm.extractLsb' 0 12).toNat = k) (h5 : k ≠ 5) (hv : fcsr s f s.facets[f] (cycleNow s s.facets[f]) k = some v) :
    exec (.csrr f i e) s = .next (issued f e 0 (advance (setS s.facets[f] i.d v)) s) := by
  subst hk
  rw [exec_csrr_eq, if_neg fun hc => h5 hc.1, issue_done h rfl ?_]
  · rfl
  · simp only [csrrBody, hv, if_neg h5]
    rfl

/-- A read of `FCSR_CYCLE` takes a free number of cycles (log 3). -/
theorem exec_csrr_cycle (h : issues f 0x09 { d := .s, imm := 0xFFF } i e s = true) (hk : (i.imm.extractLsb' 0 12).toNat = 5) :
    exec (.csrr f i e) s = .next { issued f e 0 (advance { setS s.facets[f] i.d (cycleNow s s.facets[f]) with
      cycle := cycleNow s s.facets[f] }) s with freeIx := s.freeIx + 1 } := by
  have hfetches : fetches s.facets[f] 0x09 i e = true := by
    simp only [issues, Bool.and_eq_true] at h
    obtain ⟨⟨hf, -⟩, -⟩ := h
    exact hf
  have hissue := issue_done (e := e) (row := true) (body := csrrBody f i) (y := advance
    { setS s.facets[f] i.d (cycleNow s s.facets[f]) with cycle := cycleNow s s.facets[f] }) h rfl
    (by simp only [csrrBody, hk, fcsr, if_true])
  have hfree := (issued_facetOnly f e 0
    (advance { setS s.facets[f] i.d (cycleNow s s.facets[f]) with cycle := cycleNow s s.facets[f] }) s).freeIx
  rw [exec_csrr_eq, if_pos ⟨hk, hfetches⟩, hissue]
  rw [if_neg (by decide), hfree]

end

/-- The unit that the `n` low bits of a field number. -/
theorem finOf_extractLsb' {w n k : Nat} {x : BitVec w} {g : Fin (k + 1)} (h : x.toNat % 2 ^ n = g.val) :
    (finOf (x.extractLsb' 0 n).toNat : Fin (k + 1)) = g := by
  apply Fin.ext
  simp only [finOf, BitVec.extractLsb'_toNat, Nat.shiftRight_zero, h, Nat.mod_eq_of_lt g.isLt]

/-- The unit that a field numbers whose other bits are 0. -/
theorem finOf_extractLsb'_of_eq {w n k : Nat} {x : BitVec w} {g : Fin (k + 1)} (hn : k + 1 = 2 ^ n) (h : x.toNat = g.val) :
    (finOf (x.extractLsb' 0 n).toNat : Fin (k + 1)) = g :=
  finOf_extractLsb' (by rw [h, ← hn, Nat.mod_eq_of_lt g.isLt])

/-- Settles O5: each instruction answers `done`, past the checks that the clause names. -/
theorem sequencerMovesAndUnits : Obligations.SequencerMovesAndUnits := by
  unfold Obligations.SequencerMovesAndUnits
  intro f i e s k g v vs x addr a
  refine ⟨fun r n h => spmView_of_no_races s r n h, fun h h8 hend hb => ?sld, fun h h8 hend => ?sst, fun h v hv => ?csrr,
    fun h hi => ?cycle, fun h hg => ?stat, fun h hk hchan => ?recv, fun h hk => ?poll, fun h hk hd => ?clr,
    fun h hk hd h64 hend => ?emit⟩
  case sld => exact exec_sld h (sldOk_of h8 hend) hb
  case sst =>
    have hok : sldOk (sldAddr x i) = true := sldOk_of h8 hend
    exact exec_issued rfl h (by decide) rfl (if_neg (by rw [hok]; exact Bool.false_ne_true))
  case csrr =>
    rcases hv with ⟨hi, hv⟩ | ⟨hi, hv⟩ | ⟨hi, hv⟩ | ⟨hi, hv⟩ | ⟨hi, hv⟩ | ⟨hi, hv⟩ | ⟨hi, hv⟩ | ⟨hi, hv⟩ | ⟨hi, hv⟩
    · have hval : BitVec.ofNat 64 (f.val + 256 * (f.val % 8) + 4096 * (f.val / 8)) = v := by
        rw [← hv, BitVec.ofNat_toNat, BitVec.setWidth_eq]
      exact exec_csrr (k := 0) h (by rw [hi]; rfl) (by decide) (congrArg some hval)
    · refine exec_csrr (k := 1) h (by rw [hi]; rfl) (by decide) (congrArg some ?_)
      rw [hv]
      cases s.facets[f].sector <;> rfl
    all_goals
      exact exec_csrr h (congrArg (fun v : W64 => (v.extractLsb' 0 12).toNat) hi) (by decide) (congrArg some hv.symm)
  case cycle => exact exec_csrr_cycle h (by rw [hi]; rfl)
  case stat =>
    obtain rfl := finOf_extractLsb'_of_eq (n := 3) rfl hg
    exact exec_issued rfl h (by decide) rfl rfl
  case recv =>
    obtain rfl := finOf_extractLsb'_of_eq (n := 4) rfl hk
    refine exec_issued rfl h (by decide) rfl ?_
    dsimp only [x] at hchan ⊢
    rw [hchan]
  case poll =>
    obtain rfl := finOf_extractLsb'_of_eq (n := 4) rfl hk
    exact exec_issued rfl h (by decide) rfl rfl
  case clr =>
    obtain rfl := finOf_extractLsb'_of_eq (n := 4) rfl hk
    exact exec_issued rfl h (by decide) rfl (if_pos hd)
  case emit =>
    obtain rfl := finOf_extractLsb'_of_eq (n := 4) rfl hk
    have hspan : ¬ (a % 64 ≠ 0 ∨ spmEnd < a + 256) := by rw [not_or, not_not]; exact ⟨h64, Nat.not_lt.2 hend⟩
    refine exec_issued rfl h (by decide) rfl ((if_neg hspan).trans ((if_pos hd).trans ?_))
    cases i.fl.getLsbD 0 <;> rfl

end Sys2Proof.Machine
end

section
/-! The instructions that enter a unit's queue (R137, R150 to R162, R165): what an entry leaves, and each instruction past its
checks. -/

namespace Sys2Proof.Machine

open Claims

/-! ### Entering a queue (R137, Table 05-5) -/

section
variable {x : Facet} (q : QEnt)

theorem enqueue_mmaLoad (h : x.mmaQ.length < 8) :
    enqueue .mmaLoad x q = .done (advance (feedPipes { x with mmaQ := queued x x.mmaQ q })) := if_neg (Nat.not_le.2 h)

theorem enqueue_mmaRun (h : x.mmaQ.length < 8) :
    enqueue .mmaRun x q = .done (advance (feedPipes { x with mmaQ := queued x x.mmaQ q })) := if_neg (Nat.not_le.2 h)

theorem enqueue_acc (h : x.accQ.length < 8) : enqueue .acc x q = .done (advance { x with accQ := queued x x.accQ q }) :=
  if_neg (Nat.not_le.2 h)

theorem enqueue_ve (h : x.veQ.length < 8) : enqueue .ve x q = .done (advance { x with veQ := queued x x.veQ q }) :=
  if_neg (Nat.not_le.2 h)

theorem enqueue_dma (h : x.dmaQ.length < 16) : enqueue .dma x q = .done (advance { x with
    dmaQ := queued x x.dmaQ q, tags := vupd x.tags q.tag fun t => { t with outstanding := t.outstanding + 1 } }) :=
  if_neg (Nat.not_le.2 h)

theorem enqueue_tok (h : x.tokQ.length < 8) : enqueue .tok x q = .done (advance { x with tokQ := queued x x.tokQ q }) :=
  if_neg (Nat.not_le.2 h)

end

/-! ### The matrix unit and the accumulators (R150 to R155) -/

/-- Settles O6: past its checks each instruction is an entry in its unit's queue. -/
theorem matrixInstructionsQueue : Obligations.MatrixInstructionsQueue := by
  unfold Obligations.MatrixInstructionsQueue
  intro f i e s x a d swap
  refine ⟨fun h htd hax hw hq => ?ldw, fun h hrun hq => ?run, fun h hq => ?zero, fun h hq => ?cfg, fun h htd hq => ?drain,
    fun h htd hsc hq => ?load⟩
  case ldw =>
    refine exec_issued rfl h (by decide) rfl ?_
    have haxis : ¬ (isScaled (tdFmt a) && !tdSaxis a) = true := by
      cases hs : isScaled (tdFmt a)
      · exact Bool.false_ne_true
      · rw [hax hs]; exact Bool.false_ne_true
    have hfree : ¬ x.unconsumed.isSome = true := by rw [hw]; exact Bool.false_ne_true
    dsimp only
    rw [htd]
    refine (if_neg haxis).trans ((if_neg hfree).trans ?_)
    rw [if_pos hq]
    exact enqueue_mmaLoad _ hq
  case run =>
    refine exec_issued rfl h (by decide) rfl ?_
    dsimp only
    rw [hrun]
    exact (if_neg (Nat.not_le.2 hq)).trans (enqueue_mmaRun _ hq)
  case zero => exact exec_issued rfl h (by decide) rfl (enqueue_acc _ hq)
  case cfg => exact exec_issued rfl h (by decide) rfl ((if_neg (Nat.not_le.2 hq)).trans (enqueue_acc _ hq))
  case drain =>
    refine exec_issued rfl h (by decide) rfl ?_
    rw [htd]
    exact enqueue_acc _ hq
  case load =>
    refine exec_issued rfl h (by decide) rfl ?_
    have hplain : ¬ isScaled (tdFmt a) = true := by rw [hsc]; exact Bool.false_ne_true
    rw [htd]
    exact (if_neg hplain).trans (enqueue_acc _ hq)

/-! ### The vector engine (R156, R243, R247) -/

/-- Every row of `VE.OP` is the common form with its function and its operands. -/
theorem exec_veRules : ∀ r ∈ veRules, ∀ f i e s, exec (r.ctor f i e) s = .next (issueVe r.fn r.use f i e s) := by
  simp only [veRules, List.forall_mem_append, List.forall_mem_cons, List.not_mem_nil, false_implies, implies_true, and_true,
    and_assoc]
  repeat' refine And.intro ?_ ?_
  all_goals exact fun _ _ _ _ => rfl

/-- The row test of `VE.OP` passes where `X` is the function code. -/
theorem veFn_beq {x : W16} {fn : Byte} (h : x.toNat = fn.toNat) : (x.extractLsb' 0 8 == fn) = true := by
  rw [extractLsb'_beq, h, Nat.mod_eq_of_lt fn.isLt, beq_self_eq_true]

/-- Settles O7: past its checks each instruction is an entry in the VE queue. -/
theorem vectorInstructionsQueue : Obligations.VectorInstructionsQueue := by
  unfold Obligations.VectorInstructionsQueue
  intro f i e s x put hq
  refine ⟨fun r hr h hfn => ?op, fun h hfn hk hb hn => ?rand, fun h htd => ?ld, fun h htd => ?st⟩
  case op => exact exec_issued (exec_veRules r hr f i e s) h (by decide) (veFn_beq hfn) (enqueue_ve _ hq)
  case rand =>
    have hk31 : ¬ i.imm.getLsbD 31 = true := by rw [hk]; exact Bool.false_ne_true
    have hscalar : ¬ (opFile i.b ≠ 0 ∨ (randCount ((sReg x i.b).truncate 32)).isNone = true) := by
      rw [not_or, not_not]
      exact ⟨hb, by rw [← Option.not_isSome, hn]; exact Bool.false_ne_true⟩
    exact exec_issued rfl h (by decide) (veFn_beq (by rw [hfn]; rfl))
      ((if_neg hk31).trans ((if_neg hscalar).trans (enqueue_ve _ hq)))
  case ld =>
    refine exec_issued rfl h (by decide) rfl ?_
    rw [htd]
    exact enqueue_ve _ hq
  case st =>
    refine exec_issued rfl h (by decide) rfl ?_
    rw [htd]
    exact enqueue_ve _ hq

end Sys2Proof.Machine
end

section
/-! The DMA instructions and `TOK.SEND` as they enter their queues (R157 to R162, R165, R391, R406). -/

namespace Sys2Proof.Machine

/-- The scale register of a tile move: none where `SCALES` is 0 (R159). -/
def moveScales (x : Facet) (i : Ins) : Option W64 :=
  if i.fl.getLsbD 0 then some x.s[(finOf (i.x.extractLsb' 8 5).toNat : Fin 32)] else none

/-- What a DMA instruction leaves that has entered its queue under its tag (R157). -/
def dmaQueued (x : Facet) (i : Ins) (op : QOp) : Facet :=
  advance { x with
    dmaQ := queued x x.dmaQ { op := op, seq := 0, pc := 0, tag := dmaTag i },
    tags := vupd x.tags (dmaTag i) fun t => { t with outstanding := t.outstanding + 1 } }

section
variable {x : Facet} {i : Ins} (hq : x.dmaQ.length < 16)
include hq

/-- A tile move past its checks (R159). -/
theorem issueRows_done {write : Bool} {o : Byte} (htd : tdError (tReg x o) = none) (hb : (sReg x i.b).toNat % 32 = 0)
    (hc : (sReg x i.c).toNat % 32 = 0)
    (hsc : ∀ v, moveScales x i = some v →
      v.toNat % 32 = 0 ∧ spanOk (tdScaleBase (tReg x o)) (roundUp (tdScaleLen (tReg x o)) 32) = true)
    (hdpa : dpaError (rowRanges (tReg x o) (sReg x i.b).toNat (sReg x i.c).toNat ((moveScales x i).map (·.toNat))) = none) :
    issueRows write o x i =
      .done (dmaQueued x i (.dmaRows write (tReg x o) (sReg x i.b) (sReg x i.c) (moveScales x i))) := by
  have haligned : ¬ ((sReg x i.b).toNat % 32 ≠ 0 ∨ (sReg x i.c).toNat % 32 ≠ 0) := by
    rw [not_or, not_not, not_not]; exact ⟨hb, hc⟩
  simp only [issueRows, htd, if_neg haligned]
  rw [← moveScales]
  cases hs : moveScales x i with
  | none =>
    rw [hs] at hdpa
    simp only [Bool.false_eq_true, if_false, hdpa]
    exact enqueue_dma _ hq
  | some v =>
    obtain ⟨hv, hspan⟩ := hsc v hs
    rw [hs] at hdpa
    simp only [hv, hspan, hdpa, ne_eq, not_true_eq_false, decide_false, Bool.not_true, Bool.or_self, Bool.false_eq_true, if_false]
    exact enqueue_dma _ hq

/-- A linear move past its checks (R160). -/
theorem issueLin_done {write : Bool} (ha : spanOk (sReg x i.a).toNat (sReg x i.c).toNat = true)
    (hb : (sReg x i.b).toNat % 32 = 0) (hdpa : dpaError [((sReg x i.b).toNat, (sReg x i.c).toNat)] = none) :
    issueLin write x i = .done (dmaQueued x i (.dmaLin write (sReg x i.a) (sReg x i.b) (sReg x i.c))) := by
  have hok : ¬ ((!spanOk (sReg x i.a).toNat (sReg x i.c).toNat) = true ∨ (sReg x i.b).toNat % 32 ≠ 0) := by
    rw [ha, hb]; decide
  simp only [issueLin, if_neg hok, hdpa]
  exact enqueue_dma _ hq

end

/-- Settles O8: past its checks each instruction is an entry in the DMA or the TOK queue. -/
theorem dmaAndTokenInstructionsQueue : Obligations.DmaAndTokenInstructionsQueue := by
  unfold Obligations.DmaAndTokenInstructionsQueue
  intro f i e s g x sa sb sc ta td scales scalesOk put
  refine ⟨fun hq hg => ?dma, fun h hq ha => ?tok⟩
  case tok =>
    have hfacet : ¬ 95 < (sReg x i.a).toNat := Nat.not_lt.2 (Nat.le_of_lt_succ ha)
    exact exec_issued rfl h (by decide) rfl ((if_neg hfacet).trans (enqueue_tok _ hq))
  case dma =>
    obtain rfl : dmaTag i = g := finOf_extractLsb' (n := 3) hg
    refine ⟨fun h htd hb hc hsc hdpa => ?rd, fun h htd hb hc hsc hdpa => ?wr, fun h hdir ha hb hdpa => ?linRead,
      fun h hdir ha hb hdpa => ?linWrite, fun h k n ha hc hk hsec hto => ?xfr, fun h htd hfmt hcols hc => ?chd,
      fun h htd hb hend => ?dsp⟩
    case rd => exact exec_issued rfl h (by decide) rfl (issueRows_done hq htd hb hc hsc hdpa)
    case wr => exact exec_issued rfl h (by decide) rfl (issueRows_done hq htd hb hc hsc hdpa)
    case linRead => exact exec_issued rfl h (by decide) (by rw [hdir]; rfl) (issueLin_done hq ha hb hdpa)
    case linWrite => exact exec_issued rfl h (by decide) hdir (issueLin_done hq ha hb hdpa)
    case xfr =>
      have hspans : ¬ ((!spanOk (sReg x i.a).toNat i.imm.toNat) = true ∨ (!spanOk (sReg x i.c).toNat i.imm.toNat) = true) := by
        rw [ha, hc]; decide
      have hk96 : (sReg x i.b).toNat < 96 := hk ▸ k.isLt
      obtain rfl : (⟨(sReg x i.b).toNat, hk96⟩ : Fin 96) = k := Fin.ext hk
      have hsame : ¬ (x.sector.isNone = true ∨ s.facets[(sReg x i.b).toNat].sector ≠ x.sector) := by
        rw [not_or, not_not, hsec]; exact ⟨Bool.false_ne_true, hto⟩
      exact exec_issued rfl h (by decide) rfl
        ((if_neg hspans).trans ((dif_pos hk96).trans ((if_neg hsame).trans (enqueue_dma _ hq))))
    case chd =>
      refine exec_issued rfl h (by decide) rfl ?_
      rw [htd]
      have hf : ¬ tdFmt ta ≠ 0x7 := not_not_intro hfmt
      have hn : ¬ (tdCols ta ≠ 128 ∨ (sReg x i.c).toNat % 32 ≠ 0) := by rw [not_or, not_not, not_not]; exact ⟨hcols, hc⟩
      exact (if_neg hf).trans ((if_neg hn).trans (enqueue_dma _ hq))
    case dsp =>
      refine exec_issued rfl h (by decide) rfl ?_
      dsimp only
      rw [htd]
      have hn : ¬ ((sReg x i.b).toNat % 32 ≠ 0 ∨ spmEnd < (sReg x i.b).toNat + dspWord s x (sReg x i.c) * tdRows ta) := by
        rw [not_or, not_not]; exact ⟨hb, Nat.not_lt.2 hend⟩
      exact (if_neg hn).trans (enqueue_dma _ hq)

end Sys2Proof.Machine
end

section
/-! The units of a facet (R139, R169, R185, R188, R191): what the oldest instruction of each does once its interlocks hold. -/

namespace Sys2Proof.Machine

/-- Stores that read clean change nothing (R128). -/
theorem withEcc_clean (f : Fin 96) (pc : Nat) (a : Option (Fin 8)) (v : Option (Fin 4)) (g : State → Facet → Facet) (s : State) :
    withEcc f Ecc.clean pc a v g s = modFacet f (g s) s := rfl

/-- Two changes of one facet are one. -/
theorem modFacet_modFacet (f : Fin 96) (g k : Facet → Facet) (s : State) :
    modFacet f g (modFacet f k s) = modFacet f (fun y => g (k y)) s := by
  have hself : (vupd s.facets f k)[f] = k s.facets[f] := vupd_self ..
  simp only [modFacet, vupd] at hself ⊢
  rw [hself, Vector.set_set]

section
variable {f : Fin 96} {s : State} {q : QEnt} {r : List QEnt} {e : Ecc}

/-! ### The matrix pipes (R150, R151, R185) -/

/-- The load pipe starts with the shadow free (R169 item 4). -/
theorem startLoad_of {td : BitVec 128} (hq : s.facets[f].ldPipe = some q) (hop : q.op = .ldw td)
    (hs : s.facets[f].shadow = none) :
    startLoad f e s = viewSpent f .mma q.seq s (withEcc f e q.pc.toNat none none (fun t y =>
      feedPipes { y with shadow := some (loadWeights (spmView t y .mma q.seq) td), ldPipe := none }) s) := by
  simp only [startLoad, hq, hop, hs]

/-- The run pipe starts with its weights there and no earlier ACC instruction on its tile (R151, R169 item 2). -/
theorem startRun_of {a : Fin 8} {td : BitVec 128} {add sr swap p2 : Bool} {runs : W32} {w : WTile}
    (hq : s.facets[f].runPipe = some q)
    (hop : q.op = .run a td add sr swap p2 runs) (hw : (if swap then s.facets[f].shadow else s.facets[f].active) = some w)
    (hacc : s.facets[f].accQ.any (accNames a q.seq) = false) :
    startRun f s = modFacet f (fun y => feedPipes
      { y with active := some w, shadow := if swap then none else y.shadow,
               running := y.running ++ [⟨a, td, add, sr, p2, runs, w, 0, q.pc, q.seq⟩], runPipe := none }) s := by
  simp only [startRun, hq, hop, hw, hacc, Bool.false_eq_true, if_false]

/-! ### The accumulators (R153 to R155, R191) -/

theorem startAcc_zero {a : Fin 8} (hq : s.facets[f].accQ = q :: r) (hop : q.op = .accZero a)
    (hm : q.mark ≤ s.facets[f].acc[a].retired) :
    startAcc f e s = modFacet f (fun y =>
      { y with accQ := r, acc := vupd y.acc a fun t => { t with data := [], unspec := false } }) s := by
  simp only [startAcc, hq, hop, decide_eq_true hm, if_true]

theorem startAcc_cfg {a : Fin 8} {id : BitVec 24} (hq : s.facets[f].accQ = q :: r) (hop : q.op = .accCfg a id)
    (hm : q.mark ≤ s.facets[f].acc[a].retired) :
    startAcc f e s = modFacet f (fun y => { y with accQ := r, acc := vupd y.acc a fun t => { t with tensorId := id } }) s := by
  simp only [startAcc, hq, hop, decide_eq_true hm, if_true]

theorem startAcc_load {a : Fin 8} {td : BitVec 128} (hq : s.facets[f].accQ = q :: r) (hop : q.op = .accLoad a td)
    (hm : q.mark ≤ s.facets[f].acc[a].retired) :
    startAcc f e s = viewSpent f .acc q.seq s (withEcc f e q.pc.toNat none none (fun t y =>
      { y with accQ := r, acc := vupd y.acc a fun z => { z with
          unspec := false,
          data := (List.range (tdRows td)).foldl (fun d i => (List.range (tdCols td)).foldl (fun d j =>
            sset 0 d (128 * i + j) (elemToFp32 (tdFmt td) 127 (tileCode (spmView t y .acc q.seq) td i j))) d) z.data } }) s) := by
  simp only [startAcc, hq, hop, decide_eq_true hm, if_true]

/-- A facet whose ACC unit has drained tile `a`, with `r` left in its queue (R154). -/
def accDrained (s : State) (r : List QEnt) (td : BitVec 128) (a : Fin 8) (clear : Bool) (y : Facet) : Facet :=
  let z := noteRace .acc none (tileSpans td) y.spm (drainTile td true (accRead s y.acc[a]) { y with accQ := r })
  if clear then { z with acc := vupd z.acc a fun t => { t with data := [] } } else z

/-- A drain leaves open contents open. -/
theorem accDrained_unspec (s : State) (r : List QEnt) (td : BitVec 128) (a : Fin 8) (clear : Bool) (y : Facet) :
    ((accDrained s r td a clear y).acc[a]).unspec = (y.acc[a]).unspec := by
  unfold accDrained
  cases clear
  · rfl
  · dsimp only
    rw [if_pos rfl, vupd_self]
    rfl

theorem startAcc_drain {a : Fin 8} {td : BitVec 128} {clear : Bool} (hq : s.facets[f].accQ = q :: r)
    (hop : q.op = .accDrain td a clear) (hm : q.mark ≤ s.facets[f].acc[a].retired)
    (hheld : drainHeld q s.facets[f].veQ = false) :
    startAcc f Ecc.clean s = { modFacet f (accDrained s r td a clear) s with
      freeIx := if s.facets[f].acc[a].unspec then s.freeIx + 2 ^ 14 else s.freeIx } := by
  have hunspec : (((modFacet f (accDrained s r td a clear) s).facets[f]).acc[a]).unspec = (s.facets[f].acc[a]).unspec := by
    rw [modFacet_self, accDrained_unspec]
  have hrun : startAcc f Ecc.clean s =
      if (((modFacet f (accDrained s r td a clear) s).facets[f]).acc[a]).unspec
      then { modFacet f (accDrained s r td a clear) s with freeIx := s.freeIx + 2 ^ 14 }
      else modFacet f (accDrained s r td a clear) s := by
    simp only [startAcc, hq, hop, decide_eq_true hm, hheld, Bool.not_false, Bool.and_self, if_true]
    rfl
  rw [hrun, hunspec]
  split <;> rfl

/-! ### The vector engine (R156, R244) -/

theorem startVe_op {fn : Byte} {d a : Fin 4} {b c : VeSrc} {k : W32} (hq : s.facets[f].veQ = q :: r)
    (hop : q.op = .veOp fn d a b c k) :
    startVe f e s = withEcc f e q.pc.toNat none (some a) (fun _ y => veApply { y with veQ := r } fn d a b c k) s := by
  simp only [startVe, hq, hop]

theorem startVe_ld {v : Fin 4} {td : BitVec 128} (hq : s.facets[f].veQ = q :: r) (hop : q.op = .veLd v td) :
    startVe f e s = viewSpent f .ve q.seq s (withEcc f e q.pc.toNat none none (fun t y =>
      { y with veQ := r, ve := vupd y.ve v fun _ => ⟨tileFp32 (spmView t y .ve q.seq) td, tdRows td, tdCols td⟩ }) s) := by
  simp only [startVe, hq, hop]

theorem startVe_st {v : Fin 4} {td : BitVec 128} (hq : s.facets[f].veQ = q :: r) (hop : q.op = .veSt td v)
    (hheld : drainHeld q s.facets[f].accQ = false) :
    startVe f e s = withEcc f e q.pc.toNat none (some v) (fun _ y => noteRace .ve none (tileSpans td) y.spm
      (drainTile td false (fun i j => sget 0 (y.ve[v]).data (128 * i + j)) { y with veQ := r })) s := by
  simp only [startVe, hq, hop, hheld, Bool.false_eq_true, if_false]

/-! ### DMA and tokens (R139, R165) -/

theorem startDma_of (hq : s.facets[f].dmaQ = q :: r) (hroom : s.facets[f].flight.length < 4) :
    startDma f s = modFacet f (fun y => { y with dmaQ := r, flight := y.flight ++ [q] }) s := by
  simp only [startDma, hq, if_neg (Nat.not_le.2 hroom)]

/-- The facet that a token's destination word numbers. -/
theorem finOf_facet (d : Fin 96) : (finOf (BitVec.ofNat 64 d.val).toNat : Fin 96) = d := by
  have hd : d.val < 2 ^ 64 := d.isLt.trans (by decide)
  apply Fin.ext
  simp only [finOf, BitVec.toNat_ofNat, Nat.mod_eq_of_lt hd, Nat.mod_eq_of_lt d.isLt]

section
variable {d : Fin 96} {p : W64} {ch : Fin 16} (hq : s.facets[f].tokQ = q :: r)
  (hop : q.op = .tokSend (BitVec.ofNat 64 d.val) p ch)
  (hafter : ((s.facets[f].flight ++ s.facets[f].dmaQ).any fun z => q.after.contains z.seq) = false)
  (hfree : tokBlocked s f = false)
include hq hop hafter hfree

/-- A token within its sector enters the mesh (R165). -/
theorem startTok_mesh {k : Fin 4} (hk : s.facets[f].sector = some k) (hd : s.facets[d].sector = some k)
    (htick : tickIngress s k d ch = false) :
    startTok f s = { modFacet f (fun y => { y with tokQ := r }) s with mesh := s.mesh ++ [⟨f, d, ch, p, q.mask, q.seq⟩] } := by
  simp only [startTok, hq, hop, hafter, hfree, finOf_facet, hk, hd, htick, Bool.or_self, Bool.false_eq_true, if_false,
    bne_self_eq_false]
  rfl

/-- A token that leaves its sector, or that is for the channel of the ticks, is dropped and counted (R94, R270). -/
theorem startTok_dropped (hcross : s.facets[f].sector = none ∨ s.facets[d].sector ≠ s.facets[f].sector ∨
      ∃ k, s.facets[f].sector = some k ∧ tickIngress s k d ch = true) :
    startTok f s = counter 1 1 (modFacet f (fun y => { y with tokQ := r, tokDrop := y.tokDrop + 1 }) s) := by
  have hdrop : counter 1 1
      (modFacet f (fun y => { y with tokDrop := y.tokDrop + 1 }) (modFacet f (fun y => { y with tokQ := r }) s)) =
      counter 1 1 (modFacet f (fun y => { y with tokQ := r, tokDrop := y.tokDrop + 1 }) s) := by rw [modFacet_modFacet]
  rw [← hdrop]
  simp only [startTok, hq, hop, hafter, hfree, finOf_facet, Bool.or_self, Bool.false_eq_true, if_false]
  refine if_pos ?_
  cases hk : s.facets[f].sector with
  | none => rfl
  | some k =>
    rw [hk] at hcross
    rcases hcross with h | h | ⟨j, hj, h⟩
    · cases h
    · exact Bool.or_eq_true_iff.2 (.inl (bne_iff_ne.2 h))
    · cases hj
      exact Bool.or_eq_true_iff.2 (.inr h)

end

/-! ### Rows (R191) -/

theorem execRowRetire_of {g : RunSt} {gs : List RunSt} (hr : s.facets[f].running = g :: gs) :
    execRowRetire f e s = .next (viewSpent f .mma g.seq s (withEcc f e g.pc.toNat (some g.a) none (fun t y =>
      let n := retireCount g
      let m := spmView t y .mma g.seq
      feedPipes { (if n = 2 then runRow (runRow y m g g.row) m g (g.row + 1) else runRow y m g g.row) with
        running := if g.row + n < tdRows g.td then { g with row := g.row + n } :: gs else gs }) s)) := by
  simp only [execRowRetire, hr]

end

/-- Settles O9: each unit's start is its own rule, with the interlocks that the clause names. -/
theorem unitsPerformQueued : Obligations.UnitsPerformQueued := by
  unfold Obligations.UnitsPerformQueued
  intro f s q r e x
  refine ⟨fun pc a v g => withEcc_clean .., fun td hq hop hs => ?load, fun a td add sr swap p2 runs w hq hop hw hacc => ?run,
    fun hq => ⟨fun a hop hm => ?zero, fun a id hop hm => ?cfg, fun a td hop hm => ?accLoad,
      fun td a clear hop hm hheld => ?drain⟩,
    fun hq => ⟨fun fn d a b c k hop => ?veOp, fun v td hop => ?veLd, fun td v hop hheld => ?veSt⟩,
    fun hq hroom => ?dma,
    fun d p ch hq hop hafter hfree => ⟨fun k hk hd htick => ?mesh, fun hcross => ?dropped⟩,
    fun g gs hr => ?retire⟩
  case load => exact congrArg Host.Outcome.next (startLoad_of hq hop hs)
  case run => exact congrArg Host.Outcome.next (startRun_of hq hop hw hacc)
  case zero => exact congrArg Host.Outcome.next (startAcc_zero hq hop hm)
  case cfg => exact congrArg Host.Outcome.next (startAcc_cfg hq hop hm)
  case accLoad => exact congrArg Host.Outcome.next (startAcc_load hq hop hm)
  case drain => exact congrArg Host.Outcome.next (startAcc_drain hq hop hm hheld)
  case veOp => exact congrArg Host.Outcome.next (startVe_op hq hop)
  case veLd => exact congrArg Host.Outcome.next (startVe_ld hq hop)
  case veSt => exact congrArg Host.Outcome.next (startVe_st hq hop hheld)
  case dma => exact congrArg Host.Outcome.next (startDma_of hq hroom)
  case mesh => exact congrArg Host.Outcome.next (startTok_mesh hq hop hafter hfree hk hd htick)
  case dropped => exact congrArg Host.Outcome.next (startTok_dropped hq hop hafter hfree hcross)
  case retire => exact execRowRetire_of hr

end Sys2Proof.Machine
end

section
/-! DMA operations as they complete (R157 to R163, R298, R391, R406). -/

namespace Sys2Proof.Machine

section
variable {f : Fin 96} {k : Nat} {s : State} {q : QEnt} {w : Bool} {spans : List (Nat × Nat × Nat)}

theorem exec_dmaOpComplete (hq : s.facets[f].flight[k]? = some q) :
    exec (.dmaOpComplete f k Ecc.clean) s = .next (completeDma f q Ecc.clean s) := by
  simp only [exec, execDmaOpComplete, hq]

/-- Stores that read clean change nothing of a transfer (R128). -/
theorem moveEcc_clean : moveEcc f q w spans Ecc.clean s = transfer f q w spans s := by
  unfold moveEcc
  split <;> rfl

/-- The spans of a move between LPDDR6 and the scratchpad (R159, R160). -/
def MovesSpans (op : QOp) (w : Bool) (spans : List (Nat × Nat × Nat)) : Prop :=
  (∃ td dpa stride sc, op = .dmaRows w td dpa stride sc ∧ spans = rowSpans td dpa.toNat stride.toNat sc) ∨
    ∃ a dpa n, op = .dmaLin w a dpa n ∧ spans = [(dpa.toNat, a.toNat, n.toNat)]

/-- A move that completes is its transfer. -/
theorem exec_move (hq : s.facets[f].flight[k]? = some q) (hop : MovesSpans q.op w spans) :
    exec (.dmaOpComplete f k Ecc.clean) s = .next (transfer f q w spans s) := by
  rw [exec_dmaOpComplete hq, ← moveEcc_clean]
  obtain ⟨_, _, _, _, hop, rfl⟩ | ⟨_, _, _, hop, rfl⟩ := hop <;> simp only [completeDma, hop]

/-! ### Transfers (R158, R170, R298) -/

/-- A granule that the facet may not use stops the whole transfer (R158). -/
theorem transfer_refused {g : Nat}
    (hg : (spans.flatMap fun y => granulesOf y.1 y.2.2).find? (fun g => !grantOk s s.facets[f] w (g * 2 ^ 30) 32) = some g) :
    transfer f q w spans s = facetError f feGranule false q.pc.toNat (dpaDetail (g * 2 ^ 30)) (endDma f q stOk s) := by
  simp only [transfer, hg]

variable (hg : (spans.flatMap fun y => granulesOf y.1 y.2.2).all (fun g => grantOk s s.facets[f] w (g * 2 ^ 30) 32) = true)
include hg

theorem granules_granted :
    (spans.flatMap fun y => granulesOf y.1 y.2.2).find? (fun g => !grantOk s s.facets[f] w (g * 2 ^ 30) 32) = none :=
  List.find?_eq_none.2 fun g hmem => by rw [List.all_eq_true.1 hg g hmem]; exact Bool.false_ne_true

/-- A line that the host may hold is snooped first (R298). -/
theorem transfer_snoops (hm : mustSnoop w spans s = true) : transfer f q w spans s = snoopSpans w spans s := by
  simp only [transfer, granules_granted hg, hm, if_true]

theorem transfer_writes (hm : mustSnoop w spans s = false) (hw : w = true) :
    transfer f q w spans s = endDma f q stOk (push f q.seq spans s) := by
  subst hw
  simp only [transfer, granules_granted hg, hm, Bool.false_eq_true, if_false, if_true]

/-- A read moves the bytes and forgets the answered snoops of its lines. -/
theorem transfer_reads (hm : mustSnoop w spans s = false) (hw : w = false) :
    ∃ t, transfer f q w spans s = endDma f q (if (pull f q.tag spans s).2 then stMemUncorr else stOk) t ∧
      t.facets = (pull f q.tag spans s).1.facets ∧ t.mem.cells = (pull f q.tag spans s).1.mem.cells := by
  subst hw
  simp only [transfer, granules_granted hg, hm, Bool.false_eq_true, if_false]
  exact ⟨_, rfl, rfl, rfl⟩

end

/-- Settles O10: a transfer goes by its granules and its snoops; the other operations end in the same step. -/
theorem dmaOperationsComplete : Obligations.DmaOperationsComplete := by
  unfold Obligations.DmaOperationsComplete
  intro f k s q hq x
  refine ⟨fun w spans hop => ?move, fun a d b n hop => ?xfr, fun td coll off step hop => ?chd, fun td ids disp step hop => ?dsp⟩
  case move =>
    refine ⟨fun hg => ⟨fun hm => ?snoops, fun hm hw => ?writes, fun hm hw => ?reads⟩, fun g hg => ?refused⟩
    case snoops => rw [exec_move hq hop, transfer_snoops hg hm]
    case writes => rw [exec_move hq hop, transfer_writes hg hm hw]; rfl
    case reads =>
      obtain ⟨t, ht, hfacets, hcells⟩ := transfer_reads (q := q) hg hm hw
      exact ⟨t, by rw [exec_move hq hop, ht]; rfl, hfacets, hcells⟩
    case refused => rw [exec_move hq hop, transfer_refused hg]; rfl
  case xfr => rw [exec_dmaOpComplete hq]; simp only [completeDma, hop]; rfl
  case chd => rw [exec_dmaOpComplete hq]; simp only [completeDma, hop]; rfl
  case dsp => rw [exec_dmaOpComplete hq]; simp only [completeDma, hop]; rfl

end Sys2Proof.Machine
end

section
/-! Tokens as they arrive (R165 to R167), and the stop of a sector after a facet fault (R173 to R175). -/

namespace Sys2Proof.Machine

/-! ### `TOKEN_ARRIVAL` -/

/-- The oldest token of its source, destination and channel stands where no earlier one has all three. -/
theorem mesh_findIdx? {m : MeshTok} {before : List MeshTok} (after : List MeshTok)
    (hb : ∀ y ∈ before, y.src ≠ m.src ∨ y.dst ≠ m.dst ∨ y.ch ≠ m.ch) :
    (before ++ m :: after).findIdx? (fun y => y.src == m.src && y.dst == m.dst && y.ch == m.ch) = some before.length := by
  have hnone : before.findIdx? (fun y => y.src == m.src && y.dst == m.dst && y.ch == m.ch) = none :=
    List.findIdx?_eq_none_iff.2 fun y hy => by
      rcases hb y hy with h | h | h <;> simp [h]
  simp [List.findIdx?_append, hnone, List.findIdx?_cons]

section
variable {m : MeshTok} {before after : List MeshTok} {s : State} (hmesh : s.mesh = before ++ m :: after)
  (hb : ∀ y ∈ before, y.src ≠ m.src ∨ y.dst ≠ m.dst ∨ y.ch ≠ m.ch)
include hmesh hb

theorem exec_tokenArrival_room (hroom : s.facets[m.dst].chans[m.ch].length < 4) :
    exec (.tokenArrival m.src m.dst m.ch) s = .next (modFacet m.dst (fun y => tokenRaces m.src m.mask m.seq m.ch
      { y with chans := vupd y.chans m.ch fun l => l ++ [m.payload] }) { s with mesh := before ++ after }) := by
  have hget : (before ++ m :: after)[before.length]? = some m := by simp
  have herase : (before ++ m :: after).eraseIdx before.length = before ++ after := by
    rw [List.eraseIdx_append_of_length_le le_rfl, Nat.sub_self, List.eraseIdx_cons_zero]
  simp only [exec, execTokenArrival, hmesh, mesh_findIdx? after hb, if_neg (Nat.not_le.2 hroom), hget, herase]

theorem exec_tokenArrival_full (hfull : 4 ≤ s.facets[m.dst].chans[m.ch].length) :
    exec (.tokenArrival m.src m.dst m.ch) s = .next s := by
  simp only [exec, execTokenArrival, hmesh, mesh_findIdx? after hb, if_pos hfull]

end

/-! ### `FACET_FAULT_STOP` -/

theorem stopFacet_st (x : Facet) : (stopFacet x).st ≠ .running := by
  unfold stopFacet
  split
  · exact nofun
  · assumption

/-- Of the facets that stop, none runs on, and one that did not run does not run then. -/
theorem stopFacets_st {g : Fin 96} {l : List (Fin 96)} {s : State} (h : g ∈ l ∨ s.facets[g].st ≠ .running) :
    ((l.foldl (fun t f => modFacet f stopFacet t) s).facets[g]).st ≠ .running := by
  induction l generalizing s with
  | nil => exact h.resolve_left List.not_mem_nil
  | cons a l ih =>
    refine ih ?_
    by_cases hga : g = a
    · subst hga
      rw [modFacet_self]
      exact .inr (stopFacet_st _)
    · rw [modFacet_ne _ _ _ _ hga]
      exact h.imp_left fun hmem => (List.mem_cons.1 hmem).resolve_left hga

theorem faultSector_running {k : Fin 4} {s : State} (h : s.sectors[k].st = .running) :
    faultSector k s = modSector k (fun x => { x with st := .faulted, cadence := 0 }) (stopSectorFacets k s) := by
  simp only [faultSector, h, true_or, if_true]

/-- Settles O11: a token is found at its place in the mesh, and a sector's facets stop one by one. -/
theorem tokensArriveAndFaultsStop : Obligations.TokensArriveAndFaultsStop := by
  unfold Obligations.TokensArriveAndFaultsStop
  refine ⟨fun m before after s hmesh hb => ⟨fun hroom => exec_tokenArrival_room hmesh hb hroom,
      fun hfull => exec_tokenArrival_full hmesh hb hfull⟩,
    fun f k s hk hst => ⟨fun hr => ?first, fun hr => ?again, fun hrun => ⟨?sector, fun g hg => ?facets⟩⟩⟩
  case first =>
    have hfirst : ¬ (s.facets[f].st ≠ .faulted ∨ s.facets[f].reported = true) := by
      rw [not_or, not_not, hr]; exact ⟨hst, Bool.false_ne_true⟩
    simp only [exec, execFacetFaultStop, hk, if_neg hfirst]
  case again => simp only [exec, execFacetFaultStop, hk, hr, or_true, if_true]
  case sector => rw [faultSector_running hrun]; exact congrArg Sector.st (modSector_self ..)
  case facets =>
    rw [faultSector_running hrun]
    exact stopFacets_st (.inl (List.mem_filter.2 ⟨mem_fins g, hg⟩))

end Sys2Proof.Machine
end

section
/-! The vector engine's elementwise functions (R240, R243, R244). -/

namespace Sys2Proof.Machine

/-! ### A buffer read back from its elements -/

/-- A key that only the cells of one item can have is read from that item's cells. -/
theorem sget_flatMap {α β : Type} (v : α) {l : List β} (hl : l.Nodup) {x : β} (hx : x ∈ l) (g : β → List (Nat × α)) {n : Nat}
    (hg : ∀ y, y ≠ x → ∀ c ∈ g y, c.1 ≠ n) : sget v (l.flatMap g) n = sget v (g x) n := by
  obtain ⟨before, after, rfl⟩ := List.append_of_mem hx
  have hx : x ∉ before ++ after := (List.nodup_cons.1 (List.nodup_middle.1 hl)).1
  have hothers : ∀ r : List β, x ∉ r → ∀ c ∈ r.flatMap g, c.1 ≠ n := fun r hr c hc => by
    obtain ⟨y, hy, hc⟩ := List.mem_flatMap.1 hc
    exact hg y (ne_of_mem_of_not_mem hy hr) c hc
  rw [List.flatMap_append, List.flatMap_cons,
    sget_append _ _ _ _ (hothers before fun h => hx (List.mem_append_left _ h)),
    sget_append_left _ _ _ _ (hothers after fun h => hx (List.mem_append_right _ h))]

/-- The cells of one element: none for +0. -/
def elemCells (k : Nat) (v : W32) : List (Nat × W32) := if v = 0 then [] else [(k, v)]

theorem elemCells_key {k : Nat} {v : W32} : ∀ c ∈ elemCells k v, c.1 = k := by
  unfold elemCells
  split <;> simp

theorem sget_elemCells (k : Nat) (v : W32) : sget 0 (elemCells k v) k = v := by
  unfold elemCells
  split
  case isTrue h => exact h.symm
  case isFalse => exact if_pos rfl

/-- The cells of row `i`, whose elements are `g`. -/
def rowCells (cols i : Nat) (g : Nat → W32) : List (Nat × W32) :=
  (List.range cols).flatMap fun j => elemCells (128 * i + j) (g j)

theorem rowCells_key {cols i : Nat} {g : Nat → W32} (hcols : cols ≤ 128) : ∀ c ∈ rowCells cols i g, c.1 / 128 = i := fun c hc => by
  obtain ⟨j, hj, hc⟩ := List.mem_flatMap.1 hc
  have hj : j < cols := List.mem_range.1 hj
  rw [elemCells_key c hc]
  omega

theorem veBuild_data (rows cols : Nat) (g : Nat → Nat → W32) :
    (veBuild rows cols g).data = (List.range rows).flatMap fun i => rowCells cols i (g i) := by
  have helem : ∀ k v, (if v = 0 then none else some (k, v) : Option (Nat × W32)).toList = elemCells k v := fun k v => by
    unfold elemCells
    split <;> rfl
  simp only [veBuild, List.filterMap_eq_flatMap_toList, helem, rowCells]

/-- An element within the extent reads as it was built (R240). -/
theorem sget_veBuild {rows cols i j : Nat} (g : Nat → Nat → W32) (hcols : cols ≤ 128) (hi : i < rows) (hj : j < cols) :
    sget 0 (veBuild rows cols g).data (128 * i + j) = g i j := by
  have hrow : (128 * i + j) / 128 = i := by omega
  rw [veBuild_data]
  calc
    _ = sget 0 (rowCells cols i (g i)) (128 * i + j) :=
      sget_flatMap 0 List.nodup_range (List.mem_range.2 hi) (fun i => rowCells cols i (g i)) fun y hy c hc h =>
        hy (by rw [← rowCells_key hcols c hc, h, hrow])
    _ = sget 0 (elemCells (128 * i + j) (g i j)) (128 * i + j) :=
      sget_flatMap 0 List.nodup_range (List.mem_range.2 hj) (fun j => elemCells (128 * i + j) (g i j)) fun y hy c hc h =>
        hy (by have := elemCells_key c hc; omega)
    _ = g i j := sget_elemCells ..

/-! ### `VE.OP` -/

section
variable {y : Facet} {fn : Byte} {d a : Fin 4} {b c : VeSrc} {k : W32}

/-- A function writes its destination buffer alone. -/
theorem veApply_ne {g : Fin 4} (hg : g ≠ d) : (veApply y fn d a b c k).ve[g] = y.ve[g] := vupd_ne _ _ _ _ hg

/-- The codes of Table 09-1 whose results are not formed lane by lane: the reductions, BCAST0 and RAND. -/
def crossLane : List Nat := [0x20, 0x21, 0x22, 0x23, 0x30]

/-- The destination of an elementwise function is built over the extent of A (R240, R243). -/
theorem veApply_dest (hfn : fn.toNat ∉ crossLane) : (veApply y fn d a b c k).ve[d] =
    veBuild (y.ve[a]).rows (y.ve[a]).cols fun i j =>
      veLane fn (sget 0 (y.ve[a]).data (128 * i + j)) (veVal y b i j) (veVal y c i j) k := by
  simp only [crossLane, List.mem_cons, List.not_mem_nil, or_false, not_or] at hfn
  obtain ⟨hrmax, hrsum, hcsum, hbcast, hrand⟩ := hfn
  refine (vupd_self ..).trans ?_
  split
  case h_6 => rfl
  all_goals contradiction

end

/-- The code is that of an elementwise function whose value is `op`, with constant `k`. -/
def IsLane (k : W32) (fn : Byte) (op : W32 → W32 → W32 → W32) : Prop :=
  fn.toNat ∉ crossLane ∧ ∀ a b c, veLane fn a b c k = op a b c

theorem veLane_sel (a b c k : W32) : veLane 0x13 a b c k = fcanon (if (fp32 a).isZero then c else b) :=
  (apply_ite fcanon ..).symm

/-- Settles O60: a start changes the buffers by `veApply`, whose destination is built element by element. -/
theorem vectorLanes : Obligations.VectorLanes := by
  unfold Obligations.VectorLanes
  intro f s q l fn d a b c k x hq hop hcols
  have hself : (modFacet f (fun y => veApply { y with veQ := l } fn d a b c k) s).facets[f] =
      veApply { x with veQ := l } fn d a b c k := modFacet_self ..
  refine ⟨modFacet f (fun y => veApply { y with veQ := l } fn d a b c k) s,
    congrArg Host.Outcome.next ((startVe_op hq hop).trans (withEcc_clean ..)), ?queue, fun g hg => ?others, fun op hmem => ?lanes⟩
  case queue => rw [hself]; rfl
  case others => rw [hself, veApply_ne hg]
  case lanes =>
    -- SEL (row 18) chooses before the canonical form where the model chooses after it; the others are `veLane`'s own branches.
    have hlane : IsLane k fn op := by
      simp only [List.mem_cons, List.not_mem_nil, or_false, Prod.mk.injEq] at hmem
      casesm* _ ∨ _
      all_goals obtain ⟨rfl, rfl⟩ := ‹_ ∧ _›
      on_goal 18 => exact ⟨by decide, fun a b c => veLane_sel a b c k⟩
      all_goals exact ⟨by decide, fun _ _ _ => rfl⟩
    obtain ⟨hfn, hval⟩ := hlane
    rw [hself, veApply_dest hfn]
    exact ⟨rfl, rfl, fun i j hi hj => (sget_veBuild _ hcols hi hj).trans (hval ..)⟩

end Sys2Proof.Machine
end

section
/-! Arcs (O13): loading an image, starting and stopping an Arc, and its frame ticks. -/

namespace Sys2Proof.Machine

/-! ### What the start of a command leaves -/

/-- The start of a command concerns the mailbox only. -/
theorem startCmd_eq (h : Hdr) (s : State) : ∃ m, startCmd h s = { s with mbx := m } := by
  unfold startCmd
  split <;> exact ⟨_, rfl⟩

/-- What does not look at the mailbox is the same once a command has started. -/
theorem get_startCmd {β : Type} {get : State → β} (hg : ∀ t m, get { t with mbx := m } = get t) (h : Hdr) (s : State) :
    get (startCmd h s) = get s := by
  obtain ⟨m, e⟩ := startCmd_eq h s
  rw [e, hg]

@[simp] theorem quotaFree_startCmd (h : Hdr) (s : State) (k : Fin 4) : quotaFree (startCmd h s) k = quotaFree s k :=
  get_startCmd (get := fun t => quotaFree t k) (fun _ _ => rfl) h s

@[simp] theorem inQuota_startCmd (h : Hdr) (s : State) (k : Fin 4) (a n : Nat) : inQuota (startCmd h s) k a n = inQuota s k a n :=
  get_startCmd (get := fun t => inQuota t k a n) (fun _ _ => rfl) h s

@[simp] theorem contextBlock_startCmd (h : Hdr) (s : State) (k : Fin 4) (a : ArcInfo) (l c : Nat) (started : Bool) :
    contextBlock (startCmd h s) k a l c started = contextBlock s k a l c started :=
  get_startCmd (get := fun t => contextBlock t k a l c started) (fun _ _ => rfl) h s

@[simp] theorem anyFaulted_startCmd (h : Hdr) (s : State) (cols : BitVec 12) : anyFaulted cols (startCmd h s) = anyFaulted cols s :=
  get_startCmd (get := anyFaulted cols) (fun _ _ => rfl) h s

/-! ### Loading (R263, R265, R266) -/

/-- The state with the image's bytes kept as the Arc copy of the sector's job, where it holds one. -/
def arcKept (k : Fin 4) (im : ArcImage) (b : List Byte) (s : State) : State :=
  match sectorJob s k with
  | some j => modJob j.id (fun y => { y with arcCopy := some ⟨(quotaFree s k).take (copyGranules b.length), b.length, im.info.logicalCols⟩ })
      (writeArcCopy ((quotaFree s k).take (copyGranules b.length)) b s)
  | none => s

@[simp] theorem writeArcCopy_sectors (gs : List Nat) (b : List Byte) (s : State) : (writeArcCopy gs b s).sectors = s.sectors :=
  sectors_of_steadyOf (by simp [writeArcCopy])

@[simp] theorem arcKept_sectors (k : Fin 4) (im : ArcImage) (b : List Byte) (s : State) : (arcKept k im b s).sectors = s.sectors := by
  unfold arcKept
  split
  · rw [modJob_sectors, writeArcCopy_sectors]
  · rfl

@[simp] theorem finishStarted_sectors (cols : BitVec 12) (s : State) : (finishStarted cols s).sectors = s.sectors :=
  sectors_of_steadyOf (steadyOf_finishStarted cols s)

/-- Loading an image changes of the sectors only the one that it is loaded into. -/
theorem loadArc_sectors (k : Fin 4) (im : ArcImage) (b : List Byte) (s : State) : (loadArc k im b s).sectors =
    vupd s.sectors k fun x => { x with st := .loaded, arc := some im.info, cadence := 0, tick := 0, sent := 0, missed := 0 } := by
  unfold loadArc modSector
  dsimp only
  congr 1
  split
  · split <;> exact finishStarted_sectors ..
  · exact finishStarted_sectors ..

/-- A sector that is neither held back nor in use takes a command that changes its Arc. -/
theorem sector_free {x : SectorState} (h : x ∈ [.empty, .loaded, .faulted]) : x ≠ .none ∧ x ≠ .running ∧ x ≠ .parked := by
  simp only [List.mem_cons, List.not_mem_nil, or_false] at h
  rcases h with rfl | rfl | rfl <;> exact ⟨nofun, nofun, nofun⟩

/-- An image that passes its checks is kept and loaded. -/
theorem arcLoadBody_loads {h : Hdr} {b : List Byte} {im : ArcImage} {s : State} (hp : parseArc b = some im)
    (hstatus : im.info.statusDpa = 0xFFFFFFFFFFFFFFFF ∨ inQuota s (secNo h) im.info.statusDpa.toNat 64 = true)
    (hst : s.sectors[secNo h].st ∈ [.empty, .loaded, .faulted]) (heval : im.eval = s.sectors[secNo h].eval)
    (hsrc : im.eval = true → ∃ j, jobOf im.info.sourceJob s = some j ∧ j.phase ≠ .preserved)
    (hcols : im.info.logicalCols ≤ popCount s.sectors[secNo h].columns)
    (hroom : sectorJob s (secNo h) ≠ none → copyGranules b.length ≤ (quotaFree s (secNo h)).length) :
    ∃ r, arcLoadBody h b s = complete h stOk r (loadArc (secNo h) im b (arcKept (secNo h) im b s)) := by
  obtain ⟨hnone, hrun, hpark⟩ := sector_free hst
  have hargs : ¬(im.info.statusDpa ≠ 0xFFFFFFFFFFFFFFFF ∧ (!inQuota s (secNo h) im.info.statusDpa.toNat 64) = true) := by
    rw [not_and, Bool.not_eq_true', Bool.not_eq_false]
    exact hstatus.resolve_left
  simp only [arcLoadBody, arcKept, hp, if_neg hargs, hnone, hrun, hpark, ← heval, hcols.not_gt, false_or, ne_eq, not_true_eq_false]
  rw [if_neg]
  · cases hj : sectorJob s (secNo h) with
    | none => exact ⟨_, if_neg (Nat.not_lt_zero _)⟩
    | some j => exact ⟨_, if_neg (hroom (hj ▸ nofun)).not_gt⟩
  · intro hgone
    obtain ⟨he, hgone⟩ := (Bool.and_eq_true ..).mp hgone
    obtain ⟨j, hj, hph⟩ := hsrc he
    rw [hj] at hgone
    exact hph (eq_of_beq hgone)

/-! ### Starting and stopping (R260, R268, R269) -/

/-- An Arc that starts runs from now on, each facet of it that has code from its beginning. -/
theorem arcStartBody_starts {h : Hdr} {c : W32} {a : ArcInfo} {s : State} (hst : s.sectors[secNo h].st = .loaded)
    (ha : s.sectors[secNo h].arc = some a) (hexp : s.health.expelled = false)
    (hf : anyFaulted s.sectors[secNo h].columns s = false)
    (hheld : s.sectors[secNo h].eval = true → ∀ j, jobOf a.sourceJob s = some j → armed j = false ∧ parkDeferred j = false)
    (hc : c = 0 ∨ (a.ingress ≠ 0xFF ∧ a.minCadence ≤ c.toNat ∧ c.toNat ≤ 1000000)) :
    arcStartBody h c.toNat s = complete h stOk [] (modSector (secNo h)
      (fun y => { y with st := .running, cadence := c, t0 := now s, tick := 0, sent := 0, missed := 0 })
      { s with facets := vmap s.facets fun f y => if s.sectors[secNo h].columns.getLsbD (facetCol f) && y.part then
          startFacet (contextBlock s (secNo h) a (logicalOf s.sectors[secNo h].columns f) c.toNat true) y else y }) := by
  have hcad : ¬(c.toNat ≠ 0 ∧ (a.ingress = 0xFF ∨ c.toNat < a.minCadence ∨ 1000000 < c.toNat)) := by
    rintro ⟨h0, hbad⟩
    rcases hc with rfl | ⟨hin, hmin, hmax⟩
    · exact h0 rfl
    · exact hbad.elim hin (Or.rec hmin.not_gt hmax.not_gt)
  simp only [arcStartBody, ha, hst, expelled, hexp, hf, if_neg hcad, BitVec.ofNat_toNat, BitVec.setWidth_eq, ne_eq, not_true_eq_false,
    false_or, or_false, Bool.false_eq_true]
  rw [if_neg]
  intro hbad
  obtain ⟨he, hbad⟩ := (Bool.and_eq_true ..).mp hbad
  split at hbad
  · next j hj =>
    obtain ⟨harm, hpark⟩ := hheld he j hj
    rw [harm, hpark] at hbad
    cases hbad
  · cases hbad

/-- Each facet of the list is stopped, the others are as they were. -/
theorem stopFacets_facets {l : List (Fin 96)} (hl : l.Nodup) (g : Fin 96) (s : State) :
    (l.foldl (fun t f => modFacet f stopFacet t) s).facets[g] = if g ∈ l then stopFacet s.facets[g] else s.facets[g] := by
  induction l generalizing s with
  | nil => rfl
  | cons a l ih =>
    obtain ⟨ha, hl⟩ := List.nodup_cons.1 hl
    rw [List.foldl_cons, ih hl]
    by_cases hga : g = a
    · subst hga
      rw [modFacet_self, if_neg ha, if_pos List.mem_cons_self]
    · simp only [modFacet_ne _ _ _ _ hga, List.mem_cons, hga, false_or]

theorem mem_facetsOf {cols : BitVec 12} {f : Fin 96} : f ∈ facetsOf cols ↔ cols.getLsbD (facetCol f) = true :=
  List.mem_filter.trans (and_iff_right (mem_fins f))

theorem facetsOf_nodup (cols : BitVec 12) : (facetsOf cols).Nodup := (List.nodup_ofFn.2 Function.injective_id).filter _

@[simp] theorem stopSectorFacets_facets (k : Fin 4) (g : Fin 96) (s : State) : (stopSectorFacets k s).facets[g] =
    if s.sectors[k].columns.getLsbD (facetCol g) = true then stopFacet s.facets[g] else s.facets[g] := by
  simp only [stopSectorFacets, stopFacets_facets (facetsOf_nodup _), mem_facetsOf]

@[simp] theorem stopSectorFacets_sectors (k : Fin 4) (s : State) : (stopSectorFacets k s).sectors = s.sectors :=
  List.foldlRecOn (motive := fun t : State => t.sectors = s.sectors) _ _ rfl fun _ ht _ _ => (modFacet_sectors ..).trans ht

theorem stopArc_running {k : Fin 4} {s : State} (h : s.sectors[k].st = .running) :
    stopArc k s = modSector k (fun x => { x with st := .loaded, cadence := 0 }) (stopSectorFacets k s) := if_pos h

/-! ### Frame ticks (R269, R270) -/

/-- When the next tick of a running Arc is due (R269). -/
def tickDue (x : Sector) : W64 := x.t0 + x.tick * x.cadence.zeroExtend 64

/-- The frame status record of an Arc that names an address for it (R270). -/
def frameStatus (a : ArcInfo) (x : Sector) (sent missed : W64) (boots : W32) (t : State) : State :=
  if a.statusDpa = 0xFFFFFFFFFFFFFFFF then t
  else writeBytes a.statusDpa.toNat (layout 64 [(0, leBytes 8 sent.toNat), (8, leBytes 8 missed.toNat),
    (0x10, leBytes 8 x.tick.toNat), (0x18, leBytes 8 (tickDue x).toNat), (0x20, leBytes 4 boots.toNat)]) t

section
variable {k : Fin 4} {a : ArcInfo} {s : State} (ha : s.sectors[k].arc = some a)
include ha

/-- A tick that is not due yet changes nothing. -/
theorem exec_frameTick_early (hdue : s.aon.ptime < tickDue s.sectors[k]) : exec (.frameTick k) s = .next s := by
  simp only [exec, execFrameTick, ha]
  exact congrArg Host.Outcome.next (if_pos (Or.inr (Or.inr hdue)))

variable (hst : s.sectors[k].st = .running) (hcad : s.sectors[k].cadence ≠ 0) (hdue : tickDue s.sectors[k] ≤ s.aon.ptime)
include hst hcad hdue

/-- A tick that is due is sent where channel 15 of the ingress facet is empty. -/
theorem exec_frameTick_sent (hc : s.facets[ingressOf s.sectors[k] a].chans[(15 : Fin 16)] = []) :
    exec (.frameTick k) s = .next (frameStatus a s.sectors[k] (s.sectors[k].sent + 1) s.sectors[k].missed s.jrn.boot.bootCount
      (modSector k (fun _ => { s.sectors[k] with tick := s.sectors[k].tick + 1, sent := s.sectors[k].sent + 1 })
        (modFacet (ingressOf s.sectors[k] a) (fun y => { y with chans := vupd y.chans 15 fun l => l ++ [s.sectors[k].tick] }) s))) := by
  have hgo : ¬ now s < s.sectors[k].t0 + s.sectors[k].tick * s.sectors[k].cadence.zeroExtend 64 := BitVec.not_lt.2 hdue
  simp only [exec, execFrameTick, frameStatus, tickDue, ha, hst, hcad, hgo, hc, List.isEmpty_nil, if_true, ne_eq, not_true_eq_false,
    or_self, if_false]

/-- A tick that is due is missed where channel 15 of the ingress facet still holds an earlier one. -/
theorem exec_frameTick_missed (hc : s.facets[ingressOf s.sectors[k] a].chans[(15 : Fin 16)] ≠ []) :
    exec (.frameTick k) s = .next (frameStatus a s.sectors[k] s.sectors[k].sent (s.sectors[k].missed + 1) s.jrn.boot.bootCount
      (modSector k (fun _ => { s.sectors[k] with tick := s.sectors[k].tick + 1, missed := s.sectors[k].missed + 1 }) s)) := by
  have hgo : ¬ now s < s.sectors[k].t0 + s.sectors[k].tick * s.sectors[k].cadence.zeroExtend 64 := BitVec.not_lt.2 hdue
  simp only [exec, execFrameTick, frameStatus, tickDue, ha, hst, hcad, hgo, List.isEmpty_iff, hc, ne_eq, not_true_eq_false, or_self,
    if_false]

end

/-! ### The commands -/

/-- Settles O13: each command past its checks, and a tick by whether it is due and whether the last one was taken. -/
theorem arcLoadStartStopAndTick : Obligations.ArcLoadStartStopAndTick := by
  unfold Obligations.ArcLoadStartStopAndTick
  refine ⟨fun h s => ⟨?load, ?start, fun _ _ => ⟨rfl, rfl, rfl⟩, ?stop⟩, ?tick⟩
  case load =>
    intro b im ha b' hp hstatus hst heval hsrc hcols hroom
    have hjob (i : W32) : jobOf i (startCmd h s) = jobOf i s := jobOf_startCmd ..
    obtain ⟨r, hr⟩ := arcLoadBody_loads (h := h) (s := startCmd h s) hp (by rwa [inQuota_startCmd]) (by rwa [startCmd_sectors])
      (by rwa [startCmd_sectors]) (by rwa [hjob]) (by rwa [startCmd_sectors]) (by rwa [quotaFree_startCmd, sectorJob_startCmd])
    have hrun : exec (.arcLoad h b) s = .next (arcLoadBody h b' (startCmd h s)) := exec_accepted rfl ha
    have hsectors : (complete h stOk r (loadArc (secNo h) im b' (arcKept (secNo h) im b' (startCmd h s)))).sectors =
        vupd s.sectors (secNo h) fun x =>
          { x with st := .loaded, arc := some im.info, cadence := 0, tick := 0, sent := 0, missed := 0 } := by
      rw [answer_sectors, loadArc_sectors, arcKept_sectors, startCmd_sectors]
    rw [hr] at hrun
    refine ⟨_, _, _, hrun, rfl, fun hj => ?_, fun j hj => ?_, ?_, ?_, ?_, fun k hk => ?_⟩
    · simp only [arcKept, sectorJob_startCmd, hj]
    · simp only [arcKept, sectorJob_startCmd, quotaFree_startCmd, hj]
    · rw [hsectors, vupd_self]
    · rw [hsectors, vupd_self]
    · rw [hsectors, vupd_self]
    · rw [hsectors, vupd_ne _ _ _ _ hk]
  case start =>
    intro c a hacc hst ha hexp hf hheld hc
    have hrun : exec (.arcStart h c) s = .next (arcStartBody h c.toNat (startCmd h s)) := exec_accepted rfl hacc
    rw [arcStartBody_starts (by rwa [startCmd_sectors]) (by rwa [startCmd_sectors]) (by rwa [startCmd_health])
      (by rwa [startCmd_sectors, anyFaulted_startCmd]) (by simpa only [startCmd_sectors, jobOf_startCmd] using hheld) hc] at hrun
    refine ⟨_, _, hrun, rfl, ?_, fun k hk => ?_, fun f => ?_⟩
    · rw [answer_sectors, modSector_self]
      simp only [startCmd_sectors, now, startCmd_aon]
    · rw [answer_sectors, modSector_ne _ _ _ _ hk]
      simp only [startCmd_sectors]
    · rw [answer_facets, modSector_facets]
      simp only [vmap_get, startCmd_sectors, startCmd_facets, contextBlock_startCmd, facetCol]
  case stop =>
    intro ha hst
    have hst' : (startCmd h s).sectors[secNo h].st = .running := by rwa [startCmd_sectors]
    have hrun : exec (.arcStop h) s = .next (arcStopBody h (startCmd h s)) := exec_accepted rfl ha
    rw [arcStopBody, if_neg (not_not.2 hst'), stopArc_running hst'] at hrun
    refine ⟨_, _, hrun, rfl, ?_, fun k hk => ?_, fun f => ?_⟩
    · rw [answer_sectors, modSector_self, stopSectorFacets_sectors, startCmd_sectors]
    · rw [answer_sectors, modSector_ne _ _ _ _ hk, stopSectorFacets_sectors, startCmd_sectors]
    · rw [answer_facets, modSector_facets, stopSectorFacets_facets, startCmd_sectors, startCmd_facets, facetCol]
  case tick =>
    intro k a s x due status ha hst hcad
    exact ⟨fun hdue => ⟨exec_frameTick_sent ha hst hcad hdue, exec_frameTick_missed ha hst hcad hdue⟩, exec_frameTick_early ha⟩

end Sys2Proof.Machine
end

section
/-! What the shared operations leave of the jobs: a job as far as a projection of it says. -/

namespace Sys2Proof.Machine

/-- The jobs of the module as far as `p` tells of each. -/
def jobsBy (p : Job → Job) (s : State) : List Job := s.jobs.map p

/-- A projection that tells the id finds the same of a job in states whose jobs are the same by it. -/
theorem map_jobOf_congr {p : Job → Job} (hid : ∀ j, (p j).id = j.id) {s t : State} (h : jobsBy p t = jobsBy p s) (job : W32) :
    (jobOf job t).map p = (jobOf job s).map p := by
  have key (u : State) : (jobOf job u).map p = (jobsBy p u).find? fun x => x.id == job := by
    simp only [jobOf, jobsBy, List.find?_map, Function.comp_def, hid]
  rw [key, key, h]

theorem jobsBy_modJob {p g : Job → Job} (hg : ∀ j, p (g j) = p j) (job : W32) (s : State) :
    jobsBy p (modJob job g s) = jobsBy p s := by
  simp only [jobsBy, modJob, updIf, List.map_map]
  refine List.map_congr_left fun x _ => ?_
  rw [Function.comp_apply]
  split
  · exact hg x
  · rfl

/-- A write of LPDDR6 changes no more of a job than its prefetch schedule (R329). -/
theorem jobsBy_writeBytes {p : Job → Job} (hp : ∀ j x, p { j with sched := x } = p j) (a : Nat) (bs : List Byte) (s : State) :
    jobsBy p (writeBytes a bs s) = jobsBy p s := by
  unfold writeBytes
  split
  · rfl
  · simp only [jobsBy, noteWrite, noteProgress, noteDirty_jobs, List.map_map, Function.comp_def, hp, snoopOut_jobs]

theorem jobsBy_writeJobRecord {p : Job → Job} (hp : ∀ j x, p { j with sched := x } = p j) (job : W32) (s : State) :
    jobsBy p (writeJobRecord job s) = jobsBy p s := by
  unfold writeJobRecord
  split
  · rfl
  · simp only [writeRec, jobsBy_writeBytes hp]

/-- A job without its prefetch schedule. -/
def unscheduled (j : Job) : Job := { j with sched := none }

theorem map_unscheduled_writeBytes (job : W32) (a : Nat) (bs : List Byte) (s : State) :
    (jobOf job (writeBytes a bs s)).map unscheduled = (jobOf job s).map unscheduled :=
  map_jobOf_congr (p := unscheduled) (fun _ => rfl) (jobsBy_writeBytes (fun _ _ => rfl) a bs s) job

theorem map_unscheduled_writeJobRecord (job : W32) (s : State) :
    (jobOf job (writeJobRecord job s)).map unscheduled = (jobOf job s).map unscheduled :=
  map_jobOf_congr (p := unscheduled) (fun _ => rfl) (jobsBy_writeJobRecord (fun _ _ => rfl) job s) job

/-- What is told of a job by its projection too is told of the projected job. -/
theorem map_jobOf_by {α : Type} {p : Job → Job} {F : Job → α} (hF : ∀ x, F (p x) = F x) (job : W32) (s : State) :
    (jobOf job s).map F = ((jobOf job s).map p).map F := by
  rw [Option.map_map]
  exact Option.map_congr fun x _ => (hF x).symm

/-- The job commit sector is the job's, beside its bytes in the job record (R341). -/
theorem map_unscheduled_writeCommit (job : W32) (c : CommitSector) (s : State) : (jobOf job (writeCommit job c s)).map unscheduled =
    ((jobOf job s).map unscheduled).map fun x => { x with commit := c } := by
  unfold writeCommit
  split
  · rw [map_unscheduled_writeBytes, jobOf_modJob (g := fun x => { x with commit := c }) fun _ => rfl, Option.map_map, Option.map_map]
    rfl
  · next hj => rw [hj]; rfl

/-- The armed sector is the job's, beside its bytes in the job record (Table 15-6). -/
theorem map_unscheduled_writeArmed (job : W32) (step gen : W64) (epoch : W16) (s : State) :
    (jobOf job (writeArmed job step gen epoch s)).map unscheduled =
      ((jobOf job s).map unscheduled).map fun x => { x with armedRec := (step, gen, epoch) } := by
  unfold writeArmed
  split
  · next hj => rw [hj]; rfl
  · rw [map_unscheduled_writeBytes, jobOf_modJob (g := fun x => { x with armedRec := (step, gen, epoch) }) fun _ => rfl,
      Option.map_map, Option.map_map]
    rfl

@[simp] theorem writeCommit_jrn (job : W32) (c : CommitSector) (s : State) : (writeCommit job c s).jrn = s.jrn := by
  unfold writeCommit
  split
  · rw [writeBytes_jrn, modJob_jrn]
  · rfl

@[simp] theorem writeArmed_jrn (job : W32) (step gen : W64) (epoch : W16) (s : State) :
    (writeArmed job step gen epoch s).jrn = s.jrn := by
  unfold writeArmed
  split
  · rfl
  · rw [writeBytes_jrn, modJob_jrn]

@[simp] theorem writeJobRecord_jrn (job : W32) (s : State) : (writeJobRecord job s).jrn = s.jrn := by
  unfold writeJobRecord
  split
  · rfl
  · simp only [writeRec, writeBytes_jrn]

/-- The mark of a memory whose write failed concerns the boot journal only (R64). -/
theorem settleBad_dir (j : Journal) : (settleBad j).dir = j.dir := by
  unfold settleBad
  dsimp only
  split <;> rfl

@[simp] theorem writeDir_entries (g : WarmDir → WarmDir) (s : State) : (writeDir g s).jrn.dir.entries = (g s.jrn.dir).entries := by
  rw [writeDir, settleBad_dir]

end Sys2Proof.Machine
end

section
/-! Opening and closing a job (O15). -/

namespace Sys2Proof.Machine

/-- The new job of a `JOB_OPEN`, with its record at a directory entry's place (R370, R437). -/
def newJob (h : Hdr) (job : W32) (seed : W64) (rule : Nat) (i : Fin 4) (s : State) : Job :=
  { id := job, sector := secNo h, seed := seed, rule := rule, recDpa := recordDpa s i }

/-- A new job among the jobs, its objects its own again, and listed in the warm-restart directory. -/
def jobListed (h : Hdr) (job : W32) (seed : W64) (rule : Nat) (i : Fin 4) (s : State) : State :=
  setDir i (some ⟨job, (secNo h).val, recordDpa s i⟩)
    (jobControls (secNo h) (rejoin job { s with jobs := s.jobs ++ [newJob h job seed rule i s] }))

@[simp] theorem sectorOpen_startCmd (h : Hdr) (s : State) (k : Fin 4) : sectorOpen k (startCmd h s) = sectorOpen k s :=
  get_startCmd (get := sectorOpen k) (fun _ _ => rfl) h s

@[simp] theorem freeDirEntry_startCmd (h : Hdr) (s : State) : freeDirEntry (startCmd h s) = freeDirEntry s :=
  get_startCmd (get := freeDirEntry) (fun _ _ => rfl) h s

@[simp] theorem evalRunning_startCmd (job : W32) (h : Hdr) (s : State) : evalRunning job (startCmd h s) = evalRunning job s :=
  get_startCmd (get := evalRunning job) (fun _ _ => rfl) h s

section
variable {h : Hdr} {job : W32} {seed : W64} {rule : Nat} {i : Fin 4} {s : State}

theorem jobOf_jobListed (hj : jobOf job s = none) :
    jobOf job (jobListed h job seed rule i s) = some (newJob h job seed rule i s) := by
  refine (List.find?_append ..).trans ?_
  rw [show s.jobs.find? _ = none from hj]
  exact List.find?_cons_of_pos (p := fun x : Job => x.id == job) (beq_self_eq_true job)

theorem jobListed_entry : (jobListed h job seed rule i s).jrn.dir.entries[i] = some ⟨job, (secNo h).val, recordDpa s i⟩ := by
  rw [jobListed, setDir, writeDir_entries, vupd_self]

/-- What the device notes of the new job: its commit and armed sectors and the rest of its record. -/
def jobRecorded (job : W32) (boots : W32) (s : State) : State :=
  settleSideband (writeJobRecord job (writeArmed job 0 0 0 (writeCommit job { bootCount := boots } s)))

theorem map_unscheduled_jobRecorded (boots : W32) : (jobOf job (jobRecorded job boots s)).map unscheduled =
    ((jobOf job s).map unscheduled).map fun x => { x with commit := { bootCount := boots }, armedRec := (0, 0, 0) } := by
  rw [jobRecorded, jobOf_congr job (settleSideband_jobs _), map_unscheduled_writeJobRecord, map_unscheduled_writeArmed,
    map_unscheduled_writeCommit, Option.map_map]
  rfl

theorem jobRecorded_jrn (boots : W32) : (jobRecorded job boots s).jrn = s.jrn := by
  simp only [jobRecorded, settleSideband_jrn, writeJobRecord_jrn, writeArmed_jrn, writeCommit_jrn]

/-- `JOB_OPEN` of a job that is not on the module, past its checks. -/
theorem jobOpenBody_opens (hr : rule ≤ 3) (hexp : s.health.expelled = false) (hj : jobOf job s = none)
    (ho : sectorOpen (secNo h) s = true) (hi : freeDirEntry s = some i) : jobOpenBody h job seed rule s =
      complete h stOk [] (jobRecorded job s.jrn.boot.bootCount (jobListed h job seed rule i s)) := by
  simp only [jobOpenBody, hr.not_gt, expelled, hexp, hj, ho, hi, if_false, Bool.false_eq_true, Bool.not_true]
  rfl

/-- `JOB_CLOSE` of an open job with nothing in progress leaves no job of that id. -/
theorem jobCloseBody_closes {j : Job} (hj : jobOf job s = some j) (hp : j.phase = .opened) (ha : armed j = false)
    (he : evalRunning job s = false) (hb : jobBusy j = false) :
    ∃ u, jobCloseBody h job s = complete h stOk [] u ∧ jobOf job u = none := by
  have hd : parkDeferred j = false := by
    simp only [jobBusy, Bool.or_eq_false_iff, Option.isSome_eq_false_iff, Option.isNone_iff_eq_none] at hb
    simp only [parkDeferred, hb.1.1]
  simp only [jobCloseBody, hj, hp, ha, hd, he, hb, reduceCtorEq, Bool.false_eq_true, or_self, if_false]
  refine ⟨_, rfl, ?_⟩
  rw [jobOf, settleSideband_jobs]
  split <;> exact find?_filter_not ..

end

/-- Settles O15: a job that opens is listed and recorded, and one that closes is dropped from the jobs. -/
theorem jobOpenAndClose : Obligations.JobOpenAndClose := by
  unfold Obligations.JobOpenAndClose
  intro h job s
  constructor
  · intro seed rule i ha hr hexp hj ho hi
    have hrun : exec (.jobOpen h job seed rule) s = .next (jobOpenBody h job seed rule.toNat (startCmd h s)) := exec_accepted rfl ha
    have hj' : jobOf job (startCmd h s) = none := (jobOf_startCmd ..).trans hj
    rw [jobOpenBody_opens hr (by rwa [startCmd_health]) hj' (by rwa [sectorOpen_startCmd]) (by rwa [freeDirEntry_startCmd])] at hrun
    have hjob := map_unscheduled_jobRecorded (job := job) (startCmd h s).jrn.boot.bootCount
      (s := jobListed h job seed rule.toNat i (startCmd h s))
    rw [jobOf_jobListed hj'] at hjob
    refine ⟨_, _, hrun, rfl, ?_, ?_, ?_⟩
    · rw [jobOf_congr job (answer_jobs ..), map_jobOf_by (p := unscheduled) fun _ => rfl, hjob]
      rfl
    · rw [jobOf_congr job (answer_jobs ..), map_jobOf_by (p := unscheduled) fun _ => rfl, hjob]
      rfl
    · rw [answer_jrn, jobRecorded_jrn, jobListed_entry]
      rfl
  · intro j ha hj hp harm _ he hb
    have hrun : exec (.jobClose h job) s = .next (jobCloseBody h job (startCmd h s)) := exec_accepted rfl ha
    obtain ⟨u, hu, hnone⟩ := jobCloseBody_closes (h := h) ((jobOf_startCmd job h s).trans hj) hp harm
      (by rwa [evalRunning_startCmd]) hb
    rw [hu] at hrun
    exact ⟨u, _, hrun, rfl, (jobOf_congr job (answer_jobs ..)).trans hnone⟩

end Sys2Proof.Machine
end

section
/-! LPDDR6 as the host finds it, the scrub, and the memory configuration (O36). -/

namespace Sys2Proof.Machine

/-! ### Lines and sectors -/

/-- A line is two whole sectors. -/
theorem lineDpa_aligned (s : State) (off : W64) : ∃ k, lineDpa s off = 64 * k := by
  refine ⟨s.mem.hdmFirst * 2 ^ 24 + off.toNat / 64, ?_⟩
  rw [lineDpa]
  omega

theorem length_lineBytes (data : List Byte) (i : Nat) : (lineBytes data i).length = 32 := by
  simp only [lineBytes, slice, List.length_append, zeros, List.length_replicate, List.length_take]
  omega

theorem lineBytes_append {data : List Byte} (h : data.length = 64) : lineBytes data 0 ++ lineBytes data 1 = data := by
  have h0 : (data.take 32).length = 32 := by rw [List.length_take]; omega
  have h1 : ((data.drop 32).take 32).length = 32 := by rw [List.length_take, List.length_drop]; omega
  simp only [lineBytes, slice, Nat.mul_zero, Nat.mul_one, List.drop_zero, h0, h1, Nat.sub_self, zeros, List.replicate_zero, List.append_nil]
  rw [List.take_of_length_le (l := data.drop 32) (by rw [List.length_drop]; omega), List.take_append_drop]

theorem mread_append (m : List Host.Cell) (n k a : Nat) : mread m a (n + k) = mread m a n ++ mread m (a + n) k := by
  induction n generalizing a with
  | zero => rw [Nat.zero_add]; rfl
  | succ n ih => rw [Nat.succ_add, mread, mread, ih, List.cons_append, Nat.add_right_comm, Nat.add_assoc]

@[simp] theorem admitLine_cells (l : Nat) (s : State) : (admitLine l s).mem.cells = s.mem.cells := by
  unfold admitLine
  dsimp only
  split
  · rfl
  · split
    · rfl
    · split <;> rfl

@[simp] theorem admitLine_errs (l : Nat) (s : State) : (admitLine l s).mem.errs = s.mem.errs := by
  unfold admitLine
  dsimp only
  split
  · rfl
  · split
    · rfl
    · split <;> rfl

theorem errSectors_congr {m m' : MemSys} (h : m'.errs = m.errs) (a n : Nat) : errSectors m' a n = errSectors m a n := by
  rw [errSectors, h, errSectors]

/-- A range without an error reads without one. -/
theorem readRange_clean {a n : Nat} {s : State} (h : errSectors s.mem a n = []) : readRange rqHost a n s = (s, []) := by
  simp only [readRange, h, List.foldl_nil, if_true]

@[simp] theorem hostPut_cells (k : Nat) (d : List Byte) (s : State) : (hostPut k d s).mem.cells = mwrite s.mem.cells (32 * k) d := by
  simp only [hostPut, noteWrite_mem, putSector]

/-- Two neighbouring sectors written are read back as one line. -/
theorem mread_hostPut_pair {k : Nat} {d e : List Byte} (hd : d.length = 32) (he : e.length = 32) (s : State) :
    mread (hostPut (k + 1) e (hostPut k d s)).mem.cells (32 * k) 64 = d ++ e := by
  rw [hostPut_cells, hostPut_cells, show 64 = 32 + 32 from rfl, mread_append]
  congr 1
  · rw [mread_congr (m' := mwrite s.mem.cells (32 * k) d) 32 (32 * k) fun j _ hj => mget_mwrite_out _ _ _ _ (.inl (by omega))]
    conv_lhs => rw [← hd]
    exact mread_mwrite ..
  · rw [show 32 * k + 32 = 32 * (k + 1) by omega]
    conv_lhs => rw [← he]
    exact mread_mwrite ..

/-- No other byte of LPDDR6 changes. -/
theorem mget_hostPut_pair {k j : Nat} {d e : List Byte} (hd : d.length = 32) (he : e.length = 32) (s : State)
    (hj : j < 32 * k ∨ 32 * k + 64 ≤ j) : mget (hostPut (k + 1) e (hostPut k d s)).mem.cells j = mget s.mem.cells j := by
  rw [hostPut_cells, hostPut_cells, mget_mwrite_out _ _ _ _ (by rw [he]; omega), mget_mwrite_out _ _ _ _ (by rw [hd]; omega)]

/-! ### Partial writes of a sector (R292, R294) -/

theorem narrowSector_none (k : Nat) (d : List Byte) (m p : Bool) (s : State) : narrowSector k d 0 m p s = s := if_pos rfl

theorem narrowSector_whole (k : Nat) (d : List Byte) (m p : Bool) (s : State) :
    narrowSector k d 0xFFFFFFFF m p s = if p then hostPoison k s else hostPut k d s := rfl

/-- A sector without an error reads as its bytes. -/
theorem readSector_clean {req : Byte} {k : Nat} {s : State} (h : classify (received s.mem k) = .clean) :
    readSector req k s = (s, some ((received s.mem k).take 32)) := by
  simp only [readSector, h]

section
variable {en : W32} (he : partialEn en = true)
include he

theorem narrowSector_discarded (k : Nat) (d : List Byte) (p : Bool) (s : State) : narrowSector k d en false p s = s := by
  simp only [partialEn, Bool.and_eq_true, bne_iff_ne] at he
  rw [narrowSector, if_neg he.1, if_neg he.2, Bool.not_false, if_pos rfl]

theorem narrowSector_poisons {k : Nat} {s : State} (hk : classify (received s.mem k) = .clean) (d : List Byte) :
    narrowSector k d en true true s = hostPoison k s := by
  simp only [partialEn, Bool.and_eq_true, bne_iff_ne] at he
  simp only [narrowSector, he, if_false, Bool.not_true, Bool.false_eq_true, if_true, readSector_clean hk]

theorem narrowSector_merges {k : Nat} {s : State} (hk : classify (received s.mem k) = .clean) (d : List Byte) :
    narrowSector k d en true false s =
      hostPut k (((received s.mem k).take 32).mapIdx fun i b => if en.getLsbD i then d.getD i 0 else b) s := by
  simp only [partialEn, Bool.and_eq_true, bne_iff_ne] at he
  simp only [narrowSector, he, if_false, Bool.not_true, Bool.false_eq_true, readSector_clean hk]

end

theorem enables_first (en : W32) : (en.zeroExtend 64).extractLsb' 0 32 = en := by
  ext i hi
  simp [hi.trans (by decide : 32 < 64), BitVec.getLsbD_eq_getElem hi]

theorem enables_second (en : W32) : (en.zeroExtend 64).extractLsb' 32 32 = 0 := by
  ext i hi
  simp

/-! ### Host accesses (R292, R294, R297) -/

section
variable {off : W64} {s : State} (hw : inWindow s off = true) (hp : absent s (granule (lineDpa s off)) = false)
include hw hp

theorem exec_cxlMemRead_clean (he : errSectors s.mem (lineDpa s off) 64 = []) : exec (.cxlMemRead off) s =
    .next (emit (.cxlData (mread s.mem.cells (lineDpa s off) 64) false) (admitLine (off.toNat / 64) s)) := by
  have hclean : errSectors (admitLine (off.toNat / 64) s).mem (lineDpa s off) 64 = [] :=
    (errSectors_congr (admitLine_errs ..) _ _).trans he
  simp only [exec, execCxlMemRead, hw, hp, readRange_clean hclean, admitLine_cells, Bool.not_true, Bool.false_eq_true, if_false,
    List.isEmpty_nil, if_true]

theorem exec_cxlMemWrite (data : List Byte) (poison : Bool) : exec (.cxlMemWrite off data poison) s = .next (emit .cxlDone
    (if poison then hostPoison (lineDpa s off / 32 + 1) (hostPoison (lineDpa s off / 32) s)
      else hostPut (lineDpa s off / 32 + 1) (lineBytes data 1) (hostPut (lineDpa s off / 32) (lineBytes data 0) s))) := by
  simp only [exec, execCxlMemWrite, hw, hp, Bool.not_true, Bool.false_eq_true, if_false]

theorem exec_cxlMemNarrowWrite (data : List Byte) (en : W64) (poison : Bool) :
    exec (.cxlMemNarrowWrite off data en poison) s = .next (emit .cxlDone
      (let t := narrowSector (lineDpa s off / 32 + 1) (lineBytes data 1) (en.extractLsb' 32 32)
          (s.jrn.mem.mode1.contains (granule (lineDpa s off))) poison
          (narrowSector (lineDpa s off / 32) (lineBytes data 0) (en.extractLsb' 0 32)
            (s.jrn.mem.mode1.contains (granule (lineDpa s off))) poison s)
        if !s.jrn.mem.mode1.contains (granule (lineDpa s off)) && (partialEn (en.extractLsb' 0 32) || partialEn (en.extractLsb' 32 32))
        then logMem 0x04 rqHost (if partialEn (en.extractLsb' 0 32) then lineDpa s off else lineDpa s off + 32) true 0xFF t
        else t)) := by
  simp only [exec, execCxlMemNarrowWrite, hw, hp, Bool.not_true, Bool.false_eq_true, if_false]

/-- A write of the line's first sector in part. -/
theorem exec_cxlMemNarrowWrite_first {en : W32} (he : partialEn en = true) (data : List Byte) (poison : Bool) :
    exec (.cxlMemNarrowWrite off data (en.zeroExtend 64) poison) s = .next (emit .cxlDone
      (if !s.jrn.mem.mode1.contains (granule (lineDpa s off)) then logMem 0x04 rqHost (lineDpa s off) true 0xFF s
        else narrowSector (lineDpa s off / 32) (lineBytes data 0) en true poison s)) := by
  rw [exec_cxlMemNarrowWrite hw hp, enables_first, enables_second, he, narrowSector_none]
  cases s.jrn.mem.mode1.contains (granule (lineDpa s off)) with
  | false => simp only [narrowSector_discarded he, Bool.not_false, Bool.true_or, Bool.and_true, if_true]
  | true => rfl

/-- A write with every byte enabled is a write of the whole line. -/
theorem exec_cxlMemNarrowWrite_whole (data : List Byte) (poison : Bool) :
    exec (.cxlMemNarrowWrite off data (BitVec.allOnes 64) poison) s = exec (.cxlMemWrite off data poison) s := by
  have h0 : (BitVec.allOnes 64).extractLsb' 0 32 = 0xFFFFFFFF := by decide
  have h1 : (BitVec.allOnes 64).extractLsb' 32 32 = 0xFFFFFFFF := by decide
  have hp0 : partialEn 0xFFFFFFFF = false := by decide
  rw [exec_cxlMemNarrowWrite hw hp, exec_cxlMemWrite hw hp, h0, h1, hp0]
  simp only [narrowSector_whole, Bool.or_self, Bool.and_false, Bool.false_eq_true, if_false]
  cases poison <;> simp only [if_true, Bool.false_eq_true, if_false]

end

/-! ### Back-invalidates and the scrub (R298, R302) -/

theorem exec_backInvalidateResponse {line : W64} {s : State} {p : Bool × Nat}
    (hp : s.mem.bisnp.find? (fun p => p.2 == line.toNat) = some p) : exec (.backInvalidateResponse line) s =
      .next { s with mem.bisnp := s.mem.bisnp.erase p,
                     mem.snooped := if p.1 || s.mem.snooped.contains p.2 then s.mem.snooped else s.mem.snooped ++ [p.2] } := by
  simp only [exec, execBackInvalidateResponse, hp]

/-! What a read does to a sector with errors concerns neither the scrub's positions nor the host. -/

theorem scrub_logMem (kind req : Byte) (dpa : Nat) (b : Bool) (sym : Nat) (s : State) :
    (logMem kind req dpa b sym s).mem.scrub = s.mem.scrub := by
  simp only [logMem, apply_ite State.mem, apply_ite MemSys.scrub, raiseEvent_mem, ite_self]

theorem scrub_pairUncorr (k : Nat) (s : State) : (pairUncorr k s).mem.scrub = s.mem.scrub := by
  simp only [pairUncorr, apply_ite State.mem, pendPair_mem, ite_self]

theorem scrub_remapSector (k : Nat) (cause : Bool) (req : Byte) (s : State) :
    (remapSector k cause req s).mem.scrub = s.mem.scrub := by
  simp only [remapSector, pairExhaust, apply_ite State.mem, apply_ite MemSys.scrub, pendPair_mem, writeSaved_mem, scrub_logMem, ite_self]

theorem scrub_readSector (req : Byte) (k : Nat) (s : State) : (readSector req k s).1.mem.scrub = s.mem.scrub := by
  unfold readSector
  dsimp only
  split
  · rfl
  · exact scrub_logMem ..
  · split
    · rw [scrub_logMem, evidence_mem]; rfl
    · rw [scrub_remapSector, scrub_logMem, evidence_mem]; rfl
  · split
    · rw [scrub_pairUncorr, scrub_logMem, evidence_mem]; rfl
    · rw [scrub_remapSector, scrub_pairUncorr, scrub_logMem, evidence_mem]; rfl

/-- The state in which the scrub of a Prism reads its next block: the errors taken since, and the position after it. -/
def scrubbing (n : Fin 4) (errs : List SymErr) (s : State) : State :=
  { s with mem.errs := s.mem.errs ++ newErrors n errs s,
           mem.scrub := vupd s.mem.scrub n fun b => if b + 1 < blockCount s n then b + 1 else 0 }

theorem exec_scrubBlock {n : Fin 4} {s : State} (hn : prismOut s n = false) (errs : List SymErr) : exec (.scrubBlock n errs) s =
    .next ((errSectors { s.mem with errs := s.mem.errs ++ newErrors n errs s } (blockDpa n s.mem.scrub[n]) 4096).foldl
      (fun t k => (readSector rqScrub k t).1) (scrubbing n errs s)) := by
  simp only [exec, execScrubBlock, hn, Bool.false_eq_true, if_false, scrubbing]
  rfl

/-! ### The memory configuration (R255, R295, R296, R311) -/

theorem settleBad_mem (j : Journal) : (settleBad j).mem = j.mem := by
  unfold settleBad
  dsimp only
  split <;> rfl

theorem writeMemCfg_cfg (g : MemConfig → MemConfig) (s : State) :
    (writeMemCfg g s).jrn.mem = { g s.jrn.mem with seq := (g s.jrn.mem).seq + 1 } := by
  rw [writeMemCfg, settleBad_mem]

@[simp] theorem deviceHeld_startCmd (h : Hdr) (s : State) (first count : Nat) :
    deviceHeld (startCmd h s) first count = deviceHeld s first count :=
  get_startCmd (get := fun t => deviceHeld t first count) (fun _ _ => rfl) h s

/-- The narrow-write modes of a memory configuration after a range of granules has taken one (R295). -/
def regionModes (first count mode : Nat) (r : MemConfig) : MemConfig :=
  { r with mode1 := (List.range 1152).filter fun g =>
      if decide (first ≤ g ∧ g < first + count) then mode == 1 else r.mode1.contains g }

theorem regionModes_contains {g : Nat} (hg : g < 1152) (first count mode : Nat) (r : MemConfig) :
    (regionModes first count mode r).mode1.contains g = if first ≤ g ∧ g < first + count then mode == 1 else r.mode1.contains g := by
  rw [Bool.eq_iff_iff]
  simp only [regionModes, List.contains_iff_mem, List.mem_filter, List.mem_range, hg, true_and, decide_eq_true_eq]

theorem memRegionModeBody_sets {h : Hdr} {first count mode : Nat} {s : State} (h0 : 0 < count) (hm : mode ≤ 1)
    (hr : first + count ≤ 1152) (hd : deviceHeld s first count = false) :
    memRegionModeBody h first count mode s = complete h stOk [] (writeMemCfg (regionModes first count mode) s) := by
  simp only [memRegionModeBody, h0.ne', hm.not_gt, hr.not_gt, hd, or_self, if_false, Bool.false_eq_true]
  rfl

theorem memHdmWindowBody_stores {h : Hdr} {first size : W32} {s : State} (hs : size.toNat ≤ 256)
    (hr : first.toNat + size.toNat ≤ 1152) (hd : deviceHeld s first.toNat size.toNat = false) :
    memHdmWindowBody h first size s = complete h stOk [] (writeMemCfg (fun r => { r with hdmFirst := first, hdmSize := size }) s) := by
  simp only [memHdmWindowBody, hs.not_gt, hr.not_gt, hd, or_self, if_false, Bool.false_eq_true]

/-! ### The error log (R306) -/

/-- The free remap entries of the Prisms as `MEM_ERROR_READ` gives them. -/
def freeBytes (s : State) : List Byte := (fins 4).flatMap fun n => leBytes 1 (freeRemap s n)

/-- The header of the buffer that `MEM_ERROR_READ` answers with. -/
def logHead (m : MemSys) (fit : Nat) : List Byte :=
  leBytes 2 1 ++ leBytes 2 32 ++ leBytes 4 m.log.length ++ leBytes 4 (min fit m.log.length)

theorem length_logHead (m : MemSys) (fit : Nat) : (logHead m fit).length = 12 := by
  simp only [logHead, List.length_append, length_leBytes]

theorem length_freeBytes (s : State) : (freeBytes s).length = 4 := by
  simp [freeBytes, fins]

@[simp] theorem freeBytes_startCmd (h : Hdr) (s : State) : freeBytes (startCmd h s) = freeBytes s := by
  simp only [freeBytes, freeRemap, startCmd_mem]

/-- What follows the counts in that header, to offset 32. -/
def logPad (s : State) : List Byte := leBytes 4 s.mem.displaced ++ freeBytes s ++ zeros 12

theorem length_logPad (s : State) : (logPad s).length = 20 := by
  simp only [logPad, List.length_append, length_leBytes, length_freeBytes, zeros, List.length_replicate]

theorem memErrorReadBody_eq (h : Hdr) (s : State) : memErrorReadBody h s =
    answer h stOk true (leBytes 4 s.mem.corrected ++ leBytes 4 s.mem.uncorrectable ++ freeBytes s)
      (logHead s.mem ((h.bufLen.toNat - 32) / 32) ++ (logPad s ++
        (s.mem.log.drop (s.mem.log.length - (h.bufLen.toNat - 32) / 32)).flatMap logBytes)) s := by
  have hn : (s.mem.log.drop (s.mem.log.length - (h.bufLen.toNat - 32) / 32)).length =
      min ((h.bufLen.toNat - 32) / 32) s.mem.log.length := by rw [List.length_drop]; omega
  simp only [memErrorReadBody, logHead, logPad, freeBytes, hn, List.append_assoc]

/-- Settles O36: each access by its own rule, and each command past its checks. -/
theorem hostMemoryAndConfiguration : Obligations.HostMemoryAndConfiguration := by
  unfold Obligations.HostMemoryAndConfiguration
  refine ⟨fun off s => ⟨?access, ?snoop, ?scrub⟩, fun h s => ⟨?mode, ?window, ?log⟩⟩
  case access =>
    intro hw hp
    have hline : 32 * (lineDpa s off / 32) = lineDpa s off := by
      obtain ⟨k, hk⟩ := lineDpa_aligned s off
      omega
    refine ⟨exec_cxlMemRead_clean hw hp, fun data hlen => ⟨_, exec_cxlMemWrite hw hp data false, ?_, fun x hx => ?_⟩,
      fun data => exec_cxlMemWrite hw hp data true, fun data en hen => ⟨fun poison hm => ?_, fun hm hclean => ⟨?_, ?_⟩,
        exec_cxlMemNarrowWrite_whole hw hp data⟩⟩
    · have hread := mread_hostPut_pair (k := lineDpa s off / 32) (length_lineBytes data 0) (length_lineBytes data 1) s
      rwa [hline, lineBytes_append hlen] at hread
    · exact mget_hostPut_pair (length_lineBytes data 0) (length_lineBytes data 1) s (by rwa [hline])
    · rw [exec_cxlMemNarrowWrite_first hw hp hen, hm]
      rfl
    · rw [exec_cxlMemNarrowWrite_first hw hp hen, hm, narrowSector_poisons hen hclean]
      rfl
    · rw [exec_cxlMemNarrowWrite_first hw hp hen, hm, narrowSector_merges hen hclean]
      rfl
  case snoop =>
    intro line p hp
    refine ⟨_, exec_backInvalidateResponse hp, rfl, fun h => ?_, fun h => if_pos (by rw [h, Bool.true_or])⟩
    dsimp only
    split
    · next hin =>
      rw [h, Bool.false_or] at hin
      exact List.contains_iff_mem.1 hin
    · exact List.mem_append_right _ List.mem_cons_self
  case scrub =>
    intro n errs hn
    refine ⟨_, exec_scrubBlock hn errs, ?_, fun hnone => ?_⟩
    · exact List.foldlRecOn (motive := fun t : State => t.mem.scrub = _) _ _ rfl fun t ht k _ => (scrub_readSector ..).trans ht
    · rw [hnone]
      exact ⟨rfl, rfl⟩
  case mode =>
    intro first count mode ha h0 hm hr hd
    have hrun : exec (.memRegionMode h first count mode) s =
        .next (memRegionModeBody h first.toNat count.toNat mode.toNat (startCmd h s)) := exec_accepted rfl ha
    rw [memRegionModeBody_sets h0 hm hr (by rwa [deviceHeld_startCmd])] at hrun
    have hmode : (mode.toNat == 1) = (mode == 1) := by
      rw [Bool.eq_iff_iff, beq_iff_eq, beq_iff_eq, ← BitVec.toNat_inj]
      rfl
    refine ⟨_, _, hrun, rfl, fun g hg => ?_, ?_⟩
    · rw [answer_jrn, writeMemCfg_cfg, startCmd_jrn, ← hmode]
      dsimp only
      exact regionModes_contains hg ..
    · rw [answer_mem, writeMemCfg_mem, startCmd_mem]
  case window =>
    intro first size ha hs hr hd
    have hrun : exec (.memHdmWindow h first size) s = .next (memHdmWindowBody h first size (startCmd h s)) := exec_accepted rfl ha
    rw [memHdmWindowBody_stores hs hr (by rwa [deviceHeld_startCmd])] at hrun
    refine ⟨_, _, hrun, rfl, ?_, ?_⟩
    · rw [answer_jrn, writeMemCfg_cfg, startCmd_jrn]
    · rw [answer_mem, writeMemCfg_mem, startCmd_mem]
  case log =>
    intro ha fit
    have hrun : exec (.memErrorRead h) s = .next (memErrorReadBody h (startCmd h s)) := exec_accepted rfl ha
    rw [memErrorReadBody_eq, startCmd_mem, freeBytes_startCmd] at hrun
    refine ⟨_, hrun, List.take_left' (length_logHead ..), ?_⟩
    rw [← List.append_assoc]
    exact List.drop_left' (by rw [List.length_append, length_logHead, length_logPad])

end Sys2Proof.Machine
end

section
/-! What lasts of a job: neither the transport nor an operation of an engine changes it (O14), one lemma per operation, in the order
of the model. -/

namespace Sys2Proof.Machine

/-- A job without its streams, its schedule and what its step has come to. -/
def lasting (j : Job) : Job :=
  { j with run := none, lastStep := 0, lastOut := 0, recent := [], armedScale := none, sched := none, streams := [], lastAbort := none }

@[simp] theorem lasting_ite (c : Prop) [Decidable c] (x y : State) :
    (if c then x else y).jobs.map lasting = if c then x.jobs.map lasting else y.jobs.map lasting :=
  apply_ite (fun t : State => t.jobs.map lasting) ..

/-- Steps that each keep it keep it together. -/
@[simp] theorem lasting_foldl {α : Type} {g : State → α → State} {l : List α} {s : State}
    (hg : ∀ t a, (g t a).jobs.map lasting = t.jobs.map lasting) : (l.foldl g s).jobs.map lasting = s.jobs.map lasting :=
  List.foldlRecOn (motive := fun t : State => t.jobs.map lasting = s.jobs.map lasting) l g rfl fun t ht a _ => (hg t a).trans ht

/-- Steps that carry a value along keep it together where each of them does. -/
@[simp] theorem lasting_foldl_fst {α β : Type} {g : State × β → α → State × β} {l : List α} {p : State × β}
    (hg : ∀ q a, (g q a).1.jobs.map lasting = q.1.jobs.map lasting) : (l.foldl g p).1.jobs.map lasting = p.1.jobs.map lasting :=
  List.foldlRecOn (motive := fun q : State × β => q.1.jobs.map lasting = p.1.jobs.map lasting) l g rfl fun q hq a _ =>
    (hg q a).trans hq

theorem lasting_fst_of_eq {α : Type} {p : State × α} {t : State} {a : α} (h : p = (t, a)) :
    t.jobs.map lasting = p.1.jobs.map lasting := by rw [h]

theorem lasting_modJob {g : Job → Job} (hg : ∀ j, lasting (g j) = lasting j) (job : W32) (s : State) :
    (modJob job g s).jobs.map lasting = s.jobs.map lasting := jobsBy_modJob hg job s

@[simp] theorem lasting_modRun (job : W32) (g : StepRun → StepRun) (s : State) :
    (modRun job g s).jobs.map lasting = s.jobs.map lasting := lasting_modJob (g := fun x => { x with run := x.run.map g }) (fun _ => rfl) job s

/-! ### LPDDR6 -/

@[simp] theorem lasting_noteWrite (a n : Nat) (s : State) : (noteWrite a n s).jobs.map lasting = s.jobs.map lasting := by
  simp only [noteWrite, noteProgress, List.map_map, noteDirty_jobs]
  rfl

@[simp] theorem lasting_writeCells (a n : Nat) (src : List Host.Cell) (s : State) :
    (writeCells a n src s).jobs.map lasting = s.jobs.map lasting := by
  unfold writeCells
  split
  · rfl
  · rw [lasting_noteWrite, snoopOut_jobs]

@[simp] theorem lasting_writeBytes (a : Nat) (bs : List Byte) (s : State) :
    (writeBytes a bs s).jobs.map lasting = s.jobs.map lasting := jobsBy_writeBytes (fun _ _ => rfl) a bs s

/-- The facets, the sectors and the jobs: what a read of LPDDR6 leaves as it is, whatever it meets. -/
def workOf (s : State) : Vector Facet 96 × Vector Sector 4 × List Job := (s.facets, s.sectors, s.jobs)

theorem workOf_fst_of_eq {α : Type} {p : State × α} {t : State} {a : α} (h : p = (t, a)) : workOf t = workOf p.1 := by rw [h]

theorem workOf_foldl_fst {α β : Type} {g : State × β → α → State × β} {l : List α} {p : State × β}
    (hg : ∀ q a, workOf (g q a).1 = workOf q.1) : workOf (l.foldl g p).1 = workOf p.1 :=
  List.foldlRecOn (motive := fun q : State × β => workOf q.1 = workOf p.1) l g rfl fun q hq a _ => (hg q a).trans hq

@[simp] theorem workOf_readSector (req : Byte) (k : Nat) (s : State) : workOf (readSector req k s).1 = workOf s := by
  unfold readSector
  dsimp only
  split
  · rfl
  · simp [workOf]
  · simp only [apply_ite workOf]
    simp [workOf]
  · simp only [apply_ite workOf]
    simp [workOf]

@[simp] theorem workOf_readRange (req : Byte) (a n : Nat) (s : State) : workOf (readRange req a n s).1 = workOf s := by
  refine (workOf_foldl_fst fun p k => ?_).trans ?_
  · split <;> next h => exact (workOf_fst_of_eq h).trans (workOf_readSector ..)
  · simp only [apply_ite workOf]
    simp [workOf]

@[simp] theorem readRange_jobs (req : Byte) (a n : Nat) (s : State) : (readRange req a n s).1.jobs = s.jobs :=
  congrArg (fun w => w.2.2) (workOf_readRange req a n s)

@[simp] theorem workOf_readCells (req : Byte) (a n : Nat) (s : State) : workOf (readCells req a n s).1 = workOf s := by
  unfold readCells
  split
  · rfl
  · split <;> next h => exact (workOf_fst_of_eq h).trans (workOf_readRange ..)

@[simp] theorem workOf_readBytes (req : Byte) (a n : Nat) (s : State) : workOf (readBytes req a n s).1 = workOf s := by
  unfold readBytes
  split <;> next h => exact (workOf_fst_of_eq h).trans (workOf_readCells ..)

@[simp] theorem workOf_readLoc (req : Byte) (loc n : Nat) (s : State) : workOf (readLoc req loc n s).1 = workOf s := by
  unfold readLoc
  split
  · rfl
  · exact workOf_readCells ..

@[simp] theorem workOf_readRec (req : Byte) (sh : ShardEnt) (b : Nat) (s : State) : workOf (readRec req sh b s).1 = workOf s := by
  unfold readRec
  split
  · rfl
  · split <;> next h => exact (workOf_fst_of_eq h).trans (workOf_readBytes ..)

/-- The job digest is read, record by record (R356). -/
@[simp] theorem workOf_jobDigest (j : Job) (s : State) : workOf (jobDigest j s).1 = workOf s := by
  unfold jobDigest
  split
  · rfl
  · refine workOf_foldl_fst fun p sh => ?_
    split <;> next h => exact (workOf_fst_of_eq h).trans (workOf_readRec ..)

theorem lasting_of_workOf {s t : State} (h : workOf t = workOf s) : t.jobs.map lasting = s.jobs.map lasting := by
  rw [show t.jobs = s.jobs from congrArg (fun w => w.2.2) h]

@[simp] theorem lasting_writeLoc (loc n : Nat) (src : List Host.Cell) (s : State) :
    (writeLoc loc n src s).jobs.map lasting = s.jobs.map lasting := by
  simp [writeLoc]

@[simp] theorem lasting_mergeLoc (req : Byte) (loc n : Nat) (src : List Host.Cell) (s : State) :
    (mergeLoc req loc n src s).1.jobs.map lasting = s.jobs.map lasting := by
  have hread {a k : Nat} {t u : State} {r : Option (List Host.Cell)} (h : readLoc req a k t = (u, r)) :
      u.jobs.map lasting = t.jobs.map lasting :=
    lasting_of_workOf ((workOf_fst_of_eq h).trans (workOf_readLoc ..))
  unfold mergeLoc
  dsimp only
  split
  · rfl
  · split
    · exact lasting_writeLoc ..
    · split
      · next h => exact hread h
      · next h =>
        split <;> next k => simp [hread k, hread h]

/-! ### The transport (R383 to R386) -/

@[simp] theorem lasting_modStream (job : W32) (peer : W16) (onMgmt : Bool) (g : Stream → Stream) (s : State) :
    (modStream job peer onMgmt g s).jobs.map lasting = s.jobs.map lasting :=
  lasting_modJob (fun _ => by dsimp only; split <;> rfl) job s

@[simp] theorem sendVia_jobs (j : Job) (peer : W16) (p : Fin 8) (kind : BitVec 4) (h : ChordHdr) (payload : List Byte) (s : State) :
    (sendVia j peer p kind h payload s).jobs = s.jobs := by
  unfold sendVia
  split
  · exact emitChord_jobs ..
  · rfl

@[simp] theorem lasting_sendOn (j : Job) (peer : W16) (onMgmt : Bool) (avoid : Option (Fin 8)) (kind : BitVec 4) (h : ChordHdr)
    (payload : List Byte) (s : State) : (sendOn j peer onMgmt avoid kind h payload s).jobs.map lasting = s.jobs.map lasting := by
  unfold sendOn
  split
  · rfl
  · split <;> simp

@[simp] theorem lasting_sendPlain (job : W32) (peer : W16) (onMgmt : Bool) (kind : BitVec 4) (step : W64) (coll : W32) (offset : Nat)
    (payload : List Byte) (s : State) :
    (sendPlain job peer onMgmt kind step coll offset payload s).jobs.map lasting = s.jobs.map lasting := by
  unfold sendPlain
  split <;> simp

@[simp] theorem lasting_sendAll (job : W32) (peer : W16) (kind : BitVec 4) (step : W64) (payload : List Byte) (s : State) :
    (sendAll job peer kind step payload s).jobs.map lasting = s.jobs.map lasting := by
  unfold sendAll
  split <;> simp

@[simp] theorem lasting_pumpStream (fuel : Nat) (job : W32) (peer : W16) (onMgmt : Bool) (s : State) :
    (pumpStream fuel job peer onMgmt s).jobs.map lasting = s.jobs.map lasting := by
  induction fuel generalizing s with
  | zero => rfl
  | succ fuel ih =>
    unfold pumpStream
    split
    · rfl
    · dsimp only
      split
      · rfl
      · simp [ih]

@[simp] theorem lasting_sendSeq (job : W32) (peer : W16) (onMgmt : Bool) (kind : BitVec 4) (step : W64) (coll : W32) (offset : Nat)
    (final : Bool) (payload : List Byte) (s : State) :
    (sendSeq job peer onMgmt kind step coll offset final payload s).jobs.map lasting = s.jobs.map lasting := by
  unfold sendSeq
  split <;> simp

/-! ### The step (R343 to R345, R361, R365, R366, R391 to R396, R402) -/

@[simp] theorem evalProposal_jobs (s : State) : (evalProposal s).jobs = s.jobs := by
  simp [evalProposal, apply_ite State.jobs]

@[simp] theorem lasting_modRange (job sh : W32) (ix : Nat) (g : FoldRange → FoldRange) (s : State) :
    (modRange job sh ix g s).jobs.map lasting = s.jobs.map lasting := lasting_modRun ..

@[simp] theorem lasting_modOut (job sh : W32) (ix : Nat) (g : OutContrib → OutContrib) (s : State) :
    (modOut job sh ix g s).jobs.map lasting = s.jobs.map lasting := lasting_modRun ..

@[simp] theorem lasting_addContrib (job sh : W32) (ix len rank : Nat) (els : List (Nat × W32)) (s : State) :
    (addContrib job sh ix len rank els s).jobs.map lasting = s.jobs.map lasting := lasting_modRange ..

@[simp] theorem lasting_admitOwn (job : W32) (lay : Layout) (step : W64) (x : W32 × ShardEnt × Nat) (c : Nat) (s : State) :
    (admitOwn job lay step x c s).jobs.map lasting = s.jobs.map lasting := by
  simp [admitOwn]

@[simp] theorem lasting_grantCredits (job : W32) (s : State) : (grantCredits job s).jobs.map lasting = s.jobs.map lasting := by
  unfold grantCredits
  split
  · rfl
  · split
    · refine lasting_foldl fun t prism => lasting_foldl_fst fun q w => ?_
      dsimp only
      split
      · simp
      · split <;> simp
    · rfl

@[simp] theorem lasting_pumpOuts (fuel : Nat) (job : W32) (s : State) :
    (pumpOuts fuel job s).jobs.map lasting = s.jobs.map lasting := by
  induction fuel generalizing s with
  | zero => rfl
  | succ fuel ih =>
    unfold pumpOuts
    split
    · rfl
    · split
      · split
        · rfl
        · split
          · rfl
          · simp [ih]
      · rfl

@[simp] theorem lasting_pumpRounds (fuel : Nat) (job : W32) (s : State) :
    (pumpRounds fuel job s).jobs.map lasting = s.jobs.map lasting := by
  induction fuel generalizing s with
  | zero => rfl
  | succ fuel ih =>
    unfold pumpRounds
    split
    · dsimp only
      split <;> simp [ih]
    · rfl

@[simp] theorem lasting_pumpStep (job : W32) (s : State) : (pumpStep job s).jobs.map lasting = s.jobs.map lasting := by
  unfold pumpStep
  split
  · exact lasting_pumpRounds ..
  · rfl

@[simp] theorem lasting_failGathers (job : W32) (s : State) : (failGathers job s).jobs.map lasting = s.jobs.map lasting := by
  unfold failGathers
  split
  · rfl
  · split
    · exact lasting_foldl fun t i => lasting_writeBytes ..
    · rfl

@[simp] theorem restoreScales_jobs (j : Job) (s : State) : (restoreScales j s).jobs = s.jobs := by
  unfold restoreScales
  split <;> rfl

@[simp] theorem lasting_settleNot (job : W32) (aborted : Bool) (s : State) :
    (settleNot job aborted s).jobs.map lasting = s.jobs.map lasting := by
  unfold settleNot
  split
  · rfl
  · split
    · rfl
    · extract_lets t₀ t₁ t₂ mbx t₃ t₄ t₅
      have hstep : t₃.jobs.map lasting = s.jobs.map lasting := by simp [t₃, t₂, t₁, t₀, setFcsrStep]
      have hjob : t₄.jobs.map lasting = s.jobs.map lasting := (lasting_modJob (by intro; rfl) job _).trans hstep
      rw [evalProposal_jobs, ← hjob]
      simp only [t₅]
      split
      · rw [answer_jobs]
      · rfl

@[simp] theorem lasting_floodToken (job : W32) (lay : Layout) (step : W64) (tok : AbortTok) (s : State) :
    (floodToken job lay step tok s).jobs.map lasting = s.jobs.map lasting := by
  simp [floodToken]

@[simp] theorem lasting_abortStep (job : W32) (cause : Byte) (origin : Option W16) (detected : W16) (s : State) :
    (abortStep job cause origin detected s).jobs.map lasting = s.jobs.map lasting := by
  unfold abortStep
  split
  · rfl
  · split
    · split
      · rfl
      · extract_lets tok t₀ t₁ t₂ t₃ t₄
        have hstep : t₃.jobs.map lasting = s.jobs.map lasting := by simp [t₃, t₂, t₁, t₀]
        have hjob : t₄.jobs.map lasting = s.jobs.map lasting := (lasting_modJob (by intro; rfl) job _).trans hstep
        split
        · rw [lasting_modRun, hjob]
        · rw [lasting_settleNot, hjob]
    · rfl

@[simp] theorem lasting_localFailure (job : W32) (cause : Nat) (s : State) :
    (localFailure job cause s).jobs.map lasting = s.jobs.map lasting := by
  unfold localFailure
  split
  · rfl
  · split <;> simp

/-! ### The Dispatch and Chord engines (R391 to R396, R405 to R409) -/

@[simp] theorem lasting_modDisp (job : W32) (id : Nat) (g : DispRun → DispRun) (s : State) :
    (modDisp job id g s).jobs.map lasting = s.jobs.map lasting := lasting_modRun ..

@[simp] theorem lasting_writeObj (job : W32) (o : W64) (off : Nat) (bs : List Byte) (s : State) :
    (writeObj job o off bs s).jobs.map lasting = s.jobs.map lasting := by
  unfold writeObj
  split
  · rfl
  · split
    · rfl
    · split <;> next h => simp [lasting_fst_of_eq h]

@[simp] theorem lasting_recvHeader (job : W32) (d : DispEnt) (step : W64) (sources : Nat) (s : State) :
    (recvHeader job d step sources s).jobs.map lasting = s.jobs.map lasting := lasting_writeObj ..

@[simp] theorem lasting_settleEnds (job : W32) (d : DispEnt) (members : Nat) (step : W64) (s : State) :
    (settleEnds job d members step s).jobs.map lasting = s.jobs.map lasting := by
  unfold settleEnds
  split
  · rfl
  · split
    · rfl
    · refine lasting_foldl fun t e => ?_
      dsimp only
      split <;> simp

@[simp] theorem lasting_takeRow (job : W32) (d : DispEnt) (members : Nat) (step : W64) (src slot : Nat) (row : List Byte) (s : State) :
    (takeRow job d members step src slot row s).jobs.map lasting = s.jobs.map lasting := by
  simp [takeRow]

@[simp] theorem lasting_takeBack (job : W32) (d : DispEnt) (route : W64) (members owner slot : Nat) (row : List Byte) (s : State) :
    (takeBack job d route members owner slot row s).jobs.map lasting = s.jobs.map lasting := by
  unfold takeBack
  split
  · rfl
  · dsimp only
    split <;> next h => simp [lasting_of_workOf ((workOf_fst_of_eq h).trans (workOf_readBytes ..))]

@[simp] theorem lasting_takeEnd (job : W32) (d : DispEnt) (members : Nat) (step : W64) (src : Nat) (counts : List Nat)
    (seq : Option W32) (s : State) : (takeEnd job d members step src counts seq s).jobs.map lasting = s.jobs.map lasting := by
  simp [takeEnd]

@[simp] theorem lasting_dispatchRow (job : W32) (lay : Layout) (d : DispEnt) (step : W64) (expert : Nat) (row : List Byte) (s : State) :
    (dispatchRow job lay d step expert row s).jobs.map lasting = s.jobs.map lasting := by
  unfold dispatchRow
  split <;> simp

@[simp] theorem lasting_combineRow (job : W32) (lay : Layout) (d : DispEnt) (step : W64) (slot : Nat) (row : List Byte) (s : State) :
    (combineRow job lay d step slot row s).jobs.map lasting = s.jobs.map lasting := by
  simp [combineRow]

@[simp] theorem lasting_sendEnds (job : W32) (lay : Layout) (d : DispEnt) (step : W64) (s : State) :
    (sendEnds job lay d step s).jobs.map lasting = s.jobs.map lasting := by
  unfold sendEnds
  split <;> simp

@[simp] theorem lasting_routeHeader (job : W32) (d : DispEnt) (step : W64) (s : State) :
    (routeHeader job d step s).jobs.map lasting = s.jobs.map lasting := by
  unfold routeHeader
  split <;> simp

theorem lasting_after_ite {c : Prop} [Decidable c] {x y : Took} {s : State}
    (hx : (x.after s).jobs.map lasting = s.jobs.map lasting) (hy : (y.after s).jobs.map lasting = s.jobs.map lasting) :
    ((if c then x else y).after s).jobs.map lasting = s.jobs.map lasting := by
  split <;> assumption

@[simp] theorem lasting_takeChd (f : Facet) (td : BitVec 128) (coll : W32) (offset : Nat) (step : W64) (s : State) :
    ((takeChd f td coll offset step s).after s).jobs.map lasting = s.jobs.map lasting := by
  unfold takeChd
  refine lasting_after_ite rfl ?_
  split
  · rfl
  · next j r lay _ =>
    have refused : ((refuse j.id s).after s).jobs.map lasting = s.jobs.map lasting := lasting_localFailure ..
    split
    · exact refused
    · refine lasting_after_ite refused (lasting_after_ite (lasting_after_ite (lasting_abortStep ..) rfl) ?_)
      dsimp only
      split
      · exact refused
      · simp [Took.after]

@[simp] theorem lasting_takeDsp (f : Facet) (td : BitVec 128) (ids disp : Nat) (step : W64) (s : State) :
    ((takeDsp f td ids disp step s).after s).jobs.map lasting = s.jobs.map lasting := by
  unfold takeDsp
  refine lasting_after_ite rfl ?_
  split
  · rfl
  · next j r lay _ =>
    have refused : ((refuse j.id s).after s).jobs.map lasting = s.jobs.map lasting := lasting_localFailure ..
    extract_lets fin rows runs
    split
    · exact refused
    · extract_lets word t u
      have ht : t.jobs.map lasting = s.jobs.map lasting := lasting_foldl fun v i => by simp
      have hu : u.jobs.map lasting = s.jobs.map lasting := by simp [u, ht]
      exact lasting_after_ite refused (lasting_after_ite rfl (lasting_after_ite refused
        (lasting_after_ite hu (by simp [Took.after, hu]))))

/-! ### DMA operations (R157 to R163, R174) -/

@[simp] theorem facetError_jobs (f : Fin 96) (code : Byte) (precise : Bool) (pc detail : Nat) (s : State) :
    (facetError f code precise pc detail s).jobs = s.jobs := by
  simp [facetError, apply_ite State.jobs]

@[simp] theorem eccMark_jobs (f : Fin 96) (e : Ecc) (a : Option (Fin 8)) (v : Option (Fin 4)) (s : State) :
    (eccMark f e a v s).jobs = s.jobs := by
  simp [eccMark, eccCorrected, apply_ite State.jobs]

@[simp] theorem eccFault_jobs (f : Fin 96) (e : Ecc) (pc : Nat) (s : State) : (eccFault f e pc s).jobs = s.jobs := by
  unfold eccFault
  split <;> simp

@[simp] theorem endDma_jobs (f : Fin 96) (q : QEnt) (st : W16) (s : State) : (endDma f q st s).jobs = s.jobs := by
  simp [endDma, apply_ite State.jobs]

@[simp] theorem lasting_pull (f : Fin 96) (tag : Fin 8) (spans : List (Nat × Nat × Nat)) (s : State) :
    (pull f tag spans s).1.jobs.map lasting = s.jobs.map lasting := by
  simp [pull]

@[simp] theorem lasting_push (f : Fin 96) (seq : Nat) (spans : List (Nat × Nat × Nat)) (s : State) :
    (push f seq spans s).jobs.map lasting = s.jobs.map lasting :=
  lasting_foldl fun _ _ => lasting_writeCells ..

@[simp] theorem lasting_snoopSpans (inv : Bool) (spans : List (Nat × Nat × Nat)) (s : State) :
    (snoopSpans inv spans s).jobs.map lasting = s.jobs.map lasting := by
  simp [snoopSpans]

@[simp] theorem lasting_transfer (f : Fin 96) (q : QEnt) (write : Bool) (spans : List (Nat × Nat × Nat)) (s : State) :
    (transfer f q write spans s).jobs.map lasting = s.jobs.map lasting := by
  unfold transfer
  split <;> simp

@[simp] theorem lasting_moveEcc (f : Fin 96) (q : QEnt) (write : Bool) (spans : List (Nat × Nat × Nat)) (e : Ecc) (s : State) :
    (moveEcc f q write spans e s).jobs.map lasting = s.jobs.map lasting := by
  simp [moveEcc]

theorem lasting_engineTakes {take : Facet → State → Took} {s : State}
    (ht : ∀ x, ((take x s).after s).jobs.map lasting = s.jobs.map lasting) (f : Fin 96) (q : QEnt) :
    (engineTakes f q take s).jobs.map lasting = s.jobs.map lasting := by
  have hfinish (x : Took) : (finishTook f q s x).jobs.map lasting = (x.after s).jobs.map lasting := by
    cases x with
    | wait => rfl
    | done st t => exact congrArg _ (endDma_jobs ..)
  exact (hfinish _).trans (ht _)

@[simp] theorem lasting_completeDma (f : Fin 96) (q : QEnt) (e : Ecc) (s : State) :
    (completeDma f q e s).jobs.map lasting = s.jobs.map lasting := by
  unfold completeDma
  dsimp only
  split
  · exact lasting_moveEcc ..
  · exact lasting_moveEcc ..
  · simp [viewSpent]
  · rw [eccFault_jobs, lasting_engineTakes (fun x => lasting_takeChd ..), eccMark_jobs]
  · rw [eccFault_jobs, lasting_engineTakes (fun x => lasting_takeDsp ..), eccMark_jobs]
  · rfl

/-- What the facets of some columns had started finishes with every job as it was, but for its step and its streams. -/
@[simp] theorem lasting_finishStarted (cols : BitVec 12) (s : State) :
    (finishStarted cols s).jobs.map lasting = s.jobs.map lasting :=
  lasting_foldl fun _ _ => lasting_foldl fun _ _ => lasting_completeDma ..

end Sys2Proof.Machine
end

section
/-! Parking (O14): `PARK`, `PARK_RESUME` and `UNPARK`. -/

namespace Sys2Proof.Machine

/-! ### `PARK` (R274) -/

/-- Stopping the Arc of a sector leaves its columns and its weight. -/
theorem stopArc_sector (k : Fin 4) (s : State) :
    (stopArc k s).sectors[k].columns = s.sectors[k].columns ∧ (stopArc k s).sectors[k].weight = s.sectors[k].weight := by
  unfold stopArc
  split
  · rw [modSector_self, stopSectorFacets_sectors]
    exact ⟨rfl, rfl⟩
  · exact ⟨rfl, rfl⟩

/-- A job whose sector has nothing left in flight is parked, and its sector with it. -/
theorem releasePark_parks {job : W32} {h : Hdr} {j : Job} {v : State} (hj : jobOf job v = some j)
    (hi : NoneInFlight v.sectors[j.sector].columns v) :
    ∃ w d, releasePark job h v = complete h stOk (leBytes 8 (genOf j).toNat ++ d) w ∧
      w.sectors[j.sector] = { st := .parked, weight := v.sectors[j.sector].weight } ∧
      (jobOf job w).map (·.phase) = some .parked := by
  obtain ⟨u, d, hd⟩ : ∃ u d, jobDigest j v = (u, d) := ⟨_, _, rfl⟩
  obtain ⟨hfacets, hsectors, hjobs⟩ : u.facets = v.facets ∧ u.sectors = v.sectors ∧ u.jobs = v.jobs := by
    have hwork : workOf u = workOf v := (workOf_fst_of_eq hd).trans (workOf_jobDigest j v)
    simpa only [workOf, Prod.mk.injEq] using hwork
  have hu : finishStarted v.sectors[j.sector].columns u = u :=
    finishStarted_of_noneInFlight fun f hf => by rw [hfacets]; exact hi f hf
  have hju : jobOf job u = some j := (jobOf_congr job hjobs).trans hj
  have hgive : (giveFacets v.sectors[j.sector].columns none u).jobs = u.jobs := by rw [giveFacets, hu]
  simp only [releasePark, hj, hd]
  refine ⟨_, _, rfl, ?_, ?_⟩
  · rw [writeDir_sectors, modJob_sectors, modSector_self, giveFacets_sectors, hsectors]
  · rw [jobOf_congr job (writeDir_jobs ..), jobOf_modJob (g := fun y => { y with phase := .parked, parking := false, pend := none })
      fun _ => rfl, jobOf_congr job (modSector_jobs ..), jobOf_congr job hgive, hju]
    rfl

/-- Step 4 of `PARK` and what follows it, once no facet of the sector waits for the host. -/
theorem finishPark_parks {job : W32} {h : Hdr} {j : Job} {u : State} (hj : jobOf job u = some j)
    (hi : NoneInFlight u.sectors[j.sector].columns (finishStarted u.sectors[j.sector].columns (stopArc j.sector u)))
    (hv : jobOf job (finishStarted u.sectors[j.sector].columns (stopArc j.sector u)) = jobOf job u) :
    ∃ w d, finishPark job h u = complete h stOk (leBytes 8 (genOf j).toNat ++ d) w ∧
      w.sectors[j.sector] = { st := .parked, weight := u.sectors[j.sector].weight } ∧
      (jobOf job w).map (·.phase) = some .parked := by
  obtain ⟨hcols, hweight⟩ := stopArc_sector j.sector u
  have hpark : finishPark job h u = releasePark job h (finishStarted u.sectors[j.sector].columns (stopArc j.sector u)) := by
    simp only [finishPark, hj]
    exact if_pos (List.all_eq_true.2 fun f hf => List.isEmpty_iff.2 (hi f (mem_facetsOf.1 hf)))
  rw [hpark, ← hweight, ← finishStarted_sectors u.sectors[j.sector].columns (stopArc j.sector u)]
  refine releasePark_parks (hv.trans hj) ?_
  rw [finishStarted_sectors, hcols]
  exact hi

/-- The job while its `PARK` waits: for its step, with a DEFERRED completion sent, or not. -/
def parkWaits (h : Hdr) (job : W32) (d : Bool) (s : State) : State :=
  modJob job (fun y => { y with parking := true, pend := some (.park h d) }) s

section
variable {h : Hdr} {job : W32} {j : Job} {s : State} (hj : jobOf job s = some j) (hp : j.phase = .opened) (hb : jobBusy j = false)
include hj hp hb

theorem parkBody_defers (ha : armed j = true) : parkBody h job s = defer h [] (parkWaits h job true s) := by
  simp only [parkBody, hj, hp, hb, ha, ne_eq, not_true_eq_false, if_false, Bool.false_eq_true, if_true, parkWaits]

theorem parkBody_waits (ha : armed j = false) (hs : j.snap ≠ none ∨ j.snapNext ≠ []) :
    parkBody h job s = parkWaits h job false s := by
  have hwait : j.snap.isSome = true ∨ (!j.snapNext.isEmpty) = true := by
    simpa only [Option.isSome_iff_ne_none, Bool.not_eq_true', ← Bool.not_eq_true, List.isEmpty_iff] using hs
  simp only [parkBody, hj, hp, hb, ha, ne_eq, not_true_eq_false, if_false, Bool.false_eq_true, parkWaits]
  exact if_pos hwait

theorem parkBody_finishes (ha : armed j = false) (hs : j.snap = none) (hn : j.snapNext = []) :
    parkBody h job s = finishPark job h (parkWaits h job false s) := by
  simp only [parkBody, hj, hp, hb, ha, hs, hn, ne_eq, not_true_eq_false, if_false, Bool.false_eq_true, parkWaits, Option.isSome_none,
    List.isEmpty_nil, Bool.not_true, or_self]

end

/-! ### `PARK_RESUME` (R274) -/

section
variable {h : Hdr} {job : W32} {d : Bool} {j : Job} {s : State} (hj : jobOf job s = some j) (hp : j.pend = some (.park h d))
include hj hp

theorem exec_parkResume_waits (hw : armed j = true ∨ j.snap ≠ none ∨ j.snapNext ≠ []) : exec (.parkResume job) s = .next s := by
  have hwait : armed j = true ∨ j.snap.isSome = true ∨ (!j.snapNext.isEmpty) = true := by
    simpa only [Option.isSome_iff_ne_none, Bool.not_eq_true', ← Bool.not_eq_true, List.isEmpty_iff] using hw
  simp only [exec, execParkResume, hj, hp]
  rw [if_pos hwait]

theorem exec_parkResume_finishes (ha : armed j = false) (hs : j.snap = none) (hn : j.snapNext = []) :
    exec (.parkResume job) s = .next (finishPark job h s) := by
  simp only [exec, execParkResume, hj, hp, ha, hs, hn, Bool.false_eq_true, Option.isSome_none, List.isEmpty_nil, Bool.not_true, or_self,
    if_false]

end

/-! ### `UNPARK` (R276) -/

/-- `UNPARK` past its checks: by what the reads of the Arc copy and of the scale-state record gave. -/
def unparkRead (h : Hdr) (job : W32) (arc : ArcRead) (r : State × Bool) : State :=
  match arc with
  | .unreadable => complete h stMemUncorr [] r.1
  | .malformed => complete h (if r.2 then stArg else stMemUncorr) [] r.1
  | .absent => if r.2 then finishUnpark h job none r.1 else complete h stMemUncorr [] r.1
  | .image im b => if r.2 then finishUnpark h job (some (im, b)) r.1 else complete h stMemUncorr [] r.1

theorem unparkRead_unreadable {h : Hdr} {job : W32} {arc : ArcRead} {r : State × Bool} (hr : arc = .unreadable ∨ r.2 = false) :
    unparkRead h job arc r = complete h stMemUncorr [] r.1 := by
  unfold unparkRead
  rcases hr with rfl | hr
  · rfl
  · rw [hr]
    split <;> rfl

theorem unparkBody_reads {h : Hdr} {job : W32} {j : Job} {s : State} (hj : jobOf job s = some j) (hp : j.phase = .parked)
    (hb : jobBusy j = false) (hexp : s.health.expelled = false) (hst : s.sectors[secNo h].st ∈ [.empty, .loaded, .faulted])
    (heval : s.sectors[secNo h].eval = false) (hnone : sectorJob s (secNo h) = none)
    (hcols : ∀ c, j.arcCopy = some c → c.cols ≤ popCount s.sectors[secNo h].columns) :
    unparkBody h job s = unparkRead h job (readArc j s).2 (readScaleRec j (readArc j s).1) := by
  obtain ⟨hst0, hrun, hpark⟩ := sector_free hst
  simp only [unparkBody, hj, hp, hb, expelled, hexp, hst0, hrun, hpark, heval, hnone, ne_eq, not_true_eq_false, Bool.false_eq_true,
    Option.isSome_none, or_self, false_or, if_false]
  rw [if_neg]
  · rfl
  · split
    · next c hc => exact (hcols c hc).not_gt
    · exact Nat.not_lt_zero _

theorem giveScales_jobs (cols : BitVec 12) (es : List (Nat × ScaleEntry)) (s : State) : (giveScales cols es s).jobs = s.jobs := rfl

theorem jobControls_jobs (k : Fin 4) (s : State) : (jobControls k s).jobs = s.jobs := rfl

theorem lasting_loadArc (k : Fin 4) (im : ArcImage) (b : List Byte) (s : State) :
    (loadArc k im b s).jobs.map lasting = s.jobs.map lasting := by
  have hstarted := lasting_finishStarted (jobControls k s).sectors[k].columns (jobControls k s)
  rw [jobControls_jobs] at hstarted
  unfold loadArc
  dsimp only
  rw [modSector_jobs]
  split
  · split
    · rw [giveScales_jobs, hstarted]
    · exact hstarted
  · exact hstarted

/-- The sector and the phase of a job are among what a load leaves. -/
theorem jobOf_loadArc (job : W32) (k : Fin 4) (im : ArcImage) (b : List Byte) (s : State) :
    (jobOf job (loadArc k im b s)).map (fun y => (y.phase, y.sector)) = (jobOf job s).map fun y => (y.phase, y.sector) := by
  rw [map_jobOf_by (p := lasting) fun _ => rfl, map_jobOf_congr (p := lasting) (fun _ => rfl) (lasting_loadArc k im b s),
    ← map_jobOf_by (p := lasting) fun _ => rfl]

/-- A job that is unparked is open in the named sector. -/
theorem finishUnpark_opens {h : Hdr} {job : W32} {j : Job} {s : State} (hj : jobOf job s = some j)
    (im : Option (ArcImage × List Byte)) : ∃ u, finishUnpark h job im s = complete h stOk (leBytes 8 (genOf j).toNat) u ∧
      (jobOf job u).map (fun y => (y.phase, y.sector)) = some (.opened, secNo h) := by
  have hopen (v : State) (hv : v.jobs = s.jobs) :
      (jobOf job (jobControls (secNo h) (modJob job (fun y => { y with phase := .opened, sector := secNo h }) v))).map
        (fun y => (y.phase, y.sector)) = some (.opened, secNo h) := by
    rw [jobOf_congr job (jobControls_jobs ..), jobOf_modJob (g := fun y => { y with phase := .opened, sector := secNo h }) fun _ => rfl,
      jobOf_congr job hv, hj]
    rfl
  simp only [finishUnpark, hj]
  refine ⟨_, rfl, ?_⟩
  rw [jobOf_congr job (writeDir_jobs ..)]
  split
  · rw [jobOf_loadArc]
    exact hopen _ rfl
  · split
    · exact hopen _ rfl
    · rw [jobOf_congr job (giveScales_jobs ..)]
      exact hopen _ rfl
  · exact hopen _ rfl

/-- The Arc stops and the job is parked: what a `PARK` or `PARK_RESUME` that does not wait comes to. -/
theorem parked_of_finishPark {c : Instr} {h : Hdr} {job : W32} {j : Job} {s u : State} (hrun : exec c s = .next (finishPark job h u))
    (hj : jobOf job u = some j) (hu : u.sectors = s.sectors)
    (hi : NoneInFlight s.sectors[j.sector].columns (finishStarted s.sectors[j.sector].columns (stopArc j.sector u)))
    (hv : jobOf job (finishStarted s.sectors[j.sector].columns (stopArc j.sector u)) = jobOf job u) :
    ∃ w t d, exec c s = .next t ∧ t = complete h 0x0000 (leBytes 8 (genOf j).toNat ++ d) w ∧
      t.sectors[j.sector] = { st := .parked, weight := s.sectors[j.sector].weight } ∧ (jobOf job t).map (·.phase) = some .parked := by
  rw [← hu] at hi hv
  obtain ⟨w, d, hw, hsector, hphase⟩ := finishPark_parks (h := h) hj hi hv
  refine ⟨w, _, d, hrun, hw, ?_, ?_⟩
  · rw [hw, answer_sectors, hsector, hu]
  · rw [hw, jobOf_congr job (answer_jobs ..), hphase]

/-- Settles O14: `PARK` and `PARK_RESUME` by what the job has in progress, `UNPARK` by what its two reads give. -/
theorem parkingFollowsTheJob : Obligations.ParkingFollowsTheJob := by
  unfold Obligations.ParkingFollowsTheJob
  intro h job j s hj waits parked
  have hstart : jobOf job (startCmd h s) = some j := (jobOf_startCmd job h s).trans hj
  refine ⟨fun ha hp hb => ⟨?_, ?_, ?_⟩, fun d hd => ⟨exec_parkResume_waits hj hd, fun harmed hsnap hnext => ?_⟩,
    fun ha hp hb hexp hst heval hnone hcols => ?_, fun im _ => ?_⟩
  · intro harmed
    rw [exec_accepted rfl ha, parkBody_defers hstart hp hb harmed]
    rfl
  · intro harmed hsnap
    rw [exec_accepted rfl ha, parkBody_waits hstart hp hb harmed hsnap]
    rfl
  · intro harmed hsnap hnext hi hv
    have hrun : exec (.park h job) s = .next (finishPark job h (waits false)) := by
      rw [exec_accepted rfl ha, parkBody_finishes hstart hp hb harmed hsnap hnext]
      rfl
    have hk : jobOf job (waits false) = some { j with parking := true, pend := some (.park h false) } := by
      rw [jobOf_modJob (g := fun y => { y with parking := true, pend := some (.park h false) }) fun _ => rfl, hstart]
      rfl
    have hparked := parked_of_finishPark hrun hk ((modJob_sectors ..).trans (startCmd_sectors h s)) hi hv
    exact hparked
  · intro hi hv
    exact parked_of_finishPark (exec_parkResume_finishes hj hd harmed hsnap hnext) hj rfl hi hv
  · intro a r
    have hreads : exec (.unpark h job) s = .next (unparkRead h job a.2 r) := by
      rw [exec_accepted rfl ha, unparkBody_reads hstart hp hb (by rwa [startCmd_health]) (by rwa [startCmd_sectors])
        (by rwa [startCmd_sectors]) (by rwa [sectorJob_startCmd]) (by rwa [startCmd_sectors])]
    refine ⟨fun hr => ?_, fun hr harc => ?_, fun im b hr harc => ?_⟩
    · rw [hreads, unparkRead_unreadable hr]
    · rw [hreads, harc, unparkRead, if_pos hr]
    · rw [hreads, harc, unparkRead, if_pos hr]
  · obtain ⟨u, hu, hopened⟩ := finishUnpark_opens (h := h) hj im
    exact ⟨u, _, hu, rfl, by rw [jobOf_congr job (answer_jobs ..), hopened]⟩

end Sys2Proof.Machine
end

section
/-! Arming and reporting a step, and progress writes (O16). -/

namespace Sys2Proof.Machine

/-! ### What the checks of `STEP_ARM` leave -/

@[simp] theorem workOf_readCommitted (req : Byte) (j : Job) (sh : ShardEnt) (s : State) :
    workOf (readCommitted req j sh s).1 = workOf s := by
  unfold readCommitted
  split
  · rfl
  · split <;> next h => exact (workOf_fst_of_eq h).trans (workOf_readRec ..)

@[simp] theorem workOf_allCommitted (req : Byte) (j : Job) (shs : List ShardEnt) (s : State) :
    workOf (allCommitted req j shs s).1 = workOf s := by
  refine workOf_foldl_fst fun p sh => ?_
  split
  · exact workOf_readCommitted ..
  · rfl

/-- The checks of `STEP_ARM` read the commit records and change no job (R359). -/
theorem workOf_stepArmStatus (job : W32) (step : W64) (micro epoch : W16) (s : State) :
    workOf (stepArmStatus job step micro epoch s).1 = workOf s := by
  unfold stepArmStatus
  split
  · rfl
  · split
    · rfl
    · split
      · rfl
      · split
        · rfl
        · split
          · rfl
          · split <;> next h => exact (workOf_fst_of_eq h).trans (workOf_allCommitted ..)

theorem jobOf_of_workOf {s t : State} (job : W32) (h : workOf t = workOf s) : jobOf job t = jobOf job s :=
  jobOf_congr job (congrArg (fun w => w.2.2) h)

/-! ### The record of an armed step (R225, R359) -/

/-- A job without its schedule and without what arming a step records of it. -/
def unrecorded (j : Job) : Job :=
  { j with sched := none, armedRec := (0, 0, 0), scaleRec := none, armedScale := none, armedCols := 0 }

theorem jobsBy_unrecorded_armScales (j : Job) (s : State) : jobsBy unrecorded (armScales j s) = jobsBy unrecorded s := by
  have hscale (tag : W64) (es : List (Nat × ScaleEntry)) :
      jobsBy unrecorded (writeScaleRec j.id tag es s) = jobsBy unrecorded s := by
    unfold writeScaleRec
    split
    · rfl
    · exact (jobsBy_writeBytes (fun _ _ => rfl) ..).trans (jobsBy_modJob (by intro; rfl) ..)
  unfold armScales
  split
  · exact jobsBy_modJob (by intro; rfl) ..
  · exact (jobsBy_modJob (by intro; rfl) ..).trans (hscale ..)

theorem jobsBy_unrecorded_writeArmed (job : W32) (step gen : W64) (epoch : W16) (s : State) :
    jobsBy unrecorded (writeArmed job step gen epoch s) = jobsBy unrecorded s := by
  unfold writeArmed
  split
  · rfl
  · exact (jobsBy_writeBytes (fun _ _ => rfl) ..).trans (jobsBy_modJob (by intro; rfl) ..)

/-- A job is still there once the step is recorded as armed. -/
theorem jobOf_armedRecorded {job : W32} {i j : Job} {s : State} (hi : jobOf job s = some i) (step gen : W64) (epoch : W16) :
    ∃ k, jobOf job (writeArmed job step gen epoch (armScales j s)) = some k := by
  have hkept := map_jobOf_congr (p := unrecorded) (fun _ => rfl)
    ((jobsBy_unrecorded_writeArmed job step gen epoch _).trans (jobsBy_unrecorded_armScales j s)) job
  rw [hi] at hkept
  obtain ⟨k, hk, -⟩ := Option.map_eq_some_iff.1 hkept
  exact ⟨k, hk⟩

/-! ### The commands -/

/-- A step that passes its checks is armed over the committed generation, and what came early for it is taken up (R347, R359). -/
theorem stepArmBody_arms {h : Hdr} {job : W32} {step : W64} {micro epoch : W16} {j : Job} {s : State} (hj : jobOf job s = some j)
    (hc : (stepArmStatus job step micro epoch s).2 = none) :
    ∃ u, stepArmBody h job step micro epoch s = serveEarly job (defer h (leBytes 8 step.toNat) u) ∧
      (jobOf job u).map (·.lastArmed) = some step ∧
      ((jobOf job u).bind (·.run)).map (fun r => (r.st, r.step, r.micro, r.gen, r.cmd)) =
        some (.armed, step, micro, genOf j, some h) := by
  obtain ⟨v, hv⟩ : ∃ v, stepArmStatus job step micro epoch s = (v, none) := ⟨_, Prod.ext rfl hc⟩
  have hjv : jobOf job v = some j :=
    (jobOf_of_workOf job ((workOf_fst_of_eq hv).trans (workOf_stepArmStatus ..))).trans hj
  obtain ⟨t, r, hbody, hr, k, hk⟩ : ∃ t r, stepArmBody h job step micro epoch s = serveEarly job (defer h (leBytes 8 step.toNat)
      (setFcsrStep (jobCols t j) step (modJob job (fun x => { x with run := some r, lastArmed := step }) t))) ∧
      (r.st, r.step, r.micro, r.gen, r.cmd) = (.armed, step, micro, genOf j, some h) ∧ ∃ k, jobOf job t = some k := by
    simp only [stepArmBody, hv, hj]
    split <;> next hread =>
      have hjw := (jobOf_of_workOf job ((workOf_fst_of_eq hread).trans (workOf_readBytes ..))).trans hjv
      exact ⟨_, _, rfl, rfl, jobOf_armedRecorded hjw ..⟩
  refine ⟨_, hbody, ?_⟩
  have hu : jobOf job (setFcsrStep (jobCols t j) step (modJob job (fun x => { x with run := some r, lastArmed := step }) t)) =
      some { k with run := some r, lastArmed := step } := by
    refine (jobOf_modJob (g := fun x => { x with run := some r, lastArmed := step }) (fun _ => rfl) t).trans ?_
    rw [hk]
    rfl
  rw [hu]
  exact ⟨rfl, congrArg some hr⟩

/-- The state of a job's steps, as it is reported of a job that is not preserved (R367). -/
theorem stepStatusBody_reports {h : Hdr} {job : W32} {j : Job} {s : State} (hj : jobOf job s = some j) (hp : j.phase ≠ .preserved) :
    stepStatusBody h job s = complete h stOk (leBytes 8 j.lastStep.toNat ++ leBytes 8 (genOf j).toNat ++ leBytes 2 j.epoch.toNat ++
      leBytes 1 (if j.phase = .parked then 3 else if j.parking then 2 else if armed j then 1 else 0) ++ leBytes 1 j.lastOut) s := by
  simp only [stepStatusBody, hj, if_neg hp]

section
variable {job : W32} {j : Job} {s : State} (hj : jobOf job s = some j)
include hj

/-- The oldest write of the progress sector is evaluated, and starts the gathers of a position of the schedule (R329, R330, R397). -/
theorem exec_progressWrite {x : Sched} {w : W64 × Nat} {r : List (W64 × Nat)} (hx : j.sched = some x) (hw : x.writes = w :: r) :
    let t := evalSchedule job w.1 w.2 (modJob job (fun k => { k with sched := k.sched.map fun y => { y with writes := r } }) s)
    exec (.progressWrite job) s = .next (if w.2 < x.positions then startGathers job w.1 w.2 t else t) := by
  intro t
  have hrun : exec (.progressWrite job) s = .next (if x.positions ≤ w.2 then t else startGathers job w.1 w.2 t) := by
    simp only [exec, execProgressWrite, hj, Option.bind_some, hx, hw, t]
  rw [hrun]
  split
  · next hle => rw [if_neg hle.not_gt]
  · next hgt => rw [if_pos (Nat.lt_of_not_le hgt)]

/-- Nothing happens where no write is left, or no schedule. -/
theorem exec_progressWrite_idle (hnone : ∀ x, j.sched = some x → x.writes = []) : exec (.progressWrite job) s = .next s := by
  simp only [exec, execProgressWrite, hj, Option.bind_some]
  cases hx : j.sched with
  | none => rfl
  | some x => simp only [hnone x hx]

end

/-- Settles O16: each command past its checks, and a progress write by what the stream holds. -/
theorem stepArmStatusProgress : Obligations.StepArmStatusProgress := by
  unfold Obligations.StepArmStatusProgress
  intro h job j s hj
  have hstart : jobOf job (startCmd h s) = some j := (jobOf_startCmd ..).trans hj
  refine ⟨fun step micro epoch ha hc => ?_, fun ha hp => ?_, fun x w r hx hw => exec_progressWrite hj hx hw,
    exec_progressWrite_idle hj⟩
  · obtain ⟨u, hbody, hlast, hrun⟩ := stepArmBody_arms (h := h) hstart hc
    exact ⟨u, (exec_accepted rfl ha).trans (congrArg _ hbody), hlast, hrun⟩
  · exact (exec_accepted rfl ha).trans (congrArg _ (stepStatusBody_reports hstart hp))

end Sys2Proof.Machine
end

section
/-! The blocks of the flash (R332, R333): what the FTL's record and its erases leave, and which block takes a write. -/

namespace Sys2Proof.Machine

/-! ### One block -/

theorem flashBlock_modBlock_self (k : Nat) (g : FlashBlock → FlashBlock) (s : State) :
    flashBlock (modBlock k g s) k = g (flashBlock s k) := sget_sset_self ..

theorem flashBlock_modBlock_ne {k i : Nat} (h : i ≠ k) (g : FlashBlock → FlashBlock) (s : State) :
    flashBlock (modBlock k g s) i = flashBlock s i := sget_sset_ne _ _ _ _ _ h

/-- An erased block holds no data and has been erased once more. -/
theorem flashBlock_eraseBlock_self (k : Nat) (s : State) :
    (flashBlock (eraseBlock k s) k).programmed = false ∧
      (flashBlock (eraseBlock k s) k).erases = (flashBlock s k).erases + 1 := by
  rw [eraseBlock, flashBlock_modBlock_self]
  exact ⟨rfl, rfl⟩

theorem flashBlock_eraseBlock_ne {k i : Nat} (h : i ≠ k) (s : State) : flashBlock (eraseBlock k s) i = flashBlock s i := by
  rw [eraseBlock, flashBlock_modBlock_ne h]
  split <;> rfl

/-! ### The journal record (R332) -/

@[simp] theorem eraseBlock_objs (k : Nat) (s : State) : (eraseBlock k s).objs = s.objs := by
  unfold eraseBlock
  dsimp only
  split <;> rfl

@[simp] theorem eraseBlock_map (k : Nat) (s : State) : (eraseBlock k s).flash.map = s.flash.map := by
  unfold eraseBlock
  dsimp only
  split <;> rfl

@[simp] theorem settleReadOnly_objs (s : State) : (settleReadOnly s).objs = s.objs := by
  unfold settleReadOnly
  split <;> rfl

theorem settleReadOnly_map (s : State) : (settleReadOnly s).flash.map = s.flash.map := by
  unfold settleReadOnly
  split <;> rfl

theorem flashBlock_settleReadOnly (s : State) (k : Nat) : flashBlock (settleReadOnly s) k = flashBlock s k := by
  unfold settleReadOnly
  split <;> rfl

/-- The record of what was written changes no object. -/
@[simp] theorem commitFlash_objs (map : List FtlEnt) (freed : List Nat) (s : State) : (commitFlash map freed s).objs = s.objs :=
  (settleReadOnly_objs _).trans (get_foldl_of_step (get := State.objs) (fun t k => eraseBlock_objs k t) freed _)

@[simp] theorem commitFlash_map (map : List FtlEnt) (freed : List Nat) (s : State) : (commitFlash map freed s).flash.map = map :=
  (settleReadOnly_map _).trans (get_foldl_of_step (get := fun t => t.flash.map) (fun t k => eraseBlock_map k t) freed _)

/-- A record that frees one block: that block is erased, and no other block changes. -/
theorem flashBlock_commitFlash_one (map : List FtlEnt) (block : Nat) (s : State) :
    (flashBlock (commitFlash map [block] s) block).programmed = false ∧
      (flashBlock (commitFlash map [block] s) block).erases = (flashBlock s block).erases + 1 ∧
      ∀ i ≠ block, flashBlock (commitFlash map [block] s) i = flashBlock s i := by
  simp only [commitFlash, flashBlock_settleReadOnly, List.foldl_cons, List.foldl_nil]
  exact ⟨(flashBlock_eraseBlock_self block _).1, (flashBlock_eraseBlock_self block _).2, fun i hi => flashBlock_eraseBlock_ne hi _⟩

@[simp] theorem ftlDrop_objs (o : FtlOwner) (s : State) : (ftlDrop o s).objs = s.objs := commitFlash_objs ..

/-! ### The erased block that takes a write (R333) -/

/-- A fold that keeps or takes gives what it began with or an element of the list. -/
theorem mem_of_foldl_pick {α : Type} {f : Option α → α → Option α} (hf : ∀ m x, f m x = m ∨ f m x = some x) {l : List α}
    {m : Option α} {y : α} (h : l.foldl f m = some y) : m = some y ∨ y ∈ l := by
  induction l generalizing m with
  | nil => exact .inl h
  | cons x l ih =>
    rcases ih h with h | h
    · refine (hf m x).imp (fun e => e.symm.trans h) fun e => ?_
      exact Option.some.inj (e.symm.trans h) ▸ List.mem_cons_self
    · exact .inr (List.mem_cons_of_mem _ h)

theorem sget_of_mem {α : Type} (d : α) {l : List (Nat × α)} (hl : (l.map (·.1)).Nodup) {c : Nat × α} (hc : c ∈ l) :
    sget d l c.1 = c.2 := by
  induction l with
  | nil => cases hc
  | cons x l ih =>
    obtain ⟨hx, hl⟩ := List.nodup_cons.1 hl
    rcases List.mem_cons.1 hc with rfl | hc
    · exact if_pos rfl
    · have hne : x.1 ≠ c.1 := fun e => hx (List.mem_map.2 ⟨c, hc, e.symm⟩)
      exact (if_neg hne).trans (ih hl hc)

theorem flashBlock_unusedBlock {s : State} {k : Nat} (h : unusedBlock s = some k) : flashBlock s k = freshBlock := by
  obtain ⟨hfind, -⟩ := Option.filter_eq_some_iff.1 h
  have hall := List.find?_some hfind
  refine sget_unlisted _ _ _ fun c hc => ?_
  simpa using List.all_eq_true.1 hall c hc

/-- The block that takes a write holds no data. -/
theorem erasedBlock_unprogrammed {s : State} {k : Nat} (hn : (s.flash.blocks.map (·.1)).Nodup) (h : erasedBlock s = some k) :
    (flashBlock s k).programmed = false := by
  obtain ⟨x, hfold, rfl⟩ := Option.map_eq_some_iff.1 h
  have hmem := (mem_of_foldl_pick (fun m y => ?pick) hfold).resolve_left nofun
  case pick =>
    cases m with
    | none => exact .inr rfl
    | some z =>
      dsimp only
      split
      · exact .inr rfl
      · exact .inl rfl
  rcases List.mem_append.1 hmem with hused | hfresh
  · obtain ⟨c, hc, rfl⟩ := List.mem_map.1 hused
    obtain ⟨hc, hfree⟩ := List.mem_filter.1 hc
    rw [flashBlock, sget_of_mem _ hn hc]
    simpa using (Bool.and_eq_true_iff.1 hfree).1
  · obtain ⟨k, hk, rfl⟩ := Option.map_eq_some_iff.1 (Option.mem_toList.1 hfresh)
    rw [flashBlock_unusedBlock hk]
    rfl

end Sys2Proof.Machine
end

section
/-! The prefetch schedule is installed, and the FTL relocates its blocks (O28). -/

namespace Sys2Proof.Machine

@[simp] theorem objOf_startCmd (id : W64) (h : Hdr) (s : State) : objOf id (startCmd h s) = objOf id s := by
  simp only [objOf, startCmd_objs]

/-! ### Relocation (R333) -/

/-- A block's data moves to the block that takes the write; its own block is erased. -/
theorem relocate_moves {s : State} {block k : Nat} (hn : (s.flash.blocks.map (·.1)).Nodup)
    (hb : (flashBlock s block).programmed = true) (hk : erasedBlock s = some k) :
    (relocate block s).flash.map = (s.flash.map.map fun m => if m.block = block then { m with block := k } else m) ∧
      (relocate block s).objs = s.objs ∧ (flashBlock (relocate block s) block).programmed = false ∧
      (flashBlock (relocate block s) block).erases = (flashBlock s block).erases + 1 ∧
      (flashBlock (relocate block s) k).programmed = true := by
  have hne : k ≠ block := by
    rintro rfl
    exact Bool.false_ne_true ((erasedBlock_unprogrammed hn hk).symm.trans hb)
  have hrun : relocate block s = commitFlash (s.flash.map.map fun m => if m.block = block then { m with block := k } else m) [block]
      (modBlock k (fun b => { b with reads := 0, programmed := true }) s) := by
    simp only [relocate, hk]
  rw [hrun]
  obtain ⟨hprog, herases, hother⟩ := flashBlock_commitFlash_one
    (s.flash.map.map fun m => if m.block = block then { m with block := k } else m) block
    (modBlock k (fun b => { b with reads := 0, programmed := true }) s)
  refine ⟨commitFlash_map .., commitFlash_objs .., hprog, ?_, ?_⟩
  · rw [herases, flashBlock_modBlock_ne hne.symm]
  · rw [hother k hne, flashBlock_modBlock_self]

/-! ### `PREFETCH_SCHEDULE` (R318, R328) -/

/-- A schedule that passes the checks is installed with its host pool, and evaluated at its first position. -/
theorem prefetchBody_installs {h : Hdr} {job : W32} {buf : List Byte} {j : Job} {x : Sched} {base size : Nat} {s : State}
    (hj : jobOf job s = some j) (hp : j.phase = .opened) (hx : parseSched buf = some (x, base, size)) (ha : armed j = false)
    (he : ∀ e ∈ x.entries, (∃ o, objOf e.obj s = some o ∧ o.job = job ∧ o.kept = false) ∧ e.release ≠ e.position ∧
      x.lookahead + (e.release + x.positions - e.position) % x.positions ≤ x.positions ∧
      (e.evictTier = 2 → s.flash.present = true))
    (hd : distinct (x.entries.map (·.obj)) = true) (hprog : inQuota s j.sector x.progress 32 = true)
    (hstat : inQuota s j.sector x.status (32 * x.entries.length) = true)
    (happ : x.progress + 32 ≤ x.status ∨ x.status + 32 * x.entries.length ≤ x.progress)
    (hpool : size = 0 ∨ ∀ o ∈ s.objs, o.job = job → o.tier = 1 →
      hostBase + base ≤ o.loc ∧ o.loc + extLen o.size ≤ hostBase + base + size)
    (hroom : ((s.jobs.filter fun y => y.id != job).map fun y => (y.sched.map fun z => z.entries.length).getD 0).foldl (· + ·) 0 +
      x.entries.length ≤ 262144) :
    prefetchBody h job buf s = complete h stOk [] (evalSchedule job 0 0
      (modJob job (fun y => { y with sched := some x, hostPool := if size = 0 then y.hostPool else (base, size) })
        (dropHolds job s))) := by
  simp only [prefetchBody, hj, hp, hx, hd, hprog, hstat, ha, ne_eq, not_true_eq_false, if_false, Bool.not_true, Bool.false_eq_true,
    false_or]
  rw [if_neg ?args, if_neg ?flash, if_neg ?space]
  case args =>
    rw [not_or, Bool.not_eq_true', Bool.not_eq_false, List.all_eq_true]
    refine ⟨fun e hmem => ?_, by omega⟩
    obtain ⟨⟨o, ho, hjob, hkept⟩, hne, hlook, -⟩ := he e hmem
    simp only [ho, hjob, hkept, beq_self_eq_true, Bool.not_false, Bool.and_self, bne_iff_ne.2 hne, decide_eq_true hlook]
  case flash =>
    intro hgone
    obtain ⟨hgone, hany⟩ := (Bool.and_eq_true ..).mp hgone
    obtain ⟨e, hmem, htier⟩ := List.any_eq_true.1 hany
    obtain ⟨-, -, -, hflash⟩ := he e hmem
    rw [hflash (eq_of_beq htier)] at hgone
    cases hgone
  case space =>
    rintro (hbad | hmany)
    · rw [Bool.not_eq_true', Bool.or_eq_false_iff, decide_eq_false_iff_not, List.all_eq_false] at hbad
      obtain ⟨hsize, o, hmem, hout⟩ := hbad
      obtain ⟨hmem, hmine⟩ := List.mem_filter.1 hmem
      obtain ⟨hjob, htier⟩ := (Bool.and_eq_true ..).mp hmine
      exact hout (decide_eq_true (hpool.resolve_left hsize o hmem (eq_of_beq hjob) (eq_of_beq htier)))
    · refine hmany.not_ge (le_of_eq_of_le ?_ hroom)
      congr 2
      exact List.map_congr_left fun y _ => by cases y.sched <;> rfl

/-- A programmed block that a retention scan finds good is read; one that it finds near the limit is rewritten (R333). -/
theorem exec_ftlRetentionScan {s : State} {block : Nat} (hf : s.flash.present = true) (hb : (flashBlock s block).programmed = true)
    (high : Bool) : exec (.ftlRetentionScan block high) s = .next (if high then relocate block s
      else modBlock block (fun b => { b with reads := b.reads + 512 }) s) := by
  refine congrArg _ (if_neg ?_)
  rw [hf, hb]
  exact Bool.false_ne_true

/-- Settles O28: a schedule by its checks, and each relocation by its condition. -/
theorem scheduleAndFlashBlocks : Obligations.ScheduleAndFlashBlocks := by
  unfold Obligations.ScheduleAndFlashBlocks
  intro h job buf j x base size s s'
  refine ⟨fun ha hlen hj hp hx harm he hd hprog hstat happ hpool hroom => ?_, ?_⟩
  · have hrun : exec (.prefetchSchedule h job buf) s = .next (prefetchBody h job (bufBytes h buf) s') := exec_accepted rfl ha
    have hbuf : bufBytes h buf = buf := if_pos hlen
    rw [hrun, hbuf]
    exact congrArg _ (prefetchBody_installs ((jobOf_startCmd ..).trans hj) hp hx harm
      (by simpa only [s', objOf_startCmd, startCmd_flash] using he) hd (by rwa [inQuota_startCmd]) (by rwa [inQuota_startCmd]) happ
      (by rwa [startCmd_objs]) (by rwa [startCmd_jobs]))
  · intro block b moved wear disturb
    refine ⟨fun hw => congrArg _ (if_pos hw), fun hw => congrArg _ (if_neg hw), fun hd => congrArg _ (if_pos hd),
      fun hd => congrArg _ (if_neg hd), fun hf hb => ⟨exec_ftlRetentionScan hf hb true, exec_ftlRetentionScan hf hb false⟩,
      fun hno high => congrArg _ (if_pos ?_), fun k hn hb hk => relocate_moves hn hb hk⟩
    rw [Bool.or_eq_true, Bool.not_eq_true', Bool.not_eq_true']
    exact hno

end Sys2Proof.Machine
end

section
/-! Objects as the shared operations leave them: found by their id, and each as it was but for the note of what has been written of it
(R321). -/

namespace Sys2Proof.Machine

/-! ### The object with an id -/

theorem objOf_congr {s t : State} (id : W64) (h : t.objs = s.objs) : objOf id t = objOf id s := by rw [objOf, h, objOf]

theorem id_of_objOf {id : W64} {o : Obj} {s : State} (h : objOf id s = some o) : o.id = id := eq_of_beq (List.find?_some h :)

/-- An object changed with its id kept is found changed. -/
theorem objOf_modObj {id : W64} {g : Obj → Obj} (hg : ∀ o, (g o).id = o.id) (s : State) :
    objOf id (modObj id g s) = (objOf id s).map g := by
  have hid (x : Obj) : ((if x.id == id then g x else x).id == id) = (x.id == id) := by
    split <;> simp [hg]
  simp only [objOf, modObj, updIf, List.find?_map, Function.comp_def, hid]
  cases hf : s.objs.find? fun x => x.id == id with
  | none => rfl
  | some x => simp only [Option.map_some, List.find?_some hf, if_true]

theorem objOf_modObj_some {id : W64} {g : Obj → Obj} {o : Obj} {s : State} (ho : objOf id s = some o) (hg : ∀ o, (g o).id = o.id) :
    objOf id (modObj id g s) = some (g o) := by
  rw [objOf_modObj hg, ho, Option.map_some]

/-- An object found after such a change is a changed one. -/
theorem exists_of_objOf_modObj {id : W64} {g : Obj → Obj} {x : Obj} {s : State} (hx : objOf id (modObj id g s) = some x)
    (hg : ∀ o, (g o).id = o.id) : ∃ y, g y = x := by
  rw [objOf_modObj hg] at hx
  obtain ⟨y, -, hy⟩ := Option.map_eq_some_iff.1 hx
  exact ⟨y, hy⟩

theorem objOf_append {id : W64} {o : Obj} {s : State} (hs : objOf id s = none) (hid : o.id = id) :
    objOf id { s with objs := s.objs ++ [o] } = some o := by
  refine (List.find?_append ..).trans ?_
  rw [show s.objs.find? _ = none from hs]
  exact List.find?_cons_of_pos (p := fun x : Obj => x.id == id) (beq_iff_eq.2 hid)

theorem objOf_removed (id : W64) (s : State) : objOf id { s with objs := s.objs.filter fun x => x.id != id } = none :=
  find?_filter_not s.objs fun x => x.id == id

theorem objOf_ftlDrop_ite (id : W64) (c : Prop) [Decidable c] (w : FtlOwner) (s : State) :
    objOf id (if c then ftlDrop w s else s) = objOf id s := by
  split
  · exact objOf_congr id (ftlDrop_objs ..)
  · rfl

/-- What needs the flash tier is not refused while that is present. -/
theorem flash_not_missing {p : Prop} {s : State} (h : p → s.flash.present = true) : ¬(p ∧ (!s.flash.present) = true) := by
  rintro ⟨hp, hno⟩
  rw [h hp] at hno
  cases hno

/-! ### Writes of LPDDR6 -/

/-- An object without the note of its extents that have been written since. -/
def undirtied (o : Obj) : Obj := { o with dirty := [] }

theorem map_undirtied {s t : State} (h : t.objs.map undirtied = s.objs.map undirtied) (id : W64) :
    (objOf id t).map undirtied = (objOf id s).map undirtied := by
  have key (u : State) : (objOf id u).map undirtied = (u.objs.map undirtied).find? fun x => x.id == id := by
    simp only [objOf, List.find?_map]
    rfl
  rw [key, key, h]

/-- What does not look at the note is told of an object by what is known of it without the note. -/
theorem map_of_undirtied {α : Type} {F : Obj → α} (hF : ∀ x, F (undirtied x) = F x) {id : W64} {o : Obj} {s : State}
    (h : (objOf id s).map undirtied = some o) : (objOf id s).map F = some (F o) := by
  rw [← Option.map_some, ← h, Option.map_map]
  exact Option.map_congr fun x _ => (hF x).symm

@[simp] theorem undirtied_noteWrite (a n : Nat) (s : State) : (noteWrite a n s).objs.map undirtied = s.objs.map undirtied := by
  simp only [noteWrite, noteProgress_objs, noteDirty, List.map_map]
  refine List.map_congr_left fun o _ => ?_
  rw [Function.comp_apply]
  split <;> rfl

@[simp] theorem undirtied_writeBytes (a : Nat) (bs : List Byte) (s : State) :
    (writeBytes a bs s).objs.map undirtied = s.objs.map undirtied := by
  unfold writeBytes
  split
  · rfl
  · rw [undirtied_noteWrite, snoopOut_objs]

@[simp] theorem undirtied_zeroRange (a n : Nat) (s : State) : (zeroRange a n s).objs.map undirtied = s.objs.map undirtied := by
  rw [zeroRange, undirtied_noteWrite, snoopOut_objs]

@[simp] theorem undirtied_writeJobRecord (job : W32) (s : State) :
    (writeJobRecord job s).objs.map undirtied = s.objs.map undirtied := by
  unfold writeJobRecord
  split
  · rfl
  · simp only [writeRec, undirtied_writeBytes]

/-! ### An eviction that is cancelled (R323) -/

/-- The object once its eviction is cancelled: the eviction is at the head of the queue again. -/
def evictionCancelled (o : Obj) : Obj :=
  match o.move with
  | some m => if m.dst ≤ m.src then o else { o with move := none, queue := ⟨m.dst, m.cmd, m.place⟩ :: o.queue }
  | none => o

/-- Only the move and the queue of the object change. -/
theorem evictionCancelled_eq (o : Obj) : ∃ m q, evictionCancelled o = { o with move := m, queue := q } := by
  unfold evictionCancelled
  split
  · split
    · exact ⟨o.move, o.queue, rfl⟩
    · exact ⟨_, _, rfl⟩
  · exact ⟨o.move, o.queue, rfl⟩

@[simp] theorem evicting_evictionCancelled (o : Obj) : evicting (evictionCancelled o) = false := by
  unfold evictionCancelled
  split
  · next m hm =>
    split
    · next hle => simp only [evicting, hm, decide_eq_false hle.not_gt]
    · rfl
  · next hm => simp only [evicting, hm]

section
variable {id : W64} {o : Obj} {s : State} (ho : objOf id s = some o)
include ho

theorem objOf_cancelEviction : objOf id (cancelEviction o s) = some (evictionCancelled o) := by
  obtain rfl := id_of_objOf ho
  cases hm : o.move with
  | none => simpa only [cancelEviction, evictionCancelled, hm] using ho
  | some m =>
    simp only [cancelEviction, evictionCancelled, hm]
    by_cases hle : m.dst ≤ m.src
    · simpa only [if_pos hle] using ho
    · have hmod : objOf o.id (modObj o.id (fun x => { x with move := none, queue := ⟨m.dst, m.cmd, m.place⟩ :: x.queue }) s) =
          some { o with move := none, queue := ⟨m.dst, m.cmd, m.place⟩ :: o.queue } :=
        objOf_modObj_some ho fun _ => rfl
      simp only [if_neg hle]
      split
      · split
        · exact hmod
        · exact (objOf_congr o.id (defer_objs ..)).trans hmod
      · exact hmod

theorem objOf_cancelEvictionOf : objOf id (cancelEvictionOf id s) = some (evictionCancelled o) := by
  simp only [cancelEvictionOf, ho, objOf_cancelEviction ho]

end

end Sys2Proof.Machine
end

section
/-! Objects are created, destroyed, pinned and unpinned (O26). -/

namespace Sys2Proof.Machine

section
variable {h : Hdr} {id : W64} {s : State}

/-! ### `OBJ_CREATE` (R316, R317) -/

/-- A new object: nothing pins it, moves it or waits for it. -/
def newObj (id : W64) (job : W32) (size tier loc : Nat) : Obj :=
  { id := id, job := job, size := size, tier := tier, loc := loc, flash := [], backed := tier == 2, dirty := [], userPins := 0,
    holds := 0, queue := [], move := none, promos := [], damaged := false, kept := false }

/-- What the checks of `OBJ_CREATE` say of an object that may be made. -/
theorem createStatus_passed {size tier : Nat} {job : W32} {j : Job} (hc : createStatus id size tier job s = none)
    (hj : jobOf job s = some j) : objOf id s = none ∧ (tier = 0 → (findLpddr s j.sector id size).isSome = true) ∧
      (tier = 1 → (findHost s j.hostPool size).isSome = true) := by
  simp only [createStatus, hj] at hc
  split at hc
  · cases hc
  split at hc
  · cases hc
  next hnew =>
    split at hc
    · cases hc
    split at hc
    · cases hc
    refine ⟨?_, ?_, ?_⟩
    · simpa using fun hsome => hnew (Or.inr hsome)
    · rintro rfl
      simpa [Option.isSome_iff_ne_none] using hc
    · rintro rfl
      simpa [Option.isSome_iff_ne_none] using hc

/-- An object that passes the checks is made in its tier. -/
theorem objCreateBody_creates {size tier : Nat} {job : W32} {j : Job} (hc : createStatus id size tier job s = none)
    (hj : jobOf job s = some j) :
    ∃ loc u, objCreateBody h id size tier job s = complete h stOk (leBytes 8 (if tier = 0 then loc else 0)) u ∧
      (objOf id u).map undirtied = some (newObj id job size tier loc) ∧
      (tier = 0 → findLpddr s j.sector id size = some loc) ∧ (tier = 1 → findHost s j.hostPool size = some loc) := by
  obtain ⟨hnone, hlpddr, hhost⟩ := createStatus_passed hc hj
  have hmade {v : State} (hv : v.objs.map undirtied = s.objs.map undirtied) (loc : Nat) :
      (objOf id (writeJobRecord job { v with objs := v.objs ++ [newObj id job size tier loc] })).map undirtied =
        some (newObj id job size tier loc) := by
    have hvn : objOf id v = none := by
      rw [← Option.map_eq_none_iff (f := undirtied), map_undirtied hv, hnone]
      rfl
    rw [map_undirtied (undirtied_writeJobRecord ..), objOf_append hvn rfl]
    rfl
  simp only [objCreateBody, hc, hj]
  match tier with
  | 0 =>
    obtain ⟨loc, hloc⟩ := Option.isSome_iff_exists.1 (hlpddr rfl)
    refine ⟨loc, _, ?_, hmade (undirtied_zeroRange loc (extLen size) s) loc, fun _ => hloc, nofun⟩
    simp only [hloc]
    rfl
  | 1 =>
    obtain ⟨loc, hloc⟩ := Option.isSome_iff_exists.1 (hhost rfl)
    refine ⟨loc, _, ?_, hmade (v := { s with hostMem := sclear s.hostMem (loc - hostBase) (extLen size) }) rfl loc, nofun,
      fun _ => hloc⟩
    simp only [hloc]
    rfl
  | n + 2 =>
    refine ⟨0, _, rfl, (congrArg _ (objOf_ftlDrop_ite ..)).trans (hmade rfl 0), nofun, nofun⟩

/-! ### `OBJ_DESTROY` (R320, R326) -/

/-- An object that nothing holds is removed. -/
theorem objDestroyBody_removes {o : Obj} (ho : objOf id s = some o) (hphase : (jobOf o.job s).map (·.phase) ≠ some .parked)
    (hpins : pinCount o = 0) (hmove : o.move = none) (hqueue : o.queue = [])
    (hsched : ∀ x, (jobOf o.job s).bind (·.sched) = some x → x.entries.all (fun e => e.obj != id) = true)
    (hnamed : namedIn layoutObjs o s = false) (hflash : o.backed = true → s.flash.present = true) :
    ∃ u, objDestroyBody h id s = complete h stOk [] u ∧ objOf id u = none := by
  have hgone : objOf id (writeJobRecord o.job (if o.backed = true then
      ftlDrop (.obj id) { s with objs := s.objs.filter fun x => x.id != id }
      else { s with objs := s.objs.filter fun x => x.id != id })) = none := by
    rw [← Option.map_eq_none_iff (f := undirtied), map_undirtied (undirtied_writeJobRecord ..), Option.map_eq_none_iff,
      objOf_ftlDrop_ite, objOf_removed]
  simp only [objDestroyBody, ho]
  rw [if_neg ?parked, if_neg ?held, if_neg ?flash]
  · exact ⟨_, rfl, hgone⟩
  case parked =>
    intro hp
    split at hp
    · next j hj => exact hphase (hj ▸ congrArg some (eq_of_beq hp))
    · cases hp
  case held =>
    rintro (hbad | hbad | hbad | hbad | hbad)
    · exact hbad hpins
    · rw [hmove] at hbad
      cases hbad
    · rw [hqueue] at hbad
      cases hbad
    · split at hbad
      · next x hx =>
        obtain ⟨e, hmem, heq⟩ := List.any_eq_true.1 hbad
        exact bne_iff_ne.1 (List.all_eq_true.1 (hsched x hx) e hmem) (eq_of_beq heq)
      · cases hbad
    · rw [hnamed] at hbad
      cases hbad
  case flash => exact flash_not_missing hflash

/-! ### `OBJ_PIN` and `OBJ_UNPIN` (R322, R323) -/

section
variable {o : Obj} (ho : objOf id s = some o) (hk : keptOnly o s = false)
include ho hk

/-- A pin counts, and an eviction in progress is cancelled. -/
theorem objPinBody_pins (hd : o.damaged = false) (hp : o.userPins < 65535) :
    ∃ u, objPinBody h id s = complete h stOk (leBytes 4 (pinCount o + 1)) u ∧
      (objOf id u).map (fun x => (x.userPins, evicting x)) = some (o.userPins + 1, false) := by
  have hpinned : objOf id (modObj id (fun x => { x with userPins := x.userPins + 1 }) s) =
      some { o with userPins := o.userPins + 1 } := objOf_modObj_some ho fun _ => rfl
  have hcount : pinCount { o with userPins := o.userPins + 1 } = pinCount o + 1 := Nat.add_right_comm ..
  simp only [objPinBody, ho, hk, if_neg (Bool.eq_false_iff.1 hd), hp.not_ge, if_false, Bool.false_eq_true, hpinned, pinResult, hcount]
  refine ⟨_, rfl, ?_⟩
  obtain ⟨m, q, he⟩ := evictionCancelled_eq { o with userPins := o.userPins + 1 }
  rw [objOf_cancelEviction hpinned, Option.map_some, evicting_evictionCancelled, he]

/-- A pin is taken back. -/
theorem objUnpinBody_unpins (hp : 0 < o.userPins) :
    ∃ u, objUnpinBody h id s = complete h stOk (leBytes 4 (pinCount o - 1)) u ∧
      (objOf id u).map (·.userPins) = some (o.userPins - 1) := by
  have hunpinned : objOf id (modObj id (fun x => { x with userPins := x.userPins - 1 }) s) =
      some { o with userPins := o.userPins - 1 } := objOf_modObj_some ho fun _ => rfl
  have hcount : pinCount { o with userPins := o.userPins - 1 } = pinCount o - 1 := (Nat.sub_add_comm hp).symm
  simp only [objUnpinBody, ho, hk, hp.ne', or_self, if_false, Bool.false_eq_true, hunpinned, pinResult, hcount]
  exact ⟨_, rfl, by rw [hunpinned]; rfl⟩

end
end

@[simp] theorem keptOnly_startCmd (o : Obj) (h : Hdr) (s : State) : keptOnly o (startCmd h s) = keptOnly o s :=
  get_startCmd (get := keptOnly o) (fun _ _ => rfl) h s

@[simp] theorem namedIn_startCmd (f : Layout → List W64) (o : Obj) (h : Hdr) (s : State) :
    namedIn f o (startCmd h s) = namedIn f o s :=
  get_startCmd (get := namedIn f o) (fun _ _ => rfl) h s

/-- Settles O26: each command past its checks, by the lemmas above. -/
theorem objectsCreateDestroyPin : Obligations.ObjectsCreateDestroyPin := by
  unfold Obligations.ObjectsCreateDestroyPin
  intro h id s s'
  refine ⟨fun size tier job j ha hc hj => ?create, fun o ho => ?_⟩
  case create =>
    obtain ⟨loc, u, hbody, hnew, hlpddr, hhost⟩ := objCreateBody_creates (h := h) hc ((jobOf_startCmd ..).trans hj)
    refine ⟨loc, u, _, (exec_accepted rfl ha).trans (congrArg _ hbody), rfl, ?_, ?_, hlpddr, hhost⟩
    · rw [objOf_congr id (complete_objs ..)]
      exact map_of_undirtied (fun _ => rfl) hnew
    · rw [objOf_congr id (complete_objs ..)]
      exact map_of_undirtied (fun _ => rfl) hnew
  have hstart : objOf id s' = some o := (objOf_startCmd ..).trans ho
  refine ⟨fun ha hphase hpins hmove hqueue hsched hnamed hflash => ?destroy,
    fun hk => ⟨fun ha hd hp => ?pin, fun ha hp => ?unpin⟩⟩
  case destroy =>
    obtain ⟨u, hbody, hgone⟩ := objDestroyBody_removes (h := h) hstart (by rwa [jobOf_startCmd]) hpins hmove hqueue
      (by rwa [jobOf_startCmd]) (by rwa [namedIn_startCmd]) (by rwa [startCmd_flash])
    exact ⟨u, _, (exec_accepted rfl ha).trans (congrArg _ hbody), rfl, (objOf_congr id (complete_objs ..)).trans hgone⟩
  case pin =>
    obtain ⟨u, hbody, hpinned⟩ := objPinBody_pins (h := h) hstart ((keptOnly_startCmd ..).trans hk) hd hp
    exact ⟨u, _, (exec_accepted rfl ha).trans (congrArg _ hbody), rfl, by rw [objOf_congr id (complete_objs ..), hpinned]⟩
  case unpin =>
    obtain ⟨u, hbody, hunpinned⟩ := objUnpinBody_unpins (h := h) hstart ((keptOnly_startCmd ..).trans hk) hp
    exact ⟨u, _, (exec_accepted rfl ha).trans (congrArg _ hbody), rfl, by rw [objOf_congr id (complete_objs ..), hunpinned]⟩

end Sys2Proof.Machine
end

section
/-! Objects move between tiers (O27): `OBJ_PROMOTE`, `OBJ_EVICT`, the eviction queue, and the two ends of a move. -/

namespace Sys2Proof.Machine

/-! ### What the start of a command leaves -/

@[simp] theorem jobArmed_startCmd (job : W32) (h : Hdr) (s : State) : jobArmed job (startCmd h s) = jobArmed job s :=
  get_startCmd (get := jobArmed job) (fun _ _ => rfl) h s

/-! ### `OBJ_PROMOTE` (R317, R322, R342) -/

theorem cancelEviction_flash (o : Obj) (s : State) : (cancelEviction o s).flash = s.flash := by
  unfold cancelEviction
  split
  · split
    · rfl
    · split
      · split
        · rfl
        · exact defer_flash ..
      · rfl
  · rfl

@[simp] theorem cancelEvictionOf_flash (id : W64) (s : State) : (cancelEvictionOf id s).flash = s.flash := by
  unfold cancelEvictionOf
  split
  · exact cancelEviction_flash ..
  · rfl

/-- The state with the user pin of an `OBJ_PROMOTE` with `PIN`. -/
def pinAdded (id : W64) (pin : Bool) (s : State) : State :=
  if pin then modObj id (fun x => { x with userPins := x.userPins + 1 }) s else s

@[simp] theorem pinAdded_flash (id : W64) (pin : Bool) (s : State) : (pinAdded id pin s).flash = s.flash := by
  unfold pinAdded
  split <;> rfl

section
variable {h : Hdr} {id : W64} {o : Obj} {s : State} (ho : objOf id s = some o)
include ho

theorem objOf_pinAdded (pin : Bool) : objOf id (pinAdded id pin s) = some { o with userPins := o.userPins + bit pin } := by
  cases pin
  · exact ho
  · exact objOf_modObj_some ho fun _ => rfl

/-- The object that a promotion acts on: as it was, but for the pin and for what the cancelled eviction leaves. -/
theorem objOf_promotedFrom (pin : Bool) : ∃ m q, objOf id (cancelEvictionOf id (pinAdded id pin s)) =
    some { o with userPins := o.userPins + bit pin, move := m, queue := q } := by
  obtain ⟨m, q, he⟩ := evictionCancelled_eq { o with userPins := o.userPins + bit pin }
  exact ⟨m, q, (objOf_cancelEvictionOf (objOf_pinAdded ho pin)).trans (congrArg some he)⟩

theorem promoteResident_stays {u : Nat} (hu : o.tier ≤ u) (pin : Bool) :
    promoteResident h id u pin s = complete h stOk (promoteResult o) s := by
  simp only [promoteResident, ho, if_pos hu]

theorem promoteResident_moves {u d : Nat} (hu : u < o.tier) (hf : o.tier = 2 → s.flash.present = true)
    (hd : moveDest s o u = some d) (pin : Bool) :
    promoteResident h id u pin s = startMove id ⟨o.tier, u, d, some h, false, pin, 0⟩ s := by
  simp only [promoteResident, ho, if_neg hu.not_ge, if_neg (flash_not_missing hf), hd]

section
variable {tier flags : Nat} (ht : tier ≤ 2) (hfl : flags ≤ 1) (hk : keptOnly o s = false) (hd : o.damaged = false)
  (ha : ¬(jobArmed o.job s = true ∧ namedIn (fun l => layoutShardObjs l ++ layoutMomentObjs l) o s = true))
  (hp : decide (flags = 1) = true → o.userPins < 65535)
include ht hfl hk hd ha hp

/-- A promotion that passes its checks waits for one that is under way, or else acts on the object once no eviction of it runs. -/
theorem objPromoteBody_acts : objPromoteBody h id tier flags s =
    if promoting o then modObj id (fun x => { x with promos := x.promos ++ [(some h, tier, decide (flags = 1))] })
      (pinAdded id (decide (flags = 1)) s)
    else promoteResident h id tier (decide (flags = 1)) (cancelEvictionOf id (pinAdded id (decide (flags = 1)) s)) := by
  have hargs : ¬(2 < tier ∨ 1 < flags) := by omega
  have hpin : (flags % 2 = 1) = (flags = 1) := by simp only [Nat.mod_eq_of_lt (Nat.lt_succ_of_le hfl)]
  have hroom : ¬(decide (flags = 1) = true ∧ 65535 ≤ o.userPins) := fun ⟨hone, hfull⟩ => (hp hone).not_ge hfull
  simp only [objPromoteBody, if_neg hargs, ho, hpin, hk, if_neg ha, if_neg (Bool.eq_false_iff.1 hd), if_neg hroom, pinAdded, if_false,
    Bool.false_eq_true]

end

/-! ### `OBJ_EVICT` (R323, R342) -/

section
variable {tier : Nat} (ht : tier ≤ 2) (hk : keptOnly o s = false) (hd : o.damaged = false)
  (hn : namedIn layoutShardObjs o s = false) (ha : ¬(jobArmed o.job s = true ∧ namedIn layoutMomentObjs o s = true))
  (hf : tier = 2 → s.flash.present = true)
include ht hk hd hn ha hf

/-- An eviction that passes its checks, by what the object does and where it lies. -/
theorem objEvictBody_acts : objEvictBody h id tier s =
    if o.move.isSome = true ∨ (o.tier < tier ∧ (pinCount o ≠ 0 ∨ o.queue ≠ [])) then
      defer h (pinResult o) (modObj id (fun x => { x with queue := queueIn ⟨tier, some h, placeOf h s⟩ x.queue }) s)
    else if tier ≤ o.tier then complete h stOk (pinResult o) s
    else ((moveDest s o tier).map fun d => startMove id ⟨o.tier, tier, d, some h, false, false, placeOf h s⟩ s).getD
      (complete h stNoSpace [] s) := by
  have hqueue : ((!o.queue.isEmpty) = true) = (o.queue ≠ []) := by simp
  simp only [objEvictBody, if_neg ht.not_gt, ho, hk, hn, hqueue, if_neg ha, if_neg (Bool.eq_false_iff.1 hd),
    if_neg (flash_not_missing hf), false_or, if_false, Bool.false_eq_true]
  by_cases hmove : o.move.isSome = true
  · rw [if_pos hmove, if_pos (Or.inl hmove)]
  by_cases hle : tier ≤ o.tier
  · rw [if_neg hmove, if_pos hle, if_neg (not_or.2 ⟨hmove, fun hw => hle.not_gt hw.1⟩), if_pos hle]
  by_cases hw : pinCount o ≠ 0 ∨ o.queue ≠ []
  · rw [if_neg hmove, if_neg hle, if_pos hw, if_pos (Or.inr ⟨Nat.lt_of_not_le hle, hw⟩)]
  · rw [if_neg hmove, if_neg hle, if_neg hw, if_neg (not_or.2 ⟨hmove, fun h => hw h.2⟩), if_neg hle]
    cases moveDest s o tier <;> rfl

end

/-! ### The eviction queue (R323) -/

theorem exec_evictionDequeue : exec (.evictionDequeue id) s = .next (dequeue (o.queue.length + 1) id s) := by
  simp only [exec, execEvictionDequeue, ho]

theorem dequeue_idle (hi : o.queue = [] ∨ pinCount o ≠ 0 ∨ o.move.isSome = true) (n : Nat) : dequeue (n + 1) id s = s := by
  simp only [dequeue, ho]
  split
  · rfl
  · next hq => exact if_pos (hi.resolve_left fun h0 => by rw [h0] at hq; cases hq)

section
variable {e : EvEntry} {r : List EvEntry} (hq : o.queue = e :: r) (hp : pinCount o = 0) (hm : o.move = none)
  (hn : namedIn layoutShardObjs o s = false) (hr : residenceHeld o s = false)
include hq hp hm hn hr

/-- An eviction of an object that lies low enough ends, and the next one is taken. -/
theorem dequeue_low (hl : e.target ≤ o.tier) (n : Nat) : dequeue (n + 1) id s =
    dequeue n id (answerEntry e stOk (pinResult o) (modObj id (fun x => { x with queue := r }) s)) := by
  simp only [dequeue, ho, hq, hp, hm, hn, hr, if_pos hl, Option.isSome_none, Bool.false_eq_true, ne_eq, not_true_eq_false, or_self,
    if_false]

/-- The oldest eviction starts its move down. -/
theorem dequeue_moves {d : Nat} (hl : o.tier < e.target) (hf : e.target = 2 → s.flash.present = true)
    (hd : moveDest (modObj id (fun x => { x with queue := r }) s) o e.target = some d) (n : Nat) : dequeue (n + 1) id s =
      startMove id ⟨o.tier, e.target, d, e.cmd, true, false, e.place⟩ (modObj id (fun x => { x with queue := r }) s) := by
  simp only [dequeue, ho, hq, hp, hm, hn, hr, if_neg hl.not_ge, if_neg (flash_not_missing hf), hd, Option.isSome_none,
    Bool.false_eq_true, ne_eq, not_true_eq_false, or_self, if_false]

end
end

/-! ### The switch of a move (R321) -/

theorem programExtent_objs (p : State × List FtlEnt) (o : FtlOwner) (ext : Nat) : (programExtent p o ext).1.objs = p.1.objs := by
  unfold programExtent
  split <;> rfl

@[simp] theorem ftlWrite_objs (o : FtlOwner) (exts : List Nat) (s : State) : (ftlWrite o exts s).objs = s.objs :=
  (commitFlash_objs ..).trans (List.foldlRecOn (motive := fun q : State × List FtlEnt => q.1.objs = s.objs) exts _ rfl
    fun q hq ext _ => (programExtent_objs q o ext).trans hq)

@[simp] theorem flashWrote_objs (n : Nat) (s : State) : (flashWrote n s).objs = s.objs := rfl

/-- What the object of a move is once its destination is the residence. -/
theorem settleMove_residence {o x : Obj} {m : Move} {c : List Host.Cell} {t : State} (hd : m.dst ≤ 2)
    (hx : objOf o.id (settleMove o m c t) = some x) :
    (x.tier, x.loc, x.move) = (m.dst, if m.dst = 2 then 0 else m.destLoc, none) := by
  unfold settleMove at hx
  dsimp only at hx
  split at hx
  · next h0 =>
    obtain ⟨y, rfl⟩ := exists_of_objOf_modObj hx fun _ => rfl
    rw [h0]
    rfl
  · next h1 =>
    rw [objOf_ftlDrop_ite] at hx
    obtain ⟨y, rfl⟩ := exists_of_objOf_modObj hx fun _ => rfl
    rw [h1]
    rfl
  · next h0 h1 =>
    rw [objOf_congr o.id (ftlWrite_objs ..), objOf_congr o.id (flashWrote_objs ..)] at hx
    obtain ⟨y, rfl⟩ := exists_of_objOf_modObj hx fun _ => rfl
    rw [Nat.le_antisymm hd ((Nat.two_le_iff _).2 ⟨h0, h1⟩)]
    rfl

section
variable {id : W64} {o : Obj} {m : Move} {s : State} (ho : objOf id s = some o) (hm : o.move = some m)
include ho hm

/-- A move whose object may change its residence switches, ends its command, and lets the promotions that waited act. -/
theorem switchMove_switches {t : State} {c : List Host.Cell} {x : Obj} (hr : residenceHeld o s = false)
    (hc : moveContent o m s = (t, some c)) (hx : objOf id (settleMove o m c t) = some x) :
    switchMove id s = o.promos.foldl (actPromo id) (holdersSee id stOk ((m.cmd.map fun h =>
      complete h stOk (if m.dst < m.src then promoteResult x else pinResult x) (settleMove o m c t)).getD (settleMove o m c t))) := by
  simp only [switchMove, ho, hm, hr, hc, hx, if_false, Bool.false_eq_true]
  cases m.cmd <;> rfl

end

/-! ### A move that fails (R325) -/

@[simp] theorem undirtied_setEntry (job : W32) (i : Nat) (g : SchedEnt → SchedEnt) (s : State) :
    (setEntry job i g s).objs.map undirtied = s.objs.map undirtied := by
  unfold setEntry
  dsimp only
  split
  · split
    · rw [undirtied_writeBytes, modJob_objs]
    · rfl
  · rfl

@[simp] theorem undirtied_setHolders (id : W64) (g : SchedEnt → SchedEnt) (s : State) :
    (setHolders id g s).objs.map undirtied = s.objs.map undirtied := by
  refine get_foldl_of_step (get := fun t => t.objs.map undirtied) (fun t j => ?_) _ _
  split
  · refine List.foldlRecOn (motive := fun p : State × Nat => p.1.objs.map undirtied = t.objs.map undirtied) _ _ rfl
      fun p hp e _ => ?_
    dsimp only
    split
    · rw [undirtied_setEntry, hp]
    · exact hp
  · rfl

@[simp] theorem undirtied_holdersSee (id : W64) (code : W16) (s : State) :
    (holdersSee id code s).objs.map undirtied = s.objs.map undirtied := by
  unfold holdersSee
  dsimp only
  split
  · split
    · exact undirtied_setHolders ..
    · split
      · exact undirtied_setHolders ..
      · rfl
  · exact undirtied_setHolders ..

section
variable {id : W64} {o : Obj} {m : Move} {s : State} (ho : objOf id s = some o)
include ho

theorem objOf_dropPin (pin : Bool) (st : W16) :
    objOf id (dropPin id pin st s) = some { o with userPins := o.userPins - bit (pin && noEffect st) } := by
  unfold dropPin
  split
  · next hb => rw [hb]; exact objOf_modObj_some ho fun _ => rfl
  · next hb => rw [Bool.eq_false_of_not_eq_true hb]; exact ho

variable (hm : o.move = some m)
include hm

/-- The object of a failed move that no promotion waits for: where it was, without the move and without the pin of its promotion. -/
theorem failMove_leaves (hp : o.promos = []) (st : W16) (dmg : Bool) :
    (objOf id (failMove id st dmg s)).map undirtied = some (undirtied { o with
      move := none, promos := [], damaged := o.damaged || dmg,
      userPins := o.userPins - bit (m.cmd.isSome && m.pin && noEffect st) }) := by
  have ht : objOf id (modObj id (fun x => { x with move := none, promos := [], damaged := x.damaged || dmg }) s) =
      some { o with move := none, promos := [], damaged := o.damaged || dmg } := objOf_modObj_some ho fun _ => rfl
  cases hcmd : m.cmd with
  | none =>
    simp only [failMove, ho, hm, hcmd, hp, List.foldl_nil]
    split
    · rw [map_undirtied (undirtied_holdersSee ..), ht]
      rfl
    · rw [ht]
      rfl
  | some h =>
    simp only [failMove, ho, hm, hcmd, hp, List.foldl_nil]
    rw [objOf_congr id (complete_objs ..), objOf_dropPin ht]
    rfl

theorem exec_moveFail_memUncorr (h0 : o.tier = 0) : exec (.moveFail id .memUncorr) s = .next (failMove id stMemUncorr false s) := by
  simp only [exec, execMoveFail, ho, hm, Option.isNone_some, Bool.false_eq_true, if_false, if_pos h0]

/-- A page of flash that cannot be read counts as evidence too. -/
theorem exec_moveFail_flashUnreadable (h2 : o.tier = 2) :
    exec (.moveFail id .flashUnreadable) s = .next (failMove id stMemUncorr true (evidence 0x1A 1 s)) := by
  simp only [exec, execMoveFail, ho, hm, Option.isNone_some, Bool.false_eq_true, if_false, if_pos h2]

theorem exec_moveFail_elsewhere : exec (.moveFail id .hostAccess) s = .next (failMove id stHostAccess false s) ∧
    exec (.moveFail id .noSpace) s = .next (failMove id stNoSpace false s) ∧
    exec (.moveFail id .degraded) s = .next (failMove id stDegraded false s) := by
  simp only [exec, execMoveFail, ho, hm, Option.isNone_some, Bool.false_eq_true, if_false, and_self]

end

/-- Settles O27: each command past its checks, and each end of a move by its own rule. -/
theorem objectsMoveBetweenTiers : Obligations.ObjectsMoveBetweenTiers := by
  unfold Obligations.ObjectsMoveBetweenTiers
  intro h id o s ho s'
  have hstart : objOf id s' = some o := (objOf_startCmd ..).trans ho
  refine ⟨fun tier flags ht hk hd => ⟨fun ha hfl => ?promote, fun ha hn hm hf => ?evict⟩, fun hi => ?idle,
    fun e r hq hp hm hn hr => ?queued, fun m hm => ⟨fun t c x hdst hr hc => ?switch, ?fail⟩⟩
  case promote =>
    intro pin hheld hroom t v
    have hbody : exec (.objPromote h id tier flags) s = .next _ := (exec_accepted rfl ha).trans (congrArg _ (objPromoteBody_acts
      (h := h) hstart ht hfl ((keptOnly_startCmd ..).trans hk) hd (by rwa [jobArmed_startCmd, namedIn_startCmd]) hroom))
    obtain ⟨m, q, hv⟩ := objOf_promotedFrom hstart pin
    rw [hbody]
    refine ⟨fun hpr => congrArg _ (if_pos hpr), fun hpr hle => ?_, fun d hpr hlt hf hdest => ?_⟩
    · rw [if_neg (Bool.eq_false_iff.1 hpr), promoteResident_stays hv hle, promoteResult]
      have hcount : pinCount { o with userPins := o.userPins + bit pin, move := m, queue := q } = pinCount o + bit pin :=
        Nat.add_right_comm ..
      rw [hcount]
      rfl
    · rw [if_neg (Bool.eq_false_iff.1 hpr), promoteResident_moves hv hlt (by simpa [s'] using hf) hdest]
      rfl
  case evict =>
    intro e
    have hbody : exec (.objEvict h id tier) s = .next _ := (exec_accepted rfl ha).trans (congrArg _ (objEvictBody_acts (h := h) hstart
      ht ((keptOnly_startCmd ..).trans hk) hd ((namedIn_startCmd ..).trans hn) (by rwa [jobArmed_startCmd, namedIn_startCmd])
      (by rwa [startCmd_flash])))
    rw [hbody]
    refine ⟨fun hw => congrArg _ (if_pos hw), fun hmove hle => ?_, fun d hmove hlt hpins hqueue hdest => ?_⟩
    · have hnow : ¬(o.move.isSome = true ∨ (o.tier < tier.toNat ∧ (pinCount o ≠ 0 ∨ o.queue ≠ []))) := by
        simp [hmove, hle.not_gt]
      rw [if_neg hnow, if_pos hle]
      rfl
    · have hnow : ¬(o.move.isSome = true ∨ (o.tier < tier.toNat ∧ (pinCount o ≠ 0 ∨ o.queue ≠ []))) := by
        simp [hmove, hpins, hqueue]
      rw [if_neg hnow, if_neg hlt.not_ge, hdest]
      rfl
  case idle => exact (exec_evictionDequeue ho).trans (congrArg _ (dequeue_idle ho hi _))
  case queued =>
    intro t
    rw [exec_evictionDequeue ho, hq]
    exact ⟨fun hl => congrArg _ (dequeue_low ho hq hp hm hn hr hl _),
      fun d hl hf hd => congrArg _ (dequeue_moves ho hq hp hm hn hr hl hf hd _)⟩
  case switch =>
    intro v hx u
    obtain rfl := id_of_objOf ho
    exact ⟨settleMove_residence hdst hx, congrArg _ (switchMove_switches ho hm hr hc hx)⟩
  case fail =>
    intro left
    have hleft (st : W16) (dmg : Bool) : left st dmg := by
      have hu (hp : o.promos = []) := failMove_leaves ho hm hp st dmg
      refine fun hp => ⟨map_of_undirtied (fun _ => rfl) (hu hp), fun hcmd => ?_⟩
      rw [map_of_undirtied (F := (·.userPins)) (fun _ => rfl) (hu hp), hcmd]
      rfl
    obtain ⟨hhost, hspace, hdeg⟩ := exec_moveFail_elsewhere ho hm
    exact ⟨exec_moveFail_memUncorr ho hm, hleft _ _, exec_moveFail_flashUnreadable ho hm, hleft _ _, hhost, hspace, hdeg⟩

end Sys2Proof.Machine
end

section
/-! Votes, settles and aborts of a step (O19, O20, O21). -/

namespace Sys2Proof.Machine

/-! ### The decision (R363) -/

theorem spoils_eq_false_iff (x : VoteRec) :
    spoils x = false ↔ x.forced = false ∧ x.nonfinite = false ∧ x.staged = true := by
  simp only [spoils, Bool.or_eq_false_iff, Bool.not_eq_false', and_assoc]

theorem clash_eq_false_iff (x y : VoteRec) : clash x y = false ↔
    x.epoch = y.epoch ∧ x.members = y.members ∧ x.microBatches = y.microBatches ∧ x.tDetectUs = y.tDetectUs ∧
      (x.generation ≠ 0xFFFFFFFFFFFFFFFF → y.generation ≠ 0xFFFFFFFFFFFFFFFF → x.generation = y.generation) ∧
      (x.replicaGroup = y.replicaGroup → x.replicaGroup ≠ 0xFFFF → x.digest = y.digest) := by
  simp only [clash, Bool.or_eq_false_iff, bne_eq_false_iff_eq, Bool.and_eq_false_imp, Bool.and_eq_true, bne_iff_ne, beq_iff_eq,
    and_imp, and_assoc]

theorem decideCommit_iff (vs : List VoteRec) :
    decideCommit vs = true ↔ (∀ v ∈ vs, spoils v = false) ∧ ∀ v ∈ vs, ∀ w ∈ vs, clash v w = false := by
  simp only [decideCommit, certainSkip, Bool.not_eq_true', Bool.or_eq_false_iff, List.any_eq_false, Bool.not_eq_true]

/-- Settles O19: each record alone, and each two records, are judged as R363 says, and a list holds its records whatever their order. -/
theorem decisionFollowsTheRecords : Obligations.DecisionFollowsTheRecords := by
  unfold Obligations.DecisionFollowsTheRecords
  constructor
  · intro vs
    simp only [decideCommit_iff, spoils_eq_false_iff, clash_eq_false_iff]
  · intro vs ws h
    rw [Bool.eq_iff_iff, decideCommit_iff, decideCommit_iff]
    simp only [h.mem_iff]

/-! ### Sending leaves of a job all but its streams -/

/-- A job without its streams and its schedule. -/
def unstreamed (j : Job) : Job := { j with streams := [], sched := none }

section
variable {p : Job → Job} (hp : ∀ j x, p { j with streams := x } = p j)
include hp

theorem jobsBy_modStream (job : W32) (peer : W16) (onMgmt : Bool) (g : Stream → Stream) (s : State) :
    jobsBy p (modStream job peer onMgmt g s) = jobsBy p s :=
  jobsBy_modJob (fun j => by dsimp only; split <;> exact hp j _) job s

theorem jobsBy_sendOn (j : Job) (peer : W16) (onMgmt : Bool) (avoid : Option (Fin 8)) (kind : BitVec 4) (h : ChordHdr)
    (payload : List Byte) (s : State) : jobsBy p (sendOn j peer onMgmt avoid kind h payload s) = jobsBy p s := by
  unfold sendOn
  split
  · rfl
  · split
    · rw [jobsBy_modStream hp, jobsBy, sendVia_jobs, jobsBy]
    · rfl

theorem jobsBy_sendPlain (job : W32) (peer : W16) (onMgmt : Bool) (kind : BitVec 4) (step : W64) (coll : W32) (offset : Nat)
    (payload : List Byte) (s : State) : jobsBy p (sendPlain job peer onMgmt kind step coll offset payload s) = jobsBy p s := by
  unfold sendPlain
  split
  · rfl
  · exact jobsBy_sendOn hp ..

theorem jobsBy_pumpStream (fuel : Nat) (job : W32) (peer : W16) (onMgmt : Bool) (s : State) :
    jobsBy p (pumpStream fuel job peer onMgmt s) = jobsBy p s := by
  induction fuel generalizing s with
  | zero => rfl
  | succ fuel ih =>
    unfold pumpStream
    split
    · rfl
    · dsimp only
      split
      · rfl
      · split
        · rfl
        · rw [ih, jobsBy_modStream hp, jobsBy_sendOn hp]

theorem jobsBy_sendSeq (job : W32) (peer : W16) (onMgmt : Bool) (kind : BitVec 4) (step : W64) (coll : W32) (offset : Nat)
    (final : Bool) (payload : List Byte) (s : State) :
    jobsBy p (sendSeq job peer onMgmt kind step coll offset final payload s) = jobsBy p s := by
  unfold sendSeq
  split
  · rfl
  · exact (jobsBy_pumpStream hp ..).trans (jobsBy_modStream hp ..)

end

@[simp] theorem sendAll_jobs (job : W32) (peer : W16) (kind : BitVec 4) (step : W64) (payload : List Byte) (s : State) :
    (sendAll job peer kind step payload s).jobs = s.jobs := by
  unfold sendAll
  split
  · rfl
  · exact List.foldlRecOn (motive := fun t : State => t.jobs = s.jobs) _ _ rfl fun t ht a _ => (sendVia_jobs ..).trans ht

/-- Steps that each keep the jobs as far as `p` tells keep them so together. -/
theorem jobsBy_foldl {α : Type} {p : Job → Job} {g : State → α → State} (hg : ∀ t a, jobsBy p (g t a) = jobsBy p t) (l : List α)
    (s : State) : jobsBy p (l.foldl g s) = jobsBy p s :=
  List.foldlRecOn (motive := fun t : State => jobsBy p t = jobsBy p s) l g rfl fun t ht a _ => (hg t a).trans ht

theorem jobsBy_unstreamed_sendRecord (job : W32) (v : VoteRec) (confirm : Bool) (s : State) :
    jobsBy unstreamed (sendRecord job v confirm s) = jobsBy unstreamed s := by
  have hseq (peer : W16) (onMgmt : Bool) (t : State) :
      jobsBy unstreamed (sendSeq job peer onMgmt ptVote v.step 0 0 false (voteBytes v confirm) t) = jobsBy unstreamed t :=
    jobsBy_sendSeq (fun _ _ => rfl) ..
  unfold sendRecord
  split
  · rfl
  · refine jobsBy_foldl (fun t peer => ?_) _ s
    dsimp only
    split
    · exact hseq ..
    · exact (hseq ..).trans (hseq ..)

theorem jobsBy_unstreamed_floodToken (job : W32) (lay : Layout) (step : W64) (tok : AbortTok) (s : State) :
    jobsBy unstreamed (floodToken job lay step tok s) = jobsBy unstreamed s := by
  refine jobsBy_foldl (fun t peer => ?_) _ s
  rw [jobsBy_sendPlain fun _ _ => rfl, jobsBy, sendAll_jobs, jobsBy]

theorem jobsBy_unstreamed_failGathers (job : W32) (s : State) :
    jobsBy unstreamed (failGathers job s) = jobsBy unstreamed s := by
  unfold failGathers
  split
  · rfl
  · split
    · exact jobsBy_foldl (fun t i => jobsBy_writeBytes (fun _ _ => rfl) ..) _ s
    · rfl

/-- A job is found again, but for its streams and its schedule, where the jobs are the same but for these. -/
theorem exists_jobOf_of_unstreamed {job : W32} {j : Job} {s t : State} (hj : jobOf job s = some j)
    (h : jobsBy unstreamed t = jobsBy unstreamed s) : ∃ k, jobOf job t = some k ∧ unstreamed k = unstreamed j := by
  have hmap := map_jobOf_congr (p := unstreamed) (fun _ => rfl) h job
  rw [hj] at hmap
  exact Option.map_eq_some_iff.1 hmap

theorem commit_of_unstreamed {j k : Job} (h : unstreamed k = unstreamed j) : k.commit = j.commit := congrArg (·.commit) h

theorem run_of_unstreamed {j k : Job} (h : unstreamed k = unstreamed j) : k.run = j.run := congrArg (·.run) h

theorem jobOf_modRun (job : W32) (g : StepRun → StepRun) (s : State) :
    jobOf job (modRun job g s) = (jobOf job s).map fun x => { x with run := x.run.map g } :=
  jobOf_modJob (g := fun x => { x with run := x.run.map g }) (fun _ => rfl) s

/-! ### Votes (R361) -/

/-- A member that casts its vote has voted with its own record. -/
theorem run_castVote {job : W32} {j : Job} {r : StepRun} {s : State} (hj : jobOf job s = some j) (hr : j.run = some r) :
    ((jobOf job (castVote job s)).bind (·.run)).map (fun q => (q.st, q.ownVote)) = some (.voted, some (ownRecord s j r)) := by
  have hcount (t : State) : (if (ownRecord s j r).forced then counter 15 1 (evidence 0x17 1 t) else t).jobs = t.jobs := by
    split <;> rfl
  obtain ⟨k, hk, hkj⟩ := exists_jobOf_of_unstreamed hj (jobsBy_unstreamed_sendRecord job (ownRecord s j r) false s)
  have hk' := (jobOf_congr job (hcount (sendRecord job (ownRecord s j r) false s))).trans hk
  simp only [castVote, hj, hr, jobOf_modRun, hk', Option.map_some, Option.bind_some, run_of_unstreamed hkj]

/-! ### Settles (R364 to R366) -/

/-- A step settled COMMIT over records that all carry its generation. -/
theorem jobOf_settleCommit {job : W32} {j : Job} {r : StepRun} {s : State} (hj : jobOf job s = some j) (hr : j.run = some r)
    (hg : r.votes.all (fun v => v.generation == r.gen) = true) :
    ∃ k, jobOf job (settleCommit job s) = some k ∧ (k.run, k.lastStep, k.lastOut) = (none, r.step, 0) ∧
      (k.commit.valid, k.commit.gen, k.commit.step) = (true, r.gen + 1, r.step) := by
  unfold settleCommit
  simp -zeta only [hj, hr]
  extract_lets g t u v
  have hgen : g = r.gen := by
    unfold g
    split
    · next v hv => exact eq_of_beq (List.all_eq_true.1 hg v (List.mem_of_find?_eq_some hv))
    · rfl
  have hcommit : (jobOf job t).map unscheduled = _ := map_unscheduled_writeCommit job _ s
  rw [hj] at hcommit
  obtain ⟨k, hk, hkj⟩ := Option.map_eq_some_iff.1 hcommit
  have hkc : k.commit = ⟨j.epoch, true, g + 1, r.step, s.jrn.boot.bootCount⟩ := congrArg (·.commit) hkj
  have hv : jobOf job v = (jobOf job u).map _ := jobOf_modJob (by intro; rfl) u
  have hu : jobOf job u = some k := hk
  rw [jobOf_congr job (evalProposal_jobs _)]
  refine ⟨_, hv.trans (congrArg _ hu), rfl, ?_⟩
  show (k.commit.valid, k.commit.gen, k.commit.step) = _
  rw [hkc, hgen]

section
variable {job : W32} {j : Job} {s : State} (hj : jobOf job s = some j)
include hj

/-- A vote that is due is cast before the records decide (R361). -/
theorem exec_voteCast {r : StepRun} (hr : j.run = some r) (hd : voteDue j r = true) :
    exec (.voteCast job) s = .next (afterVotes job (castVote job s)) := by
  simp only [exec, execVoteCast, hj, hr, hd, if_true]

/-- A step that still resolves after t_RESOLVE settles COMMIT (R366). -/
theorem exec_resolveTimeout {r : StepRun} (hr : j.run = some r) (hs : r.st = .resolving) :
    exec (.resolveTimeout job) s = .next (settleCommit job s) := by
  simp only [exec, execResolveTimeout, hj, Option.bind_some, hr, hs, if_true]

/-- With no working copy left to derive, the command that waits completes (R364). -/
theorem exec_workingCopyDerived_nil {d : DeriveCmd} (hn : j.derive = []) (hd : j.deriveCmd = some d) :
    exec (.workingCopyDerived job) s =
      .next (complete d.h stOk d.result (modJob job (fun x => { x with derive := [], deriveCmd := none }) s)) := by
  have hnone : ((jobShards j).filter fun sh => ([] : List W32).contains sh.id) = [] := List.filter_false _
  simp only [exec, execWorkingCopyDerived, hj, hn, hd, hnone, List.foldl_nil, Bool.and_false, Bool.false_eq_true, if_false]

end

/-- Settles O20: each command past its guard, and what the vote and the settle leave of the job. -/
theorem votesAndSettles : Obligations.VotesAndSettles := by
  unfold Obligations.VotesAndSettles
  intro job j r s hj
  refine ⟨fun hr hd => ⟨exec_voteCast hj hr hd, run_castVote hj hr⟩, fun hr hs hg => ?_, fun d hn hd => ?_⟩
  · obtain ⟨k, hk, hstep, hcommit⟩ := jobOf_settleCommit hj hr hg
    refine ⟨_, exec_resolveTimeout hj hr hs, ?_, ?_⟩
    · rw [hk, Option.map_some, hstep]
    · rw [hk, Option.map_some, hcommit]
  · refine ⟨_, exec_workingCopyDerived_nil hj hn hd, ?_⟩
    rw [jobOf_modJob (g := fun x => { x with derive := [], deriveCmd := none }) fun _ => rfl, hj]
    rfl

/-! ### What is counted of aborts (R115) -/

@[simp] theorem sendMsix_aborts (v : BitVec 4) (s : State) : (sendMsix v s).mbx.aborts = s.mbx.aborts := by
  unfold sendMsix
  split <;> rfl

@[simp] theorem raiseEvent_aborts (k : Nat) (s : State) : (raiseEvent k s).mbx.aborts = s.mbx.aborts := by
  simp only [raiseEvent, setEvents]
  split
  · exact sendMsix_aborts ..
  · rfl

@[simp] theorem writeSlot_aborts (n : Fin 8) (c : CplEnt) (s : State) : (writeSlot n c s).mbx.aborts = s.mbx.aborts := by
  unfold writeSlot
  split
  · rfl
  · extract_lets
    split
    · exact sendMsix_aborts ..
    · rfl

@[simp] theorem flushRing_aborts (fuel : Nat) (n : Fin 8) (s : State) : (flushRing fuel n s).mbx.aborts = s.mbx.aborts := by
  induction fuel generalizing s with
  | zero => rfl
  | succ fuel ih =>
    unfold flushRing
    split
    · rfl
    · split
      · rw [ih, writeSlot_aborts]
        rfl
      · rfl

@[simp] theorem answer_aborts (h : Hdr) (status : W16) (final : Bool) (result buf : List Byte) (s : State) :
    (answer h status final result buf s).mbx.aborts = s.mbx.aborts := by
  unfold answer
  split
  · simp only [sendCpl, emitCpl_mbx, freeVal_mbx]
  · split
    · split <;> rfl
    · rw [pushCpl, flushRing_aborts]
      show (if buf.isEmpty then s else _).mbx.aborts = _
      split <;> rfl

@[simp] theorem evalProposal_aborts (s : State) : (evalProposal s).mbx.aborts = s.mbx.aborts := by
  unfold evalProposal
  split
  · rfl
  · split
    · rfl
    · split
      · rw [writeHst_mbx]
      · split
        · rfl
        · rw [raiseEvent_aborts, logHealth_mbx, writeHst_mbx]

theorem failGathers_mbx (job : W32) (s : State) : (failGathers job s).mbx = s.mbx := by
  unfold failGathers
  split
  · rfl
  · split
    · exact List.foldlRecOn (motive := fun t : State => t.mbx = s.mbx) _ _ rfl fun t ht i _ => (writeBytes_mbx ..).trans ht
    · rfl

theorem restoreScales_mbx (j : Job) (s : State) : (restoreScales j s).mbx = s.mbx := by
  unfold restoreScales
  split <;> rfl

/-! ### Aborts (R366, R402) -/

section
variable {job : W32} {j : Job} {r : StepRun} {s : State} (hj : jobOf job s = some j) (hr : j.run = some r)
include hj hr

/-- A step that ends without COMMIT leaves the commit sector (R365, R366). -/
theorem jobOf_settleNot (aborted : Bool) : ∃ k, jobOf job (settleNot job aborted s) = some k ∧
    (k.run, k.commit, k.lastStep, k.lastOut) = (none, j.commit, r.step, if aborted then 2 else 1) := by
  unfold settleNot
  simp -zeta only [hj, hr]
  extract_lets t u v mbx w x y
  have ht : jobsBy unstreamed t = jobsBy unstreamed s := by
    unfold t
    split
    · exact jobsBy_unstreamed_failGathers ..
    · rfl
  have hw : w.jobs = t.jobs := by
    have hv : v.jobs = t.jobs := restoreScales_jobs ..
    unfold w
    split <;> exact hv
  obtain ⟨k, hk, hkj⟩ := exists_jobOf_of_unstreamed hj ht
  have hx : jobOf job x = (jobOf job w).map _ := jobOf_modJob (by intro; rfl) w
  have hy : jobOf job y = jobOf job x := by
    unfold y
    split
    · exact jobOf_congr job (answer_jobs ..)
    · rfl
  rw [jobOf_congr job (evalProposal_jobs y), hy, hx, jobOf_congr job hw, hk]
  exact ⟨_, rfl, by rw [← commit_of_unstreamed hkj]⟩

/-- An aborted step is counted (R366). -/
theorem settleNot_aborts : (settleNot job true s).mbx.aborts = s.mbx.aborts + 1 := by
  unfold settleNot
  simp -zeta only [hj, hr, if_true]
  extract_lets t u v mbx w x y
  have hv : v.mbx = s.mbx := (restoreScales_mbx ..).trans (failGathers_mbx ..)
  have hx : x.mbx.aborts = s.mbx.aborts + 1 := congrArg (·.aborts + 1) hv
  rw [evalProposal_aborts, ← hx]
  unfold y
  split
  · exact answer_aborts ..
  · rfl

/-- What an abort does before the step settles leaves the commit sector, the records and the count of aborts. -/
theorem abortStep_settles {lay : Layout} (hl : j.layout = some lay) (hs : r.st ≠ .resolving) (cause : Byte) (origin : Option W16)
    (detected : W16) : ∃ t k, jobOf job t = some k ∧ k.run = some { r with ranges := [], outs := [], disps := [] } ∧
      k.commit = j.commit ∧ t.mbx.aborts = s.mbx.aborts ∧
      abortStep job cause origin detected s =
        if voteState r = 1 then modRun job (fun q => { q with st := .resolving }) t else settleNot job true t := by
  unfold abortStep
  simp -zeta only [hj, hr, hl, hs, if_false]
  extract_lets tok t u v w x
  have ht : jobsBy unstreamed t = jobsBy unstreamed s := jobsBy_unstreamed_floodToken ..
  have hw : w.jobs = t.jobs := by
    have hv : v.jobs = t.jobs := raiseEvent_jobs ..
    unfold w
    split
    · exact (evidence_jobs ..).trans hv
    · exact hv
  obtain ⟨k, hk, hkj⟩ := exists_jobOf_of_unstreamed hj ht
  have hx : jobOf job x = (jobOf job w).map _ := jobOf_modJob (by intro; rfl) w
  rw [jobOf_congr job hw, hk] at hx
  refine ⟨x, _, hx, ?_, (commit_of_unstreamed hkj : k.commit = j.commit), ?_, rfl⟩
  · show k.run.map _ = _
    rw [run_of_unstreamed hkj, hr]
    rfl
  · have hsent : t.mbx = s.mbx := by
      obtain ⟨_, _, h⟩ := floodToken_sent job lay r.step tok s
      exact congrArg (·.mbx) h
    have hv : v.mbx.aborts = s.mbx.aborts := (raiseEvent_aborts ..).trans (congrArg (·.aborts) hsent)
    show w.mbx.aborts = _
    unfold w
    split
    · rw [evidence_mbx, hv]
    · exact hv

end

/-- A job without a step has none to abort. -/
theorem abortStep_of_idle {job : W32} {j : Job} {s : State} (hj : jobOf job s = some j) (hr : j.run = none) (cause : Byte)
    (origin : Option W16) (detected : W16) : abortStep job cause origin detected s = s := by
  simp only [abortStep, hj, hr]

section
variable {job : W32} {j : Job} {r : StepRun} {lay : Layout} {s : State} (hj : jobOf job s = some j) (hr : j.run = some r)
  (hl : j.layout = some lay)
include hj hr hl

/-- An undecided step that aborts ends without a commit and is counted (R366). -/
theorem abortStep_undecided (hs : r.st = .armed ∨ r.st = .voted) (cause : Byte) (origin : Option W16) (detected : W16) :
    (jobOf job (abortStep job cause origin detected s)).map (fun x => (x.run, x.commit, x.lastStep, x.lastOut)) =
        some (none, j.commit, r.step, 2) ∧
      (abortStep job cause origin detected s).mbx.aborts = s.mbx.aborts + 1 := by
  have hlive : r.st ≠ .resolving := by rcases hs with hs | hs <;> simp [hs]
  have hvote : voteState r ≠ 1 := by rcases hs with hs | hs <;> simp [voteState, hs]
  obtain ⟨t, k, hk, hkr, hkc, hka, habort⟩ := abortStep_settles hj hr hl hlive cause origin detected
  rw [habort, if_neg hvote]
  obtain ⟨i, hi, hend⟩ := jobOf_settleNot hk hkr true
  refine ⟨?_, (settleNot_aborts hk hkr).trans (congrArg (· + 1) hka)⟩
  rw [hi, Option.map_some, hend, hkc]
  rfl

/-- A decided step that aborts resolves, with the records it holds (R366). -/
theorem abortStep_decided (hs : r.st = .decided) (cause : Byte) (origin : Option W16) (detected : W16) :
    (jobOf job (abortStep job cause origin detected s)).map
        (fun x => (x.run.map (fun q => (q.st, q.step, q.votes)), x.commit)) =
      some (some (.resolving, r.step, r.votes), j.commit) := by
  have hlive : r.st ≠ .resolving := by simp [hs]
  have hvote : voteState r = 1 := by simp [voteState, hs]
  obtain ⟨t, k, hk, hkr, hkc, -, habort⟩ := abortStep_settles hj hr hl hlive cause origin detected
  rw [habort, if_pos hvote, jobOf_modRun, hk]
  show some (Option.map _ (k.run.map _), k.commit) = _
  rw [hkr, hkc]
  rfl

end

section
variable {job : W32} {j : Job} {lay : Layout} {peer : W16} {s : State} (hj : jobOf job s = some j) (hl : j.layout = some lay)
include hj hl

/-- The silence of another member while a step is armed aborts it and loses the member (R401). -/
theorem exec_peerSilenceDetect (hs : (stepOf j).isSome = true) (hp : (peers lay).contains peer = true) :
    exec (.peerSilenceDetect job peer) s = .next (losePeer job peer true (abortStep job cauSilence none peer s)) := by
  simp only [exec, execPeerSilenceDetect, hj, hl, hs, hp, and_self, if_true]

/-- It is no detection while no step is armed, or of a rank that is no other member (R401). -/
theorem exec_peerSilenceDetect_idle (h : stepOf j = none ∨ (peers lay).contains peer = false) :
    exec (.peerSilenceDetect job peer) s = .next s := by
  have hno : ¬((peers lay).contains peer = true ∧ (stepOf j).isSome = true) := by
    rcases h with h | h <;> simp only [h, Option.isSome_none, Bool.false_eq_true, and_false, false_and, not_false_eq_true]
  simp only [exec, execPeerSilenceDetect, hj, hl, if_neg hno]

end

/-- Settles O21: each detection by its guard, and an abort by whether the step is decided. -/
theorem abortEndsUndecidedStep : Obligations.AbortEndsUndecidedStep := by
  unfold Obligations.AbortEndsUndecidedStep
  intro job s
  refine ⟨fun h ha => ?_, fun peer j lay hj hl => ⟨exec_peerSilenceDetect hj hl, exec_peerSilenceDetect_idle hj hl⟩,
    fun j r lay cause origin detected hj hr hl => ⟨fun hs => abortStep_undecided hj hr hl hs cause origin detected,
      fun hs => abortStep_decided hj hr hl hs cause origin detected⟩⟩
  have hrun : exec (.collectiveAbort h job) s = .next (collectiveAbortBody h job (startCmd h s)) := exec_accepted rfl ha
  have hstart : jobOf job (startCmd h s) = jobOf job s := jobOf_startCmd ..
  refine ⟨fun hno => ?_, fun j hj hp => ?_⟩
  · rw [hrun, collectiveAbortBody, hstart]
    cases hj : jobOf job s with
    | none => rfl
    | some j => exact congrArg _ (if_pos (hno j hj))
  · have hbody : collectiveAbortBody h job (startCmd h s) =
        complete h stOk [] (abortStep job cauCommand none 0xFFFF (startCmd h s)) := by
      simp only [collectiveAbortBody, hstart, hj, hp, ne_eq, not_true_eq_false, if_false]
    rw [hrun, hbody]
    refine ⟨rfl, fun hr => ?_⟩
    rw [abortStep_of_idle (hstart.trans hj) hr]
    rfl

end Sys2Proof.Machine
end
section
/-! Chord packets of a step: contributions and credits (O22), records and tokens (O23). -/

namespace Sys2Proof.Machine

/-! ### Packets that the transport takes (R378, R383) -/

/-- A packet that the transport takes acts, and what follows every packet follows. -/
theorem onPacket_of_take {p : ChordHdr} {kind : BitVec 4} {seqd : Bool} {ep early : Job → Bool} {j : Job} {s t : State}
    (h : receive p kind seqd ep early s = .take j t) (body : Job → State → State) :
    onPacket p kind seqd ep early body s = afterPacket p (body j t) := by
  simp only [onPacket, h]
  rfl

theorem stepAhead_iff {p : ChordHdr} {j : Job} : stepAhead p j = true ↔ j.lastArmed < p.step := decide_eq_true_iff

section
variable {p : ChordHdr} {n : Nat} {g : State → State} {s : State} (hup : viaUp s p.via = true)
include hup

theorem sized_of_oversized (ho : oversized p.via (96 + n) = true) : sized p n g s = counter 6 1 (countFrame p.via s) := by
  simp only [sized, hup, ho, Bool.not_true, Bool.false_eq_true, if_false, if_true]

theorem sized_of_fits (ho : oversized p.via (96 + n) = false) : sized p n g s = g s := by
  simp only [sized, hup, ho, Bool.not_true, Bool.false_eq_true, if_false]

end

section
variable {p : ChordHdr} {kind : BitVec 4} {keep : HeldPkt} {j : Job} {s t : State}
  {body : Job → StepRun → Layout → State → State} (h : receive p kind true (epochIs p) noWait s = .take j t)
include h

/-- A packet of a step not armed here yet is kept (R383). -/
theorem onStepPacket_ahead (ha : j.lastArmed < p.step) : onStepPacket p kind keep body s =
    afterPacket p (modJob j.id (fun x => { x with held := x.held ++ [keep] }) t) := by
  rw [onStepPacket, onPacket_of_take h, if_pos (stepAhead_iff.2 ha)]

/-- A packet of the armed step acts on it (R383). -/
theorem onStepPacket_armed {r : StepRun} {lay : Layout} (ha : ¬ j.lastArmed < p.step) (hlate : lateForAborted j p t = none)
    (hs : stepOf j = some r) (hl : j.layout = some lay) (hstep : r.step = p.step) (hlive : r.st ≠ .resolving) :
    onStepPacket p kind keep body s = afterPacket p (body j r lay t) := by
  simp only [onStepPacket, onPacket_of_take h, if_neg (mt stepAhead_iff.1 ha), hlate, hs, hl, hstep,
    hlive, ne_eq, not_false_eq_true, and_self, if_true]

end

/-! ### Contributions (R344, R353, R393, R395) -/

/-- The elements of a contribution that is not whole are added to their range (R344). -/
theorem dataBody_adds {p : ChordHdr} {b : List Byte} {j : Job} {r : StepRun} {lay : Layout} {t : State} {c : W32 × BitVec 24}
    {sh : ShardEnt} (hc : lay.colls.find? (fun c => c.1 == p.coll) = some c)
    (hsh : (ownShards lay).find? (fun sh => sh.tensor == c.2 &&
      decide (sh.first ≤ p.offset.toNat ∧ p.offset.toNat < sh.first + sh.count)) = some sh)
    (hsrc : (contributors sh).contains p.srcRank.toNat = true)
    (hopen : contribDone (rangeOf r sh.id ((p.offset.toNat - sh.first) / sh.rangeElems)) p.srcRank.toNat = false) :
    let ix := (p.offset.toNat - sh.first) / sh.rangeElems
    dataBody p b j r lay t = pumpStep j.id (addContrib j.id sh.id ix (rangeLen sh ix) p.srcRank.toNat
      ((dataElems p.offset.toNat b).filter fun x => decide (x.1 < sh.first + ix * sh.rangeElems + rangeLen sh ix)) t) := by
  simp only [dataBody, hc, hsh, hsrc, hopen, Bool.not_true, Bool.or_self, Bool.false_eq_true, if_false]

section
variable {p : ChordHdr} {n : W32} {j : Job} {s t : State} (h : receive p ptCredit false (fun _ => true) noWait s = .take j t)
include h

/-- A credit for the armed step credits the contribution (R395). -/
theorem exec_credit_armed {r : StepRun} {lay : Layout} (hs : stepOf j = some r) (hl : j.layout = some lay)
    (hstep : r.step = p.step) (hep : p.epoch = j.epoch) : exec (.credit p n) s =
      .next (afterPacket p (takeCredit j.id lay (some p.srcRank) p.coll p.offset.toNat n.toNat t)) := by
  simp only [exec, execCredit, onPacket_of_take h, hs, hl, hstep, hep, and_self, if_true]

/-- A credit for a step still to be armed is kept (R395; log 43). -/
theorem exec_credit_ahead (hs : stepOf j = none) (ha : j.lastArmed < p.step) : exec (.credit p n) s =
    .next (afterPacket p (modJob j.id (fun x => { x with
      earlyCr := x.earlyCr ++ [(p.step, p.coll, p.offset.toNat, n.toNat)] }) t)) := by
  simp only [exec, execCredit, onPacket_of_take h, hs, if_pos (stepAhead_iff.2 ha)]

end

/-- A complete range of an accumulating shard whose slot may be written is staged, or fails with its host access (R352, R353). -/
theorem exec_rangeUpdate_complete {job shard : W32} {ix : Nat} {j : Job} {r : StepRun} {sh : ShardEnt} {q : ShardRun} {s : State}
    (hj : jobOf job s = some j) (hr : j.run = some r) (hsh : (jobShards j).find? (fun x => x.id == shard) = some sh)
    (hs : r.st = .armed ∨ r.st = .voted) (hq : shardRun r shard = some q) (hacc : q.st = .accumulating) (hix : ix < rangeCount sh)
    (hupd : (rangeOf r shard ix).updated = false) (hcomp : rangeComplete sh (rangeOf r shard ix) = true)
    (hopen : (openRanges j r sh.prism).any (fun x => x.2.1.id == shard && x.2.2 == ix) = true) (hmay : mayStage j r.gen = true)
    (hf : Bool) : exec (.rangeUpdate job shard ix hf) s = .next (pumpStep job
      (if hf && hostMoments s sh then failShard job sh.id 2 s else stageRange job sh ix s)) := by
  simp only [exec, execRangeUpdate, hj, hr, hsh, hq, hacc, hix, hupd, hcomp, hopen, hmay, hs, Bool.not_false, beq_self_eq_true,
    and_self, if_true]

/-- Settles O22: an oversized packet is dropped, and one that is taken acts by whether its step is armed. -/
theorem contributionsReachTheFold : Obligations.ContributionsReachTheFold := by
  unfold Obligations.ContributionsReachTheFold
  intro p j r lay s t
  refine ⟨fun b hup => ⟨fun ho buffer => ?_, fun ho h => ?_⟩, fun n h => ?_, ?_⟩
  · have dropped (g : State → State) : Host.Outcome.next (sized p b.length g s) =
        (Host.Outcome.next (counter 6 1 (countFrame p.via s)) : Host.Outcome State Fault Refusal) :=
      congrArg _ (sized_of_oversized hup ho)
    exact ⟨dropped _, dropped _, dropped _, dropped _, dropped _, dropped _⟩
  · have hexec : exec (.chordData p b) s = .next (onStepPacket p ptData (.data p b) (dataBody p b) s) :=
      congrArg _ (sized_of_fits hup ho)
    rw [hexec]
    refine ⟨fun ha => congrArg _ (onStepPacket_ahead h ha), fun c sh ha hlate hs hl hstep hlive hc hsh hsrc hopen => ?_⟩
    rw [onStepPacket_armed h ha hlate hs hl hstep hlive, dataBody_adds hc hsh hsrc hopen]
  · exact ⟨exec_credit_armed h, exec_credit_ahead h⟩
  · intro job shard ix sh q hj hr hsh hs hq hacc hix hupd hcomp hopen hmay hf
    exact exec_rangeUpdate_complete hj hr hsh hs hq hacc hix hupd hcomp hopen hmay hf

/-! ### Confirms (R364, R402) -/

/-- A confirm of the armed step from a rank not heard yet joins the step's confirms, after the token has answered its packet where
this member has aborted the step and resolves it (R402). -/
theorem exec_confirm_armed {p : ChordHdr} {v : VoteRec} {j : Job} {r : StepRun} {s t : State}
    (h : receive p ptVote true (epochIs p) noWait s = .take j t) (hok : voteOk p v = true) (hv : v.commit = true)
    (ha : ¬ j.lastArmed < p.step) (hs : stepOf j = some r) (hstep : r.step = v.step)
    (hnew : (r.confirms.any fun x => x.rank == v.rank) = false) :
    exec (.confirm p v) s = .next (afterPacket p (countFirst p (afterConfirms j.id
      (modRun j.id (fun q => { q with confirms := q.confirms ++ [v] }) (optGet t (lateForAborted j p t)))))) := by
  simp only [exec, execConfirm, onPacket_of_take h, hok, hv, if_neg (mt stepAhead_iff.1 ha), hs, hstep, hnew, Bool.not_true,
    Bool.or_self, Bool.false_eq_true, if_false, ne_eq, not_true_eq_false, or_self]

/-- What the transport makes of a packet is that a job takes it, and job and state then satisfy `f`. -/
def Recv.takenWith (f : Job → State → Bool) : Recv → Bool
  | .take j t => f j t
  | .drop _ => false

theorem Recv.exists_of_takenWith {f : Job → State → Bool} {q : Recv} (h : q.takenWith f = true) :
    ∃ j t, q = .take j t ∧ f j t = true := by
  cases q with
  | take j t => exact ⟨j, t, rfl, h⟩
  | drop t => cases h

namespace ResolvingStep

/-- The record of a rank of three members for step 9 of job 7, with the decision COMMIT. -/
def confirmOf (rank : W16) : VoteRec :=
  { nonfinite := false, staged := true, forced := false, commit := true, epoch := 3, job := 7, step := 9, generation := 4, rank := rank,
    members := 3, replicaGroup := 0xFFFF, microBatches := 1, digest := 0, forceCause := 0, tDetectUs := 200, crcOk := true }

/-- Step 9, decided here before it aborted: it resolves, with this member's confirm. -/
def run : StepRun :=
  { st := .resolving, step := 9, micro := 1, gen := 4, cmd := none, params := [], shards := [], ranges := [], outs := [],
    votes := [0, 1, 2].map fun n => { confirmOf n with commit := false }, confirms := [confirmOf 0],
    ownVote := some { confirmOf 0 with commit := false }, force := 0, gathers := [], begun := [], asked := [], got := [], disps := [] }

/-- Rank 0 of three members that share fabric port 0. -/
def layout : Layout :=
  { rank := 0, adopt := 0, members := List.replicate 3 ⟨0, 0, 1, 0xFFFF, [1]⟩, shards := [], colls := [], gathers := [], disps := [],
    paramDpa := 0, normDpa := 0, gatherDpa := 0, crc := 0, raw := [] }

/-- The job of that step, which this member aborted after it was decided (R402). -/
def job : Job :=
  { id := 7, sector := 0, seed := 0, rule := 0, recDpa := 0, epoch := 3, layout := some layout, lastArmed := 9, run := some run,
    lastAbort := some (9, ⟨1, cauLocal, 0, 0xFFFF⟩) }

/-- The module with that job; its fabric port 0 is up and knows its router. -/
def state : State :=
  { State.reset with
    phase := .ready, pins.txIdle := false, jobs := [job],
    fabric.ports := vupd (Vector.replicate 8 {}) 0 fun x => { x with st := 4, router := some 1 } }

/-- The packet of rank 1's confirm. -/
def packet : ChordHdr :=
  { via := .fabric 0, src := 1, malformed := false, ce := false, retx := false, ceEcho := false, final := false, epoch := 3, job := 7,
    step := 9, coll := 0, seq := 1, srcRank := 1, dstRank := 0, ports := 1, offset := 0, ack := 0 }

/-- The state once rank 1's confirm, taken in state `t`, has joined the confirms. -/
def confirmed (j : Job) (t : State) : State :=
  afterPacket packet (countFirst packet (afterConfirms j.id (modRun j.id (fun q => { q with confirms := q.confirms ++ [confirmOf 1] }) t)))

/-- The job takes the packet, and the answer with the token is one packet more than the confirm alone sends. -/
theorem confirm_taken : ∃ j t, receive packet ptVote true (epochIs packet) noWait state = .take j t ∧
    ¬ j.lastArmed < packet.step ∧ stepOf j = some run ∧
    (confirmed j (optGet t (lateForAborted j packet t))).out.length = (confirmed j t).out.length + 1 := by
  obtain ⟨j, t, h, hf⟩ := Recv.exists_of_takenWith (q := receive packet ptVote true (epochIs packet) noWait state)
    (f := fun j t => decide (¬ j.lastArmed < packet.step ∧ stepOf j = some run ∧
      (confirmed j (optGet t (lateForAborted j packet t))).out.length = (confirmed j t).out.length + 1)) (by decide +kernel)
  exact ⟨j, t, h, of_decide_eq_true hf⟩

end ResolvingStep

/-- Refutes O23: a confirm of a step that this member has aborted and resolves joins the confirms, but its packet is also answered
with the step's token (R402), which the statement's last clause on records leaves out. -/
theorem not_recordsAndTokensArrive : ¬ Obligations.RecordsAndTokensArrive := by
  unfold Obligations.RecordsAndTokensArrive
  intro h
  obtain ⟨j, t, htake, ha, hs, hout⟩ := ResolvingStep.confirm_taken
  have hok : voteOk ResolvingStep.packet (ResolvingStep.confirmOf 1) = true := by decide
  obtain ⟨hrecords, -⟩ := h ResolvingStep.packet (ResolvingStep.confirmOf 1) ⟨0, 0, 0, 0⟩ j ResolvingStep.run ResolvingStep.state t
  obtain ⟨-, -, hconfirm⟩ := hrecords htake hok
  have hsame : ResolvingStep.confirmed j (optGet t (lateForAborted j ResolvingStep.packet t)) = ResolvingStep.confirmed j t :=
    Host.Outcome.next.inj ((exec_confirm_armed htake hok rfl ha hs rfl rfl).symm.trans (hconfirm rfl ha hs rfl rfl))
  rw [hsame] at hout
  omega

end Sys2Proof.Machine
end

section
/-! Installing a layout (O18). -/

namespace Sys2Proof.Machine

/-! ### What an install leaves of the jobs (R411, R419) -/

theorem partnersStay_jobs (j : Job) (new : Layout) (r : Region) (s : State) : (partnersStay j new r s).1.jobs = s.jobs := by
  unfold partnersStay
  split
  · rfl
  · dsimp only
    split
    · rfl
    · exact freeVal_jobs s

theorem jobsBy_unscheduled_regionWrite (r : Region) (off : Nat) (bs : List Byte) (s : State) :
    jobsBy unscheduled (regionWrite r off bs s) = jobsBy unscheduled s :=
  jobsBy_foldl (fun _ _ => jobsBy_writeBytes (fun _ _ => rfl) ..) _ s

/-- The regions hosted for a job go on or end; of the jobs only their schedules note the writes (R419). -/
theorem jobsBy_unscheduled_regionsAcross (j : Job) (new : Layout) (epoch : W16) (s : State) :
    jobsBy unscheduled (regionsAcross j new epoch s) = jobsBy unscheduled s := by
  refine jobsBy_foldl (fun t r => ?_) _ s
  have hstay : jobsBy unscheduled (partnersStay j new r t).1 = jobsBy unscheduled t := by
    rw [jobsBy, partnersStay_jobs, jobsBy]
  dsimp only
  split
  · exact (jobsBy_unscheduled_regionWrite ..).trans hstay
  · exact hstay

/-! ### The install (R389, R410, R411) -/

@[simp] theorem layoutOk_startCmd (h : Hdr) (s : State) (j : Job) (lay : Layout) :
    layoutOk (startCmd h s) j lay = layoutOk s j lay := by
  unfold startCmd
  split <;> rfl

section
variable {job : W32} {j : Job} {lay : Layout} {s : State} (hj : jobOf job s = some j)
include hj

/-- The job takes the layout and the epoch, and keeps the layout before it (R411, R412). -/
theorem installLayout_takes (h : Hdr) (lay : Layout) (epoch : W16) (filled : List W32) :
    ∃ u, installLayout job h lay epoch filled s = complete h stOk (leBytes 2 j.epoch.toNat) u ∧
      (jobOf job u).map (fun x => (x.layout, x.epoch, x.prev, x.pend)) = some (some lay, epoch, j.layout, none) := by
  simp only [installLayout, hj]
  refine ⟨_, rfl, ?_⟩
  have hkept : (jobOf job (regionsAcross j lay epoch s)).map unscheduled = some (unscheduled j) := by
    rw [map_jobOf_congr (p := unscheduled) (fun _ => rfl) (jobsBy_unscheduled_regionsAcross ..), hj, Option.map_some]
  obtain ⟨k, hk, hkj⟩ := Option.map_eq_some_iff.1 hkept
  have hlayout : k.layout = j.layout := congrArg (·.layout) hkj
  rw [map_jobOf_by (p := unscheduled) (fun _ => rfl), map_unscheduled_writeJobRecord, jobOf_modJob, hk, ← hlayout]
  · rfl
  · exact fun _ => rfl

/-- With nothing committed there is nothing to fill, and a layout that passes its checks is installed at once (R389, R411). -/
theorem continueInstall_installs {b : List Byte} (hb : parseLayout b = some lay) (hok : layoutOk s j lay = true)
    (ha : lay.adopt = 0) (hv : j.commit.valid = false) (h : Hdr) (epoch : W16) :
    continueInstall job h epoch b s = installLayout job h lay epoch [] s := by
  simp only [continueInstall, hj, hb, hok, ha, hv, Bool.not_true, Bool.not_false, Bool.false_eq_true, ne_eq, not_true_eq_false,
    false_and, or_self, true_or, if_true, if_false]

/-- An install whose checks pass and that has nothing to wait for continues (R410). -/
theorem layoutInstallBody_continues (hp : j.phase = .opened) (hbusy : jobBusy j = false) (hd : drainOver j = true)
    (he : evalRunning job s = false) (ho : openPackets j = false) (h : Hdr) (b : List Byte) :
    layoutInstallBody h job (j.epoch + 1) 0 b s = continueInstall job h (j.epoch + 1) b s := by
  have harm : armed j = false := by
    simp only [drainOver, drained, Bool.and_eq_true, Bool.not_eq_true'] at hd
    exact hd.1.1.1
  simp [layoutInstallBody, hj, hp, hbusy, he, harm, ho, hd]

/-- An install that waited for its drain continues (R410). -/
theorem exec_layoutDrainDone_continues {h : Hdr} {epoch : W16} {b : List Byte} (hpend : j.pend = some (.install h epoch b))
    (hd : drainOver j = true) : exec (.layoutDrainDone job) s = .next (continueInstall job h epoch b s) := by
  simp only [exec, execLayoutDrainDone, hj, hpend, hd, if_true]

end

/-- Settles O18: at once or after the drain, the install continues, and what it installs is the job's from then on. -/
theorem layoutInstallTakesEpoch : Obligations.LayoutInstallTakesEpoch := by
  unfold Obligations.LayoutInstallTakesEpoch
  intro h job epoch b lay j s hj hb hok ha hv hp hd he
  have installed {c : Instr} {t : State} (hjt : jobOf job t = some j) (hokt : layoutOk t j lay = true)
      (hc : exec c s = .next (continueInstall job h epoch b t)) :
      ∃ u v, exec c s = .next v ∧ v = complete h 0x0000 (leBytes 2 j.epoch.toNat) u ∧
        (jobOf job v).map (fun x => (x.layout, x.epoch, x.prev, x.pend)) = some (some lay, epoch, j.layout, none) := by
    rw [continueInstall_installs hjt hb hokt ha hv] at hc
    obtain ⟨u, hu, hjob⟩ := installLayout_takes hjt h lay epoch []
    refine ⟨u, _, hc, hu, ?_⟩
    rwa [hu, jobOf_congr job (complete_jobs ..)]
  refine ⟨fun hacc hlen hbusy hnext ho => ?_, fun hpend => installed hj hok (exec_layoutDrainDone_continues hj hpend hd)⟩
  have hstart : jobOf job (startCmd h s) = some j := (jobOf_startCmd ..).trans hj
  refine installed hstart ((layoutOk_startCmd ..).trans hok) ?_
  have hbuf : bufBytes h b = b := if_pos hlen
  rw [exec_accepted rfl hacc, hbuf, hnext]
  exact congrArg _ (layoutInstallBody_continues hstart hp hbusy hd ((evalRunning_startCmd ..).trans he) ho h b)

end Sys2Proof.Machine
end

section
/-! Heartbeats, retransmission, window growth and acknowledgements (O24). -/

namespace Sys2Proof.Machine

/-! ### Heartbeats (R400, R401) -/

/-- A heartbeat goes to a peer of an open job (R400). -/
theorem exec_heartbeatSend {job : W32} {peer : W16} {j : Job} {lay : Layout} {s : State} (hj : jobOf job s = some j)
    (hl : j.layout = some lay) (hp : j.phase = .opened) (hm : (peers lay).contains peer = true) :
    exec (.heartbeatSend job peer) s = .next (sendPlain job peer false ptHeartbeat 0 0 0
      (beBytes 8 (beatState j).1.toNat ++ beBytes 4 lay.crc.toNat ++ [(beatState j).2, 0] ++ beBytes 2 s.fabric.tDetect) s) := by
  simp only [exec, execHeartbeatSend, hj, hl, hp, hm, and_self, if_true]

section
variable {p : ChordHdr} {j : Job} {s t : State} (h : receive p ptHeartbeat false (fun _ => true) noWait s = .take j t)
  (b : Heartbeat)
include h

/-- Outside an armed step a heartbeat does nothing more. -/
theorem exec_heartbeat_idle (hs : stepOf j = none) : exec (.heartbeat p b) s = .next (afterPacket p t) := by
  simp only [exec, execHeartbeat, onPacket_of_take h, hs]

section
variable {r : StepRun} {lay : Layout} (hs : stepOf j = some r) (hl : j.layout = some lay) (hlive : r.st ≠ .resolving)
include hs hl hlive

/-- A peer with another layout CRC or t_DETECT is detected (R401). -/
theorem exec_heartbeat_mismatch (hne : ¬(b.layoutCrc = lay.crc ∧ b.tDetectUs.toNat = s.fabric.tDetect)) :
    exec (.heartbeat p b) s =
      .next (afterPacket p (losePeer j.id p.srcRank true (abortStep j.id cauMismatch none p.srcRank t))) := by
  have hdiff : b.layoutCrc ≠ lay.crc ∨ b.tDetectUs.toNat ≠ s.fabric.tDetect := not_and_or.1 hne
  simp only [exec, execHeartbeat, onPacket_of_take h, hs, hl, if_neg hlive, if_pos hdiff]

section
variable (hsame : b.layoutCrc = lay.crc ∧ b.tDetectUs.toNat = s.fabric.tDetect)
include hsame

/-- A peer that has aborted the armed step is a detection (R401). -/
theorem exec_heartbeat_aborted (hgone : b.state = 3 ∧ b.armedStep = r.step) :
    exec (.heartbeat p b) s =
      .next (afterPacket p (losePeer j.id p.srcRank true (abortStep j.id cauRelayed (some p.srcRank) 0xFFFF t))) := by
  simp only [exec, execHeartbeat, onPacket_of_take h, hs, hl, if_neg hlive, if_neg (not_or.2 ⟨not_not.2 hsame.1, not_not.2 hsame.2⟩),
    if_pos hgone]

/-- A peer that agrees changes nothing more. -/
theorem exec_heartbeat_agrees (hstays : ¬(b.state = 3 ∧ b.armedStep = r.step)) :
    exec (.heartbeat p b) s = .next (afterPacket p t) := by
  simp only [exec, execHeartbeat, onPacket_of_take h, hs, hl, if_neg hlive, if_neg (not_or.2 ⟨not_not.2 hsame.1, not_not.2 hsame.2⟩),
    if_neg hstays]

end
end
end

/-! ### Retransmission and windows (R383, R385) -/

/-- An unacknowledged packet is sent again with `RETX`, on another common port where one exists (R383). -/
theorem exec_retransmitTimeout {job seq : W32} {peer : W16} {j : Job} {mg : Bool} {q : SentPkt} {s : State}
    (hj : jobOf job s = some j) (hq : unacked (streamOf j peer mg) seq = some q)
    (hfab : mg = true → unacked (streamOf j peer false) seq = none) :
    exec (.retransmitTimeout job peer seq) s = .next (modStream job peer mg
      (fun x => { x with sent := updIf x.sent (fun y => y.seq == seq) fun y =>
        { y with port := if mg then none else nextPort s j peer q.port } })
      (sendOn j peer mg q.port q.kind { q.hdr with seq := q.seq, retx := true } q.payload s)) := by
  cases mg with
  | false => simp only [exec, execRetransmitTimeout, hj, hq]
  | true => simp only [exec, execRetransmitTimeout, hj, hq, hfab rfl]

theorem growWith_eq_map (peer : W16) (l : List Stream) : growWith peer l =
    l.map fun x => if x.peer = peer then { x with window := min 0x400000 (x.window + 0x10000) } else x := by
  simp only [growWith, updIf, grow, beq_iff_eq]

/-! ### Acknowledgements (R383, R385, R426) -/

section
variable {p : ChordHdr} {s : State}

section
variable {j : Job} {t : State} (hpath : mirrorPath p true true s = .member)
  (h : receive p ptAck false (fun _ => true) noWait s = .take j t) (hhost : hostStream t p.src (viaAddr s p.via) p.job = none)
include hpath h hhost

theorem exec_ack_here (hep : p.epoch = j.epoch) (map : W64) : exec (.ack p map) s =
    .next (afterPacket p (takeAck j.id p.srcRank (viaMgmt p.via) p.ack map p.ceEcho t)) := by
  simp only [exec, execAck, hpath, onPacket_of_take h, hhost, if_pos hep]

theorem exec_ack_nextEpoch (hep : p.epoch = j.epoch + 1) (map : W64) : exec (.ack p map) s =
    .next (afterPacket p (onNext j.id (takeAck j.id p.srcRank (viaMgmt p.via) p.ack map p.ceEcho) t)) := by
  have hne : p.epoch ≠ j.epoch := by rw [hep]; simp
  simp only [exec, execAck, hpath, onPacket_of_take h, hhost, if_neg hne, if_pos hep]

end

/-- An acknowledgement in an exchange with a copy host acts on the exchange's stream (R426). -/
theorem exec_ack_copyHost {x : Stream} (hpath : mirrorPath p true true s = .copyHost) (hup : viaUp s p.via = true)
    (hwhole : p.malformed = false) (hx : hostStream (countFrame p.via s) p.src (viaAddr s p.via) p.job = some x) (map : W64) :
    let y := releaseSent x p.ack map
    let z := if p.ceEcho then { y with window := max 0x10000 (y.window / 2) } else y
    exec (.ack p map) s = .next (pumpHost (z.sent.length + 1) p.src (viaAddr s p.via) p.job
      (setHostStream p.src (viaAddr s p.via) p.job z (countFrame p.via s))) := by
  simp only [exec, execAck, hpath, hup, hwhole, hx, Bool.not_false, Bool.and_self, if_true]

end

/-- Settles O24: a heartbeat by what it tells, and the streams by the stream that the packet or timer names. -/
theorem heartbeatsAndStreams : Obligations.HeartbeatsAndStreams := by
  unfold Obligations.HeartbeatsAndStreams
  refine ⟨fun job peer p b j r lay s t => ⟨?_, fun h => ⟨exec_heartbeat_idle h b, ?_⟩, ?_, ?_⟩, fun p map j s t => ⟨?_, ?_⟩⟩
  · exact exec_heartbeatSend
  · intro hs hl hlive
    exact ⟨exec_heartbeat_agrees h b hs hl hlive, exec_heartbeat_aborted h b hs hl hlive, exec_heartbeat_mismatch h b hs hl hlive⟩
  · exact fun seq mg q => exec_retransmitTimeout
  · simp only [exec, execStreamWindowGrowth, growWith_eq_map, updIf, grow]
  · exact fun hpath h hhost => ⟨fun hep => exec_ack_here hpath h hhost hep map, fun hep => exec_ack_nextEpoch hpath h hhost hep map⟩
  · exact fun x hpath hup hwhole hx => exec_ack_copyHost hpath hup hwhole hx map

end Sys2Proof.Machine
end

section
/-! Gather, dispatch and reshard packets (O25). -/

namespace Sys2Proof.Machine

/-- A packet is taken from an interface that is up only. -/
theorem viaUp_of_take {p : ChordHdr} {kind : BitVec 4} {seqd : Bool} {ep early : Job → Bool} {j : Job} {s t : State}
    (h : receive p kind seqd ep early s = .take j t) : viaUp s p.via = true := by
  by_contra hdown
  rw [receive, Bool.eq_false_of_not_eq_true hdown] at h
  cases h

/-! ### Gathers (R397, R398, R402) -/

section
variable {p : ChordHdr} {j : Job} {s t : State} (h : receive p ptGatherReq true (epochIs p) noWait s = .take j t) (shard : W32)
include h

/-- A request of a step not armed here yet waits (R398). -/
theorem exec_gatherReq_ahead (ha : j.lastArmed < p.step) : exec (.gatherReq p shard) s =
    .next (afterPacket p (modJob j.id (fun x => { x with gatherReqs := x.gatherReqs ++ [(p.srcRank, p.step, shard)] }) t)) := by
  simp only [exec, execGatherReq, onPacket_of_take h, if_pos (stepAhead_iff.2 ha)]

section
variable (ha : ¬ j.lastArmed < p.step)
include ha

/-- A request of the step aborted last is answered with its token (R402). -/
theorem exec_gatherReq_aborted {u : State} (hlate : lateForAborted j p t = some u) :
    exec (.gatherReq p shard) s = .next (afterPacket p u) := by
  simp only [exec, execGatherReq, onPacket_of_take h, if_neg (mt stepAhead_iff.1 ha), hlate]

variable (hlate : lateForAborted j p t = none)
include hlate

/-- A request of the armed step is served (R398). -/
theorem exec_gatherReq_armed {r : StepRun} (hs : stepOf j = some r) (hstep : r.step = p.step) (hlive : r.st ≠ .resolving) :
    exec (.gatherReq p shard) s = .next (afterPacket p (serveGather j.id p.srcRank shard t)) := by
  simp only [exec, execGatherReq, onPacket_of_take h, if_neg (mt stepAhead_iff.1 ha), hlate, hs, if_pos (And.intro hstep hlive)]

/-- A request of a step already left is answered with ABORT (R398). -/
theorem exec_gatherReq_left (hs : stepOf j = none) : exec (.gatherReq p shard) s =
    .next (afterPacket p (answerAbort j.id p.srcRank (viaMgmt p.via) p.step (leftToken j p.step) t)) := by
  simp only [exec, execGatherReq, onPacket_of_take h, if_neg (mt stepAhead_iff.1 ha), hlate, hs]

end
end

/-- The bytes of a packet that fits its shard are written and counted, and a whole shard serves what waits for it (R398). -/
theorem gatherBody_takes {p : ChordHdr} {bs : List Byte} {j : Job} {r : StepRun} {lay : Layout} {t : State} {sh : ShardEnt}
    (hsh : (tensorShards lay (p.coll.truncate 24)).find? (fun sh => decide (gatherOffset lay sh ≤ p.offset.toNat ∧
      p.offset.toNat < gatherOffset lay sh + workLen sh)) = some sh) :
    let n := sget 0 r.got sh.id.toNat + bs.length
    p.offset.toNat - gatherOffset lay sh + bs.length ≤ workLen sh → n ≤ workLen sh →
    let u := modRun j.id (fun q => { q with got := sset 0 q.got sh.id.toNat n })
      ((gatherObjs lay r (p.coll.truncate 24)).foldl (fun t g => match objDpa t g with
        | some a => writeBytes (a + p.offset.toNat) bs t
        | none => t) t)
    gatherBody p bs j r lay t = if n = workLen sh then shardGathered j.id sh.id u else u := by
  intro n hfits hn u
  have hroom : ¬(workLen sh < p.offset.toNat - gatherOffset lay sh + bs.length ∨ workLen sh < n) :=
    not_or.2 ⟨hfits.not_gt, hn.not_gt⟩
  simp only [gatherBody, hsh]
  exact if_neg hroom

/-! ### Expert exchange (R408, R409) -/

section
variable {p : ChordHdr} {bs : List Byte} {j : Job} {r : StepRun} {lay : Layout} {t : State} {d : DispEnt}
  (hd : lay.disps.find? (fun d => d.id == p.coll.toNat) = some d)
include hd

section
variable (hrow : bs.length ≤ d.rowSlot) (hslot : p.offset.toNat < d.perRank * lay.members.length * d.capacity)
include hrow hslot

/-- A row in its sender's slots is a row of the dispatch. -/
theorem rowBody_dispatch (hc : d.combine = false)
    (hown : p.offset.toNat / d.capacity % lay.members.length = p.srcRank.toNat) :
    rowBody p bs j r lay t = takeRow j.id d lay.members.length r.step p.srcRank.toNat p.offset.toNat bs t := by
  simp only [rowBody, hd, if_neg (not_or.2 ⟨hrow.not_gt, hslot.not_ge⟩), hc, Bool.false_eq_true, if_false, if_pos hown]

/-- A row in this member's slots is a row that a combine brings back. -/
theorem rowBody_combine (hc : d.combine = true)
    (hown : p.offset.toNat / d.capacity % lay.members.length = lay.rank.toNat) :
    rowBody p bs j r lay t =
      takeBack j.id d (routeOf lay d) lay.members.length p.srcRank.toNat p.offset.toNat bs t := by
  simp only [rowBody, hd, if_neg (not_or.2 ⟨hrow.not_gt, hslot.not_ge⟩), hc, if_true, if_pos hown]

end

/-- The counts of a source end its part of the exchange. -/
theorem rowsEndBody_ends {cs : List Nat} (hn : cs.length = if d.combine then 0 else d.perRank) :
    rowsEndBody p cs j r lay t = takeEnd j.id d lay.members.length r.step p.srcRank.toNat cs
      (if viaMgmt p.via then none else some p.seq) t := by
  simp only [rowsEndBody, hd, if_pos hn]

end

/-! ### Resharding (R411, R412) -/

section
variable {p : ChordHdr} {j : Job} {s t : State}

section
variable (h : receive p ptReshardReq true (fun j => p.epoch == j.epoch || p.epoch == j.epoch + 1) noWait s = .take j t)
  (shard : W32) (gen : W64)
include h

/-- A request of the epoch to come is served from the installed layout. -/
theorem exec_reshardReq_next (hep : p.epoch = j.epoch + 1) :
    exec (.reshardReq p shard gen) s = .next (afterPacket p (onNext j.id (serveReshard j.id p.srcRank shard gen) t)) := by
  have hne : p.epoch ≠ j.epoch := by rw [hep]; simp
  simp only [exec, execReshardReq, onPacket_of_take h, if_neg hne]

/-- A request of the installed epoch is served from the layout before it. -/
theorem exec_reshardReq_here (hep : p.epoch = j.epoch) (hprev : j.prev.isSome = true) :
    exec (.reshardReq p shard gen) s = .next (afterPacket p (onPrev j.id (serveReshard j.id p.srcRank shard gen) t)) := by
  simp only [exec, execReshardReq, onPacket_of_take h, if_pos hep, hprev, if_true]

end

/-- The bytes fill the image that their sender was asked for (R411). -/
theorem exec_reshardData_fills {bs : List Byte} {hd : Hdr} {lay : Layout} {e : W16} {todo : List (W16 × W32)}
    {cur : List (W16 × W32 × Nat)} {got : List (W32 × List Host.Cell)} {c : W16 × W32 × Nat}
    (hfits : oversized p.via (96 + bs.length) = false)
    (h : receive p ptReshardData true (fun j => p.epoch == j.epoch + 1) noWait s = .take j t)
    (hpend : j.pend = some (.fill hd lay e todo cur got)) (hc : cur.find? (fun c => c.1 == p.srcRank) = some c) :
    let img := ((got.find? fun x => x.1 == c.2.1).map (·.2)).getD []
    let left := c.2.2 - bs.length
    exec (.reshardData p bs) s = .next (afterPacket p (askSources (todo.length + 1) j.id (modJob j.id (fun x => { x with
      pend := some (.fill hd lay e todo (if left = 0 then cur.filter (· != c) else updIf cur (· == c) fun _ => (c.1, c.2.1, left))
        (got.filter (fun x => x.1 != c.2.1) ++ [(c.2.1, mwrite img p.offset.toNat bs)])) }) t))) := by
  simp only [exec, execReshardData, sized_of_fits (viaUp_of_take h) hfits, onPacket_of_take h, hpend, hc]
  cases got.find? fun x => x.1 == c.2.1 <;> rfl

end

/-- Settles O25: a packet of a step waits or acts by whether its step is armed, and a reshard packet by its epoch. -/
theorem gathersExchangesReshards : Obligations.GathersExchangesReshards := by
  unfold Obligations.GathersExchangesReshards
  intro p bs cs j r lay s t next kept now
  refine ⟨fun shard h => ⟨exec_gatherReq_ahead h shard, ?_, fun ha u => exec_gatherReq_aborted h shard ha,
    exec_gatherReq_left h shard⟩, fun ho h => ?_, fun ho h => ?_, fun h => ?_,
    fun shard gen h => ⟨exec_reshardReq_next h shard gen, exec_reshardReq_here h shard gen⟩,
    fun hd e todo cur got c ho h => exec_reshardData_fills ho h⟩
  · rintro ⟨ha, hlate, hs, -, hstep, hlive⟩
    exact exec_gatherReq_armed h shard ha hlate hs hstep hlive
  · have hexec : exec (.gatherData p bs) s = .next (onStepPacket p ptGatherData (.gather p bs) (gatherBody p bs) s) :=
      congrArg _ (sized_of_fits (viaUp_of_take h) ho)
    rw [hexec]
    refine ⟨fun ha => congrArg _ (onStepPacket_ahead h ha), ?_⟩
    rintro sh ⟨ha, hlate, hs, hl, hstep, hlive⟩ hsh n hfits hn u
    rw [onStepPacket_armed h ha hlate hs hl hstep hlive]
    exact congrArg next (gatherBody_takes hsh hfits hn)
  · have hexec : exec (.dispatch p bs) s = .next (onStepPacket p ptDispatch (.row p bs) (rowBody p bs) s) :=
      congrArg _ (sized_of_fits (viaUp_of_take h) ho)
    rw [hexec]
    refine ⟨fun ha => congrArg _ (onStepPacket_ahead h ha), ?_⟩
    rintro d ⟨ha, hlate, hs, hl, hstep, hlive⟩ hd hrow n slot hslot
    rw [onStepPacket_armed h ha hlate hs hl hstep hlive]
    exact ⟨fun hc hown => congrArg next (rowBody_dispatch hd hrow hslot hc hown),
      fun hc hown => congrArg next (rowBody_combine hd hrow hslot hc hown)⟩
  · have hexec : exec (.dispatchEnd p cs) s = .next (onStepPacket p ptDispatchEnd (.rowsEnd p cs) (rowsEndBody p cs) s) := rfl
    rw [hexec]
    refine ⟨fun ha => congrArg _ (onStepPacket_ahead h ha), ?_⟩
    rintro d ⟨ha, hlate, hs, hl, hstep, hlive⟩ hd hn
    rw [onStepPacket_armed h ha hlate hs hl hstep hlive]
    exact congrArg next (rowsEndBody_ends hd hn)

end Sys2Proof.Machine
end

section
/-! What the detection of a lost peer and the service floor leave of the fabric: the state of each port and the ports' fences. -/

namespace Sys2Proof.Machine

/-- The state of each fabric port, and the fenced fabric ports. -/
def linksOf (s : State) : Vector Nat 8 × Byte := (s.fabric.ports.map (·.st), s.health.fabric)

/-- A state put together from parts keeps what its fabric and its health records say. -/
@[simp] theorem linksOf_mk (pending out freeIx phase srEntry pins aon smb jrn sec mbx d2d mem hostMem objs flash facets mesh
    sectors owners jobs fabric regions mgmt health) :
    linksOf ⟨pending, out, freeIx, phase, srEntry, pins, aon, smb, jrn, sec, mbx, d2d, mem, hostMem, objs, flash, facets, mesh,
      sectors, owners, jobs, fabric, regions, mgmt, health⟩ = (fabric.ports.map (·.st), health.fabric) := rfl

theorem linksOf_congr {s t : State} (hf : t.fabric = s.fabric) (hh : t.health = s.health) : linksOf t = linksOf s := by
  rw [linksOf, hf, hh, linksOf]

@[simp] theorem linksOf_parts (s : State) : (s.fabric.ports.map (·.st), s.health.fabric) = linksOf s := rfl

@[simp] theorem linksOf_ite (c : Prop) [Decidable c] (x y : State) :
    linksOf (if c then x else y) = if c then linksOf x else linksOf y := apply_ite ..

@[simp] theorem linksOf_fst_ite {α : Type} (c : Prop) [Decidable c] (x y : State × α) :
    linksOf (if c then x else y).1 = if c then linksOf x.1 else linksOf y.1 := apply_ite (fun p : State × α => linksOf p.1) ..

/-- Steps that each keep it keep it together. -/
@[simp] theorem linksOf_foldl {α : Type} {g : State → α → State} {l : List α} {s : State}
    (hg : ∀ t a, linksOf (g t a) = linksOf t) : linksOf (l.foldl g s) = linksOf s := get_foldl_of_step hg l s

/-- Steps that carry a value along keep it together where each of them does. -/
@[simp] theorem linksOf_foldl_fst {α β : Type} {g : State × β → α → State × β} {l : List α} {p : State × β}
    (hg : ∀ q a, linksOf (g q a).1 = linksOf q.1) : linksOf (l.foldl g p).1 = linksOf p.1 :=
  List.foldlRecOn (motive := fun q => linksOf q.1 = linksOf p.1) l g rfl fun q hq a _ => (hg q a).trans hq

theorem linksOf_fst_of_eq {α : Type} {p : State × α} {t : State} {a : α} (h : p = (t, a)) : linksOf t = linksOf p.1 := by rw [h]

/-! ### The shared operations -/

@[simp] theorem linksOf_emit (e : Emit) (s : State) : linksOf (emit e s) = linksOf s := rfl

@[simp] theorem linksOf_freeVal (s : State) : linksOf (freeVal s).2 = linksOf s := rfl

@[simp] theorem linksOf_modFacet (f : Fin 96) (g : Facet → Facet) (s : State) : linksOf (modFacet f g s) = linksOf s := rfl

@[simp] theorem linksOf_modSector (n : Fin 4) (g : Sector → Sector) (s : State) : linksOf (modSector n g s) = linksOf s := rfl

@[simp] theorem linksOf_modJob (j : W32) (g : Job → Job) (s : State) : linksOf (modJob j g s) = linksOf s := rfl

@[simp] theorem linksOf_modRun (j : W32) (g : StepRun → StepRun) (s : State) : linksOf (modRun j g s) = linksOf s := rfl

@[simp] theorem linksOf_evidence (c n : Nat) (s : State) : linksOf (evidence c n s) = linksOf s := by simp [evidence]

@[simp] theorem linksOf_counter (i n : Nat) (s : State) : linksOf (counter i n s) = linksOf s := by simp [counter]

@[simp] theorem linksOf_logHealth (kind : Byte) (unit ix info : Nat) (s : State) :
    linksOf (logHealth kind unit ix info s) = linksOf s := by simp [logHealth]

@[simp] theorem linksOf_raiseEvent (k : Nat) (s : State) : linksOf (raiseEvent k s) = linksOf s :=
  linksOf_congr (raiseEvent_fabric ..) (raiseEvent_health ..)

@[simp] theorem linksOf_setSbState (v : BitVec 3) (s : State) : linksOf (setSbState v s) = linksOf s :=
  linksOf_congr (setSbState_fabric ..) (setSbState_health ..)

@[simp] theorem linksOf_settleSideband (s : State) : linksOf (settleSideband s) = linksOf s :=
  linksOf_congr (settleSideband_fabric ..) (settleSideband_health ..)

@[simp] theorem linksOf_writeHst (s : State) : linksOf (writeHst s) = linksOf s :=
  linksOf_congr (writeHst_fabric ..) (writeHst_health ..)

@[simp] theorem linksOf_logMem (kind req : Byte) (dpa : Nat) (hasSector : Bool) (sym : Nat) (s : State) :
    linksOf (logMem kind req dpa hasSector sym s) = linksOf s := linksOf_congr (logMem_fabric ..) (logMem_health ..)

@[simp] theorem linksOf_snoopOut (inv : Bool) (a n : Nat) (s : State) : linksOf (snoopOut inv a n s) = linksOf s :=
  linksOf_congr (snoopOut_fabric ..) (snoopOut_health ..)

@[simp] theorem linksOf_writeBytes (a : Nat) (bs : List Byte) (s : State) : linksOf (writeBytes a bs s) = linksOf s :=
  linksOf_congr (writeBytes_fabric ..) (writeBytes_health ..)

@[simp] theorem linksOf_answer (h : Hdr) (status : W16) (final : Bool) (result buf : List Byte) (s : State) :
    linksOf (answer h status final result buf s) = linksOf s := linksOf_congr (answer_fabric ..) (answer_health ..)

@[simp] theorem linksOf_freeOwners (p : Owner → Bool) (s : State) : linksOf (freeOwners p s) = linksOf s :=
  linksOf_congr (freeOwners_fabric ..) (freeOwners_health ..)

/-! ### Sending -/

theorem Sent.linksOf {s t : State} (h : Sent s t) : linksOf t = linksOf s := by
  obtain ⟨_, _, rfl⟩ := h; rfl

@[simp] theorem linksOf_modStream (job : W32) (peer : W16) (onMgmt : Bool) (g : Stream → Stream) (s : State) :
    linksOf (modStream job peer onMgmt g s) = linksOf s := by simp [modStream]

@[simp] theorem linksOf_emitChord (v : Via) (dst : Ip6) (kind : BitVec 4) (h : ChordHdr) (payload : List Byte) (s : State) :
    linksOf (emitChord v dst kind h payload s) = linksOf s := (emitChord_sent ..).linksOf

@[simp] theorem linksOf_sendOn (j : Job) (peer : W16) (onMgmt : Bool) (avoid : Option (Fin 8)) (kind : BitVec 4) (h : ChordHdr)
    (payload : List Byte) (s : State) :
    linksOf (sendOn j peer onMgmt avoid kind h payload s) = linksOf s := (sendOn_sent ..).linksOf

@[simp] theorem linksOf_floodToken (job : W32) (lay : Layout) (step : W64) (tok : AbortTok) (s : State) :
    linksOf (floodToken job lay step tok s) = linksOf s := (floodToken_sent ..).linksOf

@[simp] theorem linksOf_pumpStream (fuel : Nat) (job : W32) (peer : W16) (onMgmt : Bool) (s : State) :
    linksOf (pumpStream fuel job peer onMgmt s) = linksOf s := by
  induction fuel generalizing s with
  | zero => rfl
  | succ fuel ih =>
    unfold pumpStream
    split
    · rfl
    · dsimp only
      split
      · rfl
      · simp [ih]

@[simp] theorem linksOf_sendSeq (job : W32) (peer : W16) (onMgmt : Bool) (kind : BitVec 4) (step : W64) (coll : W32)
    (offset : Nat) (final : Bool) (payload : List Byte) (s : State) :
    linksOf (sendSeq job peer onMgmt kind step coll offset final payload s) = linksOf s := by
  unfold sendSeq; split <;> simp

@[simp] theorem linksOf_pumpHost (fuel : Nat) (a b : Ip6) (job : W32) (s : State) :
    linksOf (pumpHost fuel a b job s) = linksOf s := by
  induction fuel generalizing s with
  | zero => rfl
  | succ fuel ih =>
    unfold pumpHost
    split
    · rfl
    · split
      · rfl
      · simp [ih, setHostStream]

@[simp] theorem linksOf_sendRequest (job : W32) (peer : W16) (onMgmt : Bool) (op : Nat) (payload : List Byte) (s : State) :
    linksOf (sendRequest job peer onMgmt op payload s) = linksOf s := by
  unfold sendRequest; (repeat' split) <;> simp [hostSend, setHostStream, sendMirror]

@[simp] theorem linksOf_sendQueries (job : W32) (partners : List W16) (s : State) :
    linksOf (sendQueries job partners s).1 = linksOf s := by
  refine linksOf_foldl_fst fun p r => ?_
  split <;> simp

/-! ### Reading and writing LPDDR6 -/

@[simp] theorem linksOf_pairUncorr (k : Nat) (s : State) : linksOf (pairUncorr k s) = linksOf s := by
  simp [pairUncorr, pendPair, writeFence]

@[simp] theorem linksOf_remapSector (k : Nat) (cause : Bool) (req : Byte) (s : State) :
    linksOf (remapSector k cause req s) = linksOf s := by
  simp [remapSector, pairExhaust, pendPair, writeSaved, writeFence]

/-- An error that a read meets may mark a channel pair for a fence, and no fabric port (R293, R300, R450). -/
@[simp] theorem linksOf_readSector (req : Byte) (k : Nat) (s : State) : linksOf (readSector req k s).1 = linksOf s := by
  unfold readSector; dsimp only; split <;> simp

@[simp] theorem linksOf_readRange (req : Byte) (a n : Nat) (s : State) : linksOf (readRange req a n s).1 = linksOf s := by
  refine (linksOf_foldl_fst fun p k => ?_).trans (by simp)
  split <;> next h => simp [linksOf_fst_of_eq h]

@[simp] theorem linksOf_readCells (req : Byte) (a n : Nat) (s : State) : linksOf (readCells req a n s).1 = linksOf s := by
  unfold readCells
  split
  · rfl
  · split <;> next h => simp [linksOf_fst_of_eq h]

@[simp] theorem linksOf_readBytes (req : Byte) (a n : Nat) (s : State) : linksOf (readBytes req a n s).1 = linksOf s := by
  unfold readBytes
  split <;> next h => simp [linksOf_fst_of_eq h]

@[simp] theorem linksOf_readLoc (req : Byte) (loc n : Nat) (s : State) :
    linksOf (readLoc req loc n s).1 = linksOf s := by simp [readLoc]

@[simp] theorem linksOf_readRec (req : Byte) (sh : ShardEnt) (b : Nat) (s : State) :
    linksOf (readRec req sh b s).1 = linksOf s := by
  unfold readRec
  split
  · rfl
  · split <;> next h => simp [linksOf_fst_of_eq h]

@[simp] theorem linksOf_readCommitted (req : Byte) (j : Job) (sh : ShardEnt) (s : State) :
    linksOf (readCommitted req j sh s).1 = linksOf s := by
  unfold readCommitted
  split
  · rfl
  · split <;> next h => simp [linksOf_fst_of_eq h]

@[simp] theorem linksOf_allCommitted (req : Byte) (j : Job) (shs : List ShardEnt) (s : State) :
    linksOf (allCommitted req j shs s).1 = linksOf s := by simp [allCommitted]

@[simp] theorem linksOf_readPart (req : Byte) (rule : Nat) (sh : ShardEnt) (b o n : Nat) (s : State) :
    linksOf (readPart req rule sh b o n s).1 = linksOf s := by
  unfold readPart
  split
  · rfl
  · extract_lets rd f p₁ p₂ p₃
    have hrd : ∀ loc k p, linksOf (rd loc k p).1 = linksOf p.1 := by
      intro loc k p
      simp only [rd]
      split
      · rfl
      · split
        · rfl
        · split
          · rfl
          · split <;> next h => simp [linksOf_fst_of_eq h]
    clear_value rd
    dsimp only
    split <;> next h => simp [linksOf_fst_of_eq h, hrd, p₁, p₂, p₃]

@[simp] theorem linksOf_slotDigest (req : Byte) (rule : Nat) (sh : ShardEnt) (b : Nat) (s : State) :
    linksOf (slotDigest req rule sh b s).1 = linksOf s := by
  unfold slotDigest
  split <;> next h => simp [linksOf_fst_of_eq h]

@[simp] theorem linksOf_slotVerifies (req : Byte) (rule : Nat) (sh : ShardEnt) (b : Nat) (s : State) :
    linksOf (slotVerifies req rule sh b s).1 = linksOf s := by
  unfold slotVerifies
  split
  · next h => split <;> next k => simp [linksOf_fst_of_eq k, linksOf_fst_of_eq h]
  · next h => simp [linksOf_fst_of_eq h]

@[simp] theorem linksOf_deriveShard (rule : Nat) (sh : ShardEnt) (b : Nat) (s : State) :
    linksOf (deriveShard rule sh b s).1 = linksOf s := by
  unfold deriveShard; split <;> simp

@[simp] theorem linksOf_writeCommit (job : W32) (c : CommitSector) (s : State) : linksOf (writeCommit job c s) = linksOf s := by
  unfold writeCommit; split <;> simp

@[simp] theorem linksOf_writeScaleRec (job : W32) (tag : W64) (es : List (Nat × ScaleEntry)) (s : State) :
    linksOf (writeScaleRec job tag es s) = linksOf s := by
  unfold writeScaleRec; split <;> simp

/-! ### Aborting a step (R366, R402, R457) -/

/-- A proposal of self-expulsion is granted or refused; it fences nothing (R457). -/
@[simp] theorem linksOf_evalProposal (s : State) : linksOf (evalProposal s) = linksOf s := by simp [evalProposal]

@[simp] theorem linksOf_failGathers (job : W32) (s : State) : linksOf (failGathers job s) = linksOf s := by
  unfold failGathers; (repeat' split) <;> simp [gatherStatus]

@[simp] theorem linksOf_restoreScales (j : Job) (s : State) : linksOf (restoreScales j s) = linksOf s := by
  unfold restoreScales; split <;> rfl

@[simp] theorem linksOf_settleNot (job : W32) (aborted : Bool) (s : State) : linksOf (settleNot job aborted s) = linksOf s := by
  unfold settleNot; (repeat' split) <;> simp [setFcsrStep]

/-- An abort sends its token and settles the step; the ports stay as they are (R366, R402). -/
@[simp] theorem linksOf_abortStep (job : W32) (cause : Byte) (origin : Option W16) (detected : W16) (s : State) :
    linksOf (abortStep job cause origin detected s) = linksOf s := by
  unfold abortStep; (repeat' split) <;> simp

@[simp] theorem linksOf_localFailure (job : W32) (cause : Nat) (s : State) : linksOf (localFailure job cause s) = linksOf s := by
  unfold localFailure; (repeat' split) <;> simp

/-! ### Mirrors and restores (R419, R428, R434, R435) -/

@[simp] theorem linksOf_clearPend (job : W32) (s : State) : linksOf (clearPend job s) = linksOf s := rfl

@[simp] theorem linksOf_ftlDrop (o : FtlOwner) (s : State) :
    linksOf (ftlDrop o s) = linksOf s := by simp [ftlDrop, commitFlash, eraseBlock, modBlock, settleReadOnly]

@[simp] theorem linksOf_freeFlashCopy (job : W32) (rank : W16) (s : State) :
    linksOf (freeFlashCopy job rank s) = linksOf s := by simp [freeFlashCopy]

@[simp] theorem linksOf_localHolds (j : Job) (before g : W64) (sh : ShardEnt) (s : State) :
    linksOf (localHolds j before g sh s).1 = linksOf s := by
  unfold localHolds
  dsimp only
  split
  · rfl
  · split <;> next h => simp [linksOf_fst_of_eq h]

@[simp] theorem linksOf_missingShards (j : Job) (before g : W64) (s : State) :
    linksOf (missingShards j before g s).1 = linksOf s := by
  refine linksOf_foldl_fst fun p sh => ?_
  split <;> next h => simp [linksOf_fst_of_eq h]

@[simp] theorem linksOf_restoreScaleState (j : Job) (g before : W64) (copy : Option (List (Nat × ScaleEntry))) (s : State) :
    linksOf (restoreScaleState j g before copy s) = linksOf s := by
  unfold restoreScaleState; dsimp only; (repeat' split) <;> simp [loadScales, giveScales, corrAll, noteOldTag]

@[simp] theorem linksOf_finishRestore (job : W32) (h : Hdr) (g step : W64) (moved : Nat) (before : W64)
    (copy : Option (List (Nat × ScaleEntry))) (s : State) :
    linksOf (finishRestore job h g step moved before copy s) = linksOf s := by
  unfold finishRestore; split <;> simp

@[simp] theorem linksOf_failRestore (job : W32) (h : Hdr) (moved : Nat) (s : State) :
    linksOf (failRestore job h moved s) = linksOf s := by
  unfold failRestore; split <;> simp

@[simp] theorem linksOf_restoreLocal (job : W32) (h : Hdr) (g : W64) (moved : Nat) (before : W64) (s : State) :
    linksOf (restoreLocal job h g moved before s) = linksOf s := by
  unfold restoreLocal
  split
  · rfl
  · split
    next k =>
      have hk : linksOf _ = linksOf s := (linksOf_fst_of_eq k).trans (by simp)
      split
      · simp [hk]
      · split
        next l =>
          rw [linksOf_finishRestore, linksOf_fst_of_eq l]
          split
          · split <;> next m => simp [linksOf_fst_of_eq m, hk]
          · exact hk

@[simp] theorem linksOf_localGens (j : Job) (before : W64) (s : State) : linksOf (localGens j before s).1 = linksOf s := by
  unfold localGens
  split
  · rfl
  · refine linksOf_foldl_fst fun p g => ?_
    split <;> next h => simp [linksOf_fst_of_eq h]

@[simp] theorem linksOf_nextSource (fuel : Nat) (job : W32) (h : Hdr) (explicit : Bool) (gen : W64)
    (left : List (W16 × Bool × W64)) (moved : Nat) (before : W64) (s : State) :
    linksOf (nextSource fuel job h explicit gen left moved before s) = linksOf s := by
  induction fuel generalizing s left with
  | zero => simp [nextSource]
  | succ fuel ih =>
    unfold nextSource
    split
    · rfl
    · next j _ =>
      dsimp only
      split
      · simp
      · split
        · next k => simp [linksOf_fst_of_eq k]
        · next k =>
          split
          · simp [linksOf_fst_of_eq k]
          · simp [linksOf_fst_of_eq k, ih]

@[simp] theorem linksOf_failSource (job : W32) (s : State) : linksOf (failSource job s) = linksOf s := by
  unfold failSource; split <;> simp

@[simp] theorem linksOf_chooseRestore (job : W32) (h : Hdr) (partners : List W16) (offers : List (W16 × Bool × W64))
    (s : State) :
    linksOf (chooseRestore job h partners offers s) = linksOf s := by
  unfold chooseRestore; split <;> simp

@[simp] theorem linksOf_startRestore (job : W32) (h : Hdr) (addr : Ip6) (gen : W64) (s : State) :
    linksOf (startRestore job h addr gen s) = linksOf s := by
  unfold startRestore
  split
  · rfl
  · dsimp only
    split
    · split <;> next h => simp [linksOf_fst_of_eq h]
    · simp

@[simp] theorem linksOf_finishUnbind (job : W32) (h : Hdr) (s : State) : linksOf (finishUnbind job h s) = linksOf s := by
  unfold finishUnbind; split <;> simp [endRegion]

@[simp] theorem linksOf_afterSnapshot (job : W32) (s : State) : linksOf (afterSnapshot job s) = linksOf s := by
  unfold afterSnapshot; (repeat' split) <;> simp

@[simp] theorem linksOf_failBindSnap (job : W32) (s : State) : linksOf (failBindSnap job s) = linksOf s := by
  unfold failBindSnap; split <;> simp

@[simp] theorem linksOf_settleSnapshot (job : W32) (s : State) : linksOf (settleSnapshot job s) = linksOf s := by
  unfold settleSnapshot; (repeat' split) <;> simp

@[simp] theorem linksOf_removePartner (job : W32) (peer : W16) (s : State) : linksOf (removePartner job peer s) = linksOf s := by
  unfold removePartner; (repeat' split) <;> simp

@[simp] theorem linksOf_endQuery (job : W32) (s : State) : linksOf (endQuery job s) = linksOf s := by
  unfold endQuery; dsimp only; (repeat' split) <;> simp

@[simp] theorem linksOf_dropQuery (job : W32) (who : W16 × Bool) (s : State) : linksOf (dropQuery job who s) = linksOf s := by
  unfold dropQuery; dsimp only; split <;> simp

@[simp] theorem linksOf_dropAsk (job : W32) (who : W16 × Bool) (new : List (W16 × Bool × W64)) (s : State) :
    linksOf (dropAsk job who new s) = linksOf s := by
  unfold dropAsk; split <;> simp

@[simp] theorem linksOf_askAgain (job : W32) (peer : W16) (s : State) : linksOf (askAgain job peer s) = linksOf s := by
  unfold askAgain; split <;> simp

/-- A peer that is gone ends its part in mirror operations, with nothing done to the ports (R419, R428, R435). -/
@[simp] theorem linksOf_peerGone (job : W32) (peer : W16) (detected : Bool) (s : State) :
    linksOf (peerGone job peer detected s) = linksOf s := by
  unfold peerGone; dsimp only; (repeat' split) <;> simp

/-! ### Detections and the service floor (R384, R401, R413, R455) -/

theorem map_st_vmap {v : Vector FabPort 8} {f : Fin 8 → FabPort → FabPort} (hf : ∀ i x, (f i x).st = x.st) :
    (vmap v f).map (·.st) = v.map (·.st) := by
  ext i hi
  rw [Vector.getElem_map, Vector.getElem_map]
  exact (congrArg (·.st) (vmap_get v f ⟨i, hi⟩)).trans (hf ..)

@[simp] theorem linksOf_endFill (job : W32) (st : W16) (s : State) : linksOf (endFill job st s) = linksOf s := by
  unfold endFill; (repeat' split) <;> simp

@[simp] theorem linksOf_losePeer (job : W32) (peer : W16) (detected : Bool) (s : State) :
    linksOf (losePeer job peer detected s) = linksOf s := by
  unfold losePeer; dsimp only; split <;> simp

/-- A port that a rehearsal withdrew comes back to Chord use in the state that it has (R467). -/
@[simp] theorem linksOf_endInjection (outcome : Nat) (s : State) : linksOf (endInjection outcome s) = linksOf s := by
  unfold endInjection
  split
  · rfl
  · simp [logReh, map_st_vmap]

@[simp] theorem linksOf_endDrop (s : State) : linksOf (endDrop s) = linksOf s := by
  unfold endDrop; split <;> simp

@[simp] theorem linksOf_detectNoPort (job : W32) (peer : W16) (s : State) : linksOf (detectNoPort job peer s) = linksOf s := by
  unfold detectNoPort; dsimp only; split <;> simp

/-- The judgement of the members by their common ports reads the ports only (R384, R401). -/
@[simp] theorem linksOf_detectNoPorts (s : State) : linksOf (detectNoPorts s) = linksOf s := by
  refine linksOf_foldl fun t j => ?_
  split <;> simp

@[simp] theorem linksOf_stopSectorFacets (k : Fin 4) (s : State) : linksOf (stopSectorFacets k s) = linksOf s :=
  linksOf_foldl fun _ _ => rfl

@[simp] theorem linksOf_stopArcs (s : State) : linksOf (stopArcs s) = linksOf s := by simp [stopArcs]

@[simp] theorem linksOf_enterBelowFloor (s : State) : linksOf (enterBelowFloor s) = linksOf s := by simp [enterBelowFloor]

/-- Below the service floor steps fail and Arcs stop; the ports stay as they are (R454, R455). -/
@[simp] theorem linksOf_checkFloor (s : State) : linksOf (checkFloor s) = linksOf s := by simp [checkFloor]

end Sys2Proof.Machine
end

section
/-! Fabric ports, and the IPv6 functions of the interfaces (O32). -/

namespace Sys2Proof.Machine

/-! ### One port among the ports -/

theorem portState_of_linksOf {s t : State} (h : linksOf t = linksOf s) (p : Fin 8) :
    (t.fabric.ports[p]).st = (s.fabric.ports[p]).st := by
  have hv : t.fabric.ports.map (·.st) = s.fabric.ports.map (·.st) := congrArg Prod.fst h
  have hp := congrArg (fun v : Vector Nat 8 => v[p]) hv
  simpa only [Fin.getElem_fin, Vector.getElem_map] using hp

theorem fenced_of_linksOf {s t : State} (h : linksOf t = linksOf s) : t.health.fabric = s.health.fabric := congrArg Prod.snd h

theorem modPort_self (p : Fin 8) (g : FabPort → FabPort) (s : State) :
    (modPort p g s).fabric.ports[p] = g s.fabric.ports[p] := vupd_self ..

theorem modPort_ne {p q : Fin 8} (h : q ≠ p) (g : FabPort → FabPort) (s : State) :
    (modPort p g s).fabric.ports[q] = s.fabric.ports[q] := vupd_ne _ _ _ _ h

theorem finOf_val {k : Nat} (i : Fin (k + 1)) : (finOf i.val : Fin (k + 1)) = i := Fin.ext (Nat.mod_eq_of_lt i.isLt)

/-- A solicitation leaves the fabric as it is. -/
@[simp] theorem solicit_fabric (p : Fin 8) (s : State) : (solicit p s).fabric = s.fabric := by
  obtain ⟨_, _, h⟩ := solicit_sent p s
  rw [h]

/-! ### Ports that come and go (R376, R377) -/

section
variable {p : Fin 8} {s : State}

/-- A running port that loses its link retrains, and no other port changes its state. -/
theorem exec_portLinkLoss (hup : linkUp s p = true) : ∃ u, exec (.portLinkLoss p) s = .next u ∧ (u.fabric.ports[p]).st = 2 ∧
    ∀ q : Fin 8, q ≠ p → (u.fabric.ports[q]).st = (s.fabric.ports[q]).st := by
  have hlinks : linksOf (settleSideband (detectNoPorts (counter 7 1 (evidence 0x15 1
      (modPort p (fun x => { x with st := 2 }) s))))) = linksOf (modPort p (fun x => { x with st := 2 }) s) := by simp
  refine ⟨_, congrArg Host.Outcome.next (if_pos hup), ?_, fun q hq => ?_⟩
  · exact (portState_of_linksOf hlinks p).trans (congrArg (·.st) (modPort_self ..))
  · exact (portState_of_linksOf hlinks q).trans (congrArg (·.st) (modPort_ne hq ..))

/-- A pause frame is discarded and counted. -/
theorem exec_pauseFrame (hup : linkUp s p = true) : ∃ u, exec (.pauseFrame p) s = .next u ∧
    (u.fabric.ports[p]).frames = (s.fabric.ports[p]).frames + 1 ∧
    sget 0 u.health.counters 3 = sget 0 s.health.counters 3 + 1 :=
  ⟨_, congrArg Host.Outcome.next (if_pos hup), congrArg (·.frames) (modPort_self ..), counter_counters 3 1 (countFrame (.fabric p) s)⟩

section
variable (hst : (s.fabric.ports[p]).st = 2) (hans : answering s = true)
include hst hans

/-- A port that has retrained returns to Chord use, with or without an address. -/
theorem exec_fabricPortRetrained : ∃ u, exec (.fabricPortRetrained p) s = .next u ∧
    (u.fabric.ports[p]).st = if (s.fabric.ports[p]).addr = 0 then 3 else 4 := by
  refine ⟨_, congrArg Host.Outcome.next (if_pos ⟨hst, hans⟩), ?_⟩
  rw [solicit_fabric, settleSideband_fabric, modPort_self]
  rfl

/-- A port that does not retrain is fenced. -/
theorem exec_portRetrainTimeout (hin : s.health.fabric.getLsbD p.val = false) : ∃ u, exec (.portRetrainTimeout p) s = .next u ∧
    (u.fabric.ports[p]).st = 0 ∧ u.health.fabric.getLsbD p.val = true := by
  refine ⟨_, congrArg Host.Outcome.next (if_pos ⟨hst, hans⟩), ?_⟩
  have hlinks : linksOf (fenceUnit 3 p.val s) = linksOf (modPort p (fun x => { x with st := 0 }) (setFenced 3 p.val s)) := by
    rw [fenceUnit, isFenced, hin, if_neg Bool.false_ne_true]
    dsimp only
    rw [finOf_val]
    simp
  constructor
  · exact (portState_of_linksOf hlinks p).trans (congrArg (·.st) (modPort_self ..))
  · rw [fenced_of_linksOf hlinks, modPort_health, setFenced, getLsbD_setBit]
    simp

end

/-! ### The fabric commands (R379, R380) -/

/-- A port that takes an address: its state says whether it has one, where its link is up. -/
def addressed (addr : Ip6) (x : FabPort) : FabPort :=
  let y := { x with addr := addr }
  if 3 ≤ x.st then { y with st := upState y } else y

theorem addressed_addr (addr : Ip6) (x : FabPort) : (addressed addr x).addr = addr := by
  unfold addressed
  dsimp only
  split <;> rfl

theorem addressed_st {x : FabPort} (hup : 3 ≤ x.st) (addr : Ip6) : (addressed addr x).st = if addr = 0 then 3 else 4 := by
  rw [addressed, if_pos hup]
  rfl

/-- A configuration that passes its checks. -/
theorem fabricConfigBody_configures {port : Byte} {tDetect : W32} {addr : Ip6} (hp : port.toNat = p.val) (hlo : 50 ≤ tDetect.toNat)
    (hhi : tDetect.toNat ≤ 1000) (ha : addr = 0 ∨ globalUnicast addr = true) (hin : s.health.fabric.getLsbD p.val = false)
    (hidle : s.jobs.any armed = false) (h : Hdr) : fabricConfigBody h port tDetect addr s =
      complete h stOk [] (solicit p (settleSideband (modPort p (addressed addr) { s with fabric.tDetect := tDetect.toNat }))) := by
  have hargs : ¬(7 < port.toNat ∨ tDetect.toNat < 50 ∨ 1000 < tDetect.toNat ∨ (!(addr == 0 || globalUnicast addr)) = true) := by
    have hvalid : (addr == 0 || globalUnicast addr) = true := by
      rw [Bool.or_eq_true, beq_iff_eq]
      exact ha
    rintro (hbad | hbad | hbad | hbad)
    · omega
    · omega
    · omega
    · rw [hvalid] at hbad
      cases hbad
  rw [fabricConfigBody, if_neg hargs, hp, hin, hidle, finOf_val]
  rfl

theorem portStatusBody_reports {port : Byte} (hp : port.toNat = p.val) (h : Hdr) : portStatusBody h port s = complete h stOk
    (leBytes 1 (if s.health.fabric.getLsbD p.val then 0 else (s.fabric.ports[p]).st) ++ zeros 3 ++
      leBytes 4 (s.fabric.ports[p]).stale.toNat ++ leBytes 8 (s.fabric.ports[p]).frames.toNat) s := by
  have hport : ¬ 7 < p.val := by omega
  simp only [portStatusBody, hp, if_neg hport, finOf_val]

end

/-! ### IPv6 (R378, R461) -/

section
variable {v : Via} {s : State} (hup : viaLink s v = true) (src : Ip6)
include hup

/-- A solicitation for an address of an interface that may send is answered with its MAC address. -/
theorem exec_neighborSolicitation_own {target : Ip6} (ht : target ∈ addrsOf s v) (hsend : viaSends s v = true) :
    exec (.neighborSolicitation v target src) s =
      .next (emit (.icmp v (if src = 0 then 0xFF020000000000000000000000000001 else src) 136
        (beBytes 16 target.toNat ++ beBytes 6 (macOf s v).toNat)) (countFrame v s)) := by
  simp only [exec, execNeighborSolicitation, hup, List.contains_iff_mem.2 ht, hsend, Bool.and_self, if_true]

/-- Another solicitation only counts as a frame. -/
theorem exec_neighborSolicitation_other {target : Ip6} (ht : target ∉ addrsOf s v ∨ viaSends s v = false) :
    exec (.neighborSolicitation v target src) s = .next (countFrame v s) := by
  have hno : ((addrsOf s v).contains target && viaSends s v) = false := by
    rw [Bool.and_eq_false_iff]
    exact ht.imp_left fun h => Bool.eq_false_of_not_eq_true (mt List.contains_iff_mem.1 h)
  simp only [exec, execNeighborSolicitation, hup, hno, Bool.false_eq_true, if_true, if_false]

/-- An Echo Request that fits the interface is answered with its body. -/
theorem exec_icmpv6Echo_answered {body : List Byte} (hfits : oversized v (48 + body.length) = false) (ha : addrsOf s v ≠ [])
    (hsend : viaSends s v = true) :
    exec (.icmpv6Echo v src body) s = .next (emit (.icmp v src 129 body) (countFrame v s)) := by
  simp only [exec, execIcmpv6Echo, hup, hfits, List.isEmpty_eq_false_iff.2 ha, hsend, Bool.not_false, Bool.and_self,
    Bool.false_eq_true, if_true, if_false]

/-- A packet too long for the interface is dropped and counted. -/
theorem exec_icmpv6Echo_oversized {body : List Byte} (hlong : oversized v (48 + body.length) = true) :
    exec (.icmpv6Echo v src body) s = .next (counter 6 1 (countFrame v s)) := by
  simp only [exec, execIcmpv6Echo, hup, hlong, if_true]

end

section
variable {s : State} (mac : BitVec 48) (pre : W64)

/-- A fabric port learns its default router. -/
theorem exec_routerAdvertisement_fabric {p : Fin 8} (hup : viaLink s (.fabric p) = true) :
    ∃ u, exec (.routerAdvertisement (.fabric p) mac pre) s = .next u ∧ (u.fabric.ports[p]).router = some mac :=
  ⟨_, congrArg Host.Outcome.next (if_pos hup), congrArg (·.router) (modPort_self ..)⟩

/-- A management port learns the first half of its global address (R461). -/
theorem exec_routerAdvertisement_mgmt {p : Fin 2} (hup : viaLink s (.mgmt p) = true) :
    ∃ u, exec (.routerAdvertisement (.mgmt p) mac pre) s = .next u ∧ pre ∈ (u.mgmt.ports[p]).prefixes := by
  refine ⟨_, congrArg Host.Outcome.next (if_pos hup), ?_⟩
  dsimp only
  rw [vupd_self]
  split
  · next hknown => exact List.contains_iff_mem.1 hknown
  · exact List.mem_append_right _ (List.mem_singleton_self pre)

end

theorem oversized_eq_false {v : Via} {n : Nat} (h : ∀ p, v = .fabric p → n ≤ 9000) : oversized v n = false := by
  cases v with
  | fabric p => exact decide_eq_false (h p rfl).not_gt
  | mgmt p => rfl

/-- Settles O32: each event and command of a port by its own rule, and each IPv6 packet by what it asks of its interface. -/
theorem fabricPortsAndInterfaces : Obligations.FabricPortsAndInterfaces := by
  unfold Obligations.FabricPortsAndInterfaces
  refine ⟨fun p h s => ⟨fun hup => ⟨exec_portLinkLoss hup, exec_pauseFrame hup⟩,
    fun hst hans => ⟨exec_fabricPortRetrained hst hans, exec_portRetrainTimeout hst hans⟩, ?_, ?_⟩,
    fun v src s hup => ⟨fun target => ⟨exec_neighborSolicitation_own hup src, exec_neighborSolicitation_other hup src⟩, ?_, ?_⟩⟩
  · intro port tDetect addr hacc hp hlo hhi ha hin hidle
    have hbody := fabricConfigBody_configures (s := startCmd h s) hp hlo hhi ha (by rwa [startCmd_health]) (by rwa [startCmd_jobs]) h
    refine ⟨_, _, (exec_accepted rfl hacc).trans (congrArg _ hbody), rfl, ?_⟩
    rw [complete_fabric, solicit_fabric, settleSideband_fabric, modPort_self]
    refine ⟨rfl, addressed_addr .., fun hlink => addressed_st ?_ addr⟩
    rwa [← startCmd_fabric h] at hlink
  · intro port hacc hp
    have hbody := portStatusBody_reports (s := startCmd h s) hp h
    rw [startCmd_health, startCmd_fabric] at hbody
    exact (exec_accepted rfl hacc).trans (congrArg _ hbody)
  · refine fun body => ⟨fun ha hsend hfits => exec_icmpv6Echo_answered hup src (oversized_eq_false hfits) ha hsend, ?_⟩
    rintro p rfl hlong
    exact exec_icmpv6Echo_oversized hup src (decide_eq_true hlong)
  · refine fun mac pre => ⟨?_, ?_⟩
    · rintro p rfl
      exact exec_routerAdvertisement_fabric mac pre hup
    · rintro p rfl
      exact exec_routerAdvertisement_mgmt mac pre hup

end Sys2Proof.Machine
end

section
/-! The step and the queue of waiting commands (O50, O57; log 1). -/

namespace Sys2Proof.Machine

/-- Settles O50: what a step is on each form of the queue. -/
theorem stepRunsFrontCommand : Obligations.StepRunsFrontCommand := by
  unfold Obligations.StepRunsFrontCommand
  exact ⟨fun c q s => rfl, fun s hempty => by rw [step, hempty]⟩

theorem pending_of_steadyOf {s t : State} (h : steadyOf false t = steadyOf false s) : t.pending = s.pending :=
  congrArg Prod.fst h

/-- A command whose own effect keeps the queue keeps it. -/
theorem runCmd_keeps_pending {body : State → State} (hbody : ∀ t, (body t).pending = t.pending) (c : Cat) (h : Hdr) (s : State) :
    (runCmd c h body s).pending = s.pending := by
  obtain hruns | hsteady := runCmd_runs_or_steady c h body s
  · rw [hruns, hbody, startCmd_pending]
  · exact pending_of_steadyOf hsteady

theorem fwSvnCommitBody_pending (h : Hdr) (flags : Nat) (cut : Option Nat) (s : State) :
    (fwSvnCommitBody h flags cut s).pending = s.pending := by
  unfold fwSvnCommitBody
  split
  · simp
  · split
    · simp
    · split
      · simp
      · split
        · simp
        · cases cut <;> simp

theorem fuseBurnBody_pending (h : Hdr) (b : List Byte) (cut : Option Nat) (s : State) :
    (fuseBurnBody h b cut s).pending = s.pending := by
  unfold fuseBurnBody
  dsimp only
  split
  · simp
  · split
    · simp
    · split
      · simp
      · split
        · simp
        · cases cut <;> simp

/-- Settles O57: the two commands that burn fuses by their own effects, every other one by what it keeps beside the fuses. -/
theorem effectsLeaveTheQueue : Obligations.EffectsLeaveTheQueue := by
  unfold Obligations.EffectsLeaveTheQueue
  intro c s t ht
  by_cases hsvn : ∃ h f n, c = .fwSvnCommit h f n
  · obtain ⟨h, f, n, rfl⟩ := hsvn
    cases ht
    exact runCmd_keeps_pending (fun u => fwSvnCommitBody_pending ..) ..
  by_cases hburn : ∃ h b n, c = .fuseBurn h b n
  · obtain ⟨h, b, n, rfl⟩ := hburn
    cases ht
    exact runCmd_keeps_pending (fun u => fuseBurnBody_pending ..) ..
  · push Not at hsvn hburn
    exact pending_of_steadyOf (steady_exec c s hsvn hburn t ht)

end Sys2Proof.Machine
end

section
/-! `FAULT`, `SPARE_RDY#` and the fenced columns (O58, O35): every shared operation but those of the sideband, the resets and the
fences leaves them alone, one lemma per operation, in the order of the model. -/

namespace Sys2Proof.Machine

variable {κ : Bool}

/-- What `FAULT` and `SPARE_RDY#` show, and with `κ` the fenced columns too: what no shared operation of the model changes but
those of the fences and of the sideband itself. -/
def levelsOf (κ : Bool) (s : State) : Bool × Bool × Option (BitVec 12) :=
  (s.pins.fault, s.pins.spareRdy, if κ then some s.health.columns else none)

/-- A state put together from parts shows what its pins and its health part say. -/
@[simp] theorem levelsOf_mk (pending out freeIx phase srEntry pins aon smb jrn sec mbx d2d mem hostMem objs flash facets mesh
    sectors owners jobs fabric regions mgmt health) :
    levelsOf κ ⟨pending, out, freeIx, phase, srEntry, pins, aon, smb, jrn, sec, mbx, d2d, mem, hostMem, objs, flash, facets,
      mesh, sectors, owners, jobs, fabric, regions, mgmt, health⟩ =
      (pins.fault, pins.spareRdy, if κ then some health.columns else none) :=
  rfl

@[simp] theorem levelsOf_parts (s : State) :
    (s.pins.fault, s.pins.spareRdy, if κ then some s.health.columns else none) = levelsOf κ s :=
  rfl

@[simp] theorem levelsOf_parts_false (s : State) : (s.pins.fault, s.pins.spareRdy, none) = levelsOf false s := rfl

@[simp] theorem levelsOf_ite (c : Prop) [Decidable c] (x y : State) :
    levelsOf κ (if c then x else y) = if c then levelsOf κ x else levelsOf κ y :=
  apply_ite ..

@[simp] theorem levelsOf_fst_ite {α : Type} (c : Prop) [Decidable c] (x y : State × α) :
    levelsOf κ (if c then x else y).1 = if c then levelsOf κ x.1 else levelsOf κ y.1 :=
  apply_ite (fun p : State × α => levelsOf κ p.1) ..

@[simp] theorem levelsOf_snd_ite {α : Type} (c : Prop) [Decidable c] (x y : α × State) :
    levelsOf κ (if c then x else y).2 = if c then levelsOf κ x.2 else levelsOf κ y.2 :=
  apply_ite (fun p : α × State => levelsOf κ p.2) ..

/-- Steps that each keep it keep it together. -/
@[simp] theorem levelsOf_foldl {α : Type} {g : State → α → State} {l : List α} {s : State}
    (hg : ∀ t a, levelsOf κ (g t a) = levelsOf κ t) : levelsOf κ (l.foldl g s) = levelsOf κ s :=
  List.foldlRecOn (motive := fun t => levelsOf κ t = levelsOf κ s) l g rfl fun t ht a _ => (hg t a).trans ht

/-- Steps that carry a value along keep it together where each of them does. -/
@[simp] theorem levelsOf_foldl_fst {α β : Type} {g : State × β → α → State × β} {l : List α} {p : State × β}
    (hg : ∀ q a, levelsOf κ (g q a).1 = levelsOf κ q.1) : levelsOf κ (l.foldl g p).1 = levelsOf κ p.1 :=
  List.foldlRecOn (motive := fun q => levelsOf κ q.1 = levelsOf κ p.1) l g rfl fun q hq a _ => (hg q a).trans hq

theorem levelsOf_fst_of_eq {α : Type} {p : State × α} {t : State} {a : α} (h : p = (t, a)) :
    levelsOf κ t = levelsOf κ p.1 := by
  rw [h]

/-! ### Flags -/

@[simp] theorem levelsOf_emit (e s) : levelsOf κ (emit e s) = levelsOf κ s := by simp [emit]
@[simp] theorem levelsOf_emits (es s) : levelsOf κ (emits es s) = levelsOf κ s := by simp [emits]
@[simp] theorem levelsOf_freeVal (s) : levelsOf κ (freeVal s).2 = levelsOf κ s := by simp [freeVal]
@[simp] theorem levelsOf_sendMsix (v s) : levelsOf κ (sendMsix v s) = levelsOf κ s := by simp [sendMsix]
@[simp] theorem levelsOf_setEvents (ev en s) : levelsOf κ (setEvents ev en s) = levelsOf κ s := by simp [setEvents]
@[simp] theorem levelsOf_raiseEvent (k s) : levelsOf κ (raiseEvent k s) = levelsOf κ s := by simp [raiseEvent]
@[simp] theorem levelsOf_raiseAlert (k s) : levelsOf κ (raiseAlert k s) = levelsOf κ s := by simp [raiseAlert]
@[simp] theorem levelsOf_clearAlert (m s) : levelsOf κ (clearAlert m s) = levelsOf κ s := by simp [clearAlert]
@[simp] theorem levelsOf_setSbState (v s) : levelsOf κ (setSbState v s) = levelsOf κ s := by simp [setSbState]
@[simp] theorem levelsOf_setReplaceReq (b s) : levelsOf κ (setReplaceReq b s) = levelsOf κ s := by simp [setReplaceReq]

/-! ### Ops -/

@[simp] theorem levelsOf_modFacet (f g s) : levelsOf κ (modFacet f g s) = levelsOf κ s := by simp [modFacet]
@[simp] theorem levelsOf_modSector (n g s) : levelsOf κ (modSector n g s) = levelsOf κ s := by simp [modSector]
@[simp] theorem levelsOf_modRing (n g s) : levelsOf κ (modRing n g s) = levelsOf κ s := by simp [modRing]
@[simp] theorem levelsOf_modPort (p g s) : levelsOf κ (modPort p g s) = levelsOf κ s := by simp [modPort]
@[simp] theorem levelsOf_modJob (j g s) : levelsOf κ (modJob j g s) = levelsOf κ s := by simp [modJob]
@[simp] theorem levelsOf_modRun (j g s) : levelsOf κ (modRun j g s) = levelsOf κ s := by simp [modRun]
@[simp] theorem levelsOf_modObj (o g s) : levelsOf κ (modObj o g s) = levelsOf κ s := by simp [modObj]
@[simp] theorem levelsOf_writeBoot (g s) : levelsOf κ (writeBoot g s) = levelsOf κ s := by simp [writeBoot]
@[simp] theorem levelsOf_writeFence (g s) : levelsOf κ (writeFence g s) = levelsOf κ s := by simp [writeFence]
@[simp] theorem levelsOf_writeHcfg (g s) : levelsOf κ (writeHcfg g s) = levelsOf κ s := by simp [writeHcfg]
@[simp] theorem levelsOf_writeHst (s) : levelsOf κ (writeHst s) = levelsOf κ s := by simp [writeHst]
@[simp] theorem levelsOf_writeMemCfg (g s) : levelsOf κ (writeMemCfg g s) = levelsOf κ s := by simp [writeMemCfg]
@[simp] theorem levelsOf_writeDir (g s) : levelsOf κ (writeDir g s) = levelsOf κ s := by simp [writeDir]
@[simp] theorem levelsOf_writeSaved (n g s) : levelsOf κ (writeSaved n g s) = levelsOf κ s := by simp [writeSaved]
@[simp] theorem levelsOf_evidence (c n s) : levelsOf κ (evidence c n s) = levelsOf κ s := by simp [evidence]
@[simp] theorem levelsOf_counter (i n s) : levelsOf κ (counter i n s) = levelsOf κ s := by simp [counter]
@[simp] theorem levelsOf_logHealth (kind unit index info s) : levelsOf κ (logHealth kind unit index info s) = levelsOf κ s := by
  simp [logHealth]
@[simp] theorem levelsOf_logReh (r s) : levelsOf κ (logReh r s) = levelsOf κ s := by simp [logReh]

@[simp] theorem levelsOf_logMem (kind req dpa hasSector sym s) :
    levelsOf κ (logMem kind req dpa hasSector sym s) = levelsOf κ s := by
  simp [logMem]

@[simp] theorem levelsOf_pendPair (k s) : levelsOf κ (pendPair k s) = levelsOf κ s := by simp [pendPair]
@[simp] theorem levelsOf_pairUncorr (k s) : levelsOf κ (pairUncorr k s) = levelsOf κ s := by simp [pairUncorr]
@[simp] theorem levelsOf_pairExhaust (k s) : levelsOf κ (pairExhaust k s) = levelsOf κ s := by simp [pairExhaust]
@[simp] theorem levelsOf_remapSector (k cause req s) : levelsOf κ (remapSector k cause req s) = levelsOf κ s := by
  simp [remapSector]
@[simp] theorem levelsOf_readSector (req k s) : levelsOf κ (readSector req k s).1 = levelsOf κ s := by
  unfold readSector; dsimp only; split <;> simp
@[simp] theorem levelsOf_snoopOut (inv a n s) : levelsOf κ (snoopOut inv a n s) = levelsOf κ s := by simp [snoopOut]

@[simp] theorem levelsOf_readRange (req a n s) : levelsOf κ (readRange req a n s).1 = levelsOf κ s := by
  refine (levelsOf_foldl_fst fun p k => ?_).trans (by simp)
  split <;> next h => simp [levelsOf_fst_of_eq h]

@[simp] theorem levelsOf_readCells (req a n s) : levelsOf κ (readCells req a n s).1 = levelsOf κ s := by
  unfold readCells
  split
  · rfl
  · split <;> next h => simp [levelsOf_fst_of_eq h]

@[simp] theorem levelsOf_readBytes (req a n s) : levelsOf κ (readBytes req a n s).1 = levelsOf κ s := by
  unfold readBytes
  split <;> next h => simp [levelsOf_fst_of_eq h]

@[simp] theorem levelsOf_noteDirty (a n s) : levelsOf κ (noteDirty a n s) = levelsOf κ s := by simp [noteDirty]
@[simp] theorem levelsOf_noteProgress (a n s) : levelsOf κ (noteProgress a n s) = levelsOf κ s := by simp [noteProgress]
@[simp] theorem levelsOf_noteWrite (a n s) : levelsOf κ (noteWrite a n s) = levelsOf κ s := by simp [noteWrite]
@[simp] theorem levelsOf_writeCells (a n src s) : levelsOf κ (writeCells a n src s) = levelsOf κ s := by simp [writeCells]
@[simp] theorem levelsOf_writeBytes (a bs s) : levelsOf κ (writeBytes a bs s) = levelsOf κ s := by simp [writeBytes]
@[simp] theorem levelsOf_zeroRange (a n s) : levelsOf κ (zeroRange a n s) = levelsOf κ s := by simp [zeroRange]
@[simp] theorem levelsOf_setOwner (g o s) : levelsOf κ (setOwner g o s) = levelsOf κ s := by simp [setOwner]
@[simp] theorem levelsOf_freeOwners (p s) : levelsOf κ (freeOwners p s) = levelsOf κ s := by simp [freeOwners]

/-! ### Mailbox -/

@[simp] theorem levelsOf_ringError (n code s) : levelsOf κ (ringError n code s) = levelsOf κ s := by simp [ringError]
@[simp] theorem levelsOf_failSlot (n c s) : levelsOf κ (failSlot n c s) = levelsOf κ s := by simp [failSlot]
@[simp] theorem levelsOf_writeSlot (n c s) : levelsOf κ (writeSlot n c s) = levelsOf κ s := by simp [writeSlot]
@[simp] theorem levelsOf_flushRing (fuel n s) : levelsOf κ (flushRing fuel n s) = levelsOf κ s := by
  simp only [levelsOf, flushRing_pins, flushRing_health]
@[simp] theorem levelsOf_pushCpl (n c s) : levelsOf κ (pushCpl n c s) = levelsOf κ s := by simp [pushCpl]
@[simp] theorem levelsOf_emitCpl (xid total segs s) : levelsOf κ (emitCpl xid total segs s) = levelsOf κ s := by simp [emitCpl]

@[simp] theorem levelsOf_sendCpl (h status final result buf s) :
    levelsOf κ (sendCpl h status final result buf s) = levelsOf κ s := by
  simp [sendCpl]

@[simp] theorem levelsOf_answer (h status final result buf s) :
    levelsOf κ (answer h status final result buf s) = levelsOf κ s := by
  unfold answer; split <;> simp

@[simp] theorem levelsOf_startCmd (h s) : levelsOf κ (startCmd h s) = levelsOf κ s := by unfold startCmd; split <;> simp

@[simp] theorem levelsOf_runCmd (c h body s) (hb : ∀ t, levelsOf κ (body t) = levelsOf κ t) :
    levelsOf κ (runCmd c h body s) = levelsOf κ s := by
  unfold runCmd; dsimp only; (repeat' split) <;> simp [hb]

/-! ### FacetOps -/

@[simp] theorem levelsOf_stopSectorFacets (n s) : levelsOf κ (stopSectorFacets n s) = levelsOf κ s := by simp [stopSectorFacets]

@[simp] theorem levelsOf_facetError (f code precise pc detail s) :
    levelsOf κ (facetError f code precise pc detail s) = levelsOf κ s := by
  simp [facetError, evidence]

@[simp] theorem levelsOf_eccCorrected (f spm arr s) : levelsOf κ (eccCorrected f spm arr s) = levelsOf κ s := by
  simp [eccCorrected]
@[simp] theorem levelsOf_issue (f op i e u row body s) : levelsOf κ (issue f op i e u row body s) = levelsOf κ s := by
  unfold issue; dsimp only; (repeat' split) <;> simp
@[simp] theorem levelsOf_viewSpent (fi r seq s t) : levelsOf κ (viewSpent fi r seq s t) = levelsOf κ t := by simp [viewSpent]

/-! ### FacetUnits -/

@[simp] theorem levelsOf_issueVe (fn u f i e s) : levelsOf κ (issueVe fn u f i e s) = levelsOf κ s := by simp [issueVe]
@[simp] theorem levelsOf_eccMark (fi e a v s) : levelsOf κ (eccMark fi e a v s) = levelsOf κ s := by simp [eccMark]
@[simp] theorem levelsOf_eccFault (fi e pc s) : levelsOf κ (eccFault fi e pc s) = levelsOf κ s := by
  unfold eccFault; split <;> simp
@[simp] theorem levelsOf_withEcc (fi e pc a v op s) : levelsOf κ (withEcc fi e pc a v op s) = levelsOf κ s := by simp [withEcc]
@[simp] theorem levelsOf_startLoad (fi e s) : levelsOf κ (startLoad fi e s) = levelsOf κ s := by
  unfold startLoad; dsimp only; (repeat' split) <;> simp
@[simp] theorem levelsOf_startRun (fi s) : levelsOf κ (startRun fi s) = levelsOf κ s := by
  unfold startRun; dsimp only; (repeat' split) <;> simp
@[simp] theorem levelsOf_startAcc (fi e s) : levelsOf κ (startAcc fi e s) = levelsOf κ s := by
  unfold startAcc; dsimp only; (repeat' split) <;> simp
@[simp] theorem levelsOf_startVe (fi e s) : levelsOf κ (startVe fi e s) = levelsOf κ s := by
  unfold startVe; dsimp only; (repeat' split) <;> simp
@[simp] theorem levelsOf_startDma (fi s) : levelsOf κ (startDma fi s) = levelsOf κ s := by
  unfold startDma; dsimp only; split <;> simp
@[simp] theorem levelsOf_startTok (fi s) : levelsOf κ (startTok fi s) = levelsOf κ s := by
  unfold startTok; dsimp only; (repeat' split) <;> simp

/-! ### FoldOps -/

@[simp] theorem levelsOf_readLoc (req loc n s) : levelsOf κ (readLoc req loc n s).1 = levelsOf κ s := by simp [readLoc]
@[simp] theorem levelsOf_writeLoc (loc n src s) : levelsOf κ (writeLoc loc n src s) = levelsOf κ s := by simp [writeLoc]

@[simp] theorem levelsOf_readRec (req sh b s) : levelsOf κ (readRec req sh b s).1 = levelsOf κ s := by
  unfold readRec
  split
  · rfl
  · split <;> next h => simp [levelsOf_fst_of_eq h]

@[simp] theorem levelsOf_putRec (sh b r s) : levelsOf κ (putRec sh b r s) = levelsOf κ s := by unfold putRec; split <;> simp
@[simp] theorem levelsOf_putShardHeader (rule sh s) : levelsOf κ (putShardHeader rule sh s) = levelsOf κ s := by
  unfold putShardHeader; split <;> simp
@[simp] theorem levelsOf_writeCommit (job c s) : levelsOf κ (writeCommit job c s) = levelsOf κ s := by
  unfold writeCommit; split <;> simp

@[simp] theorem levelsOf_readCommitted (req j sh s) : levelsOf κ (readCommitted req j sh s).1 = levelsOf κ s := by
  unfold readCommitted
  split
  · rfl
  · split <;> next h => simp [levelsOf_fst_of_eq h]

@[simp] theorem levelsOf_allCommitted (req j shs s) : levelsOf κ (allCommitted req j shs s).1 = levelsOf κ s := by
  simp [allCommitted]

@[simp] theorem levelsOf_readPart (req rule sh b o n s) : levelsOf κ (readPart req rule sh b o n s).1 = levelsOf κ s := by
  unfold readPart
  split
  · rfl
  · extract_lets rd f p₁ p₂ p₃
    have hrd : ∀ loc k p, levelsOf κ (rd loc k p).1 = levelsOf κ p.1 := by
      intro loc k p
      simp only [rd]
      split
      · rfl
      · split
        · rfl
        · split
          · rfl
          · split <;> next h => simp [levelsOf_fst_of_eq h]
    clear_value rd
    dsimp only
    split <;> next h => simp [levelsOf_fst_of_eq h, hrd, p₁, p₂, p₃]

@[simp] theorem levelsOf_mergeLoc (req loc n src s) : levelsOf κ (mergeLoc req loc n src s).1 = levelsOf κ s := by
  unfold mergeLoc
  dsimp only
  split
  · rfl
  · split
    · simp
    · split
      · next h => simp [levelsOf_fst_of_eq h]
      · next h => split <;> next k => simp [levelsOf_fst_of_eq k, levelsOf_fst_of_eq h]

@[simp] theorem levelsOf_putVals (loc vs s) : levelsOf κ (putVals loc vs s) = levelsOf κ s := by simp [putVals]
@[simp] theorem levelsOf_writePart (rule sh b o p s) : levelsOf κ (writePart rule sh b o p s).1 = levelsOf κ s := by
  unfold writePart; split <;> simp

@[simp] theorem levelsOf_slotDigest (req rule sh b s) : levelsOf κ (slotDigest req rule sh b s).1 = levelsOf κ s := by
  unfold slotDigest
  split <;> next h => simp [levelsOf_fst_of_eq h]

@[simp] theorem levelsOf_slotVerifies (req rule sh b s) : levelsOf κ (slotVerifies req rule sh b s).1 = levelsOf κ s := by
  unfold slotVerifies
  split
  · next h => split <;> next k => simp [levelsOf_fst_of_eq k, levelsOf_fst_of_eq h]
  · next h => simp [levelsOf_fst_of_eq h]

@[simp] theorem levelsOf_slotImage (req rule sh b r s) : levelsOf κ (slotImage req rule sh b r s).1 = levelsOf κ s := by
  unfold slotImage
  split
  · rfl
  · split
    · next h => simp [levelsOf_fst_of_eq h]
    · next h => split <;> next k => simp [levelsOf_fst_of_eq k, levelsOf_fst_of_eq h]

@[simp] theorem levelsOf_putImage (rule sh b img s) : levelsOf κ (putImage rule sh b img s) = levelsOf κ s := by
  unfold putImage; split <;> simp
@[simp] theorem levelsOf_deriveShard (rule sh b s) : levelsOf κ (deriveShard rule sh b s).1 = levelsOf κ s := by
  unfold deriveShard; split <;> simp
@[simp] theorem levelsOf_giveScales (cols es s) : levelsOf κ (giveScales cols es s) = levelsOf κ s := by simp [giveScales]
@[simp] theorem levelsOf_giveScalesOf (had cols es s) : levelsOf κ (giveScalesOf had cols es s) = levelsOf κ s := by
  simp [giveScalesOf]
@[simp] theorem levelsOf_mapScales (cols g s) : levelsOf κ (mapScales cols g s) = levelsOf κ s := by simp [mapScales]
@[simp] theorem levelsOf_corrAll (cols s) : levelsOf κ (corrAll cols s) = levelsOf κ s := by simp [corrAll]
@[simp] theorem levelsOf_writeRec (dpa bs s) : levelsOf κ (writeRec dpa bs s) = levelsOf κ s := by simp [writeRec]
@[simp] theorem levelsOf_writeJobRecord (job s) : levelsOf κ (writeJobRecord job s) = levelsOf κ s := by
  unfold writeJobRecord; split <;> simp
@[simp] theorem levelsOf_writeArmed (job step gen epoch s) : levelsOf κ (writeArmed job step gen epoch s) = levelsOf κ s := by
  unfold writeArmed; split <;> simp
@[simp] theorem levelsOf_writeScaleRec (job tag es s) : levelsOf κ (writeScaleRec job tag es s) = levelsOf κ s := by
  unfold writeScaleRec; split <;> simp

/-! ### ChordOps -/

@[simp] theorem levelsOf_modStream (job peer onMgmt g s) : levelsOf κ (modStream job peer onMgmt g s) = levelsOf κ s := by
  simp [modStream]
@[simp] theorem levelsOf_emitChord (v dst kind h payload s) : levelsOf κ (emitChord v dst kind h payload s) = levelsOf κ s := by
  unfold emitChord; (repeat' split) <;> simp

@[simp] theorem levelsOf_sendVia (j peer p kind h payload s) :
    levelsOf κ (sendVia j peer p kind h payload s) = levelsOf κ s := by
  unfold sendVia; split <;> simp

@[simp] theorem levelsOf_sendOn (j peer onMgmt avoid kind h payload s) :
    levelsOf κ (sendOn j peer onMgmt avoid kind h payload s) = levelsOf κ s := by
  unfold sendOn; (repeat' split) <;> simp

@[simp] theorem levelsOf_sendPlain (job peer onMgmt kind step coll offset payload s) :
    levelsOf κ (sendPlain job peer onMgmt kind step coll offset payload s) = levelsOf κ s := by
  unfold sendPlain; split <;> simp

@[simp] theorem levelsOf_sendAll (job peer kind step payload s) :
    levelsOf κ (sendAll job peer kind step payload s) = levelsOf κ s := by
  unfold sendAll; split <;> simp

@[simp] theorem levelsOf_pumpStream (fuel job peer onMgmt s) :
    levelsOf κ (pumpStream fuel job peer onMgmt s) = levelsOf κ s := by
  induction fuel generalizing s with
  | zero => rfl
  | succ fuel ih =>
    unfold pumpStream
    split
    · rfl
    · dsimp only
      split
      · rfl
      · simp [ih]

@[simp] theorem levelsOf_sendSeq (job peer onMgmt kind step coll offset final payload s) :
    levelsOf κ (sendSeq job peer onMgmt kind step coll offset final payload s) = levelsOf κ s := by
  unfold sendSeq; split <;> simp

@[simp] theorem levelsOf_sendBytes (job peer onMgmt kind step coll offset bs s) :
    levelsOf κ (sendBytes job peer onMgmt kind step coll offset bs s) = levelsOf κ s := by
  simp [sendBytes]

@[simp] theorem levelsOf_takeAck (job peer onMgmt ack map echo s) :
    levelsOf κ (takeAck job peer onMgmt ack map echo s) = levelsOf κ s := by
  unfold takeAck; dsimp only; split <;> simp

@[simp] theorem levelsOf_sendAck (job peer onMgmt echo s) : levelsOf κ (sendAck job peer onMgmt echo s) = levelsOf κ s := by
  unfold sendAck; split <;> simp

@[simp] theorem levelsOf_answerAbort (job peer onMgmt step tok s) :
    levelsOf κ (answerAbort job peer onMgmt step tok s) = levelsOf κ s := by
  unfold answerAbort; split <;> simp

@[simp] theorem levelsOf_answerStale (p tok s) : levelsOf κ (answerStale p tok s) = levelsOf κ s := by
  unfold answerStale; split <;> simp
@[simp] theorem levelsOf_countFrame (v s) : levelsOf κ (countFrame v s) = levelsOf κ s := by unfold countFrame; split <;> simp
@[simp] theorem levelsOf_countStale (v s) : levelsOf κ (countStale v s) = levelsOf κ s := by unfold countStale; split <;> simp

@[simp] theorem levelsOf_sized (p n g s) (hg : ∀ t, levelsOf κ (g t) = levelsOf κ t) :
    levelsOf κ (sized p n g s) = levelsOf κ s := by
  simp [sized, hg]

@[simp] theorem levelsOf_onNext (job g s) (hg : ∀ t, levelsOf κ (g t) = levelsOf κ t) :
    levelsOf κ (onNext job g s) = levelsOf κ s := by
  simp [onNext, hg]

@[simp] theorem levelsOf_onPrev (job g s) (hg : ∀ t, levelsOf κ (g t) = levelsOf κ t) :
    levelsOf κ (onPrev job g s) = levelsOf κ s := by
  simp [onPrev, hg]

theorem levelsOf_after_recv_ite {c : Prop} [Decidable c] {x y : Recv} {s : State} (hx : levelsOf κ x.after = levelsOf κ s)
    (hy : levelsOf κ y.after = levelsOf κ s) :
    levelsOf κ (if c then x else y).after = levelsOf κ s := by
  split <;> assumption

@[simp] theorem levelsOf_receive (p kind seqd epochOk early s) :
    levelsOf κ (receive p kind seqd epochOk early s).after = levelsOf κ s := by
  unfold receive
  refine levelsOf_after_recv_ite rfl ?_
  extract_lets t mine known mg stale
  have ht : levelsOf κ t = levelsOf κ s := levelsOf_countFrame ..
  have hstale : levelsOf κ stale = levelsOf κ s := by simp [stale, ht]
  have dropped : levelsOf κ (Recv.drop (counter 4 1 t)).after = levelsOf κ s := by simp [Recv.after, ht]
  split
  · exact dropped
  · extract_lets opened before here next run u
    have hrun : ∀ g v, (∀ w, levelsOf κ (g w) = levelsOf κ w) → levelsOf κ (run g v) = levelsOf κ v := by
      intro g v hg
      simp [run, hg]
    have hu : levelsOf κ u = levelsOf κ s := by simp [u, hrun, ht]
    refine levelsOf_after_recv_ite dropped (levelsOf_after_recv_ite ?_ (levelsOf_after_recv_ite dropped
      (levelsOf_after_recv_ite hu (levelsOf_after_recv_ite ?_ hu))))
    · exact levelsOf_after_recv_ite (by simp [Recv.after, hstale]) hstale
    · split
      · exact hu
      · extract_lets r v
        have hv : levelsOf κ v = levelsOf κ s := by simp [v, hrun, hu]
        exact levelsOf_after_recv_ite hv hv

theorem levelsOf_lateForAborted {j : Job} {p : ChordHdr} {s t : State} (h : lateForAborted j p s = some t) :
    levelsOf κ t = levelsOf κ s := by
  unfold lateForAborted at h
  split at h
  · split at h
    · cases h; simp
    · cases h
  · cases h

/-! ### StepOps -/

@[simp] theorem levelsOf_evalProposal (s) : levelsOf κ (evalProposal s) = levelsOf κ s := by simp [evalProposal]
@[simp] theorem levelsOf_setFcsrStep (cols v s) : levelsOf κ (setFcsrStep cols v s) = levelsOf κ s := by simp [setFcsrStep]
@[simp] theorem levelsOf_modShard (job sh g s) : levelsOf κ (modShard job sh g s) = levelsOf κ s := by simp [modShard]
@[simp] theorem levelsOf_modRange (job sh ix g s) : levelsOf κ (modRange job sh ix g s) = levelsOf κ s := by simp [modRange]

@[simp] theorem levelsOf_addContrib (job sh ix len rank els s) :
    levelsOf κ (addContrib job sh ix len rank els s) = levelsOf κ s := by
  simp [addContrib]

@[simp] theorem levelsOf_modOut (job sh ix g s) : levelsOf κ (modOut job sh ix g s) = levelsOf κ s := by simp [modOut]
@[simp] theorem levelsOf_admitOwn (job lay step x c s) : levelsOf κ (admitOwn job lay step x c s) = levelsOf κ s := by
  simp [admitOwn]
@[simp] theorem levelsOf_grantCredits (job s) : levelsOf κ (grantCredits job s) = levelsOf κ s := by
  unfold grantCredits; (repeat' split) <;> simp

@[simp] theorem levelsOf_pumpOuts (fuel job s) : levelsOf κ (pumpOuts fuel job s) = levelsOf κ s := by
  induction fuel generalizing s with
  | zero => rfl
  | succ fuel ih =>
    unfold pumpOuts
    split
    · rfl
    · split
      · split
        · rfl
        · split
          · rfl
          · simp [ih]
      · rfl

@[simp] theorem levelsOf_pumpRounds (fuel job s) : levelsOf κ (pumpRounds fuel job s) = levelsOf κ s := by
  induction fuel generalizing s with
  | zero => rfl
  | succ fuel ih =>
    unfold pumpRounds
    split
    · dsimp only
      split <;> simp [ih]
    · rfl

@[simp] theorem levelsOf_pumpStep (job s) : levelsOf κ (pumpStep job s) = levelsOf κ s := by unfold pumpStep; split <;> simp
@[simp] theorem levelsOf_sendRecord (job v confirm s) : levelsOf κ (sendRecord job v confirm s) = levelsOf κ s := by
  unfold sendRecord; split <;> simp
@[simp] theorem levelsOf_restoreScales (j s) : levelsOf κ (restoreScales j s) = levelsOf κ s := by
  unfold restoreScales; split <;> simp

@[simp] theorem levelsOf_gatherStatus (dpa i loc step state code s) :
    levelsOf κ (gatherStatus dpa i loc step state code s) = levelsOf κ s := by
  simp [gatherStatus]

@[simp] theorem levelsOf_failGathers (job s) : levelsOf κ (failGathers job s) = levelsOf κ s := by
  unfold failGathers; (repeat' split) <;> simp
@[simp] theorem levelsOf_settleNot (job aborted s) : levelsOf κ (settleNot job aborted s) = levelsOf κ s := by
  unfold settleNot; (repeat' split) <;> simp
@[simp] theorem levelsOf_settleCommit (job s) : levelsOf κ (settleCommit job s) = levelsOf κ s := by
  unfold settleCommit; (repeat' split) <;> simp
@[simp] theorem levelsOf_floodToken (job lay step tok s) : levelsOf κ (floodToken job lay step tok s) = levelsOf κ s := by
  simp [floodToken]

@[simp] theorem levelsOf_abortStep (job cause origin detected s) :
    levelsOf κ (abortStep job cause origin detected s) = levelsOf κ s := by
  unfold abortStep; (repeat' split) <;> simp

@[simp] theorem levelsOf_afterConfirms (job s) : levelsOf κ (afterConfirms job s) = levelsOf κ s := by
  unfold afterConfirms; (repeat' split) <;> simp
@[simp] theorem levelsOf_castVote (job s) : levelsOf κ (castVote job s) = levelsOf κ s := by
  unfold castVote; (repeat' split) <;> simp
@[simp] theorem levelsOf_afterVotes (job s) : levelsOf κ (afterVotes job s) = levelsOf κ s := by
  unfold afterVotes; (repeat' split) <;> simp
@[simp] theorem levelsOf_localFailure (job cause s) : levelsOf κ (localFailure job cause s) = levelsOf κ s := by
  unfold localFailure; (repeat' split) <;> simp
@[simp] theorem levelsOf_failShard (job sh cause s) : levelsOf κ (failShard job sh cause s) = levelsOf κ s := by
  simp [failShard]

@[simp] theorem levelsOf_failLostShards (s) : levelsOf κ (failLostShards s) = levelsOf κ s := by
  refine levelsOf_foldl fun t j => levelsOf_foldl fun t sh => ?_
  split
  · split <;> simp
  · rfl

@[simp] theorem levelsOf_stageRange (job sh ix s) : levelsOf κ (stageRange job sh ix s) = levelsOf κ s := by
  unfold stageRange
  split
  · rfl
  · split
    · extract_lets g b0 b1 fr gs t o
      have ht : levelsOf κ t = levelsOf κ s := by
        simp only [t]; split <;> simp
      split
      · next h => simp [levelsOf_fst_of_eq h, ht]
      · next u p h =>
        have hu : levelsOf κ u = levelsOf κ s := by simp [levelsOf_fst_of_eq h, ht]
        split
        split
        next hw =>
        have hv : levelsOf κ _ = levelsOf κ s := (levelsOf_fst_of_eq hw).trans (by simp [hu])
        split
        · simp [hv]
        · extract_lets v w
          have hw : levelsOf κ w = levelsOf κ s := by simp [w, v, hv]
          split
          · split
            · split
              · next h => simp [levelsOf_fst_of_eq h, hw]
              · next h => simp [levelsOf_fst_of_eq h, hw]
              · next h => simp [levelsOf_fst_of_eq h, hw]
            · exact hw
          · exact hw
    · rfl

@[simp] theorem levelsOf_faultSector (k s) : levelsOf κ (faultSector k s) = levelsOf κ s := by simp [faultSector]

/-! ### DmaEngine -/

@[simp] theorem levelsOf_modDisp (job id g s) : levelsOf κ (modDisp job id g s) = levelsOf κ s := by simp [modDisp]

@[simp] theorem levelsOf_writeObj (job o off bs s) : levelsOf κ (writeObj job o off bs s) = levelsOf κ s := by
  unfold writeObj
  split
  · rfl
  · split
    · rfl
    · split <;> next h => simp [levelsOf_fst_of_eq h]

@[simp] theorem levelsOf_recvHeader (job d step sources s) : levelsOf κ (recvHeader job d step sources s) = levelsOf κ s := by
  simp [recvHeader]

@[simp] theorem levelsOf_settleEnds (job d members step s) : levelsOf κ (settleEnds job d members step s) = levelsOf κ s := by
  unfold settleEnds
  split
  · rfl
  · split
    · rfl
    · refine levelsOf_foldl fun t e => ?_
      dsimp only
      split <;> simp

@[simp] theorem levelsOf_settleCombines (job s) : levelsOf κ (settleCombines job s) = levelsOf κ s := by
  unfold settleCombines; (repeat' split) <;> simp

@[simp] theorem levelsOf_takeRow (job d members step src slot row s) :
    levelsOf κ (takeRow job d members step src slot row s) = levelsOf κ s := by
  simp [takeRow]

@[simp] theorem levelsOf_takeBack (job d route members owner slot row s) :
    levelsOf κ (takeBack job d route members owner slot row s) = levelsOf κ s := by
  unfold takeBack
  split
  · rfl
  · dsimp only
    split <;> next h => simp [levelsOf_fst_of_eq h]

@[simp] theorem levelsOf_takeEnd (job d members step src counts seq s) :
    levelsOf κ (takeEnd job d members step src counts seq s) = levelsOf κ s := by
  simp [takeEnd]

@[simp] theorem levelsOf_dispatchRow (job lay d step expert row s) :
    levelsOf κ (dispatchRow job lay d step expert row s) = levelsOf κ s := by
  unfold dispatchRow; split <;> simp

@[simp] theorem levelsOf_combineRow (job lay d step slot row s) :
    levelsOf κ (combineRow job lay d step slot row s) = levelsOf κ s := by
  simp [combineRow]

@[simp] theorem levelsOf_sendEnds (job lay d step s) : levelsOf κ (sendEnds job lay d step s) = levelsOf κ s := by
  unfold sendEnds; split <;> simp
@[simp] theorem levelsOf_routeHeader (job d step s) : levelsOf κ (routeHeader job d step s) = levelsOf κ s := by
  unfold routeHeader; split <;> simp

theorem levelsOf_after_ite {c : Prop} [Decidable c] {x y : Took} {s : State} (hx : levelsOf κ (x.after s) = levelsOf κ s)
    (hy : levelsOf κ (y.after s) = levelsOf κ s) :
    levelsOf κ ((if c then x else y).after s) = levelsOf κ s := by
  split <;> assumption

@[simp] theorem levelsOf_takeChd (f td coll offset step s) :
    levelsOf κ ((takeChd f td coll offset step s).after s) = levelsOf κ s := by
  unfold takeChd
  refine levelsOf_after_ite rfl ?_
  split
  · rfl
  · next j r lay _ =>
    have refused : levelsOf κ ((refuse j.id s).after s) = levelsOf κ s := levelsOf_localFailure ..
    split
    · exact refused
    · refine levelsOf_after_ite refused (levelsOf_after_ite (levelsOf_after_ite (levelsOf_abortStep ..) rfl) ?_)
      dsimp only
      split
      · exact refused
      · simp [Took.after]

@[simp] theorem levelsOf_takeDsp (f td ids disp step s) :
    levelsOf κ ((takeDsp f td ids disp step s).after s) = levelsOf κ s := by
  unfold takeDsp
  refine levelsOf_after_ite rfl ?_
  split
  · rfl
  · next j r lay _ =>
    have refused : levelsOf κ ((refuse j.id s).after s) = levelsOf κ s := levelsOf_localFailure ..
    extract_lets fin rows runs
    split
    · exact refused
    · extract_lets word t u
      have ht : levelsOf κ t = levelsOf κ s := levelsOf_foldl fun v i => by simp
      have hu : levelsOf κ u = levelsOf κ s := by simp [u, ht]
      exact levelsOf_after_ite refused (levelsOf_after_ite rfl (levelsOf_after_ite refused
        (levelsOf_after_ite hu (by simp [Took.after, hu]))))

@[simp] theorem levelsOf_pull (f tag spans s) : levelsOf κ (pull f tag spans s).1 = levelsOf κ s := by simp [pull]
@[simp] theorem levelsOf_push (f seq spans s) : levelsOf κ (push f seq spans s) = levelsOf κ s := by simp [push]
@[simp] theorem levelsOf_endDma (f q st s) : levelsOf κ (endDma f q st s) = levelsOf κ s := by simp [endDma]
@[simp] theorem levelsOf_snoopSpans (inv spans s) : levelsOf κ (snoopSpans inv spans s) = levelsOf κ s := by simp [snoopSpans]
@[simp] theorem levelsOf_transfer (f q write spans s) : levelsOf κ (transfer f q write spans s) = levelsOf κ s := by
  unfold transfer; split <;> simp
@[simp] theorem levelsOf_moveEcc (f q write spans e s) : levelsOf κ (moveEcc f q write spans e s) = levelsOf κ s := by
  simp [moveEcc]
@[simp] theorem levelsOf_finishTook (f q s x) : levelsOf κ (finishTook f q s x) = levelsOf κ (x.after s) := by
  cases x <;> simp [finishTook, Took.after]

@[simp] theorem levelsOf_engineTakes {take : Facet → State → Took} {s : State}
    (ht : ∀ x, levelsOf κ ((take x s).after s) = levelsOf κ s) (f q) :
    levelsOf κ (engineTakes f q take s) = levelsOf κ s := by
  simp [engineTakes, ht]

@[simp] theorem levelsOf_completeDma (f q e s) : levelsOf κ (completeDma f q e s) = levelsOf κ s := by
  unfold completeDma
  dsimp only
  split <;> simp

@[simp] theorem levelsOf_finishFlights (f s) : levelsOf κ (finishFlights f s) = levelsOf κ s := by simp [finishFlights]
@[simp] theorem levelsOf_finishStarted (cols s) : levelsOf κ (finishStarted cols s) = levelsOf κ s := by simp [finishStarted]

/-! ### FtlOps -/

@[simp] theorem levelsOf_modBlock (k g s) : levelsOf κ (modBlock k g s) = levelsOf κ s := by simp [modBlock]
@[simp] theorem levelsOf_eraseBlock (k s) : levelsOf κ (eraseBlock k s) = levelsOf κ s := by simp [eraseBlock]
@[simp] theorem levelsOf_settleReadOnly (s) : levelsOf κ (settleReadOnly s) = levelsOf κ s := by simp [settleReadOnly]
@[simp] theorem levelsOf_commitFlash (map freed s) : levelsOf κ (commitFlash map freed s) = levelsOf κ s := by
  simp [commitFlash]
@[simp] theorem levelsOf_programExtent (p o ext) : levelsOf κ (programExtent p o ext).1 = levelsOf κ p.1 := by
  unfold programExtent; split <;> simp
@[simp] theorem levelsOf_ftlWrite (o exts s) : levelsOf κ (ftlWrite o exts s) = levelsOf κ s := by simp [ftlWrite]
@[simp] theorem levelsOf_ftlDrop (o s) : levelsOf κ (ftlDrop o s) = levelsOf κ s := by simp [ftlDrop]
@[simp] theorem levelsOf_ftlRead (o s) : levelsOf κ (ftlRead o s) = levelsOf κ s := by simp [ftlRead]
@[simp] theorem levelsOf_relocate (block s) : levelsOf κ (relocate block s) = levelsOf κ s := by unfold relocate; split <;> simp

/-! ### ObjOps -/

@[simp] theorem levelsOf_flashWrote (n s) : levelsOf κ (flashWrote n s) = levelsOf κ s := by simp [flashWrote]
@[simp] theorem levelsOf_setEntry (job i g s) : levelsOf κ (setEntry job i g s) = levelsOf κ s := by
  unfold setEntry; dsimp only; (repeat' split) <;> simp

@[simp] theorem levelsOf_setHolders (id g s) : levelsOf κ (setHolders id g s) = levelsOf κ s := by
  refine levelsOf_foldl fun t j => ?_
  split <;> simp

@[simp] theorem levelsOf_holdersSee (id code s) : levelsOf κ (holdersSee id code s) = levelsOf κ s := by
  unfold holdersSee; split <;> simp
@[simp] theorem levelsOf_startMove (id m s) : levelsOf κ (startMove id m s) = levelsOf κ s := by simp [startMove]
@[simp] theorem levelsOf_cancelEviction (o s) : levelsOf κ (cancelEviction o s) = levelsOf κ s := by
  unfold cancelEviction; (repeat' split) <;> simp
@[simp] theorem levelsOf_cancelEvictionOf (id s) : levelsOf κ (cancelEvictionOf id s) = levelsOf κ s := by
  unfold cancelEvictionOf; split <;> simp
@[simp] theorem levelsOf_dropPin (id pin st s) : levelsOf κ (dropPin id pin st s) = levelsOf κ s := by simp [dropPin]
@[simp] theorem levelsOf_promoteResident (h id u pin s) : levelsOf κ (promoteResident h id u pin s) = levelsOf κ s := by
  unfold promoteResident; (repeat' split) <;> simp
@[simp] theorem levelsOf_schedPromote (id s) : levelsOf κ (schedPromote id s).1 = levelsOf κ s := by
  unfold schedPromote; (repeat' split) <;> simp
@[simp] theorem levelsOf_actPromo (id s p) : levelsOf κ (actPromo id s p) = levelsOf κ s := by
  unfold actPromo; dsimp only; (repeat' split) <;> simp
@[simp] theorem levelsOf_answerEntry (e st result s) : levelsOf κ (answerEntry e st result s) = levelsOf κ s := by
  unfold answerEntry; split <;> simp
@[simp] theorem levelsOf_answerPromo (p st s) : levelsOf κ (answerPromo p st s) = levelsOf κ s := by
  unfold answerPromo; split <;> simp
@[simp] theorem levelsOf_endObject (id st s) : levelsOf κ (endObject id st s) = levelsOf κ s := by
  unfold endObject; (repeat' split) <;> simp
@[simp] theorem levelsOf_fallBack (id st s) : levelsOf κ (fallBack id st s) = levelsOf κ s := by
  unfold fallBack; (repeat' split) <;> simp
@[simp] theorem levelsOf_failMove (id st damage s) : levelsOf κ (failMove id st damage s) = levelsOf κ s := by
  unfold failMove; (repeat' split) <;> simp

@[simp] theorem levelsOf_endLostObjects (s) : levelsOf κ (endLostObjects s) = levelsOf κ s := by
  refine levelsOf_foldl fun t o => ?_
  split
  · simp
  · split <;> simp

@[simp] theorem levelsOf_objContent (o s) : levelsOf κ (objContent o s).1 = levelsOf κ s := by unfold objContent; split <;> simp

@[simp] theorem levelsOf_dirtyContent (o s) : levelsOf κ (dirtyContent o s).1 = levelsOf κ s := by
  unfold dirtyContent
  obtain ⟨n, hn⟩ : ∃ n, n = extBytes := ⟨_, rfl⟩
  rw [← hn]
  refine levelsOf_foldl_fst fun p k => ?_
  split
  · rfl
  · split <;> next h => simp [levelsOf_fst_of_eq h]

@[simp] theorem levelsOf_moveContent (o m s) : levelsOf κ (moveContent o m s).1 = levelsOf κ s := by simp [moveContent]
@[simp] theorem levelsOf_settleMove (o m c s) : levelsOf κ (settleMove o m c s) = levelsOf κ s := by
  unfold settleMove; split <;> simp

@[simp] theorem levelsOf_switchMove (id s) : levelsOf κ (switchMove id s) = levelsOf κ s := by
  unfold switchMove
  split
  · rfl
  · split
    · rfl
    · split
      · rfl
      · split
        · next h => simp [levelsOf_fst_of_eq h]
        · next h =>
          dsimp only
          split <;> simp [levelsOf_fst_of_eq h]

@[simp] theorem levelsOf_dequeue (fuel id s) : levelsOf κ (dequeue fuel id s) = levelsOf κ s := by
  induction fuel generalizing s with
  | zero => rfl
  | succ fuel ih =>
    unfold dequeue
    split
    · rfl
    · split
      · rfl
      · dsimp only
        split
        · rfl
        · split
          · simp [ih]
          · split
            · rfl
            · split
              · simp [ih]
              · split
                · simp
                · split <;> simp

@[simp] theorem levelsOf_takeHold (id s) : levelsOf κ (takeHold id s).1 = levelsOf κ s := by unfold takeHold; split <;> simp
@[simp] theorem levelsOf_evalEntry (job st p s i) : levelsOf κ (evalEntry job st p s i) = levelsOf κ s := by
  unfold evalEntry; (repeat' split) <;> simp
@[simp] theorem levelsOf_evalSchedule (job st p s) : levelsOf κ (evalSchedule job st p s) = levelsOf κ s := by
  unfold evalSchedule; split <;> simp
@[simp] theorem levelsOf_dropHolds (job s) : levelsOf κ (dropHolds job s) = levelsOf κ s := by unfold dropHolds; split <;> simp

/-! ### MirrorOps -/

@[simp] theorem levelsOf_sendMirror (job peer onMgmt op buffer offset payload s) :
    levelsOf κ (sendMirror job peer onMgmt op buffer offset payload s) = levelsOf κ s := by
  simp [sendMirror]

@[simp] theorem levelsOf_setHostStream (a b job x s) : levelsOf κ (setHostStream a b job x s) = levelsOf κ s := by
  simp [setHostStream]

@[simp] theorem levelsOf_pumpHost (fuel a b job s) : levelsOf κ (pumpHost fuel a b job s) = levelsOf κ s := by
  induction fuel generalizing s with
  | zero => rfl
  | succ fuel ih =>
    unfold pumpHost
    split
    · rfl
    · split
      · rfl
      · simp [ih]

@[simp] theorem levelsOf_hostSend (v a job peer h payload s) :
    levelsOf κ (hostSend v a job peer h payload s) = levelsOf κ s := by
  simp [hostSend]

@[simp] theorem levelsOf_sendRequest (job peer onMgmt op payload s) :
    levelsOf κ (sendRequest job peer onMgmt op payload s) = levelsOf κ s := by
  unfold sendRequest; (repeat' split) <;> simp

@[simp] theorem levelsOf_regionWrite (r off bs s) : levelsOf κ (regionWrite r off bs s) = levelsOf κ s := by simp [regionWrite]

@[simp] theorem levelsOf_regionRead (req r off n s) : levelsOf κ (regionRead req r off n s).1 = levelsOf κ s := by
  refine levelsOf_foldl_fst fun p x => ?_
  split
  · rfl
  · split <;> next h => simp [levelsOf_fst_of_eq h]

@[simp] theorem levelsOf_regionDesc (req r b s) : levelsOf κ (regionDesc req r b s).1 = levelsOf κ s := by
  unfold regionDesc
  split <;> next h => simp [levelsOf_fst_of_eq h]

@[simp] theorem levelsOf_putDesc (r b d s) : levelsOf κ (putDesc r b d s) = levelsOf κ s := by simp [putDesc]

@[simp] theorem levelsOf_copiesOf (req r s) : levelsOf κ (copiesOf req r s).1 = levelsOf κ s := by
  refine levelsOf_foldl_fst fun p b => ?_
  split <;> next h => simp [levelsOf_fst_of_eq h]

@[simp] theorem levelsOf_newestCopy (req r s) : levelsOf κ (newestCopy req r s).1 = levelsOf κ s := by
  obtain ⟨newest, hn⟩ : ∃ f, f = newestCopy := ⟨_, rfl⟩
  rw [← hn]
  delta newestCopy at hn
  obtain ⟨copies, hc⟩ : ∃ f, f = copiesOf := ⟨_, rfl⟩
  have h := levelsOf_copiesOf (κ := κ) req r s
  rw [← hc] at h hn
  subst hn
  exact h

@[simp] theorem levelsOf_targetBuffer (r s) : levelsOf κ (targetBuffer r s).1 = levelsOf κ s := by
  unfold targetBuffer
  rcases h : newestCopy rqSnap r s with ⟨t, _ | x⟩
  · split <;> simp [levelsOf_fst_of_eq h]
  · split <;> simp [levelsOf_fst_of_eq h]

@[simp] theorem levelsOf_endRegion (job rank s) : levelsOf κ (endRegion job rank s) = levelsOf κ s := by simp [endRegion]
@[simp] theorem levelsOf_freeFlashCopy (job rank s) : levelsOf κ (freeFlashCopy job rank s) = levelsOf κ s := by
  simp [freeFlashCopy]
@[simp] theorem levelsOf_loadScales (k es s) : levelsOf κ (loadScales k es s) = levelsOf κ s := by simp [loadScales]
@[simp] theorem levelsOf_noteOldTag (job s) : levelsOf κ (noteOldTag job s) = levelsOf κ s := by simp [noteOldTag]
@[simp] theorem levelsOf_clearPend (job s) : levelsOf κ (clearPend job s) = levelsOf κ s := by simp [clearPend]

@[simp] theorem levelsOf_localHolds (j before g sh s) : levelsOf κ (localHolds j before g sh s).1 = levelsOf κ s := by
  unfold localHolds
  dsimp only
  split
  · rfl
  · split <;> next h => simp [levelsOf_fst_of_eq h]

@[simp] theorem levelsOf_missingShards (j before g s) : levelsOf κ (missingShards j before g s).1 = levelsOf κ s := by
  refine levelsOf_foldl_fst fun p sh => ?_
  split <;> next h => simp [levelsOf_fst_of_eq h]

@[simp] theorem levelsOf_restoreScaleState (j g before copy s) :
    levelsOf κ (restoreScaleState j g before copy s) = levelsOf κ s := by
  unfold restoreScaleState; dsimp only; (repeat' split) <;> simp

@[simp] theorem levelsOf_finishRestore (job h g step moved before copy s) :
    levelsOf κ (finishRestore job h g step moved before copy s) = levelsOf κ s := by
  unfold finishRestore; split <;> simp

@[simp] theorem levelsOf_failRestore (job h moved s) : levelsOf κ (failRestore job h moved s) = levelsOf κ s := by
  unfold failRestore; split <;> simp

@[simp] theorem levelsOf_restoreLocal (job h g moved before s) :
    levelsOf κ (restoreLocal job h g moved before s) = levelsOf κ s := by
  unfold restoreLocal
  split
  · rfl
  · split
    next k =>
      have hk : levelsOf κ _ = levelsOf κ s := (levelsOf_fst_of_eq k).trans (by simp)
      split
      · simp [hk]
      · split
        next l =>
          rw [levelsOf_finishRestore, levelsOf_fst_of_eq l]
          split
          · split <;> next m => simp [levelsOf_fst_of_eq m, hk]
          · exact hk

@[simp] theorem levelsOf_localGens (j before s) : levelsOf κ (localGens j before s).1 = levelsOf κ s := by
  unfold localGens
  split
  · rfl
  · refine levelsOf_foldl_fst fun p g => ?_
    split <;> next h => simp [levelsOf_fst_of_eq h]

@[simp] theorem levelsOf_nextSource (fuel job h explicit gen left moved before s) :
    levelsOf κ (nextSource fuel job h explicit gen left moved before s) = levelsOf κ s := by
  induction fuel generalizing s left with
  | zero => simp [nextSource]
  | succ fuel ih =>
    have known : ∀ j : Job, levelsOf κ (if explicit then (s, []) else localGens j before s).1 = levelsOf κ s := by simp
    unfold nextSource
    split
    · rfl
    · next j _ =>
      dsimp only
      split
      · simp
      · split
        · next k => simp [levelsOf_fst_of_eq k]
        · next k =>
          split
          · simp [levelsOf_fst_of_eq k]
          · simp [levelsOf_fst_of_eq k, ih]

@[simp] theorem levelsOf_failSource (job s) : levelsOf κ (failSource job s) = levelsOf κ s := by
  unfold failSource; split <;> simp
@[simp] theorem levelsOf_openSlots (job g before s) : levelsOf κ (openSlots job g before s) = levelsOf κ s := by
  unfold openSlots; split <;> simp
@[simp] theorem levelsOf_fillShard (j g step got as sh s) : levelsOf κ (fillShard j g step got as sh s).1 = levelsOf κ s := by
  unfold fillShard; (repeat' split) <;> simp
@[simp] theorem levelsOf_decodeRestore (job s) : levelsOf κ (decodeRestore job s) = levelsOf κ s := by
  unfold decodeRestore; dsimp only; (repeat' split) <;> simp

@[simp] theorem levelsOf_chooseRestore (job h partners offers s) :
    levelsOf κ (chooseRestore job h partners offers s) = levelsOf κ s := by
  unfold chooseRestore; split <;> simp

@[simp] theorem levelsOf_sendQueries (job partners s) : levelsOf κ (sendQueries job partners s).1 = levelsOf κ s := by
  refine levelsOf_foldl_fst fun p r => ?_
  split <;> simp

@[simp] theorem levelsOf_startRestore (job h addr gen s) : levelsOf κ (startRestore job h addr gen s) = levelsOf κ s := by
  unfold startRestore
  split
  · rfl
  · dsimp only
    split
    · split <;> next h => simp [levelsOf_fst_of_eq h]
    · simp

@[simp] theorem levelsOf_finishUnbind (job h s) : levelsOf κ (finishUnbind job h s) = levelsOf κ s := by
  unfold finishUnbind; split <;> simp
@[simp] theorem levelsOf_afterSnapshot (job s) : levelsOf κ (afterSnapshot job s) = levelsOf κ s := by
  unfold afterSnapshot; (repeat' split) <;> simp
@[simp] theorem levelsOf_failBindSnap (job s) : levelsOf κ (failBindSnap job s) = levelsOf κ s := by
  unfold failBindSnap; split <;> simp
@[simp] theorem levelsOf_settleSnapshot (job s) : levelsOf κ (settleSnapshot job s) = levelsOf κ s := by
  unfold settleSnapshot; (repeat' split) <;> simp
@[simp] theorem levelsOf_failSnapshot (job s) : levelsOf κ (failSnapshot job s) = levelsOf κ s := by simp [failSnapshot]
@[simp] theorem levelsOf_snapProgress (job s) : levelsOf κ (snapProgress job s) = levelsOf κ s := by
  unfold snapProgress; (repeat' split) <;> simp
@[simp] theorem levelsOf_removePartner (job peer s) : levelsOf κ (removePartner job peer s) = levelsOf κ s := by
  unfold removePartner; (repeat' split) <;> simp

@[simp] theorem levelsOf_snapAreas (j lay g s) : levelsOf κ (snapAreas j lay g s).1 = levelsOf κ s := by
  unfold snapAreas
  extract_lets as body
  have hbody : levelsOf κ body.1 = levelsOf κ s := by
    refine levelsOf_foldl_fst fun p sh => ?_
    split
    · rfl
    · split
      · next h =>
        dsimp only
        split <;> next k => simp [levelsOf_fst_of_eq k, levelsOf_fst_of_eq h]
      · next h => simp [levelsOf_fst_of_eq h]
  clear_value body
  split <;> exact hbody

@[simp] theorem levelsOf_sendAreas (job peer b d areas s) : levelsOf κ (sendAreas job peer b d areas s) = levelsOf κ s := by
  simp [sendAreas]

@[simp] theorem levelsOf_beginSnapshot (job s) : levelsOf κ (beginSnapshot job s) = levelsOf κ s := by
  unfold beginSnapshot
  split
  · rfl
  · split
    · split
      · rfl
      · dsimp only
        split <;> next h => simp [levelsOf_fst_of_eq h]
    · rfl

@[simp] theorem levelsOf_endQuery (job s) : levelsOf κ (endQuery job s) = levelsOf κ s := by
  unfold endQuery; dsimp only; (repeat' split) <;> simp
@[simp] theorem levelsOf_dropQuery (job who s) : levelsOf κ (dropQuery job who s) = levelsOf κ s := by
  unfold dropQuery; dsimp only; split <;> simp
@[simp] theorem levelsOf_dropAsk (job who new s) : levelsOf κ (dropAsk job who new s) = levelsOf κ s := by
  unfold dropAsk; split <;> simp
@[simp] theorem levelsOf_askAgain (job peer s) : levelsOf κ (askAgain job peer s) = levelsOf κ s := by
  unfold askAgain; split <;> simp
@[simp] theorem levelsOf_peerGone (job peer detected s) : levelsOf κ (peerGone job peer detected s) = levelsOf κ s := by
  unfold peerGone; dsimp only; (repeat' split) <;> simp

/-! ### ChordCmd -/

@[simp] theorem levelsOf_endFill (job st s) : levelsOf κ (endFill job st s) = levelsOf κ s := by
  unfold endFill; (repeat' split) <;> simp
@[simp] theorem levelsOf_losePeer (job peer detected s) : levelsOf κ (losePeer job peer detected s) = levelsOf κ s := by
  unfold losePeer; dsimp only; split <;> simp
@[simp] theorem levelsOf_endInjection (outcome s) : levelsOf κ (endInjection outcome s) = levelsOf κ s := by
  unfold endInjection; split <;> simp
@[simp] theorem levelsOf_endDrop (s) : levelsOf κ (endDrop s) = levelsOf κ s := by unfold endDrop; split <;> simp
@[simp] theorem levelsOf_detectNoPort (job peer s) : levelsOf κ (detectNoPort job peer s) = levelsOf κ s := by
  unfold detectNoPort; dsimp only; split <;> simp

@[simp] theorem levelsOf_detectNoPorts (s) : levelsOf κ (detectNoPorts s) = levelsOf κ s := by
  refine levelsOf_foldl fun t j => ?_
  split <;> simp

@[simp] theorem levelsOf_onPacket {body : Job → State → State}
    (hb : ∀ j t, levelsOf κ (body j t) = levelsOf κ t) (p kind seqd epochOk early s) :
    levelsOf κ (onPacket p kind seqd epochOk early body s) = levelsOf κ s := by
  unfold onPacket
  extract_lets t u
  have ht : levelsOf κ t = levelsOf κ s := by
    rw [← levelsOf_receive p kind seqd epochOk early s]
    simp only [t]
    split <;> next h => simp [h, Recv.after, hb]
  simp [u, ht]

@[simp] theorem levelsOf_onStepPacket {body : Job → StepRun → Layout → State → State}
    (hb : ∀ j r lay t, levelsOf κ (body j r lay t) = levelsOf κ t) (p kind keep s) :
    levelsOf κ (onStepPacket p kind keep body s) = levelsOf κ s := by
  refine levelsOf_onPacket (fun j t => ?_) ..
  split
  · simp
  · split
    · next h => exact levelsOf_lateForAborted h
    · split
      · simp [hb]
      · rfl

@[simp] theorem levelsOf_dataBody (p payload j r lay t) : levelsOf κ (dataBody p payload j r lay t) = levelsOf κ t := by
  unfold dataBody; dsimp only; (repeat' split) <;> simp

@[simp] theorem levelsOf_takeCredit (job lay owner coll first count s) :
    levelsOf κ (takeCredit job lay owner coll first count s) = levelsOf κ s := by
  unfold takeCredit; split <;> simp

@[simp] theorem levelsOf_countFirst (p s) : levelsOf κ (countFirst p s) = levelsOf κ s := by simp [countFirst]
@[simp] theorem levelsOf_collectiveAbortBody (h job s) : levelsOf κ (collectiveAbortBody h job s) = levelsOf κ s := by
  unfold collectiveAbortBody; split <;> simp
@[simp] theorem levelsOf_askShard (job sh s) : levelsOf κ (askShard job sh s) = levelsOf κ s := by
  unfold askShard; (repeat' split) <;> simp

@[simp] theorem levelsOf_serveGather (job peer shard s) : levelsOf κ (serveGather job peer shard s) = levelsOf κ s := by
  unfold serveGather
  split
  · rfl
  · split
    · split
      · rfl
      · dsimp only
        split
        · split
          · rfl
          · split <;> next h => simp [levelsOf_fst_of_eq h]
        · simp
    · rfl

@[simp] theorem levelsOf_finishGathers (job s) : levelsOf κ (finishGathers job s) = levelsOf κ s := by
  unfold finishGathers
  split
  · rfl
  · split
    · refine levelsOf_foldl fun t i => ?_
      split <;> simp
    · rfl

@[simp] theorem levelsOf_shardGathered (job shard s) : levelsOf κ (shardGathered job shard s) = levelsOf κ s := by
  unfold shardGathered; (repeat' split) <;> simp

@[simp] theorem levelsOf_copyGather (job lay sh src dst s) : levelsOf κ (copyGather job lay sh src dst s) = levelsOf κ s := by
  unfold copyGather
  split
  · split <;> next h => simp [levelsOf_fst_of_eq h]
  · rfl

@[simp] theorem levelsOf_startGather (job i s) : levelsOf κ (startGather job i s) = levelsOf κ s := by
  unfold startGather
  split
  · rfl
  · split
    · split
      · rfl
      · split
        · rfl
        · dsimp only
          rw [levelsOf_finishGathers]
          refine (levelsOf_foldl fun t sh => ?_).trans (by simp)
          split
          · split
            · split <;> next h => simp [levelsOf_fst_of_eq h]
            · rfl
          · simp
    · rfl

@[simp] theorem levelsOf_gatherBody (p payload j r lay t) : levelsOf κ (gatherBody p payload j r lay t) = levelsOf κ t := by
  unfold gatherBody
  extract_lets tensor o u
  have hu : levelsOf κ u = levelsOf κ t := by
    refine levelsOf_foldl fun w g => ?_
    split <;> simp
  split
  · rfl
  · simp [hu]

@[simp] theorem levelsOf_rowBody (p payload j r lay t) : levelsOf κ (rowBody p payload j r lay t) = levelsOf κ t := by
  unfold rowBody; split <;> simp
@[simp] theorem levelsOf_rowsEndBody (p counts j r lay t) : levelsOf κ (rowsEndBody p counts j r lay t) = levelsOf κ t := by
  unfold rowsEndBody; split <;> simp
@[simp] theorem levelsOf_takeHeld (job s q) : levelsOf κ (takeHeld job s q) = levelsOf κ s := by
  unfold takeHeld; (repeat' split) <;> simp

/-! ### FenceOps -/

@[simp] theorem levelsOf_stopArcs (s) : levelsOf κ (stopArcs s) = levelsOf κ s := by simp [stopArcs]
@[simp] theorem levelsOf_setFenced (unit ix s) : levelsOf false (setFenced unit ix s) = levelsOf false s := by
  unfold setFenced; split <;> simp
@[simp] theorem levelsOf_recordFence (unit ix s) : levelsOf κ (recordFence unit ix s) = levelsOf κ s := by simp [recordFence]
@[simp] theorem levelsOf_sectorFailure (k s) : levelsOf κ (sectorFailure k s) = levelsOf κ s := by
  unfold sectorFailure; split <;> simp
@[simp] theorem levelsOf_dropColumn (c s) : levelsOf κ (dropColumn c s) = levelsOf κ s := by unfold dropColumn; split <;> simp

@[simp] theorem levelsOf_failFlights (n s) : levelsOf κ (failFlights n s) = levelsOf κ s := by
  refine levelsOf_foldl fun t f => levelsOf_foldl fun t q => ?_
  dsimp only
  split <;> simp

@[simp] theorem levelsOf_losePrism (n s) : levelsOf κ (losePrism n s) = levelsOf κ s := by simp [losePrism]
@[simp] theorem levelsOf_mgmtLost (p s) : levelsOf κ (mgmtLost p s) = levelsOf κ s := by
  unfold mgmtLost; dsimp only; split <;> simp

/-! ### ObjCmd -/

@[simp] theorem levelsOf_objCreateBody (h id size tier job s) :
    levelsOf κ (objCreateBody h id size tier job s) = levelsOf κ s := by
  unfold objCreateBody; (repeat' split) <;> simp

@[simp] theorem levelsOf_objDestroyBody (h id s) : levelsOf κ (objDestroyBody h id s) = levelsOf κ s := by
  unfold objDestroyBody; split <;> simp
@[simp] theorem levelsOf_objPromoteBody (h id tier flags s) : levelsOf κ (objPromoteBody h id tier flags s) = levelsOf κ s := by
  unfold objPromoteBody; (repeat' split) <;> simp
@[simp] theorem levelsOf_objEvictBody (h id tier s) : levelsOf κ (objEvictBody h id tier s) = levelsOf κ s := by
  unfold objEvictBody; (repeat' split) <;> simp
@[simp] theorem levelsOf_objPinBody (h id s) : levelsOf κ (objPinBody h id s) = levelsOf κ s := by
  unfold objPinBody; dsimp only; (repeat' split) <;> simp
@[simp] theorem levelsOf_objUnpinBody (h id s) : levelsOf κ (objUnpinBody h id s) = levelsOf κ s := by
  unfold objUnpinBody; dsimp only; (repeat' split) <;> simp
@[simp] theorem levelsOf_prefetchBody (h job buf s) : levelsOf κ (prefetchBody h job buf s) = levelsOf κ s := by
  unfold prefetchBody; (repeat' split) <;> simp

/-! ### ArcCmd -/

@[simp] theorem levelsOf_takeGranules (k gs s) : levelsOf κ (takeGranules k gs s) = levelsOf κ s := by simp [takeGranules]
@[simp] theorem levelsOf_giveFacets (cols k s) : levelsOf κ (giveFacets cols k s) = levelsOf κ s := by simp [giveFacets]
@[simp] theorem levelsOf_jobControls (k s) : levelsOf κ (jobControls k s) = levelsOf κ s := by simp [jobControls]
@[simp] theorem levelsOf_loadArc (k im b s) : levelsOf κ (loadArc k im b s) = levelsOf κ s := by
  unfold loadArc; dsimp only; (repeat' split) <;> simp
@[simp] theorem levelsOf_writeArcCopy (gs b s) : levelsOf κ (writeArcCopy gs b s) = levelsOf κ s := by simp [writeArcCopy]
@[simp] theorem levelsOf_arcLoadBody (h b s) : levelsOf κ (arcLoadBody h b s) = levelsOf κ s := by
  unfold arcLoadBody; dsimp only; (repeat' split) <;> simp
@[simp] theorem levelsOf_arcStartBody (h c s) : levelsOf κ (arcStartBody h c s) = levelsOf κ s := by
  unfold arcStartBody; dsimp only; split <;> simp
@[simp] theorem levelsOf_stopArc (k s) : levelsOf κ (stopArc k s) = levelsOf κ s := by simp [stopArc]
@[simp] theorem levelsOf_arcStopBody (h s) : levelsOf κ (arcStopBody h s) = levelsOf κ s := by simp [arcStopBody]

@[simp] theorem levelsOf_jobDigest (j s) : levelsOf κ (jobDigest j s).1 = levelsOf κ s := by
  unfold jobDigest
  split
  · rfl
  · refine levelsOf_foldl_fst fun p sh => ?_
    split <;> next h => simp [levelsOf_fst_of_eq h]

@[simp] theorem levelsOf_releasePark (job h s) : levelsOf κ (releasePark job h s) = levelsOf κ s := by
  unfold releasePark; split <;> simp
@[simp] theorem levelsOf_finishPark (job h s) : levelsOf κ (finishPark job h s) = levelsOf κ s := by
  unfold finishPark; split <;> simp
@[simp] theorem levelsOf_parkBody (h job s) : levelsOf κ (parkBody h job s) = levelsOf κ s := by unfold parkBody; split <;> simp

@[simp] theorem levelsOf_readArcCopy (c s) : levelsOf κ (readArcCopy c s).1 = levelsOf κ s := by
  unfold readArcCopy
  obtain ⟨gib, hg⟩ : ∃ n, n = 2 ^ 30 := ⟨_, rfl⟩
  rw [← hg]
  refine levelsOf_foldl_fst fun p g => ?_
  dsimp only
  split <;> next h => simp [levelsOf_fst_of_eq h]

@[simp] theorem levelsOf_readArc (j s) : levelsOf κ (readArc j s).1 = levelsOf κ s := by
  unfold readArc
  split
  · rfl
  · split <;> next h => simp [levelsOf_fst_of_eq h]

@[simp] theorem levelsOf_readScaleRec (j s) : levelsOf κ (readScaleRec j s).1 = levelsOf κ s := by
  unfold readScaleRec
  rcases h : readCells rqVarlux (j.recDpa + 0x1000) 786432 s with ⟨t, _ | m⟩
  · split <;> simp [levelsOf_fst_of_eq h]
  · split <;> simp [levelsOf_fst_of_eq h]

@[simp] theorem levelsOf_finishUnpark (h job im s) : levelsOf κ (finishUnpark h job im s) = levelsOf κ s := by
  unfold finishUnpark; dsimp only; (repeat' split) <;> simp
@[simp] theorem levelsOf_unparkBody (h job s) : levelsOf κ (unparkBody h job s) = levelsOf κ s := by
  unfold unparkBody; dsimp only; (repeat' split) <;> simp

/-! ### SecOps -/

@[simp] theorem levelsOf_extendMeas (i data s) : levelsOf κ (extendMeas i data s) = levelsOf κ s := by simp [extendMeas]

@[simp] theorem levelsOf_randomBytes (s) : levelsOf κ (randomBytes s).2 = levelsOf κ s := by
  unfold randomBytes
  dsimp only
  split <;> rfl

/-! ### FwOps -/

@[simp] theorem levelsOf_holdDest (e type stream s) : levelsOf κ (holdDest e type stream s) = levelsOf κ s := by simp [holdDest]

/-! ### HealthOps -/

@[simp] theorem levelsOf_publishScore (s) : levelsOf κ (publishScore s) = levelsOf κ s := by simp [publishScore]

/-! ### ResetOps -/

@[simp] theorem levelsOf_departTokens (s) : levelsOf κ (departTokens s) = levelsOf κ s := by
  unfold departTokens
  split
  · rfl
  · refine levelsOf_foldl fun t j => ?_
    split <;> simp

@[simp] theorem levelsOf_dropVolatile (warm s) : levelsOf false (dropVolatile warm s) = levelsOf false s := rfl
@[simp] theorem levelsOf_losePrisms (lost s) : levelsOf κ (losePrisms lost s) = levelsOf κ s := by simp [losePrisms]

/-! ### PowerCmd -/

@[simp] theorem levelsOf_startConverters (s) : levelsOf κ (startConverters s) = levelsOf κ s := by simp [startConverters]
@[simp] theorem levelsOf_smbAnswer (v s) : levelsOf κ (smbAnswer v s) = levelsOf κ s := by simp [smbAnswer]

/-! ### BootOps -/

@[simp] theorem levelsOf_setStage (e st fails s) : levelsOf κ (setStage e st fails s) = levelsOf κ s := by simp [setStage]
@[simp] theorem levelsOf_failStage (e s) : levelsOf κ (failStage e s) = levelsOf κ s := by simp [failStage]
@[simp] theorem levelsOf_setWdt (ms boot s) : levelsOf κ (setWdt ms boot s) = levelsOf κ s := by simp [setWdt]
@[simp] theorem levelsOf_bootFence (unit ix s) : levelsOf false (bootFence unit ix s) = levelsOf false s := by simp [bootFence]
@[simp] theorem levelsOf_mapFence (unit ix s) : levelsOf false (mapFence unit ix s) = levelsOf false s := by simp [mapFence]
@[simp] theorem levelsOf_changeFence (g s) : levelsOf false (changeFence g s) = levelsOf false s := by simp [changeFence]
@[simp] theorem levelsOf_mapFences (unit count held s) : levelsOf false (mapFences unit count held s) = levelsOf false s := by
  simp [mapFences]
@[simp] theorem levelsOf_applyMem (n s) : levelsOf false (applyMem n s) = levelsOf false s := by simp [applyMem]
@[simp] theorem levelsOf_zeroFails (s) : levelsOf κ (zeroFails s) = levelsOf κ s := by simp [zeroFails]
@[simp] theorem levelsOf_applyClear (s) : levelsOf κ (applyClear s) = levelsOf κ s := by simp [applyClear]
@[simp] theorem levelsOf_settleDegraded (s) : levelsOf κ (settleDegraded s) = levelsOf κ s := by simp [settleDegraded]

@[simp] theorem levelsOf_partOk (dpa len s) : levelsOf κ (partOk dpa len s).1 = levelsOf κ s := by
  unfold partOk
  split
  · rfl
  · split <;> next h => simp [levelsOf_fst_of_eq h]

@[simp] theorem levelsOf_recordWhole (dpa s) : levelsOf κ (recordWhole dpa s).1 = levelsOf κ s := by
  unfold recordWhole
  obtain ⟨a, ha⟩ : ∃ a, a = dpa + 0x101000 := ⟨_, rfl⟩
  obtain ⟨b, hb⟩ : ∃ b, b = dpa + 0x2101000 := ⟨_, rfl⟩
  obtain ⟨c, hc⟩ : ∃ c, c = dpa + 0x2902000 := ⟨_, rfl⟩
  rw [← ha, ← hb, ← hc]
  rcases h : readBytes rqVarlux (dpa + 0x40) 192 s with ⟨t, _ | x⟩ <;> simp [levelsOf_fst_of_eq h]

@[simp] theorem levelsOf_entryPreserved (e s) : levelsOf κ (entryPreserved e s).1 = levelsOf κ s := by simp [entryPreserved]

@[simp] theorem levelsOf_examine (i s) : levelsOf κ (examine i s) = levelsOf κ s := by
  unfold examine
  split
  · rfl
  · split <;> next h => simp [levelsOf_fst_of_eq h]

@[simp] theorem levelsOf_dropUnlisted (s) : levelsOf κ (dropUnlisted s) = levelsOf κ s := by simp [dropUnlisted]
@[simp] theorem levelsOf_holdRecords (s) : levelsOf κ (holdRecords s) = levelsOf κ s := by
  unfold holdRecords; dsimp only; split <;> simp
@[simp] theorem levelsOf_markStarted (e s) : levelsOf κ (markStarted e s) = levelsOf κ s := by simp [markStarted]
@[simp] theorem levelsOf_markSkipped (e s) : levelsOf κ (markSkipped e s) = levelsOf κ s := by simp [markSkipped]
@[simp] theorem levelsOf_startMgmt (p e s) : levelsOf false (startMgmt p e s) = levelsOf false s := by simp [startMgmt]
@[simp] theorem levelsOf_startFabric (p e s) : levelsOf false (startFabric p e s) = levelsOf false s := by simp [startFabric]
@[simp] theorem levelsOf_startMem (n e s) : levelsOf false (startMem n e s) = levelsOf false s := by simp [startMem]
@[simp] theorem levelsOf_afterGroup (es s) : levelsOf κ (afterGroup es s) = levelsOf κ s := by simp [afterGroup]
@[simp] theorem levelsOf_journalStage (f torn s) : levelsOf κ (journalStage f torn s) = levelsOf κ s := by simp [journalStage]

/-! ### FabricCmd -/

@[simp] theorem levelsOf_solicit (p s) : levelsOf κ (solicit p s) = levelsOf κ s := by simp [solicit]
@[simp] theorem levelsOf_portStatusBody (h port s) : levelsOf κ (portStatusBody h port s) = levelsOf κ s := by
  simp [portStatusBody]

/-! ### BootCmd -/

@[simp] theorem levelsOf_runImage (b f s) : levelsOf κ (runImage b f s) = levelsOf κ s := by simp [runImage, recordSections]

@[simp] theorem levelsOf_fenceLinks (s) : levelsOf false (fenceLinks s) = levelsOf false s := by
  refine levelsOf_foldl fun t l => ?_
  split <;> simp

@[simp] theorem levelsOf_initPrism (n pairs entries s) : levelsOf κ (initPrism n pairs entries s) = levelsOf κ s := by
  simp [initPrism]
@[simp] theorem levelsOf_initSaved (n r s) : levelsOf false (initSaved n r s) = levelsOf false s := by simp [initSaved]
@[simp] theorem levelsOf_fullTrain (n failedPairs s) : levelsOf false (fullTrain n failedPairs s) = levelsOf false s := by
  simp [fullTrain]
@[simp] theorem levelsOf_exitSr (n s) : levelsOf κ (exitSr n s) = levelsOf κ s := by simp [exitSr]

theorem levelsOf_runMem {n : Fin 4} {r : StageResult} {failedPairs : Byte} {s t : State} (h : runMem n r failedPairs s = some t) :
    levelsOf false t = levelsOf false s := by
  unfold runMem at h
  split at h
  · cases h
  · cases h; simp
  · cases h; simp
  · split at h
    · cases h; simp
    · cases h
  · cases h

@[simp] theorem levelsOf_noteReplay (link k s) : levelsOf κ (noteReplay link k s) = levelsOf κ s := by simp [noteReplay]
@[simp] theorem levelsOf_copyBytes (c s) : levelsOf κ (copyBytes c s).2 = levelsOf κ s := by unfold copyBytes; split <;> simp
@[simp] theorem levelsOf_bootJournalReadBody (h s) : levelsOf κ (bootJournalReadBody h s) = levelsOf κ s := by
  simp [bootJournalReadBody]
@[simp] theorem levelsOf_bootJournalClearBody (h s) : levelsOf κ (bootJournalClearBody h s) = levelsOf κ s := by
  simp [bootJournalClearBody]

/-! ### FacetScalar -/

@[simp] theorem levelsOf_issueSalu (code op f i e s) : levelsOf κ (issueSalu code op f i e s) = levelsOf κ s := by
  simp [issueSalu]
@[simp] theorem levelsOf_sectorHalted (f s) : levelsOf κ (sectorHalted f s) = levelsOf κ s := by
  unfold sectorHalted; split <;> simp

/-! ### FwCmd -/

@[simp] theorem levelsOf_dropInstall (b s) : levelsOf κ (dropInstall b s) = levelsOf κ s := by simp [dropInstall]

@[simp] theorem levelsOf_finishInstall (h b known cells hdr total s) :
    levelsOf κ (finishInstall h b known cells hdr total s) = levelsOf κ s := by
  unfold finishInstall
  dsimp only
  split <;> simp

@[simp] theorem levelsOf_takeChunk (h offset last b bs hdr s) :
    levelsOf κ (takeChunk h offset last b bs hdr s) = levelsOf κ s := by
  simp [takeChunk]

@[simp] theorem levelsOf_fwInstallBody (h offset flags slot bs s) :
    levelsOf κ (fwInstallBody h offset flags slot bs s) = levelsOf κ s := by
  unfold fwInstallBody
  dsimp only
  split
  · simp
  · split <;> simp

@[simp] theorem levelsOf_activate (b s) : levelsOf κ (activate b s) = levelsOf κ s := by simp [activate]
@[simp] theorem levelsOf_fwActivateBody (h slot s) : levelsOf κ (fwActivateBody h slot s) = levelsOf κ s := by
  simp [fwActivateBody]
@[simp] theorem levelsOf_debugUnlockBody (h b s) : levelsOf κ (debugUnlockBody h b s) = levelsOf κ s := by
  simp [debugUnlockBody]

/-! ### HealthCmd -/

@[simp] theorem levelsOf_uncounted (g s) (hg : ∀ t, levelsOf κ (g t) = levelsOf κ t) :
    levelsOf κ (uncounted g s) = levelsOf κ s := by
  simp [uncounted, hg]

@[simp] theorem levelsOf_inject (b target s) : levelsOf κ (inject b target s) = levelsOf κ s := by
  unfold inject; dsimp only; (repeat' split) <;> simp
@[simp] theorem levelsOf_healthReadBody (h s) : levelsOf κ (healthReadBody h s) = levelsOf κ s := by simp [healthReadBody]

@[simp] theorem levelsOf_healthConfigBody (h threshold hysteresis dwell budget window s) :
    levelsOf κ (healthConfigBody h threshold hysteresis dwell budget window s) = levelsOf κ s := by
  simp [healthConfigBody]

@[simp] theorem levelsOf_markLift (unit ix s) : levelsOf κ (markLift unit ix s) = levelsOf κ s := by simp [markLift]

@[simp] theorem levelsOf_rehearsalConfigBody (h flags period mask s) :
    levelsOf κ (rehearsalConfigBody h flags period mask s) = levelsOf κ s := by
  simp [rehearsalConfigBody]

@[simp] theorem levelsOf_diagRunBody (h test unit index result duration s) :
    levelsOf κ (diagRunBody h test unit index result duration s) = levelsOf κ s := by
  unfold diagRunBody; (repeat' split) <;> simp

/-! ### JobCmd -/

@[simp] theorem levelsOf_setDir (i e s) : levelsOf κ (setDir i e s) = levelsOf κ s := by simp [setDir]
@[simp] theorem levelsOf_rejoin (job s) : levelsOf κ (rejoin job s) = levelsOf κ s := by simp [rejoin]

@[simp] theorem levelsOf_readObjTable (dpa s) : levelsOf κ (readObjTable dpa s).1 = levelsOf κ s := by
  unfold readObjTable
  split
  · next h =>
    dsimp only
    split <;> next k => simp [levelsOf_fst_of_eq k, levelsOf_fst_of_eq h]
  · next h => simp [levelsOf_fst_of_eq h]

@[simp] theorem levelsOf_reinstate (job s e) : levelsOf κ (reinstate job s e) = levelsOf κ s := by
  unfold reinstate; dsimp only; split <;> simp
@[simp] theorem levelsOf_endJobObjects (job s) : levelsOf κ (endJobObjects job s) = levelsOf κ s := by simp [endJobObjects]

@[simp] theorem levelsOf_shardCommitBody (h job shard gen src s) :
    levelsOf κ (shardCommitBody h job shard gen src s) = levelsOf κ s := by
  unfold shardCommitBody
  split
  · simp
  · split
    · simp
    · dsimp only
      split
      · next h => simp [levelsOf_fst_of_eq h]
      · next h => split <;> next k => simp [levelsOf_fst_of_eq k, levelsOf_fst_of_eq h]
    · simp

@[simp] theorem levelsOf_shardReadBody (h job shard dest s) : levelsOf κ (shardReadBody h job shard dest s) = levelsOf κ s := by
  unfold shardReadBody
  split
  · simp
  · split
    · simp
    · split
      · split
        · simp
        · split
          · simp
          · dsimp only
            split
            · next h => simp [levelsOf_fst_of_eq h]
            · next h => simp [levelsOf_fst_of_eq h]
            · next h =>
              split
              · simp [levelsOf_fst_of_eq h]
              · split <;> next k => simp [levelsOf_fst_of_eq k, levelsOf_fst_of_eq h]
      · simp

@[simp] theorem levelsOf_stepArmStatus (job step micro epoch s) :
    levelsOf κ (stepArmStatus job step micro epoch s).1 = levelsOf κ s := by
  unfold stepArmStatus
  split
  · rfl
  · split
    · rfl
    · split
      · rfl
      · split
        · rfl
        · split
          · rfl
          · split <;> next h => simp [levelsOf_fst_of_eq h]

@[simp] theorem levelsOf_armScales (j s) : levelsOf κ (armScales j s) = levelsOf κ s := by simp [armScales]
@[simp] theorem levelsOf_serveEarly (job s) : levelsOf κ (serveEarly job s) = levelsOf κ s := by
  unfold serveEarly; dsimp only; (repeat' split) <;> simp

@[simp] theorem levelsOf_stepArmBody (h job step micro epoch s) :
    levelsOf κ (stepArmBody h job step micro epoch s) = levelsOf κ s := by
  unfold stepArmBody
  split
  · next k => simp [levelsOf_fst_of_eq k]
  · next k _ => simp [levelsOf_fst_of_eq k]
  · next k _ =>
    dsimp only
    simp only [levelsOf_answer, levelsOf_serveEarly, levelsOf_setFcsrStep, levelsOf_modJob, levelsOf_writeArmed, levelsOf_armScales]
    split <;> next l => simp [levelsOf_fst_of_eq l, levelsOf_fst_of_eq k]

@[simp] theorem levelsOf_stepStatusBody (h job s) : levelsOf κ (stepStatusBody h job s) = levelsOf κ s := by
  unfold stepStatusBody; split <;> simp
@[simp] theorem levelsOf_ruleLoadBody (h job b s) : levelsOf κ (ruleLoadBody h job b s) = levelsOf κ s := by
  unfold ruleLoadBody; (repeat' split) <;> simp
@[simp] theorem levelsOf_startGathers (job step p s) : levelsOf κ (startGathers job step p s) = levelsOf κ s := by
  unfold startGathers; (repeat' split) <;> simp

/-! ### LayoutCmd -/

@[simp] theorem levelsOf_partnersStay (j new r s) : levelsOf κ (partnersStay j new r s).1 = levelsOf κ s := by
  unfold partnersStay; split <;> simp
@[simp] theorem levelsOf_regionsAcross (j new epoch s) : levelsOf κ (regionsAcross j new epoch s) = levelsOf κ s := by
  simp [regionsAcross]

@[simp] theorem levelsOf_installLayout (job h lay epoch filled s) :
    levelsOf κ (installLayout job h lay epoch filled s) = levelsOf κ s := by
  unfold installLayout; split <;> simp

@[simp] theorem levelsOf_fillIncoming (j epoch srcs sh s) : levelsOf κ (fillIncoming j epoch srcs sh s).1 = levelsOf κ s := by
  simp [fillIncoming]
@[simp] theorem levelsOf_finishFill (job s) : levelsOf κ (finishFill job s) = levelsOf κ s := by
  unfold finishFill; (repeat' split) <;> simp

@[simp] theorem levelsOf_askSources (fuel job s) : levelsOf κ (askSources fuel job s) = levelsOf κ s := by
  induction fuel generalizing s with
  | zero => simp [askSources]
  | succ fuel ih =>
    unfold askSources
    split
    · rfl
    · split
      · split
        · simp
        · simp [ih]
      · rfl

@[simp] theorem levelsOf_ownSources (j shs s) : levelsOf κ (ownSources j shs s).1 = levelsOf κ s := by
  refine levelsOf_foldl_fst fun p sh => ?_
  split
  · rfl
  · split
    · next h => simp [levelsOf_fst_of_eq h]
    · next h => simp [levelsOf_fst_of_eq h]
    · next h => split <;> next k => simp [levelsOf_fst_of_eq k, levelsOf_fst_of_eq h]

@[simp] theorem levelsOf_continueInstall (job h epoch buf s) :
    levelsOf κ (continueInstall job h epoch buf s) = levelsOf κ s := by
  unfold continueInstall
  split
  · rfl
  · split
    · simp
    · split
      · simp
      · dsimp only
        split
        · simp
        · split <;> next h => simp [levelsOf_fst_of_eq h]

@[simp] theorem levelsOf_layoutInstallBody (h job epoch flags buf s) :
    levelsOf κ (layoutInstallBody h job epoch flags buf s) = levelsOf κ s := by
  unfold layoutInstallBody; dsimp only; (repeat' split) <;> simp

@[simp] theorem levelsOf_serveReshard (job peer shard gen s) :
    levelsOf κ (serveReshard job peer shard gen s) = levelsOf κ s := by
  unfold serveReshard
  split
  · rfl
  · dsimp only
    split
    · simp
    · split
      · rfl
      · split
        · next h => simp [levelsOf_fst_of_eq h]
        · next h => simp [levelsOf_fst_of_eq h]
        · next h => split <;> next k => simp [levelsOf_fst_of_eq k, levelsOf_fst_of_eq h]

/-! ### MboxCmd -/

@[simp] theorem levelsOf_takeEntry (n opcode h s) : levelsOf κ (takeEntry n opcode h s) = levelsOf κ s := by simp [takeEntry]

@[simp] theorem levelsOf_mbxOpenBody (h major minMinor maxMinor s) :
    levelsOf κ (mbxOpenBody h major minMinor maxMinor s) = levelsOf κ s := by
  simp [mbxOpenBody]

@[simp] theorem levelsOf_deviceResetBody (h kind s) : levelsOf κ (deviceResetBody h kind s) = levelsOf κ s := by
  simp [deviceResetBody]
@[simp] theorem levelsOf_setGpio (pin func s) : levelsOf κ (setGpio pin func s) = levelsOf κ s := by simp [setGpio]
@[simp] theorem levelsOf_gpioConfigBody (h pin func s) : levelsOf κ (gpioConfigBody h pin func s) = levelsOf κ s := by
  simp [gpioConfigBody]

/-! ### MemCmd -/

@[simp] theorem levelsOf_admitLine (l s) : levelsOf κ (admitLine l s) = levelsOf κ s := by
  unfold admitLine; dsimp only; (repeat' split) <;> simp
@[simp] theorem levelsOf_hostPut (k d s) : levelsOf κ (hostPut k d s) = levelsOf κ s := by simp [hostPut]
@[simp] theorem levelsOf_hostPoison (k s) : levelsOf κ (hostPoison k s) = levelsOf κ s := by simp [hostPoison]

@[simp] theorem levelsOf_narrowSector (k d en mode1 poison s) :
    levelsOf κ (narrowSector k d en mode1 poison s) = levelsOf κ s := by
  unfold narrowSector
  split
  · rfl
  · split
    · simp
    · split
      · rfl
      · split
        · simp
        · split <;> next h => simp [levelsOf_fst_of_eq h]

@[simp] theorem levelsOf_memRegionModeBody (h first count mode s) :
    levelsOf κ (memRegionModeBody h first count mode s) = levelsOf κ s := by
  simp [memRegionModeBody]

@[simp] theorem levelsOf_memHdmWindowBody (h first size s) : levelsOf κ (memHdmWindowBody h first size s) = levelsOf κ s := by
  simp [memHdmWindowBody]
@[simp] theorem levelsOf_memErrorReadBody (h s) : levelsOf κ (memErrorReadBody h s) = levelsOf κ s := by simp [memErrorReadBody]

/-! ### MgmtCmd -/

@[simp] theorem levelsOf_dropExchanges (s) : levelsOf κ (dropExchanges s) = levelsOf κ s := by simp [dropExchanges]
@[simp] theorem levelsOf_ackSegment (m s) : levelsOf κ (ackSegment m s) = levelsOf κ s := by simp [ackSegment]
@[simp] theorem levelsOf_joinCommand (m e s) : levelsOf κ (joinCommand m e s) = levelsOf κ s := by
  unfold joinCommand; split <;> simp
@[simp] theorem levelsOf_takeSegment (m last data s) : levelsOf κ (takeSegment m last data s) = levelsOf κ s := by
  unfold takeSegment; split <;> simp

/-! ### MirrorCmd -/

@[simp] theorem levelsOf_hostReply (p op buffer offset payload s) :
    levelsOf κ (hostReply p op buffer offset payload s) = levelsOf κ s := by
  simp [hostReply]

@[simp] theorem levelsOf_hostAccept (p s) : levelsOf κ (hostAccept p s).1 = levelsOf κ s := by simp [hostAccept]

@[simp] theorem levelsOf_onMirror_viaHost {body : W16 → State → State}
    (hb : ∀ r t, levelsOf κ (body r t) = levelsOf κ t) (p s rank) :
    levelsOf κ (onMirror.viaHost p body s rank) = levelsOf κ s := by
  unfold onMirror.viaHost
  split
  · rfl
  · split
    · simp
    · split <;> next h => simp [levelsOf_fst_of_eq h, hb]

@[simp] theorem levelsOf_onMirror {body : W16 → State → State}
    (hb : ∀ r t, levelsOf κ (body r t) = levelsOf κ t) (p hosted reply early s) :
    levelsOf κ (onMirror p hosted reply early body s) = levelsOf κ s := by
  unfold onMirror
  split <;> simp [hb]

@[simp] theorem levelsOf_mirrorReply (p op buffer offset payload s) :
    levelsOf κ (mirrorReply p op buffer offset payload s) = levelsOf κ s := by
  unfold mirrorReply; split <;> simp

@[simp] theorem levelsOf_bindStatus (j lay degree everyN p0 p1 s) :
    levelsOf κ (bindStatus j lay degree everyN p0 p1 s).1 = levelsOf κ s := by
  simp [bindStatus]

@[simp] theorem levelsOf_mirrorBindBody (h job degree everyN p0 p1 s) :
    levelsOf κ (mirrorBindBody h job degree everyN p0 p1 s) = levelsOf κ s := by
  unfold mirrorBindBody
  obtain ⟨g, hg⟩ : ∃ g, g = 2 ^ 30 := ⟨_, rfl⟩
  rw [← hg]
  split
  · simp
  · split
    · simp
    · split
      · simp
      · split
        · simp
        · split <;> next h => simp [levelsOf_fst_of_eq h]

theorem levelsOf_takeRegion {r : Region} {s t : State} (h : takeRegion r s = some t) : levelsOf κ t = levelsOf κ s := by
  simp only [takeRegion] at h
  split at h
  · cases h
  · cases h; simp

@[simp] theorem levelsOf_freshRegion (r as s) : levelsOf κ (freshRegion r as s) = levelsOf κ s := by simp [freshRegion]

@[simp] theorem levelsOf_moveBuffers (o r s) : levelsOf κ (moveBuffers o r s) = levelsOf κ s := by
  unfold moveBuffers
  split
  · rfl
  · refine (levelsOf_foldl fun t x => ?_).trans (by simp)
    split <;> simp

@[simp] theorem levelsOf_reuseRegion (o r as s) : levelsOf κ (reuseRegion o r as s) = levelsOf κ s := by simp [reuseRegion]
@[simp] theorem levelsOf_bindAnswered (job s) : levelsOf κ (bindAnswered job s) = levelsOf κ s := by
  unfold bindAnswered; (repeat' split) <;> simp
@[simp] theorem levelsOf_modRegion (job rank g s) : levelsOf κ (modRegion job rank g s) = levelsOf κ s := by simp [modRegion]

@[simp] theorem levelsOf_copyPieces {rd : Nat → Nat → State → State × Option (List Host.Cell)}
    (hr : ∀ a n t, levelsOf κ (rd a n t).1 = levelsOf κ t) (as s) :
    levelsOf κ (copyPieces rd as s).1 = levelsOf κ s := by
  refine levelsOf_foldl_fst fun p a => ?_
  split
  · rfl
  · split
    · next h => simp [levelsOf_fst_of_eq h, hr]
    · next h =>
      dsimp only
      split <;> next k => simp [levelsOf_fst_of_eq k, levelsOf_fst_of_eq h, hr]

@[simp] theorem levelsOf_readRegionCopy (r b d s) : levelsOf κ (readRegionCopy r b d s).1 = levelsOf κ s := by
  unfold readRegionCopy
  split
  · next h => simp [levelsOf_fst_of_eq h]
  · next h => split <;> next k => simp [levelsOf_fst_of_eq k, levelsOf_fst_of_eq h]

@[simp] theorem levelsOf_mirrorUnbindBody (h job s) : levelsOf κ (mirrorUnbindBody h job s) = levelsOf κ s := by
  unfold mirrorUnbindBody; split <;> simp
@[simp] theorem levelsOf_restoreBody (h job addr gen s) : levelsOf κ (restoreBody h job addr gen s) = levelsOf κ s := by
  unfold restoreBody; (repeat' split) <;> simp
@[simp] theorem levelsOf_mirrorQueryBody (h job s) : levelsOf κ (mirrorQueryBody h job s) = levelsOf κ s := by
  unfold mirrorQueryBody; split <;> simp
@[simp] theorem levelsOf_pumpPeer (job peer s) : levelsOf κ (pumpPeer job peer s) = levelsOf κ s := by
  unfold pumpPeer; split <;> simp

/-! ### SpdmCmd -/

@[simp] theorem levelsOf_spdmSend (bs s) : levelsOf κ (spdmSend bs s) = levelsOf κ s := by simp [spdmSend]
@[simp] theorem levelsOf_spdmError (code data s) : levelsOf κ (spdmError code data s) = levelsOf κ s := by simp [spdmError]
@[simp] theorem levelsOf_spdmReply (bs s) : levelsOf κ (spdmReply bs s) = levelsOf κ s := by simp [spdmReply]

@[simp] theorem levelsOf_spdmTurn (body s) (hb : ∀ t, levelsOf κ (body t) = levelsOf κ t) :
    levelsOf κ (spdmTurn body s) = levelsOf κ s := by
  simp [spdmTurn, hb]

@[simp] theorem levelsOf_spdmRefuse (code data s) : levelsOf κ (spdmRefuse code data s) = levelsOf κ s := by simp [spdmRefuse]

@[simp] theorem levelsOf_spdmAt (n body s) (hb : ∀ t, levelsOf κ (body t) = levelsOf κ t) :
    levelsOf κ (spdmAt n body s) = levelsOf κ s := by
  simp [spdmAt, hb]

@[simp] theorem levelsOf_nonce (s) : levelsOf κ (nonce s).2 = levelsOf κ s := by simp [nonce]
@[simp] theorem levelsOf_spdmSign (context transcript s) : levelsOf κ (spdmSign context transcript s).2 = levelsOf κ s := by
  simp [spdmSign]
@[simp] theorem levelsOf_talkB (req resp s) : levelsOf κ (talkB req resp s) = levelsOf κ s := by simp [talkB]
@[simp] theorem levelsOf_summaryHash (kind s) : levelsOf κ (summaryHash kind s).2 = levelsOf κ s := by simp [summaryHash]

end Sys2Proof.Machine
end

section
/-! `FAULT` and `SPARE_RDY#` apart (R459, R460, Table 16-9): the sideband settles them apart, a reset and a loss of power release
`SPARE_RDY#`, and what goes through these operations keeps them apart. -/

namespace Sys2Proof.Machine

/-- Of the two levels that a state shows not both are asserted (Table 16-9). -/
def Apart (l : Bool × Bool × Option (BitVec 12)) : Prop := (l.1 && l.2.1) = false

@[simp] theorem apart_ite (c : Prop) [Decidable c] (x y : Bool × Bool × Option (BitVec 12)) :
    Apart (if c then x else y) ↔ if c then Apart x else Apart y := by split <;> rfl

theorem apart_foldl {α : Type} {g : State → α → State} {l : List α} {s : State}
    (hg : ∀ t a, Apart (levelsOf false t) → Apart (levelsOf false (g t a))) (hs : Apart (levelsOf false s)) :
    Apart (levelsOf false (l.foldl g s)) :=
  List.foldlRecOn (motive := fun t => Apart (levelsOf false t)) l g hs fun t ht a _ => hg t a ht

/-! ### The sideband, resets and the loss of power -/

/-- What `FAULT` follows does not depend on its level. -/
theorem faultCond_setFault (b s) : faultCond (setFault b s) = faultCond s := by
  unfold setFault raiseAlert
  split
  · rfl
  · split <;> rfl

/-- `SPARE_RDY#` is asserted only where `FAULT` has no cause (R460). -/
theorem spareCond_of_faultCond {s : State} (h : faultCond s = true) : spareCond s = false := by
  simp [spareCond, h]

@[simp] theorem apart_settleSideband (s) : Apart (levelsOf false (settleSideband s)) := by
  change ((settleSideband s).pins.fault && spareCond (setFault (faultCond s) s)) = false
  by_cases hcond : faultCond s = true
  · rw [spareCond_of_faultCond ((faultCond_setFault ..).trans hcond), Bool.and_false]
  · rw [settleSideband_fault, Bool.eq_false_of_not_eq_true hcond, Bool.false_and]

@[simp] theorem apart_beginReset (kind source s) : Apart (levelsOf false (beginReset kind source s)) := Bool.and_false _

@[simp] theorem apart_powerOff (s) : Apart (levelsOf false (powerOff s)) := Bool.and_false _

section
variable {s : State} (hs : Apart (levelsOf false s))
include hs

@[simp] theorem apart_triggerReset (kind source) : Apart (levelsOf false (triggerReset kind source s)) := by
  simp [triggerReset, hs]

@[simp] theorem apart_changeReplace (b) : Apart (levelsOf false (changeReplace b s)) := by simp [changeReplace, hs]

/-- A command keeps the levels apart where its own effect does. -/
theorem apart_runCmd {body : State → State} (hb : ∀ t, Apart (levelsOf false t) → Apart (levelsOf false (body t))) (c h) :
    Apart (levelsOf false (runCmd c h body s)) := by
  unfold runCmd
  dsimp only
  split
  · split
    · simp [hs]
    · exact hb _ (by simp [hs])
  · exact hs

end

/-! ### Fences and the service floor (R449 to R455) -/

@[simp] theorem apart_enterBelowFloor (s) : Apart (levelsOf false (enterBelowFloor s)) := apart_settleSideband _

@[simp] theorem apart_checkFloor (s) : Apart (levelsOf false (checkFloor s)) := by simp [checkFloor]

section
variable {s : State} (hs : Apart (levelsOf false s))
include hs

@[simp] theorem apart_fenceUnit (unit ix) : Apart (levelsOf false (fenceUnit unit ix s)) := by simp [fenceUnit, hs]

@[simp] theorem apart_judgeColumn (c) : Apart (levelsOf false (judgeColumn c s)) := by simp [judgeColumn, hs]

theorem apart_unitFenceBody (h unit index action) : Apart (levelsOf false (unitFenceBody h unit index action s)) := by
  simp [unitFenceBody, hs]

end

/-! ### The boot (R52 to R61) -/

@[simp] theorem apart_endBelow (s) : Apart (levelsOf false (endBelow s)) := apart_settleSideband _

@[simp] theorem apart_endReady (s) : Apart (levelsOf false (endReady s)) := apart_settleSideband _

@[simp] theorem apart_enterRecovery (s) : Apart (levelsOf false (enterRecovery s)) := apart_settleSideband _

section
variable {s : State} (hs : Apart (levelsOf false s))
include hs

@[simp] theorem apart_startRequired (e) : Apart (levelsOf false (startRequired e s)) := by simp [startRequired, hs]

@[simp] theorem apart_startEntry (e) : Apart (levelsOf false (startEntry s e)) := by
  unfold startEntry; (repeat' split) <;> simp [hs]

@[simp] theorem apart_startGroups (gs) : Apart (levelsOf false (startGroups gs s)) := by
  induction gs generalizing s with
  | nil => exact hs
  | cons g gs ih =>
    have hstart : Apart (levelsOf false (g.1.foldl startEntry (setWdt g.2 true s))) :=
      apart_foldl (fun t e ht => apart_startEntry ht e) (by simp [hs])
    unfold startGroups
    dsimp only
    split
    · exact hstart
    · exact ih (by simpa using hstart)

@[simp] theorem apart_advanceBoot (e) : Apart (levelsOf false (advanceBoot e s)) := by
  unfold advanceBoot; (repeat' split) <;> simp [hs]

@[simp] theorem apart_passStage (e) : Apart (levelsOf false (passStage e s)) := by simp [passStage, hs]

@[simp] theorem apart_failReset (e) : Apart (levelsOf false (failReset e s)) := by simp [failReset, hs]

@[simp] theorem apart_linkDown (l) : Apart (levelsOf false (linkDown l s)) := by
  unfold linkDown; (repeat' split) <;> simp [hs]

end

/-! ### Sectors, jobs and ports (R256, R257, R370, R379) -/

section
variable {s : State} (hs : Apart (levelsOf false s))
include hs

theorem apart_sectorCreateBody (h columns quota weight flags) :
    Apart (levelsOf false (sectorCreateBody h columns quota weight flags s)) := by
  unfold sectorCreateBody; dsimp only; split <;> simp [hs]

theorem apart_sectorDestroyBody (h) : Apart (levelsOf false (sectorDestroyBody h s)) := by simp [sectorDestroyBody, hs]

theorem apart_jobOpenBody (h job seed rule) : Apart (levelsOf false (jobOpenBody h job seed rule s)) := by
  unfold jobOpenBody; (repeat' split) <;> simp [hs, openJob, adoptJob]

theorem apart_jobCloseBody (h job) : Apart (levelsOf false (jobCloseBody h job s)) := by
  unfold jobCloseBody; (repeat' split) <;> simp [hs]

theorem apart_fabricConfigBody (h port tDetect addr) : Apart (levelsOf false (fabricConfigBody h port tDetect addr s)) := by
  simp [fabricConfigBody, hs]

end

end Sys2Proof.Machine
end

section
/-! Every command keeps `FAULT` and `SPARE_RDY#` apart (O58): most leave both as they are, the others go through the sideband, a
reset, a loss of power or a fence. -/

namespace Sys2Proof.Machine

/-- An outcome whose next state, where it has one, shows what `s` shows on `FAULT` and `SPARE_RDY#`. -/
def SameLevels (s : State) (o : Host.Outcome State Fault Refusal) : Prop :=
  ∀ t, o = .next t → levelsOf false t = levelsOf false s

@[simp] theorem sameLevels_next {s t : State} : SameLevels s (.next t) ↔ levelsOf false t = levelsOf false s :=
  ⟨fun h => h t rfl, fun h u hu => by cases hu; exact h⟩

@[simp] theorem levelsOf_optGet_lateForAborted (j p t) : levelsOf false (optGet t (lateForAborted j p t)) = levelsOf false t := by
  rcases h : lateForAborted j p t with _ | u
  · rfl
  · exact levelsOf_lateForAborted h

/-! ### FacetUnits -/

@[simp] theorem sameLevels_execUnitStart (f u e s) : SameLevels s (execUnitStart f u e s) := by
  unfold execUnitStart; (repeat' split) <;> simp
@[simp] theorem sameLevels_execRowRetire (f e s) : SameLevels s (execRowRetire f e s) := by
  unfold execRowRetire; (repeat' split) <;> simp
@[simp] theorem sameLevels_execTokenArrival (src dst ch s) : SameLevels s (execTokenArrival src dst ch s) := by
  unfold execTokenArrival; (repeat' split) <;> simp

/-! ### DmaEngine -/

@[simp] theorem sameLevels_execDmaOpComplete (f k e s) : SameLevels s (execDmaOpComplete f k e s) := by
  unfold execDmaOpComplete; (repeat' split) <;> simp

/-! ### ChordCmd -/

@[simp] theorem sameLevels_execCredit (p count s) : SameLevels s (execCredit p count s) := by
  simp only [execCredit, sameLevels_next]
  refine levelsOf_onPacket (fun j t => ?_) ..
  split
  · split
    · simp
    · split <;> simp
  · split <;> simp

@[simp] theorem sameLevels_execRangeUpdate (job shard range hostFault s) :
    SameLevels s (execRangeUpdate job shard range hostFault s) := by unfold execRangeUpdate; (repeat' split) <;> simp
@[simp] theorem sameLevels_execVoteCast (job s) : SameLevels s (execVoteCast job s) := by
  unfold execVoteCast; (repeat' split) <;> simp

@[simp] theorem sameLevels_execVote (p v s) : SameLevels s (execVote p v s) := by
  simp only [execVote, sameLevels_next]
  refine levelsOf_onPacket (fun j t => ?_) ..
  split
  · rfl
  · split
    · split <;> simp
    · split
      · next h => exact levelsOf_lateForAborted h
      · split
        · split <;> simp
        · rfl

@[simp] theorem sameLevels_execConfirm (p v s) : SameLevels s (execConfirm p v s) := by
  simp only [execConfirm, sameLevels_next]
  refine levelsOf_onPacket (fun j t => ?_) ..
  split
  · rfl
  · split
    · split <;> simp
    · split
      · split <;> simp
      · simp

@[simp] theorem sameLevels_execWorkingCopyDerived (job s) : SameLevels s (execWorkingCopyDerived job s) := by
  unfold execWorkingCopyDerived
  rw [sameLevels_next]
  split
  · rfl
  · next j _ =>
    extract_lets b shs
    split
    next u bad hu =>
    have hu : levelsOf false u = levelsOf false s := (levelsOf_fst_of_eq hu).trans (levelsOf_foldl_fst fun p sh => by simp)
    split
    · simp [hu]
    · split
      · refine (levelsOf_answer ..).trans ((levelsOf_foldl fun v sh => ?_).trans (by simp [hu]))
        split <;> next h => simp [levelsOf_fst_of_eq h]
      · simp [hu]

@[simp] theorem sameLevels_execResolveTimeout (job s) : SameLevels s (execResolveTimeout job s) := by
  unfold execResolveTimeout; (repeat' split) <;> simp

@[simp] theorem sameLevels_execAbort (p tok s) : SameLevels s (execAbort p tok s) := by
  simp only [execAbort, sameLevels_next]
  refine levelsOf_onPacket (fun j t => ?_) ..
  split
  · split
    · split <;> simp
    · rfl
  · split
    · split
      · split <;> simp
      · split <;> simp
    · split <;> simp

@[simp] theorem sameLevels_execPeerSilenceDetect (job peer s) : SameLevels s (execPeerSilenceDetect job peer s) := by
  unfold execPeerSilenceDetect; (repeat' split) <;> simp
@[simp] theorem sameLevels_execHeartbeatSend (job peer s) : SameLevels s (execHeartbeatSend job peer s) := by
  unfold execHeartbeatSend; (repeat' split) <;> simp

@[simp] theorem sameLevels_execHeartbeat (p b s) : SameLevels s (execHeartbeat p b s) := by
  simp only [execHeartbeat, sameLevels_next]
  refine levelsOf_onPacket (fun j t => ?_) ..
  split
  · split
    · rfl
    · split
      · simp
      · split <;> simp
  · rfl

@[simp] theorem sameLevels_execGatherReq (p shard s) : SameLevels s (execGatherReq p shard s) := by
  simp only [execGatherReq, sameLevels_next]
  refine levelsOf_onPacket (fun j t => ?_) ..
  split
  · simp
  · split
    · next h => exact levelsOf_lateForAborted h
    · split
      · split <;> simp
      · simp

/-! ### ObjCmd -/

@[simp] theorem sameLevels_execEvictionDequeue (id s) : SameLevels s (execEvictionDequeue id s) := by
  unfold execEvictionDequeue; (repeat' split) <;> simp
@[simp] theorem sameLevels_execMoveFail (id cause s) : SameLevels s (execMoveFail id cause s) := by
  unfold execMoveFail; (repeat' split) <;> simp

/-! ### ArcCmd -/

@[simp] theorem sameLevels_execFrameTick (k s) : SameLevels s (execFrameTick k s) := by
  simp [execFrameTick]; (repeat' split) <;> simp
@[simp] theorem sameLevels_execParkResume (job s) : SameLevels s (execParkResume job s) := by
  unfold execParkResume; (repeat' split) <;> simp

/-! ### FabricCmd -/

@[simp] theorem sameLevels_execRouterAdvertisement (p routerMac prefix64 s) :
    SameLevels s (execRouterAdvertisement p routerMac prefix64 s) := by unfold execRouterAdvertisement; (repeat' split) <;> simp

/-! ### FwCmd -/

@[simp] theorem sameLevels_execEntropyHealthFail (s startups) : SameLevels s (execEntropyHealthFail s startups) := by
  simp [execEntropyHealthFail, healthFailure]

/-! ### JobCmd -/

@[simp] theorem sameLevels_execProgressWrite (job s) : SameLevels s (execProgressWrite job s) := by
  unfold execProgressWrite; (repeat' split) <;> simp

/-! ### LayoutCmd -/

@[simp] theorem sameLevels_execLayoutDrainDone (job s) : SameLevels s (execLayoutDrainDone job s) := by
  unfold execLayoutDrainDone; (repeat' split) <;> simp

@[simp] theorem sameLevels_execReshardData (p payload s) : SameLevels s (execReshardData p payload s) := by
  simp only [execReshardData, sameLevels_next]
  refine levelsOf_sized _ _ _ _ fun u => levelsOf_onPacket (fun j t => ?_) ..
  split
  · split
    · rfl
    · simp
  · rfl

/-! ### MemCmd -/

@[simp] theorem sameLevels_execBackInvalidateResponse (line s) : SameLevels s (execBackInvalidateResponse line s) := by
  unfold execBackInvalidateResponse; (repeat' split) <;> simp

/-! ### MgmtCmd -/

@[simp] theorem sameLevels_execMgmtRetransmit (xid offset s) : SameLevels s (execMgmtRetransmit xid offset s) := by
  unfold execMgmtRetransmit; (repeat' split) <;> simp

/-! ### MirrorCmd -/

@[simp] theorem sameLevels_execMirrorBindReq (p bytes entries everyN s) :
    SameLevels s (execMirrorBindReq p bytes entries everyN s) := by
  unfold execMirrorBindReq
  obtain ⟨gib, hg⟩ : ∃ n, n = 2 ^ 30 := ⟨_, rfl⟩
  rw [← hg, sameLevels_next]
  refine levelsOf_onMirror (fun r t => ?_) ..
  split
  · rfl
  · dsimp only
    split
    · split
      · simp
      · split
        · next h => simp [levelsOf_takeRegion h]
        · simp
    · split
      · next h => simp [levelsOf_takeRegion h]
      · simp

@[simp] theorem sameLevels_execMirrorBegin (p _buffer d s) : SameLevels s (execMirrorBegin p _buffer d s) := by
  simp only [execMirrorBegin, sameLevels_next]
  refine levelsOf_onMirror (fun r t => ?_) ..
  split
  · split
    · simp
    · rfl
  · rfl

@[simp] theorem sameLevels_execMirrorData (p _buffer payload s) : SameLevels s (execMirrorData p _buffer payload s) := by
  simp only [execMirrorData, sameLevels_next]
  refine levelsOf_sized _ _ _ _ fun u => levelsOf_onMirror (fun r t => ?_) ..
  split
  · split
    · split <;> simp
    · rfl
  · rfl

@[simp] theorem sameLevels_execMirrorEnd (p _buffer d s) : SameLevels s (execMirrorEnd p _buffer d s) := by
  simp only [execMirrorEnd, sameLevels_next]
  refine levelsOf_onMirror (fun r t => ?_) ..
  split
  · split <;> simp
  · rfl

@[simp] theorem sameLevels_execMirrorFetchReq (p gen s) : SameLevels s (execMirrorFetchReq p gen s) := by
  unfold execMirrorFetchReq
  obtain ⟨copies, hc⟩ : ∃ f, f = copiesOf := ⟨_, rfl⟩
  have h := levelsOf_copiesOf (κ := false)
  rw [← hc] at h ⊢
  rw [sameLevels_next]
  refine levelsOf_onMirror (fun r t => ?_) ..
  dsimp only
  split
  · split
    · split <;> simp
    · simp
  · split
    · simp
    · split
      · simp [h]
      · split <;> next k => simp [levelsOf_fst_of_eq k, h]

@[simp] theorem sameLevels_execMirrorFetchData (p payload s) : SameLevels s (execMirrorFetchData p payload s) := by
  simp only [execMirrorFetchData, sameLevels_next]
  refine levelsOf_sized _ _ _ _ fun u => levelsOf_onMirror (fun r t => ?_) ..
  split
  · split <;> simp
  · rfl

@[simp] theorem sameLevels_execMirrorFetchEnd (p status d s) : SameLevels s (execMirrorFetchEnd p status d s) := by
  simp only [execMirrorFetchEnd, sameLevels_next]
  refine levelsOf_onMirror (fun r t => ?_) ..
  split
  · split
    · rfl
    · split <;> simp
  · rfl

@[simp] theorem sameLevels_execMirrorQueryOp (p s) : SameLevels s (execMirrorQueryOp p s) := by
  unfold execMirrorQueryOp
  obtain ⟨newest, hn⟩ : ∃ f, f = newestCopy := ⟨_, rfl⟩
  have hk := levelsOf_newestCopy (κ := false)
  rw [← hn] at hk ⊢
  rw [sameLevels_next]
  refine levelsOf_onMirror (fun r t => ?_) ..
  split
  next u best h =>
  rw [levelsOf_mirrorReply, levelsOf_fst_of_eq h]
  split <;> simp [hk]

@[simp] theorem sameLevels_execFlashCopyPersist (job rank s) : SameLevels s (execFlashCopyPersist job rank s) := by
  unfold execFlashCopyPersist
  obtain ⟨newest, hn⟩ : ∃ f, f = newestCopy := ⟨_, rfl⟩
  have hk := levelsOf_newestCopy (κ := false)
  rw [← hn] at hk ⊢
  rw [sameLevels_next]
  dsimp only
  split
  · rfl
  · split <;> next h => simp [levelsOf_fst_of_eq h, hk]

@[simp] theorem sameLevels_execFlashCopySwitch (job rank s) : SameLevels s (execFlashCopySwitch job rank s) := by
  simp only [execFlashCopySwitch, sameLevels_next]
  split
  · split
    · next h => simp [levelsOf_fst_of_eq h]
    · next h => split <;> next k => simp [levelsOf_fst_of_eq k, levelsOf_fst_of_eq h]
  · rfl

@[simp] theorem sameLevels_execSilenceOutsideArmedStep (job peer s) : SameLevels s (execSilenceOutsideArmedStep job peer s) := by
  unfold execSilenceOutsideArmedStep; (repeat' split) <;> simp

@[simp] theorem sameLevels_execAck (p map s) : SameLevels s (execAck p map s) := by
  unfold execAck
  extract_lets b host
  have hhost : ∀ t, levelsOf false (host t) = levelsOf false t := by
    intro t
    simp only [host]
    split <;> simp
  rw [sameLevels_next]
  split
  · refine levelsOf_onPacket (fun j t => ?_) ..
    simp [hhost]
  · simp
  · simp [hhost]
  · simp [hhost]

@[simp] theorem sameLevels_execRetransmitTimeout (job peer seq s) : SameLevels s (execRetransmitTimeout job peer seq s) := by
  unfold execRetransmitTimeout
  extract_lets again hosted
  have hagain : ∀ mg p t, levelsOf false (again mg p t) = levelsOf false t := by
    intro mg p t
    simp only [again]
    split <;> simp
  have hhosted : ∀ t, levelsOf false (hosted t) = levelsOf false t := by
    intro t
    simp only [hosted]
    split
    · split <;> simp
    · rfl
  rw [sameLevels_next]
  split
  · extract_lets n
    split <;> simp [hagain, hhosted]
  · exact hhosted s

/-! ### SpdmCmd -/

@[simp] theorem sameLevels_execSpdmGetMeasurements (index slot signed s nonce) :
    SameLevels s (execSpdmGetMeasurements index slot signed s nonce) := by
  unfold execSpdmGetMeasurements
  obtain ⟨sign, hs⟩ : ∃ f, f = spdmSign := ⟨_, rfl⟩
  have hk := levelsOf_spdmSign (κ := false)
  rw [← hs] at hk ⊢
  rw [sameLevels_next]
  refine levelsOf_spdmAt _ _ _ fun t => ?_
  split
  · simp
  · simp [hk]

/-! ### The host port -/

@[simp] theorem levelsOf_cfgAct (r s) : levelsOf false (cfgAct r s) = levelsOf false s := by simp [cfgAct]

@[simp] theorem levelsOf_hostEvent (s) : levelsOf false (hostEvent s) = levelsOf false s := by
  unfold hostEvent
  dsimp only
  split
  · split <;> simp
  · simp

@[simp] theorem levelsOf_linkLost (s) : levelsOf false (linkLost s) = levelsOf false s := by simp [linkLost]

@[simp] theorem levelsOf_writeRingCtrl (n v s) : levelsOf false (writeRingCtrl n v s) = levelsOf false s := by
  unfold writeRingCtrl
  dsimp only
  split
  · simp
  · split
    · simp
    · split <;> simp

@[simp] theorem levelsOf_writeSqTail (n v s) : levelsOf false (writeSqTail n v s) = levelsOf false s := by simp [writeSqTail]
@[simp] theorem levelsOf_writeCqHead (n v s) : levelsOf false (writeCqHead n v s) = levelsOf false s := by simp [writeCqHead]
@[simp] theorem levelsOf_writeRingBase (n o v s) : levelsOf false (writeRingBase n o v s) = levelsOf false s := by
  simp [writeRingBase]
@[simp] theorem levelsOf_writeMsix (k o v s) : levelsOf false (writeMsix k o v s) = levelsOf false s := by simp [writeMsix]

@[simp] theorem levelsOf_bar0Write (o v s) : levelsOf false (bar0Write o v s) = levelsOf false s := by
  unfold bar0Write
  dsimp only
  split
  · split
    · simp
    · split <;> simp
  · split
    · split <;> simp
    · split
      · simp
      · split <;> simp

@[simp] theorem sameLevels_execCxlConfigRequest (s r) : SameLevels s (execCxlConfigRequest s r) := by
  unfold execCxlConfigRequest
  rw [sameLevels_next]
  split
  · rfl
  · split
    · simp
    · dsimp only
      split <;> simp

@[simp] theorem sameLevels_execRegisterWrite (off size v s) : SameLevels s (execRegisterWrite off size v s) := by
  unfold execRegisterWrite
  obtain ⟨window, hw⟩ : ∃ n, n = 0xF00000000000 := ⟨_, rfl⟩
  rw [← hw, sameLevels_next]
  dsimp only
  split
  · split <;> simp
  · split
    · rfl
    · split
      · simp
      · split <;> simp

@[simp] theorem sameLevels_execJtagTapAccess (op s) : SameLevels s (execJtagTapAccess op s) := by
  cases op with
  | idcode => simp [execJtagTapAccess]
  | bypass => simp [execJtagTapAccess]
  | apex a =>
    intro t ht
    simp only [execJtagTapAccess] at ht
    split at ht
    · cases ht
    · cases ht; rfl

/-! ### The commands that settle the sideband, reset the module or fence a unit -/

/-- An outcome whose next state, where it has one, keeps `FAULT` and `SPARE_RDY#` apart. -/
def KeepsApart (s : State) (o : Host.Outcome State Fault Refusal) : Prop :=
  Apart (levelsOf false s) → ∀ t, o = .next t → Apart (levelsOf false t)

@[simp] theorem keepsApart_next {s t : State} :
    KeepsApart s (.next t) ↔ (Apart (levelsOf false s) → Apart (levelsOf false t)) :=
  ⟨fun h hs => h hs t rfl, fun h hs u hu => by cases hu; exact h hs⟩

theorem SameLevels.keepsApart {s : State} {o : Host.Outcome State Fault Refusal} (h : SameLevels s o) : KeepsApart s o :=
  fun hs t ht => (h t ht).symm ▸ hs

@[simp] theorem keepsApart_execUnitFence (h unit index action s) : KeepsApart s (execUnitFence h unit index action s) :=
  keepsApart_next.2 fun hs => apart_runCmd hs (fun _ ht => apart_unitFenceBody ht ..) ..

@[simp] theorem keepsApart_execSectorCreate (h columns quota weight flags s) :
    KeepsApart s (execSectorCreate h columns quota weight flags s) :=
  keepsApart_next.2 fun hs => apart_runCmd hs (fun _ ht => apart_sectorCreateBody ht ..) ..

@[simp] theorem keepsApart_execSectorDestroy (h s) : KeepsApart s (execSectorDestroy h s) :=
  keepsApart_next.2 fun hs => apart_runCmd hs (fun _ ht => apart_sectorDestroyBody ht ..) ..

@[simp] theorem keepsApart_execJobOpen (h job seed rule s) : KeepsApart s (execJobOpen h job seed rule s) :=
  keepsApart_next.2 fun hs => apart_runCmd hs (fun _ ht => apart_jobOpenBody ht ..) ..

@[simp] theorem keepsApart_execJobClose (h job s) : KeepsApart s (execJobClose h job s) :=
  keepsApart_next.2 fun hs => apart_runCmd hs (fun _ ht => apart_jobCloseBody ht ..) ..

@[simp] theorem keepsApart_execFabricConfig (h port tDetect addr s) : KeepsApart s (execFabricConfig h port tDetect addr s) :=
  keepsApart_next.2 fun hs => apart_runCmd hs (fun _ ht => apart_fabricConfigBody ht ..) ..

@[simp] theorem keepsApart_execFacetFaultStop (f s) : KeepsApart s (execFacetFaultStop f s) := by
  unfold execFacetFaultStop
  rw [keepsApart_next]
  intro hs
  dsimp only
  (repeat' split) <;> simp [hs]

@[simp] theorem keepsApart_execHealthSecond (s) : KeepsApart s (execHealthSecond s) := by
  unfold execHealthSecond
  rw [keepsApart_next]
  intro hs
  dsimp only
  (repeat' split) <;> simp [hs]

@[simp] theorem keepsApart_execDeviceResetTrigger (s) : KeepsApart s (execDeviceResetTrigger s) := by
  unfold execDeviceResetTrigger
  rw [keepsApart_next]
  intro hs
  (repeat' split) <;> simp [hs]

@[simp] theorem keepsApart_execBootStart (f torn s) : KeepsApart s (execBootStart f torn s) := by
  unfold execBootStart
  rw [keepsApart_next]
  intro hs
  dsimp only
  (repeat' split) <;> simp [hs]

@[simp] theorem keepsApart_execImageStageEnd (active other identA identB s) :
    KeepsApart s (execImageStageEnd active other identA identB s) := by
  unfold execImageStageEnd
  rw [keepsApart_next]
  intro hs
  dsimp only
  (repeat' split) <;> simp [hs]

@[simp] theorem keepsApart_execVarluxStageEnd (r s) : KeepsApart s (execVarluxStageEnd r s) := by
  unfold execVarluxStageEnd
  rw [keepsApart_next]
  intro hs
  dsimp only
  (repeat' split) <;> simp [hs]

@[simp] theorem keepsApart_execClocksStageEnd (pll r s) : KeepsApart s (execClocksStageEnd pll r s) := by
  unfold execClocksStageEnd
  rw [keepsApart_next]
  intro hs
  (repeat' split) <;> simp [hs]

@[simp] theorem keepsApart_execD2dStageEnd (working s) : KeepsApart s (execD2dStageEnd working s) := by
  unfold execD2dStageEnd
  rw [keepsApart_next]
  intro hs
  dsimp only
  (repeat' split) <;> simp [hs]

@[simp] theorem keepsApart_execMemStageEnd (n r pairs s stream) : KeepsApart s (execMemStageEnd n r pairs s stream) := by
  unfold execMemStageEnd
  rw [keepsApart_next]
  intro hs
  dsimp only
  split
  · exact hs
  · split
    · next h => simp [levelsOf_runMem h, hs]
    · split <;> simp [hs]

@[simp] theorem keepsApart_execLatticeStageEnd (r columns s stream) : KeepsApart s (execLatticeStageEnd r columns s stream) := by
  unfold execLatticeStageEnd
  rw [keepsApart_next]
  intro hs
  dsimp only
  split
  · exact hs
  · split <;> simp [hs]

@[simp] theorem keepsApart_execFlashStageEnd (r s stream) : KeepsApart s (execFlashStageEnd r s stream) := by
  unfold execFlashStageEnd
  rw [keepsApart_next]
  intro hs
  dsimp only
  (repeat' split) <;> simp [hs]

@[simp] theorem keepsApart_execFabricStageEnd (p r mode s stream) : KeepsApart s (execFabricStageEnd p r mode s stream) := by
  unfold execFabricStageEnd
  rw [keepsApart_next]
  intro hs
  dsimp only
  (repeat' split) <;> simp [hs]

@[simp] theorem keepsApart_execMgmtStageEnd (p r s) : KeepsApart s (execMgmtStageEnd p r s) := by
  unfold execMgmtStageEnd
  rw [keepsApart_next]
  intro hs
  dsimp only
  (repeat' split) <;> simp [hs]

@[simp] theorem keepsApart_execReadyStage (r s) : KeepsApart s (execReadyStage r s) := by
  unfold execReadyStage
  rw [keepsApart_next]
  intro hs
  (repeat' split) <;> simp [hs]

@[simp] theorem sameLevels_execFwSvnCommit (h flags cut s) : SameLevels s (execFwSvnCommit h flags cut s) := by
  refine sameLevels_next.2 (levelsOf_runCmd _ _ _ _ fun t => ?_)
  unfold fwSvnCommitBody; (repeat' split) <;> simp

@[simp] theorem sameLevels_execFuseBurn (h token cut s) : SameLevels s (execFuseBurn h token cut s) := by
  refine sameLevels_next.2 (levelsOf_runCmd _ _ _ _ fun t => ?_)
  unfold fuseBurnBody; (repeat' split) <;> simp

/-- Every command keeps the two apart: the first two groups settle the sideband, reset the module or fence a unit; all others
leave both alone, by their own lemma or as the shared operation that they are. -/
theorem keepsApart_exec (c : Instr) (s : State) : KeepsApart s (exec c s) := by
  cases c
  case unitFence | sectorCreate | sectorDestroy | jobOpen | jobClose | fabricConfig | facetFaultStop | healthSecond |
      deviceResetTrigger | bootStart | imageStageEnd | varluxStageEnd | clocksStageEnd | d2dStageEnd | memStageEnd |
      latticeStageEnd | flashStageEnd | fabricStageEnd | mgmtStageEnd | readyStage => simp [exec]
  case apexFatalError | d2dModuleRemove | expulsionEffect | fabricPortRetrained | inputOvervoltage | inputUndervoltage |
      jtagResetRequest | perstAsserted | portLinkLoss | portRetrainTimeout | pwrEnDeasserted | secSecurityEvent | thermalTrip |
      wdtBootExpiry | wdtSecondExpiry => exact keepsApart_next.2 fun hs => by (repeat' split) <;> simp [hs]
  all_goals refine SameLevels.keepsApart ?_
  all_goals simp [exec,
    execMmaLdw, execMmaRun, execAccZero, execAccCfg, execAccDrain, execAccLoad, execVeLd, execVeSt, execVeMov, execVeAdd,
    execVeSub, execVeMul, execVeFma, execVeFnma, execVeMax, execVeMin, execVeAbs, execVeNeg, execVeAddk, execVeMulk,
    execVeFmak, execVeClamp, execVeCmpgt, execVeCmpge, execVeCmpeq, execVeSel, execVeFloor, execVeRndi, execVeGetexp,
    execVeGetmant, execVeLdexp, execVeCvtbf, execVeRmax, execVeRsum, execVeCsum, execVeBcast0, execVeRcp, execVeRsqrt,
    execVeExp, execVeRand, execDmaRd, execDmaWr, execDmaLinRead, execDmaLinWrite, execDmaXfr, execDmaChd, execDmaDsp,
    execTokSend, execGatherData, execDispatch, execObjCreate, execObjDestroy, execObjPromote, execObjEvict, execObjPin,
    execObjUnpin, execMoveSwitch, execPrefetchSchedule, execFtlWearLevel, execFtlReadDisturb, execFtlRetentionScan,
    execArcLoad, execArcStart, execArcStop, execPark, execUnpark, execPwrEnAsserted, execInputAboveRisingThreshold,
    execPgoodRise, execThermWarn, execThermWarnRearm, execTempMaxUpdate, execRefclkLoss, execSelfRefreshEntryDone,
    execSrEntryTimeout, execPoweredTimeTick, execWdtFirstExpiry, execAonWdtCtrlWrite, execAonWdtKick, execAonPtimeLoRead,
    execSmbReadByte, execSmbReadWord, execSmbWriteByte, execSmbAlertResponse, execSmbTimeout, execPauseFrame,
    execNeighborSolicitation, execIcmpv6Echo, execPortStatus, execD2dFlitCheckFail, execBootJournalRead,
    execBootJournalClear, execSaluAdd, execSaluSub, execSaluAnd, execSaluOr, execSaluXor, execSaluShl, execSaluShr,
    execSaluSra, execSaluMul, execSaluMulhu, execSaluMinu, execSaluMaxu, execSaluSltu, execSaluSlt, execSaluSeq, execNop,
    execLi, execHalt, execSld, execSst, execBr, execLoop, execWait, execCsrr, execTdseta, execTdsetm, execTdadd,
    execDmaStat, execTokRecv, execTokPoll, execStatClr, execStatEmit, execFwInstall, execFwActivate, execDebugUnlock,
    execDrbgReseed, execScoreUpdate, execEvidenceBucketChange, execBudgetWindowExpiry, execRehearsalInjection,
    execHealthRead, execHealthConfig, execRehearsalConfig, execDiagRun, execShardCommit, execShardRead, execStepArm,
    execStepStatus, execRuleLoad, execLayoutInstall, execReshardReq, execCommandFetch, execMbxOpen, execDeviceInfo,
    execDeviceReset, execGpioConfig, execScrubBlock, execCxlMemRead, execCxlMemWrite, execCxlMemNarrowWrite,
    execMemRegionMode, execMemHdmWindow, execMemErrorRead, execMgmtCmd, execMgmtAck, execAnnounceSend, execAnnounce,
    execAnnounceEntryExpiry, execMgmtPortDown, execMgmtPortUp, execMirrorBind, execMirrorBindAck, execSnapshotBegin,
    execMirrorDone, execMirrorUnbindOp, execMirrorQueryReply, execMirrorUnbind, execRestore, execMirrorQuery,
    execStreamWindowGrowth, execSpdmGetVersion, execSpdmNegotiateAlgorithms, execSpdmGetDigests, execSpdmGetCertificate,
    execSpdmChallenge, execSpdmUnsupportedRequest, execHostLinkUp, execFunctionLevelReset, execHotReset, execHostLinkDown,
    execRingCtrlWrite, execRingSqTail, execRingCqHead, execMbxEventEnWrite, execTelPtimeLoRead, execTelemetryUpdate,
    execChordData, execCollectiveAbort, execDispatchEnd, execRehearsalInjectionEnd, execSpdmGetCapabilities]

/-- Settles O58: an idle step changes nothing, and every command keeps `FAULT` and `SPARE_RDY#` apart. -/
theorem faultExcludesSpareReady : Obligations.FaultExcludesSpareReady := by
  unfold Obligations.FaultExcludesSpareReady
  intro s t hs hst
  rcases hp : s.pending with _ | ⟨c, rest⟩
  · simp only [step, hp, Host.Outcome.next.injEq] at hst
    exact hst ▸ hs
  · have hexec : exec c { s with pending := rest } = .next t := by simpa only [step, hp] using hst
    exact keepsApart_exec c { s with pending := rest } hs t hexec

end Sys2Proof.Machine
end

section
/-! The health score and the records of health (O34, O35): what a score update publishes, and the health state and health
configuration records under a write (R444 to R448, R457, R458). -/

namespace Sys2Proof.Machine

/-! ### The health records under a write of the journal (R63, R64, R446, R448) -/

/-- Marking bad copies changes neither health record nor the fence map. -/
theorem settleBad_health (j : Journal) :
    (settleBad j).hst = j.hst ∧ (settleBad j).hcfg = j.hcfg ∧ (settleBad j).fence = j.fence := by
  unfold settleBad
  dsimp only
  split <;> exact ⟨rfl, rfl, rfl⟩

theorem writeHst_hst (s : State) : (writeHst s).jrn.hst = { s.jrn.hst with seq := s.jrn.hst.seq + 1 } :=
  (settleBad_health _).1

theorem writeHcfg_hcfg (g : HealthConfig → HealthConfig) (s : State) :
    (writeHcfg g s).jrn.hcfg = { g s.jrn.hcfg with seq := (g s.jrn.hcfg).seq + 1 } := (settleBad_health _).2.1

theorem writeFence_fence (g : FenceMap → FenceMap) (s : State) :
    (writeFence g s).jrn.fence = { g s.jrn.fence with seq := (g s.jrn.fence).seq + 1 } := (settleBad_health _).2.2

/-! ### The published score (R102, R445) -/

/-- What of the score and the confidence is published: by the health part, on SMBus and in telemetry. -/
def scoreShown (s : State) : (Nat × Nat × Bool) × BitVec 10 × BitVec 10 × BitVec 10 × W32 :=
  ((s.health.score, s.health.conf, s.health.published), s.smb.score, s.mbx.telScore, s.mbx.telConf, s.mbx.telSeq)

theorem sendMsix_scoreShown (v : BitVec 4) (s : State) : scoreShown (sendMsix v s) = scoreShown s := by
  unfold sendMsix
  split <;> rfl

theorem raiseEvent_scoreShown (k : Nat) (s : State) : scoreShown (raiseEvent k s) = scoreShown s := by
  simp only [raiseEvent, setEvents]
  split
  · exact sendMsix_scoreShown ..
  · rfl

/-- A proposal of expulsion changes nothing of the published score. -/
theorem evalProposal_scoreShown (s : State) : scoreShown (evalProposal s) = scoreShown s := by
  unfold evalProposal
  split
  · rfl
  · split
    · rfl
    · split
      · rfl
      · split
        · rfl
        · exact raiseEvent_scoreShown ..

theorem publishScore_scoreShown (s : State) : scoreShown (publishScore s) = ((scoreOf s, confOf s, true),
    BitVec.ofNat 10 (scoreOf s), BitVec.ofNat 10 (scoreOf s), BitVec.ofNat 10 (confOf s), s.mbx.telSeq + 2) := by
  have hevent : ∀ (c : Prop) [Decidable c] (t : State), scoreShown (if c then raiseEvent evHealth t else t) = scoreShown t := by
    intro c _ t
    split
    · exact raiseEvent_scoreShown ..
    · rfl
  unfold publishScore
  dsimp only
  split
  · exact (evalProposal_scoreShown _).trans (hevent ..)
  · exact hevent ..

/-! ### `REPLACE_REQ` (R446, R447) -/

theorem setReplaceReq_jrn (b : Bool) (s : State) : (setReplaceReq b s).jrn = { s.jrn with hst.replaceReq := b } := by
  unfold setReplaceReq
  split
  · next h => rw [← h]
  · rw [raiseEvent_jrn]
    unfold raiseAlert
    split <;> rfl

/-- The request takes its value in the health state record; nothing else of it changes but its sequence number. -/
theorem changeReplace_hst (b : Bool) (s : State) :
    ∃ q, (changeReplace b s).jrn.hst = { s.jrn.hst with replaceReq := b, seq := q } := by
  unfold changeReplace
  split
  · next h => exact ⟨_, by rw [← h]⟩
  · refine ⟨s.jrn.hst.seq + 1, ?_⟩
    rw [settleSideband_jrn, writeHst_hst, logHealth_jrn, setReplaceReq_jrn]

/-- A change of the request leaves the boot's phase and the expulsion as they are. -/
theorem changeReplace_expulsion (b : Bool) (s : State) : (changeReplace b s).phase = s.phase ∧
    (changeReplace b s).health.expelled = s.health.expelled ∧ (changeReplace b s).health.granted = s.health.granted := by
  unfold changeReplace
  split
  · exact ⟨rfl, rfl, rfl⟩
  · simp [logHealth]

/-! ### The clock's rows -/

section
variable {s : State}

/-- A score update publishes the score and the confidence, and is one update of the telemetry block (log 71). -/
theorem exec_scoreUpdate (hans : answering s = true) : exec .scoreUpdate s = .next (publishScore s) :=
  congrArg Host.Outcome.next (if_pos hans)

/-- The health state record once a powered second has been counted (R445 to R447, R457). -/
def secondCounted (s : State) : HealthState :=
  let low := s.health.published && decide (s.health.score < s.jrn.hcfg.threshold ∧ 250 ≤ s.health.conf)
  let high := s.health.published && decide (s.jrn.hcfg.threshold + s.jrn.hcfg.hysteresis ≤ s.health.score)
  { s.jrn.hst with
    obsS := min 86400 (s.jrn.hst.obsS + 1), belowS := if low then s.jrn.hst.belowS + 1 else 0,
    aboveS := if high then s.jrn.hst.aboveS + 1 else 0, windowEl := s.jrn.hst.windowEl + 1, bucketEl := s.jrn.hst.bucketEl + 1 }

theorem secondCounted_belowS (hp : s.health.published = true) (hlow : s.health.score < s.jrn.hcfg.threshold)
    (hconf : 250 ≤ s.health.conf) : (secondCounted s).belowS = s.jrn.hst.belowS + 1 := by
  simp [secondCounted, hp, hlow, hconf]

/-- A powered second is counted; it may change the replacement request, and sets it after the dwell time below the threshold. -/
theorem exec_healthSecond (hv : varluxRuns s = true) : ∃ u b q, exec .healthSecond s = .next u ∧
    u.jrn.hst = { secondCounted s with replaceReq := b, seq := q } ∧
    (s.jrn.hcfg.dwellS ≤ (secondCounted s).belowS → b = true) := by
  have hexec : exec .healthSecond s = .next (if s.jrn.hcfg.dwellS ≤ (secondCounted s).belowS then
      changeReplace true { s with jrn.hst := secondCounted s }
    else if s.jrn.hcfg.dwellS ≤ (secondCounted s).aboveS && !s.health.expelled then
      changeReplace false { s with jrn.hst := secondCounted s }
    else { s with jrn.hst := secondCounted s }) := congrArg Host.Outcome.next (if_pos hv)
  by_cases hdwell : s.jrn.hcfg.dwellS ≤ (secondCounted s).belowS
  · obtain ⟨q, hq⟩ := changeReplace_hst true { s with jrn.hst := secondCounted s }
    exact ⟨_, true, q, hexec.trans (congrArg _ (if_pos hdwell)), hq, fun _ => rfl⟩
  · rw [if_neg hdwell] at hexec
    by_cases habove : (s.jrn.hcfg.dwellS ≤ (secondCounted s).aboveS && !s.health.expelled) = true
    · obtain ⟨q, hq⟩ := changeReplace_hst false { s with jrn.hst := secondCounted s }
      exact ⟨_, false, q, hexec.trans (congrArg _ (if_pos habove)), hq, fun h => absurd h hdwell⟩
    · exact ⟨_, _, _, hexec.trans (congrArg _ (if_neg habove)), rfl, fun h => absurd h hdwell⟩

/-- The hour that ends gives way to the next bucket, which is empty. -/
theorem exec_evidenceBucketChange (hour : 3600 ≤ s.jrn.hst.bucketEl) : ∃ u, exec .evidenceBucketChange s = .next u ∧
    u.jrn.hst.bucket = (s.jrn.hst.bucket + 1) % 24 ∧ u.jrn.hst.bucketEl = 0 ∧
    u.jrn.hst.counts = s.jrn.hst.counts.filter fun e => e.1 / 12 != (s.jrn.hst.bucket + 1) % 24 := by
  refine ⟨_, congrArg Host.Outcome.next (if_pos hour), ?_⟩
  rw [writeHst_hst]
  exact ⟨rfl, rfl, rfl⟩

theorem exec_budgetWindowExpiry (hwin : s.jrn.hcfg.windowS ≤ s.jrn.hst.windowEl) : ∃ u, exec .budgetWindowExpiry s = .next u ∧
    u.jrn.hst.budgetUsed = 0 ∧ u.jrn.hst.windowEl = 0 := by
  refine ⟨_, congrArg Host.Outcome.next (if_pos hwin), ?_⟩
  rw [writeHst_hst]
  exact ⟨rfl, rfl⟩

/-- A granted expulsion takes effect: the module asks for its replacement and asserts `FAULT` (R458, R459). -/
theorem exec_expulsionEffect (hg : s.health.granted = true) (hr : s.phase = .ready) (hidle : s.jobs.any armed = false) :
    ∃ u, exec .expulsionEffect s = .next u ∧
      u.health.expelled = true ∧ u.health.granted = false ∧ u.jrn.hst.replaceReq = true ∧ u.pins.fault = true := by
  obtain ⟨t, ht⟩ : ∃ t, t = logHealth 0x07 0 0 0 { s with health.granted := false, health.expelled := true } := ⟨_, rfl⟩
  obtain ⟨hphase, hexp, hgr⟩ := changeReplace_expulsion true t
  obtain ⟨q, hq⟩ := changeReplace_hst true t
  have hnow : s.health.granted = true ∧ s.phase = .ready ∧ (!s.jobs.any armed) = true := ⟨hg, hr, by rw [hidle]; rfl⟩
  refine ⟨settleSideband (changeReplace true t), ?_, ?_, ?_, ?_, ?_⟩
  · rw [ht]
    exact congrArg Host.Outcome.next (if_pos hnow)
  · rw [settleSideband_health, hexp, ht]; rfl
  · rw [settleSideband_health, hgr, ht]; rfl
  · rw [settleSideband_jrn, hq]
  · have hready : t.phase = .ready := by rw [ht]; exact hr
    have hout : t.health.expelled = true := by rw [ht]; rfl
    rw [settleSideband_fault, faultCond, hphase, hready, hexp, hout]
    rfl

end

/-- Settles O34: each row of the clock by its own rule. -/
theorem healthFollowsTheClock : Obligations.HealthFollowsTheClock := by
  unfold Obligations.HealthFollowsTheClock
  refine fun s => ⟨fun hans => ⟨_, exec_scoreUpdate hans, ?_⟩, fun hv => ?_, exec_evidenceBucketChange,
    exec_budgetWindowExpiry, exec_expulsionEffect⟩
  · have hshown := publishScore_scoreShown s
    simp only [scoreShown, Prod.mk.injEq] at hshown
    obtain ⟨⟨hscore, hconf, hpub⟩, hsmb, htelScore, htelConf, hseq⟩ := hshown
    exact ⟨hscore, hconf, hpub, hsmb, htelScore, htelConf, hseq⟩
  · obtain ⟨u, b, q, hu, hhst, hset⟩ := exec_healthSecond hv
    refine ⟨u, hu, by rw [hhst]; rfl, by rw [hhst]; rfl, by rw [hhst]; rfl, fun hp hlow hconf => ?_⟩
    have hbelow := secondCounted_belowS hp hlow hconf
    rw [hbelow] at hset
    rw [hhst]
    exact ⟨hbelow, hset⟩

end Sys2Proof.Machine
end

section
/-! The health commands (R448, R451, R469, R470, R472) and fault rehearsal (R467, R468): what a fence leaves of the fences, what
an injection's end leaves, and each command past its checks (O35). -/

namespace Sys2Proof.Machine

/-! ### A fenced unit (R449, R451, Table 16-4) -/

/-- A fence flag is in the fenced units of a state. -/
theorem isFenced_of_unitsOf {s t : State} (h : unitsOf t = unitsOf s) (unit ix : Nat) :
    isFenced unit ix t = isFenced unit ix s := by
  simp only [unitsOf, Prod.mk.injEq] at h
  obtain ⟨-, hcolumns, hpairs, hprisms, hfabric, hmgmt⟩ := h
  unfold isFenced
  split
  · rw [hcolumns]
  · rw [hpairs]
  · rw [hprisms]
  · rw [hfabric]
  · rw [hmgmt]

theorem fencedCount_of_unitsOf {s t : State} (h : unitsOf t = unitsOf s) : fencedCount t = fencedCount s := by
  simp only [unitsOf, Prod.mk.injEq] at h
  obtain ⟨-, hcolumns, hpairs, hprisms, hfabric, hmgmt⟩ := h
  rw [fencedCount, hcolumns, hpairs, hprisms, hfabric, hmgmt, fencedCount]

theorem isFenced_setFenced {unit ix : Nat} (hix : ix < unitCount unit) (s : State) :
    isFenced unit ix (setFenced unit ix s) = true := by
  unfold unitCount at hix
  unfold isFenced setFenced
  split at hix <;> simp_all [getLsbD_setBit]

theorem isFenced_recordFence (unit ix : Nat) (s : State) : isFenced unit ix (recordFence unit ix s) = isFenced unit ix s :=
  isFenced_of_unitsOf rfl unit ix

/-- A column that leaves service changes no other fence. -/
theorem dropColumn_columns (c : Nat) (s : State) : (dropColumn c s).health.columns = s.health.columns := by
  have h := levelsOf_dropColumn (κ := true) c s
  simp only [levelsOf, if_true, Prod.mk.injEq, Option.some.injEq] at h
  obtain ⟨-, -, hcolumns⟩ := h
  exact hcolumns

/-- A management port that is lost changes no fence. -/
theorem mgmtLost_mgmt (p : Fin 2) (s : State) : (mgmtLost p s).health.mgmt = s.health.mgmt := by
  unfold mgmtLost endInjection
  dsimp only
  split
  · split
    · rfl
    · split <;> rfl
  · rfl

/-- What Varlux does at a fence beside the unit's own effect leaves the fences as they are (R451, R455). -/
theorem isFenced_noted (unit ix k n : Nat) (t : State) :
    isFenced unit ix (checkFloor (raiseEvent evFence (logHealth 0x01 k n 0 { t with smb.degraded := true }))) =
      isFenced unit ix t :=
  isFenced_of_unitsOf (by rw [unitsOf_checkFloor, unitsOf_raiseEvent, unitsOf_logHealth]; rfl) unit ix

/-- The unit of a fence is fenced, whatever its fence sets going. -/
theorem isFenced_fenceUnit {unit ix : Nat} (hix : ix < unitCount unit) (s : State) :
    isFenced unit ix (fenceUnit unit ix s) = true := by
  have hset := isFenced_setFenced hix s
  unfold fenceUnit
  split
  · assumption
  · dsimp only
    rw [isFenced_noted]
    split
    · rwa [isFenced, dropColumn_columns]
    · rwa [isFenced_of_unitsOf (unitsOf_losePrism ..)]
    · rwa [isFenced_of_unitsOf (unitsOf_losePrism ..)]
    · rw [isFenced, fenced_of_linksOf (linksOf_detectNoPorts _)]
      exact hset
    · next h0 h1 h2 h3 =>
      unfold isFenced at hset ⊢
      split <;> simp_all [mgmtLost_mgmt]

theorem persistent_recordFence {unit ix : Nat} (hix : ix < unitCount unit) (s : State) :
    persistent (recordFence unit ix s).jrn.fence unit ix = true := by
  rw [recordFence, writeFence_fence]
  unfold unitCount at hix
  unfold persistent
  split at hix <;> simp_all [getLsbD_setBit]

theorem unit_le_of_index {unit ix : Nat} (hix : ix < unitCount unit) : unit ≤ 4 := by
  unfold unitCount at hix
  split at hix <;> omega

/-! ### The end of an injection (R468, R472) -/

/-- The rehearsal logged last is the newest one. -/
theorem logReh_newest (r : RehRec) (s : State) : (logReh r s).health.rehLog.getLast? = some r := by
  have hlen : ¬s.health.rehLog.length + 1 ≤ s.health.rehLog.length + 1 - 32 := by omega
  simp only [logReh, List.getLast?_drop, List.length_append, List.length_singleton, if_neg hlen, List.getLast?_concat]

theorem endInjection_injection (n : Nat) (s : State) : (endInjection n s).health.injection = none := by
  unfold endInjection
  split
  · assumption
  · dsimp only
    split <;> rfl

/-- An injection that is not judged is no evidence: its end leaves the journal as it is. -/
theorem endInjection_jrn {n : Nat} (hn : n ≠ 1) (s : State) : (endInjection n s).jrn = s.jrn := by
  unfold endInjection
  split
  · rfl
  · dsimp only
    rw [if_neg hn]
    rfl

/-- What the log keeps of an injection that ends now. -/
def rehearsed (outcome b : Nat) (target : W16) (start : W64) (s : State) : RehRec :=
  ⟨start, b, outcome, target, BitVec.ofNat 32 (((now s).toNat - start.toNat) / 1000)⟩

/-- An injection is over: it is logged, and the silence and the withdrawal it made end (R468). -/
def injectionOver (r : RehRec) (s : State) : State :=
  logReh r { s with
    health.injection := none, mgmt.ports := vmap s.mgmt.ports fun _ x => { x with silent := false },
    fabric.ports := vmap s.fabric.ports fun _ x => { x with withdrawn := false } }

theorem injectionOver_silent (r : RehRec) (s : State) (p : Fin 2) : ((injectionOver r s).mgmt.ports[p]).silent = false := by
  rw [show (injectionOver r s).mgmt.ports[p] = { s.mgmt.ports[p] with silent := false } from vmap_get ..]

theorem injectionOver_withdrawn (r : RehRec) (s : State) (p : Fin 8) : ((injectionOver r s).fabric.ports[p]).withdrawn = false := by
  rw [show (injectionOver r s).fabric.ports[p] = { s.fabric.ports[p] with withdrawn := false } from vmap_get ..]

theorem injectionOver_jrn (r : RehRec) (s : State) : (injectionOver r s).jrn = s.jrn := rfl

/-- Evidence leaves the running injection and the rehearsals logged as they are. -/
theorem evidence_rehearsal (c n : Nat) (s : State) : (evidence c n s).health.injection = s.health.injection ∧
    (evidence c n s).health.rehLog = s.health.rehLog := ⟨rfl, rfl⟩

theorem injectionOver_newest (r : RehRec) (s : State) : (injectionOver r s).health.rehLog.getLast? = some r := logReh_newest ..

section
variable {s : State} {b : Nat} {target : W16} {start : W64} (hinj : s.health.injection = some (b, target, start))
include hinj

theorem endInjection_eq (n : Nat) : endInjection n s =
    if n = 1 then evidence 0x1B 1 (injectionOver (rehearsed n b target start s) s)
    else injectionOver (rehearsed n b target start s) s := by
  unfold endInjection
  rw [hinj]
  rfl

/-- An injection that passed ends without evidence. -/
theorem exec_rehearsalInjectionEnd_passed :
    exec (.rehearsalInjectionEnd true) s = .next (injectionOver (rehearsed 0 b target start s) s) :=
  congrArg Host.Outcome.next ((endInjection_eq hinj 0).trans (if_neg zero_ne_one))

/-- An injection that failed is evidence of class 0x1B. -/
theorem exec_rehearsalInjectionEnd_failed :
    exec (.rehearsalInjectionEnd false) s = .next (evidence 0x1B 1 (injectionOver (rehearsed 1 b target start s) s)) :=
  congrArg Host.Outcome.next ((endInjection_eq hinj 1).trans (if_pos rfl))

end

/-! ### The commands past their checks -/

section
variable {s : State} (h : Hdr)

/-- `HEALTH_CONFIG` in range (R448). -/
theorem healthConfigBody_configures {th hy bu : W16} {dw wi : W32} (c : HealthConfig) (hc : c = s.jrn.hcfg)
    (h1 : keepField th c.threshold ≤ 1000) (h2 : keepField hy c.hysteresis ≤ 500)
    (h3 : keepField th c.threshold + keepField hy c.hysteresis ≤ 1000) (h4 : 1 ≤ keepField dw c.dwellS)
    (h5 : keepField dw c.dwellS ≤ 604800) (h6 : keepField bu c.budget ≤ 65534) (h7 : 60 ≤ keepField wi c.windowS)
    (h8 : keepField wi c.windowS ≤ 2592000) :
    ∃ u, healthConfigBody h th hy dw bu wi s = evalProposal (complete h stOk [] u) ∧
      u.jrn.hcfg = { c with seq := c.seq + 1, threshold := keepField th c.threshold, hysteresis := keepField hy c.hysteresis,
                            dwellS := keepField dw c.dwellS, budget := keepField bu c.budget,
                            windowS := keepField wi c.windowS } := by
  subst hc
  have hargs : ¬(1000 < keepField th s.jrn.hcfg.threshold ∨ 500 < keepField hy s.jrn.hcfg.hysteresis ∨
      1000 < keepField th s.jrn.hcfg.threshold + keepField hy s.jrn.hcfg.hysteresis ∨ keepField dw s.jrn.hcfg.dwellS < 1 ∨
      604800 < keepField dw s.jrn.hcfg.dwellS ∨ 65534 < keepField bu s.jrn.hcfg.budget ∨
      keepField wi s.jrn.hcfg.windowS < 60 ∨ 2592000 < keepField wi s.jrn.hcfg.windowS) := by omega
  rw [healthConfigBody]
  dsimp only
  rw [if_neg hargs]
  refine ⟨_, rfl, ?_⟩
  split <;> exact writeHcfg_hcfg (fun r => { r with
    threshold := keepField th s.jrn.hcfg.threshold, hysteresis := keepField hy s.jrn.hcfg.hysteresis,
    dwellS := keepField dw s.jrn.hcfg.dwellS, budget := keepField bu s.jrn.hcfg.budget,
    windowS := keepField wi s.jrn.hcfg.windowS }) s

section
variable {unit ix : Nat} (hix : ix < unitCount unit)
include hix

/-- A fence that the service floor can spare (R451, R454). -/
theorem unitFenceBody_fences (hfloor : floorUnits (setFenced unit ix s) = true) :
    unitFenceBody h unit ix 0 s = complete h stOk (leBytes 4 (fencedCount (recordFence unit ix (fenceUnit unit ix s))))
      (recordFence unit ix (fenceUnit unit ix s)) := by
  have hargs : ¬(4 < unit ∨ unitCount unit ≤ ix ∨ 1 < 0) := by
    have := unit_le_of_index hix
    omega
  rw [unitFenceBody, if_neg hargs, if_pos rfl, if_neg (by simp [hfloor])]

/-- The lift of a persistent fence is marked (R451). -/
theorem unitFenceBody_lifts (hp : persistent s.jrn.fence unit ix = true) :
    unitFenceBody h unit ix 1 s = complete h stOk (leBytes 4 (fencedCount (markLift unit ix s))) (markLift unit ix s) := by
  have hargs : ¬(4 < unit ∨ unitCount unit ≤ ix ∨ 1 < 1) := by
    have := unit_le_of_index hix
    omega
  rw [unitFenceBody, if_neg hargs, if_neg one_ne_zero, if_pos hp]

end

/-- A lift that is marked changes no fence: it ends with the next boot (R451). -/
theorem fencedCount_markLift (unit ix : Nat) (s : State) : fencedCount (markLift unit ix s) = fencedCount s :=
  fencedCount_of_unitsOf rfl

/-- `REHEARSAL_CONFIG` that enables rehearsal (R469). -/
theorem rehearsalConfigBody_enables {period : W32} {mask : W64} (hm : mask.toNat < 512) (hlo : 60 ≤ period.toNat)
    (hhi : period.toNat ≤ 604800) : ∃ u, rehearsalConfigBody h 1 period mask s = complete h stOk [] u ∧
      u.jrn.hcfg = { s.jrn.hcfg with seq := s.jrn.hcfg.seq + 1, rehEnable := true, periodS := period.toNat,
                                     mask := mask.truncate 9 } := by
  have hargs : ¬(2 ≤ (1 : Byte).toNat ∨ 512 ≤ mask.toNat ∨
      ((1 : Byte).getLsbD 0 = true ∧ (period.toNat < 60 ∨ 604800 < period.toNat))) := by
    have hflags : (1 : Byte).toNat = 1 := rfl
    omega
  rw [rehearsalConfigBody]
  dsimp only
  rw [if_neg hargs]
  exact ⟨_, rfl, writeHcfg_hcfg (fun r => { r with rehEnable := true, periodS := period.toNat, mask := mask.truncate 9 }) s⟩

/-- `REHEARSAL_CONFIG` that disables rehearsal ends a running injection (R469). -/
theorem rehearsalConfigBody_disables {mask : W64} (period : W32) (hm : mask.toNat < 512) :
    ∃ u, rehearsalConfigBody h 0 period mask s = complete h stOk [] u ∧ u.health.injection = none ∧
      u.jrn.hcfg.rehEnable = false := by
  have hargs : ¬(2 ≤ (0 : Byte).toNat ∨ 512 ≤ mask.toNat ∨
      ((0 : Byte).getLsbD 0 = true ∧ (period.toNat < 60 ∨ 604800 < period.toNat))) := by
    have hflags : (0 : Byte).toNat = 0 := rfl
    have hen : (0 : Byte).getLsbD 0 = false := rfl
    rw [hflags, hen]
    simp [hm]
  rw [rehearsalConfigBody]
  dsimp only
  rw [if_neg hargs]
  refine ⟨_, rfl, endInjection_injection .., ?_⟩
  show (endInjection 2 _).jrn.hcfg.rehEnable = false
  rw [endInjection_jrn (by decide), writeHcfg_hcfg]
  rfl

/-- `DIAG_RUN` that runs (R470; its outcome and duration are operands: log 55). -/
theorem diagRunBody_runs {test unit ix : Nat} (hst : diagStatus test unit ix s = none) (result duration : W32) :
    ∃ t, diagRunBody h test unit ix result duration s =
        complete h stOk (leBytes 4 result.toNat ++ leBytes 4 duration.toNat) t ∧ (test ≠ 2 → t = s) ∧ t.jrn = s.jrn := by
  unfold diagRunBody
  obtain ⟨gib, hgib⟩ : ∃ n, n = 2 ^ 30 := ⟨_, rfl⟩
  rw [← hgib, hst]
  refine ⟨_, rfl, fun htest => ?_, ?_⟩
  · split
    · exact absurd rfl htest
    · rfl
  · split
    · exact zeroRange_jrn ..
    · rfl

end

/-- An enabled injection starts (R467). -/
theorem exec_rehearsalInjection {s : State} {b : Fin 9} {target : W16} (hen : s.jrn.hcfg.rehEnable = true)
    (hmask : s.jrn.hcfg.mask.getLsbD b.val = true) (hready : s.phase = .ready) (hin : s.health.expelled = false)
    (hnone : s.health.injection = none) (hfw : s.sec.fw = none) (hburn : s.sec.burning ≠ some true)
    (hcond : injectable s b target.toNat = true) : exec (.rehearsalInjection b target) s =
      .next (inject b target.toNat (counter 17 1 { s with health.injection := some (b.val, target, now s) })) := by
  have hstarts : (s.jrn.hcfg.rehEnable && s.jrn.hcfg.mask.getLsbD b.val && s.phase == .ready && !s.health.expelled &&
      s.health.injection.isNone && s.sec.fw.isNone && s.sec.burning != some true && injectable s b target.toNat) = true := by
    rw [hen, hmask, hready, hin, hnone, hfw, hcond, bne_iff_ne.2 hburn]
    rfl
  show execRehearsalInjection b target s = _
  rw [execRehearsalInjection, if_pos hstarts]

/-- Settles O35: each command past its checks by its own body, and a rehearsal by its start and its end. -/
theorem healthCommandsAndRehearsals : Obligations.HealthCommandsAndRehearsals := by
  unfold Obligations.HealthCommandsAndRehearsals
  refine ⟨fun h s => ⟨fun hacc => ?read, fun th hy dw bu wi hacc h1 h2 h3 h4 h5 h6 h7 h8 => ?config,
    fun unit index hacc hix => ⟨fun hfloor => ?fence, fun hp => ?lift⟩,
    fun period mask hacc hm => ⟨fun hlo hhi => ?enable, ?disable⟩,
    fun test unit index result duration hacc hst => ?diag⟩,
    fun s => ⟨fun b target => exec_rehearsalInjection, fun b target start passed hbucket hinj => ?ended⟩⟩
  case read =>
    have hbody := exec_accepted (c := .healthRead h) rfl hacc
    rw [healthReadBody, startCmd_health] at hbody
    exact hbody
  case config =>
    obtain ⟨u, hu, hcfg⟩ := healthConfigBody_configures (s := startCmd h s) h _ (congrArg Journal.hcfg (startCmd_jrn h s)).symm
      h1 h2 h3 h4 h5 h6 h7 h8
    exact ⟨u, (exec_accepted rfl hacc).trans (congrArg _ hu), hcfg⟩
  case fence =>
    exact ⟨_, (exec_accepted rfl hacc).trans (congrArg _ (unitFenceBody_fences h hix hfloor)),
      (isFenced_recordFence ..).trans (isFenced_fenceUnit hix _), persistent_recordFence hix _⟩
  case lift =>
    have hp' : persistent (startCmd h s).jrn.fence unit.toNat index.toNat = true := by rwa [startCmd_jrn]
    exact (exec_accepted rfl hacc).trans (congrArg _ ((unitFenceBody_lifts h hix hp').trans (by rw [fencedCount_markLift]; rfl)))
  case enable =>
    obtain ⟨u, hu, hcfg⟩ := rehearsalConfigBody_enables (s := startCmd h s) h hm hlo hhi
    exact ⟨u, (exec_accepted rfl hacc).trans (congrArg _ hu), by rw [hcfg, startCmd_jrn]⟩
  case disable =>
    obtain ⟨u, hu, hended⟩ := rehearsalConfigBody_disables (s := startCmd h s) h period hm
    exact ⟨u, (exec_accepted rfl hacc).trans (congrArg _ hu), hended⟩
  case diag =>
    obtain ⟨t, ht, hsame, hjrn⟩ := diagRunBody_runs h hst result duration
    exact ⟨t, (exec_accepted rfl hacc).trans (congrArg _ ht), hsame, by rw [hjrn, startCmd_jrn]⟩
  case ended =>
    cases passed with
    | true =>
      refine ⟨_, exec_rehearsalInjectionEnd_passed hinj, rfl, injectionOver_silent _ s, injectionOver_withdrawn _ s, ?_, ?_⟩
      · rw [injectionOver_newest]; rfl
      · rw [if_pos rfl, Nat.add_zero, windowCount_congr (injectionOver_jrn ..)]
    | false =>
      have hcount : windowCount (evidence 0x1B 1 (injectionOver (rehearsed 1 b target start s) s)) 0x1B =
          windowCount s 0x1B + 1 := by
        rw [windowCount_evidence 0x1B 1 (by rwa [injectionOver_jrn]), windowCount_congr (injectionOver_jrn ..)]
      obtain ⟨hinjection, hlog⟩ := evidence_rehearsal 0x1B 1 (injectionOver (rehearsed 1 b target start s) s)
      refine ⟨_, exec_rehearsalInjectionEnd_failed hinj, hinjection, fun p => ?_, fun p => ?_, ?_, ?_⟩
      · rw [evidence_mgmt, injectionOver_silent]
      · rw [evidence_fabric, injectionOver_withdrawn]
      · rw [hlog, injectionOver_newest]
        rfl
      · rw [hcount, if_neg Bool.false_ne_true]

end Sys2Proof.Machine
end

section
/-! Snapshots at their source and at the partners, and their persistence to flash (O30). -/

namespace Sys2Proof.Machine

/-! ### A snapshot begins (R423, R428) -/

/-- A snapshot with its partners in the job, and its areas on their way to each of them. -/
def snapshotSent (job : W32) (g : W64) (d : CopyDesc) (areas : List (Nat × List Byte × List Byte)) (ws : List (W16 × Fin 2 × Bool))
    (s : State) : State :=
  ws.foldl (fun t w => sendAreas job w.1 w.2.1 d areas t) (modJob job (fun x => { x with snap := some ⟨g, ws, d⟩ }) s)

/-- The partners of a new snapshot, each with the buffer that does not hold what it acknowledged last. -/
def snapshotPartners (b : Binding) : List (W16 × Fin 2 × Bool) :=
  b.partners.map fun q => (q.rank, (q.last.map fun x => finOf (x.val + 1)).getD 0, false)

section
variable {job : W32} {j : Job} {s : State} (hj : jobOf job s = some j)
include hj

/-- With nothing waiting, without a binding, or beside another snapshot, none begins. -/
theorem beginSnapshot_idle (h : j.snapNext = [] ∨ j.binding = none ∨ j.snap.isSome = true) : beginSnapshot job s = s := by
  simp only [beginSnapshot, hj]
  split
  next g rest b lay hnext hbind _ =>
    rcases h with h | h | h
    · rw [hnext] at h; cases h
    · rw [hbind] at h; cases h
    · rw [if_pos h]
  next => rfl

section
variable {g : W64} {rest : List W64} {b : Binding} {lay : Layout} {v : State} (hnext : j.snapNext = g :: rest)
  (hbind : j.binding = some b) (hlay : j.layout = some lay) (hsnap : j.snap = none)
include hnext hbind hlay hsnap

/-- A generation whose areas cannot be read fails. -/
theorem beginSnapshot_unreadable (h : snapAreas j lay g (modJob job (fun x => { x with snapNext := rest }) s) = (v, none)) :
    beginSnapshot job s = failSnapshot job v := by
  simp only [beginSnapshot, hj, hnext, hbind, hlay, hsnap, h, Option.isSome_none, Bool.false_eq_true, if_false]

/-- A generation whose areas are read goes to every partner. -/
theorem beginSnapshot_sends {areas : List (Nat × List Byte × List Byte)}
    (h : snapAreas j lay g (modJob job (fun x => { x with snapNext := rest }) s) = (v, some areas)) :
    beginSnapshot job s = snapshotSent job g ⟨g, j.commit.step,
      BitVec.ofNat 64 ((areas.map fun a => a.2.1.length + a.2.2.length).foldl (· + ·) 0), true, true⟩ areas (snapshotPartners b) v := by
  simp only [beginSnapshot, hj, hnext, hbind, hlay, hsnap, h, Option.isSome_none, Bool.false_eq_true, if_false]
  exact congrArg (fun ws => snapshotSent job g _ areas ws v) (List.map_congr_left fun q _ => by cases q.last <;> rfl)

end

end

/-! ### A copy at the partner (R427, R428) -/

section
variable {p : ChordHdr} {rank : W16} {s t : State} {r : Region} (hr : regionOf p.job rank t = some r)
include hr

section
variable (hin : mirrorIn p false false never s = some (rank, t)) {d : CopyDesc} (buffer : Fin 2)
include hin

/-- BEGIN writes the descriptor of the target buffer incomplete. -/
theorem exec_mirrorBegin_opens {u : State} {b : Fin 2} (hd : d.crcOk = true) (hb : targetBuffer r t = (u, b)) :
    exec (.mirrorBegin p buffer d) s = .next (mirrorOut p false false s
      (modRegion p.job rank (fun x => { x with target := some b }) (putDesc r b { d with complete := false } u))) := by
  refine (congrArg Host.Outcome.next (onMirror_of_mirrorIn hin _)).trans ?_
  simp only [hr, hd, hb, if_true]

/-- END writes it complete, and DONE answers. -/
theorem exec_mirrorEnd_closes {b : Fin 2} (hd : d.crcOk = true) (hb : r.target = some b) :
    exec (.mirrorEnd p buffer d) s = .next (mirrorOut p false false s
      (mirrorReply p mopDone b.val 0 (beBytes 8 d.generation.toNat)
        (modRegion p.job rank (fun x => { x with target := none }) (putDesc r b { d with complete := true } t)))) := by
  refine (congrArg Host.Outcome.next (onMirror_of_mirrorIn hin _)).trans ?_
  simp only [hr, hb, hd]

/-- A descriptor whose CRC is wrong changes nothing. -/
theorem exec_mirrorBegin_badDesc (hd : d.crcOk = false) :
    exec (.mirrorBegin p buffer d) s = .next (mirrorOut p false false s t) := by
  refine (congrArg Host.Outcome.next (onMirror_of_mirrorIn hin _)).trans ?_
  simp only [hr, hd, Bool.false_eq_true, if_false]

theorem exec_mirrorEnd_badDesc (hd : d.crcOk = false) :
    exec (.mirrorEnd p buffer d) s = .next (mirrorOut p false false s t) := by
  refine (congrArg Host.Outcome.next (onMirror_of_mirrorIn hin _)).trans ?_
  cases htarget : r.target <;> simp only [hr, hd, htarget]

end

end

/-- A MIRROR packet that reaches its operation came by an interface that is up. -/
theorem viaUp_of_mirrorIn {p : ChordHdr} {hosted reply : Bool} {early : State → Job → Bool} {s t : State} {rank : W16}
    (h : mirrorIn p hosted reply early s = some (rank, t)) : viaUp s p.via = true := by
  have hhost : ∀ r, mirrorIn.fromHost p s r = some (rank, t) → viaUp s p.via = true := fun r h => by
    unfold mirrorIn.fromHost at h
    split at h
    · next hup => exact (Bool.and_eq_true_iff.1 hup).1
    · cases h
  unfold mirrorIn at h
  split at h
  · split at h
    · next htake => exact viaUp_of_take htake
    · cases h
  · exact hhost _ h
  · exact hhost _ h
  · cases h

section
variable {p : ChordHdr} {rank : W16} {s t : State} {r : Region} {bs : List Byte} (hr : regionOf p.job rank t = some r)
  (hfits : oversized p.via (96 + bs.length) = false) (hin : mirrorIn p false false (dataEarly p) s = some (rank, t)) (buffer : Fin 2)
include hr hfits hin

/-- DATA within the target buffer is stored as received. -/
theorem exec_mirrorData_stores {b : Fin 2} (hb : r.target = some b) (hlen : p.offset.toNat + bs.length ≤ r.bufBytes) :
    exec (.mirrorData p buffer bs) s = .next (mirrorOut p false false s (regionWrite r (bufferOff r b + p.offset.toNat) bs t)) := by
  refine (congrArg Host.Outcome.next ((sized_of_fits (viaUp_of_mirrorIn hin) hfits).trans (onMirror_of_mirrorIn hin _))).trans ?_
  simp only [hr, hb, hlen, if_true]

/-- DATA without a target, or beyond it, is not stored. -/
theorem exec_mirrorData_outside (h : r.target = none ∨ r.bufBytes < p.offset.toNat + bs.length) :
    exec (.mirrorData p buffer bs) s = .next (mirrorOut p false false s t) := by
  refine (congrArg Host.Outcome.next ((sized_of_fits (viaUp_of_mirrorIn hin) hfits).trans (onMirror_of_mirrorIn hin _))).trans ?_
  cases htarget : r.target with
  | none => simp only [hr, htarget]
  | some b =>
    have hlong : ¬ p.offset.toNat + bs.length ≤ r.bufBytes := (h.resolve_left (by simp [htarget])).not_ge
    simp only [hr, htarget, hlong, if_false]

end

/-! ### A partner acknowledges (R416, R428) -/

/-- The job after a partner's DONE for the generation of its snapshot. -/
def ackSnapshot (rank : W16) (gen : W64) (x : Job) : Job :=
  match x.snap with
  | none => x
  | some y =>
    if y.gen ≠ gen then x
    else match y.waiting.find? fun w => w.1 == rank && w.2.2 with
      | none => x
      | some w => { x with
          snap := some { y with waiting := y.waiting.filter (· != w) },
          binding := x.binding.map fun b => { b with
            partners := updIf b.partners (fun q => q.rank == rank) fun q => { q with last := some w.2.1 } } }

theorem ackSnapshot_id (rank : W16) (gen : W64) (x : Job) : (ackSnapshot rank gen x).id = x.id := by
  unfold ackSnapshot
  split
  · rfl
  · split
    · rfl
    · split <;> rfl

/-- A partner that the snapshot waits for is waited for no more; the command in progress stays. -/
theorem ackSnapshot_awaited {rank : W16} {gen : W64} {x : Job} {y : Snapshot} {w : W16 × Fin 2 × Bool} (hy : x.snap = some y)
    (hg : y.gen = gen) (hw : y.waiting.find? (fun w => w.1 == rank && w.2.2) = some w) :
    (ackSnapshot rank gen x).snap = some { y with waiting := y.waiting.filter (· != w) } ∧
      (ackSnapshot rank gen x).pend = x.pend := by
  simp only [ackSnapshot, hy, hg, hw, ne_eq, not_true_eq_false, if_false, and_self]

/-- DONE acts on the job, and the snapshot settles. -/
theorem exec_mirrorDone {p : ChordHdr} {gen : W64} {rank : W16} {s t : State}
    (hin : mirrorIn p false false never s = some (rank, t)) : exec (.mirrorDone p gen) s =
      .next (mirrorOut p false false s (settleSnapshot p.job (modJob p.job (ackSnapshot rank gen) t))) :=
  congrArg Host.Outcome.next (onMirror_of_mirrorIn hin _)

/-- The job once its snapshot has ended. -/
theorem jobOf_snapEnded {job : W32} {j : Job} {s : State} (hj : jobOf job s = some j) :
    jobOf job (modJob job (fun x => { x with snap := none }) s) = some { j with snap := none } := by
  rw [jobOf_modJob, hj, Option.map_some]
  exact fun _ => rfl

section
variable {job : W32} {j : Job} {y : Snapshot} {s : State} (hj : jobOf job s = some j) (hy : j.snap = some y)
include hj hy

/-- A snapshot that waits for a partner goes on. -/
theorem settleSnapshot_waits (hw : y.waiting ≠ []) : settleSnapshot job s = s := by
  simp only [settleSnapshot, hj, hy, List.isEmpty_eq_false_iff.2 hw, Bool.not_false, if_true]

section
variable (hw : y.waiting = [])
include hw

/-- The initial snapshot ends, and `MIRROR_BIND` completes with the region's size. -/
theorem settleSnapshot_binds {h : Hdr} {gib : Nat} (hp : j.pend = some (.bindSnap h gib)) : settleSnapshot job s =
    complete h stOk (leBytes 4 gib) (clearPend job (modJob job (fun x => { x with snap := none }) s)) := by
  simp only [settleSnapshot, hj, hy, hw, hp, List.isEmpty_nil, Bool.not_true, Bool.false_eq_true, if_false]

/-- A snapshot that no command waits for ends. -/
theorem settleSnapshot_ends (hp : j.pend = none) : settleSnapshot job s = modJob job (fun x => { x with snap := none }) s := by
  simp only [settleSnapshot, hj, hy, hw, hp, List.isEmpty_nil, Bool.not_true, Bool.false_eq_true, if_false]
  simp only [afterSnapshot, jobOf_snapEnded hj, hp, ite_self]

end

end

/-! ### Persistence to flash (R430, R431) -/

/-- The flash copies, and the copies being persisted. -/
def copiesKept (s : State) : List FlashCopy × List (W32 × W16 × Nat × CopyDesc) := (s.flash.copies, s.flash.persisting)

theorem copiesKept_eraseBlock (k : Nat) (s : State) : copiesKept (eraseBlock k s) = copiesKept s := by
  unfold eraseBlock
  dsimp only
  split <;> rfl

theorem copiesKept_settleReadOnly (s : State) : copiesKept (settleReadOnly s) = copiesKept s := by
  unfold settleReadOnly
  split <;> rfl

theorem copiesKept_commitFlash (map : List FtlEnt) (freed : List Nat) (s : State) :
    copiesKept (commitFlash map freed s) = copiesKept s :=
  (copiesKept_settleReadOnly _).trans ((get_foldl_of_step (fun t k => copiesKept_eraseBlock k t) _ _).trans rfl)

theorem copiesKept_programExtent (p : State × List FtlEnt) (o : FtlOwner) (ext : Nat) :
    copiesKept (programExtent p o ext).1 = copiesKept p.1 := by
  unfold programExtent
  split <;> rfl

/-- What the FTL writes changes the map and the blocks only. -/
theorem copiesKept_ftlWrite (o : FtlOwner) (exts : List Nat) (s : State) : copiesKept (ftlWrite o exts s) = copiesKept s :=
  (copiesKept_commitFlash ..).trans (List.foldlRecOn (motive := fun q : State × List FtlEnt => copiesKept q.1 = copiesKept s)
    exts _ rfl fun q hq e _ => (copiesKept_programExtent q o e).trans hq)

theorem ite_of_eq_not {α : Type} {a b : Bool} (h : a = !b) (x y : α) : (if a then x else y) = if b then y else x := by
  subst h
  cases b <;> rfl

/-- The copies still being persisted once this one is switched to. -/
def othersPersist (job : W32) (rank : W16) (s : State) : State :=
  { s with flash.persisting := s.flash.persisting.filter fun x => !(x.1 == job && x.2.1 == rank) }

/-- A flash copy in the place of the earlier one of its job and source rank. -/
def copyReplaced (c : FlashCopy) (s : State) : State :=
  ftlWrite (.copy c.job c.rank) (List.range (extCount c.size)) (flashWrote c.size
    { s with flash.copies := (s.flash.copies.filter fun x => !(x.job == c.job && x.rank == c.rank)) ++ [c] })

theorem copiesKept_copyReplaced (c : FlashCopy) (s : State) : copiesKept (copyReplaced c s) =
    ((s.flash.copies.filter fun x => !(x.job == c.job && x.rank == c.rank)) ++ [c], s.flash.persisting) :=
  (copiesKept_ftlWrite _ _ (flashWrote _ _)).trans rfl

theorem flash_of_copiesKept {s : State} {cs : List FlashCopy} {ps : List (W32 × W16 × Nat × CopyDesc)}
    (h : copiesKept s = (cs, ps)) : s.flash.copies = cs ∧ s.flash.persisting = ps := Prod.ext_iff.1 h

theorem flashCopyOf_copyReplaced (c : FlashCopy) (s : State) : flashCopyOf c.job c.rank (copyReplaced c s) = some c := by
  rw [flashCopyOf, (flash_of_copiesKept (copiesKept_copyReplaced c s)).1, List.find?_append, find?_filter_not]
  simp only [Option.none_or, List.find?_singleton, beq_self_eq_true, Bool.and_self, if_true]

section
variable {job : W32} {rank : W16} {s : State} {r : Region} (hr : regionOf job rank s = some r)
include hr

/-- The newest complete copy begins to be persisted, unless it is the flash copy already or flash cannot take it. -/
theorem exec_flashCopyPersist {v : State} {b : Fin 2} {d : CopyDesc} (hnew : newestCopy rqMove r s = (v, some (b, d))) :
    exec (.flashCopyPersist job rank) s = .next
      (if v.flash.present && !v.flash.readOnly && !(s.flash.persisting.any fun x => x.1 == job && x.2.1 == rank) &&
          !((flashCopyOf job rank v).any fun c => c.desc == d) && flashRoom v (r.dirBytes + r.bufBytes)
        then { v with flash.persisting := v.flash.persisting ++ [(job, rank, b.val, d)] } else v) := by
  show execFlashCopyPersist job rank s = _
  obtain ⟨newest, hn⟩ : ∃ f, f = newestCopy := ⟨_, rfl⟩
  obtain ⟨room, hroom⟩ : ∃ f, f = flashRoom := ⟨_, rfl⟩
  unfold execFlashCopyPersist
  rw [← hn] at hnew ⊢
  rw [← hroom]
  simp only [hr, hnew]
  refine congrArg Host.Outcome.next (ite_of_eq_not ?_ _ _)
  cases flashCopyOf job rank v <;> simp only [Bool.not_and, Bool.not_not, Option.any_none, Option.any_some]

section
variable {x : W32 × W16 × Nat × CopyDesc} (hx : s.flash.persisting.find? (fun x => x.1 == job && x.2.1 == rank) = some x)
include hx

/-- A copy whose header cannot be read leaves the earlier one. -/
theorem exec_flashCopySwitch_noHead {v : State} (hhead : regionRead rqMove r 0 r.dirBytes (othersPersist job rank s) = (v, none)) :
    exec (.flashCopySwitch job rank) s = .next v := by
  rw [othersPersist] at hhead
  simp only [exec, execFlashCopySwitch, hx, hr, hhead]

section
variable {v w : State} {hd : List Host.Cell}
  (hhead : regionRead rqMove r 0 r.dirBytes (othersPersist job rank s) = (v, some hd))
include hhead

/-- So does one whose buffer cannot be read. -/
theorem exec_flashCopySwitch_noBuffer (hbuf : regionRead rqMove r (bufferOff r (finOf x.2.2.1)) r.bufBytes v = (w, none)) :
    exec (.flashCopySwitch job rank) s = .next w := by
  rw [othersPersist] at hhead
  simp only [exec, execFlashCopySwitch, hx, hr, hhead, hbuf]

/-- A copy that is read takes the place of the earlier one. -/
theorem exec_flashCopySwitch_replaces {b : List Host.Cell}
    (hbuf : regionRead rqMove r (bufferOff r (finOf x.2.2.1)) r.bufBytes v = (w, some b)) :
    exec (.flashCopySwitch job rank) s = .next (copyReplaced
      ⟨job, rank, x.2.2.2, r.dirBytes + r.bufBytes, scopy hd r.dirBytes b 0 r.bufBytes⟩ w) := by
  rw [othersPersist] at hhead
  simp only [exec, execFlashCopySwitch, hx, hr, hhead, hbuf, copyReplaced]

end

end

end

/-- Settles O30: the snapshot begins by its job's waiting generations, its packets act on the partner's target buffer, DONE ends
the partner's part, and the two flash steps go by what can be read. -/
theorem snapshotsReachThePartners : Obligations.SnapshotsReachThePartners := by
  unfold Obligations.SnapshotsReachThePartners
  intro job p s t rank out
  refine ⟨fun j hj => ⟨fun hidle => congrArg _ (beginSnapshot_idle hj hidle), fun g rest b lay v areas hnext hbind hlay hsnap hread =>
      ⟨?unreadable, ?sends⟩⟩,
    fun buffer d r hr => ⟨fun hin => ⟨fun u b hd hb => exec_mirrorBegin_opens hr hin buffer hd hb,
        fun b hd hb => exec_mirrorEnd_closes hr hin buffer hd hb,
        fun hd => ⟨exec_mirrorBegin_badDesc hr hin buffer hd, exec_mirrorEnd_badDesc hr hin buffer hd⟩⟩,
      fun bs hfits hin => ⟨fun b hb hlen => exec_mirrorData_stores hr hfits hin buffer hb hlen,
        exec_mirrorData_outside hr hfits hin buffer⟩⟩,
    fun gen j y w hin hj hy hg hw => ?done,
    fun r hr => ⟨fun v b d hnew => exec_flashCopyPersist hr hnew, fun x v head hx hhead => ⟨?noHead, fun hd w body hsome hbuf =>
      ⟨?noBuffer, ?replaces⟩⟩⟩⟩
  case unreadable =>
    rintro rfl
    exact congrArg _ (beginSnapshot_unreadable hj hnext hbind hlay hsnap hread)
  case sends =>
    rintro as rfl
    exact congrArg _ (beginSnapshot_sends hj hnext hbind hlay hsnap hread)
  case done =>
    have hjob : jobOf p.job (modJob p.job (ackSnapshot rank gen) t) = some (ackSnapshot rank gen j) := by
      rw [jobOf_modJob (ackSnapshot_id rank gen), hj, Option.map_some]
    obtain ⟨hsnap, hpend⟩ := ackSnapshot_awaited hy hg hw
    refine ⟨_, exec_mirrorDone hin, fun hleft => ?_, fun h gib hleft hp => ?_, fun hleft hp => ?_⟩
    · rw [settleSnapshot_waits hjob hsnap hleft, hjob, Option.map_some, hsnap, hpend]
    · rw [settleSnapshot_binds hjob hsnap hleft (hpend.trans hp)]
      refine ⟨⟨_, rfl⟩, ?_⟩
      rw [jobOf_congr p.job (complete_jobs ..), jobOf_clearPend, jobOf_snapEnded hjob]
      rfl
    · rw [settleSnapshot_ends hjob hsnap hleft (hpend.trans hp), jobOf_snapEnded hjob, Option.map_some, hpend, hp]
  case noHead =>
    rintro rfl
    exact exec_flashCopySwitch_noHead hr hx hhead
  case noBuffer =>
    rintro rfl
    subst hsome
    exact exec_flashCopySwitch_noBuffer hr hx hhead hbuf
  case replaces =>
    rintro b rfl
    subst hsome
    exact ⟨_, exec_flashCopySwitch_replaces hr hx hhead hbuf, flashCopyOf_copyReplaced ⟨job, rank, _, _, _⟩ w,
      (flash_of_copiesKept (copiesKept_copyReplaced ..)).2⟩

end Sys2Proof.Machine
end

section
/-! Serving copies, and the restore that fetches them (O31). -/

namespace Sys2Proof.Machine

/-! ### Serving copies (R426, R432) -/

/-- END of a fetch, with its status, buffer and descriptor. -/
def fetchEnded (p : ChordHdr) (st b : Nat) (d : CopyDesc) (s : State) : State :=
  mirrorReply p mopFetchEnd b 0 (beBytes 2 st ++ zeros 6 ++ descBytes d) s

/-- END without a copy: E_NO_COPY. -/
def fetchRefused (p : ChordHdr) (s : State) : State := fetchEnded p 0x0501 0 ⟨0, 0, 0, false, true⟩ s

/-- A copy is served: its END, then its pieces in chunks. -/
def fetchServed (p : ChordHdr) (b : Nat) (c : CopyDesc × List (Nat × List Byte)) (s : State) : State :=
  c.2.foldl (fun t x => (chunks (payloadMax (viaMgmt p.via)) x.2).foldl
    (fun t y => mirrorReply p mopFetchData b (x.1 + y.1) y.2.1 t) t) (fetchEnded p 0 b c.1 s)

/-- The copy that a region holds is served, or refused where there is none or it cannot be read. -/
def regionServed (p : ChordHdr) (r : Region) (best : Option (Fin 2 × CopyDesc)) (s : State) : State :=
  match best with
  | none => fetchRefused p s
  | some x =>
    match readRegionCopy r x.1 x.2 s with
    | (t, none) => fetchRefused p t
    | (t, some c) => fetchServed p x.1.val c t

theorem stOk_toNat : stOk.toNat = 0 := rfl

theorem stNoCopy_toNat : stNoCopy.toNat = 0x0501 := rfl

section
variable {p : ChordHdr} {gen : W64} {rank : W16} {s t : State} (hin : mirrorIn p true false never s = some (rank, t))
include hin

section
variable (hv : viaMgmt p.via = false)
include hv

theorem exec_mirrorFetchReq_noRegion (hr : regionOf p.job rank t = none) :
    exec (.mirrorFetchReq p gen) s = .next (mirrorOut p true false s (fetchRefused p t)) := by
  refine (congrArg Host.Outcome.next (onMirror_of_mirrorIn hin _)).trans ?_
  simp only [hv, hr, Bool.false_eq_true, if_false, stNoCopy_toNat, fetchRefused, fetchEnded]

theorem exec_mirrorFetchReq_region {r : Region} {v : State} {cs : List (Fin 2 × CopyDesc)} (hr : regionOf p.job rank t = some r)
    (hcs : copiesOf rqChord r t = (v, cs)) : exec (.mirrorFetchReq p gen) s = .next (mirrorOut p true false s
      (regionServed p r (newestOf (cs.filter fun x => gen == 0 || x.2.generation == gen)) v)) := by
  refine (congrArg Host.Outcome.next (onMirror_of_mirrorIn hin _)).trans ?_
  obtain ⟨copies, hcop⟩ : ∃ f, f = copiesOf := ⟨_, rfl⟩
  rw [← hcop] at hcs ⊢
  simp only [hv, hr, hcs, Bool.false_eq_true, if_false]
  cases newestOf (cs.filter fun x => gen == 0 || x.2.generation == gen) with
  | none => simp only [regionServed, fetchRefused, fetchEnded, stNoCopy_toNat]
  | some x =>
    rcases hread : readRegionCopy r x.1 x.2 v with ⟨w, _ | y⟩
    · simp only [hread, regionServed, fetchRefused, fetchEnded, stNoCopy_toNat]
    · simp only [hread, hv, regionServed, fetchServed, fetchEnded, stOk_toNat]

end

section
variable (hv : viaMgmt p.via = true)
include hv

theorem exec_mirrorFetchReq_noFlash (hc : flashCopyOf p.job rank t = none) :
    exec (.mirrorFetchReq p gen) s = .next (mirrorOut p true false s (fetchRefused p t)) := by
  refine (congrArg Host.Outcome.next (onMirror_of_mirrorIn hin _)).trans ?_
  obtain ⟨copies, hcop⟩ : ∃ f, f = copiesOf := ⟨_, rfl⟩
  rw [← hcop]
  simp only [hv, hc, if_true, stNoCopy_toNat, fetchRefused, fetchEnded]

theorem exec_mirrorFetchReq_flash {c : FlashCopy} (hc : flashCopyOf p.job rank t = some c) :
    exec (.mirrorFetchReq p gen) s = .next (mirrorOut p true false s
      (if (gen == 0 || c.desc.generation == gen) && t.flash.present
       then fetchServed p 0 (readFlashCopy c) (ftlRead (.copy c.job c.rank) t) else fetchRefused p t)) := by
  refine (congrArg Host.Outcome.next (onMirror_of_mirrorIn hin _)).trans ?_
  obtain ⟨copies, hcop⟩ : ∃ f, f = copiesOf := ⟨_, rfl⟩
  rw [← hcop]
  simp only [hv, hc, if_true, ← Bool.and_eq_true, stOk_toNat, stNoCopy_toNat, fetchRefused, fetchServed, fetchEnded]

end

/-! ### What is held, told (R425, R435) -/

/-- The generation of the flash copy, where the flash is there. -/
def flashGen (p : ChordHdr) (rank : W16) (s : State) : W64 :=
  match flashCopyOf p.job rank s with
  | some c => if s.flash.present then c.desc.generation else noGen
  | none => noGen

/-- The answer to QUERY: the generations in the region and in flash. -/
def queryAnswered (p : ChordHdr) (rank : W16) (region : W64) (s : State) : State :=
  mirrorReply p mopQueryReply 0 0 (beBytes 8 region.toNat ++ beBytes 8 (flashGen p rank s).toNat) s

theorem exec_mirrorQueryOp_noRegion (hr : regionOf p.job rank t = none) :
    exec (.mirrorQueryOp p) s = .next (mirrorOut p true false s (queryAnswered p rank noGen t)) := by
  refine (congrArg Host.Outcome.next (onMirror_of_mirrorIn hin _)).trans ?_
  simp only [hr]
  rfl

theorem exec_mirrorQueryOp_region {r : Region} {v : State} {best : Option (Fin 2 × CopyDesc)} (hr : regionOf p.job rank t = some r)
    (hbest : newestCopy rqChord r t = (v, best)) : exec (.mirrorQueryOp p) s =
      .next (mirrorOut p true false s (queryAnswered p rank ((best.map (·.2.generation)).getD noGen) v)) := by
  refine (congrArg Host.Outcome.next (onMirror_of_mirrorIn hin _)).trans ?_
  obtain ⟨newest, hnew⟩ : ∃ f, f = newestCopy := ⟨_, rfl⟩
  rw [← hnew] at hbest ⊢
  simp only [hr, hbest]
  cases best <;> rfl

end

/-! ### The data of a fetch (R433, R434) -/

section
variable {p : ChordHdr} {rank : W16} {s t : State} {j : Job} {h : Hdr} {ex : Bool} {g : W64} {flash : Bool} {peer : W16}
  {left : List (W16 × Bool × W64)} {d : Option CopyDesc} {got : List Host.Cell} {n moved : Nat} {before : W64}
  (hin : mirrorIn p false false never s = some (rank, t)) (hj : jobOf p.job t = some j)
  (hp : j.pend = some (.restoreFetch h ex g peer flash left d got n moved before))
include hin hj hp

section
variable {bs : List Byte} (hfits : oversized p.via (96 + bs.length) = false)
include hfits

/-- Data of the source in use is collected; the first opens the slots. -/
theorem exec_mirrorFetchData_collects (hpeer : peer = rank) (hflash : flash = viaMgmt p.via) : exec (.mirrorFetchData p bs) s =
    .next (mirrorOut p false false s (decodeRestore p.job (modJob p.job (fun x => { x with
      pend := some (.restoreFetch h ex g peer flash left d (mwrite got p.offset.toNat bs) (n + bs.length) moved before) })
      (if n = 0 ∧ d.isNone = true then openSlots p.job g before t else t)))) := by
  refine (congrArg Host.Outcome.next ((sized_of_fits (viaUp_of_mirrorIn hin) hfits).trans (onMirror_of_mirrorIn hin _))).trans ?_
  simp only [hj, hp, hpeer, hflash, Option.bind_some, ne_eq, not_true_eq_false, or_self, if_false]

/-- Data of another is not. -/
theorem exec_mirrorFetchData_other (h : ¬(peer = rank ∧ flash = viaMgmt p.via)) :
    exec (.mirrorFetchData p bs) s = .next (mirrorOut p false false s t) := by
  refine (congrArg Host.Outcome.next ((sized_of_fits (viaUp_of_mirrorIn hin) hfits).trans (onMirror_of_mirrorIn hin _))).trans ?_
  simp only [hj, hp, Option.bind_some, not_and_or.1 h, if_true, ne_eq]

end

section
variable {st : W16} {e : CopyDesc}

theorem exec_mirrorFetchEnd_other (h : ¬(peer = rank ∧ flash = viaMgmt p.via)) :
    exec (.mirrorFetchEnd p st e) s = .next (mirrorOut p false false s t) := by
  refine (congrArg Host.Outcome.next (onMirror_of_mirrorIn hin _)).trans ?_
  simp only [hj, hp, Option.bind_some, not_and_or.1 h, if_true, ne_eq]

section
variable (hpeer : peer = rank) (hflash : flash = viaMgmt p.via)
include hpeer hflash

/-- END with the copy that was asked for lets the restore decode what it has. -/
theorem exec_mirrorFetchEnd_copy (hst : st = 0) (hd : descComplete e = true) (hg : e.generation = g) :
    exec (.mirrorFetchEnd p st e) s = .next (mirrorOut p false false s (decodeRestore p.job (modJob p.job (fun x => { x with
      pend := some (.restoreFetch h ex g peer flash left (some e) got n moved before) })
      (if n = 0 then openSlots p.job g before t else t)))) := by
  refine (congrArg Host.Outcome.next (onMirror_of_mirrorIn hin _)).trans ?_
  have hok : (0 : W16) = stOk := rfl
  simp only [hj, hp, hpeer, hflash, hst, hd, hg, hok, Option.bind_some, ne_eq, not_true_eq_false, or_self, if_false, Bool.not_true,
    Bool.false_eq_true]

/-- Another END leads to the next source. -/
theorem exec_mirrorFetchEnd_fails (hbad : ¬(st = 0 ∧ descComplete e = true ∧ e.generation = g)) :
    exec (.mirrorFetchEnd p st e) s = .next (mirrorOut p false false s (failSource p.job t)) := by
  refine (congrArg Host.Outcome.next (onMirror_of_mirrorIn hin _)).trans ?_
  have hfail : st ≠ stOk ∨ (!descComplete e) = true ∨ e.generation ≠ g := by
    rw [Bool.not_eq_true', ← Bool.not_eq_true, ← not_and_or, ← not_and_or]
    exact hbad
  simp only [hj, hp, hpeer, hflash, Option.bind_some, ne_eq, not_true_eq_false, or_self, if_false]
  exact congrArg _ (congrArg _ (if_pos hfail))

end

end

end

/-! ### Reads of the slots keep the jobs (R303, R340) -/

@[simp] theorem workOf_readPart (req : Byte) (rule : Nat) (sh : ShardEnt) (b o n : Nat) (s : State) :
    workOf (readPart req rule sh b o n s).1 = workOf s := by
  unfold readPart
  split
  · rfl
  · extract_lets rd f p₁ p₂ p₃
    have hrd : ∀ loc k p, workOf (rd loc k p).1 = workOf p.1 := by
      intro loc k p
      simp only [rd]
      split
      · rfl
      · split
        · rfl
        · split
          · rfl
          · split <;> next h => exact (workOf_fst_of_eq h).trans (workOf_readLoc ..)
    clear_value rd
    dsimp only
    split <;> next h => simp only [workOf_fst_of_eq h, hrd, p₁, p₂, p₃]

@[simp] theorem workOf_slotVerifies (req : Byte) (rule : Nat) (sh : ShardEnt) (b : Nat) (s : State) :
    workOf (slotVerifies req rule sh b s).1 = workOf s := by
  have hdigest : ∀ t, workOf (slotDigest req rule sh b t).1 = workOf t := fun t => by
    unfold slotDigest
    split <;> next h => exact (workOf_fst_of_eq h).trans (workOf_readPart ..)
  unfold slotVerifies
  split
  · next h =>
    have hrec := (workOf_fst_of_eq h).trans (workOf_readRec ..)
    split <;> next k => exact ((workOf_fst_of_eq k).trans (hdigest _)).trans hrec
  · next h => exact (workOf_fst_of_eq h).trans (workOf_readRec ..)

@[simp] theorem workOf_localHolds (j : Job) (before g : W64) (sh : ShardEnt) (s : State) :
    workOf (localHolds j before g sh s).1 = workOf s := by
  unfold localHolds
  dsimp only
  split
  · rfl
  · split
    next h => exact (workOf_fst_of_eq h).trans (workOf_readRec ..)
    next h => exact (workOf_fst_of_eq h).trans (workOf_readRec ..)
    next h =>
      have hrec := (workOf_fst_of_eq h).trans (workOf_readRec ..)
      split
      · exact (workOf_slotVerifies ..).trans hrec
      · exact hrec

@[simp] theorem workOf_missingShards (j : Job) (before g : W64) (s : State) :
    workOf (missingShards j before g s).1 = workOf s := by
  refine workOf_foldl_fst fun p sh => ?_
  split <;> next h => exact (workOf_fst_of_eq h).trans (workOf_localHolds ..)

@[simp] theorem workOf_localGens (j : Job) (before : W64) (s : State) : workOf (localGens j before s).1 = workOf s := by
  unfold localGens
  split
  · rfl
  · refine workOf_foldl_fst fun p g => ?_
    split <;> next h => exact (workOf_fst_of_eq h).trans (workOf_missingShards ..)

/-! ### Queries (R435) -/

/-- A query ends with what it holds, and the job has none then; a preserved job's own generation is its committed one. -/
theorem endQuery_completes {job : W32} {j : Job} {q : QueryRun} {s : State} (hj : jobOf job s = some j) (hq : j.query = some q) :
    ∃ own src u, endQuery job s = complete q.h stOk (leBytes 8 own.toNat ++ leBytes 8 q.best.toNat ++ leBytes 1 src) u ∧
      jobOf job u = some { j with query := none } ∧ (j.phase = .preserved → own = genOf j) := by
  rcases hread : (if j.phase = .preserved then (s, true) else allCommitted rqVarlux j (jobShards j) s) with ⟨u, all⟩
  rcases hgens : (if j.phase = .preserved then (u, [if all = true then genOf j else noGen]) else localGens j (genOf j) u)
    with ⟨v, gl⟩
  have hu : workOf u = workOf s := by
    split at hread
    · cases hread; rfl
    · exact (workOf_fst_of_eq hread).trans (workOf_allCommitted ..)
  have hv : workOf v = workOf u := by
    split at hgens
    · cases hgens; rfl
    · exact (workOf_fst_of_eq hgens).trans (workOf_localGens ..)
  have hend : ∃ src, endQuery job s = complete q.h stOk (leBytes 8 (if all = true then genOf j else noGen).toNat ++
      leBytes 8 q.best.toNat ++ leBytes 1 src) (modJob job (fun x => { x with query := none }) v) := by
    simp only [endQuery, hj, hq, hread, hgens]
    exact ⟨_, rfl⟩
  obtain ⟨src, hend⟩ := hend
  refine ⟨_, src, _, hend, ?_, fun hp => ?_⟩
  · rw [jobOf_modJob, jobOf_of_workOf job (hv.trans hu), hj, Option.map_some]
    exact fun _ => rfl
  · rw [if_pos hp] at hread
    cases hread
    exact if_pos rfl

/-- Two offers change neither who has asked nor who is waited for. -/
theorem betterOffer_keeps (q : QueryRun) (g : W64) (src : Nat) :
    (betterOffer q g src).h = q.h ∧ (betterOffer q g src).waiting = q.waiting := by
  unfold betterOffer
  split
  · exact ⟨rfl, rfl⟩
  · split <;> exact ⟨rfl, rfl⟩

/-- A job that asks no partner for a restore takes an answer for its query only. -/
theorem dropAsk_idle {job : W32} {j : Job} {s : State} (hj : jobOf job s = some j) (hp : j.pend = none) (who : W16 × Bool)
    (new : List (W16 × Bool × W64)) : dropAsk job who new s = s := by
  simp only [dropAsk, hj, hp, Option.bind_some]

/-- A partner that is waited for no more: the query ends with the last. -/
theorem dropQuery_waits {job : W32} {j : Job} {q : QueryRun} {s : State} (hj : jobOf job s = some j) (hq : j.query = some q)
    (who : W16 × Bool) : let left := q.waiting.filter (· != who)
    ∃ t, dropQuery job who s = (if left = [] then endQuery job t else t) ∧
      jobOf job t = some { j with query := some { q with waiting := left } } := by
  have hjob : jobOf job (modJob job (fun x => { x with query := x.query.map fun q =>
      { q with waiting := q.waiting.filter (· != who) } }) s) =
      some { j with query := some { q with waiting := q.waiting.filter (· != who) } } := by
    rw [jobOf_modJob, hj, Option.map_some, hq, Option.map_some]
    exact fun _ => rfl
  refine ⟨_, ?_, hjob⟩
  simp only [dropQuery, hjob, Option.bind_some, List.isEmpty_iff]

/-- What a query keeps of an answer of `who`. -/
def hearOffer (who : W16 × Bool) (region flash : W64) (q : QueryRun) : QueryRun :=
  if q.waiting.contains who then betterOffer (betterOffer q region 1) flash 2 else q

/-- The better of the offers is kept of a partner that is waited for, and the others are waited for still. -/
theorem hearOffer_awaited {who : W16 × Bool} {q : QueryRun} {w : List (W16 × Bool)} (hw : q.waiting = who :: w) (hnot : who ∉ w)
    (region flash : W64) : hearOffer who region flash q = betterOffer (betterOffer q region 1) flash 2 ∧
      (hearOffer who region flash q).waiting.filter (· != who) = w := by
  have hheard : hearOffer who region flash q = betterOffer (betterOffer q region 1) flash 2 := if_pos (by simp [hw])
  refine ⟨hheard, ?_⟩
  rw [hheard, (betterOffer_keeps ..).2, (betterOffer_keeps ..).2, hw, List.filter_cons_of_neg (by simp), List.filter_eq_self]
  exact fun a ha => bne_iff_ne.2 fun h => hnot (h ▸ ha)

/-- The answer of a partner that a query waits for is kept where it is better, and the partner is waited for no more; the last
answer ends the query. -/
theorem exec_mirrorQueryReply {p : ChordHdr} {rank : W16} {s t : State} {j : Job} {q : QueryRun} {w : List (W16 × Bool)}
    (region flash : W64) (hin : mirrorIn p false true never s = some (rank, t)) (hj : jobOf p.job t = some j) (hp : j.pend = none)
    (hq : j.query = some q) (hw : q.waiting = (rank, viaMgmt p.via) :: w) (hnot : (rank, viaMgmt p.via) ∉ w) :
    ∃ u, exec (.mirrorQueryReply p region flash) s = .next (mirrorOut p false true s (if w = [] then endQuery p.job u else u)) ∧
      jobOf p.job u = some { j with query := some { betterOffer (betterOffer q region 1) flash 2 with waiting := w } } := by
  obtain ⟨hbest, hleft⟩ := hearOffer_awaited hw hnot region flash
  have hheard : jobOf p.job (modJob p.job (fun x => { x with
      query := x.query.map (hearOffer (rank, viaMgmt p.via) region flash) }) t) =
      some { j with query := some (hearOffer (rank, viaMgmt p.via) region flash q) } := by
    rw [jobOf_modJob, hj, Option.map_some, hq, Option.map_some]
    exact fun _ => rfl
  obtain ⟨u, hdrop, hu⟩ := dropQuery_waits hheard rfl (rank, viaMgmt p.via)
  rw [hleft] at hdrop hu
  rw [hbest] at hu
  have hidle : ∃ k, jobOf p.job (if w = [] then endQuery p.job u else u) = some k ∧ k.pend = none := by
    split
    · obtain ⟨own, src, v, hend, hv, -⟩ := endQuery_completes hu rfl
      exact ⟨_, (congrArg (jobOf p.job) hend).trans ((jobOf_congr p.job (complete_jobs ..)).trans hv), hp⟩
    · exact ⟨_, hu, hp⟩
  obtain ⟨k, hk, hkp⟩ := hidle
  refine ⟨u, (congrArg Host.Outcome.next (onMirror_of_mirrorIn hin _)).trans ?_, hu⟩
  rw [← dropAsk_idle hk hkp (rank, viaMgmt p.via), ← hdrop]
  rfl

/-! ### The commands (R123, R432, R435) -/

section
variable {job : W32} {j : Job} {lay : Layout} {addr : Ip6} {h : Hdr} {s : State} (hj : jobOf job s = some j)
  (ho : j.phase = .opened) (he : s.health.expelled = false) (hb : jobBusy j = false) (hl : j.layout = some lay)
  (ha : armed j = false) (hrun : evalRunning job s = false) (haddr : addr = 0 ∨ ∃ r, rankOfAddr lay addr = some r ∧ r ≠ lay.rank)
include hj ho he hb hl ha hrun haddr

/-- Past its checks, `RESTORE` waits for a snapshot, or starts. -/
theorem restoreBody_checked (gen : W64) : restoreBody h job addr gen s =
    if j.snap.isSome = true ∨ (!j.snapNext.isEmpty) = true then
      modJob job (fun x => { x with pend := some (.restoreWait h addr gen) }) s
    else startRestore job h addr gen s := by
  have hother : ¬(addr ≠ 0 ∧ (match rankOfAddr lay addr with
      | some r => r == lay.rank
      | none => true : Bool) = true) := by
    rcases haddr with haddr | ⟨r, hr, hne⟩
    · exact fun h => h.1 haddr
    · simp [hr, hne]
  simp only [restoreBody, hj, ho, hb, hl, ha, hrun, expelled, he, ne_eq, not_true_eq_false, Bool.false_eq_true, or_self, if_false]
  exact if_neg hother

end

/-- A named generation that the member's own slots hold whole, and that is committed intact, is there already (R432). -/
theorem startRestore_held {job : W32} {j k : Job} {h : Hdr} {addr : Ip6} {gen : W64} {s v w : State} (hj : jobOf job s = some j)
    (hgen : gen ≠ 0) (hk : k = { j with pend := none }) (hmiss : missingShards k (genOf j) gen (clearPend job s) = (v, []))
    (hv : jobOf job v = some k) (hvalid : j.commit.valid = true) (hcommit : j.commit.gen = gen)
    (hall : allCommitted rqFold k (jobShards k) v = (w, true)) :
    startRestore job h addr gen s = complete h stOk (leBytes 8 gen.toNat ++ leBytes 8 0) (clearPend job w) := by
  have hclear : jobOf job (clearPend job s) = some k := by rw [jobOf_clearPend, hj, hk, Option.map_some]
  have hkv : k.commit.valid = true := hk ▸ hvalid
  have hkg : k.commit.gen = gen := hk ▸ hcommit
  have hlocal : restoreLocal job h gen 0 (genOf j) v =
      complete h stOk (leBytes 8 gen.toNat ++ leBytes 8 0) (clearPend job w) := by
    simp only [restoreLocal, hv, hkv, hkg, hall, and_self, if_true]
  simp only [startRestore, hj, hgen, if_false, nextSource, hclear, if_true, hmiss]
  exact hlocal

/-- A query of a job, which waits for the partners asked. -/
def queryBegun (job : W32) (h : Hdr) (w : List (W16 × Bool)) (s : State) : State :=
  modJob job (fun x => { x with query := some ⟨h, w, noGen, 3⟩ }) s

theorem jobOf_queryBegun {job : W32} {j : Job} {s : State} (hj : jobOf job s = some j) (h : Hdr) (w : List (W16 × Bool)) :
    jobOf job (queryBegun job h w s) = some { j with query := some ⟨h, w, noGen, 3⟩ } := by
  rw [queryBegun, jobOf_modJob, hj, Option.map_some]
  exact fun _ => rfl

/-- `MIRROR_QUERY` asks the partners it reaches, and ends where it reaches none. -/
theorem mirrorQueryBody_asks {job : W32} {j : Job} {h : Hdr} {s v : State} {w : List (W16 × Bool)} (hj : jobOf job s = some j)
    (hq : j.query = none) (hsent : sendQueries job
      (if j.phase = .preserved then [] else (j.binding.map fun b => b.partners.map (·.rank)).getD []) s = (v, w)) :
    mirrorQueryBody h job s = if w = [] then endQuery job (queryBegun job h w v) else queryBegun job h w v := by
  have asked {ps : List W16}
      (hps : (if j.phase = .preserved then [] else (j.binding.map fun b => b.partners.map (·.rank)).getD []) = ps) :
      sendQueries job ps s = (v, w) := hps ▸ hsent
  simp only [mirrorQueryBody, hj, hq, Option.isSome_none, Bool.false_eq_true, if_false, ← List.isEmpty_iff]
  split
  next hp => simp only [asked (if_pos hp), queryBegun]
  next b hb hp =>
    simp only [asked (ps := b.partners.map (·.rank)) (by rw [if_neg hp, hb, Option.map_some, Option.getD_some]), queryBegun]
  next hb hp => simp only [asked (ps := []) (by rw [if_neg hp, hb, Option.map_none, Option.getD_none]), queryBegun]

/-- Settles O31: requests and queries of a copy by what the module holds, fetched data by the source in use, and the commands
past their checks by their own bodies. -/
theorem copiesAreFetchedBack : Obligations.CopiesAreFetchedBack := by
  unfold Obligations.CopiesAreFetchedBack
  intro h job p s t rank out
  refine ⟨fun hin gen => ⟨fun hv => ⟨fun r v cs hr hcs => ?region, exec_mirrorFetchReq_noRegion hin hv⟩,
      fun hv => ⟨fun c hc => (exec_mirrorFetchReq_flash hin hv hc).trans (apply_ite (out true false) ..),
        exec_mirrorFetchReq_noFlash hin hv⟩,
      exec_mirrorQueryOp_noRegion hin, fun r v best hr hbest => exec_mirrorQueryOp_region hin hr hbest⟩,
    fun hin j ex g flash peer left d got n moved before hj hp =>
      ⟨fun bs hfits => ⟨fun hmine => exec_mirrorFetchData_collects hin hj hp hfits hmine.1 hmine.2,
        exec_mirrorFetchData_other hin hj hp hfits⟩,
      fun st e => ⟨fun hmine hgood => exec_mirrorFetchEnd_copy hin hj hp hmine.1 hmine.2 hgood.1 hgood.2.1 hgood.2.2,
        fun hmine hbad => exec_mirrorFetchEnd_fails hin hj hp hmine.1 hmine.2 hbad, exec_mirrorFetchEnd_other hin hj hp⟩⟩,
    fun hin region flash j q w hj hp hq hw hnot => ?reply,
    fun addr gen j lay hacc hj ho he hb hl ha hrun haddr => ?restore,
    fun j hacc hj hq => ?query⟩
  case region =>
    have hserved := exec_mirrorFetchReq_region (gen := gen) hin hv hr hcs
    refine ⟨fun hbest => ?_, fun x w c hbest hread => ⟨?_, ?_⟩⟩
    · rwa [hbest] at hserved
    · rintro rfl
      rwa [hbest, regionServed, hread] at hserved
    · rintro y rfl
      rwa [hbest, regionServed, hread] at hserved
  case reply =>
    obtain ⟨u, hexec, hu⟩ := exec_mirrorQueryReply region flash hin hj hp hq hw hnot
    refine ⟨_, hexec, fun hleft => ?_, fun hleft => ?_⟩
    · rw [if_neg hleft, hu]
      rfl
    · obtain ⟨own, src, v, hend, -, -⟩ := endQuery_completes hu rfl
      refine ⟨own.toNat, src, v, ?_⟩
      rw [if_pos hleft, hend, (betterOffer_keeps ..).1, (betterOffer_keeps ..).1]
      rfl
  case restore =>
    have hstart : jobOf job (startCmd h s) = some j := (jobOf_startCmd ..).trans hj
    have hbody := (exec_accepted (c := .restore h job addr gen) rfl hacc).trans (congrArg _
      (restoreBody_checked hstart ho (by rw [startCmd_health, he]) hb hl ha ((evalRunning_startCmd ..).trans hrun) haddr gen))
    have hsnap : (j.snap.isSome = true ∨ (!j.snapNext.isEmpty) = true) ↔ (j.snap.isSome = true ∨ j.snapNext ≠ []) := by
      simp
    rw [ite_cond_congr (propext hsnap)] at hbody
    refine ⟨fun hwait => hbody.trans (congrArg _ (if_pos hwait)), fun hnone hnext => ?_⟩
    have hgo := hbody.trans (congrArg _ (if_neg (by simp [hnone, hnext])))
    exact ⟨hgo, fun v w hgen hmiss hv hvalid hcommit hall =>
      hgo.trans (congrArg _ (startRestore_held hstart hgen rfl hmiss hv hvalid hcommit hall))⟩
  case query =>
    have hstart : jobOf job (startCmd h s) = some j := (jobOf_startCmd ..).trans hj
    have hexec := exec_accepted (c := .mirrorQuery h job) rfl hacc
    refine ⟨fun v w hsent => hexec.trans (congrArg _ (mirrorQueryBody_asks hstart hq hsent)), fun hp => ?_⟩
    have hasks := mirrorQueryBody_asks (h := h) (v := startCmd h s) (w := []) hstart hq (by rw [if_pos hp]; rfl)
    rw [if_pos rfl] at hasks
    obtain ⟨own, src, u, hend, -, hown⟩ := endQuery_completes (jobOf_queryBegun hstart h []) rfl
    refine ⟨u, src, hexec.trans (congrArg _ (hasks.trans ?_))⟩
    rw [hend, hown hp]
    rfl

end Sys2Proof.Machine
end
